-- ==== Sys2Proof/Word.lean ====
section
/-! DEFINITION. The words of the machine and their plainest arithmetic (06, R69: instruction words have 32 bits),
and the records that some events carry. -/

namespace Sys2Proof

/-- A 32-bit word: an instruction word, a lane register or a scalar register (R53, R58). -/
abbrev Word := BitVec 32

/-- The smallest addressable unit of memory (16). -/
abbrev Byte := BitVec 8

/-- The lowest bit of a number, as a flag. -/
def bitOf (n : Nat) : Bool := n % 2 == 1

/-- The kernel's answer to a fault that it declines: the team and the cause (R253). -/
structure Decline where
  team : Nat
  cause : BitVec 8
  deriving DecidableEq, Repr

/-- A sync exchange: the port and the domain that it comes from, and the source's time in nanoseconds (R376); or, where `management`
is set, a time of day that the management port gives (R378). -/
structure SyncExchange where
  port : Nat
  domain : Nat
  source : Nat
  management : Bool
  deriving DecidableEq, Repr

/-- What a boot finds absent (R394, R396), and the masthead kernel's choices for device time: the domain number, the boundary role, PPS in
as phase source, and the port that time is taken from (R376, R378). -/
structure BootFinds where
  noCores : List Nat
  noChannels : List Nat
  noLinks : List Nat
  noBanks : List Nat
  domain : Nat
  boundary : Bool
  phasePps : Bool
  port : Nat
  deriving DecidableEq, Repr

end Sys2Proof
end

