-- ==== Sys2Proof/Config.lean ====
section
/-! DEFINITION. What the spec leaves to the device: free values.  Each is a constant without a body, applied to the counter
`State.tick` (or to what it depends on), so that nothing can be proved of the value it has. -/

namespace Sys2Proof.Config

/-- Which of the steps that are due comes next (R6, R41, R244, R305): the spec fixes no order. -/
opaque freeChoice : Nat → Nat

/-- How many clocks, beyond one, a step takes (R7: times are no promise). -/
opaque freeClocks : Nat → Nat

/-- A choice between two values that a rule allows (R52, R243, R251, R293, R353). -/
opaque freeBool : Nat → Bool

/-- A byte whose value a rule leaves open. -/
opaque freeByte : Nat → Byte

/-- A word whose value a rule leaves open. -/
opaque freeWord : Nat → Word

/-- A number that the device gives: a CREWID or a team slot (R59, R60). -/
opaque freeId : Nat → Nat

/-- How many records of a bin the die holds before the excess spills (R304). -/
opaque recordsOnDie : Nat

end Sys2Proof.Config
end

