-- ==== Sys2Proof/Syntax.lean ====
section
/-! DEFINITION. The instruction and event syntax: one constructor per row of spec/opcode_table.json.

Instructions (06, R72 to R89): `b` is the belay bit [31] of the first word; the other operands are the fields of the
word, without the bits that must be zero.  A lane register field has 7 bits, a scalar field 6, a predicate field 3 and a
cell field 4 (R73).  In the M format `s` holds bits [5:1] of the even base scalar (R76).  A form with an offset word, and
every form with an extension word, has the operands of that word after those of the first.

Events (95_what_each_step_holds.md): the steps of the device that no word encodes.  Their operands say which context,
crew, team, core, unit or operation the event concerns, and what the outside world supplies with it. -/

namespace Sys2Proof

/-- The instructions and the events of the 2604, one constructor per row of the opcode table. -/
inductive Instr where
  /-- ADD (R95). -/
  | add (b : Bool) (d a c : BitVec 7)
  /-- SUB (R95). -/
  | sub (b : Bool) (d a c : BitVec 7)
  /-- MUL (R95). -/
  | mul (b : Bool) (d a c : BitVec 7)
  /-- MULHI (R95). -/
  | mulhi (b : Bool) (d a c : BitVec 7)
  /-- MULHU (R95). -/
  | mulhu (b : Bool) (d a c : BitVec 7)
  /-- IMAD (R95). -/
  | imad (b : Bool) (d a c : BitVec 7)
  /-- MIN (R95). -/
  | min (b : Bool) (d a c : BitVec 7)
  /-- MAX (R95). -/
  | max (b : Bool) (d a c : BitVec 7)
  /-- MINU (R95). -/
  | minu (b : Bool) (d a c : BitVec 7)
  /-- MAXU (R95). -/
  | maxu (b : Bool) (d a c : BitVec 7)
  /-- AND (R95). -/
  | and (b : Bool) (d a c : BitVec 7)
  /-- OR (R95). -/
  | or (b : Bool) (d a c : BitVec 7)
  /-- XOR (R95). -/
  | xor (b : Bool) (d a c : BitVec 7)
  /-- ANDN (R95). -/
  | andn (b : Bool) (d a c : BitVec 7)
  /-- SHL (R96). -/
  | shl (b : Bool) (d a c : BitVec 7)
  /-- SHR (R96). -/
  | shr (b : Bool) (d a c : BitVec 7)
  /-- SAR (R96). -/
  | sar (b : Bool) (d a c : BitVec 7)
  /-- BFX (R96). -/
  | bfx (b : Bool) (d a c : BitVec 7)
  /-- BFXS (R96). -/
  | bfxs (b : Bool) (d a c : BitVec 7)
  /-- BFI (R96). -/
  | bfi (b : Bool) (d a c : BitVec 7)
  /-- POPC (R95). -/
  | popc (b : Bool) (d a : BitVec 7)
  /-- CLZ (R95). -/
  | clz (b : Bool) (d a : BitVec 7)
  /-- ADD64 (R97). -/
  | add64 (b : Bool) (d a c : BitVec 7)
  /-- SUB64 (R97). -/
  | sub64 (b : Bool) (d a c : BitVec 7)
  /-- ADDI (R98). -/
  | addi (b : Bool) (d a : BitVec 7) (imm : BitVec 11)
  /-- ANDI (R98). -/
  | andi (b : Bool) (d a : BitVec 7) (imm : BitVec 11)
  /-- ORI (R98). -/
  | ori (b : Bool) (d a : BitVec 7) (imm : BitVec 11)
  /-- XORI (R98). -/
  | xori (b : Bool) (d a : BitVec 7) (imm : BitVec 11)
  /-- SHLI (R98). -/
  | shli (b : Bool) (d a : BitVec 7) (n : BitVec 5)
  /-- SHRI (R98). -/
  | shri (b : Bool) (d a : BitVec 7) (n : BitVec 5)
  /-- SARI (R98). -/
  | sari (b : Bool) (d a : BitVec 7) (n : BitVec 5)
  /-- MOVI (R98). -/
  | movi (b : Bool) (d : BitVec 7) (imm : BitVec 18)
  /-- CMPI (R99). -/
  | cmpi (b : Bool) (cc : BitVec 4) (p : BitVec 3) (a : BitVec 7) (imm : BitVec 11)
  /-- CMP (R99). -/
  | cmp (b : Bool) (cc : BitVec 4) (p : BitVec 3) (a c : BitVec 7)
  /-- FADD (R101). -/
  | fadd (b : Bool) (d a c : BitVec 7)
  /-- FSUB (R101). -/
  | fsub (b : Bool) (d a c : BitVec 7)
  /-- FMUL (R101). -/
  | fmul (b : Bool) (d a c : BitVec 7)
  /-- FFMA (R101). -/
  | ffma (b : Bool) (d a c : BitVec 7)
  /-- FMIN (R102). -/
  | fmin (b : Bool) (d a c : BitVec 7)
  /-- FMAX (R102). -/
  | fmax (b : Bool) (d a c : BitVec 7)
  /-- FABS (R101). -/
  | fabs (b : Bool) (d a : BitVec 7)
  /-- FNEG (R101). -/
  | fneg (b : Bool) (d a : BitVec 7)
  /-- PADD (R104). -/
  | padd (b bf : Bool) (d a c : BitVec 7)
  /-- PSUB (R104). -/
  | psub (b bf : Bool) (d a c : BitVec 7)
  /-- PMUL (R104). -/
  | pmul (b bf : Bool) (d a c : BitVec 7)
  /-- PFMA (R104). -/
  | pfma (b bf : Bool) (d a c : BitVec 7)
  /-- PMIN (R104). -/
  | pmin (b bf : Bool) (d a c : BitVec 7)
  /-- PMAX (R104). -/
  | pmax (b bf : Bool) (d a c : BitVec 7)
  /-- FCMP (R103). -/
  | fcmp (b : Bool) (cc : BitVec 4) (p : BitVec 3) (a c : BitVec 7)
  /-- RCP (R105). -/
  | rcp (b : Bool) (d a : BitVec 7)
  /-- RSQ (R105). -/
  | rsq (b : Bool) (d a : BitVec 7)
  /-- SQRT (R105). -/
  | sqrt (b : Bool) (d a : BitVec 7)
  /-- EX2 (R105). -/
  | ex2 (b : Bool) (d a : BitVec 7)
  /-- LG2 (R105). -/
  | lg2 (b : Bool) (d a : BitVec 7)
  /-- SIN (R105). -/
  | sin (b : Bool) (d a : BitVec 7)
  /-- COS (R105). -/
  | cos (b : Bool) (d a : BitVec 7)
  /-- FDIV (R105). -/
  | fdiv (b : Bool) (d a c : BitVec 7)
  /-- CVT (R108). -/
  | cvt (b : Bool) (dst : BitVec 4) (d a : BitVec 7) (rnd : BitVec 2) (sat : Bool) (src : BitVec 4)
  /-- SHFL (R109). -/
  | shfl (b : Bool) (d a c : BitVec 7)
  /-- SHFLUP (R109). -/
  | shflup (b : Bool) (d a : BitVec 7) (n : BitVec 5)
  /-- SHFLDN (R109). -/
  | shfldn (b : Bool) (d a : BitVec 7) (n : BitVec 5)
  /-- SHFLX (R109). -/
  | shflx (b : Bool) (d a : BitVec 7) (n : BitVec 5)
  /-- BCAST (R110). -/
  | bcast (b : Bool) (d a : BitVec 7) (m : BitVec 2)
  /-- REDA (R111). -/
  | reda (b : Bool) (d a : BitVec 7) (o : BitVec 3)
  /-- FREDA (R111). -/
  | freda (b : Bool) (d a : BitVec 7) (o : BitVec 2)
  /-- SCANA (R112). -/
  | scana (b : Bool) (d a : BitVec 7) (o : BitVec 3) (ex : Bool)
  /-- FSCANA (R112). -/
  | fscana (b : Bool) (d a : BitVec 7) (o : BitVec 2) (ex : Bool)
  /-- VANY (R113). -/
  | vany (b : Bool) (d : BitVec 6) (p : BitVec 3)
  /-- VALL (R113). -/
  | vall (b : Bool) (d : BitVec 6) (p : BitVec 3)
  /-- BALLOT (R113). -/
  | ballot (b : Bool) (d : BitVec 6) (p : BitVec 3) (j : BitVec 5)
  /-- PAND (R114). -/
  | pand (b : Bool) (d a c : BitVec 3)
  /-- POR (R114). -/
  | por (b : Bool) (d a c : BitVec 3)
  /-- PXOR (R114). -/
  | pxor (b : Bool) (d a c : BitVec 3)
  /-- PNOT (R114). -/
  | pnot (b : Bool) (d a : BitVec 3)
  /-- PSET (R114). -/
  | pset (b : Bool) (d : BitVec 3) (a : BitVec 7)
  /-- SADD (R115). -/
  | sadd (b : Bool) (d a c : BitVec 6)
  /-- SSUB (R115). -/
  | ssub (b : Bool) (d a c : BitVec 6)
  /-- SMUL (R115). -/
  | smul (b : Bool) (d a c : BitVec 6)
  /-- SAND (R115). -/
  | sand (b : Bool) (d a c : BitVec 6)
  /-- SOR (R115). -/
  | sor (b : Bool) (d a c : BitVec 6)
  /-- SXOR (R115). -/
  | sxor (b : Bool) (d a c : BitVec 6)
  /-- SSHL (R115). -/
  | sshl (b : Bool) (d a c : BitVec 6)
  /-- SSHR (R115). -/
  | sshr (b : Bool) (d a c : BitVec 6)
  /-- SSAR (R115). -/
  | ssar (b : Bool) (d a c : BitVec 6)
  /-- SCMP (R115). -/
  | scmp (b : Bool) (a c : BitVec 6)
  /-- SMOV (R115). -/
  | smov (b : Bool) (d a : BitVec 6)
  /-- SADD64 (R115). -/
  | sadd64 (b : Bool) (d a c : BitVec 6)
  /-- SADDI (R116). -/
  | saddi (b : Bool) (d a : BitVec 6) (imm : BitVec 10)
  /-- SANDI (R116). -/
  | sandi (b : Bool) (d a : BitVec 6) (imm : BitVec 10)
  /-- SORI (R116). -/
  | sori (b : Bool) (d a : BitVec 6) (imm : BitVec 10)
  /-- SXORI (R116). -/
  | sxori (b : Bool) (d a : BitVec 6) (imm : BitVec 10)
  /-- SSHLI (R116). -/
  | sshli (b : Bool) (d a : BitVec 6) (n : BitVec 5)
  /-- SSHRI (R116). -/
  | sshri (b : Bool) (d a : BitVec 6) (n : BitVec 5)
  /-- SSARI (R116). -/
  | ssari (b : Bool) (d a : BitVec 6) (n : BitVec 5)
  /-- SMOVI (R116). -/
  | smovi (b : Bool) (d : BitVec 6) (imm : BitVec 16)
  /-- SCMPI (R116). -/
  | scmpi (b : Bool) (a : BitVec 6) (imm : BitVec 10)
  /-- MOVX_S (R85). -/
  | movxS (b : Bool) (d : BitVec 6) (imm : BitVec 32)
  /-- MOVX (R85). -/
  | movx (b : Bool) (d : BitVec 7) (imm : BitVec 32)
  /-- SREAD_LANE (R117). -/
  | sreadLane (b : Bool) (d : BitVec 7) (i : BitVec 6)
  /-- SREAD_SCALAR (R117). -/
  | sreadScalar (b : Bool) (d i : BitVec 6)
  /-- SWRITE_LANE (R117). -/
  | swriteLane (b : Bool) (i : BitVec 6) (c : BitVec 7)
  /-- SWRITE_SCALAR (R117). -/
  | swriteScalar (b : Bool) (i c : BitVec 6)
  /-- WBASE (R56). -/
  | wbase (b : Bool) (k : BitVec 7)
  /-- TPRI (R118). -/
  | tpri (b : Bool) (n : BitVec 4)
  /-- BRA (R120). -/
  | bra (b : Bool) (cc : BitVec 4) (disp : BitVec 21)
  /-- CALL (R120). -/
  | call (b : Bool) (cc : BitVec 4) (disp : BitVec 21)
  /-- RET (R121). -/
  | ret (b : Bool)
  /-- JMPI (R121). -/
  | jmpi (b : Bool) (a : BitVec 6)
  /-- CALLX (R48). -/
  | callx (b : Bool) (a : BitVec 7)
  /-- EXIT (R29). -/
  | exit (b : Bool)
  /-- NOP (R121). -/
  | nop (b : Bool)
  /-- BAR (R30). -/
  | bar (b : Bool) (n : BitVec 4)
  /-- BAR_C (R30). -/
  | barC (b : Bool) (k : BitVec 7) (n : BitVec 4)
  /-- BAR_X (R30). -/
  | barX (b : Bool) (n : BitVec 4)
  /-- BAR_X_C (R30). -/
  | barXC (b : Bool) (k : BitVec 7) (n : BitVec 4)
  /-- IF (R46). -/
  | ifMask (b : Bool) (p : BitVec 3)
  /-- ELSE (R46). -/
  | elseMask (b : Bool)
  /-- ENDIF (R46). -/
  | endIf (b : Bool)
  /-- LOOP (R46). -/
  | loop (b : Bool)
  /-- BREAK (R46). -/
  | breakMask (b : Bool) (p : BitVec 3)
  /-- CONT (R46). -/
  | contMask (b : Bool) (p : BitVec 3)
  /-- ENDLOOP (R46). -/
  | endLoop (b : Bool)
  /-- LD (R264). -/
  | ld (b : Bool) (q : BitVec 2) (t : BitVec 3) (d a : BitVec 7) (s : BitVec 5)
  /-- LD_OFFSET (R264). -/
  | ldOffset (b : Bool) (q : BitVec 2) (t : BitVec 3) (d a : BitVec 7) (s : BitVec 5) (off : BitVec 32)
  /-- ST (R265). -/
  | st (b : Bool) (q : BitVec 2) (t : BitVec 3) (d a : BitVec 7) (s : BitVec 5)
  /-- ST_OFFSET (R265). -/
  | stOffset (b : Bool) (q : BitVec 2) (t : BitVec 3) (d a : BitVec 7) (s : BitVec 5) (off : BitVec 32)
  /-- LDP (R267). -/
  | ldp (b : Bool) (w : BitVec 3) (d a : BitVec 7) (t : BitVec 3) (r : Bool)
  /-- LDP_OFFSET (R267). -/
  | ldpOffset (b : Bool) (w : BitVec 3) (d a : BitVec 7) (t : BitVec 3) (r : Bool) (off : BitVec 32)
  /-- STP (R267). -/
  | stp (b : Bool) (w : BitVec 3) (d a : BitVec 7) (t : BitVec 3) (r : Bool)
  /-- STP_OFFSET (R267). -/
  | stpOffset (b : Bool) (w : BitVec 3) (d a : BitVec 7) (t : BitVec 3) (r : Bool) (off : BitVec 32)
  /-- LDA (R266). -/
  | lda (b : Bool) (q : BitVec 2) (t : BitVec 3) (d a : BitVec 7) (s : BitVec 5)
  /-- LDA_OFFSET (R266). -/
  | ldaOffset (b : Bool) (q : BitVec 2) (t : BitVec 3) (d a : BitVec 7) (s : BitVec 5) (off : BitVec 32)
  /-- ATOM (R270). -/
  | atom (b : Bool) (q : BitVec 2) (d a : BitVec 7) (s : BitVec 5) (op : BitVec 4) (w nr : Bool) (c : BitVec 7)
  /-- SLD (R268). -/
  | sld (b : Bool) (q w : BitVec 2) (d : BitVec 6) (s : BitVec 5)
  /-- SLD_OFFSET (R268). -/
  | sldOffset (b : Bool) (q w : BitVec 2) (d : BitVec 6) (s : BitVec 5) (off : BitVec 32)
  /-- SST (R268). -/
  | sst (b : Bool) (q w : BitVec 2) (d : BitVec 6) (s : BitVec 5)
  /-- SST_OFFSET (R268). -/
  | sstOffset (b : Bool) (q w : BitVec 2) (d : BitVec 6) (s : BitVec 5) (off : BitVec 32)
  /-- FENCE (R273). -/
  | fence (b : Bool) (sc : BitVec 3)
  /-- BATCH (R68). -/
  | batch (b : Bool) (d : BitVec 6)
  /-- WAITB (R275). -/
  | waitb (b : Bool) (a : BitVec 6)
  /-- COMMIT (R275). -/
  | commit (b : Bool) (a : BitVec 6)
  /-- WAITV (R276). -/
  | waitv (b : Bool) (a c : BitVec 6)
  /-- PREF (R277). -/
  | pref (b l : Bool) (a : BitVec 7) (c : BitVec 6)
  /-- FENCE_SMP (R240). -/
  | fenceSmp (b : Bool) (sc : BitVec 3)
  /-- FENCE_MX (R274). -/
  | fenceMx (b : Bool) (sc : BitVec 3)
  /-- CPY (R222). -/
  | cpy (b : Bool) (d a c : BitVec 6) (dir ord : Bool) (sw : BitVec 3)
  /-- CPY2D (R222). -/
  | cpy2d (b : Bool) (d a c : BitVec 6) (dir ord : Bool) (sw : BitVec 3)
  /-- CPY_T (R223). -/
  | cpyT (b : Bool) (d a c : BitVec 6) (dir ord : Bool) (sw : BitVec 3)
  /-- CPY_FOLLOW_MMA (R88). -/
  | cpyFollowMma (b b2 : Bool) (kind : BitVec 2) (d a c : BitVec 6) (ord : Bool) (sw : BitVec 3) (sp : Bool) (md ma mc : BitVec 7) (da db : Bool) (kg : BitVec 6) (fbr : BitVec 15)
  /-- PUT (R281). -/
  | put (b : Bool) (d a c win : BitVec 6) (tc ord : Bool) (dev : BitVec 22)
  /-- GET (R281). -/
  | get (b : Bool) (d a c win : BitVec 6) (tc ord : Bool) (dev : BitVec 22)
  /-- PSIG (R281). -/
  | psig (b : Bool) (d a c win : BitVec 6) (tc ord : Bool) (dev : BitVec 22)
  /-- SMP (R279). -/
  | smp (b : Bool) (d a : BitVec 7) (n : BitVec 3) (k : BitVec 4)
  /-- SMP_L (R279). -/
  | smpL (b : Bool) (d a : BitVec 7) (n : BitVec 3) (k : BitVec 4)
  /-- SMP_G (R239). -/
  | smpG (b : Bool) (d a : BitVec 7) (c : BitVec 6)
  /-- ATTRF (R167). -/
  | attrf (b : Bool) (d a : BitVec 7) (c : BitVec 6)
  /-- ATTRB (R167). -/
  | attrb (b : Bool) (d a : BitVec 7) (c : BitVec 6)
  /-- CNV_LIN (R132). -/
  | cnvLin (b : Bool) (d : BitVec 4) (a : BitVec 6)
  /-- CNV_QUAD (R132). -/
  | cnvQuad (b : Bool) (d : BitVec 4) (a : BitVec 6)
  /-- CNV_EXPQ (R133). -/
  | cnvExpq (b : Bool) (d : BitVec 4) (a : BitVec 6)
  /-- CNV_LIN_K (R150). -/
  | cnvLinK (b : Bool) (d : BitVec 4) (a : BitVec 6) (imm : BitVec 32)
  /-- CNV_QUAD_K (R150). -/
  | cnvQuadK (b : Bool) (d : BitVec 4) (a : BitVec 6) (imm : BitVec 32)
  /-- CNV_EXPQ_K (R150). -/
  | cnvExpqK (b : Bool) (d : BitVec 4) (a : BitVec 6) (imm : BitVec 32)
  /-- CNV_ADD (R152). -/
  | cnvAdd (b : Bool) (d a c : BitVec 4)
  /-- CNV_SUB (R152). -/
  | cnvSub (b : Bool) (d a c : BitVec 4)
  /-- CNV_MUL (R152). -/
  | cnvMul (b : Bool) (d a c : BitVec 4)
  /-- CNV_FMA (R152). -/
  | cnvFma (b : Bool) (d a c : BitVec 4)
  /-- CNV_MIN (R152). -/
  | cnvMin (b : Bool) (d a c : BitVec 4)
  /-- CNV_MAX (R152). -/
  | cnvMax (b : Bool) (d a c : BitVec 4)
  /-- CNV_MOV (R153). -/
  | cnvMov (b : Bool) (d a : BitVec 4)
  /-- CNV_MOV_SCALAR (R153). -/
  | cnvMovScalar (b : Bool) (d : BitVec 4) (a : BitVec 6)
  /-- CNV_SFN (R154). -/
  | cnvSfn (b : Bool) (d a : BitVec 4) (f : BitVec 3)
  /-- CNV_CMP (R155). -/
  | cnvCmp (b : Bool) (d : BitVec 4) (k : BitVec 3) (a c : BitVec 4) (t : BitVec 2)
  /-- CNV_BLEND (R126). -/
  | cnvBlend (b : Bool) (d a : BitVec 4) (c : BitVec 6)
  /-- CNV_ZTEST (R156). -/
  | cnvZtest (b : Bool) (a : BitVec 4) (c : BitVec 6)
  /-- CNV_VIS (R157). -/
  | cnvVis (b : Bool) (d : BitVec 4) (m : BitVec 2)
  /-- CNV_CLR (R153). -/
  | cnvClr (b : Bool) (d : BitVec 4)
  /-- CNV_CLR_ONES (R153). -/
  | cnvClrOnes (b : Bool) (d : BitVec 4)
  /-- CNV_CLR_VIS (R153). -/
  | cnvClrVis (b : Bool)
  /-- CNV_PUSH (R136). -/
  | cnvPush (b : Bool) (k : BitVec 3) (a : BitVec 4) (c : BitVec 6)
  /-- CNV_ELSE (R136). -/
  | cnvElse (b : Bool)
  /-- CNV_POP (R136). -/
  | cnvPop (b : Bool)
  /-- CNV_ALL (R136). -/
  | cnvAll (b : Bool)
  /-- CNV_WIN (R136). -/
  | cnvWin (b : Bool) (a : BitVec 6)
  /-- CNV_MAC (R135). -/
  | cnvMac (b : Bool) (d a : BitVec 4) (c : BitVec 6)
  /-- CNV_MAC_K (R135). -/
  | cnvMacK (b : Bool) (d a : BitVec 4) (imm : BitVec 32)
  /-- CNV_RDL (R140). -/
  | cnvRdl (b : Bool) (d : BitVec 7) (a : BitVec 4) (c : BitVec 6)
  /-- CNV_WRL (R140). -/
  | cnvWrl (b : Bool) (d : BitVec 4) (a : BitVec 7) (c : BitVec 6)
  /-- CNV_LOAD (R162). -/
  | cnvLoad (b : Bool) (d : BitVec 4) (a : BitVec 6)
  /-- CNV_STORE (R162). -/
  | cnvStore (b : Bool) (d : BitVec 4) (a : BitVec 6)
  /-- CNV_RDL_A (R161). -/
  | cnvRdlA (b : Bool) (d : BitVec 7) (a : BitVec 4) (c : BitVec 6)
  /-- CNV_XSUM (R129). -/
  | cnvXsum (b : Bool) (d : BitVec 6)
  /-- CNV_XMAP (R129). -/
  | cnvXmap (b : Bool) (d : BitVec 7) (a : BitVec 6) (m : BitVec 5)
  /-- CNV_XCLR (R164). -/
  | cnvXclr (b : Bool) (m : BitVec 5)
  /-- CNV_SYNC (R127). -/
  | cnvSync (b : Bool)
  /-- CNV_ORG (R131). -/
  | cnvOrg (b : Bool) (a c : BitVec 6)
  /-- MMA (R228). -/
  | mma (b : Bool) (d a c : BitVec 7) (da db : Bool) (kg : BitVec 6) (fbr : BitVec 15)
  /-- MMA_SP (R228). -/
  | mmaSp (b : Bool) (d a c : BitVec 7) (da db : Bool) (kg : BitVec 6) (fbr : BitVec 15)
  /-- ACC_CLR (R232). -/
  | accClr (b : Bool) (a : BitVec 6)
  /-- ACC_PROM (R232). -/
  | accProm (b : Bool) (d a c : BitVec 6)
  /-- ACC_LD (R233). -/
  | accLd (b : Bool) (d a : BitVec 6)
  /-- ACC_ST (R233). -/
  | accSt (b : Bool) (d a : BitVec 6) (f : BitVec 3) (sat : Bool)
  /-- NETV (R171). -/
  | netv (b : Bool) (d a : BitVec 7) (c : BitVec 6)
  /-- NETS (R234). -/
  | nets (b : Bool) (d a : BitVec 7) (c : BitVec 6)
  /-- TAG_RD (R236). -/
  | tagRd (b : Bool) (d a : BitVec 6) (r : Bool)
  /-- TAG_WR (R236). -/
  | tagWr (b : Bool) (a c : BitVec 6)
  /-- TAG_CHK (R236). -/
  | tagChk (b : Bool) (d a c : BitVec 6)
  /-- TILE_HDR (R237). -/
  | tileHdr (b : Bool) (d a : BitVec 6)
  /-- REC_PUSH (R309). -/
  | recPush (b : Bool) (a c : BitVec 7)
  /-- REC_TRY (R340). -/
  | recTry (b : Bool) (d : BitVec 6) (a c : BitVec 7)
  /-- NODE_DONE (R341). -/
  | nodeDone (b : Bool) (a : BitVec 6)
  /-- CANCEL (R342). -/
  | cancel (b : Bool) (a : BitVec 6)
  /-- QPASS (R298). -/
  | qpass (b : Bool)
  /-- RSEC_IN (R298). -/
  | rsecIn (b : Bool)
  /-- RSEC_OUT (R298). -/
  | rsecOut (b : Bool)
  /-- GRACE (R298). -/
  | grace (b : Bool)
  /-- DEFER (R298). -/
  | defer (b : Bool) (a c : BitVec 6)
  /-- FRAME_REL (R344). -/
  | frameRel (b e : Bool) (a c : BitVec 6)
  /-- BANK_OPEN (R356). -/
  | bankOpen (b : Bool)
  /-- BANK_DOT (R357). -/
  | bankDot (b : Bool) (f : BitVec 2) (l : Bool) (a c : BitVec 6)
  /-- BANK_AXPY (R364). -/
  | bankAxpy (b : Bool) (f : BitVec 2) (l : Bool) (a c : BitVec 6)
  /-- BANK_SCAL (R364). -/
  | bankScal (b : Bool) (f : BitVec 2) (l : Bool) (a c : BitVec 6)
  /-- BANK_SUM (R364). -/
  | bankSum (b : Bool) (f : BitVec 2) (l : Bool) (a c : BitVec 6)
  /-- BANK_MAX (R364). -/
  | bankMax (b : Bool) (f : BitVec 2) (l : Bool) (a c : BitVec 6)
  /-- BANK_FILL (R364). -/
  | bankFill (b : Bool) (f : BitVec 2) (l : Bool) (a c : BitVec 6)
  /-- BANK_COPY (R364). -/
  | bankCopy (b : Bool) (f : BitVec 2) (l : Bool) (a c : BitVec 6)
  /-- BANK_CLOSE (R356). -/
  | bankClose (b w : Bool)
  /-- BANK_WAIT (R356). -/
  | bankWait (b : Bool)
  /-- BANK_ERR (R359). -/
  | bankErr (b : Bool) (d a c : BitVec 6)
  /-- RING_RED (R346). -/
  | ringRed (b : Bool) (a : BitVec 6)
  /-- RING_WAIT (R347). -/
  | ringWait (b : Bool) (a c : BitVec 6)
  /-- TRAP (R348). -/
  | trap (b : Bool) (k : BitVec 7) (c : BitVec 6)
  /-- RTT (R329). -/
  | rtt (b : Bool)
  /-- BKPT (R349). -/
  | bkpt (b : Bool) (k : BitVec 14)
  /-- HALT (R351). -/
  | halt (b : Bool)
  /-- CTXRD (R352). -/
  | ctxrd (b : Bool) (d i : BitVec 6)
  /-- CTXWR (R353). -/
  | ctxwr (b : Bool) (i c : BitVec 6)
  /-- WDOG (R354). -/
  | wdog (b : Bool)
  /-- Event PUSH (R308). -/
  | push (ctx off : Nat) (bytes : List (BitVec 8))
  /-- Event REGISTER_WRITE (R307). -/
  | registerWrite (ctx off : Nat) (bytes : List (BitVec 8))
  /-- Event NODE_LAUNCH (R35). -/
  | nodeLaunch (core ctx node : Nat)
  /-- Event LAUNCH_TIMER (R306). -/
  | launchTimer (ctx node : Nat)
  /-- Event CREW_END (R311). -/
  | crewEnd (crew : Nat)
  /-- Event QUIESCENCE_REPORT (R312). -/
  | quiescenceReport (ctx job : Nat)
  /-- Event BARRIER_WATCHDOG_EXPIRY (R31). -/
  | barrierWatchdogExpiry (crew : Nat)
  /-- Event TERMINATION_RECORD (R330). -/
  | terminationRecord (ctx : Nat)
  /-- Event TERMINATE_ON_REQUEST (R325). -/
  | terminateOnRequest (ctx : Nat)
  /-- Event TEAM_WATCHDOG_EXPIRY (R334). -/
  | teamWatchdogExpiry (team : Nat)
  /-- Event ISSUE_PRIORITY_AGEING (R49). -/
  | issuePriorityAgeing (team slot : Nat)
  /-- Event PREEMPTION_REQUEST (R332). -/
  | preemptionRequest (ctx : Nat)
  /-- Event PREEMPTION_HALT (R333). -/
  | preemptionHalt (ctx : Nat)
  /-- Event CONTEXT_SAVE (R335). -/
  | contextSave (ctx : Nat)
  /-- Event CONTEXT_RESTORE (R336). -/
  | contextRestore (ctx : Nat)
  /-- Event CONTEXT_RESUME (R336). -/
  | contextResume (ctx : Nat)
  /-- Event CONTEXT_CREATE (R397). -/
  | contextCreate (ctx : Nat) (desc : List (BitVec 8)) (cregs : List (BitVec 64)) (cores : List Nat)
  /-- Event CONTEXT_DESTROY (R397). -/
  | contextDestroy (ctx : Nat)
  /-- Event RIG_IMAGE_LOAD (R393). -/
  | rigImageLoad (ctx : Nat) (image : List (BitVec 8)) (bases : List Nat) (csets : List (List Nat))
  /-- Event WEIGHT_STORE_WRITE (R218). -/
  | weightStoreWrite (ctx off : Nat) (bytes : List (BitVec 8))
  /-- Event WINDOW_REGISTER (R371). -/
  | windowRegister (ctx win dev base size : Nat) (allowPut allowGet : Bool)
  /-- Event WINDOW_REVOKE (R371). -/
  | windowRevoke (ctx win : Nat)
  /-- Event HOST_CANCEL (R316). -/
  | hostCancel (ctx job : Nat)
  /-- Event FAULT_RESOLVED (R252). -/
  | faultResolved (team : Nat)
  /-- Event FAULT_DECLINED (R253). -/
  | faultDeclined (answer : Decline)
  /-- Event TLB_SHOOTDOWN (R251). -/
  | tlbShootdown (ctx pa : Nat) (entry : BitVec 64) (page : List (BitVec 8))
  /-- Event PAGE_WALK (R250). -/
  | pageWalk (core ctx va : Nat)
  /-- Event DEBUG_BREAKPOINT_SET (R349). -/
  | debugBreakpointSet (ctx slot : Nat) (addr : Option (BitVec 57))
  /-- Event DEBUG_HALT (R41). -/
  | debugHalt (team : Nat)
  /-- Event TEAM_RESUME (R351). -/
  | teamResume (team : Nat)
  /-- Event WRITE_COMBINING_DRAIN (R244). -/
  | writeCombiningDrain (core line : Nat)
  /-- Event LOAD_RETURN (R51). -/
  | loadReturn (team k : Nat)
  /-- Event ATOMIC_EXECUTE (R270). -/
  | atomicExecute (team : Nat)
  /-- Event SAMPLER_FILL (R238). -/
  | samplerFill (core line : Nat)
  /-- Event WAIT_TABLE_NOTIFY (R255). -/
  | waitTableNotify (core line : Nat)
  /-- Event WAITV_POLL (R256). -/
  | waitvPoll (team : Nat)
  /-- Event CORE_CLOCK_GATE (R257). -/
  | coreClockGate (core : Nat)
  /-- Event CANVAS_EXECUTE (R127). -/
  | canvasExecute (crew : Nat)
  /-- Event MATRIX_ARRAY_GROUP (R23). -/
  | matrixArrayGroup (core : Nat)
  /-- Event ACC_COMPLETE (R229). -/
  | accComplete (op : Nat)
  /-- Event COPY_COMPLETE (R224). -/
  | copyComplete (op : Nat)
  /-- Event FOLLOW_MMA_ISSUE (R206). -/
  | followMmaIssue (op : Nat)
  /-- Event LDA_LAND (R266). -/
  | ldaLand (op lane : Nat)
  /-- Event PUT_COMPLETE (R281). -/
  | putComplete (op : Nat)
  /-- Event GET_COMPLETE (R281). -/
  | getComplete (op : Nat) (bytes : List (BitVec 8))
  /-- Event PSIG_COMPLETE (R281). -/
  | psigComplete (op : Nat)
  /-- Event REMOTE_ACCESS (R371). -/
  | remoteAccess (ctx kind va : Nat) (bytes : List (BitVec 8))
  /-- Event RING_CHUNK_WRITTEN (R346). -/
  | ringChunkWritten (op chunk : Nat) (bytes : List (BitVec 8))
  /-- Event RING_COMPLETE (R346). -/
  | ringComplete (op : Nat)
  /-- Event BANK_COMMAND_FINISH (R364). -/
  | bankCommandFinish (unit : Nat)
  /-- Event BANK_ROUND_ACK (R368). -/
  | bankRoundAck (team : Nat)
  /-- Event BANK_AGEING (R366). -/
  | bankAgeing (unit : Nat)
  /-- Event BANK_REFRESH (R358). -/
  | bankRefresh (unit bank : Nat)
  /-- Event WEIGHT_STORE_REFRESH_SLOT (R217). -/
  | weightStoreRefreshSlot
  /-- Event GRACE_COMPLETE (R296). -/
  | graceComplete (ctx : Nat)
  /-- Event TRIM_GOVERNOR_TICK (R314). -/
  | trimGovernorTick
  /-- Event REEF_GOVERNOR_TICK (R319). -/
  | reefGovernorTick
  /-- Event FRAME_RELEASE (R321). -/
  | frameRelease (ctx : Nat)
  /-- Event FSYNC_PULSE_END (R321). -/
  | fsyncPulseEnd
  /-- Event PPS_OUTPUT_EDGE (R378). -/
  | ppsOutputEdge
  /-- Event PPS_PULSE_END (R378). -/
  | ppsPulseEnd
  /-- Event PPS_INPUT_EDGE (R378). -/
  | ppsInputEdge
  /-- Event FSYNC_INPUT_EDGE (R378). -/
  | fsyncInputEdge
  /-- Event SYNC_MESSAGE (R376). -/
  | syncMessage (m : SyncExchange)
  /-- Event SYNC_TIMEOUT (R376). -/
  | syncTimeout
  /-- Event HOLDOVER_TIMEOUT (R376). -/
  | holdoverTimeout
  /-- Event LINK_FAILURE (R370). -/
  | linkFailure (port : Nat)
  /-- Event ROUTE_TABLE_WRITE (R370). -/
  | routeTableWrite (dev port : Nat) (direct : Bool)
  /-- Event INJECTION_ARM (R398). -/
  | injectionArm (col : Nat)
  /-- Event ATTESTATION_REPORT (R399). -/
  | attestationReport (nonce : List (BitVec 8))
  /-- Event POWER_CAP_SET (R400). -/
  | powerCapSet (watts : Nat)
  /-- Event POWER_ARBITER_TICK (R400). -/
  | powerArbiterTick (draw : Nat)
  /-- Event COOLANT_LOSS (R401). -/
  | coolantLoss
  /-- Event PACKAGE_RESET (R394). -/
  | packageReset (bootsel : Bool) (codes : List Nat) (devid : Nat) (boot : BootFinds)
  /-- Event ILLEGAL_INSTRUCTION (R90). -/
  | illegalInstruction (w0 w1 : BitVec 32)
  /-- Event SAMPLER_DROP_COMPLETE (R240). -/
  | samplerDropComplete (team : Nat)
  /-- Event CTXWR_PROPAGATED (R353). -/
  | ctxwrPropagated (ctx : Nat)
  /-- Event CANCEL_DROP (R316). -/
  | cancelDrop (ctx job node : Nat)
  /-- Event SC_STORE_PERFORMED (R265). -/
  | scStorePerformed (team : Nat)
  /-- Event PARTIAL_SEGMENT (R374). -/
  | partialSegment (op chunk seg : Nat) (bytes : List (BitVec 8))
  /-- Event FORWARDED_FLIT (R370). -/
  | forwardedFlit (port dest : Nat) (flit : List (BitVec 8))
  /-- Event FLIT_CRC_FAILURE (R370). -/
  | flitCrcFailure (port : Nat)
  /-- Event LINK_RETRAIN (R373). -/
  | linkRetrain (port : Nat)
  /-- Event HOST_MEMORY_WRITE (R308). -/
  | hostMemoryWrite (ctx va : Nat) (bytes : List (BitVec 8))
  deriving DecidableEq, Repr

end Sys2Proof
end

