-- ==== Sys2Proof/WellFormed.lean ====
section
/-! DEFINITION. Which instructions are well formed (06, R73, R74, R79 to R90): the operand rules that a word of the right
layout can still break.  A word whose instruction breaks one raises cause 0x01 (R90).  An event is no word and has no
such rule. -/

namespace Sys2Proof

/-- Why a word is no instruction (06, R90). -/
inductive Reject where
  /-- A major that R82 marks illegal or reserved. -/
  | illegalMajor
  /-- A SUB, SOP or shift kind that R75 or R83 does not assign. -/
  | reservedSub
  /-- A bit set in a field that must be zero (R73, R84). -/
  | reservedField
  /-- A reserved code: COND, compare code, type, Q, T, scope, or a code of an extension word (R90). -/
  | reservedCode
  /-- An odd register named as a pair (R73). -/
  | oddPair
  /-- A field that names registers past the last one, or past the limit of its form (R58, R86, R87, R89). -/
  | registerRange
  /-- A CPY with FOLLOW that no legal MMA follows (R88). -/
  | badFollow
  deriving DecidableEq, Repr

/-- A register field that can name a pair: its number is even (R73). -/
abbrev even {w : Nat} (n : BitVec w) : Prop := n.toNat % 2 = 0

/-- The special registers of 64 bits (R59): CLOCK, DTIME, TRAPPC and TRAPADDR. -/
abbrev wideSpecial (i : Nat) : Prop := i = 7 ∨ i = 8 ∨ i = 14 ∨ i = 15

/-- The causes that TRAP may name (R348). -/
abbrev trapCodeAllowed (k : Nat) : Prop :=
  (1 ≤ k ∧ k ≤ 10) ∨ (13 ≤ k ∧ k ≤ 20) ∨ (32 ≤ k ∧ k ≤ 34) ∨ k = 36 ∨ k = 37

/-- The first operand rule that the instruction breaks, if it breaks one. -/
def Instr.violation (i : Instr) : Option Reject :=
  match i with
  | .add _ _ _ _ => none
  | .sub _ _ _ _ => none
  | .mul _ _ _ _ => none
  | .mulhi _ _ _ _ => none
  | .mulhu _ _ _ _ => none
  | .imad _ _ _ _ => none
  | .min _ _ _ _ => none
  | .max _ _ _ _ => none
  | .minu _ _ _ _ => none
  | .maxu _ _ _ _ => none
  | .and _ _ _ _ => none
  | .or _ _ _ _ => none
  | .xor _ _ _ _ => none
  | .andn _ _ _ _ => none
  | .shl _ _ _ _ => none
  | .shr _ _ _ _ => none
  | .sar _ _ _ _ => none
  | .bfx _ _ _ _ => none
  | .bfxs _ _ _ _ => none
  | .bfi _ _ _ _ => none
  | .popc _ _ _ => none
  | .clz _ _ _ => none
  | .add64 _ d a c =>
      if ¬ (even d) then some .oddPair
      else if ¬ (even a) then some .oddPair
      else if ¬ (even c) then some .oddPair else none
  | .sub64 _ d a c =>
      if ¬ (even d) then some .oddPair
      else if ¬ (even a) then some .oddPair
      else if ¬ (even c) then some .oddPair else none
  | .addi _ _ _ _ => none
  | .andi _ _ _ _ => none
  | .ori _ _ _ _ => none
  | .xori _ _ _ _ => none
  | .shli _ _ _ _ => none
  | .shri _ _ _ _ => none
  | .sari _ _ _ _ => none
  | .movi _ _ _ => none
  | .cmpi _ cc p _ _ =>
      if ¬ (cc.toNat ≤ 9) then some .reservedCode
      else if ¬ (p ≠ 0) then some .reservedCode else none
  | .cmp _ cc p _ _ =>
      if ¬ (cc.toNat ≤ 9) then some .reservedCode
      else if ¬ (p ≠ 0) then some .reservedCode else none
  | .fadd _ _ _ _ => none
  | .fsub _ _ _ _ => none
  | .fmul _ _ _ _ => none
  | .ffma _ _ _ _ => none
  | .fmin _ _ _ _ => none
  | .fmax _ _ _ _ => none
  | .fabs _ _ _ => none
  | .fneg _ _ _ => none
  | .padd _ _ _ _ _ => none
  | .psub _ _ _ _ _ => none
  | .pmul _ _ _ _ _ => none
  | .pfma _ _ _ _ _ => none
  | .pmin _ _ _ _ _ => none
  | .pmax _ _ _ _ _ => none
  | .fcmp _ cc p _ _ =>
      if ¬ (cc.toNat ≤ 7) then some .reservedCode
      else if ¬ (p ≠ 0) then some .reservedCode else none
  | .rcp _ _ _ => none
  | .rsq _ _ _ => none
  | .sqrt _ _ _ => none
  | .ex2 _ _ _ => none
  | .lg2 _ _ _ => none
  | .sin _ _ _ => none
  | .cos _ _ _ => none
  | .fdiv _ _ _ _ => none
  | .cvt _ dst d a rnd _ src =>
      if ¬ (dst.toNat ≤ 12 ∧ src.toNat ≤ 12) then some .reservedCode
      else if ¬ (dst ≠ src) then some .reservedCode
      else if ¬ ((dst.toNat ≤ 7 ∧ src.toNat ≤ 7) → rnd = 0) then some .reservedCode
      else if ¬ ((dst = 3 ∨ dst = 7) → even d) then some .oddPair
      else if ¬ ((src = 3 ∨ src = 7) → even a) then some .oddPair else none
  | .shfl _ _ _ _ => none
  | .shflup _ _ _ _ => none
  | .shfldn _ _ _ _ => none
  | .shflx _ _ _ _ => none
  | .bcast _ d a m =>
      if ¬ (m ≠ 3) then some .reservedCode
      else if ¬ (m = 1 → a.toNat < 64) then some .reservedField
      else if ¬ (m = 2 → d.toNat < 64) then some .reservedField else none
  | .reda _ _ _ _ => none
  | .freda _ _ _ o =>
      if ¬ (o ≠ 3) then some .reservedCode else none
  | .scana _ _ _ _ _ => none
  | .fscana _ _ _ o _ =>
      if ¬ (o ≠ 3) then some .reservedCode else none
  | .vany _ _ _ => none
  | .vall _ _ _ => none
  | .ballot _ _ _ _ => none
  | .pand _ d _ _ =>
      if ¬ (d ≠ 0) then some .reservedCode else none
  | .por _ d _ _ =>
      if ¬ (d ≠ 0) then some .reservedCode else none
  | .pxor _ d _ _ =>
      if ¬ (d ≠ 0) then some .reservedCode else none
  | .pnot _ d _ =>
      if ¬ (d ≠ 0) then some .reservedCode else none
  | .pset _ d _ =>
      if ¬ (d ≠ 0) then some .reservedCode else none
  | .sadd _ _ _ _ => none
  | .ssub _ _ _ _ => none
  | .smul _ _ _ _ => none
  | .sand _ _ _ _ => none
  | .sor _ _ _ _ => none
  | .sxor _ _ _ _ => none
  | .sshl _ _ _ _ => none
  | .sshr _ _ _ _ => none
  | .ssar _ _ _ _ => none
  | .scmp _ _ _ => none
  | .smov _ _ _ => none
  | .sadd64 _ d a c =>
      if ¬ (even d) then some .oddPair
      else if ¬ (even a) then some .oddPair
      else if ¬ (even c) then some .oddPair else none
  | .saddi _ _ _ _ => none
  | .sandi _ _ _ _ => none
  | .sori _ _ _ _ => none
  | .sxori _ _ _ _ => none
  | .sshli _ _ _ _ => none
  | .sshri _ _ _ _ => none
  | .ssari _ _ _ _ => none
  | .smovi _ _ _ => none
  | .scmpi _ _ _ => none
  | .movxS _ _ _ => none
  | .movx _ _ _ => none
  | .sreadLane _ d i =>
      if ¬ (i.toNat ≤ 17) then some .reservedCode
      else if ¬ (wideSpecial i.toNat → even d) then some .oddPair else none
  | .sreadScalar _ d i =>
      if ¬ (i.toNat ≤ 17) then some .reservedCode
      else if ¬ (wideSpecial i.toNat → even d) then some .oddPair else none
  | .swriteLane _ i c =>
      if ¬ (i = 14 ∨ i = 16) then some .reservedCode
      else if ¬ (i = 14 → even c) then some .oddPair else none
  | .swriteScalar _ i c =>
      if ¬ (i = 14 ∨ i = 16) then some .reservedCode
      else if ¬ (i = 14 → even c) then some .oddPair else none
  | .wbase _ _ => none
  | .tpri _ _ => none
  | .bra _ cc _ =>
      if ¬ (cc ≠ 15) then some .reservedCode else none
  | .call _ cc _ =>
      if ¬ (cc ≠ 15) then some .reservedCode else none
  | .ret _ => none
  | .jmpi _ a =>
      if ¬ (even a) then some .oddPair else none
  | .callx _ a =>
      if ¬ (even a) then some .oddPair else none
  | .exit _ => none
  | .nop _ => none
  | .bar _ _ => none
  | .barC _ k _ =>
      if ¬ (1 ≤ k.toNat ∧ k.toNat ≤ 16) then some .reservedCode else none
  | .barX _ _ => none
  | .barXC _ k _ =>
      if ¬ (1 ≤ k.toNat ∧ k.toNat ≤ 16) then some .reservedCode else none
  | .ifMask _ p =>
      if ¬ (p ≠ 0) then some .reservedCode else none
  | .elseMask _ => none
  | .endIf _ => none
  | .loop _ => none
  | .breakMask _ _ => none
  | .contMask _ _ => none
  | .endLoop _ => none
  | .ld _ _ t d _ _ =>
      if ¬ (t.toNat ≤ 5) then some .reservedCode
      else if ¬ (t = 3 → even d) then some .oddPair else none
  | .ldOffset _ _ t d _ _ _ =>
      if ¬ (t.toNat ≤ 5) then some .reservedCode
      else if ¬ (t = 3 → even d) then some .oddPair else none
  | .st _ q t d _ _ =>
      if ¬ (q ≠ 3) then some .reservedCode
      else if ¬ (t.toNat ≤ 3) then some .reservedCode
      else if ¬ (t = 3 → even d) then some .oddPair else none
  | .stOffset _ q t d _ _ _ =>
      if ¬ (q ≠ 3) then some .reservedCode
      else if ¬ (t.toNat ≤ 3) then some .reservedCode
      else if ¬ (t = 3 → even d) then some .oddPair else none
  | .ldp _ w d _ t r =>
      if ¬ (t.toNat ≤ 5) then some .reservedCode
      else if ¬ (t = 3 → even d) then some .oddPair
      else if ¬ (r = true → t = 2 ∧ w = 0) then some .reservedCode else none
  | .ldpOffset _ w d _ t r _ =>
      if ¬ (t.toNat ≤ 5) then some .reservedCode
      else if ¬ (t = 3 → even d) then some .oddPair
      else if ¬ (r = true → t = 2 ∧ w = 0) then some .reservedCode else none
  | .stp _ w d _ t r =>
      if ¬ (t.toNat ≤ 3) then some .reservedCode
      else if ¬ (t = 3 → even d) then some .oddPair
      else if ¬ (r = true → t = 2 ∧ w = 0) then some .reservedCode else none
  | .stpOffset _ w d _ t r _ =>
      if ¬ (t.toNat ≤ 3) then some .reservedCode
      else if ¬ (t = 3 → even d) then some .oddPair
      else if ¬ (r = true → t = 2 ∧ w = 0) then some .reservedCode else none
  | .lda _ _ t d _ _ =>
      if ¬ (t.toNat ≤ 5) then some .reservedCode
      else if ¬ (t = 3 → even d) then some .oddPair else none
  | .ldaOffset _ _ t d _ _ _ =>
      if ¬ (t.toNat ≤ 5) then some .reservedCode
      else if ¬ (t = 3 → even d) then some .oddPair else none
  | .atom _ _ d _ _ op w _ c =>
      if ¬ (op.toNat ≤ 10) then some .reservedCode
      else if ¬ (op = 10 → w = false) then some .reservedCode
      else if ¬ (op ≠ 9 → c = 0) then some .reservedField
      else if ¬ (w = true → even d) then some .oddPair
      else if ¬ ((w = true ∧ op = 9) → even c) then some .oddPair else none
  | .sld _ _ w d _ =>
      if ¬ (w.toNat ≤ 1) then some .reservedCode
      else if ¬ (w = 1 → even d) then some .oddPair else none
  | .sldOffset _ _ w d _ _ =>
      if ¬ (w.toNat ≤ 1) then some .reservedCode
      else if ¬ (w = 1 → even d) then some .oddPair else none
  | .sst _ q w d _ =>
      if ¬ (q ≠ 3) then some .reservedCode
      else if ¬ (w.toNat ≤ 1) then some .reservedCode
      else if ¬ (w = 1 → even d) then some .oddPair else none
  | .sstOffset _ q w d _ _ =>
      if ¬ (q ≠ 3) then some .reservedCode
      else if ¬ (w.toNat ≤ 1) then some .reservedCode
      else if ¬ (w = 1 → even d) then some .oddPair else none
  | .fence _ sc =>
      if ¬ (sc.toNat ≤ 5) then some .reservedCode else none
  | .batch _ _ => none
  | .waitb _ _ => none
  | .commit _ _ => none
  | .waitv _ a _ =>
      if ¬ (even a) then some .oddPair else none
  | .pref _ _ _ c =>
      if ¬ (even c) then some .oddPair else none
  | .fenceSmp _ sc =>
      if ¬ (sc.toNat ≤ 5) then some .reservedCode else none
  | .fenceMx _ sc =>
      if ¬ (sc.toNat ≤ 5) then some .reservedCode else none
  | .cpy _ d _ _ _ _ _ =>
      if ¬ (even d) then some .oddPair else none
  | .cpy2d _ d _ c _ _ _ =>
      if ¬ (even d) then some .oddPair
      else if ¬ (c.toNat ≤ 60) then some .registerRange else none
  | .cpyT _ d _ c _ _ sw =>
      if ¬ (even d) then some .oddPair
      else if ¬ (c = 0) then some .reservedField
      else if ¬ (sw = 0) then some .reservedField else none
  | .cpyFollowMma _ _ kind d _ c _ sw _ _ _ _ _ _ _ _ =>
      if ¬ (even d) then some .oddPair
      else if ¬ (kind.toNat ≤ 2) then some .reservedCode
      else if ¬ (kind = 1 → c.toNat ≤ 60) then some .registerRange
      else if ¬ (kind = 2 → c = 0 ∧ sw = 0) then some .reservedField else none
  | .put _ d a _ _ _ _ _ =>
      if ¬ (even d) then some .oddPair
      else if ¬ (even a) then some .oddPair else none
  | .get _ d a _ _ _ _ _ =>
      if ¬ (even d) then some .oddPair
      else if ¬ (even a) then some .oddPair else none
  | .psig _ d a c _ _ _ _ =>
      if ¬ (even d) then some .oddPair
      else if ¬ (even a) then some .oddPair
      else if ¬ (c.toNat ≤ 62) then some .registerRange else none
  | .smp _ d a _ _ =>
      if ¬ (even a) then some .oddPair
      else if ¬ (d.toNat ≤ 124) then some .registerRange else none
  | .smpL _ d a _ _ =>
      if ¬ (even a) then some .oddPair
      else if ¬ (d.toNat ≤ 124) then some .registerRange
      else if ¬ (a.toNat ≤ 125) then some .registerRange else none
  | .smpG _ _ _ c =>
      if ¬ (even c) then some .oddPair else none
  | .attrf _ d a c =>
      if ¬ (even a) then some .oddPair
      else if ¬ (even c) then some .oddPair
      else if ¬ (a.toNat ≤ 124) then some .registerRange
      else if ¬ (d.toNat ≤ 124) then some .registerRange
      else if ¬ (c.toNat ≤ 60) then some .registerRange else none
  | .attrb _ d a c =>
      if ¬ (even a) then some .oddPair
      else if ¬ (even c) then some .oddPair
      else if ¬ (d.toNat ≤ 125) then some .registerRange
      else if ¬ (c.toNat ≤ 62) then some .registerRange else none
  | .cnvLin _ _ a =>
      if ¬ (a.toNat ≤ 61) then some .registerRange else none
  | .cnvQuad _ _ a =>
      if ¬ (a.toNat ≤ 58) then some .registerRange else none
  | .cnvExpq _ _ a =>
      if ¬ (a.toNat ≤ 58) then some .registerRange else none
  | .cnvLinK _ _ a _ =>
      if ¬ (a.toNat ≤ 62) then some .registerRange else none
  | .cnvQuadK _ _ a _ =>
      if ¬ (a.toNat ≤ 59) then some .registerRange else none
  | .cnvExpqK _ _ a _ =>
      if ¬ (a.toNat ≤ 59) then some .registerRange else none
  | .cnvAdd _ _ _ _ => none
  | .cnvSub _ _ _ _ => none
  | .cnvMul _ _ _ _ => none
  | .cnvFma _ _ _ _ => none
  | .cnvMin _ _ _ _ => none
  | .cnvMax _ _ _ _ => none
  | .cnvMov _ _ _ => none
  | .cnvMovScalar _ _ _ => none
  | .cnvSfn _ _ _ f =>
      if ¬ (f ≠ 7) then some .reservedCode else none
  | .cnvCmp _ _ k _ _ t =>
      if ¬ (t ≠ 3) then some .reservedCode
      else if ¬ ((t = 1 ∨ t = 2) → k.toNat ≤ 5) then some .reservedCode else none
  | .cnvBlend _ d _ c =>
      if ¬ (d.toNat ≤ 12) then some .registerRange
      else if ¬ (c.toNat ≤ 61) then some .registerRange else none
  | .cnvZtest _ _ c =>
      if ¬ (c.toNat ≤ 62) then some .registerRange else none
  | .cnvVis _ _ _ => none
  | .cnvClr _ _ => none
  | .cnvClrOnes _ _ => none
  | .cnvClrVis _ => none
  | .cnvPush _ _ _ _ => none
  | .cnvElse _ => none
  | .cnvPop _ => none
  | .cnvAll _ => none
  | .cnvWin _ a =>
      if ¬ (a.toNat ≤ 60) then some .registerRange else none
  | .cnvMac _ _ _ _ => none
  | .cnvMacK _ _ _ _ => none
  | .cnvRdl _ _ _ _ => none
  | .cnvWrl _ _ _ _ => none
  | .cnvLoad _ _ _ => none
  | .cnvStore _ _ _ => none
  | .cnvRdlA _ _ _ _ => none
  | .cnvXsum _ _ => none
  | .cnvXmap _ _ _ _ => none
  | .cnvXclr _ _ => none
  | .cnvSync _ => none
  | .cnvOrg _ _ _ => none
  | .mma _ _ _ _ _ _ _ _ => none
  | .mmaSp _ _ _ _ _ _ _ _ => none
  | .accClr _ _ => none
  | .accProm _ _ _ _ => none
  | .accLd _ _ a =>
      if ¬ (even a) then some .oddPair else none
  | .accSt _ _ a f _ =>
      if ¬ (even a) then some .oddPair
      else if ¬ (f.toNat ≤ 4) then some .reservedCode else none
  | .netv _ _ a _ =>
      if ¬ (even a) then some .oddPair else none
  | .nets _ _ _ c =>
      if ¬ (even c) then some .oddPair
      else if ¬ (c.toNat ≤ 60) then some .registerRange else none
  | .tagRd _ _ a r =>
      if ¬ (r = false → even a) then some .oddPair else none
  | .tagWr _ _ _ => none
  | .tagChk _ _ _ _ => none
  | .tileHdr _ d a =>
      if ¬ (even d) then some .oddPair
      else if ¬ (a.toNat ≤ 52) then some .registerRange else none
  | .recPush _ _ _ => none
  | .recTry _ _ _ _ => none
  | .nodeDone _ _ => none
  | .cancel _ _ => none
  | .qpass _ => none
  | .rsecIn _ => none
  | .rsecOut _ => none
  | .grace _ => none
  | .defer _ a c =>
      if ¬ (even a) then some .oddPair
      else if ¬ (a.toNat ≤ 62) then some .registerRange
      else if ¬ (c.toNat ≤ 62) then some .registerRange else none
  | .frameRel _ _ a c =>
      if ¬ (even a) then some .oddPair
      else if ¬ (even c) then some .oddPair
      else if ¬ (a.toNat ≤ 62) then some .registerRange
      else if ¬ (c.toNat ≤ 60) then some .registerRange else none
  | .bankOpen _ => none
  | .bankDot _ f _ a _ =>
      if ¬ (f ≠ 3) then some .reservedCode
      else if ¬ (even a) then some .oddPair
      else if ¬ (a.toNat ≤ 58) then some .registerRange else none
  | .bankAxpy _ f _ a _ =>
      if ¬ (f ≠ 3) then some .reservedCode
      else if ¬ (even a) then some .oddPair
      else if ¬ (a.toNat ≤ 58) then some .registerRange else none
  | .bankScal _ f _ a _ =>
      if ¬ (f ≠ 3) then some .reservedCode
      else if ¬ (even a) then some .oddPair
      else if ¬ (a.toNat ≤ 60) then some .registerRange else none
  | .bankSum _ f _ a _ =>
      if ¬ (f ≠ 3) then some .reservedCode
      else if ¬ (even a) then some .oddPair
      else if ¬ (a.toNat ≤ 60) then some .registerRange else none
  | .bankMax _ f _ a _ =>
      if ¬ (f ≠ 3) then some .reservedCode
      else if ¬ (even a) then some .oddPair
      else if ¬ (a.toNat ≤ 60) then some .registerRange else none
  | .bankFill _ f _ a _ =>
      if ¬ (f ≠ 3) then some .reservedCode
      else if ¬ (even a) then some .oddPair
      else if ¬ (a.toNat ≤ 60) then some .registerRange else none
  | .bankCopy _ f _ a _ =>
      if ¬ (f ≠ 3) then some .reservedCode
      else if ¬ (even a) then some .oddPair
      else if ¬ (a.toNat ≤ 60) then some .registerRange else none
  | .bankClose _ _ => none
  | .bankWait _ => none
  | .bankErr _ d a _ =>
      if ¬ (even d) then some .oddPair
      else if ¬ (even a) then some .oddPair else none
  | .ringRed _ a =>
      if ¬ (even a) then some .oddPair else none
  | .ringWait _ _ _ => none
  | .trap _ k c =>
      if ¬ (trapCodeAllowed k.toNat) then some .reservedCode
      else if ¬ (even c) then some .oddPair else none
  | .rtt _ => none
  | .bkpt _ _ => none
  | .halt _ => none
  | .ctxrd _ d i =>
      if ¬ (i.toNat ≤ 8) then some .reservedCode
      else if ¬ (even d) then some .oddPair else none
  | .ctxwr _ i c =>
      if ¬ (i.toNat ≤ 8) then some .reservedCode
      else if ¬ (even c) then some .oddPair else none
  | .wdog _ => none
  | .push _ _ _ => none
  | .registerWrite _ _ _ => none
  | .nodeLaunch _ _ _ => none
  | .launchTimer _ _ => none
  | .crewEnd _ => none
  | .quiescenceReport _ _ => none
  | .barrierWatchdogExpiry _ => none
  | .terminationRecord _ => none
  | .terminateOnRequest _ => none
  | .teamWatchdogExpiry _ => none
  | .issuePriorityAgeing _ _ => none
  | .preemptionRequest _ => none
  | .preemptionHalt _ => none
  | .contextSave _ => none
  | .contextRestore _ => none
  | .contextResume _ => none
  | .contextCreate _ _ _ _ => none
  | .contextDestroy _ => none
  | .rigImageLoad _ _ _ _ => none
  | .weightStoreWrite _ _ _ => none
  | .windowRegister _ _ _ _ _ _ _ => none
  | .windowRevoke _ _ => none
  | .hostCancel _ _ => none
  | .faultResolved _ => none
  | .faultDeclined _ => none
  | .tlbShootdown _ _ _ _ => none
  | .pageWalk _ _ _ => none
  | .debugBreakpointSet _ _ _ => none
  | .debugHalt _ => none
  | .teamResume _ => none
  | .writeCombiningDrain _ _ => none
  | .loadReturn _ _ => none
  | .atomicExecute _ => none
  | .samplerFill _ _ => none
  | .waitTableNotify _ _ => none
  | .waitvPoll _ => none
  | .coreClockGate _ => none
  | .canvasExecute _ => none
  | .matrixArrayGroup _ => none
  | .accComplete _ => none
  | .copyComplete _ => none
  | .followMmaIssue _ => none
  | .ldaLand _ _ => none
  | .putComplete _ => none
  | .getComplete _ _ => none
  | .psigComplete _ => none
  | .remoteAccess _ _ _ _ => none
  | .ringChunkWritten _ _ _ => none
  | .ringComplete _ => none
  | .bankCommandFinish _ => none
  | .bankRoundAck _ => none
  | .bankAgeing _ => none
  | .bankRefresh _ _ => none
  | .weightStoreRefreshSlot => none
  | .graceComplete _ => none
  | .trimGovernorTick => none
  | .reefGovernorTick => none
  | .frameRelease _ => none
  | .fsyncPulseEnd => none
  | .ppsOutputEdge => none
  | .ppsPulseEnd => none
  | .ppsInputEdge => none
  | .fsyncInputEdge => none
  | .syncMessage _ => none
  | .syncTimeout => none
  | .holdoverTimeout => none
  | .linkFailure _ => none
  | .routeTableWrite _ _ _ => none
  | .injectionArm _ => none
  | .attestationReport _ => none
  | .powerCapSet _ => none
  | .powerArbiterTick _ => none
  | .coolantLoss => none
  | .packageReset _ _ _ _ => none
  | .illegalInstruction _ _ => none
  | .samplerDropComplete _ => none
  | .ctxwrPropagated _ => none
  | .cancelDrop _ _ _ => none
  | .scStorePerformed _ => none
  | .partialSegment _ _ _ _ => none
  | .forwardedFlit _ _ _ => none
  | .flitCrcFailure _ => none
  | .linkRetrain _ => none
  | .hostMemoryWrite _ _ _ => none

/-- Well-formed: no operand rule is broken. -/
def Instr.wf (i : Instr) : Bool := i.violation == none

/-- The constructor stands for words of a program, not for an event of the device. -/
def Instr.isWord (i : Instr) : Bool :=
  match i with
  | .add _ _ _ _ => true
  | .sub _ _ _ _ => true
  | .mul _ _ _ _ => true
  | .mulhi _ _ _ _ => true
  | .mulhu _ _ _ _ => true
  | .imad _ _ _ _ => true
  | .min _ _ _ _ => true
  | .max _ _ _ _ => true
  | .minu _ _ _ _ => true
  | .maxu _ _ _ _ => true
  | .and _ _ _ _ => true
  | .or _ _ _ _ => true
  | .xor _ _ _ _ => true
  | .andn _ _ _ _ => true
  | .shl _ _ _ _ => true
  | .shr _ _ _ _ => true
  | .sar _ _ _ _ => true
  | .bfx _ _ _ _ => true
  | .bfxs _ _ _ _ => true
  | .bfi _ _ _ _ => true
  | .popc _ _ _ => true
  | .clz _ _ _ => true
  | .add64 _ _ _ _ => true
  | .sub64 _ _ _ _ => true
  | .addi _ _ _ _ => true
  | .andi _ _ _ _ => true
  | .ori _ _ _ _ => true
  | .xori _ _ _ _ => true
  | .shli _ _ _ _ => true
  | .shri _ _ _ _ => true
  | .sari _ _ _ _ => true
  | .movi _ _ _ => true
  | .cmpi _ _ _ _ _ => true
  | .cmp _ _ _ _ _ => true
  | .fadd _ _ _ _ => true
  | .fsub _ _ _ _ => true
  | .fmul _ _ _ _ => true
  | .ffma _ _ _ _ => true
  | .fmin _ _ _ _ => true
  | .fmax _ _ _ _ => true
  | .fabs _ _ _ => true
  | .fneg _ _ _ => true
  | .padd _ _ _ _ _ => true
  | .psub _ _ _ _ _ => true
  | .pmul _ _ _ _ _ => true
  | .pfma _ _ _ _ _ => true
  | .pmin _ _ _ _ _ => true
  | .pmax _ _ _ _ _ => true
  | .fcmp _ _ _ _ _ => true
  | .rcp _ _ _ => true
  | .rsq _ _ _ => true
  | .sqrt _ _ _ => true
  | .ex2 _ _ _ => true
  | .lg2 _ _ _ => true
  | .sin _ _ _ => true
  | .cos _ _ _ => true
  | .fdiv _ _ _ _ => true
  | .cvt _ _ _ _ _ _ _ => true
  | .shfl _ _ _ _ => true
  | .shflup _ _ _ _ => true
  | .shfldn _ _ _ _ => true
  | .shflx _ _ _ _ => true
  | .bcast _ _ _ _ => true
  | .reda _ _ _ _ => true
  | .freda _ _ _ _ => true
  | .scana _ _ _ _ _ => true
  | .fscana _ _ _ _ _ => true
  | .vany _ _ _ => true
  | .vall _ _ _ => true
  | .ballot _ _ _ _ => true
  | .pand _ _ _ _ => true
  | .por _ _ _ _ => true
  | .pxor _ _ _ _ => true
  | .pnot _ _ _ => true
  | .pset _ _ _ => true
  | .sadd _ _ _ _ => true
  | .ssub _ _ _ _ => true
  | .smul _ _ _ _ => true
  | .sand _ _ _ _ => true
  | .sor _ _ _ _ => true
  | .sxor _ _ _ _ => true
  | .sshl _ _ _ _ => true
  | .sshr _ _ _ _ => true
  | .ssar _ _ _ _ => true
  | .scmp _ _ _ => true
  | .smov _ _ _ => true
  | .sadd64 _ _ _ _ => true
  | .saddi _ _ _ _ => true
  | .sandi _ _ _ _ => true
  | .sori _ _ _ _ => true
  | .sxori _ _ _ _ => true
  | .sshli _ _ _ _ => true
  | .sshri _ _ _ _ => true
  | .ssari _ _ _ _ => true
  | .smovi _ _ _ => true
  | .scmpi _ _ _ => true
  | .movxS _ _ _ => true
  | .movx _ _ _ => true
  | .sreadLane _ _ _ => true
  | .sreadScalar _ _ _ => true
  | .swriteLane _ _ _ => true
  | .swriteScalar _ _ _ => true
  | .wbase _ _ => true
  | .tpri _ _ => true
  | .bra _ _ _ => true
  | .call _ _ _ => true
  | .ret _ => true
  | .jmpi _ _ => true
  | .callx _ _ => true
  | .exit _ => true
  | .nop _ => true
  | .bar _ _ => true
  | .barC _ _ _ => true
  | .barX _ _ => true
  | .barXC _ _ _ => true
  | .ifMask _ _ => true
  | .elseMask _ => true
  | .endIf _ => true
  | .loop _ => true
  | .breakMask _ _ => true
  | .contMask _ _ => true
  | .endLoop _ => true
  | .ld _ _ _ _ _ _ => true
  | .ldOffset _ _ _ _ _ _ _ => true
  | .st _ _ _ _ _ _ => true
  | .stOffset _ _ _ _ _ _ _ => true
  | .ldp _ _ _ _ _ _ => true
  | .ldpOffset _ _ _ _ _ _ _ => true
  | .stp _ _ _ _ _ _ => true
  | .stpOffset _ _ _ _ _ _ _ => true
  | .lda _ _ _ _ _ _ => true
  | .ldaOffset _ _ _ _ _ _ _ => true
  | .atom _ _ _ _ _ _ _ _ _ => true
  | .sld _ _ _ _ _ => true
  | .sldOffset _ _ _ _ _ _ => true
  | .sst _ _ _ _ _ => true
  | .sstOffset _ _ _ _ _ _ => true
  | .fence _ _ => true
  | .batch _ _ => true
  | .waitb _ _ => true
  | .commit _ _ => true
  | .waitv _ _ _ => true
  | .pref _ _ _ _ => true
  | .fenceSmp _ _ => true
  | .fenceMx _ _ => true
  | .cpy _ _ _ _ _ _ _ => true
  | .cpy2d _ _ _ _ _ _ _ => true
  | .cpyT _ _ _ _ _ _ _ => true
  | .cpyFollowMma _ _ _ _ _ _ _ _ _ _ _ _ _ _ _ _ => true
  | .put _ _ _ _ _ _ _ _ => true
  | .get _ _ _ _ _ _ _ _ => true
  | .psig _ _ _ _ _ _ _ _ => true
  | .smp _ _ _ _ _ => true
  | .smpL _ _ _ _ _ => true
  | .smpG _ _ _ _ => true
  | .attrf _ _ _ _ => true
  | .attrb _ _ _ _ => true
  | .cnvLin _ _ _ => true
  | .cnvQuad _ _ _ => true
  | .cnvExpq _ _ _ => true
  | .cnvLinK _ _ _ _ => true
  | .cnvQuadK _ _ _ _ => true
  | .cnvExpqK _ _ _ _ => true
  | .cnvAdd _ _ _ _ => true
  | .cnvSub _ _ _ _ => true
  | .cnvMul _ _ _ _ => true
  | .cnvFma _ _ _ _ => true
  | .cnvMin _ _ _ _ => true
  | .cnvMax _ _ _ _ => true
  | .cnvMov _ _ _ => true
  | .cnvMovScalar _ _ _ => true
  | .cnvSfn _ _ _ _ => true
  | .cnvCmp _ _ _ _ _ _ => true
  | .cnvBlend _ _ _ _ => true
  | .cnvZtest _ _ _ => true
  | .cnvVis _ _ _ => true
  | .cnvClr _ _ => true
  | .cnvClrOnes _ _ => true
  | .cnvClrVis _ => true
  | .cnvPush _ _ _ _ => true
  | .cnvElse _ => true
  | .cnvPop _ => true
  | .cnvAll _ => true
  | .cnvWin _ _ => true
  | .cnvMac _ _ _ _ => true
  | .cnvMacK _ _ _ _ => true
  | .cnvRdl _ _ _ _ => true
  | .cnvWrl _ _ _ _ => true
  | .cnvLoad _ _ _ => true
  | .cnvStore _ _ _ => true
  | .cnvRdlA _ _ _ _ => true
  | .cnvXsum _ _ => true
  | .cnvXmap _ _ _ _ => true
  | .cnvXclr _ _ => true
  | .cnvSync _ => true
  | .cnvOrg _ _ _ => true
  | .mma _ _ _ _ _ _ _ _ => true
  | .mmaSp _ _ _ _ _ _ _ _ => true
  | .accClr _ _ => true
  | .accProm _ _ _ _ => true
  | .accLd _ _ _ => true
  | .accSt _ _ _ _ _ => true
  | .netv _ _ _ _ => true
  | .nets _ _ _ _ => true
  | .tagRd _ _ _ _ => true
  | .tagWr _ _ _ => true
  | .tagChk _ _ _ _ => true
  | .tileHdr _ _ _ => true
  | .recPush _ _ _ => true
  | .recTry _ _ _ _ => true
  | .nodeDone _ _ => true
  | .cancel _ _ => true
  | .qpass _ => true
  | .rsecIn _ => true
  | .rsecOut _ => true
  | .grace _ => true
  | .defer _ _ _ => true
  | .frameRel _ _ _ _ => true
  | .bankOpen _ => true
  | .bankDot _ _ _ _ _ => true
  | .bankAxpy _ _ _ _ _ => true
  | .bankScal _ _ _ _ _ => true
  | .bankSum _ _ _ _ _ => true
  | .bankMax _ _ _ _ _ => true
  | .bankFill _ _ _ _ _ => true
  | .bankCopy _ _ _ _ _ => true
  | .bankClose _ _ => true
  | .bankWait _ => true
  | .bankErr _ _ _ _ => true
  | .ringRed _ _ => true
  | .ringWait _ _ _ => true
  | .trap _ _ _ => true
  | .rtt _ => true
  | .bkpt _ _ => true
  | .halt _ => true
  | .ctxrd _ _ _ => true
  | .ctxwr _ _ _ => true
  | .wdog _ => true
  | .push _ _ _ => false
  | .registerWrite _ _ _ => false
  | .nodeLaunch _ _ _ => false
  | .launchTimer _ _ => false
  | .crewEnd _ => false
  | .quiescenceReport _ _ => false
  | .barrierWatchdogExpiry _ => false
  | .terminationRecord _ => false
  | .terminateOnRequest _ => false
  | .teamWatchdogExpiry _ => false
  | .issuePriorityAgeing _ _ => false
  | .preemptionRequest _ => false
  | .preemptionHalt _ => false
  | .contextSave _ => false
  | .contextRestore _ => false
  | .contextResume _ => false
  | .contextCreate _ _ _ _ => false
  | .contextDestroy _ => false
  | .rigImageLoad _ _ _ _ => false
  | .weightStoreWrite _ _ _ => false
  | .windowRegister _ _ _ _ _ _ _ => false
  | .windowRevoke _ _ => false
  | .hostCancel _ _ => false
  | .faultResolved _ => false
  | .faultDeclined _ => false
  | .tlbShootdown _ _ _ _ => false
  | .pageWalk _ _ _ => false
  | .debugBreakpointSet _ _ _ => false
  | .debugHalt _ => false
  | .teamResume _ => false
  | .writeCombiningDrain _ _ => false
  | .loadReturn _ _ => false
  | .atomicExecute _ => false
  | .samplerFill _ _ => false
  | .waitTableNotify _ _ => false
  | .waitvPoll _ => false
  | .coreClockGate _ => false
  | .canvasExecute _ => false
  | .matrixArrayGroup _ => false
  | .accComplete _ => false
  | .copyComplete _ => false
  | .followMmaIssue _ => false
  | .ldaLand _ _ => false
  | .putComplete _ => false
  | .getComplete _ _ => false
  | .psigComplete _ => false
  | .remoteAccess _ _ _ _ => false
  | .ringChunkWritten _ _ _ => false
  | .ringComplete _ => false
  | .bankCommandFinish _ => false
  | .bankRoundAck _ => false
  | .bankAgeing _ => false
  | .bankRefresh _ _ => false
  | .weightStoreRefreshSlot => false
  | .graceComplete _ => false
  | .trimGovernorTick => false
  | .reefGovernorTick => false
  | .frameRelease _ => false
  | .fsyncPulseEnd => false
  | .ppsOutputEdge => false
  | .ppsPulseEnd => false
  | .ppsInputEdge => false
  | .fsyncInputEdge => false
  | .syncMessage _ => false
  | .syncTimeout => false
  | .holdoverTimeout => false
  | .linkFailure _ => false
  | .routeTableWrite _ _ _ => false
  | .injectionArm _ => false
  | .attestationReport _ => false
  | .powerCapSet _ => false
  | .powerArbiterTick _ => false
  | .coolantLoss => false
  | .packageReset _ _ _ _ => false
  | .illegalInstruction _ _ => false
  | .samplerDropComplete _ => false
  | .ctxwrPropagated _ => false
  | .cancelDrop _ _ _ => false
  | .scStorePerformed _ => false
  | .partialSegment _ _ _ _ => false
  | .forwardedFlit _ _ _ => false
  | .flitCrcFailure _ => false
  | .linkRetrain _ => false
  | .hostMemoryWrite _ _ _ => false

end Sys2Proof
end

