-- ==== Sys2Proof/Decode.lean ====
section
/-! DEFINITION. The decoder: total on any words and bytes, rejecting by name (06, R69 to R90).  After it the encoder, written
from the same tables.  Fields are taken with division and remainder on the word's number; every field is read once. -/

namespace Sys2Proof

/-- Major 0x01 (R83). -/
def decode01 (b : Bool) (sub dF aF cF : Nat) : Except Reject Instr :=
  match sub with
  | 0 => .ok (.add b (BitVec.ofNat 7 dF) (BitVec.ofNat 7 aF) (BitVec.ofNat 7 cF))
  | 1 => .ok (.sub b (BitVec.ofNat 7 dF) (BitVec.ofNat 7 aF) (BitVec.ofNat 7 cF))
  | 2 => .ok (.mul b (BitVec.ofNat 7 dF) (BitVec.ofNat 7 aF) (BitVec.ofNat 7 cF))
  | 3 => .ok (.mulhi b (BitVec.ofNat 7 dF) (BitVec.ofNat 7 aF) (BitVec.ofNat 7 cF))
  | 4 => .ok (.mulhu b (BitVec.ofNat 7 dF) (BitVec.ofNat 7 aF) (BitVec.ofNat 7 cF))
  | 5 => .ok (.imad b (BitVec.ofNat 7 dF) (BitVec.ofNat 7 aF) (BitVec.ofNat 7 cF))
  | 6 => .ok (.min b (BitVec.ofNat 7 dF) (BitVec.ofNat 7 aF) (BitVec.ofNat 7 cF))
  | 7 => .ok (.max b (BitVec.ofNat 7 dF) (BitVec.ofNat 7 aF) (BitVec.ofNat 7 cF))
  | 8 => .ok (.minu b (BitVec.ofNat 7 dF) (BitVec.ofNat 7 aF) (BitVec.ofNat 7 cF))
  | 9 => .ok (.maxu b (BitVec.ofNat 7 dF) (BitVec.ofNat 7 aF) (BitVec.ofNat 7 cF))
  | _ => .error .reservedSub

/-- Major 0x02 (R83). -/
def decode02 (b : Bool) (sub dF aF cF : Nat) : Except Reject Instr :=
  match sub with
  | 0 => .ok (.and b (BitVec.ofNat 7 dF) (BitVec.ofNat 7 aF) (BitVec.ofNat 7 cF))
  | 1 => .ok (.or b (BitVec.ofNat 7 dF) (BitVec.ofNat 7 aF) (BitVec.ofNat 7 cF))
  | 2 => .ok (.xor b (BitVec.ofNat 7 dF) (BitVec.ofNat 7 aF) (BitVec.ofNat 7 cF))
  | 3 => .ok (.andn b (BitVec.ofNat 7 dF) (BitVec.ofNat 7 aF) (BitVec.ofNat 7 cF))
  | 4 => .ok (.shl b (BitVec.ofNat 7 dF) (BitVec.ofNat 7 aF) (BitVec.ofNat 7 cF))
  | 5 => .ok (.shr b (BitVec.ofNat 7 dF) (BitVec.ofNat 7 aF) (BitVec.ofNat 7 cF))
  | 6 => .ok (.sar b (BitVec.ofNat 7 dF) (BitVec.ofNat 7 aF) (BitVec.ofNat 7 cF))
  | 7 => .ok (.bfx b (BitVec.ofNat 7 dF) (BitVec.ofNat 7 aF) (BitVec.ofNat 7 cF))
  | 8 => .ok (.bfxs b (BitVec.ofNat 7 dF) (BitVec.ofNat 7 aF) (BitVec.ofNat 7 cF))
  | 9 => .ok (.bfi b (BitVec.ofNat 7 dF) (BitVec.ofNat 7 aF) (BitVec.ofNat 7 cF))
  | 10 => if cF = 0 then .ok (.popc b (BitVec.ofNat 7 dF) (BitVec.ofNat 7 aF)) else .error .reservedField
  | 11 => if cF = 0 then .ok (.clz b (BitVec.ofNat 7 dF) (BitVec.ofNat 7 aF)) else .error .reservedField
  | 12 => .ok (.add64 b (BitVec.ofNat 7 dF) (BitVec.ofNat 7 aF) (BitVec.ofNat 7 cF))
  | 13 => .ok (.sub64 b (BitVec.ofNat 7 dF) (BitVec.ofNat 7 aF) (BitVec.ofNat 7 cF))
  | _ => .error .reservedSub

/-- Major 0x0B (R83). -/
def decode0B (b : Bool) (sub dF aF cF : Nat) : Except Reject Instr :=
  match sub with
  | 0 => .ok (.fadd b (BitVec.ofNat 7 dF) (BitVec.ofNat 7 aF) (BitVec.ofNat 7 cF))
  | 1 => .ok (.fsub b (BitVec.ofNat 7 dF) (BitVec.ofNat 7 aF) (BitVec.ofNat 7 cF))
  | 2 => .ok (.fmul b (BitVec.ofNat 7 dF) (BitVec.ofNat 7 aF) (BitVec.ofNat 7 cF))
  | 3 => .ok (.ffma b (BitVec.ofNat 7 dF) (BitVec.ofNat 7 aF) (BitVec.ofNat 7 cF))
  | 4 => .ok (.fmin b (BitVec.ofNat 7 dF) (BitVec.ofNat 7 aF) (BitVec.ofNat 7 cF))
  | 5 => .ok (.fmax b (BitVec.ofNat 7 dF) (BitVec.ofNat 7 aF) (BitVec.ofNat 7 cF))
  | 6 => if cF = 0 then .ok (.fabs b (BitVec.ofNat 7 dF) (BitVec.ofNat 7 aF)) else .error .reservedField
  | 7 => if cF = 0 then .ok (.fneg b (BitVec.ofNat 7 dF) (BitVec.ofNat 7 aF)) else .error .reservedField
  | _ => .error .reservedSub

/-- Major 0x0E (R83). -/
def decode0E (b : Bool) (sub dF aF cF : Nat) : Except Reject Instr :=
  match sub with
  | 0 => if cF = 0 then .ok (.rcp b (BitVec.ofNat 7 dF) (BitVec.ofNat 7 aF)) else .error .reservedField
  | 1 => if cF = 0 then .ok (.rsq b (BitVec.ofNat 7 dF) (BitVec.ofNat 7 aF)) else .error .reservedField
  | 2 => if cF = 0 then .ok (.sqrt b (BitVec.ofNat 7 dF) (BitVec.ofNat 7 aF)) else .error .reservedField
  | 3 => if cF = 0 then .ok (.ex2 b (BitVec.ofNat 7 dF) (BitVec.ofNat 7 aF)) else .error .reservedField
  | 4 => if cF = 0 then .ok (.lg2 b (BitVec.ofNat 7 dF) (BitVec.ofNat 7 aF)) else .error .reservedField
  | 5 => if cF = 0 then .ok (.sin b (BitVec.ofNat 7 dF) (BitVec.ofNat 7 aF)) else .error .reservedField
  | 6 => if cF = 0 then .ok (.cos b (BitVec.ofNat 7 dF) (BitVec.ofNat 7 aF)) else .error .reservedField
  | 7 => .ok (.fdiv b (BitVec.ofNat 7 dF) (BitVec.ofNat 7 aF) (BitVec.ofNat 7 cF))
  | _ => .error .reservedSub

/-- Major 0x10 (R83). -/
def decode10 (b : Bool) (sub dF aF cF : Nat) : Except Reject Instr :=
  match sub with
  | 0 => .ok (.shfl b (BitVec.ofNat 7 dF) (BitVec.ofNat 7 aF) (BitVec.ofNat 7 cF))
  | 1 => if cF < 32 then .ok (.shflup b (BitVec.ofNat 7 dF) (BitVec.ofNat 7 aF) (BitVec.ofNat 5 cF)) else .error .reservedField
  | 2 => if cF < 32 then .ok (.shfldn b (BitVec.ofNat 7 dF) (BitVec.ofNat 7 aF) (BitVec.ofNat 5 cF)) else .error .reservedField
  | 3 => if cF < 32 then .ok (.shflx b (BitVec.ofNat 7 dF) (BitVec.ofNat 7 aF) (BitVec.ofNat 5 cF)) else .error .reservedField
  | 4 => if cF < 4 then .ok (.bcast b (BitVec.ofNat 7 dF) (BitVec.ofNat 7 aF) (BitVec.ofNat 2 cF)) else .error .reservedField
  | 5 => if cF < 8 then .ok (.reda b (BitVec.ofNat 7 dF) (BitVec.ofNat 7 aF) (BitVec.ofNat 3 cF)) else .error .reservedField
  | 6 => if cF < 4 then .ok (.freda b (BitVec.ofNat 7 dF) (BitVec.ofNat 7 aF) (BitVec.ofNat 2 cF)) else .error .reservedField
  | 7 => if cF < 16 then .ok (.scana b (BitVec.ofNat 7 dF) (BitVec.ofNat 7 aF) (BitVec.ofNat 3 cF) (bitOf (cF / 8))) else .error .reservedField
  | 8 => if cF < 16 ∧ cF / 4 % 2 = 0 then .ok (.fscana b (BitVec.ofNat 7 dF) (BitVec.ofNat 7 aF) (BitVec.ofNat 2 cF) (bitOf (cF / 8))) else .error .reservedField
  | _ => .error .reservedSub

/-- Major 0x11 (R83). -/
def decode11 (b : Bool) (sub dF aF cF : Nat) : Except Reject Instr :=
  match sub with
  | 0 => if dF < 64 ∧ aF < 8 ∧ cF = 0 then .ok (.vany b (BitVec.ofNat 6 dF) (BitVec.ofNat 3 aF)) else .error .reservedField
  | 1 => if dF < 64 ∧ aF < 8 ∧ cF = 0 then .ok (.vall b (BitVec.ofNat 6 dF) (BitVec.ofNat 3 aF)) else .error .reservedField
  | 2 => if dF < 64 ∧ aF < 8 ∧ cF < 32 then .ok (.ballot b (BitVec.ofNat 6 dF) (BitVec.ofNat 3 aF) (BitVec.ofNat 5 cF)) else .error .reservedField
  | 3 => if dF < 8 ∧ aF < 8 ∧ cF < 8 then .ok (.pand b (BitVec.ofNat 3 dF) (BitVec.ofNat 3 aF) (BitVec.ofNat 3 cF)) else .error .reservedField
  | 4 => if dF < 8 ∧ aF < 8 ∧ cF < 8 then .ok (.por b (BitVec.ofNat 3 dF) (BitVec.ofNat 3 aF) (BitVec.ofNat 3 cF)) else .error .reservedField
  | 5 => if dF < 8 ∧ aF < 8 ∧ cF < 8 then .ok (.pxor b (BitVec.ofNat 3 dF) (BitVec.ofNat 3 aF) (BitVec.ofNat 3 cF)) else .error .reservedField
  | 6 => if dF < 8 ∧ aF < 8 ∧ cF = 0 then .ok (.pnot b (BitVec.ofNat 3 dF) (BitVec.ofNat 3 aF)) else .error .reservedField
  | 7 => if dF < 8 ∧ cF = 0 then .ok (.pset b (BitVec.ofNat 3 dF) (BitVec.ofNat 7 aF)) else .error .reservedField
  | _ => .error .reservedSub

/-- Major 0x12 (R83). -/
def decode12 (b : Bool) (sub dF aF cF : Nat) : Except Reject Instr :=
  match sub with
  | 0 => if dF < 64 ∧ aF < 64 ∧ cF < 64 then .ok (.sadd b (BitVec.ofNat 6 dF) (BitVec.ofNat 6 aF) (BitVec.ofNat 6 cF)) else .error .reservedField
  | 1 => if dF < 64 ∧ aF < 64 ∧ cF < 64 then .ok (.ssub b (BitVec.ofNat 6 dF) (BitVec.ofNat 6 aF) (BitVec.ofNat 6 cF)) else .error .reservedField
  | 2 => if dF < 64 ∧ aF < 64 ∧ cF < 64 then .ok (.smul b (BitVec.ofNat 6 dF) (BitVec.ofNat 6 aF) (BitVec.ofNat 6 cF)) else .error .reservedField
  | 3 => if dF < 64 ∧ aF < 64 ∧ cF < 64 then .ok (.sand b (BitVec.ofNat 6 dF) (BitVec.ofNat 6 aF) (BitVec.ofNat 6 cF)) else .error .reservedField
  | 4 => if dF < 64 ∧ aF < 64 ∧ cF < 64 then .ok (.sor b (BitVec.ofNat 6 dF) (BitVec.ofNat 6 aF) (BitVec.ofNat 6 cF)) else .error .reservedField
  | 5 => if dF < 64 ∧ aF < 64 ∧ cF < 64 then .ok (.sxor b (BitVec.ofNat 6 dF) (BitVec.ofNat 6 aF) (BitVec.ofNat 6 cF)) else .error .reservedField
  | 6 => if dF < 64 ∧ aF < 64 ∧ cF < 64 then .ok (.sshl b (BitVec.ofNat 6 dF) (BitVec.ofNat 6 aF) (BitVec.ofNat 6 cF)) else .error .reservedField
  | 7 => if dF < 64 ∧ aF < 64 ∧ cF < 64 then .ok (.sshr b (BitVec.ofNat 6 dF) (BitVec.ofNat 6 aF) (BitVec.ofNat 6 cF)) else .error .reservedField
  | 8 => if dF < 64 ∧ aF < 64 ∧ cF < 64 then .ok (.ssar b (BitVec.ofNat 6 dF) (BitVec.ofNat 6 aF) (BitVec.ofNat 6 cF)) else .error .reservedField
  | 9 => if dF = 0 ∧ aF < 64 ∧ cF < 64 then .ok (.scmp b (BitVec.ofNat 6 aF) (BitVec.ofNat 6 cF)) else .error .reservedField
  | 10 => if dF < 64 ∧ aF < 64 ∧ cF = 0 then .ok (.smov b (BitVec.ofNat 6 dF) (BitVec.ofNat 6 aF)) else .error .reservedField
  | 11 => if dF < 64 ∧ aF < 64 ∧ cF < 64 then .ok (.sadd64 b (BitVec.ofNat 6 dF) (BitVec.ofNat 6 aF) (BitVec.ofNat 6 cF)) else .error .reservedField
  | _ => .error .reservedSub

/-- Major 0x14 (R83). -/
def decode14 (b : Bool) (sub dF aF cF : Nat) (w1 : Word) : Except Reject Instr :=
  match sub with
  | 0 => if dF < 64 ∧ aF = 0 ∧ cF = 0 then .ok (.movxS b (BitVec.ofNat 6 dF) w1) else .error .reservedField
  | 1 => if aF = 0 ∧ cF = 0 then .ok (.movx b (BitVec.ofNat 7 dF) w1) else .error .reservedField
  | _ => .error .reservedSub

/-- Major 0x15 (R83). -/
def decode15 (b : Bool) (sub dF aF cF : Nat) : Except Reject Instr :=
  match sub with
  | 0 => if aF < 64 ∧ cF = 0 then .ok (.sreadLane b (BitVec.ofNat 7 dF) (BitVec.ofNat 6 aF)) else .error .reservedField
  | 1 => if dF < 64 ∧ aF < 64 ∧ cF = 0 then .ok (.sreadScalar b (BitVec.ofNat 6 dF) (BitVec.ofNat 6 aF)) else .error .reservedField
  | 2 => if dF < 64 ∧ aF = 0 then .ok (.swriteLane b (BitVec.ofNat 6 dF) (BitVec.ofNat 7 cF)) else .error .reservedField
  | 3 => if dF < 64 ∧ aF = 0 ∧ cF < 64 then .ok (.swriteScalar b (BitVec.ofNat 6 dF) (BitVec.ofNat 6 cF)) else .error .reservedField
  | 4 => if dF = 0 ∧ aF = 0 then .ok (.wbase b (BitVec.ofNat 7 cF)) else .error .reservedField
  | 5 => if dF = 0 ∧ aF = 0 ∧ cF < 16 then .ok (.tpri b (BitVec.ofNat 4 cF)) else .error .reservedField
  | _ => .error .reservedSub

/-- Major 0x18 (R83). -/
def decode18 (b : Bool) (sub dF aF cF : Nat) : Except Reject Instr :=
  match sub with
  | 0 => if dF = 0 ∧ aF = 0 ∧ cF = 0 then .ok (.ret b) else .error .reservedField
  | 1 => if dF = 0 ∧ aF < 64 ∧ cF = 0 then .ok (.jmpi b (BitVec.ofNat 6 aF)) else .error .reservedField
  | 2 => if dF = 0 ∧ cF = 0 then .ok (.callx b (BitVec.ofNat 7 aF)) else .error .reservedField
  | 3 => if dF = 0 ∧ aF = 0 ∧ cF = 0 then .ok (.exit b) else .error .reservedField
  | 4 => if dF = 0 ∧ aF = 0 ∧ cF = 0 then .ok (.nop b) else .error .reservedField
  | 5 => if dF = 0 ∧ aF = 0 ∧ cF < 16 then .ok (.bar b (BitVec.ofNat 4 cF)) else .error .reservedField
  | 6 => if dF = 0 ∧ cF < 16 then .ok (.barC b (BitVec.ofNat 7 aF) (BitVec.ofNat 4 cF)) else .error .reservedField
  | 7 => if dF = 0 ∧ aF = 0 ∧ cF < 16 then .ok (.barX b (BitVec.ofNat 4 cF)) else .error .reservedField
  | 8 => if dF = 0 ∧ cF < 16 then .ok (.barXC b (BitVec.ofNat 7 aF) (BitVec.ofNat 4 cF)) else .error .reservedField
  | _ => .error .reservedSub

/-- Major 0x19 (R83). -/
def decode19 (b : Bool) (sub dF aF cF : Nat) : Except Reject Instr :=
  match sub with
  | 0 => if dF = 0 ∧ aF = 0 ∧ cF < 8 then .ok (.ifMask b (BitVec.ofNat 3 cF)) else .error .reservedField
  | 1 => if dF = 0 ∧ aF = 0 ∧ cF = 0 then .ok (.elseMask b) else .error .reservedField
  | 2 => if dF = 0 ∧ aF = 0 ∧ cF = 0 then .ok (.endIf b) else .error .reservedField
  | 3 => if dF = 0 ∧ aF = 0 ∧ cF = 0 then .ok (.loop b) else .error .reservedField
  | 4 => if dF = 0 ∧ aF = 0 ∧ cF < 8 then .ok (.breakMask b (BitVec.ofNat 3 cF)) else .error .reservedField
  | 5 => if dF = 0 ∧ aF = 0 ∧ cF < 8 then .ok (.contMask b (BitVec.ofNat 3 cF)) else .error .reservedField
  | 6 => if dF = 0 ∧ aF = 0 ∧ cF = 0 then .ok (.endLoop b) else .error .reservedField
  | _ => .error .reservedSub

/-- Major 0x26 (R83). -/
def decode26 (b : Bool) (sub dF aF cF : Nat) : Except Reject Instr :=
  match sub with
  | 0 => if dF = 0 ∧ aF = 0 ∧ cF < 8 then .ok (.fence b (BitVec.ofNat 3 cF)) else .error .reservedField
  | 1 => if dF < 64 ∧ aF = 0 ∧ cF = 0 then .ok (.batch b (BitVec.ofNat 6 dF)) else .error .reservedField
  | 2 => if dF = 0 ∧ aF < 64 ∧ cF = 0 then .ok (.waitb b (BitVec.ofNat 6 aF)) else .error .reservedField
  | 3 => if dF = 0 ∧ aF < 64 ∧ cF = 0 then .ok (.commit b (BitVec.ofNat 6 aF)) else .error .reservedField
  | 4 => if dF = 0 ∧ aF < 64 ∧ cF < 64 then .ok (.waitv b (BitVec.ofNat 6 aF) (BitVec.ofNat 6 cF)) else .error .reservedField
  | 5 => if dF < 2 ∧ cF < 64 then .ok (.pref b (bitOf dF) (BitVec.ofNat 7 aF) (BitVec.ofNat 6 cF)) else .error .reservedField
  | 6 => if dF = 0 ∧ aF = 0 ∧ cF < 8 then .ok (.fenceSmp b (BitVec.ofNat 3 cF)) else .error .reservedField
  | 7 => if dF = 0 ∧ aF = 0 ∧ cF < 8 then .ok (.fenceMx b (BitVec.ofNat 3 cF)) else .error .reservedField
  | _ => .error .reservedSub

/-- Major 0x2A (R83). -/
def decode2A (b : Bool) (sub dF aF cF : Nat) : Except Reject Instr :=
  match sub with
  | 0 => .ok (.smp b (BitVec.ofNat 7 dF) (BitVec.ofNat 7 aF) (BitVec.ofNat 3 cF) (BitVec.ofNat 4 (cF / 8)))
  | 1 => .ok (.smpL b (BitVec.ofNat 7 dF) (BitVec.ofNat 7 aF) (BitVec.ofNat 3 cF) (BitVec.ofNat 4 (cF / 8)))
  | 2 => if cF < 64 then .ok (.smpG b (BitVec.ofNat 7 dF) (BitVec.ofNat 7 aF) (BitVec.ofNat 6 cF)) else .error .reservedField
  | _ => .error .reservedSub

/-- Major 0x2B (R83). -/
def decode2B (b : Bool) (sub dF aF cF : Nat) : Except Reject Instr :=
  match sub with
  | 0 => if cF < 64 then .ok (.attrf b (BitVec.ofNat 7 dF) (BitVec.ofNat 7 aF) (BitVec.ofNat 6 cF)) else .error .reservedField
  | 1 => if cF < 64 then .ok (.attrb b (BitVec.ofNat 7 dF) (BitVec.ofNat 7 aF) (BitVec.ofNat 6 cF)) else .error .reservedField
  | _ => .error .reservedSub

/-- Major 0x30 (R83). -/
def decode30 (b : Bool) (sub dF aF cF : Nat) (w1 : Word) : Except Reject Instr :=
  match sub with
  | 0 => if dF < 16 ∧ aF < 64 ∧ cF = 0 then .ok (.cnvLin b (BitVec.ofNat 4 dF) (BitVec.ofNat 6 aF)) else .error .reservedField
  | 1 => if dF < 16 ∧ aF < 64 ∧ cF = 0 then .ok (.cnvQuad b (BitVec.ofNat 4 dF) (BitVec.ofNat 6 aF)) else .error .reservedField
  | 2 => if dF < 16 ∧ aF < 64 ∧ cF = 0 then .ok (.cnvExpq b (BitVec.ofNat 4 dF) (BitVec.ofNat 6 aF)) else .error .reservedField
  | 4 => if dF < 16 ∧ aF < 64 ∧ cF = 0 then .ok (.cnvLinK b (BitVec.ofNat 4 dF) (BitVec.ofNat 6 aF) w1) else .error .reservedField
  | 5 => if dF < 16 ∧ aF < 64 ∧ cF = 0 then .ok (.cnvQuadK b (BitVec.ofNat 4 dF) (BitVec.ofNat 6 aF) w1) else .error .reservedField
  | 6 => if dF < 16 ∧ aF < 64 ∧ cF = 0 then .ok (.cnvExpqK b (BitVec.ofNat 4 dF) (BitVec.ofNat 6 aF) w1) else .error .reservedField
  | _ => .error .reservedSub

/-- Major 0x31 (R83). -/
def decode31 (b : Bool) (sub dF aF cF : Nat) : Except Reject Instr :=
  match sub with
  | 0 => if dF < 16 ∧ aF < 16 ∧ cF < 16 then .ok (.cnvAdd b (BitVec.ofNat 4 dF) (BitVec.ofNat 4 aF) (BitVec.ofNat 4 cF)) else .error .reservedField
  | 1 => if dF < 16 ∧ aF < 16 ∧ cF < 16 then .ok (.cnvSub b (BitVec.ofNat 4 dF) (BitVec.ofNat 4 aF) (BitVec.ofNat 4 cF)) else .error .reservedField
  | 2 => if dF < 16 ∧ aF < 16 ∧ cF < 16 then .ok (.cnvMul b (BitVec.ofNat 4 dF) (BitVec.ofNat 4 aF) (BitVec.ofNat 4 cF)) else .error .reservedField
  | 3 => if dF < 16 ∧ aF < 16 ∧ cF < 16 then .ok (.cnvFma b (BitVec.ofNat 4 dF) (BitVec.ofNat 4 aF) (BitVec.ofNat 4 cF)) else .error .reservedField
  | 4 => if dF < 16 ∧ aF < 16 ∧ cF < 16 then .ok (.cnvMin b (BitVec.ofNat 4 dF) (BitVec.ofNat 4 aF) (BitVec.ofNat 4 cF)) else .error .reservedField
  | 5 => if dF < 16 ∧ aF < 16 ∧ cF < 16 then .ok (.cnvMax b (BitVec.ofNat 4 dF) (BitVec.ofNat 4 aF) (BitVec.ofNat 4 cF)) else .error .reservedField
  | 6 => if dF < 16 ∧ aF < 16 ∧ cF = 0 then .ok (.cnvMov b (BitVec.ofNat 4 dF) (BitVec.ofNat 4 aF)) else if dF < 16 ∧ aF < 64 ∧ cF = 1 then .ok (.cnvMovScalar b (BitVec.ofNat 4 dF) (BitVec.ofNat 6 aF)) else .error .reservedField
  | 7 => if dF < 16 ∧ aF < 16 ∧ cF < 8 then .ok (.cnvSfn b (BitVec.ofNat 4 dF) (BitVec.ofNat 4 aF) (BitVec.ofNat 3 cF)) else .error .reservedField
  | 8 => if aF < 16 ∧ cF < 64 then .ok (.cnvCmp b (BitVec.ofNat 4 dF) (BitVec.ofNat 3 (dF / 16)) (BitVec.ofNat 4 aF) (BitVec.ofNat 4 cF) (BitVec.ofNat 2 (cF / 16))) else .error .reservedField
  | 9 => if dF < 16 ∧ aF < 16 ∧ cF < 64 then .ok (.cnvBlend b (BitVec.ofNat 4 dF) (BitVec.ofNat 4 aF) (BitVec.ofNat 6 cF)) else .error .reservedField
  | 10 => if dF = 0 ∧ aF < 16 ∧ cF < 64 then .ok (.cnvZtest b (BitVec.ofNat 4 aF) (BitVec.ofNat 6 cF)) else .error .reservedField
  | 11 => if dF < 16 ∧ aF = 0 ∧ cF < 4 then .ok (.cnvVis b (BitVec.ofNat 4 dF) (BitVec.ofNat 2 cF)) else .error .reservedField
  | 12 => if dF < 16 ∧ aF = 0 ∧ cF = 0 then .ok (.cnvClr b (BitVec.ofNat 4 dF)) else if dF < 16 ∧ aF = 0 ∧ cF = 1 then .ok (.cnvClrOnes b (BitVec.ofNat 4 dF)) else if dF = 14 ∧ aF = 0 ∧ cF = 2 then .ok (.cnvClrVis b) else .error .reservedField
  | _ => .error .reservedSub

/-- Major 0x32 (R83). -/
def decode32 (b : Bool) (sub dF aF cF : Nat) : Except Reject Instr :=
  match sub with
  | 0 => if dF < 8 ∧ aF < 16 ∧ cF < 64 then .ok (.cnvPush b (BitVec.ofNat 3 dF) (BitVec.ofNat 4 aF) (BitVec.ofNat 6 cF)) else .error .reservedField
  | 1 => if dF = 0 ∧ aF = 0 ∧ cF = 0 then .ok (.cnvElse b) else .error .reservedField
  | 2 => if dF = 0 ∧ aF = 0 ∧ cF = 0 then .ok (.cnvPop b) else .error .reservedField
  | 3 => if dF = 0 ∧ aF = 0 ∧ cF = 0 then .ok (.cnvAll b) else .error .reservedField
  | 4 => if dF = 0 ∧ aF < 64 ∧ cF = 0 then .ok (.cnvWin b (BitVec.ofNat 6 aF)) else .error .reservedField
  | _ => .error .reservedSub

/-- Major 0x33 (R83). -/
def decode33 (b : Bool) (sub dF aF cF : Nat) (w1 : Word) : Except Reject Instr :=
  match sub with
  | 0 => if dF < 16 ∧ aF < 16 ∧ cF < 64 then .ok (.cnvMac b (BitVec.ofNat 4 dF) (BitVec.ofNat 4 aF) (BitVec.ofNat 6 cF)) else .error .reservedField
  | 1 => if dF < 16 ∧ aF < 16 ∧ cF = 0 then .ok (.cnvMacK b (BitVec.ofNat 4 dF) (BitVec.ofNat 4 aF) w1) else .error .reservedField
  | _ => .error .reservedSub

/-- Major 0x34 (R83). -/
def decode34 (b : Bool) (sub dF aF cF : Nat) : Except Reject Instr :=
  match sub with
  | 0 => if aF < 16 ∧ cF < 64 then .ok (.cnvRdl b (BitVec.ofNat 7 dF) (BitVec.ofNat 4 aF) (BitVec.ofNat 6 cF)) else .error .reservedField
  | 1 => if dF < 16 ∧ cF < 64 then .ok (.cnvWrl b (BitVec.ofNat 4 dF) (BitVec.ofNat 7 aF) (BitVec.ofNat 6 cF)) else .error .reservedField
  | 2 => if dF < 16 ∧ aF < 64 ∧ cF = 0 then .ok (.cnvLoad b (BitVec.ofNat 4 dF) (BitVec.ofNat 6 aF)) else .error .reservedField
  | 3 => if dF < 16 ∧ aF < 64 ∧ cF = 0 then .ok (.cnvStore b (BitVec.ofNat 4 dF) (BitVec.ofNat 6 aF)) else .error .reservedField
  | 4 => if aF < 16 ∧ cF < 64 then .ok (.cnvRdlA b (BitVec.ofNat 7 dF) (BitVec.ofNat 4 aF) (BitVec.ofNat 6 cF)) else .error .reservedField
  | _ => .error .reservedSub

/-- Major 0x35 (R83). -/
def decode35 (b : Bool) (sub dF aF cF : Nat) : Except Reject Instr :=
  match sub with
  | 0 => if dF < 64 ∧ aF = 0 ∧ cF = 0 then .ok (.cnvXsum b (BitVec.ofNat 6 dF)) else .error .reservedField
  | 1 => if aF < 64 ∧ cF < 32 then .ok (.cnvXmap b (BitVec.ofNat 7 dF) (BitVec.ofNat 6 aF) (BitVec.ofNat 5 cF)) else .error .reservedField
  | 2 => if dF = 0 ∧ aF = 0 ∧ cF < 32 then .ok (.cnvXclr b (BitVec.ofNat 5 cF)) else .error .reservedField
  | 3 => if dF = 0 ∧ aF = 0 ∧ cF = 0 then .ok (.cnvSync b) else .error .reservedField
  | 4 => if dF = 0 ∧ aF < 64 ∧ cF < 64 then .ok (.cnvOrg b (BitVec.ofNat 6 aF) (BitVec.ofNat 6 cF)) else .error .reservedField
  | _ => .error .reservedSub

/-- Major 0x39 (R83). -/
def decode39 (b : Bool) (sub dF aF cF : Nat) : Except Reject Instr :=
  match sub with
  | 0 => if dF = 0 ∧ aF < 64 ∧ cF = 0 then .ok (.accClr b (BitVec.ofNat 6 aF)) else .error .reservedField
  | 1 => if dF < 64 ∧ aF < 64 ∧ cF < 64 then .ok (.accProm b (BitVec.ofNat 6 dF) (BitVec.ofNat 6 aF) (BitVec.ofNat 6 cF)) else .error .reservedField
  | 2 => if dF < 64 ∧ aF < 64 ∧ cF = 0 then .ok (.accLd b (BitVec.ofNat 6 dF) (BitVec.ofNat 6 aF)) else .error .reservedField
  | 3 => if dF < 64 ∧ aF < 64 ∧ cF < 16 then .ok (.accSt b (BitVec.ofNat 6 dF) (BitVec.ofNat 6 aF) (BitVec.ofNat 3 cF) (bitOf (cF / 8))) else .error .reservedField
  | _ => .error .reservedSub

/-- Major 0x3A (R83). -/
def decode3A (b : Bool) (sub dF aF cF : Nat) : Except Reject Instr :=
  match sub with
  | 0 => if cF < 64 then .ok (.netv b (BitVec.ofNat 7 dF) (BitVec.ofNat 7 aF) (BitVec.ofNat 6 cF)) else .error .reservedField
  | 1 => if cF < 64 then .ok (.nets b (BitVec.ofNat 7 dF) (BitVec.ofNat 7 aF) (BitVec.ofNat 6 cF)) else .error .reservedField
  | _ => .error .reservedSub

/-- Major 0x3B (R83). -/
def decode3B (b : Bool) (sub dF aF cF : Nat) : Except Reject Instr :=
  match sub with
  | 0 => if dF < 64 ∧ aF < 64 ∧ cF < 2 then .ok (.tagRd b (BitVec.ofNat 6 dF) (BitVec.ofNat 6 aF) (bitOf cF)) else .error .reservedField
  | 1 => if dF = 0 ∧ aF < 64 ∧ cF < 64 then .ok (.tagWr b (BitVec.ofNat 6 aF) (BitVec.ofNat 6 cF)) else .error .reservedField
  | 2 => if dF < 64 ∧ aF < 64 ∧ cF < 64 then .ok (.tagChk b (BitVec.ofNat 6 dF) (BitVec.ofNat 6 aF) (BitVec.ofNat 6 cF)) else .error .reservedField
  | 3 => if dF < 64 ∧ aF < 64 ∧ cF = 0 then .ok (.tileHdr b (BitVec.ofNat 6 dF) (BitVec.ofNat 6 aF)) else .error .reservedField
  | _ => .error .reservedSub

/-- Major 0x3C (R83). -/
def decode3C (b : Bool) (sub dF aF cF : Nat) : Except Reject Instr :=
  match sub with
  | 0 => if dF = 0 then .ok (.recPush b (BitVec.ofNat 7 aF) (BitVec.ofNat 7 cF)) else .error .reservedField
  | 1 => if dF < 64 then .ok (.recTry b (BitVec.ofNat 6 dF) (BitVec.ofNat 7 aF) (BitVec.ofNat 7 cF)) else .error .reservedField
  | 2 => if dF = 0 ∧ aF < 64 ∧ cF = 0 then .ok (.nodeDone b (BitVec.ofNat 6 aF)) else .error .reservedField
  | 3 => if dF = 0 ∧ aF < 64 ∧ cF = 0 then .ok (.cancel b (BitVec.ofNat 6 aF)) else .error .reservedField
  | 4 => if dF = 0 ∧ aF = 0 ∧ cF = 0 then .ok (.qpass b) else .error .reservedField
  | 5 => if dF = 0 ∧ aF = 0 ∧ cF = 0 then .ok (.rsecIn b) else .error .reservedField
  | 6 => if dF = 0 ∧ aF = 0 ∧ cF = 0 then .ok (.rsecOut b) else .error .reservedField
  | 7 => if dF = 0 ∧ aF = 0 ∧ cF = 0 then .ok (.grace b) else .error .reservedField
  | 8 => if dF = 0 ∧ aF < 64 ∧ cF < 64 then .ok (.defer b (BitVec.ofNat 6 aF) (BitVec.ofNat 6 cF)) else .error .reservedField
  | 9 => if dF < 2 ∧ aF < 64 ∧ cF < 64 then .ok (.frameRel b (bitOf dF) (BitVec.ofNat 6 aF) (BitVec.ofNat 6 cF)) else .error .reservedField
  | _ => .error .reservedSub

/-- Major 0x3D (R83). -/
def decode3D (b : Bool) (sub dF aF cF : Nat) : Except Reject Instr :=
  match sub with
  | 0 => if dF = 0 ∧ aF = 0 ∧ cF = 0 then .ok (.bankOpen b) else .error .reservedField
  | 1 => if dF < 8 ∧ aF < 64 ∧ cF < 64 then .ok (.bankDot b (BitVec.ofNat 2 dF) (bitOf (dF / 4)) (BitVec.ofNat 6 aF) (BitVec.ofNat 6 cF)) else .error .reservedField
  | 2 => if dF < 8 ∧ aF < 64 ∧ cF < 64 then .ok (.bankAxpy b (BitVec.ofNat 2 dF) (bitOf (dF / 4)) (BitVec.ofNat 6 aF) (BitVec.ofNat 6 cF)) else .error .reservedField
  | 3 => if dF < 8 ∧ aF < 64 ∧ cF < 64 then .ok (.bankScal b (BitVec.ofNat 2 dF) (bitOf (dF / 4)) (BitVec.ofNat 6 aF) (BitVec.ofNat 6 cF)) else .error .reservedField
  | 4 => if dF < 8 ∧ aF < 64 ∧ cF < 64 then .ok (.bankSum b (BitVec.ofNat 2 dF) (bitOf (dF / 4)) (BitVec.ofNat 6 aF) (BitVec.ofNat 6 cF)) else .error .reservedField
  | 5 => if dF < 8 ∧ aF < 64 ∧ cF < 64 then .ok (.bankMax b (BitVec.ofNat 2 dF) (bitOf (dF / 4)) (BitVec.ofNat 6 aF) (BitVec.ofNat 6 cF)) else .error .reservedField
  | 6 => if dF < 8 ∧ aF < 64 ∧ cF < 64 then .ok (.bankFill b (BitVec.ofNat 2 dF) (bitOf (dF / 4)) (BitVec.ofNat 6 aF) (BitVec.ofNat 6 cF)) else .error .reservedField
  | 7 => if dF < 8 ∧ aF < 64 ∧ cF < 64 then .ok (.bankCopy b (BitVec.ofNat 2 dF) (bitOf (dF / 4)) (BitVec.ofNat 6 aF) (BitVec.ofNat 6 cF)) else .error .reservedField
  | 8 => if dF = 0 ∧ aF = 0 ∧ cF < 2 then .ok (.bankClose b (bitOf cF)) else .error .reservedField
  | 9 => if dF = 0 ∧ aF = 0 ∧ cF = 0 then .ok (.bankWait b) else .error .reservedField
  | 10 => if dF < 64 ∧ aF < 64 ∧ cF < 64 then .ok (.bankErr b (BitVec.ofNat 6 dF) (BitVec.ofNat 6 aF) (BitVec.ofNat 6 cF)) else .error .reservedField
  | 11 => if dF = 0 ∧ aF < 64 ∧ cF = 0 then .ok (.ringRed b (BitVec.ofNat 6 aF)) else .error .reservedField
  | 12 => if dF = 0 ∧ aF < 64 ∧ cF < 64 then .ok (.ringWait b (BitVec.ofNat 6 aF) (BitVec.ofNat 6 cF)) else .error .reservedField
  | _ => .error .reservedSub

/-- Major 0x3E (R83). -/
def decode3E (b : Bool) (sub dF aF cF : Nat) : Except Reject Instr :=
  match sub with
  | 0 => if dF = 0 ∧ cF < 64 then .ok (.trap b (BitVec.ofNat 7 aF) (BitVec.ofNat 6 cF)) else .error .reservedField
  | 1 => if dF = 0 ∧ aF = 0 ∧ cF = 0 then .ok (.rtt b) else .error .reservedField
  | 3 => if dF = 0 ∧ aF = 0 ∧ cF = 0 then .ok (.halt b) else .error .reservedField
  | 4 => if dF < 64 ∧ aF < 64 ∧ cF = 0 then .ok (.ctxrd b (BitVec.ofNat 6 dF) (BitVec.ofNat 6 aF)) else .error .reservedField
  | 5 => if dF < 64 ∧ aF = 0 ∧ cF < 64 then .ok (.ctxwr b (BitVec.ofNat 6 dF) (BitVec.ofNat 6 cF)) else .error .reservedField
  | 6 => if dF = 0 ∧ aF = 0 ∧ cF = 0 then .ok (.wdog b) else .error .reservedField
  | 2 => if dF = 0 then .ok (.bkpt b (BitVec.ofNat 14 (aF * 128 + cF))) else .error .reservedField
  | _ => .error .reservedSub

/-- Majors 0x03 to 0x09: the I format (R74). -/
def decodeI (b : Bool) (maj dF aF imm : Nat) : Except Reject Instr :=
  match maj with
  | 3 => .ok (.addi b (BitVec.ofNat 7 dF) (BitVec.ofNat 7 aF) (BitVec.ofNat 11 imm))
  | 4 => .ok (.andi b (BitVec.ofNat 7 dF) (BitVec.ofNat 7 aF) (BitVec.ofNat 11 imm))
  | 5 => .ok (.ori b (BitVec.ofNat 7 dF) (BitVec.ofNat 7 aF) (BitVec.ofNat 11 imm))
  | 6 => .ok (.xori b (BitVec.ofNat 7 dF) (BitVec.ofNat 7 aF) (BitVec.ofNat 11 imm))
  | 7 =>
    match imm / 32 with
    | 0 => .ok (.shli b (BitVec.ofNat 7 dF) (BitVec.ofNat 7 aF) (BitVec.ofNat 5 imm))
    | 1 => .ok (.shri b (BitVec.ofNat 7 dF) (BitVec.ofNat 7 aF) (BitVec.ofNat 5 imm))
    | 2 => .ok (.sari b (BitVec.ofNat 7 dF) (BitVec.ofNat 7 aF) (BitVec.ofNat 5 imm))
    | _ => .error .reservedSub
  | 8 => .ok (.movi b (BitVec.ofNat 7 dF) (BitVec.ofNat 18 (aF * 2048 + imm)))
  | _ => .ok (.cmpi b (BitVec.ofNat 4 (dF / 8)) (BitVec.ofNat 3 dF) (BitVec.ofNat 7 aF) (BitVec.ofNat 11 imm))

/-- Major 0x0C, packed arithmetic: SUB bit 3 selects BF16 (R104). -/
def decode0C (b : Bool) (sub dF aF cF : Nat) : Except Reject Instr :=
  match sub % 8 with
  | 0 => .ok (.padd b (bitOf (sub / 8)) (BitVec.ofNat 7 dF) (BitVec.ofNat 7 aF) (BitVec.ofNat 7 cF))
  | 1 => .ok (.psub b (bitOf (sub / 8)) (BitVec.ofNat 7 dF) (BitVec.ofNat 7 aF) (BitVec.ofNat 7 cF))
  | 2 => .ok (.pmul b (bitOf (sub / 8)) (BitVec.ofNat 7 dF) (BitVec.ofNat 7 aF) (BitVec.ofNat 7 cF))
  | 3 => .ok (.pfma b (bitOf (sub / 8)) (BitVec.ofNat 7 dF) (BitVec.ofNat 7 aF) (BitVec.ofNat 7 cF))
  | 4 => .ok (.pmin b (bitOf (sub / 8)) (BitVec.ofNat 7 dF) (BitVec.ofNat 7 aF) (BitVec.ofNat 7 cF))
  | 5 => .ok (.pmax b (bitOf (sub / 8)) (BitVec.ofNat 7 dF) (BitVec.ofNat 7 aF) (BitVec.ofNat 7 cF))
  | _ => .error .reservedSub

/-- Major 0x13, scalar immediates (R75). -/
def decode13 (b : Bool) (sop dF aF imm : Nat) : Except Reject Instr :=
  match sop with
  | 0 => .ok (.saddi b (BitVec.ofNat 6 dF) (BitVec.ofNat 6 aF) (BitVec.ofNat 10 imm))
  | 1 => .ok (.sandi b (BitVec.ofNat 6 dF) (BitVec.ofNat 6 aF) (BitVec.ofNat 10 imm))
  | 2 => .ok (.sori b (BitVec.ofNat 6 dF) (BitVec.ofNat 6 aF) (BitVec.ofNat 10 imm))
  | 3 => .ok (.sxori b (BitVec.ofNat 6 dF) (BitVec.ofNat 6 aF) (BitVec.ofNat 10 imm))
  | 4 =>
    match imm / 32 with
    | 0 => .ok (.sshli b (BitVec.ofNat 6 dF) (BitVec.ofNat 6 aF) (BitVec.ofNat 5 imm))
    | 1 => .ok (.sshri b (BitVec.ofNat 6 dF) (BitVec.ofNat 6 aF) (BitVec.ofNat 5 imm))
    | 2 => .ok (.ssari b (BitVec.ofNat 6 dF) (BitVec.ofNat 6 aF) (BitVec.ofNat 5 imm))
    | _ => .error .reservedSub
  | 5 => .ok (.smovi b (BitVec.ofNat 6 dF) (BitVec.ofNat 16 (aF * 1024 + imm)))
  | 6 => if dF = 0 then .ok (.scmpi b (BitVec.ofNat 6 aF) (BitVec.ofNat 10 imm)) else .error .reservedField
  | _ => .error .reservedSub

/-- The M format, majors 0x20 to 0x24 and 0x27: the fields of the first word and the offset word that E = 1 brings
(R72, R76). -/
def decodeM (b : Bool) (maj q t dF aF s e : Nat) (w1 : Word) : Except Reject Instr :=
  match maj with
  | 0x20 =>
    if e = 0 then .ok (.ld b (BitVec.ofNat 2 q) (BitVec.ofNat 3 t) (BitVec.ofNat 7 dF) (BitVec.ofNat 7 aF) (BitVec.ofNat 5 s))
    else .ok (.ldOffset b (BitVec.ofNat 2 q) (BitVec.ofNat 3 t) (BitVec.ofNat 7 dF) (BitVec.ofNat 7 aF) (BitVec.ofNat 5 s) w1)
  | 0x21 =>
    if e = 0 then .ok (.st b (BitVec.ofNat 2 q) (BitVec.ofNat 3 t) (BitVec.ofNat 7 dF) (BitVec.ofNat 7 aF) (BitVec.ofNat 5 s))
    else .ok (.stOffset b (BitVec.ofNat 2 q) (BitVec.ofNat 3 t) (BitVec.ofNat 7 dF) (BitVec.ofNat 7 aF) (BitVec.ofNat 5 s) w1)
  | 0x22 =>
    if q = 0 ∧ s % 2 = 0 then
      if e = 0 then .ok (.ldp b (BitVec.ofNat 3 t) (BitVec.ofNat 7 dF) (BitVec.ofNat 7 aF) (BitVec.ofNat 3 (s / 4)) (bitOf (s / 2)))
      else .ok (.ldpOffset b (BitVec.ofNat 3 t) (BitVec.ofNat 7 dF) (BitVec.ofNat 7 aF) (BitVec.ofNat 3 (s / 4)) (bitOf (s / 2)) w1)
    else .error .reservedField
  | 0x23 =>
    if q = 0 ∧ s % 2 = 0 then
      if e = 0 then .ok (.stp b (BitVec.ofNat 3 t) (BitVec.ofNat 7 dF) (BitVec.ofNat 7 aF) (BitVec.ofNat 3 (s / 4)) (bitOf (s / 2)))
      else .ok (.stpOffset b (BitVec.ofNat 3 t) (BitVec.ofNat 7 dF) (BitVec.ofNat 7 aF) (BitVec.ofNat 3 (s / 4)) (bitOf (s / 2)) w1)
    else .error .reservedField
  | 0x24 =>
    if e = 0 then .ok (.lda b (BitVec.ofNat 2 q) (BitVec.ofNat 3 t) (BitVec.ofNat 7 dF) (BitVec.ofNat 7 aF) (BitVec.ofNat 5 s))
    else .ok (.ldaOffset b (BitVec.ofNat 2 q) (BitVec.ofNat 3 t) (BitVec.ofNat 7 dF) (BitVec.ofNat 7 aF) (BitVec.ofNat 5 s) w1)
  | _ =>
    if aF = 0 ∧ dF < 64 then
      if t < 4 then
        if e = 0 then .ok (.sld b (BitVec.ofNat 2 q) (BitVec.ofNat 2 t) (BitVec.ofNat 6 dF) (BitVec.ofNat 5 s))
        else .ok (.sldOffset b (BitVec.ofNat 2 q) (BitVec.ofNat 2 t) (BitVec.ofNat 6 dF) (BitVec.ofNat 5 s) w1)
      else
        if e = 0 then .ok (.sst b (BitVec.ofNat 2 q) (BitVec.ofNat 2 t) (BitVec.ofNat 6 dF) (BitVec.ofNat 5 s))
        else .ok (.sstOffset b (BitVec.ofNat 2 q) (BitVec.ofNat 2 t) (BitVec.ofNat 6 dF) (BitVec.ofNat 5 s) w1)
    else .error .reservedField

/-- ATOM, major 0x25: E must be 1 and the second word is the control word (R72, R269). -/
def decodeAtom (b : Bool) (q t dF aF s e x : Nat) : Except Reject Instr :=
  if e = 1 ∧ t = 0 ∧ x / 128 % 524288 = 0 then
    .ok (.atom b (BitVec.ofNat 2 q) (BitVec.ofNat 7 dF) (BitVec.ofNat 7 aF) (BitVec.ofNat 5 s)
      (BitVec.ofNat 4 (x / 268435456)) (bitOf (x / 134217728)) (bitOf (x / 67108864)) (BitVec.ofNat 7 x))
  else .error .reservedField

/-- The MMA and MMA.SP words, major 0x38 (R88). -/
def decodeMma (b : Bool) (sub dF aF cF x : Nat) : Except Reject Instr :=
  if x % 512 = 0 then
    match sub with
    | 0 => .ok (.mma b (BitVec.ofNat 7 dF) (BitVec.ofNat 7 aF) (BitVec.ofNat 7 cF)
        (bitOf (x / 2147483648)) (bitOf (x / 1073741824)) (BitVec.ofNat 6 (x / 16777216)) (BitVec.ofNat 15 (x / 512)))
    | 1 => .ok (.mmaSp b (BitVec.ofNat 7 dF) (BitVec.ofNat 7 aF) (BitVec.ofNat 7 cF)
        (bitOf (x / 2147483648)) (bitOf (x / 1073741824)) (BitVec.ofNat 6 (x / 16777216)) (BitVec.ofNat 15 (x / 512)))
    | _ => .error .reservedSub
  else .error .reservedField

/-- The copy family, major 0x28 (R86), with the MMA that a set FOLLOW joins to it (R88): `x` is the second word, `y` and
`z` the words of the MMA. -/
def decodeCpy (b : Bool) (sub dF aF cF x y z : Nat) : Except Reject Instr :=
  if dF < 64 ∧ aF < 64 ∧ cF < 64 ∧ x % 16777216 = 0 ∧ sub < 3 then
    if x / 1073741824 < 2 ∧ x / 134217728 % 4 < 2 then
      if x / 536870912 % 2 = 0 then
        match sub with
        | 0 => .ok (.cpy b (BitVec.ofNat 6 dF) (BitVec.ofNat 6 aF) (BitVec.ofNat 6 cF)
            (bitOf (x / 1073741824)) (bitOf (x / 134217728)) (BitVec.ofNat 3 (x / 16777216)))
        | 1 => .ok (.cpy2d b (BitVec.ofNat 6 dF) (BitVec.ofNat 6 aF) (BitVec.ofNat 6 cF)
            (bitOf (x / 1073741824)) (bitOf (x / 134217728)) (BitVec.ofNat 3 (x / 16777216)))
        | _ => .ok (.cpyT b (BitVec.ofNat 6 dF) (BitVec.ofNat 6 aF) (BitVec.ofNat 6 cF)
            (bitOf (x / 1073741824)) (bitOf (x / 134217728)) (BitVec.ofNat 3 (x / 16777216)))
      else if x / 1073741824 = 0 ∧ y / 33554432 % 64 = 56 ∧ y / 2097152 % 16 < 2 ∧ z % 512 = 0 then
        .ok (.cpyFollowMma b (bitOf (y / 2147483648)) (BitVec.ofNat 2 sub) (BitVec.ofNat 6 dF) (BitVec.ofNat 6 aF) (BitVec.ofNat 6 cF)
          (bitOf (x / 134217728)) (BitVec.ofNat 3 (x / 16777216))
          (bitOf (y / 2097152)) (BitVec.ofNat 7 (y / 16384)) (BitVec.ofNat 7 (y / 128)) (BitVec.ofNat 7 y)
          (bitOf (z / 2147483648)) (bitOf (z / 1073741824)) (BitVec.ofNat 6 (z / 16777216)) (BitVec.ofNat 15 (z / 512)))
      else .error .badFollow
    else .error .reservedCode
  else if sub < 3 then .error .reservedField else .error .reservedSub

/-- PUT, GET and PSIG, major 0x29 (R87). -/
def decodePut (b : Bool) (sub dF aF cF x : Nat) : Except Reject Instr :=
  if dF < 64 ∧ aF < 64 ∧ cF < 64 then
    if x / 16777216 % 4 < 2 ∧ x / 4194304 % 4 < 2 then
      match sub with
      | 0 => .ok (.put b (BitVec.ofNat 6 dF) (BitVec.ofNat 6 aF) (BitVec.ofNat 6 cF) (BitVec.ofNat 6 (x / 67108864))
          (bitOf (x / 16777216)) (bitOf (x / 4194304)) (BitVec.ofNat 22 x))
      | 1 => .ok (.get b (BitVec.ofNat 6 dF) (BitVec.ofNat 6 aF) (BitVec.ofNat 6 cF) (BitVec.ofNat 6 (x / 67108864))
          (bitOf (x / 16777216)) (bitOf (x / 4194304)) (BitVec.ofNat 22 x))
      | 2 => .ok (.psig b (BitVec.ofNat 6 dF) (BitVec.ofNat 6 aF) (BitVec.ofNat 6 cF) (BitVec.ofNat 6 (x / 67108864))
          (bitOf (x / 16777216)) (bitOf (x / 4194304)) (BitVec.ofNat 22 x))
      | _ => .error .reservedSub
    else .error .reservedCode
  else .error .reservedField

/-- The instruction that stands at `w0`, with the three words that follow it, before the operand rules are checked.  The
first word alone decides which words are read (R69, R88). -/
def decodeRaw (w0 w1 w2 w3 : Word) : Except Reject Instr :=
  let n := w0.toNat
  let b := bitOf (n / 2147483648)
  let sub := n / 2097152 % 16
  let dF := n / 16384 % 128
  let aF := n / 128 % 128
  let cF := n % 128
  let iD := n / 262144 % 128
  let iA := n / 2048 % 128
  let iM := n % 2048
  match n / 33554432 % 64 with
  | 0x01 => decode01 b sub dF aF cF
  | 0x02 => decode02 b sub dF aF cF
  | 0x03 => decodeI b 3 iD iA iM
  | 0x04 => decodeI b 4 iD iA iM
  | 0x05 => decodeI b 5 iD iA iM
  | 0x06 => decodeI b 6 iD iA iM
  | 0x07 => decodeI b 7 iD iA iM
  | 0x08 => decodeI b 8 iD iA iM
  | 0x09 => decodeI b 9 iD iA iM
  | 0x0A =>
    if dF < 8 then .ok (.cmp b (BitVec.ofNat 4 sub) (BitVec.ofNat 3 dF) (BitVec.ofNat 7 aF) (BitVec.ofNat 7 cF))
    else .error .reservedField
  | 0x0B => decode0B b sub dF aF cF
  | 0x0C => decode0C b sub dF aF cF
  | 0x0D =>
    if dF < 8 then .ok (.fcmp b (BitVec.ofNat 4 sub) (BitVec.ofNat 3 dF) (BitVec.ofNat 7 aF) (BitVec.ofNat 7 cF))
    else .error .reservedField
  | 0x0E => decode0E b sub dF aF cF
  | 0x0F =>
    .ok (.cvt b (BitVec.ofNat 4 sub) (BitVec.ofNat 7 dF) (BitVec.ofNat 7 aF) (BitVec.ofNat 2 (cF / 32)) (bitOf (cF / 16)) (BitVec.ofNat 4 cF))
  | 0x10 => decode10 b sub dF aF cF
  | 0x11 => decode11 b sub dF aF cF
  | 0x12 => decode12 b sub dF aF cF
  | 0x13 => decode13 b (n / 4194304 % 8) (n / 65536 % 64) (n / 1024 % 64) (n % 1024)
  | 0x14 => decode14 b sub dF aF cF w1
  | 0x15 => decode15 b sub dF aF cF
  | 0x16 => .ok (.bra b (BitVec.ofNat 4 sub) (BitVec.ofNat 21 n))
  | 0x17 => .ok (.call b (BitVec.ofNat 4 sub) (BitVec.ofNat 21 n))
  | 0x18 => decode18 b sub dF aF cF
  | 0x19 => decode19 b sub dF aF cF
  | 0x20 => decodeM b 0x20 (n / 8388608 % 4) (n / 1048576 % 8) (n / 8192 % 128) (n / 64 % 128) (n / 2 % 32) (n % 2) w1
  | 0x21 => decodeM b 0x21 (n / 8388608 % 4) (n / 1048576 % 8) (n / 8192 % 128) (n / 64 % 128) (n / 2 % 32) (n % 2) w1
  | 0x22 => decodeM b 0x22 (n / 8388608 % 4) (n / 1048576 % 8) (n / 8192 % 128) (n / 64 % 128) (n / 2 % 32) (n % 2) w1
  | 0x23 => decodeM b 0x23 (n / 8388608 % 4) (n / 1048576 % 8) (n / 8192 % 128) (n / 64 % 128) (n / 2 % 32) (n % 2) w1
  | 0x24 => decodeM b 0x24 (n / 8388608 % 4) (n / 1048576 % 8) (n / 8192 % 128) (n / 64 % 128) (n / 2 % 32) (n % 2) w1
  | 0x25 => decodeAtom b (n / 8388608 % 4) (n / 1048576 % 8) (n / 8192 % 128) (n / 64 % 128) (n / 2 % 32) (n % 2) w1.toNat
  | 0x26 => decode26 b sub dF aF cF
  | 0x27 => decodeM b 0x27 (n / 8388608 % 4) (n / 1048576 % 8) (n / 8192 % 128) (n / 64 % 128) (n / 2 % 32) (n % 2) w1
  | 0x28 => decodeCpy b sub dF aF cF w1.toNat w2.toNat w3.toNat
  | 0x29 => decodePut b sub dF aF cF w1.toNat
  | 0x2A => decode2A b sub dF aF cF
  | 0x2B => decode2B b sub dF aF cF
  | 0x30 => decode30 b sub dF aF cF w1
  | 0x31 => decode31 b sub dF aF cF
  | 0x32 => decode32 b sub dF aF cF
  | 0x33 => decode33 b sub dF aF cF w1
  | 0x34 => decode34 b sub dF aF cF
  | 0x35 => decode35 b sub dF aF cF
  | 0x38 => decodeMma b sub dF aF cF w1.toNat
  | 0x39 => decode39 b sub dF aF cF
  | 0x3A => decode3A b sub dF aF cF
  | 0x3B => decode3B b sub dF aF cF
  | 0x3C => decode3C b sub dF aF cF
  | 0x3D => decode3D b sub dF aF cF
  | 0x3E => decode3E b sub dF aF cF
  | _ => .error .illegalMajor

/-- The instruction of four words of which the first words stand for it, or the name of the rule they break (R90). -/
def decodeWords (w0 w1 w2 w3 : Word) : Except Reject Instr :=
  match decodeRaw w0 w1 w2 w3 with
  | .error r => .error r
  | .ok i =>
    match i.violation with
    | none => .ok i
    | some r => .error r

/-- How many words the instruction that begins with this word has, a following MMA not counted (R69). -/
def wordLength (w0 : Word) : Nat :=
  let n := w0.toNat
  let maj := n / 33554432 % 64
  let sub := n / 2097152 % 16
  if maj = 0x25 ∨ maj = 0x14 ∨ maj = 0x28 ∨ maj = 0x29 ∨ maj = 0x38 then 2
  else if (0x20 ≤ maj ∧ maj ≤ 0x24) ∨ maj = 0x27 then n % 2 + 1
  else if maj = 0x30 ∧ 4 ≤ sub ∧ sub ≤ 6 then 2
  else if maj = 0x33 ∧ sub = 1 then 2
  else 1

/-- A copy word pair whose FOLLOW bit takes in the MMA that follows (R86, R88). -/
def followsMma (w0 w1 : Word) : Bool := w0.toNat / 33554432 % 64 == 0x28 && bitOf (w1.toNat / 536870912)

/-- The words of the whole instruction (R69, R88). -/
def instrLength (w0 w1 : Word) : Nat := if followsMma w0 w1 then 4 else wordLength w0

/-- A word from its four bytes, the lowest address first (R3: little-endian). -/
def wordOfBytes (b0 b1 b2 b3 : Byte) : Word :=
  BitVec.ofNat 32 (b0.toNat + b1.toNat * 256 + b2.toNat * 65536 + b3.toNat * 16777216)

/-- The next word of a byte list, zero bytes past its end, and the bytes after it. -/
def takeWord (l : List Byte) : Word × List Byte :=
  (wordOfBytes (l.getD 0 0) (l.getD 1 0) (l.getD 2 0) (l.getD 3 0), l.drop 4)

/-- The instruction at the head of a byte list and the bytes after it; a list too short for it is read as if zeros followed. -/
def decodeBytes (l : List Byte) : Except Reject (Instr × List Byte) :=
  let w0 := (takeWord l).1
  let w1 := (takeWord (l.drop 4)).1
  match decodeWords w0 w1 (takeWord (l.drop 8)).1 (takeWord (l.drop 12)).1 with
  | .ok i => .ok (i, l.drop (4 * instrLength w0 w1))
  | .error r => .error r

/-- The opcode table's numbering: bit 0 is the least significant bit of the first word, and a later word's bits count on
from it. -/
def decodeTableWord (nbits w : Nat) : Option Instr :=
  let n := w % 2 ^ nbits
  match decodeWords (BitVec.ofNat 32 n) (BitVec.ofNat 32 (n / 2 ^ 32)) (BitVec.ofNat 32 (n / 2 ^ 64)) (BitVec.ofNat 32 (n / 2 ^ 96)) with
  | .ok i => some i
  | .error _ => none

/-! ## The encoder -/

/-- A word of the R or X format: belay, major, SUB, D, A, C (R72). -/
def mkR (b : Bool) (maj sub d a c : Nat) : Word :=
  BitVec.ofNat 32 (b.toNat * 2147483648 + maj * 33554432 + sub * 2097152 + d * 16384 + a * 128 + c)

/-- A word of the I format (R72). -/
def mkI (b : Bool) (maj d a imm : Nat) : Word :=
  BitVec.ofNat 32 (b.toNat * 2147483648 + maj * 33554432 + d * 262144 + a * 2048 + imm)

/-- A word of a format of its own: belay, major and the 25 bits below (R72, R74, R75). -/
def mkW (b : Bool) (maj rest : Nat) : Word :=
  BitVec.ofNat 32 (b.toNat * 2147483648 + maj * 33554432 + rest)

/-- A scalar-immediate word, major 0x13 (R75). -/
def mkS (b : Bool) (sop d a imm : Nat) : Word :=
  BitVec.ofNat 32 (b.toNat * 2147483648 + 19 * 33554432 + sop * 4194304 + d * 65536 + a * 1024 + imm)

/-- A word of the M format (R72, R76). -/
def mkM (b : Bool) (maj q t d a s e : Nat) : Word :=
  BitVec.ofNat 32 (b.toNat * 2147483648 + maj * 33554432 + q * 8388608 + t * 1048576 + d * 8192 + a * 64 + s * 2 + e)

/-- The control word of ATOM (R269). -/
def mkAtom (op : Nat) (w nr : Bool) (c : Nat) : Word :=
  BitVec.ofNat 32 (op * 268435456 + w.toNat * 134217728 + nr.toNat * 67108864 + c)

/-- The second word of the copy family (R86). -/
def mkCpy (dir follow ord sw : Nat) : Word :=
  BitVec.ofNat 32 (dir * 1073741824 + follow * 536870912 + ord * 134217728 + sw * 16777216)

/-- The second word of PUT, GET and PSIG (R87). -/
def mkPut (win tc ord dev : Nat) : Word :=
  BitVec.ofNat 32 (win * 67108864 + tc * 16777216 + ord * 4194304 + dev)

/-- The second word of MMA and MMA.SP (R88). -/
def mkMma (da db : Bool) (kg fbr : Nat) : Word :=
  BitVec.ofNat 32 (da.toNat * 2147483648 + db.toNat * 1073741824 + kg * 16777216 + fbr * 512)

/-- The words of an instruction; an event has none. -/
def encode (i : Instr) : List Word :=
  match i with
  | .add b d a c => [mkR b 1 0 d.toNat a.toNat c.toNat]
  | .sub b d a c => [mkR b 1 1 d.toNat a.toNat c.toNat]
  | .mul b d a c => [mkR b 1 2 d.toNat a.toNat c.toNat]
  | .mulhi b d a c => [mkR b 1 3 d.toNat a.toNat c.toNat]
  | .mulhu b d a c => [mkR b 1 4 d.toNat a.toNat c.toNat]
  | .imad b d a c => [mkR b 1 5 d.toNat a.toNat c.toNat]
  | .min b d a c => [mkR b 1 6 d.toNat a.toNat c.toNat]
  | .max b d a c => [mkR b 1 7 d.toNat a.toNat c.toNat]
  | .minu b d a c => [mkR b 1 8 d.toNat a.toNat c.toNat]
  | .maxu b d a c => [mkR b 1 9 d.toNat a.toNat c.toNat]
  | .and b d a c => [mkR b 2 0 d.toNat a.toNat c.toNat]
  | .or b d a c => [mkR b 2 1 d.toNat a.toNat c.toNat]
  | .xor b d a c => [mkR b 2 2 d.toNat a.toNat c.toNat]
  | .andn b d a c => [mkR b 2 3 d.toNat a.toNat c.toNat]
  | .shl b d a c => [mkR b 2 4 d.toNat a.toNat c.toNat]
  | .shr b d a c => [mkR b 2 5 d.toNat a.toNat c.toNat]
  | .sar b d a c => [mkR b 2 6 d.toNat a.toNat c.toNat]
  | .bfx b d a c => [mkR b 2 7 d.toNat a.toNat c.toNat]
  | .bfxs b d a c => [mkR b 2 8 d.toNat a.toNat c.toNat]
  | .bfi b d a c => [mkR b 2 9 d.toNat a.toNat c.toNat]
  | .popc b d a => [mkR b 2 10 d.toNat a.toNat 0]
  | .clz b d a => [mkR b 2 11 d.toNat a.toNat 0]
  | .add64 b d a c => [mkR b 2 12 d.toNat a.toNat c.toNat]
  | .sub64 b d a c => [mkR b 2 13 d.toNat a.toNat c.toNat]
  | .addi b d a imm => [mkI b 3 d.toNat a.toNat imm.toNat]
  | .andi b d a imm => [mkI b 4 d.toNat a.toNat imm.toNat]
  | .ori b d a imm => [mkI b 5 d.toNat a.toNat imm.toNat]
  | .xori b d a imm => [mkI b 6 d.toNat a.toNat imm.toNat]
  | .shli b d a n => [mkI b 7 d.toNat a.toNat (n.toNat + 0)]
  | .shri b d a n => [mkI b 7 d.toNat a.toNat (n.toNat + 32)]
  | .sari b d a n => [mkI b 7 d.toNat a.toNat (n.toNat + 64)]
  | .movi b d imm => [mkW b 8 (d.toNat * 262144 + imm.toNat)]
  | .cmpi b cc p a imm => [mkI b 9 (cc.toNat * 8 + p.toNat) a.toNat imm.toNat]
  | .cmp b cc p a c => [mkR b 10 cc.toNat p.toNat a.toNat c.toNat]
  | .fadd b d a c => [mkR b 11 0 d.toNat a.toNat c.toNat]
  | .fsub b d a c => [mkR b 11 1 d.toNat a.toNat c.toNat]
  | .fmul b d a c => [mkR b 11 2 d.toNat a.toNat c.toNat]
  | .ffma b d a c => [mkR b 11 3 d.toNat a.toNat c.toNat]
  | .fmin b d a c => [mkR b 11 4 d.toNat a.toNat c.toNat]
  | .fmax b d a c => [mkR b 11 5 d.toNat a.toNat c.toNat]
  | .fabs b d a => [mkR b 11 6 d.toNat a.toNat 0]
  | .fneg b d a => [mkR b 11 7 d.toNat a.toNat 0]
  | .padd b bf d a c => [mkR b 12 (0 + bf.toNat * 8) d.toNat a.toNat c.toNat]
  | .psub b bf d a c => [mkR b 12 (1 + bf.toNat * 8) d.toNat a.toNat c.toNat]
  | .pmul b bf d a c => [mkR b 12 (2 + bf.toNat * 8) d.toNat a.toNat c.toNat]
  | .pfma b bf d a c => [mkR b 12 (3 + bf.toNat * 8) d.toNat a.toNat c.toNat]
  | .pmin b bf d a c => [mkR b 12 (4 + bf.toNat * 8) d.toNat a.toNat c.toNat]
  | .pmax b bf d a c => [mkR b 12 (5 + bf.toNat * 8) d.toNat a.toNat c.toNat]
  | .fcmp b cc p a c => [mkR b 13 cc.toNat p.toNat a.toNat c.toNat]
  | .rcp b d a => [mkR b 14 0 d.toNat a.toNat 0]
  | .rsq b d a => [mkR b 14 1 d.toNat a.toNat 0]
  | .sqrt b d a => [mkR b 14 2 d.toNat a.toNat 0]
  | .ex2 b d a => [mkR b 14 3 d.toNat a.toNat 0]
  | .lg2 b d a => [mkR b 14 4 d.toNat a.toNat 0]
  | .sin b d a => [mkR b 14 5 d.toNat a.toNat 0]
  | .cos b d a => [mkR b 14 6 d.toNat a.toNat 0]
  | .fdiv b d a c => [mkR b 14 7 d.toNat a.toNat c.toNat]
  | .cvt b dst d a rnd sat src => [mkR b 15 dst.toNat d.toNat a.toNat (src.toNat + sat.toNat * 16 + rnd.toNat * 32)]
  | .shfl b d a c => [mkR b 16 0 d.toNat a.toNat c.toNat]
  | .shflup b d a n => [mkR b 16 1 d.toNat a.toNat n.toNat]
  | .shfldn b d a n => [mkR b 16 2 d.toNat a.toNat n.toNat]
  | .shflx b d a n => [mkR b 16 3 d.toNat a.toNat n.toNat]
  | .bcast b d a m => [mkR b 16 4 d.toNat a.toNat m.toNat]
  | .reda b d a o => [mkR b 16 5 d.toNat a.toNat o.toNat]
  | .freda b d a o => [mkR b 16 6 d.toNat a.toNat o.toNat]
  | .scana b d a o ex => [mkR b 16 7 d.toNat a.toNat (o.toNat + ex.toNat * 8)]
  | .fscana b d a o ex => [mkR b 16 8 d.toNat a.toNat (o.toNat + ex.toNat * 8)]
  | .vany b d p => [mkR b 17 0 d.toNat p.toNat 0]
  | .vall b d p => [mkR b 17 1 d.toNat p.toNat 0]
  | .ballot b d p j => [mkR b 17 2 d.toNat p.toNat j.toNat]
  | .pand b d a c => [mkR b 17 3 d.toNat a.toNat c.toNat]
  | .por b d a c => [mkR b 17 4 d.toNat a.toNat c.toNat]
  | .pxor b d a c => [mkR b 17 5 d.toNat a.toNat c.toNat]
  | .pnot b d a => [mkR b 17 6 d.toNat a.toNat 0]
  | .pset b d a => [mkR b 17 7 d.toNat a.toNat 0]
  | .sadd b d a c => [mkR b 18 0 d.toNat a.toNat c.toNat]
  | .ssub b d a c => [mkR b 18 1 d.toNat a.toNat c.toNat]
  | .smul b d a c => [mkR b 18 2 d.toNat a.toNat c.toNat]
  | .sand b d a c => [mkR b 18 3 d.toNat a.toNat c.toNat]
  | .sor b d a c => [mkR b 18 4 d.toNat a.toNat c.toNat]
  | .sxor b d a c => [mkR b 18 5 d.toNat a.toNat c.toNat]
  | .sshl b d a c => [mkR b 18 6 d.toNat a.toNat c.toNat]
  | .sshr b d a c => [mkR b 18 7 d.toNat a.toNat c.toNat]
  | .ssar b d a c => [mkR b 18 8 d.toNat a.toNat c.toNat]
  | .scmp b a c => [mkR b 18 9 0 a.toNat c.toNat]
  | .smov b d a => [mkR b 18 10 d.toNat a.toNat 0]
  | .sadd64 b d a c => [mkR b 18 11 d.toNat a.toNat c.toNat]
  | .saddi b d a imm => [mkS b 0 d.toNat a.toNat imm.toNat]
  | .sandi b d a imm => [mkS b 1 d.toNat a.toNat imm.toNat]
  | .sori b d a imm => [mkS b 2 d.toNat a.toNat imm.toNat]
  | .sxori b d a imm => [mkS b 3 d.toNat a.toNat imm.toNat]
  | .sshli b d a n => [mkS b 4 d.toNat a.toNat (n.toNat + 0)]
  | .sshri b d a n => [mkS b 4 d.toNat a.toNat (n.toNat + 32)]
  | .ssari b d a n => [mkS b 4 d.toNat a.toNat (n.toNat + 64)]
  | .smovi b d imm => [mkW b 19 (5 * 4194304 + d.toNat * 65536 + imm.toNat)]
  | .scmpi b a imm => [mkS b 6 0 a.toNat imm.toNat]
  | .movxS b d imm => [mkR b 20 0 d.toNat 0 0, imm]
  | .movx b d imm => [mkR b 20 1 d.toNat 0 0, imm]
  | .sreadLane b d i => [mkR b 21 0 d.toNat i.toNat 0]
  | .sreadScalar b d i => [mkR b 21 1 d.toNat i.toNat 0]
  | .swriteLane b i c => [mkR b 21 2 i.toNat 0 c.toNat]
  | .swriteScalar b i c => [mkR b 21 3 i.toNat 0 c.toNat]
  | .wbase b k => [mkR b 21 4 0 0 k.toNat]
  | .tpri b n => [mkR b 21 5 0 0 n.toNat]
  | .bra b cc disp => [mkW b 22 (cc.toNat * 2097152 + disp.toNat)]
  | .call b cc disp => [mkW b 23 (cc.toNat * 2097152 + disp.toNat)]
  | .ret b => [mkR b 24 0 0 0 0]
  | .jmpi b a => [mkR b 24 1 0 a.toNat 0]
  | .callx b a => [mkR b 24 2 0 a.toNat 0]
  | .exit b => [mkR b 24 3 0 0 0]
  | .nop b => [mkR b 24 4 0 0 0]
  | .bar b n => [mkR b 24 5 0 0 n.toNat]
  | .barC b k n => [mkR b 24 6 0 k.toNat n.toNat]
  | .barX b n => [mkR b 24 7 0 0 n.toNat]
  | .barXC b k n => [mkR b 24 8 0 k.toNat n.toNat]
  | .ifMask b p => [mkR b 25 0 0 0 p.toNat]
  | .elseMask b => [mkR b 25 1 0 0 0]
  | .endIf b => [mkR b 25 2 0 0 0]
  | .loop b => [mkR b 25 3 0 0 0]
  | .breakMask b p => [mkR b 25 4 0 0 p.toNat]
  | .contMask b p => [mkR b 25 5 0 0 p.toNat]
  | .endLoop b => [mkR b 25 6 0 0 0]
  | .ld b q t d a s => [mkM b 32 q.toNat t.toNat d.toNat a.toNat s.toNat 0]
  | .ldOffset b q t d a s off => [mkM b 32 q.toNat t.toNat d.toNat a.toNat s.toNat 1, off]
  | .st b q t d a s => [mkM b 33 q.toNat t.toNat d.toNat a.toNat s.toNat 0]
  | .stOffset b q t d a s off => [mkM b 33 q.toNat t.toNat d.toNat a.toNat s.toNat 1, off]
  | .ldp b w d a t r => [mkM b 34 0 w.toNat d.toNat a.toNat (t.toNat * 4 + r.toNat * 2) 0]
  | .ldpOffset b w d a t r off => [mkM b 34 0 w.toNat d.toNat a.toNat (t.toNat * 4 + r.toNat * 2) 1, off]
  | .stp b w d a t r => [mkM b 35 0 w.toNat d.toNat a.toNat (t.toNat * 4 + r.toNat * 2) 0]
  | .stpOffset b w d a t r off => [mkM b 35 0 w.toNat d.toNat a.toNat (t.toNat * 4 + r.toNat * 2) 1, off]
  | .lda b q t d a s => [mkM b 36 q.toNat t.toNat d.toNat a.toNat s.toNat 0]
  | .ldaOffset b q t d a s off => [mkM b 36 q.toNat t.toNat d.toNat a.toNat s.toNat 1, off]
  | .atom b q d a s op w nr c => [mkM b 37 q.toNat 0 d.toNat a.toNat s.toNat 1, mkAtom op.toNat w nr c.toNat]
  | .sld b q w d s => [mkM b 39 q.toNat (w.toNat + 0) d.toNat 0 s.toNat 0]
  | .sldOffset b q w d s off => [mkM b 39 q.toNat (w.toNat + 0) d.toNat 0 s.toNat 1, off]
  | .sst b q w d s => [mkM b 39 q.toNat (w.toNat + 4) d.toNat 0 s.toNat 0]
  | .sstOffset b q w d s off => [mkM b 39 q.toNat (w.toNat + 4) d.toNat 0 s.toNat 1, off]
  | .fence b sc => [mkR b 38 0 0 0 sc.toNat]
  | .batch b d => [mkR b 38 1 d.toNat 0 0]
  | .waitb b a => [mkR b 38 2 0 a.toNat 0]
  | .commit b a => [mkR b 38 3 0 a.toNat 0]
  | .waitv b a c => [mkR b 38 4 0 a.toNat c.toNat]
  | .pref b l a c => [mkR b 38 5 l.toNat a.toNat c.toNat]
  | .fenceSmp b sc => [mkR b 38 6 0 0 sc.toNat]
  | .fenceMx b sc => [mkR b 38 7 0 0 sc.toNat]
  | .cpy b d a c dir ord sw => [mkR b 40 0 d.toNat a.toNat c.toNat, mkCpy dir.toNat 0 ord.toNat sw.toNat]
  | .cpy2d b d a c dir ord sw => [mkR b 40 1 d.toNat a.toNat c.toNat, mkCpy dir.toNat 0 ord.toNat sw.toNat]
  | .cpyT b d a c dir ord sw => [mkR b 40 2 d.toNat a.toNat c.toNat, mkCpy dir.toNat 0 ord.toNat sw.toNat]
  | .cpyFollowMma b b2 kind d a c ord sw sp md ma mc da db kg fbr => [mkR b 40 kind.toNat d.toNat a.toNat c.toNat, mkCpy 0 1 ord.toNat sw.toNat,
      mkR b2 56 sp.toNat md.toNat ma.toNat mc.toNat, mkMma da db kg.toNat fbr.toNat]
  | .put b d a c win tc ord dev => [mkR b 41 0 d.toNat a.toNat c.toNat, mkPut win.toNat tc.toNat ord.toNat dev.toNat]
  | .get b d a c win tc ord dev => [mkR b 41 1 d.toNat a.toNat c.toNat, mkPut win.toNat tc.toNat ord.toNat dev.toNat]
  | .psig b d a c win tc ord dev => [mkR b 41 2 d.toNat a.toNat c.toNat, mkPut win.toNat tc.toNat ord.toNat dev.toNat]
  | .smp b d a n k => [mkR b 42 0 d.toNat a.toNat (n.toNat + k.toNat * 8)]
  | .smpL b d a n k => [mkR b 42 1 d.toNat a.toNat (n.toNat + k.toNat * 8)]
  | .smpG b d a c => [mkR b 42 2 d.toNat a.toNat c.toNat]
  | .attrf b d a c => [mkR b 43 0 d.toNat a.toNat c.toNat]
  | .attrb b d a c => [mkR b 43 1 d.toNat a.toNat c.toNat]
  | .cnvLin b d a => [mkR b 48 0 d.toNat a.toNat 0]
  | .cnvQuad b d a => [mkR b 48 1 d.toNat a.toNat 0]
  | .cnvExpq b d a => [mkR b 48 2 d.toNat a.toNat 0]
  | .cnvLinK b d a imm => [mkR b 48 4 d.toNat a.toNat 0, imm]
  | .cnvQuadK b d a imm => [mkR b 48 5 d.toNat a.toNat 0, imm]
  | .cnvExpqK b d a imm => [mkR b 48 6 d.toNat a.toNat 0, imm]
  | .cnvAdd b d a c => [mkR b 49 0 d.toNat a.toNat c.toNat]
  | .cnvSub b d a c => [mkR b 49 1 d.toNat a.toNat c.toNat]
  | .cnvMul b d a c => [mkR b 49 2 d.toNat a.toNat c.toNat]
  | .cnvFma b d a c => [mkR b 49 3 d.toNat a.toNat c.toNat]
  | .cnvMin b d a c => [mkR b 49 4 d.toNat a.toNat c.toNat]
  | .cnvMax b d a c => [mkR b 49 5 d.toNat a.toNat c.toNat]
  | .cnvMov b d a => [mkR b 49 6 d.toNat a.toNat 0]
  | .cnvMovScalar b d a => [mkR b 49 6 d.toNat a.toNat 1]
  | .cnvSfn b d a f => [mkR b 49 7 d.toNat a.toNat f.toNat]
  | .cnvCmp b d k a c t => [mkR b 49 8 (d.toNat + k.toNat * 16) a.toNat (c.toNat + t.toNat * 16)]
  | .cnvBlend b d a c => [mkR b 49 9 d.toNat a.toNat c.toNat]
  | .cnvZtest b a c => [mkR b 49 10 0 a.toNat c.toNat]
  | .cnvVis b d m => [mkR b 49 11 d.toNat 0 m.toNat]
  | .cnvClr b d => [mkR b 49 12 d.toNat 0 0]
  | .cnvClrOnes b d => [mkR b 49 12 d.toNat 0 1]
  | .cnvClrVis b => [mkR b 49 12 14 0 2]
  | .cnvPush b k a c => [mkR b 50 0 k.toNat a.toNat c.toNat]
  | .cnvElse b => [mkR b 50 1 0 0 0]
  | .cnvPop b => [mkR b 50 2 0 0 0]
  | .cnvAll b => [mkR b 50 3 0 0 0]
  | .cnvWin b a => [mkR b 50 4 0 a.toNat 0]
  | .cnvMac b d a c => [mkR b 51 0 d.toNat a.toNat c.toNat]
  | .cnvMacK b d a imm => [mkR b 51 1 d.toNat a.toNat 0, imm]
  | .cnvRdl b d a c => [mkR b 52 0 d.toNat a.toNat c.toNat]
  | .cnvWrl b d a c => [mkR b 52 1 d.toNat a.toNat c.toNat]
  | .cnvLoad b d a => [mkR b 52 2 d.toNat a.toNat 0]
  | .cnvStore b d a => [mkR b 52 3 d.toNat a.toNat 0]
  | .cnvRdlA b d a c => [mkR b 52 4 d.toNat a.toNat c.toNat]
  | .cnvXsum b d => [mkR b 53 0 d.toNat 0 0]
  | .cnvXmap b d a m => [mkR b 53 1 d.toNat a.toNat m.toNat]
  | .cnvXclr b m => [mkR b 53 2 0 0 m.toNat]
  | .cnvSync b => [mkR b 53 3 0 0 0]
  | .cnvOrg b a c => [mkR b 53 4 0 a.toNat c.toNat]
  | .mma b d a c da db kg fbr => [mkR b 56 0 d.toNat a.toNat c.toNat, mkMma da db kg.toNat fbr.toNat]
  | .mmaSp b d a c da db kg fbr => [mkR b 56 1 d.toNat a.toNat c.toNat, mkMma da db kg.toNat fbr.toNat]
  | .accClr b a => [mkR b 57 0 0 a.toNat 0]
  | .accProm b d a c => [mkR b 57 1 d.toNat a.toNat c.toNat]
  | .accLd b d a => [mkR b 57 2 d.toNat a.toNat 0]
  | .accSt b d a f sat => [mkR b 57 3 d.toNat a.toNat (f.toNat + sat.toNat * 8)]
  | .netv b d a c => [mkR b 58 0 d.toNat a.toNat c.toNat]
  | .nets b d a c => [mkR b 58 1 d.toNat a.toNat c.toNat]
  | .tagRd b d a r => [mkR b 59 0 d.toNat a.toNat r.toNat]
  | .tagWr b a c => [mkR b 59 1 0 a.toNat c.toNat]
  | .tagChk b d a c => [mkR b 59 2 d.toNat a.toNat c.toNat]
  | .tileHdr b d a => [mkR b 59 3 d.toNat a.toNat 0]
  | .recPush b a c => [mkR b 60 0 0 a.toNat c.toNat]
  | .recTry b d a c => [mkR b 60 1 d.toNat a.toNat c.toNat]
  | .nodeDone b a => [mkR b 60 2 0 a.toNat 0]
  | .cancel b a => [mkR b 60 3 0 a.toNat 0]
  | .qpass b => [mkR b 60 4 0 0 0]
  | .rsecIn b => [mkR b 60 5 0 0 0]
  | .rsecOut b => [mkR b 60 6 0 0 0]
  | .grace b => [mkR b 60 7 0 0 0]
  | .defer b a c => [mkR b 60 8 0 a.toNat c.toNat]
  | .frameRel b e a c => [mkR b 60 9 e.toNat a.toNat c.toNat]
  | .bankOpen b => [mkR b 61 0 0 0 0]
  | .bankDot b f l a c => [mkR b 61 1 (f.toNat + l.toNat * 4) a.toNat c.toNat]
  | .bankAxpy b f l a c => [mkR b 61 2 (f.toNat + l.toNat * 4) a.toNat c.toNat]
  | .bankScal b f l a c => [mkR b 61 3 (f.toNat + l.toNat * 4) a.toNat c.toNat]
  | .bankSum b f l a c => [mkR b 61 4 (f.toNat + l.toNat * 4) a.toNat c.toNat]
  | .bankMax b f l a c => [mkR b 61 5 (f.toNat + l.toNat * 4) a.toNat c.toNat]
  | .bankFill b f l a c => [mkR b 61 6 (f.toNat + l.toNat * 4) a.toNat c.toNat]
  | .bankCopy b f l a c => [mkR b 61 7 (f.toNat + l.toNat * 4) a.toNat c.toNat]
  | .bankClose b w => [mkR b 61 8 0 0 w.toNat]
  | .bankWait b => [mkR b 61 9 0 0 0]
  | .bankErr b d a c => [mkR b 61 10 d.toNat a.toNat c.toNat]
  | .ringRed b a => [mkR b 61 11 0 a.toNat 0]
  | .ringWait b a c => [mkR b 61 12 0 a.toNat c.toNat]
  | .trap b k c => [mkR b 62 0 0 k.toNat c.toNat]
  | .rtt b => [mkR b 62 1 0 0 0]
  | .bkpt b k => [mkW b 62 (2 * 2097152 + k.toNat)]
  | .halt b => [mkR b 62 3 0 0 0]
  | .ctxrd b d i => [mkR b 62 4 d.toNat i.toNat 0]
  | .ctxwr b i c => [mkR b 62 5 i.toNat 0 c.toNat]
  | .wdog b => [mkR b 62 6 0 0 0]
  | .push _ _ _ | .registerWrite _ _ _ | .nodeLaunch _ _ _ | .launchTimer _ _ | .crewEnd _ | .quiescenceReport _ _ | .barrierWatchdogExpiry _ | .terminationRecord _ | .terminateOnRequest _ | .teamWatchdogExpiry _ | .issuePriorityAgeing _ _ | .preemptionRequest _ | .preemptionHalt _ | .contextSave _ | .contextRestore _ | .contextResume _ | .contextCreate _ _ _ _ | .contextDestroy _ | .rigImageLoad _ _ _ _ | .weightStoreWrite _ _ _ | .windowRegister _ _ _ _ _ _ _ | .windowRevoke _ _ | .hostCancel _ _ | .faultResolved _ | .faultDeclined _ | .tlbShootdown _ _ _ _ | .pageWalk _ _ _ | .debugBreakpointSet _ _ _ | .debugHalt _ | .teamResume _ | .writeCombiningDrain _ _ | .loadReturn _ _ | .atomicExecute _ | .samplerFill _ _ | .waitTableNotify _ _ | .waitvPoll _ | .coreClockGate _ | .canvasExecute _ | .matrixArrayGroup _ | .accComplete _ | .copyComplete _ | .followMmaIssue _ | .ldaLand _ _ | .putComplete _ | .getComplete _ _ | .psigComplete _ | .remoteAccess _ _ _ _ | .ringChunkWritten _ _ _ | .ringComplete _ | .bankCommandFinish _ | .bankRoundAck _ | .bankAgeing _ | .bankRefresh _ _ | .weightStoreRefreshSlot | .graceComplete _ | .trimGovernorTick | .reefGovernorTick | .frameRelease _ | .fsyncPulseEnd | .ppsOutputEdge | .ppsPulseEnd | .ppsInputEdge | .fsyncInputEdge | .syncMessage _ | .syncTimeout | .holdoverTimeout | .linkFailure _ | .routeTableWrite _ _ _ | .injectionArm _ | .attestationReport _ | .powerCapSet _ | .powerArbiterTick _ | .coolantLoss | .packageReset _ _ _ _ | .illegalInstruction _ _ | .samplerDropComplete _ | .ctxwrPropagated _ | .cancelDrop _ _ _ | .scStorePerformed _ | .partialSegment _ _ _ _ | .forwardedFlit _ _ _ | .flitCrcFailure _ | .linkRetrain _ | .hostMemoryWrite _ _ _ => []

/-- Word `k` of an instruction's words, zero past their end. -/
def encodedWord (i : Instr) (k : Nat) : Word := (encode i).getD k 0

end Sys2Proof
end

