-- ==== Sys2Proof/Machine/FMap.lean ====
section
/-! DEFINITION. Sparse maps as plain data: a list of (key, value) pairs in one canonical form.  An unlisted key reads as zero.
Registers, scratchpads, canvas planes, accumulators and memory are held this way, so that equal contents are equal data. -/

namespace Sys2Proof.Machine

/-- A sparse map from numbers to words; in canonical form the keys rise and no value is zero. -/
abbrev FMap (w : Nat) := List (Nat × BitVec w)

/-- The value at a key: zero where none is listed. -/
def FMap.get {w : Nat} : FMap w → Nat → BitVec w
  | [], _ => 0
  | (k', v) :: t, k => if k' = k then v else FMap.get t k

/-- List a value at a key, before the first key that is not below it. -/
def FMap.put {w : Nat} : FMap w → Nat → BitVec w → FMap w
  | [], k, v => [(k, v)]
  | (k', v') :: t, k, v =>
    if k < k' then (k, v) :: (k', v') :: t
    else if k = k' then (k, v) :: t
    else (k', v') :: FMap.put t k v

/-- List nothing at a key. -/
def FMap.erase {w : Nat} (m : FMap w) (k : Nat) : FMap w := m.filter (fun e => e.1 != k)

/-- Write a value at a key; writing zero unlists the key, which keeps the canonical form. -/
def FMap.set {w : Nat} (m : FMap w) (k : Nat) (v : BitVec w) : FMap w :=
  if v = 0 then m.erase k else m.put k v

/-- Write the values of `f` at the keys of a list. -/
def FMap.setMany {w : Nat} (m : FMap w) (keys : List Nat) (f : Nat → BitVec w) : FMap w :=
  keys.foldl (fun m k => m.set k (f k)) m

/-- The map whose value at a key below `n` is `f` of it. -/
def FMap.tabulate {w : Nat} (n : Nat) (f : Nat → BitVec w) : FMap w :=
  (List.range n).filterMap (fun i => let v := f i; if v = 0 then none else some (i, v))

/-- Keys strictly rising from above a bound. -/
def FMap.risingFrom {w : Nat} : Option Nat → FMap w → Bool
  | _, [] => true
  | none, (k, v) :: t => v != 0 && FMap.risingFrom (some k) t
  | some b, (k, v) :: t => decide (b < k) && v != 0 && FMap.risingFrom (some k) t

/-- The canonical form: keys strictly rising, no listed zero. -/
def FMap.wf {w : Nat} (m : FMap w) : Bool := FMap.risingFrom none m

/-- The listed pairs whose key is in a half-open range. -/
def FMap.range {w : Nat} (m : FMap w) (lo hi : Nat) : FMap w := m.filter (fun e => decide (lo ≤ e.1) && decide (e.1 < hi))

/-- Unlist every key of a half-open range. -/
def FMap.clear {w : Nat} (m : FMap w) (lo hi : Nat) : FMap w := m.filter (fun e => !(decide (lo ≤ e.1) && decide (e.1 < hi)))

/-- The first entry of an association list at a key. -/
def assoc? {α : Type} : List (Nat × α) → Nat → Option α
  | [], _ => none
  | (k', v) :: t, k => if k' = k then some v else assoc? t k

/-- Replace the entry at a key, or add one at the end. -/
def assocPut {α : Type} : List (Nat × α) → Nat → α → List (Nat × α)
  | [], k, v => [(k, v)]
  | (k', v') :: t, k, v => if k' = k then (k, v) :: t else (k', v') :: assocPut t k v

end Sys2Proof.Machine
end

