-- ==== Sys2Proof/Machine/State.lean ====
section
/-! DEFINITION. The state of the whole package: teams, crews, contexts, cores, memory, engines, links and the masthead's
records (02, 04, 05, 16, 20, 21, 27).  Plain data; every register has a value.  The issuing team, its crew and its context
stand in fields of their own; the others are in lists. -/

namespace Sys2Proof.Machine

/-- One bit per lane of a team: lane `l` of strand `j` is bit `32 * j + l` (R37).  The summary word is derived. -/
abbrev Mask := BitVec 1024

/-- Where a virtual address lies: a physical address (replica 0 of a replicated page) or a weight-store offset. -/
structure Loc where
  pa : Nat
  repl : Bool
  ws : Bool
  deriving DecidableEq, Repr

/-- What an access needs of its page (R250). -/
inductive Access where
  | read | write | atomic | fetch
  deriving DecidableEq, Repr

/-! ## Teams -/

/-- The states of R41.  A halted team keeps the state it held; `Team.halted` and `Context.halted` say that it is halted. -/
inductive TeamState where
  | free | ready | running | parked | exited
  deriving DecidableEq, Repr

/-- The condition flags (R58). -/
structure Flags where
  z : Bool
  n : Bool
  c : Bool
  v : Bool
  deriving DecidableEq, Repr

/-- An entry of the mask stack (R44).  A CALLX entry also keeps the physical register that holds the targets. -/
inductive MaskEntry where
  | ifE (saved thenM : Mask) (elsed : Bool)
  | loopE (saved cont : Mask) (start : Nat)
  | callxE (saved pending : Mask) (reg : Nat)
  deriving DecidableEq, Repr

/-- A frame of the call stack (R119). -/
structure Frame where
  ret : Nat
  base : Nat
  callx : Bool
  deriving DecidableEq, Repr

/-- Where an outstanding load of global memory may still read its value (R241, R264): the access it belongs to, its location, its
core, whether it bypasses L1, its size and type, and whether the register is the upper one of a pair. -/
structure LoadSrc where
  id : Nat
  loc : Loc
  core : Nat
  bypass : Bool
  size : Nat
  type : Nat
  hi : Bool
  deriving DecidableEq, Repr

/-- A register write that is outstanding and unchecked (R51): key `1024 * n + lane` for a lane register, the number for a
scalar; `mem` says that it is a load, which a fence waits for (R273); `val` is the value read at issue, `stamp` when that was, and `src` says that the
load may be performed later instead (R241, R288). -/
structure RegWrite where
  scalar : Bool
  key : Nat
  val : Word
  mem : Bool
  stamp : Nat
  src : Option LoadSrc
  deriving DecidableEq, Repr

/-- One byte on its way to a home slice: its physical address, whether its page is replicated, the team that stored it and its
core, the teams whose earlier stores to it merged into it (R244), the teams that have observed it (R273), and the step in which it was
stored. -/
structure StoreByte where
  addr : Nat
  val : Byte
  repl : Bool
  team : Nat
  core : Nat
  others : List Nat
  seen : List Nat
  since : Nat
  deriving DecidableEq, Repr

/-- A value that a byte has had: at its home slice, until a store of the teams `owners` or another write was performed in the step `till`;
or in the write-combining buffer of a core, as a store of the teams `owners`, from the step `since` on until the step `till`.  A load that
is performed before it issues reads it (R241, R283, R285, R288). -/
structure PastByte where
  core : Option Nat
  owners : List Nat
  addr : Nat
  val : Byte
  since : Nat
  till : Nat
  deriving DecidableEq, Repr

/-- Bytes that an access of a team that bypasses L1 has read, the step in which the access issued, and the step as of which it has read
them: no later such access of the team is performed before that, and no earlier one after it (R289). -/
structure SeenRange where
  addr : Nat
  size : Nat
  issued : Nat
  step : Nat
  deriving DecidableEq, Repr

/-- One lane of an ATOM of a team that has not executed at its slice, with the step and the core that issued it (R270, R271). -/
structure AtomLane where
  issued : Nat
  team : Nat
  core : Nat
  addr : Nat
  repl : Bool
  op : Nat
  wide : Bool
  nr : Bool
  operand : BitVec 64
  comparand : BitVec 64
  acq : Bool
  key : Nat
  deriving DecidableEq, Repr

/-- A lane of an access that did not translate (R252): lane index, virtual address, cause, and what the access is
(0 read, 1 write, 2 atomic, 3 fetch, R331). -/
structure FaultLane where
  lane : Nat
  va : Nat
  cause : Nat
  access : Nat
  deriving DecidableEq, Repr

/-- A record as a push offers it to a node (R17, R309). -/
structure PushRec where
  node : Nat
  words : List Word
  deriving DecidableEq, Repr

/-- A line of the sampler cache (R238): line number and its 128 bytes as they were installed.  Lines of device
memory have the number of their physical address, lines of the weight store of a die follow those. -/
structure SampLine where
  line : Nat
  bytes : List Byte
  deriving DecidableEq, Repr

/-- Why a team is parked, with what its wait holds (R42). -/
inductive Park where
  | awake
  | memFault (lanes : List FaultLane)
  | waitv (loc : Loc) (waited : Word) (poll notified : Bool)
  | ringWait (die idx : Nat) (target : Word) (poll : Bool)
  | barrier (n : Nat)
  | fullBin (recs : List PushRec)
  | commit (n : Nat)
  | waitb (n : Nat)
  | batchRange (d : Nat)
  | bankWait
  | grace (gen : Nat)
  deriving DecidableEq, Repr

/-- The trap state of a team that R327 adds to the trap registers; `brk` says that a debugger breakpoint raised the trap (R349). -/
structure TrapState where
  mode : Bool
  cause : BitVec 8
  pc : BitVec 57
  info : BitVec 64
  savedMask : Mask
  savedMDepth : Nat
  savedCDepth : Nat
  savedReplay : Option Mask
  savedClosing : Bool
  pcWritten : Bool
  brk : Bool
  deriving DecidableEq, Repr

/-- A team (R34, R55 to R68, R327, R334).  `held` says that HALT halted it (R351); `wdogDue` has the period of a watchdog expiry that has
not been delivered and its clock (R334); `qpend` has the quiescent points that wait for loads, with the step of each (R295).  `closing`
says that the BANK.CLOSE.w at the program counter has closed its round and waits (R356); `declined` is the cause with which the masthead
kernel has declined the fault of the instruction at the program counter (R253); `slotWait` counts, for each issue slot (16 times the core
plus 4 times the partition plus the slot's class), the clocks in which this team was ready there and did not issue, `aged` lists the slots
at which it has reached priority 15, `issued` the parts of the instruction at the program counter that have issued, and `issuedNow` says
that an instruction of the team has issued whole in the present clock (R39, R49, R50).  No access of the team is performed before the step
`floor`, and none that bypasses L1 before the steps of `seen` for their bytes; `acqBatches` has the batches with an LDA.acq or LDA.sc and
the step in which it was performed last (R241, R266, R288). -/
structure Team where
  key : Nat
  state : TeamState
  halted : Bool
  held : Bool
  park : Park
  ctx : Nat
  crew : Nat
  index : Nat
  slot : BitVec 6
  part : Nat
  strands : Nat
  alloc : Nat
  pc : BitVec 57
  mask : Mask
  launchMask : Mask
  mstack : List MaskEntry
  cstack : List Frame
  winBase : Nat
  tpri : BitVec 4
  lanes : FMap 32
  scalars : FMap 32
  preds : FMap 1024
  flags : Flags
  netstat : FMap 32
  trap : TrapState
  replay : Option Mask
  closing : Bool
  wdog : Nat
  wdogDue : Option (Nat × Nat)
  unchecked : List RegWrite
  nest : Nat
  qgen : BitVec 32
  qpend : List (BitVec 32 × Nat)
  openBatch : Nat
  closedAny : Bool
  committed : List Nat
  landQuota : Nat
  slotWait : List (Nat × Nat)
  aged : List Nat
  issued : List Nat
  issuedNow : Bool
  floor : Nat
  seen : List SeenRange
  acqBatches : List (Nat × Nat)
  skipBreak : Bool
  declined : Option Nat
  dropping : Option Nat
  gathered : List SampLine
  deriving DecidableEq, Repr

/-! ## Crews -/

/-- A present round of a crew barrier: its form, fixed by the first arrival, and the indexes of the teams that arrived
(R30, R54). -/
structure Round where
  n : Nat
  counted : Bool
  x : Bool
  k : Nat
  arrived : List Nat
  deriving DecidableEq, Repr

/-- Scratchpad bytes that some readers may still see with their old values (R30, R163, R200, R225, R274): the first storage byte, the old
bytes, the team's index that stored them, what must observe them before that team itself sees them (nothing for a store of a lane; 0 for
CNV.SYNC; a copy's batch plus 1), when they were written, the word or the 16-byte unit that was written whole (R222), the teams whose LDP,
STP and copies see the new values, the teams for which the matrix array and the canvas do, the teams that have read them with LDP (R273),
the teams that have fenced them by FENCE.MX, and when the first of those fences was. -/
structure Hidden where
  base : Nat
  old : List Byte
  team : Nat
  due : Option Nat
  stamp : Nat
  whole : Nat
  lanesSee : List Nat
  enginesSee : List Nat
  readers : List Nat
  fencers : List Nat
  fencedAt : Option Nat
  deriving DecidableEq, Repr

/-- A tile region of a crew with its tag word (R194, R208). -/
structure Tile where
  base : Nat
  rows : Nat
  width : Nat
  tag : BitVec 16
  deriving DecidableEq, Repr

/-! ## The canvas -/

/-- A bit for each of the 4,096 cells of a canvas: cell `64 * row + col` (R130). -/
abbrev Plane := BitVec 4096

/-- What a canvas instruction does when the canvas executes it, with the operands that were read at issue (R127). -/
inductive CanvasOp where
  /-- CNV.LIN (kind 0), CNV.QUAD (1), CNV.EXPQ (2) with their coefficients (R132, R133). -/
  | expr (kind d : Nat) (k : List Word)
  /-- CNV.ADD, SUB, MUL, FMA, MIN, MAX by SUB (R152). -/
  | arith (op d a c : Nat)
  /-- CNV.MOV of a cell register (R153). -/
  | mov (d a : Nat)
  /-- CNV.MOV of a scalar and CNV.CLR: the same bits in every register of a list (R153). -/
  | fill (ds : List Nat) (v : Word)
  | sfn (f d a : Nat)
  | cmp (ty cc d a c : Nat)
  | blend (d a : Nat) (k : List Word)
  | ztest (a inst prim : Nat)
  | vis (m d : Nat)
  | all
  | win (c0 r0 c1 r1 : Int)
  | mac (d a : Nat) (w : Word)
  /-- CNV.WRL: the cells written with their values (R140). -/
  | wrl (d : Nat) (cells : List (Nat × Word))
  | load (d off : Nat)
  | store (d off op : Nat)
  /-- CNV.RDL.a: the operation, and the cells read with the key of each register write (R161). -/
  | rdla (op a : Nat) (cells : List (Nat × Nat))
  | xclr (m : Nat)
  | org (x y : Int)
  /-- CNV.PUSH with its scalar, CNV.ELSE and CNV.POP (R136). -/
  | push (cc a v : Nat)
  | els
  | pop
  /-- CNV.RDL: the cells read with the key of each register write (R160). -/
  | rdl (a : Nat) (cells : List (Nat × Nat))
  /-- CNV.XSUM: the scalar that it writes (R129). -/
  | xsum (key : Nat)
  /-- CNV.XMAP: the flags, and the words read with the key of each register write (R129). -/
  | xmap (m : Nat) (words : List (Nat × Nat))
  deriving DecidableEq, Repr

/-- An accepted canvas instruction: its address, its team's index, when it was accepted, and what it does (R128, R138). -/
structure CanvasInstr where
  addr : Nat
  team : Nat
  stamp : Nat
  op : CanvasOp
  deriving DecidableEq, Repr

/-- A canvas (R128, R130): c0 to c15 by cell, the enables and the enable stack, top first, the five sticky flags, the origin,
the pending delivery with the cells counted for it, and the accepted instructions that have not executed. -/
structure Canvas where
  regs : List (FMap 32)
  en : Plane
  stack : List (Plane × Plane)
  flags : List Plane
  x0 : Int
  y0 : Int
  pend : Option Nat
  counted : Plane
  queue : List CanvasInstr
  deriving DecidableEq, Repr

/-- A crew (R34, R35, R311, R324). -/
structure Crew where
  key : Nat
  live : Bool
  crewid : BitVec 16
  ctx : Nat
  node : Nat
  job : BitVec 16
  core : Nat
  pair : Bool
  nteams : Nat
  strands : Nat
  spadSize : Nat
  spad : FMap 8
  hidden : List Hidden
  tiles : List Tile
  accSlots : Nat
  acc : FMap 32
  hasCanvas : Bool
  canvas : Canvas
  convs : List Nat
  rounds : List Round
  wdPeriod : Nat
  wdCount : Nat
  deriving DecidableEq, Repr

/-! ## Contexts -/

/-- A `.node` of the rig image (R302). -/
structure Node where
  entry : Nat
  op : Nat
  opnd : Nat
  recWords : Nat
  count : Nat
  timer : Nat
  prio : Nat
  cap : Nat
  lo : Nat
  hi : Nat
  cost : Nat
  fullTrap : Bool
  cancelTrap : Bool
  teams : Nat
  strands : Nat
  regs : Nat
  spad : Nat
  land : Nat
  wdPeriod : Nat
  canvas : Bool
  acc : Nat
  tiles : List (Nat × Nat × Nat × Nat)
  deriving DecidableEq, Repr

/-- A record in a bin (R303): its job, its words, the clock it entered, whether it is a cast-off record (R318), the number of the
waiting record that a conversion record serves, and whether the record has been converted before (R213, R214). -/
structure Rec where
  job : BitVec 16
  words : List Word
  entered : Nat
  castOff : Bool
  handle : Option Nat
  converted : Bool
  deriving DecidableEq, Repr

/-- A record that waits on conversions (R214): a number of its own, its handle, the node it waits at, the count left, and the record with the spare
addresses in place of the converted operands'. -/
structure Waiting where
  id : Nat
  handle : Nat
  node : Nat
  left : Nat
  record : Rec
  deriving DecidableEq, Repr

/-- An entry of the rig table as the dispatcher took it (R210, R211). -/
structure RigEntry where
  op : Nat
  kind : Nat
  nopd : Nat
  reef : Nat
  keys : List Nat
  outTag : Nat
  cnode : Nat
  entry : Nat
  deriving DecidableEq, Repr

/-- A record with no method: its job, the address of its words in the bin's spill area (R215), and whether it is a cast-off record
(R318, R323). -/
structure DeadRec where
  job : BitVec 16
  addr : Nat
  castOff : Bool
  deriving DecidableEq, Repr

/-- A report word of the termination detector (R312): job, EPOCH so far, whether the job is busy, whether it is cancelled, and the
STATUS of each report that is due, the first one first.  The entry of job 0 is the context-wide word. -/
structure JobState where
  job : Nat
  epoch : Nat
  busy : Bool
  cancelled : Bool
  due : List Nat
  deriving DecidableEq, Repr

/-- A cast-off queue entry; of one beyond those on die, its place in the spill area, and the physical address of its 32 bytes there once
they have been written (R297, R298, R402). -/
structure CastOff where
  gen : Nat
  addr : BitVec 64
  size : Word
  node : Nat
  job : BitVec 16
  slot : Option (Nat × Option Nat)
  deriving DecidableEq, Repr

/-- A pending FRAME.REL (R321, R344): release time, physical destination, message, edge, late from the start. -/
structure Release where
  time : Nat
  dest : Nat
  repl : Bool
  msg : List Byte
  edge : Bool
  late : Bool
  deriving DecidableEq, Repr

/-- A registered window (R371). -/
structure Window where
  id : Nat
  dev : Nat
  base : Nat
  size : Nat
  allowPut : Bool
  allowGet : Bool
  deriving DecidableEq, Repr

/-- A CTXWR that not every core has taken (R353): the writing team, register index, the old value, and the cores that have taken
the new one. -/
structure OldReg where
  team : Nat
  idx : Nat
  old : BitVec 64
  taken : List Nat
  deriving DecidableEq, Repr

/-- The run state of a context: it runs, it is halted in place, it is saved, or it has been terminated (and then its record
may still have to be sent, R31). -/
inductive CtxState where
  | none | running | halted | saved | terminated
  deriving DecidableEq, Repr

/-- A request of the masthead kernel that a context does not yet meet: its end, its save, or its restore (R335, R336, R397). -/
inductive Request where
  | destroy | save | restore
  deriving DecidableEq, Repr

/-- An address that a unit of the device could not translate on a die and that the masthead kernel has been told of, with the access; `unit` is 1 for
the unit that keeps records with no method, 2 for the one that spills bins, else 0 (R247). -/
structure DevFault where
  unit : Nat
  va : Nat
  die : Nat
  access : Access
  deriving DecidableEq, Repr

/-- A context (R61, R301, R397).  `devFaults` has the addresses that the masthead kernel has been asked to map, `refusedVas` those that it
cannot map (R247); `rigTodo` is the rig table that the dispatcher has still to take (R210). -/
structure Context where
  key : Nat
  state : CtxState
  privileged : Bool
  ownsFsync : Bool
  root : Nat
  saveArea : Nat
  spill : Nat
  qbase : Nat
  reefFloor : Nat
  reefCap : Nat
  regs : FMap 64
  oldRegs : List OldReg
  cores : List Nat
  loaded : Bool
  nodes : List Node
  rig : List RigEntry
  deadNode : Nat
  deadBase : Nat
  deadCap : Nat
  dead : List DeadRec
  quietNode : Nat
  grants : List (Nat × Nat)
  bins : List (List Rec)
  served : List (List Nat)
  coreSets : List (List Nat)
  drained : List Nat
  fired : List Nat
  timers : List Nat
  lastServed : List (Nat × Nat)
  waiting : List Waiting
  jobs : List JobState
  deadUsed : Nat
  genClosed : Nat
  genDone : Nat
  castOffs : List CastOff
  reef : Nat
  reefBelow : Nat
  frameno : BitVec 32
  releases : List Release
  refused : Nat
  dropped : Nat
  windows : List Window
  breaks : List (Nat × Nat)
  termCause : Nat
  termRecord : Option (List Byte)
  termJobs : List Nat
  preemptAsked : Bool
  haltClock : Nat
  request : Option Request
  devFaults : List DevFault
  refusedVas : List Nat
  rigTodo : Option Nat
  csets : Nat
  deriving DecidableEq, Repr

/-! ## Asynchronous operations -/

/-- A lane of an LDA that has not landed (R266); `acq` says that the LDA has .acq or .sc; one with .sc has its value from its ticket on
(R263). -/
structure LdaLane where
  lane : Nat
  loc : Loc
  type : Nat
  bypass : Bool
  acq : Bool
  reg : Nat
  val : Option (BitVec 64)
  deriving DecidableEq, Repr

/-- The storage that a scratchpad address reaches (R196): by the swizzle field, or by a region's base and width. -/
inductive SpadMap where
  | sw (n : Nat)
  | tile (base width : Nat)
  deriving DecidableEq, Repr

/-- A 16-byte unit of a copy: where it lies in memory and its scratchpad address (R222). -/
structure CopyUnit where
  loc : Loc
  sp : Nat
  deriving DecidableEq, Repr

/-- The tag write of an operation (R209): none, the region table entry at a base, or the TAGW of a header. -/
inductive TagWrite where
  | none
  | region (base : Nat) (tag : BitVec 16)
  | header (loc : Loc) (tag : BitVec 16)
  deriving DecidableEq, Repr

/-- A format-block record with its metadata address record (R201, R204), and, for a sparse A, the scale bytes of the blocks under way by
row, each of which is read once (R200). -/
structure FmtBlock where
  afmt : Nat
  bfmt : Nat
  abl : Nat
  bbl : Nat
  asp : Nat
  pi : Nat
  wa : Nat
  wb : Nat
  ascale : Nat
  bscale : Nat
  astr : Nat
  bstr : Nat
  mbase : Nat
  mstr : Nat
  mn : Nat
  held : FMap 8
  deriving DecidableEq, Repr

/-- The operands of an MMA (R88, R228). -/
structure MmaArgs where
  sp : Bool
  acc : Nat
  ao : Nat
  bo : Nat
  da : Bool
  db : Bool
  kg : Nat
  fbr : Nat
  deriving DecidableEq, Repr

/-- A lane of a NETV or NETS: its pointer and its inputs, read at issue (R171). -/
structure NetLane where
  lane : Nat
  ptr : Nat
  inputs : List Word
  deriving DecidableEq, Repr

/-- A layer of a network as its header gives it at issue: inputs, outputs, weight format, whether it ends with a ReLU, the block
length of 4-bit weights, and where the weights (64 bytes each), the biases (4 bytes each; none without BADDR) and the scale
bytes lie (R170, R216, R247). -/
structure NetLayer where
  nin : Nat
  nout : Nat
  fmt : Nat
  relu : Bool
  block : Nat
  w : List Loc
  b : List Loc
  s : List Loc
  deriving DecidableEq, Repr

/-- A tile of a NETV or NETS that the array runs: its lanes as they issued (R176), its lanes with the inputs of the present layer, the layers
left, the next group of 32 inputs, and the accumulators by `64 * row + output` (R23, R172, R173). -/
structure NetTile where
  start : List NetLane
  rows : List NetLane
  layers : List NetLayer
  g : Nat
  acc : FMap 32
  deriving DecidableEq, Repr

/-- A remote operation: local units in order, the numbers of those not performed yet, window, remote offset, device and the flag's offset
of a PSIG (R281); the clock by which R373 bounds its completion, and the retrains and replays of its port before its issue. -/
structure RemoteArgs where
  units : List Loc
  todo : List Nat
  win : Nat
  off : Nat
  dev : Nat
  flag : Nat
  tc : Bool
  rel : Bool
  bound : Option Nat
  marks : Nat
  deriving DecidableEq, Repr

/-- A ring operation's descriptor with the size of the ring, the position of this device and the devices of its successor and its
predecessor (R345, R346, R374). -/
structure RingArgs where
  srcVa : Nat
  dstVa : Nat
  chunk : Nat
  nchunk : Nat
  devices : Nat
  pos : Nat
  succ : Nat
  pred : Nat
  sem : Nat
  fmt : Nat
  max : Bool
  tc : Bool
  win : Nat
  die : Nat
  deriving DecidableEq, Repr

/-- What an asynchronous operation still has to do. -/
inductive OpWork where
  /-- LDA: the lanes to land, and whether lanes may still be added on replay (R252, R266). -/
  | lda (todo : List LdaLane) (more : Bool)
  /-- CPY, CPY2D, CPY.T: into scratchpad or out of it, the units, their mapping (`none`: by region or swizzle, address by
  address), the tag write and the MMA that follows (R206, R222, R223). -/
  | copy (out : Bool) (units : List CopyUnit) (sw : Nat) (tile : Option (Nat × Nat)) (tag : TagWrite) (follow : Option MmaArgs)
  /-- An MMA that the copy engine is to issue, of a copy whose units have landed (R206). -/
  | follow (args : MmaArgs)
  /-- An MMA: the group to run next, the groups since the last fold, the in-array accumulators, and the outputs that the fold
  under way has not reached (R191). -/
  | mma (args : MmaArgs) (fb : FmtBlock) (g n : Nat) (acc : FMap 26) (fold : Option Plane)
  /-- ACC.CLR, ACC.PROM: the slots, the factor, and the words not yet updated (R232). -/
  | accClr (slot : Nat) (left : Plane)
  | accProm (dst src : Nat) (f : Word) (left : Plane)
  /-- ACC.LD: the block's elements by word of the slot, the source format, and the words not yet written (R233). -/
  | accLd (slot : Nat) (elems : List (Nat × Loc)) (fmt : Nat) (left : Plane)
  /-- ACC.ST: the block's elements, the format, .sat, the header's TAGW, the bytes stored at the end, and the words not yet
  read (R233). -/
  | accSt (slot : Nat) (elems : List (Nat × Loc)) (fmt : Nat) (sat : Bool) (tag : TagWrite) (got : List (Loc × Nat)) (left : Plane)
  /-- NETV, NETS: the lanes of the tiles not yet run, group by group, the networks by pointer, the physical result registers, and the
  tile that runs (R57, R171, R172, R234). -/
  | net (todo : List NetLane) (nets : List (Nat × List NetLayer)) (regs : List Nat) (tile : Option NetTile)
  /-- CNV.RDL.a, which the canvas carries out (R161). -/
  | rdla
  /-- PUT (0), GET (1), PSIG (2) (R281). -/
  | remote (kind : Nat) (args : RemoteArgs)
  /-- RING.RED: the chunks whose semaphores have been added, those whose first segment has gone to the successor, and the segments that
  this device has joined, by chunk and number, with the result of its own (R346, R374). -/
  | ring (args : RingArgs) (done sent : List Nat) (joined : List (Nat × Nat × List Byte))
  /-- Nothing. -/
  | nothing
  deriving DecidableEq, Repr

/-- An asynchronous operation of a team: its batch, its instruction's address, its work, the data that waits for COMMIT with the
quota it holds, whether it has completed, its deferred cause with TRAPINFO (R67, R68, R275), whether it is a NETV or NETS, and
the lanes of one that have faulted (R174, R175); `acq` says that it orders what the team accesses once its batch is observed (R224, R281). -/
structure AsyncOp where
  id : Nat
  team : Nat
  crew : Nat
  ctx : Nat
  core : Nat
  batch : Nat
  pc : Nat
  work : OpWork
  landed : List RegWrite
  quota : Nat
  done : Bool
  cause : Option (Nat × BitVec 64)
  net : Bool
  faulted : List Nat
  stamp : Nat
  acq : Bool
  deriving DecidableEq, Repr

/-! ## Cores, dies and the package -/

/-- A leaf translation held in a core's TLB (R251). -/
structure TlbEntry where
  ctx : Nat
  base : Nat
  size : Nat
  pte : BitVec 64
  deriving DecidableEq, Repr

/-- A 32-byte sector of a core's L1 (R242, R243): its number among those of the physical addresses, its bytes as they were filled,
and the teams of a core pair that have stored to it from the partner core since, which do not read it (R289). -/
structure L1Sector where
  sec : Nat
  bytes : List Byte
  barred : List Nat
  deriving DecidableEq, Repr

/-- The stores of a core (R19, R242, R251, R255).  `miss` lists the
sampler lines that are on their way with the team that asked for each; `served` has, for each issue slot (4 times the partition plus
the slot), the team last served, as `1024 * home core + TEAMID` (R49), and `arrayServed` the TEAMID whose group the matrix array ran last (R23). -/
structure CoreState where
  l1 : List L1Sector
  wcb : List StoreByte
  samp : List SampLine
  miss : List (Nat × Nat)
  tlb : List TlbEntry
  gated : Bool
  served : List (Nat × Nat)
  arrayServed : Nat
  deriving DecidableEq, Repr

/-! ## Bank arithmetic units -/

/-- A bank round (R356, R359, R368): its team, whether it is open, how many commands it was given, whether it is acknowledged,
and its failing columns in issue order: command, virtual address. -/
structure BankRound where
  id : Nat
  team : Nat
  crew : Nat
  ctx : Nat
  isOpen : Bool
  given : Nat
  acked : Bool
  fails : List (Nat × Nat)
  deriving DecidableEq, Repr

/-- A column of a bank command: physical and virtual address of the first operand's column, and physical address of the
second's. -/
structure BankCol where
  px : Nat
  vx : Nat
  py : Nat
  vy : Nat
  deriving DecidableEq, Repr

/-- A queued bank command (R362, R364): its number within its round, its unit, operation and format, its columns that no bank has served
yet, in ascending address, the columns that AXPY has read before it has written them, the partial value of each bank of a reduction, its
factor or pattern, its result word, the clock and the step in which it issued, and whether it has aged. -/
structure BankCmd where
  round : Nat
  number : Nat
  unit : Nat
  op : Nat
  fmt : Nat
  cols : List BankCol
  held : List (Nat × List Nat)
  parts : List Nat
  factor : Word
  result : Option Loc
  queued : Nat
  stamp : Nat
  aged : Bool
  deriving DecidableEq, Repr

/-- What a slice may still return for a byte that an open round has written: the old byte, the size of its element, the round
(R293). -/
structure BankOld where
  old : Byte
  size : Nat
  round : Nat
  deriving DecidableEq, Repr

/-- Device memory whose contents the device has written in a form that no rule gives: its base and size, when that was, and the bytes
that have been written since (R335, R402). -/
structure OpenRange where
  base : Nat
  size : Nat
  stamp : Nat
  written : List Nat
  deriving DecidableEq, Repr

/-! ## The package -/

/-- The states of the device-time discipline (R376). -/
inductive Discipline where
  | free | acquiring | locked | holdover
  deriving DecidableEq, Repr

/-- Device time (R376, R378): the masthead kernel's choices, which are the domain number, the boundary role, whether PPS in replaces the
phase source, and the port that time is taken from (24 for the time port, else a stay link); the state, the latest offsets from the
source, whether the one step has been made, the offset still to be slewed away and the clock in which a nanosecond of it last was, the whole seconds
of the latest offset of the time of day, the pins, and the latest input edges. -/
structure TimeState where
  domain : Nat
  boundary : Bool
  phasePps : Bool
  port : Nat
  seconds : Int
  disc : Discipline
  offsets : List Int
  stepped : Bool
  slew : Int
  lastSync : Nat
  heldSince : Nat
  lastSlew : Nat
  ppsOut : Bool
  ppsRose : Nat
  fsyncOut : Bool
  fsyncRose : Option Nat
  ppsInAt : Option Nat
  fsyncInAt : Option Nat
  deriving DecidableEq, Repr

/-- An attestation report (R399): the nonce, the SHA-512 digests of the first stage and of the kernel, the fuse revision, the presence
report, and the signature over them. -/
structure Attestation where
  nonce : List Byte
  firstStage : List Byte
  kernel : List Byte
  fuses : Nat
  presence : List Byte
  signature : List Byte
  deriving DecidableEq, Repr

/-- What leaves the package to the masthead kernel, the host, the management port and other devices; `sent` has the device, the kind (0
bytes, 2 an add of one, 3 a partial ring segment), the address or number there, and the bytes; `inputEdges` the edges of PPS in (0) and
FSYNC in (1) with their times, and `syncs` the sync exchanges on stay links by port with the device time that they carry. -/
structure Reports where
  service : List (List Byte)
  host : List (List Byte)
  debug : List (Nat × Nat × Nat)
  residency : List (Nat × Nat)
  ppsEdges : List Nat
  fsyncEdges : List Nat
  attestations : List Attestation
  preemptRefused : Nat
  weightRefused : Nat
  flits : List (Nat × List Byte)
  sent : List (Nat × Nat × Nat × List Byte)
  inputEdges : List (Nat × Nat)
  syncs : List (Nat × Nat)
  deriving DecidableEq, Repr

/-- The device of the package besides its cores: presence, boot status, clocks, links, power and reports (25, 27); `booted` is the step of
the package reset, and `lastCtx` has the context that each core's launches served last (R306). -/
structure Device where
  devid : BitVec 22
  clock : Nat
  dtime : Nat
  stage : Nat
  code : Nat
  booted : Nat
  coresPresent : List Nat
  channels : List Nat
  linksPresent : List Nat
  bankUnits : List Nat
  routes : List (Nat × Nat × Bool)
  retrains : List Nat
  replays : List Nat
  injections : List Nat
  cap : Nat
  withheld : Bool
  lastTrim : Nat
  lastReef : Nat
  lastPower : Nat
  lastCtx : List (Nat × Nat)
  time : TimeState
  reports : Reports
  deriving DecidableEq, Repr

/-- The whole package.  `mem` is the device memory by physical address; `bankOld` lists the bytes that a bank command wrote and that a
slice may still return with their old value (R293); `scStores` lists the .sc stores that are not performed, in ticket order (R263),
`staging` the partial segments that wait in the grommet engines' staging by operation, chunk and segment (R374), and `atomics` the lanes
of ATOMs that have not executed (R270); `dieTlbs` has the TLB of each die and `shoots` the contexts whose shoot-down is not complete
(R251); `wrote` lists the 128-byte lines that the present step has written at their home slices (R255); `past` the values that bytes have
had and that a load of some team may still read, and `slotsBusy` the issue slots that have served in the present clock, by core and slot
(R49); keys of `weights` are `die * 2 ^ 29 + offset`, of `semaphores` `die * 4096 + index`, of `bankErr` `16 * unit + bank`. -/
structure State where
  team : Team
  crew : Crew
  ctx : Context
  teams : List Team
  crews : List Crew
  ctxs : List Context
  cores : List (Nat × CoreState)
  dev : Device
  mem : FMap 8
  openMem : List OpenRange
  bankOld : List (Nat × BankOld)
  weights : FMap 8
  semaphores : FMap 32
  bankErr : FMap 64
  rounds : List BankRound
  bankCmds : List BankCmd
  ops : List AsyncOp
  scStores : List StoreByte
  atomics : List AtomLane
  dieTlbs : List (Nat × List TlbEntry)
  shoots : List Nat
  staging : List (Nat × Nat × Nat × List Byte)
  wrote : List Nat
  past : List PastByte
  slotsBusy : List (Nat × Nat)
  inbox : List Instr
  nextKey : Nat
  tick : Nat
  deriving DecidableEq, Repr

/-! ## How a step can stop -/

/-- The machine stops with a fault. -/
inductive Fault where
  /-- The host writes to an address that the context's page tables do not map to device memory, for which the spec gives no
  location (R245, R249, R308): raised by the event HOST_MEMORY_WRITE alone.  Safe: the run ends where the spec gives no effect
  (log entry 53). -/
  | noMemory (addr : Nat)
  deriving DecidableEq, Repr

/-- No meaning. -/
inductive Refusal where
  /-- The instruction's meaning is not written yet: raised by an arm of `exec`.  Safe: nothing is said of it. -/
  | notModelled (mnemonic : String)
  deriving DecidableEq, Repr

/-! ## Reset -/

/-- Flags all clear. -/
def Flags.clear : Flags := { z := false, n := false, c := false, v := false }

/-- The trap state before a team's first trap (R59, R62, R327). -/
def TrapState.initial : TrapState :=
  { mode := false, cause := 0, pc := 0, info := 0, savedMask := 0, savedMDepth := 0, savedCDepth := 0,
    savedReplay := none, savedClosing := false, pcWritten := false, brk := false }

/-- No team. -/
def Team.vacant : Team :=
  { key := 0, state := .free, halted := false, held := false, park := .awake, ctx := 0, crew := 0, index := 0, slot := 0, part := 0,
    strands := 0, alloc := 0, pc := 0, mask := 0, launchMask := 0, mstack := [], cstack := [], winBase := 0, tpri := 0,
    lanes := [], scalars := [], preds := [], flags := Flags.clear, netstat := [], trap := TrapState.initial,
    replay := none, closing := false, wdog := 0, wdogDue := none, unchecked := [], nest := 0, qgen := 0, qpend := [],
    openBatch := 0, closedAny := false, committed := [], landQuota := 0, slotWait := [], aged := [],
    issued := [], issuedNow := false, floor := 0, seen := [], acqBatches := [],
    skipBreak := false, declined := none, dropping := none, gathered := [] }

/-- The canvas that a crew finds when it attaches one (R123). -/
def Canvas.fresh : Canvas :=
  { regs := List.replicate 16 [], en := BitVec.allOnes 4096, stack := [], flags := List.replicate 5 0, x0 := 0, y0 := 0,
    pend := none, counted := 0, queue := [] }

/-- No crew. -/
def Crew.vacant : Crew :=
  { key := 0, live := false, crewid := 0, ctx := 0, node := 0, job := 0, core := 0, pair := false, nteams := 0,
    strands := 0, spadSize := 0, spad := [], hidden := [], tiles := [], accSlots := 0, acc := [], hasCanvas := false,
    canvas := Canvas.fresh, convs := [], rounds := [], wdPeriod := 16777216, wdCount := 0 }

/-- No context. -/
def Context.vacant : Context :=
  { key := 0, state := .none, privileged := false, ownsFsync := false, root := 0, saveArea := 0, spill := 0, qbase := 0,
    reefFloor := 0, reefCap := 3, regs := [], oldRegs := [], cores := [], loaded := false, nodes := [],
    rig := [], deadNode := 65535, deadBase := 0, deadCap := 0, dead := [], quietNode := 65535, grants := [(0, 0), (0, 0)], bins := [], served := [], coreSets := [], drained := [], fired := [], timers := [],
    lastServed := [], waiting := [], jobs := [], deadUsed := 0, genClosed := 0, genDone := 0, castOffs := [], reef := 0,
    reefBelow := 0, frameno := 0, releases := [], refused := 0, dropped := 0, windows := [], breaks := [],
    termCause := 0, termRecord := none, termJobs := [], preemptAsked := false, haltClock := 0, request := none, devFaults := [], refusedVas := [], rigTodo := none,
    csets := 0 }

/-- A core whose stores are empty; nothing works on it, and its clock is gated (R257, R394). -/
def CoreState.empty : CoreState := { l1 := [], wcb := [], samp := [], miss := [], tlb := [], gated := true, served := [], arrayServed := 0 }

/-- Device time at package reset: free, with the pins low (R376, R378). -/
def TimeState.initial : TimeState :=
  { domain := 0, boundary := false, phasePps := false, port := 24, seconds := 0, disc := .free, offsets := [], stepped := false, slew := 0, lastSync := 0, heldSince := 0, lastSlew := 0, ppsOut := false, ppsRose := 0,
    fsyncOut := false, fsyncRose := none, ppsInAt := none, fsyncInAt := none }

/-- Nothing has been reported. -/
def Reports.empty : Reports :=
  { service := [], host := [], debug := [], residency := [], ppsEdges := [], fsyncEdges := [], attestations := [],
    preemptRefused := 0, weightRefused := 0, flits := [], sent := [], inputEdges := [], syncs := [] }

/-- The device at package reset (R394, R395): the masthead has not booted; a full package (R1); the cap is 2,400 W (R400).  DESIGN
CHOICE: DEVID 0 and every unit present before the boot (log entry 5). -/
def Device.initial : Device :=
  { devid := 0, clock := 0, dtime := 0, stage := 0, code := 0, booted := 0, coresPresent := List.range 256,
    channels := List.range 256, linksPresent := List.range 24, bankUnits := List.range 512, routes := [], retrains := [],
    replays := [], injections := [], cap := 2400, withheld := false, lastTrim := 0, lastReef := 0, lastPower := 0, lastCtx := [],
    time := TimeState.initial, reports := Reports.empty }

/-- The package right after reset (R35, R61, R394): nothing boots, exists or runs yet, and no byte of memory is listed.  DESIGN
CHOICE: what the stores and the device hold where the spec gives no reset value (log entries 2, 3, 5 and 74). -/
def State.reset : State :=
  { team := Team.vacant, crew := Crew.vacant, ctx := Context.vacant, teams := [], crews := [], ctxs := [], cores := [],
    dev := Device.initial, mem := [], openMem := [], bankOld := [], weights := [], semaphores := [], bankErr := [], rounds := [],
    bankCmds := [], ops := [], scStores := [], atomics := [], dieTlbs := [], shoots := [], staging := [], wrote := [], past := [], slotsBusy := [], inbox := [], nextKey := 1, tick := 0 }

end Sys2Proof.Machine
end

