-- ==== Sys2Proof/Machine/Ops.lean ====
section
/-! DEFINITION. The named operations that the meanings share: registers and masks (05), the team's advance, finding and changing
teams, crews and contexts, taking a trap and returning from one (21), and ending a context (03, R31). -/

namespace Sys2Proof.Machine

/-- The outcome of a meaning. -/
abbrev Out := Host.Outcome State Fault Refusal

/-! ## Bytes and numbers -/

/-- The low `n` bytes of a number, the lowest first (R3). -/
def leBytes (n w : Nat) : List Byte := (List.range n).map (fun i => BitVec.ofNat 8 (w / 2 ^ (8 * i)))

/-- The number that bytes make, the lowest first (R3). -/
def ofLeBytes : List Byte → Nat
  | [] => 0
  | b :: t => b.toNat + 256 * ofLeBytes t

/-- The bits `hi` down to `lo` of a number. -/
def bits (w hi lo : Nat) : Nat := w / 2 ^ lo % 2 ^ (hi + 1 - lo)

/-- The first member of a rising list past the one served last, or the first of all (R23, R49, R306). -/
def nextAfter (last : Option Nat) (xs : List Nat) : Option Nat :=
  match last with
  | none => xs.head?
  | some k =>
    match xs.find? (fun x => decide (k < x)) with
    | some x => some x
    | none => xs.head?

/-- Numbers in ascending order, each once. -/
def sortedKeys (xs : List Nat) : List Nat := xs.foldr (fun x acc => acc.filter (fun y => decide (y < x)) ++ x :: acc.filter (fun y => decide (x < y))) []

/-! ## Masks and registers -/

/-- The lanes of a mask among the first `n`, in strand order (R8). -/
def Mask.lanesOf (m : Mask) (n : Nat) : List Nat := (List.range n).filter (fun l => m.getLsbD l)

/-- The mask whose bit `l`, for `l` below `n`, is `f l`. -/
def Mask.ofFn (n : Nat) (f : Nat → Bool) : Mask :=
  BitVec.ofNat 1024 ((List.range n).foldl (fun acc l => if f l then acc + 2 ^ l else acc) 0)

/-- How many lanes the team has. -/
def Team.width (t : Team) : Nat := 32 * t.strands

/-- The active lanes in strand order (R8). -/
def Team.active (t : Team) : List Nat := t.mask.lanesOf t.width

/-- The lanes an access acts on: the active ones, narrowed to the replay mask when one is held (R252). -/
def Team.acting (t : Team) : List Nat :=
  match t.replay with
  | none => t.active
  | some r => (t.mask &&& r).lanesOf t.width

/-- The lane register that a field names, as its number in the register image: `none` outside the allocation (R56, R62, R63). -/
def Team.laneReg (t : Team) (n : Nat) : Option Nat :=
  if t.trap.mode = true ∧ 112 ≤ n ∧ n < 128 then some (t.alloc + (n - 112))
  else if 128 ≤ n then none
  else if t.alloc < 128 then (if n < t.alloc then some n else none)
  else some (32 * t.winBase + n)

/-- The same number with no check. -/
def Team.phys (t : Team) (n : Nat) : Nat := (t.laneReg n).getD 0

/-- Every field of the list names a lane register inside the allocation (R56). -/
def Team.namesOk (t : Team) (ns : List Nat) : Bool := ns.all (fun n => (t.laneReg n).isSome)

/-- Lane register `n` of a lane. -/
def Team.rd (t : Team) (n : Nat) (lane : Nat) : Word := t.lanes.get (t.phys n * 1024 + lane)

/-- The pair that begins at lane register `n` (R73). -/
def Team.rd64 (t : Team) (n : Nat) (lane : Nat) : BitVec 64 := t.rd (n + 1) lane ++ t.rd n lane

/-- Write lane register `n` in the lanes of a list; `f` gives each lane's value (R53). -/
def Team.wr (t : Team) (n : Nat) (ls : List Nat) (f : Nat → Word) : Team :=
  { t with lanes := ls.foldl (fun m l => m.set (t.phys n * 1024 + l) (f l)) t.lanes }

/-- Write the pair that begins at lane register `n` (R73). -/
def Team.wr64 (t : Team) (n : Nat) (ls : List Nat) (f : Nat → BitVec 64) : Team :=
  (t.wr n ls (fun l => (f l).truncate 32)).wr (n + 1) ls (fun l => (f l >>> 32).truncate 32)

/-- The number of a scalar field: s56 to s63 name the trap scalars in trap mode (R62). -/
def Team.scalarReg (t : Team) (n : Nat) : Nat := if t.trap.mode = true ∧ 56 ≤ n then n + 8 else n

/-- Scalar register `n`. -/
def Team.srd (t : Team) (n : Nat) : Word := t.scalars.get (t.scalarReg n)

/-- The scalar pair at `n` (R58). -/
def Team.srd64 (t : Team) (n : Nat) : BitVec 64 := t.srd (n + 1) ++ t.srd n

/-- Write scalar register `n`. -/
def Team.swr (t : Team) (n : Nat) (v : Word) : Team := { t with scalars := t.scalars.set (t.scalarReg n) v }

/-- Write the scalar pair at `n` (R58). -/
def Team.swr64 (t : Team) (n : Nat) (v : BitVec 64) : Team :=
  (t.swr n (v.truncate 32)).swr (n + 1) ((v >>> 32).truncate 32)

/-- A predicate as a source: field 0 reads as all ones (R113, R114). -/
def Team.prd (t : Team) (n : Nat) : Mask := if n = 0 then BitVec.allOnes 1024 else t.preds.get n

/-- Write the bits of predicate `n` in the lanes of a list; the other bits keep their value (R53). -/
def Team.pwr (t : Team) (n : Nat) (ls : List Nat) (f : Nat → Bool) : Team :=
  { t with
    preds := t.preds.set n
      (ls.foldl (fun m l => if f l then m ||| BitVec.twoPow 1024 l else m &&& ~~~ BitVec.twoPow 1024 l) (t.preds.get n)) }

/-- Write one outstanding register write (R51). -/
def Team.land (t : Team) (w : RegWrite) : Team :=
  if w.scalar then { t with scalars := t.scalars.set w.key w.val } else { t with lanes := t.lanes.set w.key w.val }

/-- Every outstanding unchecked write is written (R51). -/
def Team.flush (t : Team) : Team := { (t.unchecked.foldl Team.land t) with unchecked := [] }

/-- Every load from memory has returned its value (R241, R273). -/
def Team.flushLoads (t : Team) : Team :=
  { ((t.unchecked.filter (fun w => w.mem)).foldl Team.land t) with unchecked := t.unchecked.filter (fun w => !w.mem) }

/-- What an instruction with a set belay bit waits for (R51). -/
def Team.belay (t : Team) (b : Bool) : Team := if b then t.flush else t

/-- No later access of the team is performed before a step (R241, R273, R288). -/
def Team.raiseFloor (t : Team) (k : Nat) : Team :=
  { t with floor := Nat.max t.floor k }

/-- An access of the team that bypasses L1, issued in a step, has read bytes as of a step (R289). -/
def Team.saw (t : Team) (addr size issued k : Nat) : Team := { t with seen := ⟨addr, size, issued, k⟩ :: t.seen }

/-- The team goes on `n` words further, its instruction done and no replay mask held (R69, R252). -/
def Team.advance (t : Team) (n : Nat) : Team := { t with pc := BitVec.ofNat 57 (t.pc.toNat + 4 * n), replay := none, closing := false, declined := none, skipBreak := false }

/-- The program counter set by a control transfer (R71). -/
def Team.jump (t : Team) (a : Nat) : Team := { t with pc := BitVec.ofNat 57 a, replay := none, closing := false, declined := none, skipBreak := false }

/-- The stack depth recorded at entry to the current function (R46, R119, R327). -/
def Team.depthBase (t : Team) : Nat :=
  match t.cstack with
  | [] => if t.trap.mode then t.trap.savedMDepth else 0
  | f :: _ => if t.trap.mode = true ∧ t.cstack.length ≤ t.trap.savedCDepth then t.trap.savedMDepth else f.base

/-- The team's TEAMID (R60). -/
def Team.teamid (t : Team) : Nat := t.slot.toNat * 16 + t.index

/-- The state code of R32. -/
def Team.stateCode (t : Team) (ctxHalted : Bool) : Nat :=
  match t.state with
  | .free => 0
  | .exited => 5
  | .running => if t.halted || ctxHalted then 4 else 1
  | .ready => if t.halted || ctxHalted then 4 else 2
  | .parked => if t.halted || ctxHalted then 4 else 3

/-- The parked cause of R42; 0 when the team is not parked. -/
def Park.code : Park → Nat
  | .awake => 0
  | .memFault _ => 1
  | .waitv _ _ _ _ => 2
  | .ringWait _ _ _ _ => 2
  | .barrier _ => 3
  | .fullBin _ => 4
  | .commit _ => 5
  | .waitb _ => 5
  | .batchRange _ => 5
  | .bankWait => 6
  | .grace _ => 7

/-- The core on which strand `j` of a team of the crew issues (R36, R38); cores 2k and 2k + 1 are a pair (R18). -/
def Crew.coreOf (w : Crew) (t : Team) (j : Nat) : Nat :=
  if w.pair = true ∧ 4 ≤ (t.part + j) % 8 then (if w.core % 2 = 0 then w.core + 1 else w.core - 1) else w.core

/-- The die of a core (R18). -/
def dieOf (core : Nat) : Nat := core / 128

/-! ## Teams, crews and contexts by key -/

/-- The team with a key. -/
def State.team? (s : State) (k : Nat) : Option Team :=
  if s.team.state ≠ .free ∧ s.team.key = k then some s.team else s.teams.find? (fun t => t.key == k)

/-- The crew with a key. -/
def State.crew? (s : State) (k : Nat) : Option Crew :=
  if s.crew.live = true ∧ s.crew.key = k then some s.crew else s.crews.find? (fun t => t.key == k)

/-- The context with a CTXID. -/
def State.ctx? (s : State) (k : Nat) : Option Context :=
  if s.ctx.state ≠ .none ∧ s.ctx.key = k then some s.ctx else s.ctxs.find? (fun t => t.key == k)

/-- Change the team with a key. -/
def State.modTeam (s : State) (k : Nat) (f : Team → Team) : State :=
  if s.team.state ≠ .free ∧ s.team.key = k then { s with team := f s.team }
  else { s with teams := s.teams.map (fun t => if t.key = k then f t else t) }

/-- Change the crew with a key. -/
def State.modCrew (s : State) (k : Nat) (f : Crew → Crew) : State :=
  if s.crew.live = true ∧ s.crew.key = k then { s with crew := f s.crew }
  else { s with crews := s.crews.map (fun t => if t.key = k then f t else t) }

/-- Change the context with a CTXID. -/
def State.modCtx (s : State) (k : Nat) (f : Context → Context) : State :=
  if s.ctx.state ≠ .none ∧ s.ctx.key = k then { s with ctx := f s.ctx }
  else { s with ctxs := s.ctxs.map (fun t => if t.key = k then f t else t) }

/-- Every team of the package. -/
def State.allTeams (s : State) : List Team := if s.team.state = .free then s.teams else s.team :: s.teams

/-- Every crew of the package. -/
def State.allCrews (s : State) : List Crew := if s.crew.live then s.crew :: s.crews else s.crews

/-- Every context of the package. -/
def State.allCtxs (s : State) : List Context := if s.ctx.state = .none then s.ctxs else s.ctx :: s.ctxs

/-- The issuing team, its crew and its context go back to the lists. -/
def State.stash (s : State) : State :=
  { s with teams := s.allTeams, team := Team.vacant, crews := s.allCrews, crew := Crew.vacant,
           ctxs := s.allCtxs, ctx := Context.vacant }

/-- The team with a key becomes the issuing team, with its crew and its context. -/
def State.select (s : State) (k : Nat) : State :=
  if s.team.state ≠ .free ∧ s.team.key = k then s
  else
    let s := s.stash
    match s.teams.find? (fun t => t.key == k) with
    | none => s
    | some t =>
      { s with
        team := t, teams := s.teams.filter (fun u => u.key != k),
        crew := (s.crews.find? (fun c => c.key == t.crew)).getD Crew.vacant, crews := s.crews.filter (fun c => c.key != t.crew),
        ctx := (s.ctxs.find? (fun c => c.key == t.ctx)).getD Context.vacant, ctxs := s.ctxs.filter (fun c => c.key != t.ctx) }

/-- The stores of a core. -/
def State.core (s : State) (c : Nat) : CoreState := (assoc? s.cores c).getD CoreState.empty

/-- Change the stores of a core. -/
def State.modCore (s : State) (c : Nat) (f : CoreState → CoreState) : State :=
  { s with cores := assocPut s.cores c (f (s.core c)) }

/-- The home core of the issuing crew's matrix array, canvas, copy engine and scratchpad (R36). -/
def State.home (s : State) : Nat := s.crew.core

/-- The value of a context register of a context that a core uses: while cores are still taking a new value, the old one at a core that
has not taken it (R353). -/
def Context.regOn (c : Context) (core i : Nat) : BitVec 64 :=
  match (c.oldRegs.filter (fun r => r.idx == i && !r.taken.contains core)).getLast? with
  | some r => r.old
  | none => c.regs.get i

/-- The value of a context register that an instruction of the issuing team uses. -/
def State.creg (s : State) (i : Nat) : BitVec 64 := s.ctx.regOn (s.crew.coreOf s.team 0) i

/-- Change what the package reports. -/
def Device.report (d : Device) (f : Reports → Reports) : Device := { d with reports := f d.reports }

/-- Put a changed team in the place of the issuing one. -/
def State.withTeam (s : State) (t : Team) : State := { s with team := t }

/-- The issuing team's instruction waits at issue: it has not issued, and the team stays ready (R49, R333). -/
def State.waits (s : State) : State := s.withTeam { s.team with issuedNow := false }

/-- No later access of the issuing team is performed before now. -/
def State.orderAfter (s : State) : State := s.withTeam (s.team.raiseFloor s.tick)

/-! ## Fault records and the end of a context -/

/-- The header of a fault record (R331).  DESIGN CHOICE: of a body whose length does not fit BODYLEN, its low 16 bits stand there (log
entry 88). -/
def recordHeader (cause kind ctxid bodyLen crewid pc dtime second core teamid : Nat) : List Byte :=
  leBytes 8 (cause * 2 ^ 56 + kind * 2 ^ 54 + ctxid % 65536 * 2 ^ 32 + bodyLen % 65536 * 2 ^ 16 + crewid) ++ leBytes 8 (pc % 2 ^ 57)
    ++ leBytes 8 dtime ++ leBytes 8 (second * 2 ^ 40 + core * 2 ^ 32 + teamid)

/-- The jobs of a context that are busy (R311). -/
def Context.busyJobs (c : Context) : List Nat := (c.jobs.filter (fun j => j.busy)).map (fun j => j.job)

/-- The context after termination: bins, waiting records, dead records, pending releases and the cast-off queue are dropped (R31, R215).  Its
record and its STATUS words follow by TERMINATION_RECORD. -/
def Context.ended (c : Context) (cause : Nat) (record : List Byte) : Context :=
  { c with state := .terminated, bins := c.bins.map (fun _ => []), waiting := [], dead := [], castOffs := [], releases := [], rigTodo := none,
           drained := [], preemptAsked := false, request := none, oldRegs := [], termCause := cause, termRecord := some record,
           termJobs := c.busyJobs }

/-- An operation that termination lets run to its end: a PUT, GET or PSIG, and a ring operation (R31, R282, R346). -/
def AsyncOp.outlives (o : AsyncOp) : Bool :=
  !o.done && (match o.work with | .remote _ _ => true | .ring _ _ _ _ => true | _ => false)

/-- Steps 1 to 3 of R31 for the context with a CTXID: its teams and crews are gone, its bins are dropped. -/
def State.terminate (s : State) (ck cause : Nat) (record : List Byte) : State :=
  match s.ctx? ck with
  | none => s
  | some c =>
    if c.state = .terminated then s
    else
      let s := s.modCtx ck (fun c => c.ended cause record)
      { s with
        team := if s.team.ctx = ck then Team.vacant else s.team
        crew := if s.crew.ctx = ck then Crew.vacant else s.crew
        teams := s.teams.filter (fun t => t.ctx != ck)
        crews := s.crews.filter (fun w => w.ctx != ck)
        ops := s.ops.filter (fun o => o.ctx != ck || o.outlives) }

/-- The termination record of a cause that the issuing team raised (R331). -/
def State.trapRecord (s : State) (cause second addr lane : Nat) (body : List Byte) : List Byte :=
  recordHeader cause 1 s.ctx.key body.length s.crew.crewid.toNat addr s.dev.dtime second
    (s.crew.coreOf s.team (lane / 32)) s.team.teamid ++ body

/-! ## Taking a trap and returning from it -/

/-- The team after trap entry (R327). -/
def Team.enterTrap (t : Team) (cause addr base : Nat) (info : BitVec 64) : Team :=
  let t := t.flush
  { t with
    state := .running, park := .awake,
    pc := BitVec.ofNat 57 (base + 64 * cause), mask := t.launchMask, replay := none, closing := false, declined := none,
    wdog := 0, skipBreak := false, dropping := none, gathered := [], issued := [],
    trap := { mode := true, cause := BitVec.ofNat 8 cause, pc := BitVec.ofNat 57 addr, info := info,
              savedMask := t.mask, savedMDepth := t.mstack.length, savedCDepth := t.cstack.length,
              savedReplay := t.replay, savedClosing := t.closing, pcWritten := false, brk := false } }

/-- A second cause in trap mode ends the context with cause 0x26 (R328, R331). -/
def State.doubleFault (s : State) (cause addr : Nat) (info : BitVec 64) (lane : Nat) : State :=
  s.terminate s.ctx.key 0x26 (s.trapRecord 0x26 cause addr lane
    (leBytes 8 s.team.trap.cause.toNat ++ leBytes 8 s.team.trap.pc.toNat ++ leBytes 8 s.team.trap.info.toNat
      ++ leBytes 8 info.toNat))

/-- The issuing team takes a trap for a cause that arose at an address, with its TRAPINFO: the one shared operation of R325 to
R328.  TRAPPC becomes `resume`, which is that address for every cause but those that TRAP raises (R70, R348).  `lane` is the
lane that raised it, for the record's core. -/
def State.takeTrap (s : State) (cause addr resume : Nat) (info : BitVec 64) (lane : Nat) : State :=
  if s.team.trap.mode then s.doubleFault cause addr info lane
  else if s.creg 3 = 0 then s.terminate s.ctx.key cause (s.trapRecord cause 0 addr lane (leBytes 8 info.toNat))
  else s.withTeam (s.team.enterTrap cause resume (s.creg 3).toNat info)

/-- A precise trap at the issuing team's instruction. -/
def State.trapHere (s : State) (cause : Nat) (info : BitVec 64) (lane : Nat := 0) : State :=
  s.takeTrap cause s.team.pc.toNat s.team.pc.toNat info lane

/-- TRAPINFO of causes 0x01 and 0x02: the first word and the second word or 0 (R325). -/
def wordsInfo (w0 w1 : Word) : BitVec 64 := w1 ++ w0

/-- Cause 0x01 at an instruction (R90). -/
def State.illegal (s : State) (i : Instr) : State := s.trapHere 0x01 (wordsInfo (encodedWord i 0) (encodedWord i 1))

/-- Cause 0x02 at a privileged instruction (R339). -/
def State.unprivileged (s : State) (i : Instr) : State := s.trapHere 0x02 (wordsInfo (encodedWord i 0) (encodedWord i 1))

/-- TRAPINFO of causes 0x03 to 0x07: a lane, by its number within its strand, and an address (R253). -/
def vaInfo (lane va : Nat) : BitVec 64 := BitVec.ofNat 64 (lane % 32 * 2 ^ 57 + va % 2 ^ 57)

/-- A trap of R253 at the issuing instruction. -/
def State.vaTrap (s : State) (cause lane va : Nat) : State := s.trapHere cause (vaInfo lane va) lane

/-- The team after a balanced RTT (R329).  DESIGN CHOICE: after a debugger breakpoint it passes one breakpoint, whatever TRAPPC the handler
has written (R349, log entry 89). -/
def Team.leaveTrap (t : Team) : Team :=
  { t with mask := t.trap.savedMask, wdog := 0, pc := t.trap.pc,
           replay := if t.trap.pcWritten then none else t.trap.savedReplay,
           closing := !t.trap.pcWritten && t.trap.savedClosing,
           skipBreak := t.trap.brk,
           trap := { t.trap with mode := false } }

/-- Return from a trap (R329): the operation beside `takeTrap`. -/
def State.returnFromTrap (s : State) (i : Instr) : State :=
  if s.team.trap.mode = false then s.illegal i
  else if s.team.mstack.length ≠ s.team.trap.savedMDepth ∨ s.team.cstack.length ≠ s.team.trap.savedCDepth then
    s.doubleFault 0x01 s.team.pc.toNat (wordsInfo (encodedWord i 0) 0) 0
  else s.withTeam s.team.leaveTrap

/-- Privileged mode (R339). -/
def State.privileged (s : State) : Bool := s.ctx.privileged && s.team.trap.mode

end Sys2Proof.Machine
end

