-- ==== Sys2Proof/Machine/Residency.lean ====
section
/-! DEFINITION. What the resident crews take of a core (04, R36, R38; 05, R66, R67), and the lines that its L1 is left with. -/

namespace Sys2Proof.Machine

/-- The other core of a pair (R18). -/
def partner (core : Nat) : Nat := if core % 2 = 0 then core + 1 else core - 1

/-- The cores of a crew. -/
def Crew.cores (w : Crew) : List Nat := if w.pair then [w.core, partner w.core] else [w.core]

/-- The teams of a crew. -/
def State.crewTeams (s : State) (k : Nat) : List Team := s.allTeams.filter (fun t => t.crew == k)

/-- The crews that hold room on cores: those of contexts that are not saved (R335). -/
def State.residentCrews (s : State) : List Crew :=
  s.allCrews.filter (fun w => match s.ctx? w.ctx with | some c => c.state != .saved | none => false)

/-- The bytes of the unified store for a team's registers, trap registers and mask-spill area (R66). -/
def teamStore (strands alloc : Nat) : Nat := 128 * strands * alloc + (2048 * strands + 32) + 48 * (16 + 8 * strands)

/-- The core that holds a team's first strand (R66). -/
def firstCore (home : Nat) (pair : Bool) (b : Nat) : Nat := if pair = true ∧ 4 ≤ b then partner home else home

/-- What a core's resident crews take of it: crew slots, team slots, bytes of the unified store, and landing quotas. -/
structure CoreUse where
  crews : Nat
  teams : Nat
  store : Nat
  landing : Nat
  deriving DecidableEq, Repr

/-- What the resident crews take of a core (R36, R66, R67). -/
def State.coreUse (s : State) (core : Nat) : CoreUse :=
  let ws := s.residentCrews.filter (fun w => w.cores.contains core)
  let ts := ws.flatMap (fun w => (s.crewTeams w.key).map (fun t => (w, t)))
  let firsts := ts.filter (fun x => firstCore x.1.core x.1.pair x.2.part == core)
  { crews := ws.length, teams := ts.length,
    store := (firsts.map (fun x => teamStore x.2.strands x.2.alloc)).sum
      + ((ws.filter (fun w => w.core == core)).map (fun w => w.spadSize)).sum,
    landing := (firsts.map (fun x => x.2.landQuota)).sum }

/-- The 128-byte lines of a core's L1: what its crews leave of the unified store, and at least 128 KiB (R66). -/
def State.l1Cap (s : State) (core : Nat) : Nat := Nat.max 1024 ((2097152 - (s.coreUse core).store) / 128)

/-- A context's teams hold their places on cores: it is not saved (R335). -/
def State.onCores (s : State) (ck : Nat) : Bool :=
  match s.ctx? ck with
  | some c => c.state != .saved
  | none => false

/-- The core whose active set and wait table a team is in (R41, R255). -/
def State.waitCore (s : State) (t : Team) : Nat := ((s.crew? t.crew).map (fun w => w.coreOf t 0)).getD 0

/-- Room for one more team in the active set of a team's core: where 16 others are in it, one of them, freely chosen, leaves it (R41). -/
def State.roomFor (s : State) (t : Team) : State :=
  let inSet := (s.allTeams.filter (fun u =>
    u.state == .running && u.key != t.key && s.onCores u.ctx && s.waitCore u == s.waitCore t)).map (fun u => u.key)
  if inSet.length < 16 then s
  else s.modTeam (inSet.getD (Config.freeChoice s.tick % inSet.length) 0) (fun u => { u with state := .ready })

/-- A team that is to enter the active set of its core finds room there (R41). -/
def State.makeRoom (s : State) (k : Nat) : State :=
  match s.team? k with
  | none => s
  | some t => if t.state = .running then s else s.roomFor t

/-- The cores on which the issuing team's strands issue. -/
def State.teamCores (s : State) : List Nat := s.crew.cores

/-! ## Clock gating -/

/-- The copy engine, the matrix array, the canvas and the sampler of a core are idle (R257). -/
def State.enginesIdle (s : State) (core : Nat) : Bool :=
  !s.ops.any (fun o => o.core == core && !o.done && s.onCores o.ctx && (match o.work with
    | .copy _ _ _ _ _ _ => true | .follow _ => true | .mma _ _ _ _ _ _ => true | .accClr _ _ => true | .accProm _ _ _ _ => true
    | .accLd _ _ _ _ => true | .accSt _ _ _ _ _ _ _ => true | .net _ _ _ _ => true | _ => false))
  && s.residentCrews.all (fun w => w.core != core || w.canvas.queue.isEmpty)
  && (s.core core).miss.isEmpty

/-- A team does nothing on its core: it is parked, but in no poll mode, halted or exited (R257). -/
def State.rests (s : State) (t : Team) : Bool :=
  (t.state == .parked || t.state == .exited || t.halted || ((s.ctx? t.ctx).map (fun c => c.state == .halted)).getD false)
    && !(t.state == .parked && (match t.park with | .waitv _ _ p _ => p | .ringWait _ _ _ p => p | _ => false))

/-- The clocks of the cores with a team that does something run (R257). -/
def State.ungate (s : State) : State :=
  { s with cores := s.cores.map (fun e =>
      if e.2.gated && (s.residentCrews.filter (fun w => w.cores.contains e.1)).any (fun w => (s.crewTeams w.key).any (fun t => !s.rests t))
      then (e.1, { e.2 with gated := false }) else e) }

/-- A core can be clock-gated (R257). -/
def State.gateable (s : State) (core : Nat) : Bool :=
  !(s.core core).gated && (s.core core).wcb.isEmpty && s.enginesIdle core
    && (s.residentCrews.filter (fun w => w.cores.contains core)).all (fun w => (s.crewTeams w.key).all s.rests)

/-- CORE_CLOCK_GATE: a core on which nothing works gates its clock, which changes no result (R257). -/
def execCoreClockGate (core : Nat) (s : State) : Out :=
  if s.gateable core then .next (s.modCore core (fun k => { k with gated := true })) else .next s

end Sys2Proof.Machine
end

