-- ==== Sys2Proof/Machine/Memory.lean ====
section
/-! DEFINITION. Memory (15, R241; 16): physical memory and home slices, the heap window, page tables and TLBs, the read-only
L1, the write-combining buffer, and fetching an instruction's bytes. -/

namespace Sys2Proof.Machine

/-! ## Free choices within a step -/

/-- A choice of the device within the present step, by the kind of choice and what it is about. -/
def State.free (s : State) (kind about : Nat) : Bool := Config.freeBool (s.tick * 2 ^ 80 + kind * 2 ^ 72 + about)

/-! ## Physical memory -/

/-- What a byte of device memory that nothing has written reads as.  DESIGN CHOICE (log entry 2). -/
def unlistedByte : Byte := 0

/-- The memory's canonical form. -/
abbrev Memory.wf (m : FMap 8) : Prop := m.wf = true

/-- The channels present on a die (R20, R25). -/
def Device.channelsOn (d : Device) (die : Nat) : Nat := (d.channels.filter (fun c => c / 128 == die)).length

/-- A physical address lies in the memory that is present (R245). -/
def Device.inMemory (d : Device) (p : Nat) : Bool :=
  decide (p < 2 ^ 40) && decide (p % 2 ^ 39 < d.channelsOn (p / 2 ^ 39) * 2684354560)

/-- The range of a list that a byte lies in, where nothing has written that byte since the device did. -/
def openAt (rs : List OpenRange) (p : Nat) : Option OpenRange :=
  rs.find? (fun r => decide (r.base ≤ p) && decide (p < r.base + r.size) && !r.written.contains p)

/-- A byte of device memory as it stands; what the device has written there in no given form is a free value. -/
def State.memByte (s : State) (p : Nat) : Byte :=
  match openAt s.openMem p with
  | some r => Config.freeByte (2 ^ 200 + r.stamp * 2 ^ 48 + p)
  | none => s.mem.get p

/-- A value that a byte has had is kept for the loads that may still read it. -/
def State.keep (s : State) (x : PastByte) : State := { s with past := x :: s.past }

/-- A byte of device memory is written, and what it was is kept nowhere. -/
def State.rawMem (s : State) (p : Nat) (v : Byte) : State :=
  { s with
    mem := s.mem.set p v
    openMem := s.openMem.map (fun r =>
      if r.base ≤ p ∧ p < r.base + r.size ∧ ¬ (p ∈ r.written) then { r with written := p :: r.written } else r) }

/-- A byte of device memory is written. -/
def State.setMem (s : State) (p : Nat) (v : Byte) : State :=
  { s.rawMem p v with past := if s.memByte p = v then s.past else ⟨none, [], p, s.memByte p, 0, s.tick⟩ :: s.past }

/-- A line has been written at its home slice in this step (R255). -/
def State.mark (s : State) (line : Nat) : State := if line ∈ s.wrote then s else { s with wrote := line :: s.wrote }

/-- The 128-byte lines of a range in which a word lies that a parked team watches. -/
def State.watchedIn (s : State) (base size : Nat) : List Nat :=
  ((s.team :: s.teams).filterMap (fun t =>
    match t.park with
    | .waitv l _ _ _ => some l
    | _ => none)).flatMap (fun l =>
      ([l.pa / 128, (l.pa + 2 ^ 39) / 128]).filter (fun k => decide (base / 128 ≤ k) && decide (k * 128 < base + size)))

/-- The device writes a range of memory in a form that no rule gives, which the teams that watch a word there are notified of (R255). -/
def State.openRange (s : State) (base size : Nat) : State :=
  (s.watchedIn base size).foldl State.mark { s with openMem := ⟨base, size, s.tick, []⟩ :: s.openMem }

/-- A bank command has still to write a byte. -/
def BankCmd.willWrite (c : BankCmd) (p : Nat) : Bool :=
  match c.op with
  | 2 => c.cols.any (fun q => p / 32 == q.py / 32)
  | 7 => c.cols.any (fun q => p / 32 == q.py / 32)
  | 3 => c.cols.any (fun q => p / 32 == q.px / 32)
  | 6 => c.cols.any (fun q => p / 32 == q.px / 32)
  | _ => match c.result with
    | some l => decide (l.pa ≤ p) && decide (p < l.pa + 4)
    | none => false

/-- The round's result of a byte is not there yet: a queued command of it has still to write the byte (R293). -/
def State.roundWrites (s : State) (round p : Nat) : Bool := s.bankCmds.any (fun c => c.round == round && c.willWrite p)

/-- The team that issued a command. -/
def State.bankTeam (s : State) (c : BankCmd) : Nat := ((s.rounds.find? (fun r => r.id == c.round)).map (fun r => r.team)).getD 0

/-- The byte that the home slice returns for a physical address: where a bank round wrote it, the byte from before the round or the round's
result, element by element; what a command of an open round has left, and no queued one is to change, counts as the result (R293, log entry
32).  What an access receives that fills a column with an armed injection in L2 is open
(R398); whether it fills it is open too (log entry 81). -/
def State.sliceByte (s : State) (p : Nat) : Byte :=
  if p / 32 ∈ s.dev.injections ∧ s.free 15 (p / 32) = true then Config.freeByte (s.tick * 2 ^ 48 + p)
  else match assoc? s.bankOld p with
  | some o => if s.roundWrites o.round p || s.free 1 (p / o.size) then o.old else s.memByte p
  | none => s.memByte p

/-- Write a byte at its home slice.  Into the write range of an open bank round, the store's value or the round's result stays
(R293). -/
def State.putByte (s : State) (p : Nat) (v : Byte) : State :=
  let s := s.mark (p / 128)
  match assoc? s.bankOld p with
  | some o => if s.free 2 (p / o.size) then s else s.setMem p v
  | none => s.setMem p v

/-! ## Translation -/

/-- The access code of a fault record (R331). -/
def Access.code : Access → Nat
  | .read => 0
  | .write => 1
  | .atomic => 2
  | .fetch => 3

/-- The fields of a page-table entry (R250). -/
abbrev pteV (e : Nat) : Bool := bitOf e
abbrev pteLeaf (e : Nat) : Bool := bitOf (e / 2)
abbrev pteRd (e : Nat) : Bool := bitOf (e / 4)
abbrev pteWr (e : Nat) : Bool := bitOf (e / 8)
abbrev pteEx (e : Nat) : Bool := bitOf (e / 16)
abbrev pteWs (e : Nat) : Bool := bitOf (e / 32)
abbrev pteRepl (e : Nat) : Bool := bitOf (e / 64)
abbrev pteRh (e : Nat) : Bool := bitOf (e / 128)
abbrev ptePa (e : Nat) : Nat := e / 256 % 2 ^ 32 * 256
abbrev pteHdev (e : Nat) : Nat := e / 2 ^ 40 % 2 ^ 22

/-- An entry that is present breaks R250 at its level; `align` is the alignment its PA needs.  DEDUCED: an entry with REPL = 1 that
names a table names a replicated one; DESIGN CHOICE: an entry that names a table breaks the rule with RH or WS set too, so does a leaf with
REPL and WS set and one with WS set whose offset lies past the 512 MiB of the weight store, and of another leaf only the first address of its
page is held against the memory present (log entry 77). -/
def Device.malformed (d : Device) (e level align : Nat) : Bool :=
  e / 2 ^ 62 != 0
  || (pteLeaf e && decide (level ≤ 1)) || (!pteLeaf e && decide (level = 4))
  || (pteRh e && (ptePa e != 0 || pteRepl e || pteWs e))
  || (!pteRh e && pteHdev e != 0)
  || (pteRepl e && (pteWs e || decide (2 ^ 39 ≤ ptePa e)))
  || (!pteLeaf e && (pteRh e || pteWs e))
  || ptePa e % align != 0
  || (!pteRh e && pteWs e && decide (2 ^ 29 ≤ ptePa e))
  || (!pteRh e && !pteWs e && !d.inMemory (ptePa e))
  || (pteRepl e && !d.inMemory (ptePa e + 2 ^ 39))

/-- The levels of the page table: level, lowest index bit, index bits (R249). -/
def walkLevels : List (Nat × Nat × Nat) := [(0, 48, 9), (1, 39, 9), (2, 30, 9), (3, 21, 9), (4, 16, 5)]

/-- The walk of a die from a table down the levels that are left: the leaf entry with the size of its page, or the cause (R249,
R250).  A walk reads the replica of its die of a replicated table (R246). -/
def State.walkFrom (s : State) (die va : Nat) : List (Nat × Nat × Nat) → Nat → Except Nat (Nat × Nat)
  | [], _ => .error 0x05
  | (level, shift, width) :: rest, table =>
    let slot := table + 8 * (va / 2 ^ shift % 2 ^ width)
    let e := ofLeBytes ((List.range 8).map (fun i => s.sliceByte (slot + i)))
    if !pteV e then .error 0x04
    else if s.dev.malformed e level (if pteLeaf e then 2 ^ shift else if level = 3 then 256 else 4096) then .error 0x05
    else if pteLeaf e then .ok (e, 2 ^ shift)
    else s.walkFrom die va rest (ptePa e + if pteRepl e then die * 2 ^ 39 else 0)

/-- The whole walk of a die for an address of a context. -/
def State.walk (s : State) (c : Context) (die va : Nat) : Except Nat (Nat × Nat) := s.walkFrom die va walkLevels c.root

/-- An entry of a TLB for an address of a context. -/
def tlbFind (tlb : List TlbEntry) (ctx va : Nat) : Option TlbEntry := tlb.find? (fun t => t.ctx == ctx && t.base == va / t.size)

/-- The TLB of a die (R251). -/
def State.dieTlb (s : State) (die : Nat) : List TlbEntry := (assoc? s.dieTlbs die).getD []

/-- The leaf entry that an access uses: the walk's, or one that a TLB still holds and that the walk no longer gives, while no shoot-down has
come (R251). -/
def State.leafBeside (s : State) (c : Context) (die va : Nat) (held : Option TlbEntry) : Except Nat (Nat × Nat) :=
  let now := s.walk c die va
  match held with
  | some t => if now ≠ .ok (t.pte.toNat, t.size) ∧ s.free 3 (va / t.size) = true then .ok (t.pte.toNat, t.size) else now
  | none => now

/-- An armed injection in a range that an access reads makes its report and disarms, where the access fills its column in L2; whether
it does is open (R398, log entry 81). -/
def State.reported (s : State) (p n : Nat) : State :=
  let hit := fun (k : Nat) => decide (p / 32 ≤ k) && decide (k ≤ (p + n - 1) / 32) && s.free 15 k
  if s.dev.injections.any hit then
    { s with dev := { s.dev with injections := s.dev.injections.filter (fun k => !hit k) } }
  else s

/-- The entries that the walk of a die reads from a table down the levels that are left. -/
def State.walkSlots (s : State) (die va : Nat) : List (Nat × Nat × Nat) → Nat → List Nat
  | [], _ => []
  | (_, shift, width) :: rest, table =>
    let slot := table + 8 * (va / 2 ^ shift % 2 ^ width)
    let e := ofLeBytes ((List.range 8).map (fun i => s.sliceByte (slot + i)))
    slot :: (if pteV e && !pteLeaf e then s.walkSlots die va rest (ptePa e + if pteRepl e then die * 2 ^ 39 else 0) else [])

/-- A walk has read its entries. -/
def State.walked (s : State) (c : Context) (die va : Nat) : State :=
  if s.dev.injections = [] then s else (s.walkSlots die va walkLevels c.root).foldl (fun s p => s.reported p 8) s

/-- The entry that a core's TLB holds for an address, or its die's. -/
def State.heldFor (s : State) (c : Context) (core va : Nat) : Option TlbEntry :=
  (tlbFind (s.core core).tlb c.key va).or (tlbFind (s.dieTlb (dieOf core)) c.key va)

/-- What a leaf gives an access, in the order of R250. -/
def leafAccess (acc : Access) (va e size : Nat) : Except Nat Loc :=
  if pteWs e = true ∧ (acc = .write ∨ acc = .atomic) then .error 0x07
  else if !(match acc with
      | .read => pteRd e
      | .write => pteWr e
      | .atomic => pteRd e && pteWr e
      | .fetch => pteEx e) then .error 0x05
  else if pteRh e then .error 0x06
  else .ok { pa := ptePa e + va % size, repl := pteRepl e, ws := pteWs e }

/-- The heap window holds an address (R248). -/
def inWindow (hbase hlimit va : Nat) : Bool := decide (hbase ≤ va) && decide (va < hlimit)

/-- Translation of a virtual address of a context on a die, where the TLBs of the unit hold an entry for it (R247 to R250); the window
registers are those given. -/
def State.translateWith (s : State) (c : Context) (hbase hlimit hoffs : Nat) (die : Nat) (held : Option TlbEntry) (va : Nat) (acc : Access) :
    Except Nat Loc :=
  if 2 ^ 57 ≤ va then .error 0x05
  else if inWindow hbase hlimit va then
    if acc = .fetch then .error 0x05
    else
      let p := (va + hoffs) % 2 ^ 64
      if s.dev.inMemory p then .ok { pa := p, repl := false, ws := false } else .error 0x05
  else
    match s.leafBeside c die va held with
    | .ok (e, size) => leafAccess acc va e size
    | .error c => .error c

/-- Translation for the issuing team on a core, with the register values its instruction uses (R248, R353). -/
def State.translate (s : State) (core va : Nat) (acc : Access) : Except Nat Loc :=
  s.translateWith s.ctx (s.creg 0).toNat (s.creg 1).toNat (s.creg 2).toNat (dieOf core) (s.heldFor s.ctx core va) va acc

/-- Translation for a unit of a die that no instruction drives, which uses the die's TLB: spill areas, tables, the quiescence words, rings
(R247). -/
def State.translateFor (s : State) (c : Context) (die va : Nat) (acc : Access) : Except Nat Loc :=
  s.translateWith c (c.regs.get 0).toNat (c.regs.get 1).toNat (c.regs.get 2).toNat die (tlbFind (s.dieTlb die) c.key va) va acc

/-- A TLB of `n` entries with one more, the oldest gone. -/
def tlbPut (n : Nat) (tlb : List TlbEntry) (e : TlbEntry) : List TlbEntry :=
  (e :: tlb.filter (fun t => !(t.ctx == e.ctx && t.base == e.base && t.size == e.size))).take n

/-- The walk for a unit of a die has read its entries, and the leaf that it finds enters the die's TLB, which holds 32,768 (R251). -/
def State.fillDieTlb (s : State) (c : Context) (die va : Nat) : State :=
  match s.walk c die va with
  | .error _ => s.walked c die va
  | .ok (e, size) =>
    { (s.walked c die va) with dieTlbs := assocPut s.dieTlbs die (tlbPut 32768 (s.dieTlb die) ⟨c.key, va / size, size, BitVec.ofNat 64 e⟩) }

/-- The leaf that a walk finds enters the core's TLB, which holds 1,024, and its die's; an address in the heap window uses neither
(R248, R251). -/
def State.fillTlb (s : State) (c : Context) (core va : Nat) : State :=
  if inWindow (c.regs.get 0).toNat (c.regs.get 1).toNat va then s
  else
    match s.walk c (dieOf core) va with
    | .error _ => s.walked c (dieOf core) va
    | .ok (e, size) =>
      (s.fillDieTlb c (dieOf core) va).modCore core (fun k =>
        { k with tlb := tlbPut 1024 k.tlb ⟨c.key, va / size, size, BitVec.ofNat 64 e⟩ })

/-! ## Reading -/

/-- The physical address that a core reads for a location: its own die's replica (R246). -/
def Loc.readAddr (l : Loc) (core i : Nat) : Nat := l.pa + i + (if l.repl then dieOf core * 2 ^ 39 else 0)

/-- Byte `i` of a location as the home slice, or the weight store of the core's die, gives it.  DESIGN CHOICE: what lies past
the 512 MiB of the store (log entry 82). -/
def State.farByte (s : State) (core : Nat) (l : Loc) (i : Nat) : Byte :=
  if l.ws then s.weights.get (dieOf core * 2 ^ 29 + l.pa + i) else s.sliceByte (l.readAddr core i)

/-- A unit of a core has read `n` bytes at some locations at their home slices (R398). -/
def State.hasRead (s : State) (core : Nat) (locs : List Loc) (n : Nat) : State :=
  if s.dev.injections = [] then s else (locs.filter (fun l => !l.ws)).foldl (fun s l => s.reported (l.readAddr core 0) n) s

/-- The latest store to a byte that the core's write-combining buffer holds (R243). -/
def CoreState.buffered (k : CoreState) (p : Nat) : Option Byte := (k.wcb.find? (fun b => b.addr == p)).map (fun b => b.val)

/-- The bytes of a 32-byte sector at the home slice. -/
def State.sectorNow (s : State) (sec : Nat) : List Byte := (List.range 32).map (fun i => s.sliceByte (sec * 32 + i))

/-- The sector of L1 that a load of a team may hit. -/
def CoreState.sector? (k : CoreState) (team sec : Nat) : Option (List Byte) :=
  (k.l1.find? (fun e => e.sec == sec && !e.barred.contains team)).map (fun e => e.bytes)

/-- The sector that a plain load of a team reads: as the core's L1 filled it, or, when replacement has dropped it or it was never
filled, as the slice has it (R243). -/
def State.l1Sector (s : State) (core team sec : Nat) : List Byte :=
  match (s.core core).sector? team sec with
  | some held => if held = s.sectorNow sec then held else if s.free 4 sec then held else s.sectorNow sec
  | none => s.sectorNow sec

/-- Byte `i` of a location as a load of a team finds it on a core: its write-combining buffer, then L1 unless the load bypasses it,
then the slice (R241, R243). -/
def State.loadByte (s : State) (core team : Nat) (bypass : Bool) (l : Loc) (i : Nat) : Byte :=
  if l.ws then s.farByte core l i
  else
    match (s.core core).buffered (l.pa + i) with
    | some b => b
    | none =>
      if bypass then s.farByte core l i
      else (s.l1Sector core team (l.readAddr core i / 32)).getD (l.readAddr core i % 32) 0

/-! ## Reading as of an earlier step

A load may be performed before it issues, where nothing orders it after what changed its bytes meanwhile (R241, R283, R285, R288). -/

/-- A range of past values that meets the bytes of an access, in the buffers' addresses or at the slice. -/
def PastByte.within (x : PastByte) (core n : Nat) (l : Loc) : Bool :=
  match x.core with
  | none => decide (l.readAddr core 0 ≤ x.addr) && decide (x.addr < l.readAddr core 0 + n)
  | some k => k == core && decide (l.pa ≤ x.addr) && decide (x.addr < l.pa + n)

/-- The buffered bytes of a core within a range. -/
def CoreState.bufferedIn (k : CoreState) (l : Loc) (n : Nat) : List StoreByte :=
  k.wcb.filter (fun b => decide (l.pa ≤ b.addr) && decide (b.addr < l.pa + n))

/-- The bytes of device memory that an operation has still to read, by the address in replica 0 and the length: a copy into scratchpad or
accumulator memory, a PUT, and the lanes of an LDA that bypasses L1 (R289). -/
def AsyncOp.toRead (o : AsyncOp) : List (Nat × Nat) :=
  if o.done then []
  else
    match o.work with
    | .copy false units _ _ _ _ => (units.filter (fun u => !u.loc.ws)).map (fun u => (u.loc.pa, 16))
    | .lda todo _ => (todo.filter (fun x => x.bypass && !x.loc.ws && x.val.isNone)).map (fun x => (x.loc.pa, 8))
    | .accLd _ elems _ _ => (elems.filter (fun e => !e.2.ws)).map (fun e => (e.2.pa, 4))
    | .remote 0 a => (a.units.filter (fun l => !l.ws)).map (fun l => (l.pa, 16))
    | _ => []

/-- The columns that a bank command has still to read (R289, R364). -/
def BankCmd.toRead (c : BankCmd) : List (Nat × Nat) :=
  if c.op = 6 then [] else c.cols.flatMap (fun q => (q.px, 32) :: (if c.op = 1 ∨ c.op = 2 then [(q.py, 32)] else []))

/-- The operations and bank commands of a team that have still to read bytes: the step in which each issued, and the bytes. -/
def State.engineReads (s : State) (t : Team) : List (Nat × List (Nat × Nat)) :=
  (s.ops.filter (fun o => o.team == t.key && !o.done)).map (fun o => (o.stamp, o.toRead))
    ++ (s.bankCmds.filter (fun c => s.bankTeam c == t.key)).map (fun c => (c.stamp, c.toRead))

/-- The first step as of which a load of a team may read some bytes: not before an access that orders it (R241), not before the team's
own stores to the bytes (R262, R289), and, where it bypasses L1, not before an earlier such access of the team to them, nor before the issue of
an operation of the team that has still to read them (R289). -/
def State.loadFloor (s : State) (t : Team) (core : Nat) (bypass : Bool) (l : Loc) (n : Nat) : Nat :=
  let a := l.readAddr core 0
  let own := (s.past.filter (fun x => x.owners.contains t.key && x.within core n l)).map (fun x => if x.core = none then x.till else x.since)
  let mine := (((s.core core).bufferedIn l n).filter (fun b => b.team == t.key)).map (fun b => b.since)
  let read := if bypass then (t.seen.filter (fun r => decide (r.addr < a + n) && decide (a < r.addr + r.size))).map (fun r => r.step) else []
  let ahead := if bypass then ((s.engineReads t).filter (fun e => e.2.any (fun x => decide (x.1 < l.pa + n) && decide (l.pa < x.1 + x.2)))).map (fun e => e.1) else []
  (own ++ mine ++ read ++ ahead).foldl Nat.max t.floor

/-- The step as of which a load of a team reads some bytes: freely chosen from the first one that the rules allow; where nothing has
changed since, the present one. -/
def State.moment (s : State) (t : Team) (core : Nat) (bypass : Bool) (l : Loc) (n about : Nat) : Nat :=
  if l.ws then s.tick
  else
    let f := s.loadFloor t core bypass l n
    if s.past.any (fun x => x.within core n l && decide (f < x.till)) || ((s.core core).bufferedIn l n).any (fun b => decide (f < b.since))
    then f + Config.freeChoice (s.tick * 2 ^ 80 + 20 * 2 ^ 72 + about) % (s.tick + 1 - f)
    else s.tick

/-- A byte of device memory as its home slice had it in a step. -/
def State.sliceAsOf (s : State) (m p : Nat) : Byte :=
  match (s.past.filter (fun x => x.core.isNone && x.addr == p && decide (m < x.till))).getLast? with
  | some x => x.val
  | none => s.sliceByte p

/-- What a core's write-combining buffer had of a byte in a step. -/
def State.bufferedAsOf (s : State) (m core p : Nat) : Option Byte :=
  match s.past.find? (fun x => x.core == some core && x.addr == p && decide (x.since ≤ m) && decide (m < x.till)) with
  | some x => some x.val
  | none => ((s.core core).wcb.find? (fun b => b.addr == p && decide (b.since ≤ m))).map (fun b => b.val)

/-- Byte `i` of a location as a load of a team finds it on a core as of a step (R241, R243). -/
def State.loadByteAt (s : State) (m core team : Nat) (bypass : Bool) (l : Loc) (i : Nat) : Byte :=
  if m = s.tick then s.loadByte core team bypass l i
  else
    match s.bufferedAsOf m core (l.pa + i) with
    | some b => b
    | none =>
      let a := l.readAddr core i
      match if bypass then none else (s.core core).sector? team (a / 32) with
      | some held => if s.free 4 (a / 32) then held.getD (a % 32) 0 else s.sliceAsOf m a
      | none => s.sliceAsOf m a

/-- The value of the `n` bytes at a location as of a step, the lowest address first. -/
def State.loadValAt (s : State) (m core team : Nat) (bypass : Bool) (l : Loc) (n : Nat) : Nat :=
  ofLeBytes ((List.range n).map (s.loadByteAt m core team bypass l))

/-- What a team has read bounds a later access after the team's floor, and an operation that issued before that read and has still to
read (R289). -/
def State.forgetSeen (s : State) (t : Team) : Team :=
  if t.seen = [] then t
  else
    let ahead := (s.engineReads t).map (fun e => e.1)
    { t with seen := t.seen.filter (fun r => decide (t.floor < r.step) || ahead.any (fun k => decide (k < r.issued))) }

/-- The first step as of which an access of a team may still be performed: its floor, or the first of the steps that bound the reads of its
operations (R289). -/
def Team.firstStep (t : Team) : Nat := (t.seen.map (fun r => r.step)).foldl Nat.min t.floor

/-- What no access may read or depend on any more is forgotten. -/
def State.forget (s : State) : State :=
  let s := { s with team := s.forgetSeen s.team, teams := s.teams.map s.forgetSeen }
  if s.past = [] then s
  else
    let ts := s.allTeams.filter (fun t => t.state != .exited && s.onCores t.ctx)
    { s with past := s.past.filter (fun x => ts.any (fun t => decide (t.firstStep < x.till))) }

/-- The value of the `n` bytes at a location, the lowest address first. -/
def State.loadVal (s : State) (core team : Nat) (bypass : Bool) (l : Loc) (n : Nat) : Nat :=
  ofLeBytes ((List.range n).map (s.loadByte core team bypass l))

/-- The lines that an L1 holds sectors of. -/
def l1Lines (l1 : List L1Sector) : List Nat := (l1.map (fun e => e.sec / 4)).eraseDups

/-- A sector enters an L1 of `cap` lines; where its line needs room, the line that `victim` picks is replaced (R242, R243). -/
def l1Put (cap victim : Nat) (l1 : List L1Sector) (e : L1Sector) : List L1Sector :=
  let rest := l1.filter (fun x => x.sec != e.sec)
  let lines := l1Lines rest
  let rest := if e.sec / 4 ∈ lines ∨ lines.length < cap then rest
    else rest.filter (fun x => x.sec / 4 != lines.getD (victim % lines.length) 0)
  e :: rest

/-- The teams whose stores a core's buffer holds for a sector. -/
def CoreState.storers (k : CoreState) (sec : Nat) : List Nat :=
  ((k.wcb.filter (fun b => b.addr / 32 == sec)).flatMap (fun b => b.team :: b.others)).eraseDups

/-- A plain load of a team leaves its sector in L1, as it read it (R243).  While the core's write-combining buffer holds bytes of the
sector it leaves none, so that the core's later loads find its own stores (R243, R262); and the teams with stores to it in the buffer of
the other core of the pair do not read it, nor, where the load found the sector that L1 held, those that did not before (R289). -/
def State.fillL1 (s : State) (core team : Nat) (l : Loc) : State :=
  if l.ws || (s.core core).wcb.any (fun b => b.addr / 32 == l.pa / 32) then s
  else
    let sec := l.readAddr core 0 / 32
    let got := s.l1Sector core team sec
    let barred := ((s.core core).l1.filter (fun e => e.sec == sec && e.bytes == got)).flatMap (fun e => e.barred)
    let others := ((s.core (partner core)).storers (l.pa / 32) ++ barred).eraseDups
    s.modCore core (fun k => { k with l1 := l1Put (s.l1Cap core) (Config.freeChoice s.tick) k.l1 ⟨sec, got, others⟩ })

/-- A line of a core's L1 is filled whole (R242, R277). -/
def State.fillLine (s : State) (core team : Nat) (l : Loc) : State :=
  let off := l.pa % 128
  (List.range 4).foldl (fun s i => s.fillL1 core team { l with pa := l.pa - off + 32 * i }) s

/-- A core's L1 when a crew has taken store of it: the lines in the store taken are dropped, and as many more as it no longer has room
for (R66, R243). -/
def State.shrinkL1 (s : State) (core : Nat) : State :=
  let keep := ((l1Lines (s.core core).l1).filter (s.free 12)).take (s.l1Cap core)
  s.modCore core (fun k => { k with l1 := k.l1.filter (fun e => keep.contains (e.sec / 4)) })

/-! ## Writing -/

/-- The teams whose store a byte is; an engine's and the device's are no team's. -/
def StoreByte.owners (b : StoreByte) : List Nat := if b.team = 0 then [] else b.team :: b.others

/-- A stored byte reaches a home slice. -/
def State.performAt (s : State) (b : StoreByte) (p : Nat) : State := (s.keep ⟨none, b.owners, p, s.memByte p, 0, s.tick⟩).putByte p b.val

/-- A stored byte reaches its home slice, and on a replicated page both replicas (R246). -/
def State.perform (s : State) (b : StoreByte) : State :=
  let s := s.performAt b b.addr
  if b.repl then s.performAt b (b.addr + 2 ^ 39) else s

/-- A byte leaves a core's write-combining buffer, or another store to it takes its place there. -/
def State.keepBuffered (s : State) (core : Nat) (b : StoreByte) : State := s.keep ⟨some core, b.owners, b.addr, b.val, b.since, s.tick⟩

/-- One entry of a core's write-combining buffer drains, in one write (R244). -/
def State.drainLine (s : State) (core line : Nat) : State :=
  let mine := (s.core core).wcb.filter (fun b => b.addr / 128 == line)
  let s := mine.foldl (fun s b => (s.keepBuffered core b).perform b) s
  s.modCore core (fun k => { k with wcb := k.wcb.filter (fun b => b.addr / 128 != line) })

/-- Every entry of a core's write-combining buffer drains. -/
def State.drainAll (s : State) (core : Nat) : State :=
  let mine := (s.core core).wcb
  let s := mine.foldl (fun s b => (s.keepBuffered core b).perform b) s
  s.modCore core (fun k => { k with wcb := [] })

/-- The lines of a buffer that hold a byte with a property. -/
def CoreState.linesWith (k : CoreState) (p : StoreByte → Bool) : List Nat := ((k.wcb.filter p).map (fun b => b.addr / 128)).eraseDups

/-- The entries of a core's buffer that hold a byte with a property drain. -/
def State.drainWith (s : State) (core : Nat) (p : StoreByte → Bool) : State :=
  ((s.core core).linesWith p).foldl (fun s line => s.drainLine core line) s

/-- A byte of a buffer holds a store of a team, its latest or one that merged into it. -/
def StoreByte.of (b : StoreByte) (team : Nat) : Bool := b.team == team || b.others.contains team

/-- Every store that the issuing team has in a write-combining buffer is performed at .dev (R241). -/
def State.drainTeam (s : State) : State := s.teamCores.foldl (fun s k => s.drainWith k (fun b => b.of s.team.key)) s

/-- Every store that the issuing team has made or observed is performed at .dev (R273). -/
def State.drainSeen (s : State) : State :=
  s.teamCores.foldl (fun s k => s.drainWith k (fun b => b.of s.team.key || b.seen.contains s.team.key)) s

/-- The lines that a buffer holds. -/
def CoreState.lines (k : CoreState) : List Nat := k.linesWith (fun _ => true)

/-- All 64 entries of a core's buffer are in use, and none is the line's (R244). -/
def CoreState.full (k : CoreState) (line : Nat) : Bool := decide (64 ≤ k.lines.length) && !k.lines.contains line

/-- Teams observe buffered bytes with a property (R273). -/
def State.seeBytes (s : State) (core : Nat) (teams : List Nat) (p : StoreByte → Bool) : State :=
  if (s.core core).wcb.any p then
    s.modCore core (fun k => { k with wcb := k.wcb.map (fun b => if p b then { b with seen := (b.seen ++ teams).eraseDups } else b) })
  else s

/-- The L1 sectors of a byte and of its replica drop from a core. -/
def State.dropL1 (s : State) (core addr : Nat) : State :=
  s.modCore core (fun k => { k with l1 := k.l1.filter (fun e => e.sec != addr / 32 && e.sec != (addr + 2 ^ 39) / 32) })

/-- A team of a core pair no longer reads a sector of its partner core that it has stored to (R289). -/
def State.barL1 (s : State) (core team addr : Nat) : State :=
  s.modCore core (fun k => { k with l1 := k.l1.map (fun e =>
    if e.sec == addr / 32 || e.sec == (addr + 2 ^ 39) / 32 then { e with barred := team :: e.barred } else e) })

/-- What a store of the issuing team's to a byte, from a core, does on the other core of its pair: the team's own earlier store drains,
and the team reads the L1 sector no more (R262, R289). -/
def State.acrossPair (s : State) (core addr : Nat) : State :=
  (s.teamCores.filter (fun k => k != core)).foldl (fun s k =>
    (s.drainWith k (fun b => b.addr == addr && b.of s.team.key)).barL1 k s.team.key addr) s

/-- A byte enters the core's write-combining buffer and drops the core's L1 sector of it (R243, R244).  Where all 64 entries are in use,
one of them, freely chosen, has drained before. -/
def State.bufferByte (s : State) (core : Nat) (b : StoreByte) : State :=
  let s := s.acrossPair core b.addr
  let lines := (s.core core).lines
  let s := if (s.core core).full (b.addr / 128) then s.drainLine core (lines.getD (Config.freeChoice s.tick % lines.length) 0) else s
  let old := (s.core core).wcb.find? (fun c => c.addr == b.addr)
  let b := match old with
    | some o => { b with others := (o.team :: o.others).eraseDups, seen := o.seen }
    | none => b
  let s := match old with
    | some o => s.keepBuffered core o
    | none => s
  (s.dropL1 core b.addr).modCore core (fun k => { k with wcb := k.wcb.filter (fun c => c.addr != b.addr) ++ [b] })

/-- The bytes that a store of `n` bytes of a value at a location makes. -/
def storeBytes (team core : Nat) (l : Loc) (n v : Nat) : List StoreByte :=
  (List.range n).map (fun i => ⟨l.pa + i, BitVec.ofNat 8 (v / 2 ^ (8 * i)), l.repl, team, core, [], [], 0⟩)

/-- A store of the core enters its write-combining buffer. -/
def State.bufferStore (s : State) (core : Nat) (l : Loc) (n v : Nat) : State :=
  ((storeBytes s.team.key core l n v).map (fun b => { b with since := s.tick })).foldl (fun s b => s.bufferByte core b) s

/-- A write that an engine or the device performs at the home slice at once. -/
def State.writeThrough (s : State) (l : Loc) (n v : Nat) : State :=
  (storeBytes 0 0 l n v).foldl State.perform s

/-- A team no longer reads the sectors of a byte in the L1 of the other core of its pair (R289). -/
def State.barAcross (s : State) (team core addr : Nat) : State :=
  match (s.team? team).bind (fun t => s.crew? t.crew) with
  | some w => (w.cores.filter (fun k => k != core)).foldl (fun s k => s.barL1 k team addr) s
  | none => s

/-- A write that a unit of a core performs for a team at the home slice at once, as the team's own store: what the core's buffer holds of
the bytes has drained before, the core's L1 drops their sectors, and the team does not read those of the other core of its pair (R237,
R243, R262, R265, R289). -/
def State.writeFrom (s : State) (team core : Nat) (l : Loc) (n v : Nat) : State :=
  let s := s.drainWith core (fun b => decide (l.pa ≤ b.addr) && decide (b.addr < l.pa + n))
  let s := (storeBytes team core l n v).foldl State.perform s
  (((s.dropL1 core l.pa).dropL1 core (l.pa + n - 1)).barAcross team core l.pa).barAcross team core (l.pa + n - 1)

/-- A pending .sc store is performed: the storing core's L1 sector of it drops (R243, R265). -/
def State.performScByte (s : State) (b : StoreByte) : State :=
  ((s.perform b).dropL1 b.core b.addr).barAcross b.team b.core b.addr

/-- The pending .sc stores up to the last one with a property are performed, in ticket order (R263, R265). -/
def State.performScFor (s : State) (p : StoreByte → Bool) : State :=
  let k := (s.scStores.reverse.dropWhile (fun b => !p b)).length
  if k = 0 then s else { ((s.scStores.take k).foldl State.performScByte s) with scStores := s.scStores.drop k }

/-- Every store with .sc that is pending on the package is performed, in ticket order (R263, R265). -/
def State.performSc (s : State) : State := { (s.scStores.foldl State.performScByte s) with scStores := [] }

/-! ## Fetching an instruction -/

/-- The word at a virtual address, read for a fetch, or the cause (R70). -/
def State.fetchWord (s : State) (core va : Nat) : Except Nat Word :=
  match s.translate core va .fetch with
  | .error c => .error c
  | .ok l => .ok (wordOfBytes (s.farByte core l 0) (s.farByte core l 1) (s.farByte core l 2) (s.farByte core l 3))

/-- A fetch: the words of the instruction, or the cause and the address of the word whose page failed (R70). -/
inductive Fetched where
  | words (w0 w1 w2 w3 : Word) (len : Nat)
  | fail (cause va : Nat)
  deriving DecidableEq, Repr

/-- The later words of an instruction of `len` words, each checked in its turn (R70). -/
def State.fetchMore (s : State) (core pc : Nat) : Nat → List Word → Except (Nat × Nat) (List Word)
  | 0, acc => .ok acc
  | k + 1, acc =>
    match s.fetchWord core (pc + 4 * acc.length) with
    | .error c => .error (c, pc + 4 * acc.length)
    | .ok w => s.fetchMore core pc k (acc ++ [w])

/-- The first two words are a copy that its own encoding rules allow, whatever MMA follows it (R86, R88, R90). -/
def copyStands (w0 w1 : Word) : Bool :=
  match decodeWords w0 w1 0x70000000 0 with
  | .ok _ => true
  | .error _ => false

/-- A word is the first of an MMA or MMA.SP (R83, R88). -/
def isMma (w : Word) : Bool := w.toNat / 33554432 % 64 == 0x38 && decide (w.toNat / 2097152 % 16 ≤ 1)

/-- The words of a copy and the MMA that follows it: where the third word is no MMA, the fourth is not fetched (R88). -/
def State.fetchFollow (s : State) (core pc : Nat) (w0 w1 : Word) : Fetched :=
  match s.fetchWord core (pc + 8) with
  | .error c => .fail c (pc + 8)
  | .ok w2 =>
    if !isMma w2 then .words w0 w1 w2 0 3
    else if 2 ^ 57 ≤ pc + 16 then .fail 0x05 pc
    else
      match s.fetchWord core (pc + 12) with
      | .error c => .fail c (pc + 12)
      | .ok w3 => .words w0 w1 w2 w3 4

/-- Fetch the instruction at an address whole (R69, R70, R88).  One whose successor would lie at 2 ^ 57 fails at its own address
(log entry 47). -/
def State.fetch (s : State) (core pc : Nat) : Fetched :=
  match s.fetchWord core pc with
  | .error c => .fail c pc
  | .ok w0 =>
    if 2 ^ 57 ≤ pc + 4 * wordLength w0 then .fail 0x05 pc
    else
      match s.fetchMore core pc (wordLength w0 - 1) [w0] with
      | .error (c, a) => .fail c a
      | .ok ws =>
        let w1 := ws.getD 1 0
        if followsMma w0 w1 && copyStands w0 w1 then s.fetchFollow core pc w0 w1 else .words w0 w1 0 0 (wordLength w0)

/-- The words of an instruction of `len` words have been read for its fetch (R398). -/
def State.fetched (s : State) (core pc len : Nat) : State :=
  if s.dev.injections = [] then s
  else
    (List.range len).foldl (fun s k =>
      match s.translate core (pc + 4 * k) .fetch with
      | .ok l => (s.walked s.ctx (dieOf core) (pc + 4 * k)).hasRead core [l] 4
      | .error _ => s) s

end Sys2Proof.Machine
end

