-- ==== Sys2Proof/Machine/Operands.lean ====
section
/-! DEFINITION. The operand forms: immediates (R74, R75), shift and bit-field counts (R96), compare codes (R79), access types
(R77), addresses (R260, R267) and the scratchpad's mappings (R78), and the shapes that many meanings share. -/

namespace Sys2Proof.Machine

/-- A signed immediate, extended to 32 bits (R74, R75). -/
def immWord {w : Nat} (imm : BitVec w) : Word := imm.signExtend 32

/-! ## Shifts and bit fields (R96) -/

def shiftLeft (a : Word) (n : Nat) : Word := if 32 ≤ n then 0 else a <<< n
def shiftRight (a : Word) (n : Nat) : Word := if 32 ≤ n then 0 else a >>> n
def shiftArith (a : Word) (n : Nat) : Word := a.sshiftRight (if 32 ≤ n then 32 else n)

/-- The shift count that a register gives: its low 8 bits. -/
def shiftCount (c : Word) : Nat := c.toNat % 256

/-- Position and length used of a bit field. -/
def fieldPos (c : Word) : Nat := c.toNat % 32
def fieldLen (c : Word) : Nat := Nat.min (c.toNat / 256 % 64) (32 - fieldPos c)

/-- A field of A, zero-extended. -/
def bfx (a c : Word) : Word := BitVec.ofNat 32 (a.toNat / 2 ^ fieldPos c % 2 ^ fieldLen c)

/-- A field of A, extended from its top bit. -/
def bfxs (a c : Word) : Word :=
  let x := a.toNat / 2 ^ fieldPos c % 2 ^ fieldLen c
  if fieldLen c = 0 then 0
  else if 2 ^ (fieldLen c - 1) ≤ x then BitVec.ofNat 32 (x + 2 ^ 32 - 2 ^ fieldLen c)
  else BitVec.ofNat 32 x

/-- D with the field replaced by the low bits of A. -/
def bfi (a c d : Word) : Word :=
  let m : Word := BitVec.ofNat 32 (2 ^ fieldLen c - 1)
  (d &&& ~~~(m <<< fieldPos c)) ||| ((a &&& m) <<< fieldPos c)

/-- The number of set bits. -/
def popCount (a : Word) : Word := BitVec.ofNat 32 ((List.range 32).countP (fun i => a.getLsbD i))

/-- The number of leading zero bits; 32 for zero. -/
def leadingZeros (a : Word) : Word := if a = 0 then 32 else BitVec.ofNat 32 (31 - Nat.log2 a.toNat)

/-! ## Compare codes (R79) -/

/-- The condition of an integer compare. -/
def compareHolds (cc : BitVec 4) (a c : Word) : Bool :=
  match cc.toNat with
  | 0 => a == c
  | 1 => a != c
  | 2 => a.slt c
  | 3 => a.sle c
  | 4 => c.slt a
  | 5 => c.sle a
  | 6 => a.ult c
  | 7 => a.ule c
  | 8 => c.ult a
  | _ => c.ule a

/-! ## Access types (R77) -/

/-- The bytes of an access of a type. -/
def typeSize (t : Nat) : Nat :=
  match t with
  | 0 => 1
  | 1 => 2
  | 2 => 4
  | 3 => 8
  | 4 => 1
  | _ => 2

/-- A loaded value as the register receives it: zero-extended, or sign-extended for .i8 and .i16. -/
def extendLoad (t v : Nat) : BitVec 64 :=
  match t with
  | 4 => ((BitVec.ofNat 8 v).signExtend 32).zeroExtend 64
  | 5 => ((BitVec.ofNat 16 v).signExtend 32).zeroExtend 64
  | _ => BitVec.ofNat 64 v

/-! ## Addresses -/

/-- The offset word of an E = 1 form, read as signed (R260). -/
def offsetOf (off : Word) : Int := off.toInt

/-- A sum modulo 2^64 with a signed offset. -/
def addOffset (a : Nat) (off : Int) : Nat := ((a : Int) + off).emod (2 ^ 64) |>.toNat

/-- The address of a lane of a global access: base pair, lane offset, offset word (R260). -/
def Team.laneAddr (t : Team) (base a : Nat) (off : Int) (lane : Nat) : Nat :=
  addOffset ((t.srd64 base).toNat + (t.rd a lane).toNat) off

/-- The address of a scalar access (R260). -/
def Team.scalarAddr (t : Team) (base : Nat) (off : Int) : Nat := addOffset (t.srd64 base).toNat off

/-- The scratchpad byte address of a lane: lane offset plus offset word modulo 2^32 (R78, R267). -/
def Team.spadAddr (t : Team) (a : Nat) (off : Word) (lane : Nat) : Nat := (t.rd a lane + off).toNat

/-- The storage byte that a scratchpad address reaches under a swizzle: row, bank XOR P, byte (R78). -/
def swizzle (sw a : Nat) : Nat :=
  if sw = 0 then a
  else
    let row := a / 128
    let p := a / 2 ^ (6 + sw) % 32
    row * 128 + (Nat.xor (a / 4 % 32) p) * 4 + a % 4

/-! ## Shapes -/

/-- A lane instruction of one word: it names lane registers, waits by its belay bit, changes the team, and the team goes on.
A name outside the allocation is cause 0x01 (R56, R92). -/
def laneInstr (i : Instr) (b : Bool) (names : List Nat) (s : State) (body : Team → Team) : Out :=
  if s.team.namesOk names then .next (s.withTeam ((body (s.team.belay b)).advance 1))
  else .next (s.illegal i)

/-- An instruction that acts once per team, whatever the mask holds (R40), of `len` words. -/
def teamInstr (b : Bool) (len : Nat) (s : State) (body : Team → Team) : Out :=
  .next (s.withTeam ((body (s.team.belay b)).advance len))

/-- Two lane sources and one lane destination. -/
def laneBin (i : Instr) (b : Bool) (d a c : BitVec 7) (f : Word → Word → Word) (s : State) : Out :=
  laneInstr i b [d.toNat, a.toNat, c.toNat] s (fun t =>
    t.wr d.toNat t.active (fun l => f (t.rd a.toNat l) (t.rd c.toNat l)))

/-- Two lane sources, and the destination as a third (R92). -/
def laneAcc (i : Instr) (b : Bool) (d a c : BitVec 7) (f : Word → Word → Word → Word) (s : State) : Out :=
  laneInstr i b [d.toNat, a.toNat, c.toNat] s (fun t =>
    t.wr d.toNat t.active (fun l => f (t.rd a.toNat l) (t.rd c.toNat l) (t.rd d.toNat l)))

/-- One lane source and one lane destination. -/
def laneUn (i : Instr) (b : Bool) (d a : BitVec 7) (f : Word → Word) (s : State) : Out :=
  laneInstr i b [d.toNat, a.toNat] s (fun t => t.wr d.toNat t.active (fun l => f (t.rd a.toNat l)))

/-- Pairs (R97). -/
def laneBin64 (i : Instr) (b : Bool) (d a c : BitVec 7) (f : BitVec 64 → BitVec 64 → BitVec 64) (s : State) : Out :=
  laneInstr i b [d.toNat, d.toNat + 1, a.toNat, a.toNat + 1, c.toNat, c.toNat + 1] s (fun t =>
    t.wr64 d.toNat t.active (fun l => f (t.rd64 a.toNat l) (t.rd64 c.toNat l)))

/-- A compare of lane values into a predicate (R99). -/
def laneCmp (i : Instr) (b : Bool) (p : BitVec 3) (names : List Nat) (f : Team → Nat → Bool) (s : State) : Out :=
  laneInstr i b names s (fun t => t.pwr p.toNat t.active (f t))

/-- Two scalar sources and one scalar destination (R115). -/
def scalarBin (b : Bool) (d a c : BitVec 6) (f : Word → Word → Word) (s : State) : Out :=
  teamInstr b 1 s (fun t => t.swr d.toNat (f (t.srd a.toNat) (t.srd c.toNat)))

/-- A scalar source and an immediate (R116). -/
def scalarImm (b : Bool) (d a : BitVec 6) (f : Word → Word) (s : State) : Out :=
  teamInstr b 1 s (fun t => t.swr d.toNat (f (t.srd a.toNat)))

end Sys2Proof.Machine
end

