-- ==== Sys2Proof/Machine/Fp.lean ====
section
/-! DEFINITION. Number formats (12): the floating-point layouts, exact values, the rounding helpers, NaNs and poison, lane
arithmetic (R100 to R102), special functions (R105, R106) and conversions (R107, R108). -/

namespace Sys2Proof.Machine

/-! ## Formats (R177, R178) -/

/-- A floating-point format: the widths of its exponent and fraction, its bias, and whether it has infinities. -/
structure Fmt where
  ebits : Nat
  fbits : Nat
  bias : Nat
  infs : Bool
  deriving DecidableEq, Repr

def fp32 : Fmt := ⟨8, 23, 127, true⟩
def fp16 : Fmt := ⟨5, 10, 15, true⟩
def bf16 : Fmt := ⟨8, 7, 127, true⟩
def fpE4 : Fmt := ⟨4, 3, 7, false⟩
def fpE5 : Fmt := ⟨5, 2, 15, true⟩
/-- The accumulator format of the matrix array (R179); its subnormals do not occur. -/
def fp26 : Fmt := ⟨8, 17, 127, true⟩

/-- The sign bit's weight. -/
def Fmt.sign (f : Fmt) : Nat := 2 ^ (f.ebits + f.fbits)
/-- The magnitude bits of the largest finite value. -/
def Fmt.maxMag (f : Fmt) : Nat := if f.infs then (2 ^ f.ebits - 1) * 2 ^ f.fbits - 1 else f.sign - 2
/-- The magnitude bits of an infinity, or of the NaN that stands for it in E4M3 (R181). -/
def Fmt.infMag (f : Fmt) : Nat := if f.infs then (2 ^ f.ebits - 1) * 2 ^ f.fbits else f.sign - 1
/-- The default NaN. -/
def Fmt.nan (f : Fmt) : Nat :=
  if f.infs then (2 ^ f.ebits - 1) * 2 ^ f.fbits + 2 ^ (f.fbits - 1) else f.sign - 1
/-- The exponent of the smallest subnormal. -/
def Fmt.qmin (f : Fmt) : Int := 1 - (f.bias : Int) - f.fbits

def Fmt.neg (f : Fmt) (x : Nat) : Bool := bitOf (x / f.sign)
def Fmt.mag (f : Fmt) (x : Nat) : Nat := x % f.sign
def Fmt.isNan (f : Fmt) (x : Nat) : Bool := if f.infs then decide (f.infMag < f.mag x) else f.mag x == f.nan
def Fmt.isInf (f : Fmt) (x : Nat) : Bool := f.infs && f.mag x == f.infMag
def Fmt.isZero (f : Fmt) (x : Nat) : Bool := f.mag x == 0
/-- A zero exponent with a fraction that is not zero. -/
def Fmt.isSub (f : Fmt) (x : Nat) : Bool := decide (0 < f.mag x) && decide (f.mag x < 2 ^ f.fbits)
/-- A NaN made quiet (R100). -/
def Fmt.quiet (f : Fmt) (x : Nat) : Nat := if f.infs then Nat.lor x (2 ^ (f.fbits - 1)) else x
/-- A magnitude with a sign. -/
def Fmt.pack (f : Fmt) (neg : Bool) (mag : Nat) : Nat := (if neg then f.sign else 0) + mag

/-- An exact value: a signed zero or a signed dyadic number `n * 2 ^ e`, an infinity, or a NaN. -/
inductive Fv where
  | nan
  | inf (neg : Bool)
  | fin (neg : Bool) (n : Nat) (e : Int)
  deriving DecidableEq, Repr

/-- The value of a word (R177). -/
def Fmt.val (f : Fmt) (x : Nat) : Fv :=
  if f.isNan x then .nan
  else if f.isInf x then .inf (f.neg x)
  else if f.mag x < 2 ^ f.fbits then .fin (f.neg x) (f.mag x) f.qmin
  else .fin (f.neg x) (2 ^ f.fbits + f.mag x % 2 ^ f.fbits) (f.qmin + (f.mag x / 2 ^ f.fbits : Nat) - 1)

/-! ## Rounding (R181) -/

/-- The rounding modes .rn, .rz, .rm and .rp. -/
inductive Rnd where
  | rn | rz | rm | rp
  deriving DecidableEq, Repr

/-- A rounding mode by its code (R80). -/
def Rnd.ofCode (c : Nat) : Rnd :=
  match c with
  | 0 => .rn
  | 1 => .rz
  | 2 => .rm
  | _ => .rp

/-- The integer that `n / 2 ^ k` rounds to; `sticky` says that the exact value lies strictly above `n` and below `n + 1`. -/
def roundShift (mode : Rnd) (neg : Bool) (n k : Nat) (sticky : Bool) : Nat :=
  let q := n / 2 ^ k
  let r := n % 2 ^ k
  let inexact := decide (r ≠ 0) || sticky
  let up := match mode with
    | .rn => decide (2 ^ k < 2 * r) || (decide (2 * r = 2 ^ k) && (sticky || q % 2 == 1) && decide (k ≠ 0))
    | .rz => false
    | .rm => neg && inexact
    | .rp => !neg && inexact
  if up then q + 1 else q

/-- The magnitude bits for an exact magnitude `n * 2 ^ e`, not zero, rounded; not limited to the largest finite value. -/
def Fmt.roundMag (f : Fmt) (mode : Rnd) (neg : Bool) (n : Nat) (e : Int) (sticky : Bool) : Nat :=
  let q : Int := Max.max (((Nat.log2 n : Nat) : Int) + e - f.fbits) f.qmin
  let k := if q ≤ e then n * 2 ^ (e - q).toNat else roundShift mode neg n (q - e).toNat sticky
  (q - f.qmin).toNat * 2 ^ f.fbits + k

/-- What a magnitude beyond the largest finite one gives (R181). -/
def Fmt.overflow (f : Fmt) (mode : Rnd) (neg : Bool) : Nat :=
  match mode with
  | .rn => f.infMag
  | .rz => f.maxMag
  | .rm => if neg then f.infMag else f.maxMag
  | .rp => if neg then f.maxMag else f.infMag

/-- RND of an exact finite magnitude with a sign. -/
def Fmt.rndFin (f : Fmt) (mode : Rnd) (neg : Bool) (n : Nat) (e : Int) (sticky : Bool) : Nat :=
  if n = 0 then f.pack neg 0
  else
    let m := f.roundMag mode neg n e sticky
    f.pack neg (if f.maxMag < m then f.overflow mode neg else m)

/-- RND (R181); a NaN gives the default NaN. -/
def Fmt.rnd (f : Fmt) (mode : Rnd) : Fv → Nat
  | .nan => f.nan
  | .inf neg => f.pack neg f.infMag
  | .fin neg n e => f.rndFin mode neg n e false

/-! ## Exact arithmetic -/

/-- The signed integer of a finite value on the lattice `2 ^ q`, for `q` at most its exponent. -/
def scaled (neg : Bool) (n : Nat) (e q : Int) : Int :=
  let m : Int := (n * 2 ^ (e - q).toNat : Nat)
  if neg then -m else m

/-- The exact sum; an exact zero sum is +0 unless both are -0 (R100). -/
def Fv.add : Fv → Fv → Fv
  | .nan, _ => .nan
  | _, .nan => .nan
  | .inf a, .inf b => if a = b then .inf a else .nan
  | .inf a, _ => .inf a
  | _, .inf b => .inf b
  | .fin sa na ea, .fin sb nb eb =>
    let q := Min.min ea eb
    let v := scaled sa na ea q + scaled sb nb eb q
    if v = 0 then .fin (sa && sb && na == 0 && nb == 0) 0 q else .fin (decide (v < 0)) v.natAbs q

/-- The value with its sign changed. -/
def Fv.negate : Fv → Fv
  | .nan => .nan
  | .inf a => .inf (!a)
  | .fin s n e => .fin (!s) n e

/-- The exact product. -/
def Fv.mul : Fv → Fv → Fv
  | .nan, _ => .nan
  | _, .nan => .nan
  | .inf a, .inf b => .inf (a != b)
  | .inf a, .fin s n _ => if n = 0 then .nan else .inf (a != s)
  | .fin s n _, .inf b => if n = 0 then .nan else .inf (s != b)
  | .fin sa na ea, .fin sb nb eb => .fin (sa != sb) (na * nb) (ea + eb)

/-! ## Lane arithmetic (R100, R102, R104) -/

/-- The first NaN of some operands, quieted (R100). -/
def Fmt.firstNan (f : Fmt) (xs : List Nat) : Option Nat := (xs.find? f.isNan).map f.quiet

/-- A + C. -/
def Fmt.add (f : Fmt) (a c : Nat) : Nat := (f.firstNan [a, c]).getD (f.rnd .rn ((f.val a).add (f.val c)))
/-- A - C. -/
def Fmt.sub (f : Fmt) (a c : Nat) : Nat := (f.firstNan [a, c]).getD (f.rnd .rn ((f.val a).add (f.val c).negate))
/-- A times C. -/
def Fmt.mul (f : Fmt) (a c : Nat) : Nat := (f.firstNan [a, c]).getD (f.rnd .rn ((f.val a).mul (f.val c)))
/-- A times C plus D, rounded once. -/
def Fmt.fma (f : Fmt) (a c d : Nat) : Nat :=
  (f.firstNan [a, c, d]).getD (f.rnd .rn (((f.val a).mul (f.val c)).add (f.val d)))

/-- A key that orders the values of words that are not NaNs, -0 below +0 (R102). -/
def Fmt.key (f : Fmt) (x : Nat) : Int := if f.neg x then -(f.mag x : Int) - 1 else f.mag x

/-- minimumNumber (R102). -/
def Fmt.min (f : Fmt) (a c : Nat) : Nat :=
  if f.isNan a then (if f.isNan c then f.quiet a else c)
  else if f.isNan c then a
  else if f.key a ≤ f.key c then a else c

/-- maximumNumber (R102). -/
def Fmt.max (f : Fmt) (a c : Nat) : Nat :=
  if f.isNan a then (if f.isNan c then f.quiet a else c)
  else if f.isNan c then a
  else if f.key a ≤ f.key c then c else a

/-- A key under which -0 and +0 are equal. -/
def Fmt.order (f : Fmt) (x : Nat) : Int := if f.neg x then -(f.mag x : Int) else f.mag x

/-- The condition of a floating-point compare (R79, R103). -/
def Fmt.compare (f : Fmt) (cc : Nat) (a c : Nat) : Bool :=
  if f.isNan a || f.isNan c then cc == 1 || cc == 6
  else
    match cc with
    | 0 => decide (f.order a = f.order c)
    | 1 => decide (f.order a ≠ f.order c)
    | 2 => decide (f.order a < f.order c)
    | 3 => decide (f.order a ≤ f.order c)
    | 4 => decide (f.order c < f.order a)
    | 5 => decide (f.order c ≤ f.order a)
    | 7 => true
    | _ => false

/-! ## Poison (R183) -/

/-- FP32, FP16 and BF16 poison. -/
def poison32 (c : Nat) : Nat := 0x7FC80000 + c % 256
def poison16 (c : Nat) : Nat := 0x7F00 + c % 256
def poisonBf (c : Nat) : Nat := 0x7FC0 + c % 64

/-- The lowest word of a format's poison, and how many causes it carries. -/
def Fmt.poisonBase (f : Fmt) : Option (Nat × Nat) :=
  if f = fp32 then some (0x7FC80000, 256) else if f = fp16 then some (0x7F00, 256) else if f = bf16 then some (0x7FC0, 64) else none

/-- The cause that a poison value carries. -/
def Fmt.poisonCause (f : Fmt) (x : Nat) : Option Nat :=
  match f.poisonBase with
  | some (base, n) => if base < f.mag x ∧ f.mag x < base + n then some (f.mag x - base) else none
  | none => none

/-- Poison of a cause in a format; the default NaN where the format carries none. -/
def Fmt.poison (f : Fmt) (c : Nat) : Nat :=
  match f.poisonBase with
  | some (base, n) => base + c % n
  | none => f.nan

/-! ## Special functions (R105, R106)

The transcendental functions are evaluated in fixed point with 512 fraction bits.  Log entry 12 says why that gives the
nearest FP32 value. -/

/-- The integer square root of a number below `4 ^ k`, by digits. -/
def isqrt (x : Nat) : Nat → Nat → Nat
  | 0, r => r
  | k + 1, r => if (r + 2 ^ k) * (r + 2 ^ k) ≤ x then isqrt x k (r + 2 ^ k) else isqrt x k r

/-- A quotient of two finite magnitudes with 64 bits or more, rounded to nearest. -/
def Fmt.quotient (f : Fmt) (neg : Bool) (na : Nat) (ea : Int) (nc : Nat) (ec : Int) : Nat :=
  let n := na * 2 ^ 128
  f.rndFin .rn neg (n / nc) (ea - ec - 128) (n % nc != 0)

/-- A / C (R105, R106). -/
def fdiv (a c : Nat) : Nat :=
  (fp32.firstNan [a, c]).getD
    (match fp32.val a, fp32.val c with
    | .inf _, .inf _ => fp32.nan
    | .inf x, .fin y _ _ => fp32.pack (x != y) fp32.infMag
    | .fin x _ _, .inf y => fp32.pack (x != y) 0
    | .fin x na ea, .fin y nc ec =>
      if nc = 0 then (if na = 0 then fp32.nan else fp32.pack (x != y) fp32.infMag)
      else fp32.quotient (x != y) na ea nc ec
    | _, _ => fp32.nan)

/-- 1 / A. -/
def frcp (a : Nat) : Nat := fdiv 0x3F800000 a

/-- The square root of A. -/
def fsqrt (a : Nat) : Nat :=
  (fp32.firstNan [a]).getD
    (match fp32.val a with
    | .inf neg => if neg then fp32.nan else a
    | .fin neg n e =>
      if n = 0 then a
      else if neg then fp32.nan
      else
        let x := if e % 2 = 0 then n * 2 ^ 80 else 2 * n * 2 ^ 80
        let e' := if e % 2 = 0 then e / 2 else (e - 1) / 2
        let r := isqrt x 56 0
        fp32.rndFin .rn false r (e' - 40) (r * r != x)
    | .nan => fp32.nan)

/-- One over the square root of A. -/
def frsq (a : Nat) : Nat :=
  (fp32.firstNan [a]).getD
    (match fp32.val a with
    | .inf neg => if neg then fp32.nan else 0
    | .fin neg n e =>
      if n = 0 then fp32.pack neg fp32.infMag
      else if neg then fp32.nan
      else
        let m := if e % 2 = 0 then n else 2 * n
        let e' := if e % 2 = 0 then e / 2 else (e - 1) / 2
        let r := isqrt (2 ^ 160 / m) 82 0
        fp32.rndFin .rn false r (-e' - 80) (r * r * m != 2 ^ 160)
    | .nan => fp32.nan)

/-- The natural logarithm of 2, and half of pi, in fixed point. -/
def ln2Fix : Nat := 0xb17217f7d1cf79abc9e3b39803f2f6af40f343267298b62d8a0d175b8baafa2be7b876206debac98559552fb4afa1b10ed2eae35c138214427573b291169b825
def halfPiFix : Nat := 0x1921fb54442d18469898cc51701b839a252049c1114cf98e804177d4c76273644a29410f31c6809bbdf2a33679a748636605614dbe4be286e9fc26adadaa3848b

/-- The sum of a power series with terms `term * x / (k * (k + step))`, from a first term, in fixed point; the terms at even
places, and those at odd places. -/
def seriesSum (x : Nat) (factor : Nat → Nat) : Nat → Nat → Nat → Nat × Nat
  | 0, _, _ => (0, 0)
  | fuel + 1, k, term =>
    let rest := seriesSum x factor fuel (k + 1) (term * x / 2 ^ 512 / factor k)
    (term + rest.2, rest.1)

/-- e to the x for x from 0 below 1. -/
def expFix (x : Nat) : Nat :=
  let r := seriesSum x (fun k => k + 1) 110 0 (2 ^ 512)
  r.1 + r.2

/-- Sine and cosine of x from 0 to half of pi. -/
def sinFix (x : Nat) : Nat :=
  let r := seriesSum (x * x / 2 ^ 512) (fun k => (2 * k + 2) * (2 * k + 3)) 60 0 x
  r.1 - r.2
def cosFix (x : Nat) : Nat :=
  let r := seriesSum (x * x / 2 ^ 512) (fun k => (2 * k + 1) * (2 * k + 2)) 60 0 (2 ^ 512)
  r.1 - r.2

/-- The powers of `z2` divided by 1, 3, 5, and so on, summed. -/
def atanhSum (z2 : Nat) : Nat → Nat → Nat → Nat
  | 0, _, _ => 0
  | fuel + 1, k, p => p / (2 * k + 1) + atanhSum z2 fuel (k + 1) (p * z2 / 2 ^ 512)

/-- The natural logarithm of `n / 2 ^ w` for a value from 1 below 2. -/
def lnFix (n w : Nat) : Nat :=
  let z := (n - 2 ^ w) * 2 ^ 512 / (n + 2 ^ w)
  2 * atanhSum (z * z / 2 ^ 512) 170 0 z

/-- A finite value as a signed fixed-point number, rounded down where it has more bits. -/
def toFix (neg : Bool) (n : Nat) (e : Int) : Int :=
  let m : Int := if -512 ≤ e then (n * 2 ^ (e + 512).toNat : Nat) else (n / 2 ^ (-512 - e).toNat : Nat)
  if neg then -m else m

/-- 2 to the power of a finite value, as a magnitude with an exponent and whether it is not exact. -/
def exp2Mag (neg : Bool) (n : Nat) (e : Int) : Nat × Int × Bool :=
  if 16 < ((Nat.log2 n : Nat) : Int) + e ∧ n ≠ 0 then (1, if neg then -65536 else 65536, false)
  else
    let v := toFix neg n e
    let i := v / 2 ^ 512
    let frac := (v % 2 ^ 512).toNat
    if frac = 0 then (1, i, false) else (expFix (frac * ln2Fix / 2 ^ 512), i - 512, true)

/-- 2 to the A. -/
def fex2 (a : Nat) : Nat :=
  (fp32.firstNan [a]).getD
    (match fp32.val a with
    | .inf neg => if neg then 0 else fp32.infMag
    | .fin neg n e =>
      let r := exp2Mag neg n e
      if r.2.1 = -65536 then 0 else fp32.rndFin .rn false r.1 r.2.1 r.2.2
    | .nan => fp32.nan)

/-- The base-2 logarithm of A. -/
def flg2 (a : Nat) : Nat :=
  (fp32.firstNan [a]).getD
    (match fp32.val a with
    | .inf neg => if neg then fp32.nan else a
    | .fin neg n e =>
      if n = 0 then fp32.pack true fp32.infMag
      else if neg then fp32.nan
      else
        let w := Nat.log2 n
        let i : Int := (w : Int) + e
        let fracFix : Int := if n = 2 ^ w then 0 else ((lnFix n w * 2 ^ 512 / ln2Fix : Nat) : Int)
        let v := i * 2 ^ 512 + fracFix
        fp32.rndFin .rn (decide (v < 0)) v.natAbs (-512) (decide (n ≠ 2 ^ w))
    | .nan => fp32.nan)

/-- Sine (quarter 0) or cosine (quarter 1) of a finite value that is not zero. -/
def sinCos (quarter : Nat) (neg : Bool) (n : Nat) (e : Int) : Nat :=
  let x := (toFix false n e).toNat
  let k := x / halfPiFix
  let r := x % halfPiFix
  let q := (k + quarter) % 4
  let m := if q % 2 = 0 then sinFix r else cosFix r
  fp32.rndFin .rn ((decide (2 ≤ q)) != (neg && quarter == 0)) m (-512) true

/-- The sine of A radians. -/
def fsin (a : Nat) : Nat :=
  (fp32.firstNan [a]).getD
    (match fp32.val a with
    | .fin neg n e => if n = 0 then a else sinCos 0 neg n e
    | _ => fp32.nan)

/-- The cosine of A radians. -/
def fcos (a : Nat) : Nat :=
  (fp32.firstNan [a]).getD
    (match fp32.val a with
    | .fin neg n e => if n = 0 then 0x3F800000 else sinCos 1 neg n e
    | _ => fp32.nan)

/-! ## Conversions (R107, R108) -/

/-- The types of CVT (R80): an integer of a width, signed or not, or a floating-point format. -/
inductive CvtType where
  | int (w : Nat) (signed : Bool)
  | fp (f : Fmt)
  deriving DecidableEq, Repr

/-- A type by its code. -/
def CvtType.ofCode (c : Nat) : CvtType :=
  match c with
  | 0 => .int 8 false
  | 1 => .int 16 false
  | 2 => .int 32 false
  | 3 => .int 64 false
  | 4 => .int 8 true
  | 5 => .int 16 true
  | 6 => .int 32 true
  | 7 => .int 64 true
  | 8 => .fp fp16
  | 9 => .fp bf16
  | 10 => .fp fp32
  | 11 => .fp fpE4
  | _ => .fp fpE5

/-- The width of a type. -/
def CvtType.width : CvtType → Nat
  | .int w _ => w
  | .fp f => 1 + f.ebits + f.fbits

/-- The integer that `w` bits hold. -/
def intOf (w : Nat) (signed : Bool) (x : Nat) : Int :=
  let y := x % 2 ^ w
  if signed ∧ 2 ^ (w - 1) ≤ y then (y : Int) - 2 ^ w else y

/-- The range of an integer type. -/
def intLow (w : Nat) (signed : Bool) : Int := if signed then -(2 ^ (w - 1)) else 0
def intHigh (w : Nat) (signed : Bool) : Int := if signed then 2 ^ (w - 1) - 1 else 2 ^ w - 1

/-- The nearest bound of an integer type's range, or the value itself. -/
def clampInt (w : Nat) (signed : Bool) (v : Int) : Int := Max.max (intLow w signed) (Min.min (intHigh w signed) v)

/-- The bits of an integer, modulo `2 ^ 64`, as a type of width `w` holds it in a register: zero- or sign-extended. -/
def intBits (w : Nat) (signed : Bool) (v : Int) : Nat := ((intOf w signed (v % 2 ^ w).toNat) % 2 ^ 64).toNat

/-- A finite value rounded to an integer. -/
def roundInt (mode : Rnd) (neg : Bool) (n : Nat) (e : Int) : Int :=
  let m : Nat := if 0 ≤ e then n * 2 ^ e.toNat else roundShift mode neg n (-e).toNat false
  if neg then -(m : Int) else m

/-- The largest finite magnitude in place of anything beyond it (R108, .sat). -/
def Fmt.saturate (f : Fmt) (v : Fv) (mode : Rnd) : Nat :=
  match v with
  | .inf neg => f.pack neg f.maxMag
  | .nan => f.nan
  | .fin neg n e =>
    if n = 0 then f.pack neg 0 else f.pack neg (Nat.min (f.roundMag mode neg n e false) f.maxMag)

/-- CVT of a source word: the result, zero- or sign-extended as R107 says. -/
def cvt (dst src : CvtType) (sat : Bool) (mode : Rnd) (x : Nat) : Nat :=
  match src, dst with
  | .int w sg, .int w' sg' =>
    let v := intOf w sg x
    intBits w' sg' (if sat then clampInt w' sg' v else v)
  | .fp f, .int w sg =>
    match f.val (x % 2 ^ (1 + f.ebits + f.fbits)) with
    | .nan => 0
    | .inf neg => intBits w sg (if neg then intLow w sg else intHigh w sg)
    | .fin neg n e => intBits w sg (clampInt w sg (roundInt mode neg n e))
  | .int w sg, .fp f =>
    let v := intOf w sg x
    let fv : Fv := .fin (decide (v < 0)) v.natAbs 0
    if sat then f.saturate fv mode else f.rnd mode fv
  | .fp g, .fp f =>
    let y := x % 2 ^ (1 + g.ebits + g.fbits)
    if g.isNan y then
      match g.poisonCause y with
      | some c => f.poison c
      | none => f.nan
    else if sat then f.saturate (g.val y) mode else f.rnd mode (g.val y)

end Sys2Proof.Machine
end

