-- ==== Sys2Proof/Machine/Slices.lean ====
section
/-! DEFINITION. What the home slices do for a team's own accesses: atomics (17, R270, R271), the order of one team's accesses to one byte
(R262, R265, R289), and the loads that are performed after their issue (R241, R288). -/

namespace Sys2Proof.Machine

/-! ## Atomics at the slices -/

/-- The value that an integer atomic leaves (R270): old, the lane's operand, the comparand. -/
def atomicInt {w : Nat} (op : Nat) (old v c : BitVec w) : BitVec w :=
  match op with
  | 0 => old + v
  | 1 => old &&& v
  | 2 => old ||| v
  | 3 => old ^^^ v
  | 4 => if v.slt old then v else old
  | 5 => if old.slt v then v else old
  | 6 => if v.ult old then v else old
  | 7 => if old.ult v then v else old
  | 8 => v
  | _ => if old = c then v else old

/-- The value that an atomic leaves, by OP and W (R269, R270). -/
def atomicNew (op : Nat) (wide : Bool) (old v c : Nat) : Nat :=
  if op = 10 then fp32.add old v
  else if wide then (atomicInt op (BitVec.ofNat 64 old) (BitVec.ofNat 64 v) (BitVec.ofNat 64 c)).toNat
  else (atomicInt op (BitVec.ofNat 32 old) (BitVec.ofNat 32 v) (BitVec.ofNat 32 c)).toNat

/-- The bytes of an atomic. -/
def AtomLane.size (x : AtomLane) : Nat := if x.wide then 8 else 4

/-- The register of a lane receives the old value (R270). -/
def Team.receive (t : Team) (x : AtomLane) (old : Nat) : Team :=
  if x.nr then t
  else
    let t := t.land ⟨false, x.key, BitVec.ofNat 32 old, false, 0, none⟩
    if x.wide then t.land ⟨false, x.key + 1024, BitVec.ofNat 32 (old / 2 ^ 32), false, 0, none⟩ else t

/-- One lane of an ATOM executes at the slice, after its own core's buffered stores to its bytes have drained (R271), and on a
replicated page writes both replicas (R246, R270).  With .acq it orders the team's later accesses, and the team observes what others have observed
(R241, R273). -/
def State.atomicAt (s : State) (x : AtomLane) : State :=
  let s := s.drainWith x.core (fun b => decide (x.addr ≤ b.addr) && decide (b.addr < x.addr + x.size))
  let old := ofLeBytes ((List.range x.size).map (fun i => s.sliceByte (x.addr + i)))
  let new := atomicNew x.op x.wide old x.operand.toNat x.comparand.toNat
  let s := (storeBytes x.team x.core ⟨x.addr, x.repl, false⟩ x.size new).foldl State.perform (s.reported x.addr x.size)
  let s := if x.acq then s.seeBytes x.core [x.team] (fun b => !b.seen.isEmpty) else s
  s.modTeam x.team (fun t => (if x.acq then t.raiseFloor s.tick else t).receive x old)

/-- Every atomic of a team that has not executed does so, in the order of issue. -/
def State.runAtomics (s : State) (k : Nat) : State :=
  let mine := s.atomics.filter (fun x => x.team == k)
  let s := mine.foldl State.atomicAt s
  { s with atomics := s.atomics.filter (fun x => x.team != k) }

/-! ## The order of one team's accesses to one byte -/

/-- The physical bytes that an access reaches, by the address in replica 0 and the length; none in the weight store. -/
def Loc.span (n : Nat) (l : Loc) : List (Nat × Nat) := if l.ws then [] else [(l.pa, n)]

/-- A range of bytes meets one of a list. -/
def meets (spans : List (Nat × Nat)) (p n : Nat) : Bool := spans.any (fun x => decide (x.1 < p + n) && decide (p < x.1 + x.2))

/-- What must be performed before the issuing team's next access to some bytes: its pending .sc stores to them (R262, R265), and
its atomics that touch them or that were issued with .acq (R262, R271). -/
def State.settleOver (s : State) (spans : List (Nat × Nat)) : State :=
  let s := s.performScFor (fun b => b.team == s.team.key && meets spans b.addr 1)
  if s.atomics.any (fun x => x.team == s.team.key && (x.acq || meets spans x.addr x.size)) then s.runAtomics s.team.key else s

/-- The .sc stores of a team that are pending are performed, and those with earlier tickets (R263). -/
def State.settleScOf (s : State) (team : Nat) : State := s.performScFor (fun b => b.team == team)

/-- The .sc stores of the issuing team that are pending are performed (R263). -/
def State.settleSc (s : State) : State := s.settleScOf s.team.key

/-- The outstanding loads of a team over some bytes are performed no later than now, before a store of the team to those bytes or, of
those that bypass L1, before a later such access (R262, R289). -/
def Team.fixLoads (t : Team) (plain : Bool) (spans : List (Nat × Nat)) : Team :=
  { t with unchecked := t.unchecked.map (fun w =>
      match w.src with
      | some x => if (plain || x.bypass) && meets spans x.loc.pa x.size then { w with src := none } else w
      | none => w) }

/-- The outstanding loads of a team that bypass L1, over some bytes and issued before a step, are performed no later than now: an operation
issued in that step reads the bytes (R289). -/
def Team.fixBefore (t : Team) (step : Nat) (spans : List (Nat × Nat)) : Team :=
  { t with unchecked := t.unchecked.map (fun w =>
      match w.src with
      | some x => if x.bypass && decide (x.id / 1024 < step) && meets spans x.loc.pa x.size then { w with src := none } else w
      | none => w) }

/-- The step as of which an operation that a team issued in a step reads bytes: the present one, or that in which an access of the team that
issued later and bypasses L1 has read them (R289). -/
def State.engineMoment (s : State) (team step p n : Nat) : Nat :=
  match s.team? team with
  | none => s.tick
  | some t => ((t.seen.filter (fun r => decide (step < r.issued) && decide (r.addr < p + n) && decide (p < r.addr + r.size))).map
      (fun r => r.step)).foldl Nat.min s.tick

/-- An operation that a team issued in a step has read bytes, of replica 0's address `p` and the slice's address `a` (R289, R398). -/
def State.engineSaw (s : State) (team step p a n : Nat) : State :=
  (s.modTeam team (fun t => (t.fixBefore step [(p, n)]).saw a n step (s.engineMoment team step a n))).reported a n

/-- What precedes a load of the issuing team at a location on a core: its own stores there in the partner core's buffer drain (R262,
R289), and for an .sc load those of its own core (R291). -/
def State.beforeLoad (s : State) (sc : Bool) (core : Nat) (l : Loc) (n : Nat) : State :=
  if l.ws then s
  else
    let here := fun (b : StoreByte) => decide (l.pa ≤ b.addr) && decide (b.addr < l.pa + n)
    let s := if sc then s.drainWith core here else s
    (s.teamCores.filter (fun k => k != core)).foldl (fun s k => s.drainWith k (fun b => here b && b.of s.team.key)) s

/-- What follows a load of a team at a location on a core as of a step: buffered stores of other teams that it read are observed, and with
.acq and .sc those that another team has observed (R273); an injection disarms (R398); a plain load performed now fills its L1 sector
(R243). -/
def State.afterLoad (s : State) (team : Nat) (ord : Nat) (core : Nat) (l : Loc) (n m : Nat) : State :=
  if l.ws then s
  else
    let s := s.seeBytes core [team] (fun b => decide (b.since ≤ m) &&
      ((b.team != team && decide (l.pa ≤ b.addr) && decide (b.addr < l.pa + n)) || ((ord == 1 || ord == 2) && !b.seen.isEmpty)))
    let s := if ord = 0 ∧ m = s.tick then s.fillL1 core team l else s
    s.reported (l.readAddr core 0) n

/-! ## Loads that are performed after their issue -/

/-- The outstanding writes of a loaded value into a lane: one register, or two for .b64 (R52, R264). -/
def laneWrites (reg lane t : Nat) (v : BitVec 64) (stamp : Nat) (src : Option LoadSrc) : List RegWrite :=
  if t = 3 then [⟨false, reg * 1024 + lane, v.truncate 32, true, stamp, src⟩,
    ⟨false, (reg + 1) * 1024 + lane, (v >>> 32).truncate 32, true, stamp, src.map (fun x => { x with hi := true })⟩]
  else [⟨false, reg * 1024 + lane, v.truncate 32, true, stamp, src⟩]

/-- Where a load may still read, when its qualifier lets it be performed after issue: .rlx and .fr (R241). -/
def loadSrc (s : State) (ord lane core : Nat) (l : Loc) (ty : Nat) : Option LoadSrc :=
  if ord = 1 ∨ ord = 2 ∨ l.ws = true then none
  else some ⟨s.tick * 1024 + lane, l, core, ord != 0, typeSize ty, ty, false⟩

/-- The value that a load reads now, for its register. -/
def State.readNow (s : State) (team : Nat) (x : LoadSrc) : Word :=
  let v := extendLoad x.type (s.loadVal x.core team x.bypass x.loc x.size)
  if x.hi then (v >>> 32).truncate 32 else v.truncate 32

/-- Two loads of a team that bypass L1 read a common byte, and are of different accesses (R289). -/
def LoadSrc.clashes (x y : LoadSrc) : Bool :=
  x.bypass && y.bypass && x.id != y.id && meets [(x.loc.pa, x.size)] y.loc.pa y.size

/-- The outstanding writes of a team when the load of the `k`-th is performed only now: both registers of its lane have the value read
now; a later load that bypasses L1 and reads a common byte is performed no earlier (R289). -/
def State.performLate (s : State) (team k : Nat) (x : LoadSrc) (ws : List RegWrite) : List RegWrite :=
  ws.mapIdx (fun j w =>
    match w.src with
    | some y =>
      if y.id = x.id then { w with val := s.readNow team y, src := none }
      else if k < j ∧ x.clashes y = true then { w with val := s.readNow team y } else w
    | none => w)

/-- The outstanding writes of a team when the `k`-th has been performed: an earlier load that bypasses L1 and reads a common byte is
performed no later (R289). -/
def fixEarlier (k : Nat) (x : LoadSrc) (ws : List RegWrite) : List RegWrite :=
  ws.mapIdx (fun j w =>
    match w.src with
    | some y => if j < k ∧ x.clashes y = true then { w with src := none } else w
    | none => w)

end Sys2Proof.Machine
end

