-- ==== Sys2Proof/Machine/Lsu.lean ====
section
/-! DEFINITION. Vector accesses (16, R252, R253), global loads and stores, scalar memory, fences, PREF and WAITV (17), and the
events of the memory path. -/

namespace Sys2Proof.Machine

/-! ## The steps of a vector access -/

/-- A lane of a vector access with its address and where it lies. -/
structure LaneAcc where
  lane : Nat
  va : Nat
  res : Except Nat Loc
  deriving DecidableEq, Repr

/-- The acting lanes of a team with their addresses translated (R252). -/
def State.lanesAt (s : State) (t : Team) (acc : Access) (addr : Nat → Nat) : List LaneAcc :=
  t.acting.map (fun l => ⟨l, addr l, s.translate (s.crew.coreOf t (l / 32)) (addr l) acc⟩)

/-- The checks that precede every lane's action (R261): alignment, reserved address bits, writes to the weight store.  The
cause, the lane and its address. -/
def precheck (size : Nat) (ls : List LaneAcc) : Option (Nat × Nat × Nat) :=
  match ls.find? (fun x => x.va % size != 0) with
  | some x => some (0x03, x.lane, x.va)
  | none =>
    match ls.find? (fun x => decide (2 ^ 57 ≤ x.va)) with
    | some x => some (0x05, x.lane, x.va)
    | none =>
      match ls.find? (fun x => match x.res with | .error 0x07 => true | _ => false) with
      | some x => some (0x07, x.lane, x.va)
      | none => none

/-- The lanes that translate, with their locations. -/
def located (ls : List LaneAcc) : List (Nat × Nat × Loc) :=
  ls.filterMap (fun x => match x.res with | .ok l => some (x.lane, x.va, l) | .error _ => none)

/-- The lanes that do not. -/
def unlocated (acc : Access) (ls : List LaneAcc) : List FaultLane :=
  ls.filterMap (fun x => match x.res with | .ok _ => none | .error c => some ⟨x.lane, x.va, c, acc.code⟩)

/-- The service record of unfinished lanes (R330, R331). -/
def State.serviceRecord (s : State) (rest : List FaultLane) : List Byte :=
  let body := rest.flatMap (fun f => leBytes 8 f.va ++ leBytes 2 f.lane ++ leBytes 1 f.cause ++ leBytes 1 f.access ++ leBytes 4 0)
  let lane := (rest.head?.map (fun f => f.lane)).getD 0
  recordHeader ((rest.head?.map (fun f => f.cause)).getD 0) 0 s.ctx.key body.length s.crew.crewid.toNat s.team.pc.toNat
    s.dev.dtime 0 (s.crew.coreOf s.team (lane / 32)) s.team.teamid ++ body

/-- What becomes of unfinished lanes with causes 0x04 and 0x06: a team whose fault the kernel has declined takes the declined cause for
the first lane that has it; else it parks, and a service record goes to the masthead kernel (R42, R252, R253). -/
def State.parkFault (s : State) (rest : List FaultLane) : State :=
  match s.team.declined.bind (fun c => rest.find? (fun f => f.cause == c)) with
  | some f => s.vaTrap f.cause f.lane f.va
  | none =>
    { s with team := { s.team with state := .parked, park := .memFault rest, declined := none }
             dev := s.dev.report (fun r => { r with service := r.service ++ [s.serviceRecord rest] }) }

/-- What follows the performed lanes (R252): done, or a trap for a lane with cause 0x05, or the park; the lanes left form the
replay mask. -/
def State.finishAccess (s : State) (len : Nat) (rest : List FaultLane) : State :=
  if rest = [] then s.withTeam (s.team.advance len)
  else
    let s := s.withTeam { s.team with replay := some (Mask.ofFn s.team.width (fun l => rest.any (fun f => f.lane == l))) }
    match rest.find? (fun f => f.cause == 0x05) with
    | some f => s.vaTrap 0x05 f.lane f.va
    | none => s.parkFault rest

/-- The translations that an access used enter the TLBs of its cores (R251). -/
def State.touch (s : State) (ls : List LaneAcc) : State :=
  ls.foldl (fun s x => s.fillTlb s.ctx (s.crew.coreOf s.team (x.lane / 32)) x.va) s

/-! ## Release -/

/-- A batch of a team has an LDA with .acq or .sc that has been performed as of a step (R266). -/
def Team.acquiredIn (t : Team) (batch step : Nat) : Team := { t with acqBatches := (batch, step) :: t.acqBatches }

/-- The team has observed that a batch is complete: its later accesses follow the acquiring operations of that batch and of the earlier
ones (R68, R224, R266). -/
def Team.observeBatch (t : Team) (batch : Nat) : Team :=
  { (((t.acqBatches.filter (fun x => decide (x.1 ≤ batch))).map (fun x => x.2)).foldl Team.raiseFloor t) with
    acqBatches := t.acqBatches.filter (fun x => decide (batch < x.1)) }

/-- A value of a lane of an LDA lands (R266). -/
def State.landValue (s : State) (o : AsyncOp) (l : LdaLane) (v : BitVec 64) : State :=
  { s with ops := s.ops.map (fun (q : AsyncOp) =>
    if q.id = o.id then
      match q.work with
      | .lda todo more => { q with work := .lda (todo.filter (fun x => x.lane != l.lane)) more
                                   landed := q.landed ++ laneWrites l.reg l.lane l.type v 0 none }
      | _ => q
    else q) }

/-- A lane of an LDA reads its value and lands (R266). -/
def State.landRead (s : State) (o : AsyncOp) (l : LdaLane) : State :=
  let core := match s.crew? o.crew, s.team? o.team with
    | some w, some t => w.coreOf t (l.lane / 32)
    | _, _ => o.core
  let n := typeSize l.type
  let m := if l.bypass && !l.loc.ws then s.engineMoment o.team o.stamp (l.loc.readAddr core 0) n else s.tick
  let s1 := s.landValue o l (extendLoad l.type (s.loadValAt m core o.team l.bypass l.loc n))
  let s2 := if l.bypass && !l.loc.ws then s1.engineSaw o.team o.stamp l.loc.pa (l.loc.readAddr core 0) n else s1
  let s3 := if l.acq then s2.modTeam o.team (fun t => t.acquiredIn o.batch m) else s2
  s3.afterLoad o.team (if l.acq then 1 else if l.bypass then 3 else 0) core l.loc n m

/-- A lane of an LDA lands: with the value that it has had since its ticket, or with the one that it reads now (R263, R266). -/
def State.landLane (s : State) (o : AsyncOp) (l : LdaLane) : State :=
  match l.val with
  | some v => s.landValue o l v
  | none => s.landRead o l

/-- The LDA lanes of a team that have not landed. -/
def State.ldaLanes (s : State) (k : Nat) : List (AsyncOp × LdaLane) :=
  (s.ops.filter (fun o => o.team == k && !o.done)).flatMap (fun o => match o.work with | .lda todo _ => todo.map (fun l => (o, l)) | _ => [])

/-- Every LDA lane of the issuing team lands. -/
def State.landTeam (s : State) : State :=
  (s.ldaLanes s.team.key).foldl (fun s x => s.landLane x.1 x.2) s

/-- Every access of the issuing team that reads has returned its value: its atomics have executed, its LDA lanes have landed, and its
outstanding loads are written (R241, R273). -/
def State.loadsBack (s : State) : State :=
  let s := (s.runAtomics s.team.key).landTeam
  s.withTeam s.team.flushLoads

/-- What a write that an engine makes for a team as a .rel store waits for: the team's stores are performed, and the loads and the
operations that it issued before have read (R209, R241). -/
def State.releaseOf (s : State) (team before : Nat) (w : Crew) : State :=
  let s := s.runAtomics team
  let s := ((s.ldaLanes team).filter (fun x => decide (x.1.id < before))).foldl (fun s x => s.landLane x.1 x.2) s
  let s := s.modTeam team (fun t => { t with unchecked := t.unchecked.map (fun w => { w with src := none }) })
  w.cores.foldl (fun s k => s.drainWith k (fun b => b.of team)) (s.settleScOf team)

/-- Every earlier store of the team is performed at .dev, and every earlier load has returned its value (R241). -/
def State.release (s : State) : State := s.loadsBack.settleSc.drainTeam

/-- Every access of the team, and every store that it has observed, is performed at .dev (R273). -/
def State.fenceDev (s : State) : State := s.loadsBack.settleSc.drainSeen

/-- What the issuing team has made or observed of the bytes in its cores' buffers counts as observed, so that a team that acquires has
observed it too (R273, R288). -/
def State.publish (s : State) : State :=
  s.teamCores.foldl (fun s k => s.seeBytes k [s.team.key] (fun b => b.of s.team.key || b.seen.contains s.team.key)) s

/-- Every access of the team is in its core's write-combining buffer or beyond, and its loads have returned; a team of the core that
acquires what the team stores later observes them (R273, R288). -/
def State.fenceCore (s : State) : State := s.loadsBack.settleSc.publish

/-! ## What an access names -/

/-- The lane registers that an access of type `t` names. -/
def accessNames (t d a : Nat) : List Nat := if t = 3 then [d, d + 1, a] else [d, a]

/-! ## Loads and stores -/

/-- The spans of the lanes that translate. -/
def spansOf (n : Nat) (ok : List (Nat × Nat × Loc)) : List (Nat × Nat) := ok.flatMap (fun x => x.2.2.span n)

/-- What precedes the lanes of a load: the team's own accesses to the same bytes (R262, R265, R271, R289), and with .sc every pending
.sc store, which has an earlier ticket (R263). -/
def State.prepareLoad (s : State) (q : BitVec 2) (n : Nat) (ok : List (Nat × Nat × Loc)) : State :=
  ok.foldl (fun s x => s.beforeLoad (q == 2) (s.crew.coreOf s.team (x.1 / 32)) x.2.2 n)
    ((if q = 2 then s.performSc else s).settleOver (spansOf n ok))

/-- The step as of which a lane of a load of the issuing team reads; an .sc load reads now, in ticket order (R263). -/
def State.laneMoment (s : State) (q : BitVec 2) (n : Nat) (x : Nat × Nat × Loc) : Nat :=
  if q = 2 then s.tick else s.moment s.team (s.crew.coreOf s.team (x.1 / 32)) (q != 0) x.2.2 n (x.2.1 * 1024 + x.1)

/-- The issuing team after the lanes of a load: with .acq and .sc its later accesses follow them (R241), and no later one that bypasses L1 is
performed before one of them on the same bytes (R289). -/
def State.afterLanes (s : State) (q : BitVec 2) (n : Nat) (ok : List (Nat × Nat × Loc)) (t : Team) : Team :=
  if q = 0 then t
  else
    let t := (ok.filter (fun x => !x.2.2.ws)).foldl (fun t x => t.saw (x.2.2.readAddr (s.crew.coreOf s.team (x.1 / 32)) 0) n s.tick (s.laneMoment q n x)) t
    if q = 3 then t
    else (ok.foldl (fun t x => t.raiseFloor (s.laneMoment q n x)) t).fixLoads false (spansOf n ok)

/-- What follows the lanes of a load of the issuing team. -/
def State.concludeLoad (s : State) (q : BitVec 2) (n : Nat) (ok : List (Nat × Nat × Loc)) : State :=
  let s1 := ok.foldl (fun s1 x => s1.afterLoad s1.team.key q.toNat (s1.crew.coreOf s1.team (x.1 / 32)) x.2.2 n (s.laneMoment q n x)) s
  s1.withTeam (s.afterLanes q n ok s1.team)

/-- What follows a read of the issuing team that bypasses L1 and is performed now, on a core: the team's earlier loads of the bytes are
performed no later (R289). -/
def State.concludeNow (s : State) (core : Nat) (l : Loc) (n : Nat) : State :=
  let s1 := s.afterLoad s.team.key 3 core l n s.tick
  s1.withTeam ((s1.team.fixLoads false (l.span n)).saw (l.readAddr core 0) n s.tick s.tick)

/-- The value that a lane of a load of the issuing team reads (R264). -/
def State.laneValue (s : State) (q : BitVec 2) (ty : Nat) (x : Nat × Nat × Loc) : BitVec 64 :=
  extendLoad ty (s.loadValAt (s.laneMoment q (typeSize ty) x) (s.crew.coreOf s.team (x.1 / 32)) s.team.key (q != 0) x.2.2 (typeSize ty))

/-- The outstanding register writes of a load's lanes, with the values read at issue (R264). -/
def State.loadWrites (s : State) (q : BitVec 2) (ty d : Nat) (ok : List (Nat × Nat × Loc)) : List RegWrite :=
  ok.flatMap (fun x => laneWrites (s.team.phys d) x.1 ty (s.laneValue q ty x) s.tick
    (loadSrc s q.toNat x.1 (s.crew.coreOf s.team (x.1 / 32)) x.2.2 ty))

/-- LD with a lane's address given by base pair, lane offset and offset word (R241, R260 to R264).  With an empty mask it only goes on
(R39). -/
def loadGlobal (i : Instr) (b : Bool) (q : BitVec 2) (ty : BitVec 3) (d a : BitVec 7) (base : Nat) (off : Int) (len : Nat)
    (s : State) : Out :=
  if !s.team.namesOk (accessNames ty.toNat d.toNat a.toNat) then .next (s.illegal i)
  else
    let t := s.team.belay b
    let ls := s.lanesAt t .read (t.laneAddr base a.toNat off)
    if t.acting = [] then .next (s.withTeam (t.advance len)) else
    match precheck (typeSize ty.toNat) ls with
    | some (c, l, va) => .next (s.vaTrap c l va)
    | none =>
      let s0 := (s.withTeam t).prepareLoad q (typeSize ty.toNat) (located ls)
      let s1 := s0.concludeLoad q (typeSize ty.toNat) (located ls)
      let got := s0.loadWrites q ty.toNat d.toNat (located ls)
      .next (((s1.touch ls).withTeam { s1.team with unchecked := s1.team.unchecked ++ got }).finishAccess len (unlocated .read ls))

/-- LD (R264). -/
def execLd (b : Bool) (q : BitVec 2) (t : BitVec 3) (d a : BitVec 7) (s' : BitVec 5) (s : State) : Out :=
  loadGlobal (.ld b q t d a s') b q t d a (2 * s'.toNat) 0 1 s

/-- LD with an offset word (R260, R264). -/
def execLdOffset (b : Bool) (q : BitVec 2) (t : BitVec 3) (d a : BitVec 7) (s' : BitVec 5) (off : BitVec 32) (s : State) : Out :=
  loadGlobal (.ldOffset b q t d a s' off) b q t d a (2 * s'.toNat) (offsetOf off) 2 s

/-- The bytes that a lane stores: the low bytes of its data register or pair (R265). -/
def Team.storeData (t : Team) (ty d lane : Nat) : Nat := if ty = 3 then (t.rd64 d lane).toNat else (t.rd d lane).toNat

/-- The lanes' bytes enter the write-combining buffers in strand order, or with .sc wait for their ticket, after the buffered stores to
them have drained (R262, R265); `t` is the team as it issued the store. -/
def State.storeLanes (s : State) (sc : Bool) (t : Team) (ty d : Nat) (ok : List (Nat × Nat × Loc)) : State :=
  let n := typeSize ty
  if sc then
    let s := ok.foldl (fun s x =>
      s.teamCores.foldl (fun s k =>
        s.drainWith k (fun b => decide (x.2.2.pa ≤ b.addr) && decide (b.addr < x.2.2.pa + n) && (k == s.crew.coreOf t (x.1 / 32) || b.of t.key))) s) s
    let new := ok.flatMap (fun x => storeBytes t.key (s.crew.coreOf t (x.1 / 32)) x.2.2 n (t.storeData ty d x.1))
    { s with scStores := s.scStores ++ new }
  else ok.foldl (fun s x => s.bufferStore (s.crew.coreOf t (x.1 / 32)) x.2.2 n (t.storeData ty d x.1)) s

/-- What precedes a store: with .rel and .sc the release, with .sc every pending .sc store, and the team's own accesses to the same
bytes (R241, R262, R263, R265). -/
def State.prepareStore (s : State) (q : BitVec 2) (spans : List (Nat × Nat)) : State :=
  let s := if q = 2 then s.performSc.release else if q = 1 then s.release else s
  let s := s.settleOver spans
  s.withTeam (s.team.fixLoads true spans)

/-- The lines that some lanes of the issuing team store to from a core. -/
def State.linesFrom (s : State) (core : Nat) (ok : List (Nat × Nat × Loc)) : List Nat :=
  ((ok.filter (fun x => s.crew.coreOf s.team (x.1 / 32) == core)).map (fun x => x.2.2.pa / 128)).eraseDups

/-- A lane of a store finds all 64 entries of its core's buffer in use, one of them at least of another line than the store's: the store
waits at issue (R244). -/
def State.noRoom (s : State) (ok : List (Nat × Nat × Loc)) : Bool :=
  s.teamCores.any (fun k =>
    let used := (s.core k).lines
    let mine := s.linesFrom k ok
    decide (64 < used.length + (mine.filter (fun l => !used.contains l)).length) && used.any (fun l => !mine.contains l))

/-- ST (R241, R244, R260 to R263, R265).  Address and data are read at issue, once (R52).  With an empty mask it only goes on (R39). -/
def storeGlobal (i : Instr) (b : Bool) (q : BitVec 2) (ty : BitVec 3) (d a : BitVec 7) (base : Nat) (off : Int) (len : Nat)
    (s : State) : Out :=
  if !s.team.namesOk (accessNames ty.toNat d.toNat a.toNat) then .next (s.illegal i)
  else
    let t := s.team.belay b
    let ls := s.lanesAt t .write (t.laneAddr base a.toNat off)
    if t.acting = [] then .next (s.withTeam (t.advance len)) else
    match precheck (typeSize ty.toNat) ls with
    | some (c, l, va) => .next (s.vaTrap c l va)
    | none =>
      let s0 := (s.withTeam t).prepareStore q (spansOf (typeSize ty.toNat) (located ls))
      if q != 2 && s0.noRoom (located ls) then .next s0.waits
      else .next (((s0.storeLanes (q == 2) t ty.toNat d.toNat (located ls)).touch ls).finishAccess len (unlocated .write ls))

/-- ST (R265). -/
def execSt (b : Bool) (q : BitVec 2) (t : BitVec 3) (d a : BitVec 7) (s' : BitVec 5) (s : State) : Out :=
  storeGlobal (.st b q t d a s') b q t d a (2 * s'.toNat) 0 1 s

/-- ST with an offset word (R260, R265). -/
def execStOffset (b : Bool) (q : BitVec 2) (t : BitVec 3) (d a : BitVec 7) (s' : BitVec 5) (off : BitVec 32) (s : State) : Out :=
  storeGlobal (.stOffset b q t d a s' off) b q t d a (2 * s'.toNat) (offsetOf off) 2 s

/-! ## Scalar memory (R268) -/

/-- The checks of a scalar access, LANE reported as 0 (R261). -/
def State.scalarAcc (s : State) (t : Team) (acc : Access) (va : Nat) : LaneAcc :=
  ⟨0, va, s.translate (s.crew.coreOf t 0) va acc⟩

/-- What follows a scalar access that did not translate: cause 0x05, or the park; the whole instruction replays (R268). -/
def State.scalarFault (s : State) (f : FaultLane) : State :=
  if f.cause = 0x05 then s.vaTrap 0x05 f.lane f.va else s.parkFault [f]

/-- The outstanding writes of a loaded scalar (R51, R268). -/
def scalarWrites (t : Team) (w : BitVec 2) (d : Nat) (v : BitVec 64) (stamp : Nat) (src : Option LoadSrc) : List RegWrite :=
  let lo : RegWrite := ⟨true, t.scalarReg d, v.truncate 32, true, stamp, src⟩
  if w = 1 then [lo, ⟨true, t.scalarReg (d + 1), (v >>> 32).truncate 32, true, stamp, src.map (fun x => { x with hi := true })⟩] else [lo]

/-- SLD. -/
def loadScalar (b : Bool) (q w : BitVec 2) (d : BitVec 6) (base : Nat) (off : Int) (len : Nat) (s : State) : Out :=
  let t := s.team.belay b
  let size := if w = 1 then 8 else 4
  let x := s.scalarAcc t .read (t.scalarAddr base off)
  match precheck size [x] with
  | some (c, l, va) => .next (s.vaTrap c l va)
  | none =>
    match x.res with
    | .error c => .next ((s.withTeam t).scalarFault ⟨0, x.va, c, 0⟩)
    | .ok l =>
      let core := s.crew.coreOf t 0
      let ok := [(0, x.va, l)]
      let s0 := (s.withTeam t).prepareLoad q size ok
      let s1 := s0.concludeLoad q size ok
      let v : BitVec 64 := BitVec.ofNat 64 (s0.loadValAt (s0.laneMoment q size (0, x.va, l)) core t.key (q != 0) l size)
      let got := scalarWrites s1.team w d.toNat v s0.tick (loadSrc s0 q.toNat 0 core l (if w = 1 then 3 else 2))
      .next ((s1.touch [x]).withTeam ({ s1.team with unchecked := s1.team.unchecked ++ got }.advance len))

/-- SLD (R268). -/
def execSld (b : Bool) (q w : BitVec 2) (d : BitVec 6) (s' : BitVec 5) (s : State) : Out :=
  loadScalar b q w d (2 * s'.toNat) 0 1 s

/-- SLD with an offset word (R268). -/
def execSldOffset (b : Bool) (q w : BitVec 2) (d : BitVec 6) (s' : BitVec 5) (off : BitVec 32) (s : State) : Out :=
  loadScalar b q w d (2 * s'.toNat) (offsetOf off) 2 s

/-- SST (R268): as a store of one lane. -/
def storeScalar (b : Bool) (q w : BitVec 2) (d : BitVec 6) (base : Nat) (off : Int) (len : Nat) (s : State) : Out :=
  let t := s.team.belay b
  let size := if w = 1 then 8 else 4
  let x := s.scalarAcc t .write (t.scalarAddr base off)
  match precheck size [x] with
  | some (c, l, va) => .next (s.vaTrap c l va)
  | none =>
    match x.res with
    | .error c => .next ((s.withTeam t).scalarFault ⟨0, x.va, c, 1⟩)
    | .ok l =>
      let core := s.crew.coreOf t 0
      let s0 := (s.withTeam t).prepareStore q (l.span size)
      if q != 2 && s0.noRoom [(0, x.va, l)] then .next s0.waits
      else
        let v := if w = 1 then (t.srd64 d.toNat).toNat else (t.srd d.toNat).toNat
        let s1 :=
          if q = 2 then
            let s0 := s0.teamCores.foldl (fun s k =>
              s.drainWith k (fun b => decide (l.pa ≤ b.addr) && decide (b.addr < l.pa + size) && (k == core || b.of t.key))) s0
            { s0 with scStores := s0.scStores ++ storeBytes t.key core l size v }
          else s0.bufferStore core l size v
        let s2 := s1.touch [x]
        .next (s2.withTeam (s2.team.advance len))

/-- SST (R268). -/
def execSst (b : Bool) (q w : BitVec 2) (d : BitVec 6) (s' : BitVec 5) (s : State) : Out :=
  storeScalar b q w d (2 * s'.toNat) 0 1 s

/-- SST with an offset word (R268). -/
def execSstOffset (b : Bool) (q w : BitVec 2) (d : BitVec 6) (s' : BitVec 5) (off : BitVec 32) (s : State) : Out :=
  storeScalar b q w d (2 * s'.toNat) (offsetOf off) 2 s

/-! ## PREF and WAITV -/

/-- PREF: starts fills of the lanes' lines, and traps, parks and writes nothing (R277). -/
def execPref (b l : Bool) (a : BitVec 7) (c : BitVec 6) (s : State) : Out :=
  if !s.team.namesOk [a.toNat] then .next (s.illegal (.pref b l a c))
  else
    let t := s.team.belay b
    let ls := s.lanesAt t .read (fun lane => addOffset ((t.srd64 c.toNat).toNat + (t.rd a.toNat lane).toNat) 0)
    let s1 := if l then (located ls).foldl (fun s x =>
      (s.fillLine (s.crew.coreOf t (x.1 / 32)) t.key x.2.2).hasRead (s.crew.coreOf t (x.1 / 32)) [{ x.2.2 with pa := x.2.2.pa / 128 * 128 }] 128) s else s
    .next ((s1.touch ls).withTeam (t.advance 1))

/-- The teams beside one that hold an entry of a core's wait table; a saved context holds none (R255, R335). -/
def State.waitEntries (s : State) (team core : Nat) : Nat :=
  (s.allTeams.filter (fun t =>
    t.key != team && t.state = .parked && s.onCores t.ctx && (match t.park with | .waitv _ _ poll _ => !poll | .ringWait _ _ _ poll => !poll | _ => false)
      && (((s.crew? t.crew).map (fun w => w.coreOf t 0)).getD 0 == core))).length

/-- WAITV (R255, R256, R276). -/
def execWaitv (b : Bool) (a c : BitVec 6) (s : State) : Out :=
  let t := s.team.belay b
  if t.active = [] then .next (s.withTeam (t.advance 1))
  else
    let va := (t.srd64 a.toNat).toNat
    let x := s.scalarAcc t .read va
    match precheck 4 [x] with
    | some (c, l, va) => .next (s.vaTrap c l va)
    | none =>
      match x.res with
      | .error cause => .next ((s.withTeam t).scalarFault ⟨0, va, cause, 0⟩)
      | .ok l =>
        if l.ws then .next (s.vaTrap 0x05 0 va)
        else
          let core := s.crew.coreOf t 0
          let s0 := (s.withTeam t).prepareLoad 3 4 [(0, va, l)]
          let s1 := (s0.concludeNow core l 4).touch [x]
          let v : Word := BitVec.ofNat 32 (s0.loadVal core t.key true l 4)
          if v ≠ t.srd c.toNat then .next (s1.withTeam (s1.team.advance 1))
          else
            .next (s1.withTeam
              { s1.team with state := .parked, park := .waitv l (t.srd c.toNat) (decide (64 ≤ s1.waitEntries t.key core)) false })

/-- A parked team whose wait is over goes on with the instruction after it (R42). -/
def Team.wake (t : Team) : Team := { (t.advance 1) with state := .ready, park := .awake }

/-! ## Events of the memory path -/

/-- WRITE_COMBINING_DRAIN: an entry of a core's buffer drains (R244). -/
def execWriteCombiningDrain (core line : Nat) (s : State) : Out := .next (s.drainLine core line)

/-- The list without its element at an index. -/
def dropAt {α : Type} (l : List α) (k : Nat) : List α := l.take k ++ l.drop (k + 1)

/-- LOAD_RETURN: one outstanding register write of a team is written (R51, R52); a load that may be performed after its issue has its
value of then or, by a free choice, the one that it reads now (R241, R288). -/
def execLoadReturn (team k : Nat) (s : State) : Out :=
  match s.team? team with
  | none => .next s
  | some t =>
    match t.unchecked[k]? with
    | none => .next s
    | some w =>
      let (s, ws) := match w.src with
        | some x =>
          let late := s.free 13 k
          let s1 := if late then s.afterLoad team (if x.bypass then 3 else 0) x.core x.loc x.size s.tick else s
          let s1 := if late && x.bypass then s1.modTeam team (fun t => t.saw (x.loc.readAddr x.core 0) x.size (x.id / 1024) s.tick) else s1
          (s1, fixEarlier k x (if late then s.performLate team k x t.unchecked else t.unchecked))
        | none => (s, t.unchecked)
      .next (s.modTeam team (fun t => { (t.land (ws.getD k w)) with unchecked := dropAt ws k }))

/-- SC_STORE_PERFORMED: the .sc stores of the team, and every one with an earlier ticket, are performed (R263, R265). -/
def execScStorePerformed (team : Nat) (s : State) : Out := .next (s.settleScOf team)

/-- The word that a parked WAITV watches, as a .fr load of its core reads it (R255). -/
def State.watchedWord (s : State) (core team : Nat) (l : Loc) : Word := BitVec.ofNat 32 (s.loadVal core team true l 4)

/-- A team in poll mode on a word that a read finds different, or the team of an entry that has been notified. -/
def State.watchDue (s : State) (t : Team) : Bool :=
  match t.park with
  | .waitv l waited true _ => s.watchedWord (s.waitCore t) t.key l != waited
  | .waitv _ _ false notified => notified
  | _ => false

/-- The entries of the wait tables whose lines a step has written are notified (R255). -/
def State.noticeWrites (s : State) : State :=
  if s.wrote = [] then s
  else
    let f := fun (t : Team) =>
      match t.park with
      | .waitv l w false n =>
        if t.state = .parked ∧ s.onCores t.ctx = true ∧ l.readAddr (s.waitCore t) 0 / 128 ∈ s.wrote then
          { t with park := .waitv l w false true } else { t with park := .waitv l w false n }
      | _ => t
    { s with team := f s.team, teams := s.teams.map f, wrote := [] }

/-- Where a die's semaphore lies for the wait table: past the device memory, in the reserved area of its L2 (R375). -/
def semaphoreAddr (die idx : Nat) : Nat := 2 ^ 40 + 4 * (die * 4096 + idx)

/-- The test of RING.WAIT (R347). -/
def State.ringPassed (s : State) (die idx : Nat) (target : Word) : Bool :=
  decide ((s.semaphores.get (die * 4096 + idx) - target).toNat < 2 ^ 31)

/-- A core's .fr read of the word that a team waits on finds it different, and the team wakes: it has read the word, and no later access
of it that bypasses L1 finds an older one (R255, R286, R289). -/
def State.wakeOn (s : State) (team core : Nat) (l : Loc) : State :=
  (s.afterLoad team 3 core l 4 s.tick).modTeam team (fun t => t.wake.saw (l.readAddr core 0) 4 s.tick s.tick)

/-- A core reads, with .fr, the word of a team that waits on a line which has been written: the team wakes where it differs, and else goes on
waiting; the team of a semaphore tests it again (R255, R347). -/
def State.notifyTeam (s : State) (core line team : Nat) : State :=
  match s.team? team with
  | none => s
  | some t =>
    if t.state ≠ .parked ∨ s.onCores t.ctx = false ∨ s.waitCore t ≠ core then s
    else
      match t.park with
      | .waitv l waited false true =>
        if l.readAddr core 0 / 128 ≠ line then s
        else if s.watchedWord core team l ≠ waited then s.wakeOn team core l
        else (s.modTeam team (fun t => { t with park := .waitv l waited false false })).reported (l.readAddr core 0) 4
      | .ringWait die idx target false =>
        if semaphoreAddr die idx / 128 = line ∧ s.ringPassed die idx target = true then
          s.modTeam team (fun t => { t with state := .ready, park := .awake })
        else s
      | _ => s

/-- WAIT_TABLE_NOTIFY: a core reads the words of a line that has been written, for every team that waits on one (R255). -/
def execWaitTableNotify (core line : Nat) (s : State) : Out :=
  .next ((s.allTeams.map (fun t => t.key)).foldl (fun s k => s.notifyTeam core line k) s)

/-- WAITV_POLL: a team in poll mode reads its word again (R256). -/
def execWaitvPoll (team : Nat) (s : State) : Out :=
  match s.team? team with
  | none => .next s
  | some t =>
    let core := s.waitCore t
    if t.state ≠ .parked ∨ s.onCores t.ctx = false then .next s
    else
      match t.park with
      | .waitv l waited true _ =>
        if s.watchedWord core team l ≠ waited then .next (s.wakeOn team core l) else .next (s.reported (l.readAddr core 0) 4)
      | .ringWait die idx target true =>
        if s.ringPassed die idx target then .next (s.modTeam team (fun t => { t with state := .ready, park := .awake })) else .next s
      | _ => .next s

/-- FAULT_RESOLVED: the team parked on a memory fault goes on with its unfinished lanes (R252). -/
def execFaultResolved (team : Nat) (s : State) : Out :=
  .next (s.modTeam team (fun t =>
    match t.park with
    | .memFault _ => { (t.raiseFloor s.tick) with state := .ready, park := .awake }
    | _ => t))

/-- FAULT_DECLINED: the kernel wakes the team with the cause that it declines: the instruction replays, the lanes whose pages it has
mapped meanwhile perform, and the team takes that cause for the first lane that still has it, with the replay mask kept (R252, R253). -/
def execFaultDeclined (answer : Decline) (s : State) : Out :=
  .next (s.modTeam answer.team (fun t =>
    match t.park with
    | .memFault _ => { (t.raiseFloor s.tick) with state := .ready, park := .awake, declined := some answer.cause.toNat }
    | _ => t))

/-- TLB_SHOOTDOWN: the kernel writes the bytes that a page is to hold into its frame, as a migration does (R254), writes the page-table
entry, and starts the shoot-down of the context's TLBs (R251).  What the context's teams access from then on they access as of then or
later. -/
def execTlbShootdown (ctx pa : Nat) (entry : BitVec 64) (page : List (BitVec 8)) (s : State) : Out :=
  let e := entry.toNat
  let s := if pteV e && !pteRh e && !pteWs e then s.writeThrough ⟨ptePa e, pteRepl e, false⟩ page.length (ofLeBytes page) else s
  let s := s.writeThrough ⟨pa, false, false⟩ 8 e
  let f := fun (t : Team) => if t.ctx = ctx then t.raiseFloor s.tick else t
  let s := { s with team := f s.team, teams := s.teams.map f }
  .next { s with shoots := if ctx ∈ s.shoots then s.shoots else ctx :: s.shoots }

/-- An operation of a context that has still to read or write memory at addresses translated before. -/
def AsyncOp.usesMemory (o : AsyncOp) : Bool :=
  !o.done && (match o.work with
    | .lda (_ :: _) _ => true | .copy _ _ _ _ _ _ => true | .accLd _ _ _ _ => true | .accSt _ _ _ _ _ _ _ => true
    | .net _ _ _ _ => true | .remote _ _ => true | .ring _ _ _ _ => true | _ => false)

/-- A shoot-down of a context can complete: no operation and no bank command that used its translations is under way (R251). -/
def State.shootable (s : State) (ctx : Nat) : Bool :=
  s.shoots.contains ctx && !s.ops.any (fun o => o.ctx == ctx && o.usesMemory)
    && !s.bankCmds.any (fun c => s.rounds.any (fun r => r.id == c.round && r.ctx == ctx))

/-- A shoot-down completes: every access that used an old entry has been performed, and no TLB holds a translation of the context
(R251). -/
def State.shootdown (s : State) (ctx : Nat) : State :=
  let mine := s.allTeams.filter (fun t => t.ctx == ctx)
  let s := if s.scStores.isEmpty then s else s.performSc
  let s := mine.foldl (fun s t => s.runAtomics t.key) s
  let s := (s.cores.map (fun e => e.1)).foldl (fun s k =>
    s.drainWith k (fun b => mine.any (fun t => b.of t.key) || (s.team? b.team).isNone)) s
  let fix := fun (t : Team) => if t.ctx = ctx then { t with unchecked := t.unchecked.map (fun w => { w with src := none }) } else t
  { s with team := fix s.team, teams := s.teams.map fix
           cores := s.cores.map (fun e => (e.1, { e.2 with tlb := e.2.tlb.filter (fun t => t.ctx != ctx) }))
           dieTlbs := s.dieTlbs.map (fun e => (e.1, e.2.filter (fun t => t.ctx != ctx)))
           shoots := s.shoots.filter (fun k => k != ctx) }

/-- PAGE_WALK: a walk that ends at a leaf leaves it in the core's TLB (R250, R251). -/
def execPageWalk (core ctx va : Nat) (s : State) : Out :=
  match s.ctx? ctx with
  | some c => .next (s.fillTlb c core va)
  | none => .next s

/-- TEAM_RESUME: the masthead kernel resumes a team that HALT or a debugger halted (R351). -/
def execTeamResume (team : Nat) (s : State) : Out := .next (s.modTeam team (fun t => { t with halted := false, held := false }))

end Sys2Proof.Machine
end

