-- ==== Sys2Proof/Machine/Atomics.lean ====
section
/-! DEFINITION. ATOM and the execution of its lanes at the home slices (17, R269 to R271). -/

namespace Sys2Proof.Machine

/-- The lane registers that an ATOM names (R269). -/
def atomicNames (op : Nat) (w : Bool) (d a c : Nat) : List Nat :=
  (if w then [d, d + 1, a] else [d, a]) ++ (if op = 9 then (if w then [c, c + 1] else [c]) else [])

/-- The lane of an ATOM with the operands that it reads at issue. -/
def Team.atomicLane (t : Team) (stamp core op : Nat) (w nr acq : Bool) (d c lane : Nat) (l : Loc) : AtomLane :=
  { issued := stamp, team := t.key, core := core, addr := l.pa, repl := l.repl, op := op, wide := w, nr := nr,
    operand := if w then t.rd64 d lane else (t.rd d lane).zeroExtend 64,
    comparand := if op = 9 then (if w then t.rd64 c lane else (t.rd c lane).zeroExtend 64) else 0,
    acq := acq,
    key := t.phys d * 1024 + lane }

/-- ATOM (R260, R261, R269 to R271).  Its lanes execute by ATOMIC_EXECUTE; with .sc, whose tickets they take at issue, and where some
lanes do not translate, they are performed at once, so that a finished lane never repeats (R252, R263).  Address and operands are
read at issue, once (R52).  With an empty mask it only goes on (R39). -/
def execAtom (b : Bool) (q : BitVec 2) (d a : BitVec 7) (s' : BitVec 5) (op : BitVec 4) (w nr : Bool) (c : BitVec 7)
    (s : State) : Out :=
  if !s.team.namesOk (atomicNames op.toNat w d.toNat a.toNat c.toNat) then .next (s.illegal (.atom b q d a s' op w nr c))
  else
    let t := s.team.belay b
    let n := if w then 8 else 4
    let ls := s.lanesAt t .atomic (t.laneAddr (2 * s'.toNat) a.toNat 0)
    if t.acting = [] then .next (s.withTeam (t.advance 2)) else
    match precheck n ls with
    | some (c, l, va) => .next (s.vaTrap c l va)
    | none =>
      let ok := located ls
      let s1 := s.withTeam t
      let s1 := if q = 3 then s1.performSc.release else if q = 2 then s1.release else s1
      let s1 := s1.settleOver (spansOf n ok)
      let s1 := ok.foldl (fun s x => s.beforeLoad true (s.crew.coreOf t (x.1 / 32)) x.2.2 n) s1
      let s1 := (s1.withTeam (s1.team.fixLoads true (spansOf n ok))).touch ls
      let lanes := ok.map (fun x => t.atomicLane s.tick (s.crew.coreOf t (x.1 / 32)) op.toNat w nr (q == 1 || q == 3) d.toNat c.toNat x.1 x.2.2)
      let rest := unlocated .atomic ls
      if rest = [] ∧ q ≠ 3 then .next ({ s1 with atomics := s1.atomics ++ lanes }.finishAccess 2 [])
      else .next ((lanes.foldl (fun s x => s.atomicAt x) s1).finishAccess 2 rest)

/-- The lanes of a team's ATOMs that may execute next: those to one word go in the order of issue (R262, R270). -/
def nextAtomics : List AtomLane → List Nat → Nat → List Nat
  | [], _, _ => []
  | x :: rest, seen, k =>
    if x.addr / 8 ∈ seen then nextAtomics rest seen (k + 1) else k :: nextAtomics rest (x.addr / 8 :: seen) (k + 1)

/-- Two lanes of one ATOM name one address. -/
def AtomLane.together (x y : AtomLane) : Bool := x.team == y.team && x.issued == y.issued && x.addr == y.addr

/-- ATOMIC_EXECUTE: the lanes of an ATOM of the team that name one address execute in strand order, one after another with nothing between
(R270, R285). -/
def execAtomicExecute (team : Nat) (s : State) : Out :=
  let mine := s.atomics.filter (fun x => x.team == team)
  let ready := nextAtomics mine [] 0
  match mine[ready.getD (Config.freeChoice s.tick % ready.length) 0]? with
  | none => .next s
  | some x =>
    .next ((mine.filter x.together).foldl State.atomicAt { s with atomics := s.atomics.filter (fun y => !x.together y) })

end Sys2Proof.Machine
end

