-- ==== Sys2Proof/Machine/Flags.lean ====
section
/-! DEFINITION. The flag computations of the scalar forms (R115) and the branch conditions read from them (R12). -/

namespace Sys2Proof.Machine

/-- The flags of an addition, from the wrapped result (R115). -/
def addFlags {w : Nat} (a c : BitVec w) : Flags :=
  { z := (a + c) == 0, n := (a + c).msb, c := decide (2 ^ w ≤ a.toNat + c.toNat),
    v := decide ((a + c).toInt ≠ a.toInt + c.toInt) }

/-- The flags of a subtraction: C is set where there is no borrow (R115). -/
def subFlags {w : Nat} (a c : BitVec w) : Flags :=
  { z := (a - c) == 0, n := (a - c).msb, c := decide (c.toNat ≤ a.toNat),
    v := decide ((a - c).toInt ≠ a.toInt - c.toInt) }

/-- The flags of VANY, VALL, TAG.CHK and REC.TRY: Z from the result, the others clear (R115). -/
def zeroFlags (d : Word) : Flags := { z := d == 0, n := false, c := false, v := false }

/-- A branch condition, by its COND code (R12).  Code 0xF is no instruction. -/
def Flags.holds (f : Flags) (cc : BitVec 4) : Bool :=
  match cc.toNat with
  | 0 => f.z
  | 1 => !f.z
  | 2 => f.c
  | 3 => !f.c
  | 4 => f.n
  | 5 => !f.n
  | 6 => f.v
  | 7 => !f.v
  | 8 => f.c && !f.z
  | 9 => !f.c || f.z
  | 10 => f.n == f.v
  | 11 => f.n != f.v
  | 12 => !f.z && (f.n == f.v)
  | 13 => f.z || (f.n != f.v)
  | _ => true

/-- The four flags as the register image holds them (R63). -/
def Flags.toWord (f : Flags) : Word := BitVec.ofNat 32 (f.z.toNat * 8 + f.n.toNat * 4 + f.c.toNat * 2 + f.v.toNat)

/-- The flags that a word of the register image sets (R63). -/
def Flags.ofWord (w : Word) : Flags := { z := w.getLsbD 3, n := w.getLsbD 2, c := w.getLsbD 1, v := w.getLsbD 0 }

end Sys2Proof.Machine
end

