-- ==== Sys2Proof/Machine/Scratch.lean ====
section
/-! DEFINITION. The crew's scratchpad: its mappings (06, R78; 13, R195, R196), which readers see which stores (03, R30; 10, R163;
13, R200; 14, R225; 17, R274), LDP and STP (17, R267) and the register image (05, R63, R64). -/

namespace Sys2Proof.Machine

/-! ## Mappings -/

/-- The storage byte of an address in a region (R195). -/
def tileByte (base width a : Nat) : Nat :=
  let i := (a - base) / 4
  a / 128 * 128 + (i % width + i / width) % 32 * 4 + a % 4

/-- The storage byte of an address under a mapping. -/
def SpadMap.byte (m : SpadMap) (a : Nat) : Nat :=
  match m with
  | .sw n => swizzle n a
  | .tile base width => tileByte base width a

/-- The declared region that holds an address (R194). -/
def Crew.regionOf (w : Crew) (a : Nat) : Option Tile :=
  w.tiles.find? (fun r => decide (r.base ≤ a) && decide (a < r.base + 4 * r.rows * r.width))

/-- The mapping of LDP, STP, CPY and CPY2D at an address (R196). -/
def Crew.mapAt (w : Crew) (sw a : Nat) : SpadMap :=
  match w.regionOf a with
  | some r => .tile r.base r.width
  | none => .sw sw

/-! ## Which value a reader sees -/

/-- What reads the scratchpad: LDP, the copy engine, the matrix array, or the canvas. -/
inductive ReaderKind where
  | lanes | copy | array | canvas
  deriving DecidableEq, Repr

/-- Who reads the scratchpad: the index of the team that it reads for, what reads, and when the read was issued. -/
structure Reader where
  team : Nat
  kind : ReaderKind
  stamp : Nat
  deriving DecidableEq, Repr

/-- A write is visible to a reader that was issued after it (R30, R163, R225, R274). -/
def Hidden.shows (h : Hidden) (r : Reader) : Bool :=
  match r.kind with
  | .lanes => h.lanesSee.contains r.team
  | .copy => h.lanesSee.contains r.team || h.fencedAt.any (fun f => decide (f ≤ r.stamp))
  | _ => h.enginesSee.contains r.team || h.fencedAt.any (fun f => decide (f ≤ r.stamp))

/-- A reader may still see the value from before a write.  The canvas always sees what it has stored itself for the team, since it
executes in order (R127, R163). -/
def Hidden.hides (h : Hidden) (r : Reader) : Bool :=
  if r.kind = .canvas ∧ h.due = some 0 ∧ h.team = r.team then false else decide (r.stamp < h.stamp) || !h.shows r

/-- A listed write has written a storage byte. -/
def Hidden.holds (h : Hidden) (p : Nat) : Bool := decide (h.base ≤ p) && decide (p < h.base + h.old.length)

/-- A reader misses a listed write: it need not see it yet, and of what was written whole it has reached the reader or not, by a free choice
(R163, R222, R225). -/
def State.misses (s : State) (r : Reader) (h : Hidden) : Bool := h.hides r && s.free 5 (h.whole + 2 ^ 20 * h.stamp)

/-- The value of a storage byte for a reader, from the newest write back. -/
def readThrough (misses : Hidden → Bool) (p : Nat) : List Hidden → Byte → Byte
  | [], cur => cur
  | h :: rest, cur =>
    if h.holds p then if misses h then readThrough misses p rest (h.old.getD (p - h.base) 0) else cur
    else readThrough misses p rest cur

/-- The listed write whose value a reader finds in a storage byte. -/
def foundIn (misses : Hidden → Bool) (p : Nat) (hs : List Hidden) : Option Hidden := hs.find? (fun h => h.holds p && !misses h)

/-- A storage byte as a reader of a crew sees it. -/
def State.spadByte (s : State) (w : Crew) (r : Reader) (p : Nat) : Byte := readThrough (s.misses r) p w.hidden (w.spad.get p)

/-- The `n` bytes at an address as a reader sees them, under a mapping. -/
def State.spadRead (s : State) (w : Crew) (r : Reader) (m : SpadMap) (a n : Nat) : List Byte :=
  (List.range n).map (fun i => s.spadByte w r (m.byte (a + i)))

/-- Operations of a crew's engines that have not finished: later stores may still miss them. -/
def State.enginesBusy (s : State) (w : Crew) : Bool :=
  !w.canvas.queue.isEmpty
    || s.ops.any (fun o => o.crew == w.key && !o.done && (match o.work with | .lda _ _ => false | .nothing => false | _ => true))

/-- A byte of the storage in a range is listed with an old value. -/
def Crew.listed (w : Crew) (p n : Nat) : Bool :=
  w.hidden.any (fun h => decide (h.base < p + n) && decide (p < h.base + h.old.length))

/-- Write bytes of the storage that lie together and belong to a word or unit that is written whole.  The old bytes stay listed while some
reader may miss the write, or an earlier one to those bytes. -/
def Crew.put (w : Crew) (keep : Bool) (team : Nat) (due : Option Nat) (stamp whole p : Nat) (bytes : List Byte) : Crew :=
  let old := (List.range bytes.length).map (fun i => w.spad.get (p + i))
  let see := if due.isNone then [team] else []
  { w with
    spad := (List.range bytes.length).foldl (fun m i => m.set (p + i) (bytes.getD i 0)) w.spad
    hidden := if keep || w.listed p bytes.length then ⟨p, old, team, due, stamp, whole, see, see, [], [], none⟩ :: w.hidden else w.hidden }

/-- Write bytes at an address under a mapping, word by word. -/
def Crew.write (w : Crew) (keep : Bool) (team : Nat) (due : Option Nat) (stamp : Nat) (m : SpadMap) (a : Nat) (bytes : List Byte) : Crew :=
  if bytes.length ≤ 4 then w.put keep team due stamp (m.byte a / 4) (m.byte a) bytes
  else
    (List.range (bytes.length / 4)).foldl
      (fun w i => w.put keep team due stamp (m.byte (a + 4 * i) / 4) (m.byte (a + 4 * i)) ((bytes.drop (4 * i)).take 4)) w

/-- Write a 16-byte unit of a copy at an address under a mapping, indivisibly (R222): `due` is its batch plus 1. -/
def Crew.writeUnit (w : Crew) (team due stamp : Nat) (m : SpadMap) (a : Nat) (bytes : List Byte) : Crew :=
  (List.range 4).foldl (fun w i => w.put true team (some due) stamp (2 ^ 19 + a / 16) (m.byte (a + 4 * i)) ((bytes.drop (4 * i)).take 4)) w

/-- Writes that every team sees, and that no engine operation can miss, need no listing. -/
def Crew.prune (w : Crew) (oldest : Nat) : Crew :=
  { w with hidden := w.hidden.filter (fun h =>
      !((List.range w.nteams).all (fun k => h.lanesSee.contains k
          && (h.enginesSee.contains k || h.fencedAt.any (fun f => decide (f ≤ oldest)))) && decide (h.stamp ≤ oldest))) }

/-- When the oldest engine operation of a crew that has not finished was issued; now when there is none. -/
def State.oldestEngine (s : State) (w : Crew) : Nat :=
  let a := (w.canvas.queue.map (fun c => c.stamp)).foldl Nat.min s.tick
  ((s.ops.filter (fun o => o.crew == w.key && !o.done)).map (fun o => o.stamp)).foldl Nat.min a

/-- The writes that a crew's barrier makes visible to the teams that leave it (R30): those of the teams that arrived or have
exited; for the engines with a BAR.X form or a FENCE.MX. -/
def Hidden.pass (h : Hidden) (leaving gone : List Nat) (x : Bool) : Hidden :=
  let own := h.due.isNone && (leaving.contains h.team || gone.contains h.team)
  let fenced := h.fencers.any (fun k => leaving.contains k || gone.contains k)
  { h with
    lanesSee := if own || fenced then (h.lanesSee ++ leaving).eraseDups else h.lanesSee
    enginesSee := if (own && x) || fenced then (h.enginesSee ++ leaving).eraseDups else h.enginesSee }

/-- FENCE.MX of a team (R274): the writes that it has made or observed are visible to the engine operations that its crew issues from
now on; those of a scope that does not cover the crew only to the team's own (R30, R287). -/
def Hidden.fence (h : Hidden) (team now : Nat) (wide : Bool) : Hidden :=
  if h.due.isNone && (h.lanesSee.contains team || h.readers.contains team) then
    { h with enginesSee := (team :: h.enginesSee).eraseDups, fencers := if wide then (team :: h.fencers).eraseDups else h.fencers
             fencedAt := if wide then h.fencedAt.or (some now) else h.fencedAt }
  else h

/-- A team observes that its engine operations have written: the copies of batches up to one, or the canvas's stores. -/
def Hidden.observe (h : Hidden) (team : Nat) (seen : Nat → Bool) : Hidden :=
  match h.due with
  | some d => if h.team = team ∧ seen d = true then { h with due := none, lanesSee := [team], enginesSee := [team] } else h
  | none => h

/-- The issuing crew after one of those. -/
def State.mapHidden (s : State) (f : Hidden → Hidden) : State :=
  { s with crew := { s.crew with hidden := s.crew.hidden.map f }.prune (s.oldestEngine s.crew) }

/-! ## LDP and STP (R267) -/

/-- The range checks of LDP and STP, over every active lane (R261, R267). -/
def spadCheck (size limit : Nat) (addr : Nat → Nat) (ls : List Nat) : Option (Nat × Nat) :=
  match ls.find? (fun l => addr l % size != 0) with
  | some l => some (0x03, l)
  | none =>
    match ls.find? (fun l => decide (limit < addr l + size)) with
    | some l => some (0x05, l)
    | none => none

/-- The reader that a lane access of the issuing team is. -/
def State.laneReader (s : State) : Reader := ⟨s.team.index, .lanes, s.tick⟩

/-- The storage bytes of a lane access of `n` bytes at an address (R196). -/
def Crew.bytesAt (w : Crew) (sw n a : Nat) : List Nat := (List.range n).map (fun i => (w.mapAt sw a).byte (a + i))

/-- The issuing team has read storage bytes with LDP: it has observed the stores whose values it found (R273, R274). -/
def State.sawPad (s : State) (ps : List Nat) : State :=
  if s.crew.hidden = [] then s
  else
    let found := ps.filterMap (fun p => foundIn (s.misses s.laneReader) p s.crew.hidden)
    { s with crew := { s.crew with hidden := s.crew.hidden.map (fun h =>
        if found.contains h then { h with readers := (s.team.index :: h.readers).eraseDups } else h) } }

/-- LDP of the scratchpad. -/
def loadPad (b : Bool) (sw d a ty : Nat) (off : Word) (len : Nat) (s : State) : Out :=
  let t := s.team.belay b
  match spadCheck (typeSize ty) s.crew.spadSize (t.spadAddr a off) t.active with
  | some (c, l) => .next (s.vaTrap c l (t.spadAddr a off l))
  | none =>
    let got := t.active.flatMap (fun l =>
      let p := t.spadAddr a off l
      let v := extendLoad ty (ofLeBytes (s.spadRead s.crew s.laneReader (s.crew.mapAt sw p) p (typeSize ty)))
      laneWrites (t.phys d) l ty v s.tick none)
    let read := t.active.flatMap (fun l => s.crew.bytesAt sw (typeSize ty) (t.spadAddr a off l))
    .next ((s.sawPad read).withTeam ({ t with unchecked := t.unchecked ++ got }.advance len))

/-- STP of the scratchpad: the lanes in strand order (R262). -/
def storePad (b : Bool) (sw d a ty : Nat) (off : Word) (len : Nat) (s : State) : Out :=
  let t := s.team.belay b
  match spadCheck (typeSize ty) s.crew.spadSize (t.spadAddr a off) t.active with
  | some (c, l) => .next (s.vaTrap c l (t.spadAddr a off l))
  | none =>
    let keep := decide (1 < s.crew.nteams) || s.enginesBusy s.crew
    let w := t.active.foldl (fun (w : Crew) l =>
      let p := t.spadAddr a off l
      w.write keep t.index none s.tick (w.mapAt sw p) p (leBytes (typeSize ty) (t.storeData ty d l))) s.crew
    .next { s with team := t.advance len, crew := w }

/-! ## The register image (R63, R64) -/

/-- The offset at which the scalars of a team's image begin. -/
def Team.imageW (t : Team) : Nat := 128 * t.strands * (t.alloc + 16)

/-- The word of the image at a word-aligned offset. -/
def Team.imageRead (t : Team) (off : Nat) : Word :=
  let w := t.imageW
  if off < w then
    let i := off / 4
    t.lanes.get (i / (32 * t.strands) * 1024 + i % (32 * t.strands))
  else if off < w + 288 then t.scalars.get ((off - w) / 4)
  else if off < w + 1184 then
    let n := (off - w - 288) / 128 + 1
    let j := (off - w - 288) % 128 / 4
    if j < t.strands then BitVec.ofNat 32 ((t.preds.get n).toNat / 2 ^ (32 * j)) else 0
  else t.flags.toWord

/-- The team with a word of its image written.  DEDUCED: the flags word too (log entry 85). -/
def Team.imageWrite (t : Team) (off : Nat) (v : Word) : Team :=
  let w := t.imageW
  if off < w then
    let i := off / 4
    { t with lanes := t.lanes.set (i / (32 * t.strands) * 1024 + i % (32 * t.strands)) v }
  else if off < w + 288 then { t with scalars := t.scalars.set ((off - w) / 4) v }
  else if off < w + 1184 then
    let n := (off - w - 288) / 128 + 1
    let j := (off - w - 288) % 128 / 4
    if j < t.strands then
      let keep : Mask := ~~~(BitVec.ofNat 1024 ((2 ^ 32 - 1) * 2 ^ (32 * j)))
      { t with preds := t.preds.set n ((t.preds.get n &&& keep) ||| BitVec.ofNat 1024 (v.toNat * 2 ^ (32 * j))) }
    else t
  else { t with flags := Flags.ofWord v }

/-- LDP with .reg. -/
def loadImage (b : Bool) (d a : Nat) (off : Word) (len : Nat) (s : State) : Out :=
  let t := s.team.belay b
  match spadCheck 4 (t.imageW + 1188) (t.spadAddr a off) t.active with
  | some (c, l) => .next (s.vaTrap c l (t.spadAddr a off l))
  | none =>
    let got := t.active.map (fun l => (⟨false, t.phys d * 1024 + l, t.imageRead (t.spadAddr a off l), true, s.tick, none⟩ : RegWrite))
    .next (s.withTeam ({ t with unchecked := t.unchecked ++ got }.advance len))

/-- STP with .reg: the lanes' sources are read before any of them writes. -/
def storeImage (b : Bool) (d a : Nat) (off : Word) (len : Nat) (s : State) : Out :=
  let t := s.team.belay b
  match spadCheck 4 (t.imageW + 1188) (t.spadAddr a off) t.active with
  | some (c, l) => .next (s.vaTrap c l (t.spadAddr a off l))
  | none =>
    let src := t.active.map (fun l => (t.spadAddr a off l, t.rd d l))
    .next (s.withTeam ((src.foldl (fun t x => t.imageWrite x.1 x.2) t).advance len))

/-- LDP (R267). -/
def execLdp (b : Bool) (w : BitVec 3) (d a : BitVec 7) (t : BitVec 3) (r : Bool) (s : State) : Out :=
  if !s.team.namesOk (accessNames t.toNat d.toNat a.toNat) then .next (s.illegal (.ldp b w d a t r))
  else if r then loadImage b d.toNat a.toNat 0 1 s else loadPad b w.toNat d.toNat a.toNat t.toNat 0 1 s

/-- LDP with an offset word. -/
def execLdpOffset (b : Bool) (w : BitVec 3) (d a : BitVec 7) (t : BitVec 3) (r : Bool) (off : BitVec 32) (s : State) : Out :=
  if !s.team.namesOk (accessNames t.toNat d.toNat a.toNat) then .next (s.illegal (.ldpOffset b w d a t r off))
  else if r then loadImage b d.toNat a.toNat off 2 s else loadPad b w.toNat d.toNat a.toNat t.toNat off 2 s

/-- STP (R267). -/
def execStp (b : Bool) (w : BitVec 3) (d a : BitVec 7) (t : BitVec 3) (r : Bool) (s : State) : Out :=
  if !s.team.namesOk (accessNames t.toNat d.toNat a.toNat) then .next (s.illegal (.stp b w d a t r))
  else if r then storeImage b d.toNat a.toNat 0 1 s else storePad b w.toNat d.toNat a.toNat t.toNat 0 1 s

/-- STP with an offset word. -/
def execStpOffset (b : Bool) (w : BitVec 3) (d a : BitVec 7) (t : BitVec 3) (r : Bool) (off : BitVec 32) (s : State) : Out :=
  if !s.team.namesOk (accessNames t.toNat d.toNat a.toNat) then .next (s.illegal (.stpOffset b w d a t r off))
  else if r then storeImage b d.toNat a.toNat off 2 s else storePad b w.toNat d.toNat a.toNat t.toNat off 2 s

end Sys2Proof.Machine
end

