-- ==== Sys2Proof/Machine/Batches.lean ====
section
/-! DEFINITION. Asynchronous operations, batches and the landing buffer (05, R67, R68; 17, R266, R275): BATCH, WAITB, COMMIT, LDA
and its landing. -/

namespace Sys2Proof.Machine

/-- The operations of a team. -/
def State.opsOf (s : State) (k : Nat) : List AsyncOp := s.ops.filter (fun o => o.team == k)

/-- The team still holds a replay mask for the LDA at an address (R252, R266). -/
def Team.replays (t : Team) (pc : Nat) : Bool :=
  (t.replay.isSome && t.pc.toNat == pc) || (t.trap.mode && t.trap.savedReplay.isSome && t.trap.pc.toNat == pc)

/-- An operation has completed. -/
def AsyncOp.complete (o : AsyncOp) (t : Team) : Bool :=
  o.done ||
    (match o.work with
     | .lda todo more => todo.isEmpty && !(more && t.replays o.pc)
     | _ => false)

/-- A batch of a team and every earlier batch have completed (R68). -/
def State.batchDone (s : State) (t : Team) (n : Nat) : Bool :=
  (s.opsOf t.key).all (fun o => decide (n < o.batch) || o.complete t)

/-- The landing quota that a team's operations hold (R67). -/
def State.quotaUsed (s : State) (k : Nat) : Nat := ((s.opsOf k).map (fun o => o.quota)).sum

/-- An operation that has nothing left to give is forgotten. -/
def AsyncOp.spent (o : AsyncOp) : Bool := o.done && o.landed.isEmpty && o.quota == 0 && o.cause.isNone

/-- The team is ready again at the instruction it is parked at, which then executes again. -/
def Team.again (t : Team) : Team := { t with state := .ready, park := .awake }

/-- The batch that a parked team waits for. -/
def Park.batch? : Park → Option Nat
  | .commit n => some n
  | .waitb n => some n
  | .batchRange n => some n
  | _ => none

/-- What follows the completion of operations of a team: it wakes when the batch it waits for has completed (R42). -/
def State.afterOps (s : State) (k : Nat) : State :=
  match s.team? k with
  | none => { s with ops := s.ops.filter (fun o => !o.spent && !(o.done && o.team == k)) }
  | some t =>
    let t1 := match t.park.batch? with
      | some n => if t.state = TeamState.parked ∧ s.batchDone t n then t.again else t
      | none => t
    { (s.modTeam k (fun _ => t1)) with ops := s.ops.filter (fun o => !o.spent) }

/-- Change the operation with an identifier. -/
def State.modOp (s : State) (id : Nat) (f : AsyncOp → AsyncOp) : State :=
  { s with ops := s.ops.map (fun o => if o.id = id then f o else o) }

/-- The operation with an identifier. -/
def State.op? (s : State) (id : Nat) : Option AsyncOp := s.ops.find? (fun o => o.id == id)

/-- A new operation of the issuing team joins its open batch. -/
def State.addOp (s : State) (work : OpWork) (quota : Nat) (acq : Bool := false) : State :=
  { s with
    nextKey := s.nextKey + 1
    ops := s.ops ++ [{ id := s.nextKey, team := s.team.key, crew := s.team.crew, ctx := s.team.ctx, core := s.home,
                       batch := s.team.openBatch, pc := s.team.pc.toNat, work := work, landed := [], quota := quota,
                       done := false, cause := none, net := false, faulted := [], stamp := s.tick, acq := acq }] }

/-- The completion of an operation orders what its team accesses once the batch is observed: one with .acq does, and one that has written
memory (R224, R281, R292). -/
def AsyncOp.orders (o : AsyncOp) : Bool :=
  o.acq || (match o.work with
    | .copy out _ _ _ _ _ => out
    | .accSt _ _ _ _ _ _ _ => true
    | .remote _ _ => true
    | .ring _ _ _ _ => true
    | _ => false)

/-- An operation completes, with its data for COMMIT and its deferred cause. -/
def State.finishOp (s : State) (o : AsyncOp) (landed : List RegWrite) (cause : Option (Nat × BitVec 64)) : State :=
  ((if o.orders then s.modTeam o.team (fun t => t.acquiredIn o.batch s.tick) else s).modOp o.id (fun o => { o with done := true, landed := landed, cause := cause })).afterOps o.team

/-- TRAPINFO of cause 0x20: the bytes the operation needs and the quota bytes free (R325). -/
def quotaInfo (need free : Nat) : BitVec 64 := BitVec.ofNat 64 (need % 2 ^ 32 + free % 2 ^ 32 * 2 ^ 32)

/-- The quota bytes that the issuing team has free. -/
def State.quotaFree (s : State) : Nat := s.team.landQuota - s.quotaUsed s.team.key

/-! ## BATCH, WAITB, COMMIT -/

/-- The number, counted from launch, of the batch that an 8-bit number names, among the latest 128 closed ones; `none` when it
names none of them (R68).  Before launch's first batch there is nothing: such a number is taken as -1. -/
def Team.namedBatch (t : Team) (n8 : Nat) : Option Int :=
  if t.closedAny = false then none
  else
    let back := (t.openBatch - 1 + 256 * 256 - n8 % 256) % 256
    if 127 < back then none else some (((t.openBatch - 1 : Nat) : Int) - back)

/-- The data of a completed batch that leaves the range is discarded, with its deferred causes (R68, R275). -/
def State.discardBatch (s : State) (k : Nat) (p : Nat → Bool) : State :=
  { s with
    ops := (s.ops.map (fun o =>
      if o.team = k ∧ p o.batch = true then { o with done := true, landed := [], quota := 0, cause := none } else o)).filter
        (fun o => !o.spent) }

/-- BATCH: closes the open batch and opens the next (R68, R275). -/
def execBatch (b : Bool) (d : BitVec 6) (s : State) : Out :=
  let t := s.team.belay b
  let n := t.openBatch
  if 128 ≤ n ∧ !s.batchDone t (n - 128) then
    .next (s.withTeam { t with state := .parked, park := .batchRange (n - 128) })
  else
    let s := if 128 ≤ n then s.discardBatch t.key (fun k => decide (k ≤ n - 128)) else s
    .next (s.withTeam ({ (t.swr d.toNat (BitVec.ofNat 32 (n % 256))) with
      openBatch := n + 1, closedAny := true, committed := t.committed.filter (fun k => decide (n < k + 128)) }.advance 1))

/-- The cause that a WAITB or COMMIT that observes the batches up to `n` raises: of the lowest batch that carries a due one, the
earliest operation's; 0x0A falls due only at a COMMIT of its own batch with NETTRAP.EN = 1 (R175, R275).  DESIGN CHOICE: a COMMIT with
NETTRAP.EN = 0 leaves the cause with its operation, so that a later COMMIT of the batch with EN = 1 raises it (log entry 93). -/
def State.dueOp (s : State) (k n : Nat) (commit : Bool) : Option AsyncOp :=
  let due := (s.opsOf k).filter (fun o =>
    decide (o.batch ≤ n) && (match o.cause with
      | some (c, _) => if c = 0x0A then commit && o.batch == n && (s.creg 5 == 1) else true
      | none => false))
  due.foldl (fun best o => match best with
    | none => some o
    | some p => if o.batch < p.batch ∨ (o.batch = p.batch ∧ o.id < p.id) then some o else some p) none

/-- The faulted lanes of the NETV and NETS of a batch (R175). -/
def State.faultedIn (s : State) (k n : Nat) : Nat :=
  (((s.opsOf k).filter (fun o => o.batch == n)).flatMap (fun o => o.faulted)).eraseDups.length

/-- A deferred cause is cleared: cause 0x0A from every NETV and NETS of its batch, which a COMMIT raises as one (R175, R275). -/
def State.clearCause (s : State) (o : AsyncOp) (c : Nat) : State :=
  let ops := s.ops.map (fun x =>
    if x.id = o.id ∨ (c = 0x0A ∧ x.team = o.team ∧ x.batch = o.batch ∧ x.net = true) then { x with cause := none } else x)
  { s with ops := ops.filter (fun x => !x.spent) }

/-- The end of a WAITB or COMMIT: the copies of the observed batches are seen (R225), the acquiring operations of these batches order the
team's later accesses (R224, R266), and at most one due cause is raised and
cleared (R275). -/
def State.observe (s : State) (n : Nat) (commit : Bool) : State :=
  let s := s.mapHidden (fun h => h.observe s.team.index (fun d => decide (0 < d) && decide (d ≤ n + 1)))
  let s := s.withTeam (s.team.observeBatch n)
  match s.dueOp s.team.key n commit with
  | some o =>
    match o.cause with
    | some (c, info) =>
      let info := if c = 0x0A then BitVec.ofNat 64 (o.batch % 256 + s.faultedIn o.team o.batch * 256) else info
      (s.clearCause o c).trapHere c info
    | none => s
  | none => s.withTeam (s.team.advance 1)

/-- WAITB (R275). -/
def execWaitb (b : Bool) (a : BitVec 6) (s : State) : Out :=
  let t := s.team.belay b
  match t.namedBatch (t.srd a.toNat).toNat with
  | none => .next (s.illegal (.waitb b a))
  | some (.negSucc _) => .next (s.withTeam (t.advance 1))
  | some (.ofNat n) =>
    if s.batchDone t n then .next ((s.withTeam t).observe n false)
    else .next (s.withTeam { t with state := .parked, park := .waitb n })

/-- NETSTAT of a lane after a COMMIT has written a lane-network poison into it (R60, R175). -/
def markNetstat (old : Word) (batch : Nat) : Word :=
  if old.getLsbD 0 then old else BitVec.ofNat 32 (1 + batch % 256 * 256)

/-- The lanes for which a NETV or NETS holds a lane-network poison, of either sign (R175, R183). -/
def poisonLanes (o : AsyncOp) : List Nat :=
  if o.net then ((o.landed.filter (fun w => !w.scalar && w.val.toNat % 2 ^ 31 == 0x7FC8000A)).map (fun w => w.key % 1024)).eraseDups
  else []

/-- COMMIT writes the landed data of a batch, in issue order, and frees its quota (R53, R57, R275). -/
def State.commitBatch (s : State) (n : Nat) : State :=
  let mine := (s.opsOf s.team.key).filter (fun o => o.batch == n)
  let t := mine.foldl (fun t o => o.landed.foldl Team.land t) s.team
  let ns := mine.foldl (fun m o => (poisonLanes o).foldl (fun m l => m.set l (markNetstat (m.get l) n)) m) t.netstat
  { s with
    team := { t with netstat := ns, committed := n :: t.committed }
    ops := (s.ops.map (fun o => if o.team = s.team.key ∧ o.batch = n then { o with done := true, landed := [], quota := 0 } else o)).filter
      (fun o => !o.spent) }

/-- COMMIT (R15, R275). -/
def execCommit (b : Bool) (a : BitVec 6) (s : State) : Out :=
  let t := s.team.belay b
  match t.namedBatch (t.srd a.toNat).toNat with
  | none => .next (s.illegal (.commit b a))
  | some (.negSucc _) => .next (s.withTeam (t.advance 1))
  | some (.ofNat n) =>
    if s.batchDone t n then
      let s := s.withTeam t
      let s := if n ∈ t.committed then s else s.commitBatch n
      .next (s.observe n true)
    else .next (s.withTeam { t with state := .parked, park := .commit n })

/-! ## LDA -/

/-- The landing quota of an LDA: 128 bytes, or 256 for .b64, for each strand with an active lane (R266). -/
def Team.ldaQuota (t : Team) (ty : Nat) : Nat :=
  ((List.range t.strands).countP (fun j => t.acting.any (fun l => l / 32 == j))) * (if ty = 3 then 256 else 128)

/-- The operation of this LDA that its replayed lanes join (R266). -/
def State.replayedOp (s : State) (t : Team) : Option AsyncOp :=
  if t.replay.isSome then
    (s.opsOf t.key).find? (fun o => o.pc == t.pc.toNat && (match o.work with | .lda _ more => more | _ => false))
  else none

/-- A lane of an LDA as it issues; with .sc it reads its value in the order of its ticket (R263, R266). -/
def State.ldaLane (s : State) (q : BitVec 2) (ty d : Nat) (x : Nat × Nat × Loc) : LdaLane :=
  { lane := x.1, loc := x.2.2, type := ty, bypass := q != 0, acq := q == 1 || q == 2, reg := s.team.phys d,
    val := if q = 2 then some (extendLoad ty (s.loadVal (s.crew.coreOf s.team (x.1 / 32)) s.team.key true x.2.2 (typeSize ty))) else none }

/-- The lanes of an LDA.sc have read their values, in the order of their tickets: what they have observed counts, no later access of the team that
bypasses L1 finds an older value nor an earlier one a younger, and what follows the batch follows them (R263, R266, R273, R289). -/
def State.ldaSc (s : State) (batch n : Nat) (ok : List (Nat × Nat × Loc)) : State :=
  let core := fun (x : Nat × Nat × Loc) => s.crew.coreOf s.team (x.1 / 32)
  let s1 := ok.foldl (fun s1 x => s1.afterLoad s1.team.key 2 (core x) x.2.2 n s.tick) s
  let t := (ok.filter (fun x => !x.2.2.ws)).foldl (fun t x => t.saw (x.2.2.readAddr (core x) 0) n s.tick s.tick) s1.team
  s1.withTeam ((t.fixLoads false (spansOf n ok)).acquiredIn batch s.tick)

/-- LDA with a lane's address given by base pair, lane offset and offset word (R266).  DESIGN CHOICE: causes 0x03, 0x05 and 0x07 of the checks
before every lane's action come before cause 0x20, and that before a park or cause 0x05 of a lane (log entry 90).  With an empty mask it
only goes on (R39). -/
def loadAsync (i : Instr) (b : Bool) (q : BitVec 2) (ty : BitVec 3) (d a : BitVec 7) (base : Nat) (off : Int) (len : Nat)
    (s : State) : Out :=
  if !s.team.namesOk (accessNames ty.toNat d.toNat a.toNat) then .next (s.illegal i)
  else
    let t := s.team.belay b
    let ls := s.lanesAt t .read (t.laneAddr base a.toNat off)
    if t.acting = [] then .next (s.withTeam (t.advance len)) else
    match precheck (typeSize ty.toNat) ls with
    | some (c, l, va) => .next (s.vaTrap c l va)
    | none =>
      let s0 := (s.withTeam t).prepareLoad q (typeSize ty.toNat) (located ls)
      let t := s0.team
      let todo := (located ls).map (fun x => s0.ldaLane q ty.toNat d.toNat x)
      let rest := unlocated .read ls
      match s0.replayedOp t with
      | some o =>
        let s1 := s0.modOp o.id (fun o => { o with work := match o.work with
          | .lda old _ => .lda (old ++ todo) (decide (rest ≠ []))
          | w => w })
        let s1 := if q = 2 then s1.ldaSc o.batch (typeSize ty.toNat) (located ls) else s1
        .next ((s1.touch ls).finishAccess len rest)
      | none =>
        if s0.quotaFree < t.ldaQuota ty.toNat then .next (s.trapHere 0x20 (quotaInfo (t.ldaQuota ty.toNat) s0.quotaFree))
        else
          let s1 := s0.addOp (.lda todo (decide (rest ≠ []))) (t.ldaQuota ty.toNat)
          let s1 := if q = 2 then s1.ldaSc t.openBatch (typeSize ty.toNat) (located ls) else s1
          .next ((s1.touch ls).finishAccess len rest)

/-- LDA (R266). -/
def execLda (b : Bool) (q : BitVec 2) (t : BitVec 3) (d a : BitVec 7) (s' : BitVec 5) (s : State) : Out :=
  loadAsync (.lda b q t d a s') b q t d a (2 * s'.toNat) 0 1 s

/-- LDA with an offset word (R260, R266). -/
def execLdaOffset (b : Bool) (q : BitVec 2) (t : BitVec 3) (d a : BitVec 7) (s' : BitVec 5) (off : BitVec 32) (s : State) : Out :=
  loadAsync (.ldaOffset b q t d a s' off) b q t d a (2 * s'.toNat) (offsetOf off) 2 s

/-- LDA_LAND: a lane of an LDA reads its value, which lands (R266). -/
def execLdaLand (op lane : Nat) (s : State) : Out :=
  match s.op? op with
  | none => .next s
  | some o =>
    match o.work with
    | .lda todo _ =>
      match todo.find? (fun l => l.lane == lane) with
      | none => .next s
      | some l => .next ((s.landLane o l).afterOps o.team)
    | _ => .next s

end Sys2Proof.Machine
end

