-- ==== Sys2Proof/Machine/Rig.lean ====
section
/-! DEFINITION. Records in memory that the device reads for itself: fields, tag words (13, R208), and the rig table as the dispatcher
takes it (13, R210, R211; 20, R305). -/

namespace Sys2Proof.Machine

/-! ## Fields and tags -/

/-- A field of a record in memory (R3). -/
def fieldAt (b : List Byte) (off n : Nat) : Nat := ofLeBytes ((b.drop off).take n)

/-- The four fields of a tag word: value, wildcard, and the first reserved code (R208). -/
def tagFields (tag : Nat) : List (Nat × Nat × Nat) :=
  [(bits tag 15 12, 15, 15), (bits tag 11 8, 15, 3), (bits tag 7 5, 7, 3), (bits tag 4 0, 31, 10)]

/-- A tag holds a reserved or wildcard code (R208). -/
def tagReserved (tag : Nat) : Bool := (tagFields tag).any (fun f => decide (f.2.2 ≤ f.1))

/-- A key matches a tag (R208, R211). -/
def tagMatches (key tag : Nat) : Bool :=
  (List.zip (tagFields key) (tagFields tag)).all (fun p =>
    p.1.1 == p.1.2.1 || (decide (p.2.1 < p.2.2.2) && p.1.1 == p.2.1))

/-! ## Reading for the dispatcher -/

/-- A byte at a virtual address of a context, read for the dispatcher. -/
def State.readByteFor (s : State) (c : Context) (va : Nat) : Option Nat :=
  match s.translateFor c 0 va .read with
  | .ok l => some (s.farByte 0 l 0).toNat
  | .error _ => none

/-- `n` bytes at a virtual address of a context; `none` where one is not readable. -/
def State.readFor (s : State) (c : Context) (va n : Nat) : Option (List Nat) := (List.range n).mapM (fun i => s.readByteFor c (va + i))

/-- Some bytes at a virtual address of a context have been read for the dispatcher (R398). -/
def State.readDone (s : State) (c : Context) (va n : Nat) : State :=
  if s.dev.injections = [] then s
  else
    (List.range n).foldl (fun s i => match s.translateFor c 0 (va + i) .read with | .ok l => s.hasRead 0 [l] 1 | .error _ => s) s

/-! ## Accesses of the device's units to their areas (R247) -/

/-- The first of some addresses that does not translate for a unit of a die, with the cause. -/
def State.badOf (s : State) (c : Context) (die : Nat) (vas : List Nat) (acc : Access) : Option (Nat × Nat) :=
  vas.findSome? (fun v => match s.translateFor c die v acc with | .ok _ => none | .error e => some (v, e))

/-- The first address of a range that does not translate for a unit of the device, with the cause. -/
def State.firstBad (s : State) (c : Context) (va n : Nat) (acc : Access) : Option (Nat × Nat) :=
  s.badOf c 0 ((List.range n).map (fun i => va + i)) acc

/-- The address of a fault still does not translate for its unit (R247). -/
def State.stillFails (s : State) (c : Context) (f : DevFault) : Bool :=
  match s.translateFor c f.die f.va f.access with
  | .ok _ => false
  | .error _ => true

/-- A unit of the device cannot translate an address of a context on a die: the masthead kernel is told once, and the unit tries again (R247).
DESIGN CHOICE: the record has one entry in the form of R331 (log entry 78). -/
def State.deviceFault (s : State) (ck va cause : Nat) (acc : Access) (die : Nat := 0) (unit : Nat := 0) : State :=
  match s.ctx? ck with
  | none => s
  | some c =>
    if c.devFaults.any (fun f => f.va == va) then s
    else
      let record := recordHeader cause 0 ck 16 0 0 s.dev.dtime 0 0 0 ++ leBytes 8 va ++ leBytes 2 0 ++ leBytes 1 cause
        ++ leBytes 1 acc.code ++ leBytes 4 0
      let s := s.modCtx ck (fun c => { c with devFaults := ⟨unit, va, die, acc⟩ :: c.devFaults.filter (s.stillFails c) })
      { s with dev := s.dev.report (fun r => { r with service := r.service ++ [record] }) }

/-- The addresses of a range have been translated on a die: the masthead kernel has nothing more to map there, and the die's TLB holds
the leaf (R247, R251). -/
def State.deviceDone (s : State) (c : Context) (die va n : Nat) : State :=
  (s.fillDieTlb c die va).modCtx c.key (fun c =>
    { c with devFaults := c.devFaults.filter (fun f => decide (f.va < va) || decide (va + n ≤ f.va)) })

/-- A unit has done what it had asked the masthead kernel for, there or elsewhere. -/
def Context.unitDone (c : Context) (unit : Nat) : Context := { c with devFaults := c.devFaults.filter (fun f => f.unit != unit) }

/-- A unit of the device writes bytes at a virtual address of a context, and whether it has: where an address does not translate it
writes nothing and tries again, but an address that the kernel cannot map, of a context that has ended, is left (R31, R247). -/
def State.writeFor (s : State) (c : Context) (va : Nat) (bytes : List Byte) (unit : Nat := 0) : State × Bool :=
  match s.firstBad c va bytes.length .write with
  | some (a, e) => if a ∈ c.refusedVas then (s, true) else (s.deviceFault c.key a e .write 0 unit, false)
  | none =>
    ((List.range bytes.length).foldl (fun s i =>
      match s.translateFor c 0 (va + i) .write with
      | .ok l => s.writeThrough l 1 (bytes.getD i 0).toNat
      | .error _ => s) (s.deviceDone c 0 va bytes.length), true)

/-- The addresses of a context that a unit has asked the masthead kernel for and that it has not mapped (R247). -/
def State.unmapped (s : State) (c : Context) : List Nat := (c.devFaults.filter (s.stillFails c)).map (fun f => f.va)

/-- The masthead kernel cannot map an address that a unit has asked for: the context ends with cause 0x05, or, when it has ended
already, the unit leaves the address (R31, R247). -/
def State.cannotMap (s : State) (ck va : Nat) : State :=
  match s.ctx? ck with
  | none => s
  | some c =>
    if !(s.unmapped c).contains va then s
    else
    let s := s.modCtx ck (fun c => { c with devFaults := c.devFaults.filter (fun f => f.va != va), refusedVas := va :: c.refusedVas })
    if c.state = .terminated then s
    else s.terminate ck 0x05 (recordHeader 0x05 1 ck 8 0 0 s.dev.dtime 0 0 0 ++ leBytes 8 va)

/-! ## The rig table -/

/-- An entry of the rig table; one that breaks R211, or a conversion whose node cannot take its records (R305), is never
matched. -/
def rigEntry (nodes : List Node) (b : List Byte) : Option RigEntry :=
  let kind := fieldAt b 2 1 % 4
  let nopd := fieldAt b 2 1 / 4 % 4
  let keys := (List.range 3).map (fun o => fieldAt b (4 + 2 * o) 2)
  let op := fieldAt b 0 2
  let outTag := fieldAt b 10 2
  let cnode := fieldAt b 12 2
  let entry := fieldAt b 16 8
  let spare := fieldAt b 3 1 != 0 || fieldAt b 14 2 != 0 || fieldAt b 24 8 != 0
    || (List.range 3).any (fun o => decide (nopd ≤ o) && keys.getD o 0 != 0)
  let routine := kind == 1 && op != 0 && nopd != 0 && outTag == 0 && cnode == 0
  let convNode := ((nodes[cnode]?).map (fun n => decide (6 ≤ n.recWords))).getD false
  let conversion := kind == 2 && op == 0 && nopd == 1 && !tagReserved outTag && convNode && entry == 0
  if !spare && (routine || conversion) then
    some { op := op, kind := kind, nopd := nopd, reef := fieldAt b 2 1 / 16, keys := keys, outTag := outTag, cnode := cnode, entry := entry }
  else none

/-- A rig-table header breaks R210. -/
def rigHeaderBad (h : List Byte) : Bool :=
  fieldAt h 0 4 == 0 || decide (16384 < fieldAt h 0 4) || fieldAt h 6 2 != 0 || fieldAt h 8 8 % 64 != 0
    || (h.drop 20).any (fun x => x != 0)

/-- The context as the dispatcher leaves it when it has taken a rig-table header that breaks R210: no entry and no dead-record list. -/
def Context.withoutRig (c : Context) : Context := { c with rig := [], deadNode := 0xFFFF, deadBase := 0, deadCap := 0, rigTodo := none }

/-- The rig table at an address as the dispatcher takes it, with the bytes that it has read: the header with up to NENT entries, or the first
address that does not translate, with the cause (R210, R211, R247).  DESIGN CHOICE: how many entries of the dead-record list have been used
is carried on when a table with another list is taken (log entry 79). -/
def State.readRig (s : State) (c : Context) (base : Nat) : Except (Nat × Nat) (Context × Nat) :=
  match s.firstBad c base 64 .read with
  | some x => .error x
  | none =>
    let h : List Byte := ((s.readFor c base 64).getD []).map (BitVec.ofNat 8)
    if rigHeaderBad h then .ok (c.withoutRig, 64)
    else
      match s.firstBad c (base + 64) (32 * fieldAt h 0 4) .read with
      | some x => .error x
      | none =>
        let dead := fieldAt h 4 2
        let deadOk := ((c.nodes[dead]?).map (fun n => decide (4 ≤ n.recWords))).getD false
        .ok ({ c with
          rig := (List.range (fieldAt h 0 4)).filterMap (fun i =>
            (s.readFor c (base + 64 + 32 * i) 32).bind (fun b => rigEntry c.nodes (b.map (BitVec.ofNat 8))))
          deadNode := if deadOk then dead else 0xFFFF
          deadBase := fieldAt h 8 8
          deadCap := fieldAt h 16 4
          rigTodo := none }, 64 + 32 * fieldAt h 0 4)

/-- The dispatcher takes the rig table of a context that it has still to take; where an address does not translate, it tries again
later and keeps the table that it has (R210, R247). -/
def State.takeRig (s : State) (ck : Nat) : State :=
  match s.ctx? ck with
  | none => s
  | some c =>
    match c.rigTodo with
    | none => s
    | some base =>
      match s.readRig c base with
      | .ok (c', n) => ((s.readDone c base n).modCtx ck (fun _ => c')).deviceDone c 0 base n
      | .error (a, e) => s.deviceFault ck a e .read

end Sys2Proof.Machine
end

