-- ==== Sys2Proof/Machine/System.lean ====
section
/-! DEFINITION. System instructions of major 0x3E: TRAP, RTT, BKPT, HALT, context registers and the team watchdog (05, R61; 21,
R329, R334; 22, R348 to R354), the word that is no instruction (R90), and the debugger and watchdog events. -/

namespace Sys2Proof.Machine

/-- TRAP: cause k at the TRAP, with TRAPPC past it (R348). -/
def execTrap (b : Bool) (k : BitVec 7) (c : BitVec 6) (s : State) : Out :=
  .next (s.takeTrap k.toNat s.team.pc.toNat (s.team.pc.toNat + 4) ((s.team.belay b).srd64 c.toNat) 0)

/-- RTT (R329, R350). -/
def execRtt (b : Bool) (s : State) : Out := .next ((s.withTeam (s.team.belay b)).returnFromTrap (.rtt b))

/-- BKPT: cause 0x11 with its code (R349). -/
def execBkpt (_b : Bool) (k : BitVec 14) (s : State) : Out := .next (s.trapHere 0x11 (k.zeroExtend 64))

/-- HALT: privileged; the team is halted on its next instruction and the masthead kernel is told (R351). -/
def execHalt (b : Bool) (s : State) : Out :=
  if s.privileged then
    let t := (s.team.belay b).advance 1
    .next { s with team := { t with halted := true, held := true }
                   dev := s.dev.report (fun r => { r with debug := r.debug ++ [(s.crew.crewid.toNat, t.teamid, t.pc.toNat)] }) }
  else .next (s.unprivileged (.halt b))

/-- CTXRD (R352). -/
def execCtxrd (b : Bool) (d i : BitVec 6) (s : State) : Out :=
  teamInstr b 1 s (fun t => t.swr64 d.toNat (s.creg i.toNat))

/-- The bits of a context register that are not reserved (R61). -/
def cregBits (i : Nat) : Nat :=
  match i with
  | 0 => 2 ^ 57 - 2 ^ 16
  | 1 => 2 ^ 57 - 2 ^ 16
  | 2 => 2 ^ 64 - 2 ^ 16
  | 3 => 2 ^ 57 - 2 ^ 12
  | 4 => 2 ^ 32 - 1
  | 5 => 1
  | 6 => 31
  | 7 => 2 ^ 57 - 2 ^ 12
  | 8 => 2 ^ 57 - 2 ^ 12
  | _ => 0

/-- A value that a context register can take (R5, R61). -/
def cregOk (i : Nat) (v : BitVec 64) : Bool := Nat.land v.toNat (cregBits i) == v.toNat

/-- CTXWR: privileged; ordered as a release; the cores take the value by CTXWR_PROPAGATED, and the dispatcher takes the
table at RIGTAB (R210, R352, R353). -/
def execCtxwr (b : Bool) (i c : BitVec 6) (s : State) : Out :=
  let t := s.team.belay b
  if !s.privileged then .next (s.unprivileged (.ctxwr b i c))
  else if !cregOk i.toNat (t.srd64 c.toNat) then .next (s.illegal (.ctxwr b i c))
  else
    let s := (s.withTeam t).release
    let s := s.withTeam (s.team.advance 1)
    let c' := { s.ctx with
      regs := s.ctx.regs.set i.toNat (t.srd64 c.toNat)
      oldRegs := ⟨t.key, i.toNat, s.ctx.regs.get i.toNat, []⟩ :: s.ctx.oldRegs
      rigTodo := if i = 7 then some (t.srd64 c.toNat).toNat else s.ctx.rigTodo }
    let s := { s with ctx := c' }
    .next (if i = 7 then s.takeRig s.ctx.key else s)

/-- A core of a context takes the new values of its registers (R353). -/
def State.takeRegs (s : State) (ck core : Nat) : State :=
  s.modCtx ck (fun c => { c with oldRegs := c.oldRegs.map (fun r => { r with taken := core :: r.taken }) })

/-- CTXWR_PROPAGATED: every core has taken the new values (R353). -/
def execCtxwrPropagated (ctx : Nat) (s : State) : Out := .next (s.modCtx ctx (fun c => { c with oldRegs := [] }))

/-- WDOG: the team watchdog's counter restarts (R354). -/
def execWdog (b : Bool) (s : State) : Out := teamInstr b 1 s (fun t => { t with wdog := 0 })

/-- ILLEGAL_INSTRUCTION: a word that is no instruction raises cause 0x01 with the words as TRAPINFO (R90, R325). -/
def execIllegalInstruction (w0 w1 : BitVec 32) (s : State) : Out := .next (s.trapHere 0x01 (wordsInfo w0 w1))

/-- DEBUG_BREAKPOINT_SET: the masthead kernel sets or clears one of a context's four breakpoint addresses (R349). -/
def execDebugBreakpointSet (ctx slot : Nat) (addr : Option (BitVec 57)) (s : State) : Out :=
  if 4 ≤ slot then .next s
  else
    .next (s.modCtx ctx (fun c =>
      let rest := c.breaks.filter (fun e => e.1 != slot)
      { c with breaks := match addr with | some a => (slot, a.toNat) :: rest | none => rest }))

/-- A round without the arrival of one team; a round that nobody has arrived at is no round (R334). -/
def withdrawArrival (n index : Nat) (rounds : List Round) : List Round :=
  let less := rounds.map (fun r => if r.n = n then { r with arrived := r.arrived.filter (fun i => i != index) } else r)
  less.filter (fun r => !(r.n == n && r.arrived.isEmpty))

/-- A wait that a park held is withdrawn (R334): a barrier arrival leaves its round. -/
def State.withdraw (s : State) (t : Team) : State :=
  match t.park with
  | .barrier n =>
    s.modCrew t.crew (fun w => { w with rounds := withdrawArrival n t.index w.rounds })
  | _ => s

/-- The clocks at which the team watchdog of a context expires; none with PERIOD 0 (R334). -/
def Context.wdogLimit (c : Context) : Nat := (c.regs.get 4).toNat * 1024

/-- TEAM_WATCHDOG_EXPIRY: cause 0x13 at the team's instruction boundary, its park given up and its wait withdrawn (R334). -/
def execTeamWatchdogExpiry (team : Nat) (s : State) : Out :=
  let s' := s.select team
  let t := s'.team
  if t.key = team ∧ t.state ≠ .free ∧ t.state ≠ .exited ∧ s'.ctx.state = .running
      ∧ (t.wdogDue.isSome ∨ (s'.ctx.wdogLimit ≠ 0 ∧ s'.ctx.wdogLimit ≤ t.wdog)) then
    let period := (t.wdogDue.map (fun x => x.1)).getD (s'.ctx.regs.get 4).toNat
    let info : BitVec 64 := BitVec.ofNat 64 (period % 2 ^ 32 + (if t.state = .parked then t.park.code else 0) * 2 ^ 32)
    let s' := if t.state = .parked then s'.withdraw t else s'
    let s' := if t.state = .running then s' else s'.roomFor t
    .next ((s'.withTeam { t with state := .running, park := .awake, wdogDue := none }).trapHere 0x13 info)
  else .next s

/-- The clocks in which a team was ready at a slot and did not issue there (R49). -/
def Team.waited (t : Team) (slot : Nat) : Nat := (assoc? t.slotWait slot).getD 0

/-- ISSUE_PRIORITY_AGEING: a team that has been ready at a slot for 2,048 clocks has effective priority 15 there until it issues
(R49). -/
def execIssuePriorityAgeing (team slot : Nat) (s : State) : Out :=
  .next (s.modTeam team (fun t =>
    if t.state = .ready ∨ t.state = .running then
      if 2048 ≤ t.waited slot ∧ ¬ (slot ∈ t.aged) then { t with aged := slot :: t.aged } else t
    else t))

/-- The slots at which a team has waited long enough to be raised (R49). -/
def Team.agesAt (t : Team) : List Nat :=
  if t.state = .ready ∨ t.state = .running then (t.slotWait.map (fun x => x.1)).filter (fun k => decide (2048 ≤ t.waited k) && !t.aged.contains k)
  else []

/-- A team's effective priority at a slot (R49). -/
def Team.priority (t : Team) (slot : Nat) : Nat := if slot ∈ t.aged then 15 else t.tpri.toNat

/-- TPRI (R118). -/
def execTpri (b : Bool) (n : BitVec 4) (s : State) : Out := teamInstr b 1 s (fun t => { t with tpri := n })

/-- WBASE: the window base, with its limits (R56, R118). -/
def execWbase (b : Bool) (k : BitVec 7) (s : State) : Out :=
  if (if s.team.alloc < 128 then k = 0 else k.toNat ≤ (s.team.alloc - 128) / 32) then
    teamInstr b 1 s (fun t => { t with winBase := k.toNat })
  else .next (s.illegal (.wbase b k))

end Sys2Proof.Machine
end

