-- ==== Sys2Proof/Machine/Tasks.lean ====
section
/-! DEFINITION. Records, bins, jobs and their pushes (20; 22, R340 to R342): REC.PUSH, REC.TRY, NODE.DONE, CANCEL, the host's
PUSH area, and the termination detector. -/

namespace Sys2Proof.Machine

/-! ## Bins -/

/-- The records in the bin of a node. -/
def Context.bin (c : Context) (n : Nat) : List Rec := c.bins.getD n []

/-- Change the bin of a node. -/
def Context.modBin (c : Context) (n : Nat) (f : List Rec → List Rec) : Context :=
  { c with bins := (List.range c.nodes.length).map (fun i => if i = n then f (c.bin i) else c.bin i) }

/-- A record enters the bin of a node, behind those that are there (R304). -/
def Context.enter (c : Context) (n : Nat) (r : Rec) : Context := c.modBin n (fun l => l ++ [r])

/-- The records of one push enter their bins (R304, R309). -/
def Context.enterAll (c : Context) (job : BitVec 16) (clock : Nat) (recs : List PushRec) : Context :=
  recs.foldl (fun c r => c.enter r.node { job := job, words := r.words, entered := clock, castOff := false, handle := none, converted := false }) c

/-! ## Jobs -/

/-- The detector's entry of a job. -/
def Context.job (c : Context) (j : Nat) : JobState :=
  (c.jobs.find? (fun e => e.job == j)).getD { job := j, epoch := 0, busy := false, cancelled := false, due := [] }

/-- Put the detector's entry of a job. -/
def Context.putJob (c : Context) (e : JobState) : Context :=
  { c with jobs := if c.jobs.any (fun x => x.job == e.job) then c.jobs.map (fun x => if x.job = e.job then e else x) else c.jobs ++ [e] }

/-- A job is cancelled (R316). -/
def Context.isCancelled (c : Context) (j : Nat) : Bool := (c.job j).cancelled

/-- Records of a job that are in flight in the context's bins and queues (R311). -/
def Context.inFlight (c : Context) (j : Nat) : Nat :=
  (c.bins.map (fun b => b.countP (fun r => r.job.toNat == j))).sum
    + c.waiting.countP (fun w => w.record.job.toNat == j) + c.castOffs.countP (fun e => e.job.toNat == j)

/-- A job of a context is busy: something of it is in flight, a push of its crews is parked, or a crew of it runs (R311). -/
def State.jobBusy (s : State) (c : Context) (j : Nat) : Bool :=
  decide (0 < c.inFlight j)
  || s.allCrews.any (fun w => w.ctx == c.key && w.job.toNat == j)

/-- The jobs that the detector can have to count: those it has an entry of and those that something names. -/
def State.jobsOf (s : State) (c : Context) : List Nat :=
  (0 :: (c.jobs.map (fun e => e.job) ++ c.bins.flatMap (fun b => b.map (fun r => r.job.toNat))
    ++ c.waiting.map (fun w => w.record.job.toNat) ++ c.castOffs.map (fun e => e.job.toNat)
    ++ (s.allCrews.filter (fun w => w.ctx == c.key)).map (fun w => w.job.toNat))).eraseDups

/-- The STATUS of a report that falls due: 1 for the first one of a job that is cancelled (R312, R316). -/
def JobState.nextStatus (e : JobState) : Nat := if e.cancelled && !e.due.contains 1 then 1 else 0

/-- The detector's count of a job after a step: a change from busy to quiescent makes a report due (R311, R312).  The entry of
job 0 is busy while any job is. -/
def State.countJob (s : State) (c : Context) (j : Nat) : Context :=
  let now := if j = 0 then (s.jobsOf c).any (fun k => s.jobBusy c k) else s.jobBusy c j
  let e := c.job j
  if e.busy = now then c
  else c.putJob { e with busy := now, due := if now then e.due else e.due ++ [e.nextStatus] }

/-- The detector's counts of every context that has not ended (R311). -/
def State.countJobs (s : State) : State :=
  let f := fun (c : Context) =>
    if c.state = .none ∨ c.state = .terminated ∨ c.loaded = false then c
    else (s.jobsOf c).foldl (fun c j => s.countJob c j) c
  { s with ctx := f s.ctx, ctxs := s.ctxs.map f }

/-- The cancel mark of a job (R316, R342): a job that is marked already stays as it is, and so does one of a context that has ended; the
spill words of its dead records are released, cast-off records apart (R318); a quiescent one reports at once, after the reports that were
due. -/
def State.cancelJob (s : State) (ck j : Nat) : State :=
  match s.ctx? ck with
  | none => s
  | some c =>
    if c.isCancelled j ∨ c.state = .terminated then s
    else
      s.modCtx ck (fun c =>
        let e := c.job j
        { (c.putJob { e with cancelled := true, due := if s.jobBusy c j then e.due else e.due ++ [1] }) with
          dead := c.dead.filter (fun d => d.job.toNat != j || d.castOff) })

/-- The status word of R312. -/
def statusWord (epoch status cause : Nat) : Nat := epoch % 65536 * 65536 + status * 256 + cause

/-- A device-generated record enters its node's bin, filled with zeros up to the node's `rec` (R305). -/
def State.deviceRecord (c : Context) (clock node : Nat) (job : BitVec 16) (castOff : Bool) (words : List Word) : Context :=
  match c.nodes[node]? with
  | none => c
  | some n =>
    c.enter node { job := job, words := (List.range n.recWords).map (fun i => words.getD i 0), entered := clock, castOff := castOff, handle := none, converted := false }

/-- QUIESCENCE_REPORT: the first due report of a job writes its status word and, for a job from 1 up, pushes the notice (R312); with STATUS 1
it clears the cancel mark (R316); while the word's address does not translate the report stays due (R247). -/
def execQuiescenceReport (ctx job : Nat) (s : State) : Out :=
  match s.ctx? ctx with
  | none => .next s
  | some c =>
    let e := c.job job
    match e.due with
    | [] => .next s
    | status :: rest =>
      let w := statusWord (e.epoch + 1) status 0
      match s.writeFor c (c.qbase + 4 * job) (leBytes 4 w) with
      | (s, false) => .next s
      | (s, true) =>
        .next (s.modCtx ctx (fun c =>
          let c := c.putJob { e with epoch := e.epoch + 1, cancelled := e.cancelled && status != 1, due := rest }
          if job = 0 ∨ c.state = .terminated then c
          else State.deviceRecord c s.dev.clock c.quietNode 0 false [BitVec.ofNat 32 job, BitVec.ofNat 32 w]))

/-! ## Device pushes -/

/-- What a push comes to (R309). -/
inductive PushFate where
  | bad
  | cancelTrap
  | cancelled
  | enters
  | fullTrap (node : Nat)
  | full
  deriving DecidableEq, Repr

/-- The nodes that a push names. -/
def pushNodes (recs : List PushRec) : List Nat := (recs.map (fun r => r.node)).eraseDups

/-- The decision of R309 for the records of one push of a job. -/
def Context.decidePush (c : Context) (job : BitVec 16) (recs : List PushRec) : PushFate :=
  let count := fun n => recs.countP (fun r => r.node == n)
  let cap := fun n => (c.nodes[n]?.map (fun e => e.cap)).getD 0
  if (pushNodes recs).any (fun n => decide (cap n < count n)) then .bad
  else if c.isCancelled job.toNat then
    if (pushNodes recs).any (fun n => (c.nodes[n]?.map (fun e => e.cancelTrap)).getD false) then .cancelTrap else .cancelled
  else
    let short := (pushNodes recs).filter (fun n => decide (cap n < (c.bin n).length + count n))
    if short = [] then .enters
    else
      match short.filter (fun n => (c.nodes[n]?.map (fun e => e.fullTrap)).getD false) with
      | [] => .full
      | n :: rest => .fullTrap (rest.foldl Nat.min n)

/-- The record of a lane: its node and as many words as the node declares, from vC onward; `none` for a bad node number or a
register range past the last register (R17, R340). -/
def Team.laneRecord (t : Team) (nodes : List Node) (a c lane : Nat) : Option PushRec :=
  match nodes[(t.rd a lane).toNat]? with
  | none => none
  | some n =>
    if t.namesOk ((List.range n.recWords).map (fun i => c + i)) then
      some { node := (t.rd a lane).toNat, words := (List.range n.recWords).map (fun i => t.rd (c + i) lane) }
    else none

/-- The records of the active lanes, in strand order; `none` when one of them is bad (R17, R309). -/
def Team.laneRecords (t : Team) (nodes : List Node) (a c : Nat) : Option (List PushRec) :=
  t.active.mapM (t.laneRecord nodes a c)

/-- A push that enters: it acts as a release, and its records go to their bins (R309, R310). -/
def State.pushRecords (s : State) (recs : List PushRec) : State :=
  let s := s.release
  { s with ctx := s.ctx.enterAll s.crew.job s.dev.clock recs }

/-- REC.PUSH (R17, R309, R310, R340).  With an empty mask it only goes on (R39). -/
def execRecPush (b : Bool) (a c : BitVec 7) (s : State) : Out :=
  let t := s.team.belay b
  if !t.namesOk [a.toNat, c.toNat] then .next (s.illegal (.recPush b a c))
  else
    match t.laneRecords s.ctx.nodes a.toNat c.toNat with
    | none => .next (s.illegal (.recPush b a c))
    | some recs =>
      if recs = [] then .next (s.withTeam (t.advance 1)) else
      match s.ctx.decidePush s.crew.job recs with
      | .bad => .next (s.illegal (.recPush b a c))
      | .cancelTrap => .next (s.trapHere 0x10 (s.crew.job.zeroExtend 64))
      | .cancelled => .next (s.withTeam (t.advance 1))
      | .enters =>
        let s := (s.withTeam t).pushRecords recs
        .next (s.withTeam (s.team.advance 1))
      | .fullTrap n => .next (s.trapHere 0x0F (BitVec.ofNat 64 (n % 65536)))
      | .full => .next (s.withTeam { t with state := .parked, park := .fullBin recs })

/-- The status of a REC.TRY in sD and the flags (R340). -/
def Team.tryStatus (t : Team) (d : Nat) (w : Word) : Team := { (t.swr d w) with flags := zeroFlags w }

/-- REC.TRY: as REC.PUSH, but it neither traps on a full bin or a cancelled job nor parks (R309, R340). -/
def execRecTry (b : Bool) (d : BitVec 6) (a c : BitVec 7) (s : State) : Out :=
  let t := s.team.belay b
  if !t.namesOk [a.toNat, c.toNat] then .next (s.illegal (.recTry b d a c))
  else
    match t.laneRecords s.ctx.nodes a.toNat c.toNat with
    | none => .next (s.illegal (.recTry b d a c))
    | some recs =>
      if recs = [] then .next (s.withTeam ((t.tryStatus d.toNat 0).advance 1))
      else
        match s.ctx.decidePush s.crew.job recs with
        | .bad => .next (s.illegal (.recTry b d a c))
        | .cancelTrap => .next (s.withTeam ((t.tryStatus d.toNat 2).advance 1))
        | .cancelled => .next (s.withTeam ((t.tryStatus d.toNat 2).advance 1))
        | .enters =>
          let s := (s.withTeam t).pushRecords recs
          .next (s.withTeam ((s.team.tryStatus d.toNat 0).advance 1))
        | .fullTrap _ => .next (s.withTeam ((t.tryStatus d.toNat 1).advance 1))
        | .full => .next (s.withTeam ((t.tryStatus d.toNat 1).advance 1))

/-- Every bin that a push names has room for its records (R42). -/
def Context.roomFor (c : Context) (recs : List PushRec) : Bool :=
  (pushNodes recs).all (fun n =>
    decide ((c.bin n).length + recs.countP (fun r => r.node == n) ≤ (c.nodes[n]?.map (fun e => e.cap)).getD 0))

/-- A parked team enters the active set of its core and takes a trap at its instruction. -/
def State.trapParked (s : State) (k cause : Nat) (info : BitVec 64) : State :=
  (((s.makeRoom k).select k).modTeam k (fun t => { t with state := .running, park := .awake })).trapHere cause info

/-- A parked REC.PUSH decides again (R309): that of the team with a key.  The push acts as a release when its records enter (R310). -/
def State.decideAgain (s : State) (k : Nat) : State :=
  match s.team? k with
  | none => s
  | some t =>
    match t.park with
    | .fullBin recs =>
      match s.ctx? t.ctx, s.crew? t.crew with
      | some c, some w =>
        match c.decidePush w.job recs with
        | .enters => (((s.select k).release).modCtx t.ctx (fun c => c.enterAll w.job s.dev.clock recs)).modTeam k Team.wake
        | .cancelled => s.modTeam k Team.wake
        | .cancelTrap => s.trapParked k 0x10 (w.job.zeroExtend 64)
        | .fullTrap n => s.trapParked k 0x0F (BitVec.ofNat 64 (n % 65536))
        | _ => s
      | _, _ => s
    | _ => s

/-- A parked REC.PUSH whose bins have room decides again (R42). -/
def State.retryPush (s : State) (k : Nat) : State :=
  match s.team? k with
  | none => s
  | some t =>
    match t.park, s.ctx? t.ctx with
    | .fullBin recs, some c => if c.roomFor recs then s.decideAgain k else s
    | _, _ => s

/-- Every parked REC.PUSH of a context decides again (R42, R309). -/
def State.retryPushes (s : State) (ck : Nat) : State :=
  ((s.allTeams.filter (fun t => t.ctx == ck && t.state == .parked)).map (fun t => t.key)).foldl State.retryPush s

/-! ## Nodes and jobs -/

/-- NODE.DONE: the node is marked as drained; with an empty bin the mark clears at once (R341). -/
def execNodeDone (b : Bool) (a : BitVec 6) (s : State) : Out :=
  let t := s.team.belay b
  let n := (t.srd a.toNat).toNat
  if s.ctx.nodes.length ≤ n then .next (s.illegal (.nodeDone b a))
  else
    let s := s.withTeam (t.advance 1)
    if s.ctx.bin n = [] ∨ n ∈ s.ctx.drained then .next s
    else .next { s with ctx := { s.ctx with drained := n :: s.ctx.drained } }

/-- CANCEL (R316, R342). -/
def execCancel (b : Bool) (a : BitVec 6) (s : State) : Out :=
  let t := s.team.belay b
  let j := (t.srd a.toNat).toNat
  if j = 0 ∨ 65536 ≤ j then .next (s.illegal (.cancel b a))
  else .next ((s.withTeam (t.advance 1)).cancelJob s.ctx.key j)

/-- HOST_CANCEL: Renano sets the mark of a job (R316). -/
def execHostCancel (ctx job : Nat) (s : State) : Out :=
  if job = 0 ∨ 65536 ≤ job then .next s else .next (s.cancelJob ctx job)

/-- Records of a cancelled job leave a node's bin, cast-off records apart; an empty bin clears the mark of NODE.DONE (R316, R318,
R341). -/
def Context.dropJob (c : Context) (n job : Nat) : Context :=
  let c := c.modBin n (fun l => l.filter (fun r => r.job.toNat != job || r.castOff))
  if c.bin n = [] then { c with drained := c.drained.filter (fun i => i != n) } else c

/-- CANCEL_DROP: the cancel of a job reaches a bin; its records there, cast-off records apart, and those that wait on conversions
for the node are dropped (R316, R318). -/
def execCancelDrop (ctx job node : Nat) (s : State) : Out :=
  match s.ctx? ctx with
  | none => .next s
  | some c =>
    if !c.isCancelled job then .next s
    else
      let s := s.modCtx ctx (fun c =>
        { (c.dropJob node job) with
          waiting := c.waiting.filter (fun w => !(w.node == node && w.record.job.toNat == job && !w.record.castOff)) })
      .next (s.retryPushes ctx)

/-! ## The host record port -/

/-- PUSH: a write to a context's PUSH area (R307, R308). -/
def execPush (ctx off : Nat) (bytes : List (BitVec 8)) (s : State) : Out :=
  match s.ctx? ctx with
  | none => .next s
  | some c =>
    let drop := s.modCtx ctx (fun c => { c with dropped := c.dropped + 1 })
    let refuse := s.modCtx ctx (fun c => { c with refused := c.refused + 1 })
    let node := ofLeBytes (bytes.take 2)
    let job := ofLeBytes ((bytes.drop 2).take 2)
    if c.state = .terminated then .next drop
    else
      match c.nodes[node]? with
      | none => .next refuse
      | some n =>
        if off ≠ 0 ∨ bytes.length ≠ 16 + 4 * n.recWords ∨ job = 0 ∨ ofLeBytes ((bytes.drop 4).take 12) ≠ 0 then .next refuse
        else if c.isCancelled job then .next drop
        else if n.cap ≤ (c.bin node).length then .next refuse
        else
          .next (s.modCtx ctx (fun c =>
            c.enter node
              { job := BitVec.ofNat 16 job
                words := (List.range n.recWords).map (fun i => BitVec.ofNat 32 (ofLeBytes ((bytes.drop (16 + 4 * i)).take 4)))
                entered := s.dev.clock, castOff := false, handle := none, converted := false }))

/-- REGISTER_WRITE: a host write to the port beside PUSH is ignored (R307). -/
def execRegisterWrite (_ctx _off : Nat) (_bytes : List (BitVec 8)) (s : State) : Out := .next s

/-- FREE of a node (R307): the room of its bin; 0 for a full bin, a node beyond the image and a terminated context. -/
def Context.freeRoom (c : Context) (n : Nat) : Nat :=
  if c.state = .terminated then 0 else ((c.nodes[n]?).map (fun e => e.cap - (c.bin n).length)).getD 0

/-- What the host reads at a word of a context's record port (R307).  A read changes nothing. -/
def Context.portRead (c : Context) (off : Nat) : Word :=
  BitVec.ofNat 32
    (if off = 0x800 then c.refused
     else if off = 0x804 then c.refused / 2 ^ 32
     else if off = 0x808 then c.dropped
     else if off = 0x80C then c.dropped / 2 ^ 32
     else if 0x1000 ≤ off ∧ off % 4 = 0 then c.freeRoom ((off - 0x1000) / 4)
     else 0)

/-- LAUNCH_TIMER: the head record of a node has waited the node's timer, which makes the node ready (R306). -/
def execLaunchTimer (ctx node : Nat) (s : State) : Out :=
  .next (s.modCtx ctx (fun c =>
    match c.nodes[node]?, (c.bin node).head? with
    | some n, some r =>
      if n.timer ≠ 0 ∧ Nat.max r.entered (c.timers.getD node 0) + n.timer ≤ s.dev.clock ∧ ¬ (node ∈ c.fired) then
        { c with fired := node :: c.fired }
      else c
    | _, _ => c))

/-! ## The end of a context -/

/-- Stores of teams that are gone are performed: the buffers that hold them drain (R31). -/
def State.drainGone (s : State) : State :=
  let gone := fun (b : StoreByte) => (s.team? b.team).isNone
  ((s.cores.filter (fun e => e.2.wcb.any gone)).map (fun e => e.1)).foldl State.drainAll
    (if s.scStores.any gone then s.performSc else s)

/-- What a terminated context issued is still under way: a PUT, GET, PSIG or ring operation, or an atomic of a team that is gone
(R31).  DEDUCED: ring operations are waited for, bank commands are not (log entry 84). -/
def State.stillDraining (s : State) (ck : Nat) : Bool :=
  s.ops.any (fun o => o.ctx == ck && !o.done) || s.atomics.any (fun a => (s.team? a.team).isNone)

/-- TERMINATION_RECORD: once the drains of a terminated context have ended, its record goes to the masthead kernel and the host,
and STATUS 2 with the cause is written for each job that was busy and for word 0, after the reports that were due (R31, R312, R330);
while an address there does not translate, the unit tries again (R247). -/
def execTerminationRecord (ctx : Nat) (s : State) : Out :=
  match s.ctx? ctx with
  | none => .next s
  | some c =>
    match c.termRecord with
    | none => .next s
    | some r =>
      if s.stillDraining ctx ∨ c.jobs.any (fun j => !j.due.isEmpty) = true then .next s
      else
      let s := s.drainGone
      let words := (0 :: c.termJobs).eraseDups
      match words.findSome? (fun j =>
          let bad := s.firstBad c (c.qbase + 4 * j) 4 .write
          if (bad.map (fun x => c.refusedVas.contains x.1)).getD true then none else bad) with
      | some (a, e) => .next (s.deviceFault ctx a e .write)
      | none =>
      let s := words.foldl (fun s j => (s.writeFor c (c.qbase + 4 * j) (leBytes 4 (statusWord ((c.job j).epoch + 1) 2 c.termCause))).1) s
      let s := s.modCtx ctx (fun c =>
        { (words.foldl (fun c j => c.putJob { c.job j with epoch := (c.job j).epoch + 1, busy := false }) c) with
          termRecord := none, termJobs := [] })
      .next { s with dev := s.dev.report (fun q => { q with service := q.service ++ [r], host := q.host ++ [r] }) }

/-- TERMINATE_ON_REQUEST: the masthead kernel or the host ends a context with cause 0x27 (R325). -/
def execTerminateOnRequest (ctx : Nat) (s : State) : Out :=
  .next (s.terminate ctx 0x27 (recordHeader 0x27 1 ctx 0 0 0 s.dev.dtime 0 0 0))

end Sys2Proof.Machine
end

