-- ==== Sys2Proof/Machine/Grace.lean ====
section
/-! DEFINITION. Grace periods (19, R295 to R299; 20, R402; 22, R343): QPASS, RSEC.IN, RSEC.OUT, GRACE, DEFER and the completion
of a generation. -/

namespace Sys2Proof.Machine

/-- A load of a team that was issued before a step has not returned: an outstanding register write, or an LDA lane that has not
landed (R295). -/
def State.loadsOut (s : State) (t : Team) (before : Nat) : Bool :=
  t.unchecked.any (fun w => w.mem && decide (w.stamp < before))
    || s.ops.any (fun o => o.team == t.key && decide (o.stamp < before) && (match o.work with | .lda (_ :: _) _ => true | _ => false))

/-- A team passes a quiescent point: QGEN takes the open generation, at once or once the loads that it issued before have returned
(R295, R296). -/
def State.passPoint (s : State) (c : Context) (t : Team) : Team :=
  let g := BitVec.ofNat 32 c.genClosed
  if s.loadsOut t (s.tick + 1) then
    { t with qpend := if (t.qpend.getLast?.map (fun x => x.1)) = some g then t.qpend else t.qpend ++ [(g, s.tick)] }
  else { t with qgen := g, qpend := [] }

/-- The quiescent points of a team whose loads have returned take effect (R295). -/
def State.settlePoints (s : State) (t : Team) : Team :=
  match (t.qpend.filter (fun x => !s.loadsOut t (x.2 + 1))).getLast? with
  | some x => { t with qgen := x.1, qpend := t.qpend.filter (fun x => s.loadsOut t (x.2 + 1)) }
  | none => t

/-- A quiescent point of the issuing team. -/
def State.quiesce (s : State) : State := s.withTeam (s.passPoint s.ctx s.team)

/-- A quiescent point at which the issuing team goes on: what it accesses from then on it accesses as of then or later.  DEDUCED (log entry
91). -/
def State.quiesceHere (s : State) : State := s.orderAfter.quiesce

/-- QPASS (R298). -/
def execQpass (b : Bool) (s : State) : Out :=
  let s := s.withTeam ((s.team.belay b).advance 1)
  if s.team.nest = 0 then .next s.quiesceHere else .next s

/-- RSEC.IN (R298); what the team accesses in a section it accesses as of the section's start or later.  DEDUCED (log entry 91). -/
def execRsecIn (b : Bool) (s : State) : Out :=
  if s.team.nest = 255 then .next (s.illegal (.rsecIn b))
  else teamInstr b 1 s (fun t => { (t.raiseFloor s.tick) with nest := t.nest + 1 })

/-- RSEC.OUT (R298). -/
def execRsecOut (b : Bool) (s : State) : Out :=
  if s.team.nest = 0 then .next (s.illegal (.rsecOut b))
  else
    let t := (s.team.belay b).advance 1
    let s := s.withTeam { t with nest := t.nest - 1 }
    if s.team.nest = 0 then .next s.quiesceHere else .next s

/-- The open generation closes (R296). -/
def State.closeGeneration (s : State) : State := { s with ctx := { s.ctx with genClosed := s.ctx.genClosed + 1 } }

/-- GRACE: acts as FENCE.dev, closes the open generation and parks until it completes (R298, R343). -/
def execGrace (b : Bool) (s : State) : Out :=
  if 0 < s.team.nest then .next (s.illegal (.grace b))
  else
    let s := (s.withTeam (s.team.belay b)).fenceDev.orderAfter
    let g := s.ctx.genClosed
    .next ((s.withTeam { s.team with state := .parked, park := .grace g }).closeGeneration)

/-! ## The cast-off queue (R402) -/

/-- A cast-off queue has no room on die. -/
def dieFull (q : List CastOff) : Bool := decide (4096 ≤ q.countP (fun e => e.slot.isNone))

/-- The cast-off queue is full, on die and in its spill area (R402). -/
def State.castOffFull (s : State) : Bool :=
  dieFull s.ctx.castOffs && (s.creg 8 == 0 || decide (65536 ≤ s.ctx.castOffs.countP (fun e => e.slot.isSome)))

/-- The place of a new entry of a queue: on die, or the lowest free one of the spill area (R402). -/
def newSlot (q : List CastOff) : Option (Nat × Option Nat) :=
  if !dieFull q then none
  else
    let used := q.filterMap (fun e => e.slot.map (fun x => x.1))
    some (((List.range (used.length + 1)).find? (fun i => !used.contains i)).getD 0, none)

/-- The bytes of a spilled entry are written into the spill area, in a form that no rule gives; where its address does not translate the
device tries again (R247, R402). -/
def State.spillEntry (s : State) (ck i : Nat) : State :=
  match s.ctx? ck with
  | none => s
  | some c =>
    let va := (c.regs.get 8).toNat + 32 * i
    match s.firstBad c va 32 .write, s.translateFor c 0 va .write with
    | none, .ok l =>
      ((s.deviceDone c 0 va 32).openRange l.pa 32).modCtx ck (fun c =>
        { c with castOffs := c.castOffs.map (fun e => if e.slot = some (i, none) then { e with slot := some (i, some l.pa) } else e) })
    | some (a, cause), _ => s.deviceFault ck a cause .write
    | none, .error cause => s.deviceFault ck va cause .write

/-- Every entry of a context that has still to be written into its spill area. -/
def Context.unspilled (c : Context) : List Nat :=
  c.castOffs.filterMap (fun e => match e.slot with | some (i, none) => some i | _ => none)

/-- The entries of a context that have still to be written into its spill area are written. -/
def State.spillCastOffs (s : State) (ck : Nat) : State :=
  (((s.ctx? ck).map Context.unspilled).getD []).foldl (fun s i => s.spillEntry ck i) s

/-- A queue entry as the device finds it: of one in whose bytes something has been written, the address, size, node and generation are
open (R402). -/
def State.foundEntry (s : State) (e : CastOff) : CastOff :=
  match e.slot with
  | some (i, some pa) =>
    if (List.range 32).all (fun j => (openAt s.openMem (pa + j)).isSome) then e
    else
      let w := fun (k : Nat) => Config.freeWord (2 ^ 100 + s.tick * 2 ^ 20 + 8 * i + k)
      { e with gen := (w 0).toNat, addr := w 2 ++ w 1, size := w 3, node := (w 4).toNat }
  | _ => e

/-- DEFER: acts as FENCE.dev, queues a cast-off entry and closes the generation (R298, R402). -/
def execDefer (b : Bool) (a c : BitVec 6) (s : State) : Out :=
  let t := s.team.belay b
  let addr := t.srd64 a.toNat
  let node := (t.srd (c.toNat + 1)).toNat
  if ((s.ctx.nodes[node]?.map (fun n => decide (4 ≤ n.recWords))).getD false) = false then .next (s.illegal (.defer b a c))
  else if 2 ^ 57 ≤ addr.toNat then .next (s.vaTrap 0x05 0 addr.toNat)
  else if s.castOffFull then .next (s.trapHere 0x14 0)
  else
    let s := (s.withTeam t).fenceDev.orderAfter
    let e : CastOff :=
      { gen := s.ctx.genClosed, addr := addr, size := t.srd c.toNat, node := node, job := s.crew.job, slot := newSlot s.ctx.castOffs }
    let s := { s with team := s.team.advance 1, ctx := { s.ctx with castOffs := s.ctx.castOffs ++ [e] } }.closeGeneration
    .next (if e.slot.isSome then s.spillCastOffs s.ctx.key else s)

/-! ## Quiescent points and completion -/

/-- A team passes a quiescent point in every clock: parked, saved or halted by HALT with a count of 0 (R295, R351). -/
def Team.passes (t : Team) (c : Context) : Bool :=
  t.nest == 0 && t.state != .exited && (t.state == .parked || c.state == .saved || t.held)

/-- The team as a clock finds it: the quiescent points that have taken effect, and the one that it passes (R295). -/
def State.pointsOf (s : State) (c : Context) (t : Team) : Team :=
  let t := s.settlePoints t
  if t.passes c then s.passPoint c t else t

/-- The QGEN that a team counts with (R295). -/
def State.effectiveQgen (s : State) (c : Context) (t : Team) : BitVec 32 := (s.pointsOf c t).qgen

/-- The oldest generation of a context that is closed can complete (R296). -/
def State.graceDue (s : State) (c : Context) : Bool :=
  decide (c.genDone < c.genClosed) &&
    (s.allTeams.filter (fun t => t.ctx == c.key && t.state != .exited)).all (fun t =>
      let later := (s.effectiveQgen c t - BitVec.ofNat 32 c.genDone).toNat
      decide (1 ≤ later) && decide (later ≤ 2 ^ 31))

/-- The words of a cast-off record (R299). -/
def castOffWords (e : CastOff) : List Word :=
  [e.addr.truncate 32, (e.addr >>> 32).truncate 32, e.size, BitVec.ofNat 32 e.gen]

/-- GRACE_COMPLETE: the oldest closed generation completes: every L1 of the package is dropped, its cast-off records enter their
bins in queue order, and the teams that a GRACE of it parked wake (R296, R297, R299, R318).  Every team's later accesses are performed
after it. -/
def execGraceComplete (ctx : Nat) (s : State) : Out :=
  match s.ctx? ctx with
  | none => .next s
  | some c =>
    if c.state = .terminated ∨ !s.graceDue c then .next s
    else
      let g := c.genDone
      let s0 : State := { s with cores := s.cores.map (fun (e : Nat × CoreState) => (e.1, { e.2 with l1 := [] })) }
      let found := c.castOffs.map s.foundEntry
      let mine := found.filter (fun e => decide (e.gen ≤ g))
      let s1 := s0.modCtx ctx (fun (c : Context) =>
        let c := mine.foldl (fun (c : Context) (e : CastOff) => State.deviceRecord c s.dev.clock e.node e.job true (castOffWords e)) c
        { c with genDone := g + 1, castOffs := (found.filter (fun e => decide (g < e.gen))) })
      let wake := fun (t : Team) =>
        let t := t.raiseFloor s.tick
        match t.park with
        | .grace k => if t.ctx = ctx ∧ t.state = TeamState.parked ∧ k = g then { t.wake with qgen := BitVec.ofNat 32 c.genClosed } else t
        | _ => t
      .next { s1 with team := wake s1.team, teams := s1.teams.map wake }

end Sys2Proof.Machine
end

