-- ==== Sys2Proof/Machine/Float.lean ====
section
/-! DEFINITION. Floating-point lane instructions: majors 0x0B to 0x0F (07, R100 to R108). -/

namespace Sys2Proof.Machine

/-- A function of numbers as one of words. -/
def word1 (f : Nat → Nat) (x : Word) : Word := BitVec.ofNat 32 (f x.toNat)
def word2 (f : Nat → Nat → Nat) (x y : Word) : Word := BitVec.ofNat 32 (f x.toNat y.toNat)
def word3 (f : Nat → Nat → Nat → Nat) (x y z : Word) : Word := BitVec.ofNat 32 (f x.toNat y.toNat z.toNat)

/-- The format of a packed instruction: .bf or .h (R104). -/
def packedFmt (bf : Bool) : Fmt := if bf then bf16 else fp16

/-- The two halves of a register, computed independently (R104). -/
def halves3 (f : Nat → Nat → Nat → Nat) (x y z : Nat) : Nat :=
  f (x / 65536) (y / 65536) (z / 65536) * 65536 + f (x % 65536) (y % 65536) (z % 65536)
def halves2 (f : Nat → Nat → Nat) (x y : Nat) : Nat := halves3 (fun a c _ => f a c) x y 0

/-- FADD (R101). -/
def execFadd (b : Bool) (d a c : BitVec 7) (s : State) : Out := laneBin (.fadd b d a c) b d a c (word2 fp32.add) s

/-- FSUB (R101). -/
def execFsub (b : Bool) (d a c : BitVec 7) (s : State) : Out := laneBin (.fsub b d a c) b d a c (word2 fp32.sub) s

/-- FMUL (R101). -/
def execFmul (b : Bool) (d a c : BitVec 7) (s : State) : Out := laneBin (.fmul b d a c) b d a c (word2 fp32.mul) s

/-- FMIN: minimumNumber (R102) (R101). -/
def execFmin (b : Bool) (d a c : BitVec 7) (s : State) : Out := laneBin (.fmin b d a c) b d a c (word2 fp32.min) s

/-- FMAX: maximumNumber (R102) (R101). -/
def execFmax (b : Bool) (d a c : BitVec 7) (s : State) : Out := laneBin (.fmax b d a c) b d a c (word2 fp32.max) s

/-- FFMA: one rounding, D as a third source (R101). -/
def execFfma (b : Bool) (d a c : BitVec 7) (s : State) : Out := laneAcc (.ffma b d a c) b d a c (word3 fp32.fma) s

/-- FABS: bit 31 cleared, NaNs included (R101). -/
def execFabs (b : Bool) (d a : BitVec 7) (s : State) : Out := laneUn (.fabs b d a) b d a (fun x => x &&& 0x7FFFFFFF) s

/-- FNEG: bit 31 inverted, NaNs included (R101). -/
def execFneg (b : Bool) (d a : BitVec 7) (s : State) : Out := laneUn (.fneg b d a) b d a (fun x => x ^^^ 0x80000000) s

/-- PADD (R104). -/
def execPadd (b bf : Bool) (d a c : BitVec 7) (s : State) : Out :=
  laneBin (.padd b bf d a c) b d a c (word2 (halves2 (packedFmt bf).add)) s

/-- PSUB (R104). -/
def execPsub (b bf : Bool) (d a c : BitVec 7) (s : State) : Out :=
  laneBin (.psub b bf d a c) b d a c (word2 (halves2 (packedFmt bf).sub)) s

/-- PMUL (R104). -/
def execPmul (b bf : Bool) (d a c : BitVec 7) (s : State) : Out :=
  laneBin (.pmul b bf d a c) b d a c (word2 (halves2 (packedFmt bf).mul)) s

/-- PMIN (R104). -/
def execPmin (b bf : Bool) (d a c : BitVec 7) (s : State) : Out :=
  laneBin (.pmin b bf d a c) b d a c (word2 (halves2 (packedFmt bf).min)) s

/-- PMAX (R104). -/
def execPmax (b bf : Bool) (d a c : BitVec 7) (s : State) : Out :=
  laneBin (.pmax b bf d a c) b d a c (word2 (halves2 (packedFmt bf).max)) s

/-- PFMA (R104). -/
def execPfma (b bf : Bool) (d a c : BitVec 7) (s : State) : Out :=
  laneAcc (.pfma b bf d a c) b d a c (word3 (halves3 (packedFmt bf).fma)) s

/-- FCMP (R79, R103). -/
def execFcmp (b : Bool) (cc : BitVec 4) (p : BitVec 3) (a c : BitVec 7) (s : State) : Out :=
  laneCmp (.fcmp b cc p a c) b p [a.toNat, c.toNat]
    (fun t l => fp32.compare cc.toNat (t.rd a.toNat l).toNat (t.rd c.toNat l).toNat) s

/-- RCP (R105, R106). -/
def execRcp (b : Bool) (d a : BitVec 7) (s : State) : Out := laneUn (.rcp b d a) b d a (word1 frcp) s

/-- RSQ (R105, R106). -/
def execRsq (b : Bool) (d a : BitVec 7) (s : State) : Out := laneUn (.rsq b d a) b d a (word1 frsq) s

/-- SQRT (R105, R106). -/
def execSqrt (b : Bool) (d a : BitVec 7) (s : State) : Out := laneUn (.sqrt b d a) b d a (word1 fsqrt) s

/-- EX2 (R105, R106). -/
def execEx2 (b : Bool) (d a : BitVec 7) (s : State) : Out := laneUn (.ex2 b d a) b d a (word1 fex2) s

/-- LG2 (R105, R106). -/
def execLg2 (b : Bool) (d a : BitVec 7) (s : State) : Out := laneUn (.lg2 b d a) b d a (word1 flg2) s

/-- SIN (R105, R106). -/
def execSin (b : Bool) (d a : BitVec 7) (s : State) : Out := laneUn (.sin b d a) b d a (word1 fsin) s

/-- COS (R105, R106). -/
def execCos (b : Bool) (d a : BitVec 7) (s : State) : Out := laneUn (.cos b d a) b d a (word1 fcos) s

/-- FDIV (R105, R106). -/
def execFdiv (b : Bool) (d a c : BitVec 7) (s : State) : Out := laneBin (.fdiv b d a c) b d a c (word2 fdiv) s

/-- The lane registers that an operand of CVT names: a pair for a 64-bit type (R107). -/
def cvtNames (c n : Nat) : List Nat := if c = 3 ∨ c = 7 then [n, n + 1] else [n]

/-- The source of CVT in a lane (R107). -/
def Team.cvtSource (t : Team) (c n lane : Nat) : Nat := if c = 3 ∨ c = 7 then (t.rd64 n lane).toNat else (t.rd n lane).toNat

/-- CVT (R80, R107, R108). -/
def execCvt (b : Bool) (dst : BitVec 4) (d a : BitVec 7) (rnd : BitVec 2) (sat : Bool) (src : BitVec 4) (s : State) : Out :=
  laneInstr (.cvt b dst d a rnd sat src) b (cvtNames dst.toNat d.toNat ++ cvtNames src.toNat a.toNat) s (fun t =>
    let f := fun l => cvt (CvtType.ofCode dst.toNat) (CvtType.ofCode src.toNat) sat (Rnd.ofCode rnd.toNat) (t.cvtSource src.toNat a.toNat l)
    if dst = 3 ∨ dst = 7 then t.wr64 d.toNat t.active (fun l => BitVec.ofNat 64 (f l))
    else t.wr d.toNat t.active (fun l => BitVec.ofNat 32 (f l)))

end Sys2Proof.Machine
end

