-- ==== Sys2Proof/Machine/Lanes.lean ====
section
/-! DEFINITION. Moving values between lanes, major 0x10, and predicates and votes, major 0x11 (07, R109 to R114). -/

namespace Sys2Proof.Machine

/-! ## Shuffles (R109) -/

/-- A shuffle: each active lane receives the value that the lane `from` of its strand supplies, active or not. -/
def shuffle (i : Instr) (b : Bool) (d a : BitVec 7) (names : List Nat) (src : Team → Nat → Nat) (s : State) : Out :=
  laneInstr i b names s (fun t =>
    t.wr d.toNat t.active (fun l => t.rd a.toNat (l / 32 * 32 + src t l)))

/-- SHFL. -/
def execShfl (b : Bool) (d a c : BitVec 7) (s : State) : Out :=
  shuffle (.shfl b d a c) b d a [d.toNat, a.toNat, c.toNat] (fun t l => (t.rd c.toNat l).toNat % 32) s

/-- SHFLUP. -/
def execShflup (b : Bool) (d a : BitVec 7) (n : BitVec 5) (s : State) : Out :=
  shuffle (.shflup b d a n) b d a [d.toNat, a.toNat] (fun _ l => if n.toNat ≤ l % 32 then l % 32 - n.toNat else l % 32) s

/-- SHFLDN. -/
def execShfldn (b : Bool) (d a : BitVec 7) (n : BitVec 5) (s : State) : Out :=
  shuffle (.shfldn b d a n) b d a [d.toNat, a.toNat] (fun _ l => if l % 32 + n.toNat ≤ 31 then l % 32 + n.toNat else l % 32) s

/-- SHFLX. -/
def execShflx (b : Bool) (d a : BitVec 7) (n : BitVec 5) (s : State) : Out :=
  shuffle (.shflx b d a n) b d a [d.toNat, a.toNat] (fun _ l => Nat.xor (l % 32) n.toNat) s

/-- BCAST (R110): lane to lanes, scalar to lanes, or lane to scalar, which acts whatever the mask holds. -/
def execBcast (b : Bool) (d a : BitVec 7) (m : BitVec 2) (s : State) : Out :=
  if m = 0 then
    laneInstr (.bcast b d a m) b [d.toNat, a.toNat] s (fun t =>
      t.wr d.toNat t.active (fun _ => t.rd a.toNat (t.active.headD 0)))
  else if m = 1 then
    laneInstr (.bcast b d a m) b [d.toNat] s (fun t => t.wr d.toNat t.active (fun _ => t.srd a.toNat))
  else
    laneInstr (.bcast b d a m) b [a.toNat] s (fun t =>
      t.swr d.toNat (match t.active with | [] => 0 | l :: _ => t.rd a.toNat l))

/-! ## Reductions and scans (R111, R112) -/

/-- The operation of a REDA or SCANA code, with its identity. -/
def redOp (o : Nat) : (Word → Word → Word) × Word :=
  match o with
  | 0 => (fun x y => x + y, 0)
  | 1 => (fun x y => if x.slt y then x else y, 0x7FFFFFFF)
  | 2 => (fun x y => if x.slt y then y else x, 0x80000000)
  | 3 => (fun x y => if x.ult y then x else y, 0xFFFFFFFF)
  | 4 => (fun x y => if x.ult y then y else x, 0)
  | 5 => (fun x y => x &&& y, 0xFFFFFFFF)
  | 6 => (fun x y => x ||| y, 0)
  | _ => (fun x y => x ^^^ y, 0)

/-- The operation of a FREDA or FSCANA code, with its identity: -0, +Inf or -Inf. -/
def fredOp (o : Nat) : (Word → Word → Word) × Word :=
  match o with
  | 0 => (word2 fp32.add, 0x80000000)
  | 1 => (word2 fp32.min, 0x7F800000)
  | _ => (word2 fp32.max, 0xFF800000)

/-- One level of a fixed tree: neighbours combined. -/
def pairUp {α : Type} (op : α → α → α) : List α → List α
  | x :: y :: rest => op x y :: pairUp op rest
  | l => l

/-- The fixed tree of R111 over 32 values. -/
def tree32 {α : Type} (op : α → α → α) (dflt : α) (l : List α) : α :=
  (pairUp op (pairUp op (pairUp op (pairUp op (pairUp op l))))).headD dflt

/-- REDA. -/
def execReda (b : Bool) (d a : BitVec 7) (o : BitVec 3) (s : State) : Out :=
  laneInstr (.reda b d a o) b [d.toNat, a.toNat] s (fun t =>
    let r := t.active.foldl (fun acc l => (redOp o.toNat).1 acc (t.rd a.toNat l)) (redOp o.toNat).2
    t.wr d.toNat t.active (fun _ => r))

/-- The result of FREDA's fixed tree (R111): lanes within each strand, then the strands. -/
def Team.fredTree (t : Team) (o a : Nat) : Word :=
  let op := (fredOp o).1
  let e := (fredOp o).2
  let strand := fun j => tree32 op e ((List.range 32).map (fun l => if t.mask.getLsbD (32 * j + l) then t.rd a (32 * j + l) else e))
  tree32 op e ((List.range 32).map (fun j => if j < t.strands then strand j else e))

/-- FREDA. -/
def execFreda (b : Bool) (d a : BitVec 7) (o : BitVec 2) (s : State) : Out :=
  laneInstr (.freda b d a o) b [d.toNat, a.toNat] s (fun t =>
    let r := t.fredTree o.toNat a.toNat
    t.wr d.toNat t.active (fun _ => r))

/-- The prefixes of R112: each lane with its value, in strand order. -/
def scanLanes (op : Word → Word → Word) (ex : Bool) (f : Nat → Word) : Word → List Nat → List (Nat × Word)
  | _, [] => []
  | acc, l :: rest => (l, if ex then acc else op acc (f l)) :: scanLanes op ex f (op acc (f l)) rest

/-- A scan over the active lanes. -/
def scan (i : Instr) (b : Bool) (d a : BitVec 7) (op : (Word → Word → Word) × Word) (ex : Bool) (s : State) : Out :=
  laneInstr i b [d.toNat, a.toNat] s (fun t =>
    let r := scanLanes op.1 ex (t.rd a.toNat) op.2 t.active
    t.wr d.toNat t.active (fun l => (assoc? r l).getD 0))

/-- SCANA. -/
def execScana (b : Bool) (d a : BitVec 7) (o : BitVec 3) (ex : Bool) (s : State) : Out :=
  scan (.scana b d a o ex) b d a (redOp o.toNat) ex s

/-- FSCANA. -/
def execFscana (b : Bool) (d a : BitVec 7) (o : BitVec 2) (ex : Bool) (s : State) : Out :=
  scan (.fscana b d a o ex) b d a (fredOp o.toNat) ex s

/-! ## Votes and predicates (R113, R114) -/

/-- VANY: 1 where some active lane's bit is set. -/
def execVany (b : Bool) (d : BitVec 6) (p : BitVec 3) (s : State) : Out :=
  teamInstr b 1 s (fun t =>
    let v : Word := if t.active.any (fun l => (t.prd p.toNat).getLsbD l) then 1 else 0
    { (t.swr d.toNat v) with flags := zeroFlags v })

/-- VALL: 1 where every active lane's bit is set. -/
def execVall (b : Bool) (d : BitVec 6) (p : BitVec 3) (s : State) : Out :=
  teamInstr b 1 s (fun t =>
    let v : Word := if t.active.all (fun l => (t.prd p.toNat).getLsbD l) then 1 else 0
    { (t.swr d.toNat v) with flags := zeroFlags v })

/-- The word of a strand of a mask. -/
def strandWord (m : Mask) (j : Nat) : Word := BitVec.ofNat 32 (m.toNat / 2 ^ (32 * j))

/-- BALLOT: a strand word of the active lanes' bits; 0 past the last strand. -/
def execBallot (b : Bool) (d : BitVec 6) (p : BitVec 3) (j : BitVec 5) (s : State) : Out :=
  teamInstr b 1 s (fun t =>
    t.swr d.toNat (if j.toNat < t.strands then strandWord (t.mask &&& t.prd p.toNat) j.toNat else 0))

/-- A predicate computed from predicates in the active lanes. -/
def predOp (b : Bool) (d : BitVec 3) (f : Team → Nat → Bool) (s : State) : Out :=
  teamInstr b 1 s (fun t => t.pwr d.toNat t.active (f t))

/-- PAND. -/
def execPand (b : Bool) (d a c : BitVec 3) (s : State) : Out :=
  predOp b d (fun t l => (t.prd a.toNat).getLsbD l && (t.prd c.toNat).getLsbD l) s

/-- POR. -/
def execPor (b : Bool) (d a c : BitVec 3) (s : State) : Out :=
  predOp b d (fun t l => (t.prd a.toNat).getLsbD l || (t.prd c.toNat).getLsbD l) s

/-- PXOR. -/
def execPxor (b : Bool) (d a c : BitVec 3) (s : State) : Out :=
  predOp b d (fun t l => (t.prd a.toNat).getLsbD l != (t.prd c.toNat).getLsbD l) s

/-- PNOT. -/
def execPnot (b : Bool) (d a : BitVec 3) (s : State) : Out :=
  predOp b d (fun t l => !(t.prd a.toNat).getLsbD l) s

/-- PSET: the active lanes whose value is not zero. -/
def execPset (b : Bool) (d : BitVec 3) (a : BitVec 7) (s : State) : Out :=
  laneCmp (.pset b d a) b d [a.toNat] (fun t l => t.rd a.toNat l != 0) s

end Sys2Proof.Machine
end

