-- ==== Sys2Proof/Machine/Crews.lean ====
section
/-! DEFINITION. What a crew's teams do together: EXIT and the crew barriers (03, R29 to R32; 07, R121, R122), the fences (17, R273,
R274; 15, R240), and the special registers (05, R59, R60; 07, R117). -/

namespace Sys2Proof.Machine

/-! ## Crew barriers -/

/-- The indexes of the exited teams of a crew. -/
def State.exitedOf (s : State) (k : Nat) : List Nat :=
  ((s.crewTeams k).filter (fun t => t.state == .exited)).map (fun t => t.index)

/-- A round is complete (R30). -/
def Round.complete (r : Round) (nteams : Nat) (exited : List Nat) : Bool :=
  if r.counted then decide (r.k ≤ r.arrived.length)
  else (List.range nteams).all (fun k => r.arrived.contains k || exited.contains k)

/-- A team that waits at a barrier leaves it, which acts as an acquire (R290). -/
def Team.leaveBarrier (t : Team) (crew n now : Nat) : Team :=
  if t.crew = crew ∧ t.state = .parked ∧ t.park = .barrier n then t.wake.raiseFloor now else t

/-- The arrival at a crew barrier acts as a FENCE.crew (R290). -/
def State.fenceCrew (s : State) : State := if s.crew.pair then s.fenceDev else s.fenceCore

/-- Buffered stores that teams have made or observed, on the cores of their crew, are observed by all of them (R273, R290). -/
def State.shareStores (s : State) (w : Crew) (teams : List Nat) : State :=
  w.cores.foldl (fun s k => s.seeBytes k teams (fun b => teams.any (fun t => b.of t || b.seen.contains t))) s

/-- A round of a crew completes: its teams leave, the watchdog restarts, and their stores are seen (R28, R30). -/
def State.completeRound (s : State) (w : Crew) (r : Round) : State :=
  let gone := s.exitedOf w.key
  let s := s.shareStores w (((s.crewTeams w.key).filter (fun t => r.arrived.contains t.index)).map (fun t => t.key))
  let s := s.modCrew w.key (fun c =>
    { c with rounds := c.rounds.filter (fun q => q.n != r.n), wdCount := 0
             hidden := c.hidden.map (fun (h : Hidden) => h.pass r.arrived gone r.x) }.prune (s.oldestEngine c))
  { s with team := s.team.leaveBarrier w.key r.n s.tick, teams := s.teams.map (fun t => t.leaveBarrier w.key r.n s.tick) }

/-- Every barrier of a crew is evaluated (R30). -/
def State.completeBarriers (s : State) (k : Nat) : State :=
  match s.crew? k with
  | none => s
  | some w => w.rounds.foldl (fun s r => if r.complete w.nteams (s.exitedOf k) then s.completeRound w r else s) s

/-- The canvas's pending delivery, taken by the issuing team at a delivery point (R128): `none` when nothing is pending. -/
def State.delivery (s : State) : Option State :=
  match s.crew.canvas.pend with
  | none => none
  | some addr =>
    let n := (List.range 4096).countP (fun i => s.crew.canvas.counted.getLsbD i)
    let s := { s with crew := { s.crew with canvas := { s.crew.canvas with pend := none, counted := 0 } } }
    some (s.trapHere 0x08 (BitVec.ofNat 64 (addr % 2 ^ 57 + Nat.min n 127 * 2 ^ 57)))

/-- A crew barrier (R30, R54, R122, R128): the arrival of the issuing team at barrier `n`, which parks it and so, with a count of 0, is a
quiescent point even where the round completes at once (R295). -/
def barrier (i : Instr) (b counted x : Bool) (n k : Nat) (s : State) : Out :=
  let s0 := s.withTeam (s.team.belay b)
  let round := s0.crew.rounds.find? (fun r => r.n == n)
  if (match round with | some r => r.counted != counted || r.x != x || r.k != k | none => false) then .next (s.illegal i)
  else
    match s0.delivery with
    | some s' => .next s'
    | none =>
      let s1 := s0.fenceCrew
      let rounds := match round with
        | some r => ⟨n, counted, x, k, r.arrived ++ [s1.team.index]⟩ :: s1.crew.rounds.filter (fun q => q.n != n)
        | none => ⟨n, counted, x, k, [s1.team.index]⟩ :: s1.crew.rounds
      let s2 : State := { s1 with team := { s1.team with state := .parked, park := .barrier n }
                                  crew := { s1.crew with rounds := rounds, wdCount := 0 } }
      let s3 := if s2.team.nest = 0 then s2.quiesce else s2
      .next (s3.completeBarriers s3.crew.key)

/-- BAR. -/
def execBar (b : Bool) (n : BitVec 4) (s : State) : Out := barrier (.bar b n) b false false n.toNat 0 s

/-- BAR.C. -/
def execBarC (b : Bool) (k : BitVec 7) (n : BitVec 4) (s : State) : Out := barrier (.barC b k n) b true false n.toNat k.toNat s

/-- BAR.X. -/
def execBarX (b : Bool) (n : BitVec 4) (s : State) : Out := barrier (.barX b n) b false true n.toNat 0 s

/-- BAR.X.C. -/
def execBarXC (b : Bool) (k : BitVec 7) (n : BitVec 4) (s : State) : Out := barrier (.barXC b k n) b true true n.toNat k.toNat s

/-! ## EXIT -/

/-- What an EXIT leaves of an operation of the team: an LDA is discarded whole, and of another its uncommitted results and its
deferred cause (R29, R68). -/
def AsyncOp.exited (o : AsyncOp) : Option AsyncOp :=
  match o.work with
  | .lda _ _ => none
  | _ => some { o with landed := [], quota := 0, cause := none }

/-- EXIT (R29): the team ends; its uncommitted results and deferred causes are discarded, its open bank round closes (R369), and
its crew's barriers are evaluated again.  Its outstanding loads have returned: they count as performed at their issue (R295). -/
def execExit (b : Bool) (s : State) : Out :=
  let t := s.team.belay b
  if t.active = [] then .next (s.withTeam (t.advance 1))
  else
    let s1 : State := { s with
      team := { t with state := .exited, park := .awake, mstack := [], replay := none, unchecked := [] }
      ops := (s.ops.filterMap (fun o => if o.team = t.key then o.exited else some o)).filter (fun o => !o.spent)
      rounds := (s.rounds.filter (fun r => !(r.team == t.key && (r.acked || r.given == 0)))).map (fun r =>
        if r.team = t.key then { r with isOpen := false, fails := [] } else r) }
    .next (s1.completeBarriers t.crew)

/-! ## The barrier watchdog -/

/-- The two double words of a team in the capture (R32). -/
def captureTeam (halted : Bool) (t : Team) : List Byte :=
  let code := t.stateCode halted
  let park := if code = 3 then t.park.code else 0
  let bar := match t.park with | .barrier n => if code = 3 then n else 0 | _ => 0
  leBytes 8 (code * 2 ^ 61 + park * 2 ^ 58 + bar * 2 ^ 54) ++ leBytes 8 t.pc.toNat

/-- The team with the lowest index among those of a crew that are parked at a barrier.  DESIGN CHOICE: one that a debugger has halted is
still parked (log entry 83). -/
def State.firstWaiting (s : State) (k : Nat) : Option Team :=
  ((List.range 16).filterMap (fun i => (s.crewTeams k).find? (fun t =>
    t.index == i && t.state == .parked && (match t.park with | .barrier _ => true | _ => false)))).head?

/-- The capture of R32. -/
def State.capture (s : State) (w : Crew) (first : Team) (halted : Bool) : List Byte :=
  let n := match first.park with | .barrier n => n | _ => 0
  let r := (w.rounds.find? (fun r => r.n == n)).getD ⟨n, false, false, 0, []⟩
  let arrived := if r.counted then r.arrived.length else r.arrived.length + (s.exitedOf w.key).length
  let expect := if r.counted then r.k else w.nteams
  let head := 0x0C * 2 ^ 56 + n * 2 ^ 52 + r.counted.toNat * 2 ^ 51 + r.x.toNat * 2 ^ 50 + arrived % 32 * 2 ^ 45 + expect % 32 * 2 ^ 40
    + (w.nteams - 1) % 16 * 2 ^ 36 + w.core % 256 * 2 ^ 16 + w.crewid.toNat
  leBytes 8 head ++ leBytes 8 s.dev.dtime ++ (List.range 16).flatMap (fun i =>
    match (s.crewTeams w.key).find? (fun t => t.index == i) with
    | some t => captureTeam halted t
    | none => leBytes 16 0)

/-- BARRIER_WATCHDOG_EXPIRY: the crew's counter has reached its period; the context is terminated with cause 0x0C and the capture
(R28, R31, R32, R331). -/
def execBarrierWatchdogExpiry (crew : Nat) (s : State) : Out :=
  match s.crew? crew with
  | none => .next s
  | some w =>
    match s.firstWaiting crew, s.ctx? w.ctx with
    | some t, some c =>
      if c.state = .running ∧ w.wdPeriod ≤ w.wdCount then
        let body := s.capture w t false
        .next (s.terminate w.ctx 0x0C
          (recordHeader 0x0C 1 w.ctx body.length w.crewid.toNat t.pc.toNat s.dev.dtime 0 w.core t.teamid ++ body))
      else .next s
    | _, _ => .next s

/-! ## Fences -/

/-- A PUT, GET or PSIG of a team that has not completed (R273). -/
def State.remotePending (s : State) (k : Nat) : Bool :=
  (s.opsOf k).any (fun o => !o.done && (match o.work with | .remote _ _ => true | _ => false))

/-- A FENCE of a scope waits (R273). -/
def State.fenceWaits (s : State) (sc : Nat) : Bool := sc == 5 && s.remotePending s.team.key

/-- FENCE at a scope (R273, R287): what the team accesses next is performed after it. -/
def State.fenceAt (s : State) (sc : Nat) : State :=
  (if 3 ≤ sc then s.fenceDev
   else if sc = 1 then s.fenceCrew
   else s.fenceCore).orderAfter

/-- A scope covers every team of the issuing crew: .crew and wider, and .core for a crew on one core (R30, R287). -/
def Crew.coveredBy (w : Crew) (sc : Nat) : Bool := sc == 1 || decide (3 ≤ sc) || (sc == 2 && !w.pair)

/-- FENCE. -/
def execFence (b : Bool) (sc : BitVec 3) (s : State) : Out :=
  let s := s.withTeam (s.team.belay b)
  if s.team.active = [] then .next (s.withTeam (s.team.advance 1))
  else if s.fenceWaits sc.toNat then .next s.waits
  else
    let s := s.fenceAt sc.toNat
    .next (s.withTeam (s.team.advance 1))

/-- FENCE.MX: FENCE, and then the scratchpad stores of its set are seen by the engines: for the team's own later operations at any scope,
and for those of the crew's other teams where the scope covers them (R30, R274, R287). -/
def execFenceMx (b : Bool) (sc : BitVec 3) (s : State) : Out :=
  let s := s.withTeam (s.team.belay b)
  if s.team.active = [] then .next (s.withTeam (s.team.advance 1))
  else if s.fenceWaits sc.toNat then .next s.waits
  else
    let s := (s.fenceAt sc.toNat).mapHidden (fun (h : Hidden) => h.fence s.team.index s.tick (s.crew.coveredBy sc.toNat))
    .next (s.withTeam (s.team.advance 1))

/-- FENCE.SMP: FENCE, and then the drop, which completes by SAMPLER_DROP_COMPLETE; until then the team stays ready at it (R240). -/
def execFenceSmp (b : Bool) (sc : BitVec 3) (s : State) : Out :=
  let s := s.withTeam (s.team.belay b)
  if s.team.active = [] then .next (s.withTeam (s.team.advance 1))
  else if s.fenceWaits sc.toNat ∨ s.team.dropping.isSome then .next s.waits
  else
    let s := s.fenceAt sc.toNat
    .next (s.withTeam { s.team with dropping := some sc.toNat })

/-- A FENCE.SMP of a scope covers a core (R240).  DESIGN CHOICE: it issues on the core of the team's strand 0 (log entry 42). -/
def Crew.dropCovers (w : Crew) (t : Team) (sc core : Nat) : Bool :=
  let own := w.coreOf t 0
  match sc with
  | 0 => core == own
  | 2 => core == own
  | 1 => core == w.core || (w.pair && core / 2 == w.core / 2)
  | 3 => dieOf core == dieOf own
  | _ => true

/-- The sampler lines of the cores that a team's FENCE.SMP covers are dropped, and fills in flight there are not installed (R240). -/
def State.dropSampler (s : State) (t : Team) (sc : Nat) (w : Crew) : State :=
  { s with cores := s.cores.map (fun e => if w.dropCovers t sc e.1 then (e.1, { e.2 with samp := [], miss := [] }) else e) }

/-- A FENCE.SMP that was dropping lines stops: its drops have begun, or not, and it executes again from its start (R240). -/
def State.stopDrop (s : State) (t : Team) : State :=
  match t.dropping, s.crew? t.crew with
  | some sc, some w =>
    (if s.free 10 t.key then s.dropSampler t sc w else s).modTeam t.key (fun t => { t with dropping := none })
  | _, _ => s

/-- DEBUG_HALT: a debugger halts a single team, by the rules of R333: a FENCE.SMP that was dropping lines stops (R41, R240). -/
def execDebugHalt (team : Nat) (s : State) : Out :=
  match s.team? team with
  | none => .next s
  | some t => .next ((s.stopDrop t).modTeam team (fun t => { t with halted := true }))

/-- SAMPLER_DROP_COMPLETE: the sampler lines of the cores in a team's FENCE.SMP scope are dropped, fills in flight there are not
installed, and the team goes on (R240). -/
def execSamplerDropComplete (team : Nat) (s : State) : Out :=
  match s.team? team with
  | none => .next s
  | some t =>
    match t.dropping, s.crew? t.crew with
    | some sc, some w =>
      .next ((s.dropSampler t sc w).modTeam team (fun t => { (t.advance 1) with dropping := none }))
    | _, _ => .next s

/-! ## Special registers (R59, R60, R117) -/

/-- The cells that hold a flag, and the OR of all flags, in the layout of CXSUM. -/
def Canvas.summary (c : Canvas) : Word :=
  let any := c.flags.foldl (fun m p => m ||| p) (0 : Plane)
  let n := (List.range 4096).countP (fun i => any.getLsbD i)
  BitVec.ofNat 32 (n * 65536 + ((List.range 5).map (fun f => if c.flags.getD f 0 = 0 then 0 else 2 ^ f)).sum)

/-- The value of a special register for a lane. -/
def State.special (s : State) (t : Team) (i lane : Nat) : BitVec 64 :=
  match i with
  | 0x00 => BitVec.ofNat 64 (lane % 32)
  | 0x01 => BitVec.ofNat 64 (lane / 32)
  | 0x02 => BitVec.ofNat 64 t.teamid
  | 0x03 => s.crew.crewid.zeroExtend 64
  | 0x04 => BitVec.ofNat 64 (s.crew.coreOf t (lane / 32))
  | 0x05 => BitVec.ofNat 64 (dieOf (s.crew.coreOf t (lane / 32)))
  | 0x06 => s.dev.devid.zeroExtend 64
  | 0x07 => BitVec.ofNat 64 s.dev.clock
  | 0x08 => BitVec.ofNat 64 s.dev.dtime
  | 0x09 => BitVec.ofNat 64 (s.ctx.genClosed % 2 ^ 32)
  | 0x0A => BitVec.ofNat 64 s.ctx.reef
  | 0x0B => s.ctx.frameno.zeroExtend 64
  | 0x0C => BitVec.ofNat 64 (s.dev.clock / 500 % 64)
  | 0x0D => t.trap.cause.zeroExtend 64
  | 0x0E => t.trap.pc.zeroExtend 64
  | 0x0F => t.trap.info
  | 0x10 => (t.netstat.get lane).zeroExtend 64
  | _ => if s.crew.hasCanvas then s.crew.canvas.summary.zeroExtend 64 else 0

/-- CXSUM waits for every canvas instruction that the crew has issued (R60). -/
def State.specialWaits (s : State) (i : Nat) : Bool := i == 0x11 && s.crew.hasCanvas && !s.crew.canvas.queue.isEmpty

/-- Two register writes for a 64-bit value, one for a 32-bit value, at keys. -/
def specialWrites (i : Nat) (scalar : Bool) (key key2 : Nat) (v : BitVec 64) : List RegWrite :=
  if wideSpecial i then [⟨scalar, key, v.truncate 32, false, 0, none⟩, ⟨scalar, key2, (v >>> 32).truncate 32, false, 0, none⟩]
  else [⟨scalar, key, v.truncate 32, false, 0, none⟩]

/-- The writes of SREAD: unchecked for CLOCK and DTIME (R51). -/
def Team.readSpecial (t : Team) (i : Nat) (ws : List RegWrite) : Team :=
  if i = 0x07 ∨ i = 0x08 then { t with unchecked := t.unchecked ++ ws } else ws.foldl Team.land t

/-- SREAD into a lane register: each active lane receives the value at its level. -/
def execSreadLane (b : Bool) (d : BitVec 7) (i : BitVec 6) (s : State) : Out :=
  let names := if wideSpecial i.toNat then [d.toNat, d.toNat + 1] else [d.toNat]
  if s.team.namesOk names then
    if s.specialWaits i.toNat then .next s.waits
    else
      let t := s.team.belay b
      let ws := t.active.flatMap (fun l =>
        specialWrites i.toNat false (t.phys d.toNat * 1024 + l) (t.phys (d.toNat + 1) * 1024 + l) (s.special t i.toNat l))
      .next (s.withTeam ((t.readSpecial i.toNat ws).advance 1))
  else .next (s.illegal (.sreadLane b d i))

/-- The register varies by lane or strand (R59). -/
def variesByLane (i : Nat) : Bool := i == 0x00 || i == 0x01 || i == 0x10

/-- SREAD into a scalar: of a register that varies by lane or strand, the lowest active lane's value, or 0 (R59). -/
def execSreadScalar (b : Bool) (d i : BitVec 6) (s : State) : Out :=
  if s.specialWaits i.toNat then .next s.waits
  else
    let t := s.team.belay b
    let v := match t.active with
      | [] => if variesByLane i.toNat then 0 else s.special t i.toNat 0
      | l :: _ => s.special t i.toNat l
    let ws := specialWrites i.toNat true (t.scalarReg d.toNat) (t.scalarReg (d.toNat + 1)) v
    .next (s.withTeam ((t.readSpecial i.toNat ws).advance 1))

/-- A value for NETSTAT leaves its reserved bits zero (R5, R60). -/
def netstatOk (v : Word) : Bool := v &&& 0xFFFF00FE#32 == 0

/-- Writing 1 to NF clears NF and FBATCH, in the lanes of a list (R60). -/
def Team.clearNetstat (t : Team) (ls : List Nat) (f : Nat → Word) : Team :=
  { t with netstat := ls.foldl (fun m l => if (f l).getLsbD 0 then m.set l 0 else m) t.netstat }

/-- SWRITE of NETSTAT in the active lanes: a reserved bit that is not zero in any of them is cause 0x01 (R5, R60, R117). -/
def State.writeNetstat (s : State) (i : Instr) (f : Nat → Word) : Out :=
  if s.team.active.all (fun l => netstatOk (f l)) then
    .next (s.withTeam ((s.team.clearNetstat s.team.active f).advance 1))
  else .next (s.illegal i)

/-- SWRITE of TRAPPC from a lane, with its checks (R117, R325). -/
def State.writeTrapPc (s : State) (i : Instr) (lane : Nat) (v : BitVec 64) : Out :=
  if 2 ^ 57 ≤ v.toNat then .next (s.illegal i)
  else if v.toNat % 4 ≠ 0 then .next (s.vaTrap 0x03 lane v.toNat)
  else .next (s.withTeam ({ s.team with trap := { s.team.trap with pc := v.truncate 57, pcWritten := true } }.advance 1))

/-- SWRITE from a lane register. -/
def execSwriteLane (b : Bool) (i : BitVec 6) (c : BitVec 7) (s : State) : Out :=
  let wide := wideSpecial i.toNat
  if s.team.namesOk (if wide then [c.toNat, c.toNat + 1] else [c.toNat]) then
    let t := s.team.belay b
    if wide then
      match t.active with
      | [] => .next (s.withTeam (t.advance 1))
      | l :: _ => (s.withTeam t).writeTrapPc (.swriteLane b i c) l (t.rd64 c.toNat l)
    else (s.withTeam t).writeNetstat (.swriteLane b i c) (t.rd c.toNat)
  else .next (s.illegal (.swriteLane b i c))

/-- SWRITE from a scalar. -/
def execSwriteScalar (b : Bool) (i c : BitVec 6) (s : State) : Out :=
  let t := s.team.belay b
  if wideSpecial i.toNat then (s.withTeam t).writeTrapPc (.swriteScalar b i c) 0 (t.srd64 c.toNat)
  else (s.withTeam t).writeNetstat (.swriteScalar b i c) (fun _ => t.srd c.toNat)

end Sys2Proof.Machine
end

