-- ==== Sys2Proof/Machine/Copies.lean ====
section
/-! DEFINITION. The copy engine: translating every unit of an operation (14, R219), tile headers and tags (13, R207 to R209; 14,
R235 to R237), CPY, CPY2D and CPY.T (14, R221 to R227) and the completion of a copy. -/

namespace Sys2Proof.Machine

/-! ## Addresses of engine operations -/

/-- What the translation of an operation's addresses comes to: all of them, or the state in which the team has trapped or parked. -/
inductive Reached where
  | ok (locs : List Loc)
  | stop (s : State)
  deriving DecidableEq, Repr

/-- The page of an address that does not translate: the one that a leaf entry maps, or, where the walk finds none, the smallest that a
leaf could map (R249). -/
def State.failedPage (s : State) (core va : Nat) : Nat × Nat :=
  match s.walk s.ctx (dieOf core) va with
  | .ok (_, size) => (va / size, size)
  | .error _ => (va / 65536, 65536)

/-- One failing address for each page (R219). -/
def firstPerPage (page : Nat → Nat × Nat) : List FaultLane → List (Nat × Nat) → List FaultLane
  | [], _ => []
  | f :: rest, seen =>
    if page f.va ∈ seen then firstPerPage page rest seen else f :: firstPerPage page rest (page f.va :: seen)

/-- Translate the addresses of an engine operation of the issuing team, in its own order (R219). -/
def State.reach (s : State) (xs : List (Nat × Access)) : Reached :=
  let rs := xs.map (fun x => (x.1, x.2, s.translate s.home x.1 x.2))
  let having := fun (c : Nat) => rs.find? (fun r => match r.2.2 with | .error k => k == c | .ok _ => false)
  match having 0x07 with
  | some r => .stop (s.vaTrap 0x07 0 r.1)
  | none =>
    match having 0x05 with
    | some r => .stop (s.vaTrap 0x05 0 r.1)
    | none =>
      let bad := rs.filterMap (fun r => match r.2.2 with | .error c => some ⟨0, r.1, c, r.2.1.code⟩ | .ok _ => none)
      if bad = [] then .ok (rs.filterMap (fun r => match r.2.2 with | .ok l => some l | .error _ => none))
      else .stop (s.parkFault (firstPerPage (s.failedPage s.home) bad []))

/-- The TLB entries that an engine operation used (R251). -/
def State.touchUnits (s : State) (vas : List Nat) : State :=
  ((vas.map (fun v => v / 65536 * 65536)).eraseDups).foldl (fun s v => s.fillTlb s.ctx s.home v) s

/-- What the copy engine of a core does before it reads: its core's write-combining entries of those lines drain, and its core's .sc
stores to them are performed, so that it sees every store of its core (R292). -/
def State.drainFor (s : State) (core : Nat) (locs : List Loc) : State :=
  let lines := ((locs.filter (fun l => !l.ws)).map (fun l => l.pa / 128)).eraseDups
  lines.foldl (fun s line => s.drainLine core line) (s.performScFor (fun b => b.core == core && lines.contains (b.addr / 128)))

/-- The bytes at a location as a core's engine reads them. -/
def State.engineBytes (s : State) (core : Nat) (l : Loc) (n : Nat) : List Byte := (List.range n).map (s.farByte core l)

/-- The bytes at a location as a core's engine finds them as of a step (R289, R292). -/
def State.engineBytesAt (s : State) (m core : Nat) (l : Loc) (n : Nat) : List Byte :=
  if m = s.tick ∨ l.ws = true then s.engineBytes core l n
  else (List.range n).map (fun i => (s.bufferedAsOf m core (l.pa + i)).getD (s.sliceAsOf m (l.readAddr core i)))

/-- An operation reads the bytes at a location for its team: as of now, or as of a later access of the team that has read them (R289). -/
def State.readForOp (s : State) (o : AsyncOp) (l : Loc) (n : Nat) : List Byte :=
  s.engineBytesAt (if l.ws then s.tick else s.engineMoment o.team o.stamp (l.readAddr o.core 0) n) o.core l n

/-- An operation has read the bytes at some locations for its team (R289). -/
def State.opSaw (s : State) (o : AsyncOp) (locs : List Loc) (n : Nat) : State :=
  (locs.filter (fun l => !l.ws)).foldl (fun s l => s.engineSaw o.team o.stamp l.pa (l.readAddr o.core 0) n) s

/-- A location some bytes further within its page. -/
def Loc.plus (l : Loc) (k : Nat) : Loc := { l with pa := l.pa + k }

/-! ## Tile headers and tags -/

/-- TRAPINFO of cause 0x24 (R220). -/
def malformed (rec offs : Nat) : BitVec 64 := BitVec.ofNat 64 (offs % 256 * 256 + rec)

/-- The first field of a tile header that breaks R207, by its byte offset.  DESIGN CHOICE: SCALE and META are not checked against the tag
(log entry 26). -/
def headerFault (b : List Byte) : Option Nat :=
  if fieldAt b 0 8 % 16 ≠ 0 then some 0
  else if fieldAt b 8 2 = 0 ∨ fieldAt b 10 2 = 0 then some 8
  else if fieldAt b 12 4 % 16 ≠ 0 then some 12
  else if fieldAt b 30 2 ≠ 0 then some 28
  else if fieldAt b 32 8 % 256 ≠ 0 then some 32
  else if fieldAt b 44 4 ≠ 0 then some 44
  else none

/-- The bits of an element by the format of a tag; `none` where the code has no size (R223). -/
def tagBits (tag : Nat) : Option Nat :=
  match tag % 32 with
  | 1 => some 32
  | 2 => some 16
  | 3 => some 16
  | 4 => some 8
  | 5 => some 8
  | 6 => some 4
  | 7 => some 4
  | 8 => some 8
  | 9 => some 32
  | _ => none

/-- The declared region with a base (R196). -/
def Crew.regionAt (w : Crew) (base : Nat) : Option Tile := w.tiles.find? (fun r => r.base == base)

/-- Write the tag of a region (R209). -/
def Crew.setTag (w : Crew) (base : Nat) (tag : BitVec 16) : Crew :=
  { w with tiles := w.tiles.map (fun r => if r.base = base then { r with tag := tag } else r) }

/-- Cause 0x24 for a region: the spec gives the region table entry no layout, so that OFFS is open (R220). -/
def State.regionTrap (s : State) : State := s.trapHere 0x24 (malformed 3 (Config.freeByte s.tick).toNat)

/-- Read the 64 bytes of a tile header for the issuing team, as its .acq load at .dev (R207, R235). -/
def State.readHeader (s : State) (l : Loc) : State × List Byte :=
  let s1 := ((s.settleOver (l.span 64)).beforeLoad false s.home l 64).drainFor s.home [l]
  let b := s1.engineBytes s1.home l 64
  let s2 := s1.afterLoad s1.team.key 1 s1.home l 64 s1.tick
  (s2.withTeam ((s2.team.fixLoads false (l.span 64)).raiseFloor s2.tick), b)

/-- Read the tile header at an address for the issuing team and go on with its location and bytes: cause 0x03, the translation of
its address, cause 0x24 (R207, R219, R235). -/
def withHeader (s : State) (va : Nat) (body : State → Loc → List Byte → Out) : Out :=
  if va % 64 ≠ 0 then .next (s.vaTrap 0x03 0 va)
  else
    match s.reach [(va, .read)] with
    | .stop s' => .next s'
    | .ok locs =>
      let l := locs.headD ⟨0, false, false⟩
      let (s1, b) := s.readHeader l
      match headerFault b with
      | some off => .next (s1.trapHere 0x24 (malformed 2 off))
      | none => body s1 l b

/-- An engine form with its common checks: the empty mask does nothing (R219). -/
def engineForm (s : State) (t : Team) (len : Nat) (body : State → Out) : Out :=
  if t.active = [] then .next (s.withTeam (t.advance len)) else body (s.withTeam t)

/-- TAG.RD (R235, R236). -/
def execTagRd (b : Bool) (d a : BitVec 6) (r : Bool) (s : State) : Out :=
  engineForm s (s.team.belay b) 1 (fun s =>
    if r then
      match s.crew.regionAt (s.team.srd a.toNat).toNat with
      | none => .next s.regionTrap
      | some e => .next (s.withTeam ((s.team.swr d.toNat (e.tag.zeroExtend 32)).advance 1))
    else
      withHeader s (s.team.srd64 a.toNat).toNat (fun s _ h =>
        .next (s.withTeam ((s.team.swr d.toNat (BitVec.ofNat 32 (fieldAt h 28 2))).advance 1))))

/-- A scalar operand of TAG.WR and TAG.CHK: a non-zero [31:17], or an odd A with a header (R235). -/
def tagOperandBad (v : Word) (a : Nat) : Bool := decide (2 ^ 17 ≤ v.toNat) || (!v.getLsbD 16 && a % 2 == 1)

/-- TAG.WR (R235, R236).  DESIGN CHOICE: OFFS of a bad tag word, a record of REC 4, is 0 whichever of its fields is reserved (log entry 92). -/
def execTagWr (b : Bool) (a c : BitVec 6) (s : State) : Out :=
  engineForm s (s.team.belay b) 1 (fun s =>
    let v := s.team.srd c.toNat
    let tag : BitVec 16 := v.truncate 16
    if tagOperandBad v a.toNat then .next (s.illegal (.tagWr b a c))
    else if v.getLsbD 16 then
      match s.crew.regionAt (s.team.srd a.toNat).toNat with
      | none => .next s.regionTrap
      | some e =>
        if tagReserved tag.toNat then .next (s.trapHere 0x24 (malformed 4 0))
        else .next { s with team := s.team.advance 1, crew := s.crew.setTag e.base tag }
    else
      let va := (s.team.srd64 a.toNat).toNat
      withHeader s va (fun s _ _ =>
        if tagReserved tag.toNat then .next (s.trapHere 0x24 (malformed 4 0))
        else
          match s.reach [(va, .write)] with
          | .stop s' => .next s'
          | .ok locs =>
            let s := s.fenceDev.writeFrom s.team.key s.home ((locs.headD ⟨0, false, false⟩).plus 28) 4 tag.toNat
            .next (s.withTeam (s.team.advance 1))))

/-- TAG.CHK (R235, R236). -/
def execTagChk (b : Bool) (d a c : BitVec 6) (s : State) : Out :=
  engineForm s (s.team.belay b) 1 (fun s =>
    let v := s.team.srd c.toNat
    let key := v.toNat % 65536
    let finish := fun (s : State) (tag : Nat) =>
      let r : Word := if tagMatches key tag then 1 else 0
      Host.Outcome.next (s.withTeam ({ (s.team.swr d.toNat r) with flags := zeroFlags r }.advance 1))
    if tagOperandBad v a.toNat then .next (s.illegal (.tagChk b d a c))
    else if v.getLsbD 16 then
      match s.crew.regionAt (s.team.srd a.toNat).toNat with
      | none => .next s.regionTrap
      | some e => finish s e.tag.toNat
    else withHeader s (s.team.srd64 a.toNat).toNat (fun s _ h => finish s (fieldAt h 28 2)))

/-- TILE.HDR (R235, R237).  DESIGN CHOICE: a TAGW with a reserved or wildcard code is reported in the header's record, REC 2 and OFFS 28, after
every breach of R207 (log entry 92). -/
def execTileHdr (b : Bool) (d a : BitVec 6) (s : State) : Out :=
  engineForm s (s.team.belay b) 1 (fun s =>
    let va := (s.team.srd64 d.toNat).toNat
    let h := (List.range 12).flatMap (fun k => leBytes 4 (s.team.srd (a.toNat + k)).toNat)
    if va % 64 ≠ 0 then .next (s.vaTrap 0x03 0 va)
    else
      match headerFault h with
      | some off => .next (s.trapHere 0x24 (malformed 2 off))
      | none =>
        if tagReserved (fieldAt h 28 2) then .next (s.trapHere 0x24 (malformed 2 28))
        else
          match s.reach [(va, .write)] with
          | .stop s' => .next s'
          | .ok locs =>
            let s := s.release.writeFrom s.team.key s.home (locs.headD ⟨0, false, false⟩) 48 (ofLeBytes h)
            .next (s.withTeam (s.team.advance 1)))

/-! ## CPY, CPY2D, CPY.T -/

/-- The 16-byte units of a run of bytes: virtual address and scratchpad address (R222). -/
def rowUnits (ga so len : Nat) : List (Nat × Nat) := (List.range (len / 16)).map (fun u => ((ga + 16 * u) % 2 ^ 64, so + 16 * u))

/-- What the operand checks of a copy leave to translate and to do. -/
structure CopyPlan where
  units : List (Nat × Nat)
  tile : Option (Nat × Nat)
  head : List (Nat × Access)
  region : Nat
  tag : BitVec 16
  deriving DecidableEq, Repr

/-- A copy without a tag write. -/
def CopyPlan.plain (units : List (Nat × Nat)) : CopyPlan := ⟨units, none, [], 0, 0⟩

/-- The first value that is not a multiple of 16. -/
def misaligned16 (vs : List Nat) : Option Nat := vs.find? (fun v => v % 16 != 0)

/-- The operand checks of CPY (R222). -/
def State.cpyPlan (s : State) (i : Instr) (d a c : Nat) : Except State CopyPlan :=
  let ga := (s.team.srd64 d).toNat
  let so := (s.team.srd a).toNat
  let n := (s.team.srd c).toNat
  match misaligned16 [ga, so, n] with
  | some v => .error (s.vaTrap 0x03 0 v)
  | none =>
    if 1048576 < n then .error (s.illegal i)
    else if s.crew.spadSize < so + n then .error (s.vaTrap 0x05 0 so)
    else .ok (.plain (rowUnits ga so n))

/-- The operand checks of CPY2D (R222). -/
def State.cpy2dPlan (s : State) (i : Instr) (dir : Bool) (d a c : Nat) : Except State CopyPlan :=
  let ga := (s.team.srd64 d).toNat
  let so := (s.team.srd a).toNat
  let len := (s.team.srd c).toNat
  let rows := (s.team.srd (c + 1)).toNat
  let gs := (s.team.srd (c + 2)).toNat
  let ss := (s.team.srd (c + 3)).toNat
  match misaligned16 [ga, so, len, gs, ss] with
  | some v => .error (s.vaTrap 0x03 0 v)
  | none =>
    if 4096 < rows ∨ 65536 < len ∨ 1048576 < len * rows ∨ (dir = false ∧ ss < len) ∨ (dir = true ∧ gs < len) then .error (s.illegal i)
    else if 0 < rows ∧ s.crew.spadSize < so + (rows - 1) * ss + len then .error (s.vaTrap 0x05 0 so)
    else .ok (.plain ((List.range rows).flatMap (fun r => rowUnits ((ga + r * gs) % 2 ^ 64) (so + r * ss) len)))

/-- The units of a tile (R223). -/
def tileUnits (h : List Byte) (base width bytes : Nat) : List (Nat × Nat) :=
  (List.range (fieldAt h 8 2)).flatMap (fun r => rowUnits ((fieldAt h 0 8 + r * fieldAt h 12 4) % 2 ^ 64) (base + r * 4 * width) bytes)

/-- The operand checks of CPY.T, its header's location included (R223). -/
def State.cpyTPlan (s : State) (dir : Bool) (d a : Nat) : Except State (State × CopyPlan) :=
  let va := (s.team.srd64 d).toNat
  let so := (s.team.srd a).toNat
  if va % 64 ≠ 0 then .error (s.vaTrap 0x03 0 va)
  else
    match s.crew.regionAt so with
    | none => .error s.regionTrap
    | some e =>
      match s.reach [(va, .read)] with
      | .stop s' => .error s'
      | .ok locs =>
        let l := locs.headD ⟨0, false, false⟩
        let (s1, h) := s.readHeader l
        match headerFault h with
        | some off => .error (s1.trapHere 0x24 (malformed 2 off))
        | none =>
          match tagBits (if dir then e.tag.toNat else fieldAt h 28 2) with
          | none => .error (if dir then s1.regionTrap else s1.trapHere 0x24 (malformed 2 28))
          | some w =>
            if fieldAt h 10 2 * w % 128 ≠ 0 ∨ 4 * e.width < fieldAt h 10 2 * w / 8 ∨ e.rows < fieldAt h 8 2 then
              .error (s1.trapHere 0x24 (malformed 2 8))
            else
              .ok (s1, { units := tileUnits h e.base e.width (fieldAt h 10 2 * w / 8), tile := some (e.base, e.width),
                         head := [(va, if dir then .write else .read)], region := e.base,
                         tag := if dir then e.tag else BitVec.ofNat 16 (fieldAt h 28 2) })

/-- The copies that a core's copy engine holds (R220). -/
def State.copyQueue (s : State) (core : Nat) : Nat :=
  s.ops.countP (fun o => o.core == core && !o.done && s.onCores o.ctx && (match o.work with | .copy _ _ _ _ _ _ => true | .follow _ => true | _ => false))

/-- A checked copy issues: its units translate, what the team's atomics and .sc stores do to their bytes is performed, with .rel every store
that the team has made or observed, it joins the open batch, and the team goes on (R219, R220, R224, R262). -/
def State.issueCopy (s : State) (dir rel : Bool) (sw len : Nat) (p : CopyPlan) (follow : Option MmaArgs) : State :=
  let acc : Access := if dir then .write else .read
  match s.reach (p.units.map (fun u => (u.1, acc)) ++ p.head) with
  | .stop s' => s'
  | .ok locs =>
    if 64 ≤ s.copyQueue s.home then s.waits
    else
      let units := (List.zip p.units locs).map (fun x => (⟨x.2, x.1.2⟩ : CopyUnit))
      let hdr := (locs.getLast?).getD ⟨0, false, false⟩
      let tag := if p.tile.isNone then .none else if dir then .header (hdr.plus 28) p.tag else .region p.region p.tag
      let s := s.settleOver (units.flatMap (fun u => u.loc.span 16))
      let s := if dir && rel then s.fenceDev else s
      let s := (s.addOp (.copy dir units sw p.tile tag follow) 0 (!dir && rel)).touchUnits (p.units.map (fun u => u.1))
      s.withTeam (s.team.advance len)

/-- CPY (R86, R221, R222). -/
def execCpy (b : Bool) (d a c : BitVec 6) (dir ord : Bool) (sw : BitVec 3) (s : State) : Out :=
  engineForm s (s.team.belay b) 2 (fun s =>
    match s.cpyPlan (.cpy b d a c dir ord sw) d.toNat a.toNat c.toNat with
    | .error s' => .next s'
    | .ok p => .next (s.issueCopy dir ord sw.toNat 2 p none))

/-- CPY2D (R86, R221, R222). -/
def execCpy2d (b : Bool) (d a c : BitVec 6) (dir ord : Bool) (sw : BitVec 3) (s : State) : Out :=
  engineForm s (s.team.belay b) 2 (fun s =>
    match s.cpy2dPlan (.cpy2d b d a c dir ord sw) dir d.toNat a.toNat c.toNat with
    | .error s' => .next s'
    | .ok p => .next (s.issueCopy dir ord sw.toNat 2 p none))

/-- CPY.T (R86, R221, R223). -/
def execCpyT (b : Bool) (d a _c : BitVec 6) (dir ord : Bool) (_sw : BitVec 3) (s : State) : Out :=
  engineForm s (s.team.belay b) 2 (fun s =>
    match s.cpyTPlan dir d.toNat a.toNat with
    | .error s' => .next s'
    | .ok (s1, p) => .next (s1.issueCopy dir ord 0 2 p none))

/-! ## Completion -/

/-- Where a copy's scratchpad address lies (R196). -/
def Crew.copyMap (w : Crew) (sw : Nat) (tile : Option (Nat × Nat)) (a : Nat) : SpadMap :=
  match tile with
  | some (base, width) => .tile base width
  | none => w.mapAt sw a

/-- The tag write of an operation follows its data, as a .rel store at .dev (R209). -/
def State.writeTag (s : State) (o : AsyncOp) (w : Crew) (tag : TagWrite) : State :=
  match tag with
  | .none => s
  | .region base v => s.modCrew w.key (fun w => w.setTag base v)
  | .header l v => (s.releaseOf o.team o.id w).writeFrom o.team o.core l 4 v.toNat

/-- The units of a copy into the scratchpad are written (R222, R225). -/
def State.copyIn (s : State) (o : AsyncOp) (w : Crew) (index : Nat) (units : List CopyUnit) (sw : Nat) (tile : Option (Nat × Nat))
    (seen : Bool) : State :=
  let s1 := s.drainFor o.core (units.map (fun u => u.loc))
  let w1 := units.foldl (fun (w : Crew) u =>
    w.writeUnit index (o.batch + 1) s.tick (w.copyMap sw tile u.sp) u.sp (s1.readForOp o u.loc 16)) w
  let show_ := fun (h : Hidden) => if h.stamp = s.tick ∧ h.team = index then { h with enginesSee := [index] } else h
  (s1.opSaw o (units.map (fun u => u.loc)) 16).modCrew w.key (fun _ => if seen then { w1 with hidden := w1.hidden.map show_ } else w1)

/-- The units of a copy out of the scratchpad are written (R222, R224, R225). -/
def State.copyOut (s : State) (o : AsyncOp) (w : Crew) (index : Nat) (units : List CopyUnit) (sw : Nat) (tile : Option (Nat × Nat)) :
    State :=
  units.foldl (fun (s : State) u =>
    s.writeThrough u.loc 16 (ofLeBytes (s.spadRead w ⟨index, .copy, o.stamp⟩ (w.copyMap sw tile u.sp) u.sp 16))) s

/-- The units of a copy that are written in this step, the first of those left among them, and the rest: units go in no fixed order
(R222). -/
def State.someUnits (s : State) (o : AsyncOp) (units : List CopyUnit) : List CopyUnit × List CopyUnit :=
  let now := fun (x : CopyUnit × Nat) => x.2 == 0 || s.free 14 (o.id * 2 ^ 17 + x.2)
  let xs := units.zipIdx
  ((xs.filter now).map (fun x => x.1), (xs.filter (fun x => !now x)).map (fun x => x.1))

/-- The end of a copy: its tag is written, and it is complete, or its MMA is to be issued (R206, R209, R224). -/
def State.endCopy (s : State) (o : AsyncOp) (w : Crew) (tag : TagWrite) (follow : Option MmaArgs) : State :=
  let s := s.writeTag o w tag
  match follow with
  | some args => s.modOp o.id (fun o => { o with work := .follow args })
  | none => s.finishOp o [] none

/-- COPY_COMPLETE: some units of a copy are written, and after the last of them it ends.  An empty copy waits for the batches before its
own (R222). -/
def execCopyComplete (op : Nat) (s : State) : Out :=
  match s.op? op with
  | none => .next s
  | some o =>
    match o.work, s.crew? o.crew, s.team? o.team with
    | .copy out units sw tile tag follow, some w, some t =>
      if o.done || (units.isEmpty && decide (0 < o.batch) && !s.batchDone t (o.batch - 1)) then .next s
      else
        let (now, rest) := s.someUnits o units
        let s1 := if out then s.copyOut o w t.index now sw tile else s.copyIn o w t.index now sw tile follow.isSome
        .next (if rest = [] then s1.endCopy o w tag follow
          else s1.modOp op (fun o => { o with work := .copy out rest sw tile tag follow }))
    | _, _, _ => .next s

end Sys2Proof.Machine
end

