-- ==== Sys2Proof/Machine/Bank.lean ====
section
/-! DEFINITION. Bank arithmetic units (23, R355 to R359; 24, R360 to R369): rounds, the commands with their operand checks, their
execution at the unit, acknowledgement, delivery and the error registers. -/

namespace Sys2Proof.Machine

/-! ## Units -/

/-- The channel of a physical address, by its number in the package (R245). -/
def Device.channelOf (d : Device) (p : Nat) : Nat :=
  let here := d.channels.filter (fun c => c / 128 == p / 2 ^ 39)
  here.getD (p % 2 ^ 39 / 4096 % here.length) 0

/-- The bank arithmetic unit of a physical address: two for each channel (R245, R360). -/
def Device.unitOf (d : Device) (p : Nat) : Nat := 2 * d.channelOf p + p / 2048 % 2

/-- The bank of a column (R355). -/
def bankOf (p : Nat) : Nat := p / 32 % 16

/-- The element format of a bank command (R360, R362). -/
def bankFmt (f : Nat) : Fmt := if f = 0 then fp16 else if f = 1 then bf16 else fp32

/-- The bytes of an element. -/
def bankSize (f : Nat) : Nat := if f = 2 then 4 else 2

/-- The type code of the format (R80). -/
def bankType (f : Nat) : CvtType := .fp (bankFmt f)

/-- An element as the unit reads it: as CVT to .f (R108, R360). -/
def bankRead (f x : Nat) : Nat := if f = 2 then x else cvt (.fp fp32) (bankType f) false .rn x

/-! ## Rounds -/

/-- The open round of a team. -/
def State.openRound (s : State) (k : Nat) : Option BankRound := s.rounds.find? (fun r => r.team == k && r.isOpen)

/-- The rounds that a team has closed and that are not acknowledged. -/
def State.unacked (s : State) (k : Nat) : List BankRound := s.rounds.filter (fun r => r.team == k && !r.isOpen && !r.acked)

/-- TRAPINFO of cause 0x0E (R365). -/
def bankInfo (reason va : Nat) : BitVec 64 := BitVec.ofNat 64 (reason * 2 ^ 58 + va % 2 ^ 57)

/-- Cause 0x0E with its REASON. -/
def State.bankTrap (s : State) (reason va : Nat) : State := s.trapHere 0x0E (bankInfo reason va)

/-- BANK.OPEN (R356, R368). -/
def execBankOpen (b : Bool) (s : State) : Out :=
  let s := s.withTeam (s.team.belay b)
  if (s.openRound s.team.key).isSome then .next (s.bankTrap 2 0)
  else if 4 ≤ (s.unacked s.team.key).length then .next s
  else
    .next { s with
      nextKey := s.nextKey + 1
      rounds := s.rounds ++ [⟨s.nextKey, s.team.key, s.team.crew, s.team.ctx, true, 0, false, []⟩]
      team := s.team.advance 1 }

/-- The failing column that is delivered: of the earliest round that has one, of its earliest command, the lowest address
(R359). -/
def firstFail (rs : List BankRound) : Nat :=
  match rs.find? (fun r => r.fails != []) with
  | none => 0
  | some r =>
    let n := r.fails.foldl (fun m f => Nat.min m f.1) (r.fails.headD (0, 0)).1
    match (r.fails.filter (fun f => f.1 == n)).map (fun f => f.2) with
    | [] => 0
    | v :: rest => rest.foldl Nat.min v

/-- The wait of BANK.WAIT and BANK.CLOSE.w: it parks until every closed round is acknowledged, and delivers cause 0x0D
(R356, R359); the team's later accesses follow it (R293). -/
def State.bankWait (s : State) : State :=
  if s.unacked s.team.key ≠ [] then s.withTeam { s.team with state := .parked, park := .bankWait }
  else
    let seen := s.rounds.filter (fun r => r.team == s.team.key && r.acked)
    let s := { s with rounds := s.rounds.filter (fun r => !(r.team == s.team.key && r.acked)) }
    let n : Nat := (seen.map (fun (r : BankRound) => r.fails.length)).sum
    let s := s.orderAfter
    if n = 0 then s.withTeam (s.team.advance 1)
    else s.trapHere 0x0D (BitVec.ofNat 64 (Nat.min n 127 * 2 ^ 57 + firstFail seen % 2 ^ 57))

/-- BANK.WAIT (R356). -/
def execBankWait (b : Bool) (s : State) : Out := .next (s.withTeam (s.team.belay b)).bankWait

/-- A round that is closed without a command is acknowledged at once (R368). -/
def closeRound (k : Nat) (rs : List BankRound) : List BankRound :=
  (rs.map (fun r => if r.team = k then { r with isOpen := false } else r)).filter (fun r => !(r.team == k && r.given == 0))

/-- BANK.CLOSE (R356). -/
def execBankClose (b w : Bool) (s : State) : Out :=
  let s := s.withTeam (s.team.belay b)
  match s.openRound s.team.key with
  | none => if w && s.team.closing then .next s.bankWait else .next (s.bankTrap 1 0)
  | some _ =>
    let s := { s with rounds := closeRound s.team.key s.rounds }
    if w then .next (s.withTeam { s.team with closing := true }).bankWait else .next (s.withTeam (s.team.advance 1))

/-! ## Issue of a command -/

/-- How a command uses its operands: x and y read and written, and where y, the result and the factor lie in the block (R362). -/
structure BankForm where
  xRead : Bool
  xWrite : Bool
  y : Option Nat
  yRead : Bool
  yWrite : Bool
  r : Option Nat
  factor : Nat
  deriving DecidableEq, Repr

/-- The forms by SUB (R362). -/
def bankForm (op : Nat) : BankForm :=
  match op with
  | 1 => ⟨true, false, some 2, true, false, some 4, 0⟩
  | 2 => ⟨true, false, some 2, true, true, none, 4⟩
  | 3 => ⟨true, true, none, false, false, none, 2⟩
  | 6 => ⟨false, true, none, false, false, none, 2⟩
  | 7 => ⟨true, false, some 2, false, true, none, 0⟩
  | _ => ⟨true, false, none, false, false, some 2, 0⟩

/-- The addresses that stand for the pages of a range. -/
def rangePages (va n : Nat) : List Nat :=
  va :: (List.range ((va % 65536 + n - 1) / 65536)).map (fun k => (va / 65536 + 1 + k) * 65536 % 2 ^ 64)

/-- The accesses of a range. -/
def rangeAccesses (va n : Nat) (read write : Bool) : List (Nat × Access) :=
  (rangePages va n).flatMap (fun v => (if read then [(v, Access.read)] else []) ++ (if write then [(v, Access.write)] else []))

/-- The checks of one range: alignment, half-granule, replica, unit (R365). -/
def Device.rangeFault (d : Device) (va : Nat) (l : Loc) (n : Nat) (write : Bool) : Option (Nat × Nat) :=
  if va % 32 ≠ 0 then some (3, va)
  else if l.ws ∨ 2048 < va % 2048 + n then some (4, va)
  else if write ∧ l.repl then some (6, va)
  else if ¬ (d.unitOf l.pa ∈ d.bankUnits) then some (7, va)
  else none

/-- The checks of y beside x (R365). -/
def Device.secondFault (d : Device) (copy : Bool) (va : Nat) (lx ly : Loc) (n : Nat) (write : Bool) : Option (Nat × Nat) :=
  if va % 32 ≠ 0 then some (3, va)
  else if ly.ws ∨ 2048 < va % 2048 + n ∨ d.unitOf lx.pa ≠ d.unitOf ly.pa then some (4, va)
  else if bankOf lx.pa ≠ bankOf ly.pa then some (5, va)
  else if copy ∧ lx.pa ≠ ly.pa ∧ lx.pa < ly.pa + n ∧ ly.pa < lx.pa + n then some (9, va)
  else if write ∧ ly.repl then some (6, va)
  else none

/-- The check of the result word (R365). -/
def resultFault (va : Nat) (l : Loc) : Option (Nat × Nat) :=
  if va % 4 ≠ 0 then some (3, va) else if l.repl then some (6, va) else none

/-- The check of the length (R365). -/
def lengthFault (n : Nat) : Option (Nat × Nat) := if n % 512 ≠ 0 ∨ n < 512 ∨ 2048 < n then some (3, n) else none

/-- The columns of a command (R363). -/
def bankCols (all : Bool) (n : Nat) (lx ly : Loc) (x y : Nat) : List BankCol :=
  let step := if all then 32 else 512
  (List.range (n / step)).map (fun k => ⟨lx.pa + step * k, x + step * k, ly.pa + step * k, y + step * k⟩)

/-- A bank command (R362, R364, R365). -/
def bankCommand (op : Nat) (b : Bool) (f : BitVec 2) (l : Bool) (a c : BitVec 6) (s : State) : Out :=
  let s := s.withTeam (s.team.belay b)
  let t := s.team
  match s.openRound t.key with
  | none => .next (s.bankTrap 1 0)
  | some round =>
    if 64 ≤ round.given then .next (s.bankTrap 8 0)
    else
      let form := bankForm op
      let n := (t.srd c.toNat).toNat
      let x := (t.srd64 a.toNat).toNat
      let y := (form.y.map (fun k => (t.srd64 (a.toNat + k)).toNat)).getD x
      let r := form.r.map (fun k => (t.srd64 (a.toNat + k)).toNat)
      let xs := rangeAccesses x n form.xRead form.xWrite
      let ys := if form.y.isSome then rangeAccesses y n form.yRead form.yWrite else []
      let rs := (r.map (fun v => rangeAccesses v 4 false true)).getD []
      match s.reach (xs ++ ys ++ rs) with
      | .stop s' => .next s'
      | .ok locs =>
        let none' : Loc := ⟨0, false, false⟩
        let lx := locs.headD none'
        let ly := if form.y.isSome then locs.getD xs.length none' else lx
        let lr := locs.getD (xs.length + ys.length) none'
        let bad := (s.dev.rangeFault x lx n form.xWrite).or
          ((form.y.bind (fun _ => s.dev.secondFault (op == 7) y lx ly n form.yWrite)).or
            ((r.bind (fun v => resultFault v lr)).or (lengthFault n)))
        match bad with
        | some (reason, va) => .next (s.bankTrap reason va)
        | none =>
          let unit := s.dev.unitOf lx.pa
          if 16 ≤ (s.bankCmds.filter (fun q => q.unit == unit)).length then .next s.waits
          else
            let cmd : BankCmd :=
              { round := round.id, number := round.given, unit := unit, op := op, fmt := f.toNat, cols := bankCols l n lx ly x y, held := [],
                parts := List.replicate 16 (if op = 5 then 0xFF800000 else 0), factor := t.srd (a.toNat + form.factor), result := r.map (fun _ => lr), queued := s.dev.clock, stamp := s.tick, aged := false }
            let s := s.touchUnits ((xs ++ ys ++ rs).map (fun e => e.1))
            .next { s with
              bankCmds := s.bankCmds ++ [cmd]
              rounds := s.rounds.map (fun q => if q.id = round.id then { q with given := q.given + 1 } else q)
              team := s.team.advance 1 }

/-- BANK.DOT (R357). -/
def execBankDot (b : Bool) (f : BitVec 2) (l : Bool) (a c : BitVec 6) (s : State) : Out := bankCommand 1 b f l a c s

/-- BANK.AXPY (R364). -/
def execBankAxpy (b : Bool) (f : BitVec 2) (l : Bool) (a c : BitVec 6) (s : State) : Out := bankCommand 2 b f l a c s

/-- BANK.SCAL (R364). -/
def execBankScal (b : Bool) (f : BitVec 2) (l : Bool) (a c : BitVec 6) (s : State) : Out := bankCommand 3 b f l a c s

/-- BANK.SUM (R364). -/
def execBankSum (b : Bool) (f : BitVec 2) (l : Bool) (a c : BitVec 6) (s : State) : Out := bankCommand 4 b f l a c s

/-- BANK.MAX (R364). -/
def execBankMax (b : Bool) (f : BitVec 2) (l : Bool) (a c : BitVec 6) (s : State) : Out := bankCommand 5 b f l a c s

/-- BANK.FILL (R364). -/
def execBankFill (b : Bool) (f : BitVec 2) (l : Bool) (a c : BitVec 6) (s : State) : Out := bankCommand 6 b f l a c s

/-- BANK.COPY (R364). -/
def execBankCopy (b : Bool) (f : BitVec 2) (l : Bool) (a c : BitVec 6) (s : State) : Out := bankCommand 7 b f l a c s

/-- BANK.ERR (R356, R359). -/
def execBankErr (b : Bool) (d a c : BitVec 6) (s : State) : Out :=
  let s := s.withTeam (s.team.belay b)
  let v := (s.team.srd c.toNat).toNat
  let va := (s.team.srd64 a.toNat).toNat
  if 32 ≤ v then .next (s.illegal (.bankErr b d a c))
  else
    match s.reach [(va, .read)] with
    | .stop s' => .next s'
    | .ok locs =>
      let l := locs.headD ⟨0, false, false⟩
      let unit := s.dev.unitOf l.pa
      if l.ws then .next (s.bankTrap 4 va)
      else if ¬ (unit ∈ s.dev.bankUnits) then .next (s.bankTrap 7 va)
      else
        let key := 16 * unit + v % 16
        .next { s with
          team := (s.team.swr64 d.toNat (s.bankErr.get key)).advance 1
          bankErr := if 16 ≤ v then s.bankErr.set key 0 else s.bankErr }

/-! ## Execution at the unit -/

/-- The error register of a bank after an uncorrectable column (R359). -/
def recordColumn (old : BitVec 64) (p : Nat) : BitVec 64 :=
  if old.getLsbD 63 then
    let n := bits old.toNat 61 54
    BitVec.ofNat 64 (3 * 2 ^ 62 + Nat.min (n + 1) 255 * 2 ^ 54 + old.toNat % 2 ^ 54)
  else BitVec.ofNat 64 (2 ^ 63 + 2 ^ 54 + p / 32 % 2 ^ 35)

/-- A byte as a bank has it now or had it in a step, for a command of a team: what a bank command wrote is there at once, and what the team
itself has written (R367). -/
def State.bankAsOf (s : State) (team m p : Nat) : Byte :=
  match (s.past.filter (fun x => x.core.isNone && x.addr == p && decide (m < x.till) && !x.owners.contains team)).getLast? with
  | some x => x.val
  | none => s.memByte p

/-- A command reads a column: its elements, or poison where its ECC check fails (R359, R398).  A later access of the team to the column that
bypasses L1 has not been performed before it, nor an earlier one after it (R289). -/
def State.readColumn (s : State) (c : BankCmd) (p va : Nat) : State × List Nat :=
  let size := bankSize c.fmt
  let m := s.engineMoment (s.bankTeam c) c.stamp p 32
  let s := s.modTeam (s.bankTeam c) (fun t => (t.fixBefore c.stamp [(p, 32)]).saw p 32 c.stamp m)
  if p / 32 ∈ s.dev.injections then
    let key := 16 * c.unit + bankOf p
    ({ s with
        dev := { s.dev with injections := s.dev.injections.erase (p / 32) }
        bankErr := s.bankErr.set key (recordColumn (s.bankErr.get key) p)
        rounds := s.rounds.map (fun r => if r.id = c.round then { r with fails := r.fails ++ [(c.number, va)] } else r) },
      List.replicate (32 / size) ((bankFmt c.fmt).poison 0x0D))
  else (s, (List.range (32 / size)).map (fun k => ofLeBytes ((List.range size).map (fun i => s.bankAsOf (s.bankTeam c) m (p + k * size + i)))))

/-- A command's unit writes a byte: until its round is acknowledged a slice may still return the one from before the round (R293). -/
def State.bankByte (s : State) (round size p : Nat) (v : Byte) : State :=
  let known := (assoc? s.bankOld p).any (fun o => o.round == round)
  { (s.rawMem p v) with bankOld := if known then s.bankOld else (p, ⟨s.memByte p, size, round⟩) :: s.bankOld }

/-- A command's unit writes bytes. -/
def State.bankWrite (s : State) (round size p : Nat) (bytes : List Byte) : State :=
  bytes.zipIdx.foldl (fun s e => s.bankByte round size (p + e.2) e.1) s

/-- The elements of a column are written. -/
def State.writeColumn (s : State) (c : BankCmd) (p : Nat) (els : List Nat) : State :=
  s.bankWrite c.round (bankSize c.fmt) p (els.flatMap (leBytes (bankSize c.fmt)))

/-- partial + X * Y, rounded once; the accumulating operand is the first NaN (R357). -/
def dotStep (p x y : Nat) : Nat :=
  (fp32.firstNan [p, x, y]).getD (fp32.rnd .rn ((fp32.val p).add ((fp32.val x).mul (fp32.val y))))

/-- MX (R364). -/
def bankMx (p q : Nat) : Nat :=
  if fp32.isNan p then fp32.quiet p else if fp32.isNan q then fp32.quiet q else if fp32.key p ≤ fp32.key q then q else p

/-- RND of a * X, and of a * X + Y, in the command's format (R364). -/
def scaled1 (f a x : Nat) : Nat :=
  match fp32.firstNan [a, x] with
  | some n => if f = 2 then n else cvt (bankType f) (.fp fp32) false .rn n
  | none => (bankFmt f).rnd .rn ((fp32.val a).mul (fp32.val x))

def scaled2 (f a x y : Nat) : Nat :=
  match fp32.firstNan [a, x, y] with
  | some n => if f = 2 then n else cvt (bankType f) (.fp fp32) false .rn n
  | none => (bankFmt f).rnd .rn (((fp32.val a).mul (fp32.val x)).add (fp32.val y))

/-- The share of one column of a reduction: the partial values by bank (R357, R364). -/
def State.reduceColumn (s : State) (c : BankCmd) (parts : List Nat) (q : BankCol) : State × List Nat :=
  let rx := s.readColumn c q.px q.vx
  let ry := if c.op = 1 then rx.1.readColumn c q.py q.vy else (rx.1, rx.2)
  let step := fun (p : Nat) (e : Nat × Nat) =>
    let x := bankRead c.fmt e.1
    if c.op = 1 then dotStep p x (bankRead c.fmt e.2)
    else if c.op = 4 then fp32.add p x
    else bankMx p x
  (ry.1, parts.set (bankOf q.px) ((List.zip rx.2 ry.2).foldl step (parts.getD (bankOf q.px) 0)))

/-- A reduction whose banks have all served it: the total over the banks goes to the result word, through its home slice (R357, R361,
R364, R368). -/
def State.reduce (s : State) (c : BankCmd) : State :=
  let start := if c.op = 5 then 0xFF800000 else 0
  let total := c.parts.foldl (fun r p => if c.op = 5 then bankMx r p else fp32.add r p) start
  match c.result with
  | some l => (s.mark (l.pa / 128)).bankWrite c.round 4 l.pa (leBytes 4 total)
  | none => s

/-- The first operand's column of an AXPY: as it was before the command wrote it (R364). -/
def State.readFirst (s : State) (c : BankCmd) (q : BankCol) : State × List Nat :=
  match assoc? c.held q.px with
  | some els => (s, els)
  | none => s.readColumn c q.px q.vx

/-- The columns that an AXPY holds once it has served one: the column that it writes, where a later one still reads it (R364). -/
def State.heldAfter (s : State) (c : BankCmd) (q : BankCol) : List (Nat × List Nat) :=
  if c.op = 2 ∧ q.py ≠ q.px ∧ c.cols.any (fun r => r != q && r.px == q.py) = true then
    (q.py, ((s.readFirst c q).1.readColumn c q.py q.vy).2) :: c.held
  else c.held

/-- The share of one column of AXPY, SCAL, FILL and COPY (R364). -/
def State.updateColumn (s : State) (c : BankCmd) (q : BankCol) : State :=
  let a := c.factor.toNat
  match c.op with
  | 2 =>
    let rx := s.readFirst c q
    let ry := if q.py = q.px then rx else rx.1.readColumn c q.py q.vy
    ry.1.writeColumn c q.py ((List.zip rx.2 ry.2).map (fun e => scaled2 c.fmt a (bankRead c.fmt e.1) (bankRead c.fmt e.2)))
  | 3 =>
    let rx := s.readColumn c q.px q.vx
    rx.1.writeColumn c q.px (rx.2.map (fun x => scaled1 c.fmt a (bankRead c.fmt x)))
  | 6 => s.writeColumn c q.px (List.replicate (32 / bankSize c.fmt) (a % 2 ^ (8 * bankSize c.fmt)))
  | _ =>
    let rx := s.readColumn c q.px q.vx
    rx.1.writeColumn c q.py rx.2

/-- The command is a reduction. -/
def BankCmd.reduces (c : BankCmd) : Bool := c.op == 1 || c.op == 4 || c.op == 5

/-- The column of a command that a bank serves next: the lowest (R360). -/
def BankCmd.next (c : BankCmd) (bank : Nat) : Option BankCol := (c.cols.filter (fun q => bankOf q.px == bank)).head?

/-- The column of a command's result word, where it lies on the command's unit. -/
def State.resultColumn (s : State) (c : BankCmd) : Option Nat :=
  c.result.bind (fun l => if l.ws = false ∧ s.dev.unitOf l.pa = c.unit then some (l.pa / 32) else none)

/-- The commands of the same team on the same unit that were issued before a command and have not finished. -/
def State.bankBefore (s : State) (c : BankCmd) : List BankCmd :=
  (s.bankCmds.takeWhile (fun x => !(x.round == c.round && x.number == c.number))).filter (fun x =>
    x.unit == c.unit && s.bankTeam x == s.bankTeam c)

/-- A command may read and write a column: no earlier command of the team has still to write its result there (R367). -/
def State.columnFree (s : State) (c : BankCmd) (q : BankCol) : Bool :=
  (s.bankBefore c).all (fun x => s.resultColumn x != some (q.px / 32) && s.resultColumn x != some (q.py / 32))

/-- A reduction whose banks have all served it may write its result: the earlier commands of the team have finished with that column
(R367). -/
def State.resultFree (s : State) (c : BankCmd) : Bool :=
  match s.resultColumn c with
  | none => true
  | some k => (s.bankBefore c).all (fun x => s.resultColumn x != some k && !x.cols.any (fun q => q.px / 32 == k || q.py / 32 == k))

/-- What a unit can do next: of each bank, the column of the oldest queued command that needs it; and the results of the reductions that
their banks have served (R366, R367). -/
def State.bankChoices (s : State) (unit : Nat) : List (BankCmd × Option BankCol) :=
  let mine := s.bankCmds.filter (fun c => c.unit == unit)
  let banks := (mine.flatMap (fun c => c.cols.map (fun q => bankOf q.px))).eraseDups
  banks.filterMap (fun b =>
    match mine.find? (fun c => c.cols.any (fun q => bankOf q.px == b)) with
    | none => none
    | some c => (c.next b).bind (fun q => if s.columnFree c q then some (c, some q) else none))
  ++ (mine.filter (fun c => c.cols.isEmpty && s.resultFree c)).map (fun c => (c, none))

/-- A command has finished (R361). -/
def State.bankDone (s : State) (c : BankCmd) : State :=
  { s with bankCmds := s.bankCmds.filter (fun x => !(x.round == c.round && x.number == c.number)) }

/-- A bank serves one column of a command, which finishes with its last column, but a reduction with its result (R361, R367). -/
def State.serveColumn (s : State) (c : BankCmd) (q : BankCol) : State :=
  let left := c.cols.erase q
  let (s1, parts) := if c.reduces then s.reduceColumn c c.parts q else (s.updateColumn { c with cols := left } q, c.parts)
  let c1 := { c with cols := left, parts := parts, held := s.heldAfter c q }
  let put := fun (x : BankCmd) => if x.round = c.round ∧ x.number = c.number then c1 else x
  if left = [] ∧ c.reduces = false then s1.bankDone c else { s1 with bankCmds := s1.bankCmds.map put }

/-- BANK_COMMAND_FINISH: a bank of a unit serves a column of the oldest queued command that needs it, each bank in its own time, or a
reduction that its banks have served writes its result (R361, R364, R366, R367). -/
def execBankCommandFinish (unit : Nat) (s : State) : Out :=
  let xs := s.bankChoices unit
  match xs[Config.freeChoice s.tick % xs.length]? with
  | none => .next s
  | some (c, some q) => .next (s.serveColumn c q)
  | some (c, none) => .next ((s.reduce c).bankDone c)

/-- A round can be acknowledged: it is closed, or its team has gone, and its commands have finished (R368, R369). -/
def State.ackable (s : State) (r : BankRound) : Bool :=
  !r.acked && (!r.isOpen || (s.team? r.team).isNone) && !s.bankCmds.any (fun c => c.round == r.id)

/-- The team wakes from BANK.WAIT or BANK.CLOSE.w when none of its closed rounds is left (R42). -/
def State.bankWake (s : State) (k : Nat) : State :=
  if s.unacked k = [] then
    s.modTeam k (fun t => if t.state = .parked ∧ t.park = .bankWait then t.again else t)
  else s

/-- What the acknowledgement of a round of a team does to the bytes that it wrote: every slice returns the results, as the team's later
accesses do, and the lines count as written (R255, R293). -/
def State.closeWrites (s : State) (team round : Nat) : State :=
  let mine := s.bankOld.filter (fun e => e.2.round == round)
  let s := mine.foldl (fun s e => s.keep ⟨none, [team], e.1, e.2.old, 0, s.tick⟩) s
  let s := ((mine.map (fun e => e.1 / 128)).eraseDups).foldl State.mark s
  { s with bankOld := s.bankOld.filter (fun e => e.2.round != round) }

/-- BANK_ROUND_ACK: the oldest round of a team that can be is acknowledged: its results are what every slice returns, and a
round that carries no cause, or whose team has exited or gone, is forgotten (R293, R368, R369). -/
def execBankRoundAck (team : Nat) (s : State) : Out :=
  match s.rounds.find? (fun r => r.team == team && s.ackable r) with
  | none => .next s
  | some r =>
    let live := ((s.team? team).map (fun t => t.state != .exited)).getD false
    let s1 : State := { s.closeWrites team r.id with
      rounds := (s.rounds.map (fun (q : BankRound) => if q.id = r.id then { q with acked := true, isOpen := false } else q)).filter
        (fun q => !(q.acked && (q.fails.isEmpty || !live) && q.team == team)) }
    .next (s1.bankWake team)

/-- The clocks of the 20 us after which a command is promoted (R366). -/
def bankLimit : Nat := 40000

/-- BANK_AGEING: the commands of a unit that have been queued for 20 us are promoted (R366). -/
def execBankAgeing (unit : Nat) (s : State) : Out :=
  .next { s with bankCmds := s.bankCmds.map (fun c => if c.unit = unit ∧ c.queued + bankLimit ≤ s.dev.clock then { c with aged := true } else c) }

/-- BANK_REFRESH: a bank refreshes, which changes no value (R358). -/
def execBankRefresh (_unit _bank : Nat) (s : State) : Out := .next s

end Sys2Proof.Machine
end

