-- ==== Sys2Proof/Machine/CanvasCells.lean ====
section
/-! DEFINITION. What a cell of the canvas computes: the halyard tree (09, R131 to R133), cell arithmetic (08, R126; 10, R152), the
special functions (R154), compares (R155) and the visibility word (R142, R143, R156, R157). -/

namespace Sys2Proof.Machine

/-- What one cell writes, one word for each register that the instruction names, and the flags it sets: NV 1, DZ 2, OV 4, UN 8,
ES 16 (R60, R130). -/
structure CellOut where
  words : List Word
  flags : Nat
  deriving DecidableEq, Repr

/-- A value with flags. -/
abbrev Flagged := Nat × Nat

/-- An operand as a cell reads it: a subnormal is a zero of its sign (R126). -/
def cellIn (x : Nat) : Nat := if fp32.isSub x then fp32.pack (fp32.neg x) 0 else x

/-- A cell result from its exact value (R126). -/
def cellRound : Fv → Flagged
  | .nan => (0x7FC00000, 1)
  | .inf neg => (fp32.pack neg fp32.infMag, 0)
  | .fin neg n e =>
    if n = 0 then (fp32.pack neg 0, 0)
    else
      let r := fp32.rndFin .rn neg n e false
      if fp32.isInf r then (r, 4) else if fp32.mag r < 2 ^ 23 then (fp32.pack neg 0, 8) else (r, 0)

/-- A cell result: a NaN operand propagates, in operand order (R100, R126). -/
def cellResult (xs : List Nat) (v : Fv) : Flagged :=
  match fp32.firstNan xs with
  | some q => (q, 0)
  | none => cellRound v

/-- A + C, A - C, A times C and A times C plus D in a cell (R152). -/
def cellAdd (a c : Nat) : Flagged := cellResult [a, c] ((fp32.val (cellIn a)).add (fp32.val (cellIn c)))
def cellSub (a c : Nat) : Flagged := cellResult [a, c] ((fp32.val (cellIn a)).add (fp32.val (cellIn c)).negate)
def cellMul (a c : Nat) : Flagged := cellResult [a, c] ((fp32.val (cellIn a)).mul (fp32.val (cellIn c)))
def cellFma (a c d : Nat) : Flagged :=
  cellResult [a, c, d] (((fp32.val (cellIn a)).mul (fp32.val (cellIn c))).add (fp32.val (cellIn d)))

/-- The arithmetic forms by SUB (R152). -/
def cellArith (op a c d : Nat) : Flagged :=
  match op with
  | 0 => cellAdd a c
  | 1 => cellSub a c
  | 2 => cellMul a c
  | 3 => cellFma a c d
  | 4 => (fp32.min (cellIn a) (cellIn c), 0)
  | _ => (fp32.max (cellIn a) (cellIn c), 0)

/-! ## The halyard tree -/

/-- A coordinate of a cell: `origin + k + 0.5` (R131). -/
def cellCoord (origin : Int) (k : Nat) : Fv :=
  let m := 2 * (origin + k) + 1
  .fin (decide (m < 0)) m.natAbs (-1)

/-- The terms' factors of an expression: x, y, 1, or the quadratic's six (R124, R132). -/
def cellTerms (quad : Bool) (x y : Fv) : List Fv :=
  if quad then [x.mul x, x.mul y, y.mul y, x, y, .fin false 1 0] else [x, y, .fin false 1 0]

/-- An exact zero is +0 (R132). -/
def positiveZero : Fv → Fv
  | .fin neg n e => if n = 0 then .fin false 0 0 else .fin neg n e
  | v => v

/-- The value of an expression in a cell, with one rounding (R132). -/
def halyard (quad : Bool) (ks : List Word) (x y : Fv) : Flagged :=
  match fp32.firstNan (ks.map (fun k => k.toNat)) with
  | some q => (q, 0)
  | none =>
    let terms := (List.zip ks (cellTerms quad x y)).map (fun p => (fp32.val (cellIn p.1.toNat)).mul p.2)
    cellRound (positiveZero (terms.foldl Fv.add (.fin true 0 0)))

/-- The second step of CNV.EXPQ (R133). -/
def expStep (q : Nat) : Flagged :=
  if fp32.isNan q then (q, 0)
  else if fp32.isInf q then (if fp32.neg q then 0 else q, 0)
  else if fp32.neg q = true ∧ 0x42FC0000 < fp32.mag q then (0, 8)
  else if fp32.isInf (fex2 q) then (fex2 q, 4)
  else (fex2 q, 0)

/-- CNV.LIN (kind 0), CNV.QUAD (1) and CNV.EXPQ (2) in a cell. -/
def cellExpr (kind : Nat) (ks : List Word) (x y : Fv) : Flagged :=
  let r := halyard (kind != 0) ks x y
  if kind = 2 then ((expStep r.1).1, Nat.lor r.2 (expStep r.1).2) else r

/-! ## CNV.SFN, CNV.CMP, CNV.BLEND -/

/-- The special function of a code (R154). -/
def sfnOf (f x : Nat) : Nat :=
  match f with
  | 0 => frcp x
  | 1 => frsq x
  | 2 => fsqrt x
  | 3 => fex2 x
  | 4 => flg2 x
  | 5 => fsin x
  | _ => fcos x

/-- The exact value of the function is not zero and below 2 ^ -126 in magnitude (R154): 1/x beyond 2 ^ 126, 2 ^ x below -126, and
the sine of 2 ^ -126. -/
def sfnTiny (f x : Nat) : Bool :=
  match f with
  | 0 => decide (0x7E800000 < fp32.mag x) && decide (fp32.mag x < fp32.infMag)
  | 3 => fp32.neg x && decide (0x42FC0000 < fp32.mag x) && decide (fp32.mag x < fp32.infMag)
  | 5 => fp32.mag x == 0x00800000
  | _ => false

/-- CNV.SFN in a cell (R154). -/
def cellSfn (f a : Nat) : Flagged :=
  let x := cellIn a
  if fp32.isNan x then (fp32.quiet x, 0)
  else
    let r := sfnOf f x
    if fp32.isNan r then (r, 1)
    else if fp32.isInf r then (r, if fp32.isZero x then 2 else if fp32.isInf x then 0 else 4)
    else if sfnTiny f x then (fp32.pack (fp32.neg r) 0, 8)
    else (r, 0)

/-- The comparison of CNV.CMP by type and code (R155). -/
def cellCompare (ty cc : Nat) (a c : Word) : Bool :=
  match ty with
  | 0 => fp32.compare cc a.toNat c.toNat
  | 1 =>
    match cc with
    | 0 => a == c
    | 1 => a != c
    | 2 => a.slt c
    | 3 => a.sle c
    | 4 => c.slt a
    | _ => c.sle a
  | _ =>
    match cc with
    | 0 => a == c
    | 1 => a != c
    | 2 => a.ult c
    | 3 => a.ule c
    | 4 => c.ult a
    | _ => c.ule a

/-- FP32 1.0 where a condition holds, +0 where it does not. -/
def oneIf (b : Bool) : Word := if b then 0x3F800000 else 0

/-- CNV.BLEND in a cell: the three colours and T (R126).  DEDUCED: of two NaNs in the weight's product T's comes first (log entry 23). -/
def cellBlend (t alpha : Nat) (k colour : List Nat) : CellOut :=
  let w := cellMul t alpha
  let outs := (List.zip k colour).map (fun p => cellFma w.1 p.1 p.2)
  let t' := cellSub t w.1
  { words := (outs ++ [t']).map (fun o => BitVec.ofNat 32 o.1),
    flags := (outs ++ [t', w]).foldl (fun m o => Nat.lor m o.2) 0 }

/-! ## The visibility word -/

/-- DEPTH from an FP32 depth that is not a NaN (R143). -/
def depthOf (z : Nat) : Nat :=
  match fp32.val z with
  | .inf neg => if neg then 0 else 0xFFFFFF
  | .fin neg n e =>
    if neg = true ∨ n = 0 then 0
    else if 0 ≤ e then 0xFFFFFF
    else if 2 ^ (-e).toNat ≤ n then 0xFFFFFF
    else roundShift .rn false (n * 16777215) (-e).toNat false
  | .nan => 0

/-- CNV.ZTEST in a cell: the word that c14:c15 hold after it (R143, R156). -/
def cellZtest (z inst prim : Nat) (word : BitVec 64) : BitVec 64 :=
  if fp32.isNan z then word
  else
    let cand := depthOf z * 2 ^ 40 + inst * 2 ^ 20 + prim
    if cand < word.toNat then BitVec.ofNat 64 cand else word

/-- The field of the visibility word that CNV.VIS writes (R157). -/
def cellVis (m : Nat) (word : BitVec 64) : Word :=
  let w := word.toNat
  match m with
  | 0 => BitVec.ofNat 32 (if word = BitVec.allOnes 64 then 0x3F800000 else fp32.quotient false (w / 2 ^ 40) 0 16777215 0)
  | 1 => BitVec.ofNat 32 (w / 2 ^ 20 % 2 ^ 20)
  | 2 => BitVec.ofNat 32 (w % 2 ^ 20)
  | _ => oneIf (word != BitVec.allOnes 64)

end Sys2Proof.Machine
end

