-- ==== Sys2Proof/Machine/Canvas.lean ====
section
/-! DEFINITION. The canvas (08, R123 to R129; 09, R130 to R145; 10, R147 to R164): what its instructions check at issue, and what the
canvas does when it executes them, one at a time in the order of acceptance. -/

namespace Sys2Proof.Machine

/-! ## Planes of cells -/

/-- The plane whose bit `i` is `f i`. -/
def Plane.ofFn (f : Nat → Bool) : Plane :=
  BitVec.ofNat 4096 ((List.range 4096).foldl (fun acc i => if f i then acc + 2 ^ i else acc) 0)

/-- The cells of a plane's set bits. -/
def Plane.cells (p : Plane) : List Nat := (List.range 4096).filter (fun i => p.getLsbD i)

/-- Register `r` of a cell. -/
def Canvas.cell (c : Canvas) (r i : Nat) : Word := (c.regs.getD r []).get i

/-- The visibility word of a cell (R142). -/
def Canvas.visWord (c : Canvas) (i : Nat) : BitVec 64 := c.cell 15 i ++ c.cell 14 i

/-- Write register `r` in the cells of a list. -/
def Canvas.setCells (c : Canvas) (r : Nat) (cells : List (Nat × Word)) : Canvas :=
  { c with regs := c.regs.set r (cells.foldl (fun m e => m.set e.1 e.2) (c.regs.getD r [])) }

/-- The results of the enabled cells are written to the registers of a list, in every one of which a cell has a word. -/
def Canvas.writeOut (c : Canvas) (ds : List Nat) (outs : List (Nat × CellOut)) : Canvas :=
  (List.zip (List.range ds.length) ds).foldl
    (fun c e => c.setCells e.2 (outs.map (fun o => (o.1, o.2.words.getD e.1 0)))) c

/-- The cells that set a flag. -/
def raisedPlane (outs : List (Nat × CellOut)) (mask : Nat) : Plane :=
  BitVec.ofNat 4096 (outs.foldl (fun acc o => if Nat.land o.2.flags mask = 0 then acc else acc + 2 ^ o.1) 0)

/-- Flags are set, and a pending delivery is marked or counts further cells (R128, R141); `mask` is CXMASK without ES. -/
def Canvas.raise (c : Canvas) (addr mask : Nat) (outs : List (Nat × CellOut)) : Canvas :=
  let hit := raisedPlane outs mask
  { c with
    flags := (List.range 5).map (fun f => c.flags.getD f 0 ||| raisedPlane outs (2 ^ f))
    pend := if hit = 0 then c.pend else some (c.pend.getD addr)
    counted := if hit = 0 then c.counted else if c.pend.isSome then c.counted ||| hit else hit }

/-- An instruction that acts on the enabled cells: every operand is read before any register is written (R151). -/
def Canvas.each (c : Canvas) (addr mask : Nat) (ds : List Nat) (f : Nat → CellOut) : Canvas :=
  let outs := (Plane.cells c.en).map (fun i => (i, f i))
  (c.writeOut ds outs).raise addr mask outs

/-- One flagged result as a cell's output. -/
def oneOut (r : Flagged) : CellOut := ⟨[BitVec.ofNat 32 r.1], r.2⟩

/-- One word, no flag. -/
def plainOut (w : Word) : CellOut := ⟨[w], 0⟩

/-- The enables of a window (R136). -/
def windowPlane (c0 r0 c1 r1 : Int) : Plane :=
  Plane.ofFn (fun i => decide (c0 ≤ (i % 64 : Nat)) && decide (((i % 64 : Nat) : Int) ≤ c1)
    && decide (r0 ≤ (i / 64 : Nat)) && decide (((i / 64 : Nat) : Int) ≤ r1))

/-- What an instruction that only touches the canvas leaves. -/
def Canvas.perform (c : Canvas) (addr mask : Nat) (op : CanvasOp) : Canvas :=
  match op with
  | .expr kind d k =>
    c.each addr mask [d] (fun i => oneOut (cellExpr kind k (cellCoord c.x0 (i % 64)) (cellCoord c.y0 (i / 64))))
  | .arith op d a k =>
    c.each addr mask [d] (fun i => oneOut (cellArith op (c.cell a i).toNat (c.cell k i).toNat (c.cell d i).toNat))
  | .mov d a => c.each addr mask [d] (fun i => plainOut (c.cell a i))
  | .fill ds v => c.each addr mask ds (fun _ => ⟨ds.map (fun _ => v), 0⟩)
  | .sfn f d a => c.each addr mask [d] (fun i => oneOut (cellSfn f (c.cell a i).toNat))
  | .cmp ty cc d a k => c.each addr mask [d] (fun i => plainOut (oneIf (cellCompare ty cc (c.cell a i) (c.cell k i))))
  | .blend d a k =>
    c.each addr mask [d, d + 1, d + 2, d + 3] (fun i =>
      cellBlend (c.cell (d + 3) i).toNat (c.cell a i).toNat (k.map (fun w => w.toNat))
        [(c.cell d i).toNat, (c.cell (d + 1) i).toNat, (c.cell (d + 2) i).toNat])
  | .ztest a inst prim =>
    c.each addr mask [14, 15] (fun i =>
      let w := cellZtest (c.cell a i).toNat inst prim (c.visWord i)
      ⟨[w.truncate 32, (w >>> 32).truncate 32], 0⟩)
  | .vis m d => c.each addr mask [d] (fun i => plainOut (cellVis m (c.visWord i)))
  | .mac d a w => c.each addr mask [d] (fun i => oneOut (cellFma (c.cell a i).toNat w.toNat (c.cell d i).toNat))
  | .all => { c with en := BitVec.allOnes 4096 }
  | .win c0 r0 c1 r1 => { c with en := windowPlane c0 r0 c1 r1 }
  | .wrl d cells => c.setCells d cells
  | .xclr m => { c with flags := (List.range 5).map (fun f => if m.testBit f then 0 else c.flags.getD f 0) }
  | .org x y => { c with x0 := x, y0 := y }
  | .push cc a v =>
    let cond := Plane.ofFn (fun i => fp32.compare cc (c.cell a i).toNat v)
    { c with stack := (c.en, cond) :: c.stack, en := c.en &&& cond }
  | .els => match c.stack with
    | [] => c
    | (saved, cond) :: _ => { c with en := saved &&& ~~~cond }
  | .pop => match c.stack with
    | [] => c
    | (saved, _) :: rest => { c with en := saved, stack := rest }
  | .load _ _ => c
  | .store _ _ _ => c
  | .rdla _ _ _ => c
  | .rdl _ _ => c
  | .xsum _ => c
  | .xmap _ _ => c

/-- The bitmap word of CNV.XMAP (R129). -/
def Canvas.mapWord (c : Canvas) (m w : Nat) : Word :=
  BitVec.ofNat 32 ((List.range 32).foldl (fun acc i =>
    if (List.range 5).any (fun f => m.testBit f && (c.flags.getD f 0).getLsbD (32 * w + i)) then acc + 2 ^ i else acc) 0)

/-- The register writes of a team that an instruction's execution gives it (R127). -/
def Canvas.results (c : Canvas) (op : CanvasOp) : List RegWrite :=
  match op with
  | .rdl a cells => cells.map (fun e => ⟨false, e.2, c.cell a e.1, false, 0, none⟩)
  | .xsum key => [⟨true, key, c.summary, false, 0, none⟩]
  | .xmap m words => words.map (fun e => ⟨false, e.2, c.mapWord m e.1, false, 0, none⟩)
  | _ => []

/-! ## The canvas executes -/

/-- The words of a region of 64 by 64 as the canvas reads them for a team (R144, R163). -/
def State.regionWords (s : State) (w : Crew) (q : CanvasInstr) (off : Nat) : List (Nat × Word) :=
  (List.range 4096).map (fun i =>
    (i, BitVec.ofNat 32 (ofLeBytes (s.spadRead w ⟨q.team, .canvas, q.stamp⟩ (.tile off 64) (off + 4 * i) 4))))

/-- The canvas of a crew performs the oldest instruction that it has accepted (R127, R138). -/
def State.canvasStep (s : State) (crew : Nat) : State :=
  match s.crew? crew with
  | none => s
  | some w =>
    match w.canvas.queue with
    | [] => s
    | q :: rest =>
      let c := { w.canvas with queue := rest }
      let mask := ((s.ctx? w.ctx).map (fun k => (k.regOn w.core 6).toNat % 16)).getD 0
      let s1 := s.modCrew crew (fun w => { w with canvas := c.perform q.addr mask q.op })
      match q.op with
      | .load d off => s1.modCrew crew (fun w => { w with canvas := c.setCells d (s.regionWords w q off) })
      | .store d off _ =>
        s1.modCrew crew (fun w =>
          (List.range 4096).foldl (fun (w : Crew) i =>
            w.write true q.team (some 0) s.tick (.tile off 64) (off + 4 * i) (leBytes 4 (c.cell d i).toNat)) w)
      | .rdla op a cells =>
        match s1.op? op with
        | none => s1
        | some o => s1.finishOp o (cells.map (fun e => ⟨false, e.2, c.cell a e.1, false, 0, none⟩)) none
      | op =>
        match c.results op, (s1.crewTeams crew).find? (fun t => t.index == q.team) with
        | r :: rs, some t => s1.modTeam t.key (fun t => (r :: rs).foldl Team.land t)
        | _, _ => s1

/-- CANVAS_EXECUTE (R127). -/
def execCanvasExecute (crew : Nat) (s : State) : Out := .next (s.canvasStep crew)

/-! ## Issue (R138, R147, R148) -/

/-- The issuing team's canvas instruction waits for room, as every canvas form but CNV.SYNC does: one executes and one waits (R134). -/
def State.canvasFull (s : State) : Bool := decide (2 ≤ s.crew.canvas.queue.length)

/-- The depth of the enable stack once the canvas has executed what it has accepted (R136, R137). -/
def Canvas.depthAhead (c : Canvas) : Nat :=
  c.queue.foldl (fun n q => match q.op with | .push _ _ _ => n + 1 | .pop => n - 1 | _ => n) c.stack.length

/-- The canvas has not executed every instruction that it has accepted (R127). -/
def State.canvasBusy (s : State) : Bool := !s.crew.canvas.queue.isEmpty

/-- A canvas form with its common checks: the empty mask, cause 0x22, the wait (R147, R148). -/
def canvasForm (s : State) (t : Team) (len : Nat) (waits : Bool) (body : State → Out) : Out :=
  if t.active = [] then .next (s.withTeam (t.advance len))
  else if s.crew.hasCanvas = false then .next (s.trapHere 0x22 0)
  else if waits then .next (s.withTeam t).waits
  else body (s.withTeam t)

/-- The canvas accepts an instruction of the issuing team, which goes on. -/
def State.accept (s : State) (len : Nat) (op : CanvasOp) : State :=
  let q : CanvasInstr := ⟨s.team.pc.toNat, s.team.index, s.tick, op⟩
  { s with team := s.team.advance len
           crew := { s.crew with canvas := { s.crew.canvas with queue := s.crew.canvas.queue ++ [q] } } }

/-- A form with no further check. -/
def canvasPlain (b : Bool) (len : Nat) (s : State) (op : Team → CanvasOp) : Out :=
  canvasForm s (s.team.belay b) len s.canvasFull (fun s => .next (s.accept len (op s.team)))

/-- The scalars from sA on. -/
def Team.scalarsFrom (t : Team) (a n : Nat) : List Word := (List.range n).map (fun i => t.srd (a + i))

/-! ## Major 0x30 -/

/-- CNV.LIN (R16, R132, R150). -/
def execCnvLin (b : Bool) (d : BitVec 4) (a : BitVec 6) (s : State) : Out :=
  canvasPlain b 1 s (fun t => .expr 0 d.toNat (t.scalarsFrom a.toNat 3))

/-- CNV.QUAD (R124, R132). -/
def execCnvQuad (b : Bool) (d : BitVec 4) (a : BitVec 6) (s : State) : Out :=
  canvasPlain b 1 s (fun t => .expr 1 d.toNat (t.scalarsFrom a.toNat 6))

/-- CNV.EXPQ (R124, R132, R133). -/
def execCnvExpq (b : Bool) (d : BitVec 4) (a : BitVec 6) (s : State) : Out :=
  canvasPlain b 1 s (fun t => .expr 2 d.toNat (t.scalarsFrom a.toNat 6))

/-- CNV.LIN.k (R89, R150). -/
def execCnvLinK (b : Bool) (d : BitVec 4) (a : BitVec 6) (imm : BitVec 32) (s : State) : Out :=
  canvasPlain b 2 s (fun t => .expr 0 d.toNat (t.scalarsFrom a.toNat 2 ++ [imm]))

/-- CNV.QUAD.k (R89, R150). -/
def execCnvQuadK (b : Bool) (d : BitVec 4) (a : BitVec 6) (imm : BitVec 32) (s : State) : Out :=
  canvasPlain b 2 s (fun t => .expr 1 d.toNat (t.scalarsFrom a.toNat 5 ++ [imm]))

/-- CNV.EXPQ.k (R89, R150). -/
def execCnvExpqK (b : Bool) (d : BitVec 4) (a : BitVec 6) (imm : BitVec 32) (s : State) : Out :=
  canvasPlain b 2 s (fun t => .expr 2 d.toNat (t.scalarsFrom a.toNat 5 ++ [imm]))

/-! ## Major 0x31 -/

/-- CNV.ADD (R152). -/
def execCnvAdd (b : Bool) (d a c : BitVec 4) (s : State) : Out :=
  canvasPlain b 1 s (fun _ => .arith 0 d.toNat a.toNat c.toNat)

/-- CNV.SUB (R152). -/
def execCnvSub (b : Bool) (d a c : BitVec 4) (s : State) : Out :=
  canvasPlain b 1 s (fun _ => .arith 1 d.toNat a.toNat c.toNat)

/-- CNV.MUL (R152). -/
def execCnvMul (b : Bool) (d a c : BitVec 4) (s : State) : Out :=
  canvasPlain b 1 s (fun _ => .arith 2 d.toNat a.toNat c.toNat)

/-- CNV.FMA (R152). -/
def execCnvFma (b : Bool) (d a c : BitVec 4) (s : State) : Out :=
  canvasPlain b 1 s (fun _ => .arith 3 d.toNat a.toNat c.toNat)

/-- CNV.MIN (R152). -/
def execCnvMin (b : Bool) (d a c : BitVec 4) (s : State) : Out :=
  canvasPlain b 1 s (fun _ => .arith 4 d.toNat a.toNat c.toNat)

/-- CNV.MAX (R152). -/
def execCnvMax (b : Bool) (d a c : BitVec 4) (s : State) : Out :=
  canvasPlain b 1 s (fun _ => .arith 5 d.toNat a.toNat c.toNat)

/-- CNV.MOV of a cell register (R153). -/
def execCnvMov (b : Bool) (d a : BitVec 4) (s : State) : Out := canvasPlain b 1 s (fun _ => .mov d.toNat a.toNat)

/-- CNV.MOV of a scalar (R153). -/
def execCnvMovScalar (b : Bool) (d : BitVec 4) (a : BitVec 6) (s : State) : Out :=
  canvasPlain b 1 s (fun t => .fill [d.toNat] (t.srd a.toNat))

/-- CNV.SFN (R154). -/
def execCnvSfn (b : Bool) (d a : BitVec 4) (f : BitVec 3) (s : State) : Out :=
  canvasPlain b 1 s (fun _ => .sfn f.toNat d.toNat a.toNat)

/-- CNV.CMP (R155). -/
def execCnvCmp (b : Bool) (d : BitVec 4) (k : BitVec 3) (a c : BitVec 4) (t : BitVec 2) (s : State) : Out :=
  canvasPlain b 1 s (fun _ => .cmp t.toNat k.toNat d.toNat a.toNat c.toNat)

/-- CNV.BLEND (R126). -/
def execCnvBlend (b : Bool) (d a : BitVec 4) (c : BitVec 6) (s : State) : Out :=
  canvasPlain b 1 s (fun t => .blend d.toNat a.toNat (t.scalarsFrom c.toNat 3))

/-- CNV.ZTEST (R143, R156). -/
def execCnvZtest (b : Bool) (a : BitVec 4) (c : BitVec 6) (s : State) : Out :=
  let t := s.team.belay b
  let inst := (t.srd c.toNat).toNat
  let prim := (t.srd (c.toNat + 1)).toNat
  if 0xFFFFF ≤ inst ∨ 0xFFFFF ≤ prim then
    canvasForm s t 1 false (fun _ => .next (s.illegal (.cnvZtest b a c)))
  else canvasForm s t 1 s.canvasFull (fun s => .next (s.accept 1 (.ztest a.toNat inst prim)))

/-- CNV.VIS (R157). -/
def execCnvVis (b : Bool) (d : BitVec 4) (m : BitVec 2) (s : State) : Out := canvasPlain b 1 s (fun _ => .vis m.toNat d.toNat)

/-- CNV.CLR (R153). -/
def execCnvClr (b : Bool) (d : BitVec 4) (s : State) : Out := canvasPlain b 1 s (fun _ => .fill [d.toNat] 0)

/-- CNV.CLR.ones (R153). -/
def execCnvClrOnes (b : Bool) (d : BitVec 4) (s : State) : Out :=
  canvasPlain b 1 s (fun _ => .fill [d.toNat] (BitVec.allOnes 32))

/-- CNV.CLR.vis (R153). -/
def execCnvClrVis (b : Bool) (s : State) : Out := canvasPlain b 1 s (fun _ => .fill [14, 15] (BitVec.allOnes 32))

/-! ## Major 0x32: the enable stack -/

/-- Change the canvas of the issuing crew. -/
def State.withCanvas (s : State) (c : Canvas) : State := { s with crew := { s.crew with canvas := c } }

/-- Cause 0x09: ES in every cell whose E is 1 (R137). -/
def State.stackTrap (s : State) (full : Bool) : State :=
  let c := s.crew.canvas
  (s.withCanvas { c with flags := (List.range 5).map (fun f => if f = 4 then c.flags.getD 4 0 ||| c.en else c.flags.getD f 0) }).trapHere
    0x09 (if full then 1 else 0)

/-- CNV.PUSH (R136, R137): one that will find the stack full traps once the canvas has executed every earlier instruction. -/
def execCnvPush (b : Bool) (k : BitVec 3) (a : BitVec 4) (c : BitVec 6) (s : State) : Out :=
  if 8 ≤ s.crew.canvas.depthAhead then canvasForm s (s.team.belay b) 1 s.canvasBusy (fun s => .next (s.stackTrap true))
  else canvasPlain b 1 s (fun t => .push k.toNat a.toNat (t.srd c.toNat).toNat)

/-- CNV.ELSE (R136, R137): one that will find the stack empty traps once the canvas has executed every earlier instruction. -/
def execCnvElse (b : Bool) (s : State) : Out :=
  if s.crew.canvas.depthAhead = 0 then canvasForm s (s.team.belay b) 1 s.canvasBusy (fun s => .next (s.stackTrap false))
  else canvasPlain b 1 s (fun _ => .els)

/-- CNV.POP (R136, R137): one that will find the stack empty traps once the canvas has executed every earlier instruction. -/
def execCnvPop (b : Bool) (s : State) : Out :=
  if s.crew.canvas.depthAhead = 0 then canvasForm s (s.team.belay b) 1 s.canvasBusy (fun s => .next (s.stackTrap false))
  else canvasPlain b 1 s (fun _ => .pop)

/-- CNV.ALL (R136). -/
def execCnvAll (b : Bool) (s : State) : Out := canvasPlain b 1 s (fun _ => .all)

/-- CNV.WIN (R136, R158). -/
def execCnvWin (b : Bool) (a : BitVec 6) (s : State) : Out :=
  canvasPlain b 1 s (fun t => .win (t.srd a.toNat).toInt (t.srd (a.toNat + 1)).toInt (t.srd (a.toNat + 2)).toInt
    (t.srd (a.toNat + 3)).toInt)

/-! ## Major 0x33 -/

/-- CNV.MAC (R135, R159). -/
def execCnvMac (b : Bool) (d a : BitVec 4) (c : BitVec 6) (s : State) : Out :=
  canvasPlain b 1 s (fun t => .mac d.toNat a.toNat (t.srd c.toNat))

/-- CNV.MAC.k (R135, R159). -/
def execCnvMacK (b : Bool) (d a : BitVec 4) (imm : BitVec 32) (s : State) : Out :=
  canvasPlain b 2 s (fun _ => .mac d.toNat a.toNat imm)

/-! ## Major 0x34 -/

/-- The cell that an active lane reaches: strand j takes segment `sC + j` (R140). -/
def segmentCell (seg lane : Nat) : Nat := 32 * ((seg + lane / 32) % 128) + lane % 32

/-- CNV.RDL (R140, R160): the canvas reads the cells when it executes it, and the registers that receive them are interlocked (R127). -/
def execCnvRdl (b : Bool) (d : BitVec 7) (a : BitVec 4) (c : BitVec 6) (s : State) : Out :=
  if !s.team.namesOk [d.toNat] then .next (s.illegal (.cnvRdl b d a c))
  else
    canvasForm s (s.team.belay b) 1 s.canvasFull (fun s =>
      match s.delivery with
      | some s' => .next s'
      | none =>
        let t := s.team
        let seg := (t.srd c.toNat).toNat
        .next (s.accept 1 (.rdl a.toNat (t.active.map (fun l => (segmentCell seg l, t.phys d.toNat * 1024 + l))))))

/-- CNV.WRL (R140, R160). -/
def execCnvWrl (b : Bool) (d : BitVec 4) (a : BitVec 7) (c : BitVec 6) (s : State) : Out :=
  if !s.team.namesOk [a.toNat] then .next (s.illegal (.cnvWrl b d a c))
  else
    canvasPlain b 1 s (fun t =>
      .wrl d.toNat (t.active.map (fun l => (segmentCell (t.srd c.toNat).toNat l, t.rd a.toNat l))))

/-- The offset of CNV.LOAD and CNV.STORE with its checks (R144, R148, R162).  DESIGN CHOICE: an offset that is no multiple of 256 and whose
region reaches past the allocation is cause 0x03 (log entry 92). -/
def regionForm (b : Bool) (a : Nat) (s : State) (body : State → Nat → Out) : Out :=
  let t := s.team.belay b
  let off := (t.srd a).toNat
  canvasForm s t 1 false (fun s =>
    if off % 256 ≠ 0 then .next (s.vaTrap 0x03 0 off)
    else if s.crew.spadSize < off + 16384 then .next (s.vaTrap 0x05 0 off)
    else if s.canvasFull then .next s.waits
    else body s off)

/-- CNV.LOAD (R144, R162). -/
def execCnvLoad (b : Bool) (d : BitVec 4) (a : BitVec 6) (s : State) : Out :=
  regionForm b a.toNat s (fun s off => .next (s.accept 1 (.load d.toNat off)))

/-- CNV.STORE (R128, R144, R162). -/
def execCnvStore (b : Bool) (d : BitVec 4) (a : BitVec 6) (s : State) : Out :=
  regionForm b a.toNat s (fun s off =>
    match s.delivery with
    | some s' => .next s'
    | none => .next (s.accept 1 (.store d.toNat off 0)))

/-- The strands of a team whose mask word is not zero. -/
def Team.liveStrands (t : Team) : Nat := (List.range t.strands).countP (fun j => t.active.any (fun l => l / 32 == j))

/-- CNV.RDL.a (R128, R161). -/
def execCnvRdlA (b : Bool) (d : BitVec 7) (a : BitVec 4) (c : BitVec 6) (s : State) : Out :=
  if !s.team.namesOk [d.toNat] then .next (s.illegal (.cnvRdlA b d a c))
  else
    canvasForm s (s.team.belay b) 1 false (fun s =>
      let t := s.team
      let need := 128 * t.liveStrands
      if s.quotaFree < need then .next (s.trapHere 0x20 (quotaInfo need s.quotaFree))
      else if s.canvasFull then .next s.waits
      else
        match s.delivery with
        | some s' => .next s'
        | none =>
          let seg := (t.srd c.toNat).toNat
          let cells := t.active.map (fun l => (segmentCell seg l, t.phys d.toNat * 1024 + l))
          .next ((s.addOp .rdla need).accept 1 (.rdla s.nextKey a.toNat cells)))

/-! ## Major 0x35 -/

/-- CNV.XSUM (R129): the scalar is interlocked (R127). -/
def execCnvXsum (b : Bool) (d : BitVec 6) (s : State) : Out :=
  canvasPlain b 1 s (fun t => .xsum (t.scalarReg d.toNat))

/-- CNV.XMAP (R129): the registers are interlocked (R127). -/
def execCnvXmap (b : Bool) (d : BitVec 7) (a : BitVec 6) (m : BitVec 5) (s : State) : Out :=
  if !s.team.namesOk [d.toNat] then .next (s.illegal (.cnvXmap b d a m))
  else
    canvasPlain b 1 s (fun t => .xmap m.toNat (t.active.map (fun l =>
      ((32 * ((t.srd a.toNat).toNat + l / 32) + l % 32) % 128, t.phys d.toNat * 1024 + l))))

/-- CNV.XCLR (R164). -/
def execCnvXclr (b : Bool) (m : BitVec 5) (s : State) : Out := canvasPlain b 1 s (fun _ => .xclr m.toNat)

/-- CNV.SYNC (R127, R128, R163). -/
def execCnvSync (b : Bool) (s : State) : Out :=
  canvasForm s (s.team.belay b) 1 s.canvasBusy (fun s =>
    match s.delivery with
    | some s' => .next s'
    | none =>
      let s := s.mapHidden (fun h => h.observe s.team.index (fun d => d == 0))
      .next (s.withTeam (s.team.advance 1)))

/-- CNV.ORG (R131, R164). -/
def execCnvOrg (b : Bool) (a c : BitVec 6) (s : State) : Out :=
  let t := s.team.belay b
  let x := (t.srd a.toNat).toInt
  let y := (t.srd c.toNat).toInt
  let ok := fun (v : Int) => decide (-4194304 ≤ v) && decide (v ≤ 4194240)
  if ok x && ok y then canvasForm s t 1 s.canvasFull (fun s => .next (s.accept 1 (.org x y)))
  else canvasForm s t 1 false (fun _ => .next (s.illegal (.cnvOrg b a c)))

end Sys2Proof.Machine
end

