-- ==== Sys2Proof/Machine/Remote.lean ====
section
/-! DEFINITION. Registered windows and the one-sided copies PUT, GET and PSIG (17, R280 to R282; 25, R370 to R373). -/

namespace Sys2Proof.Machine

/-- A value of the device that a rule leaves open, within the present step. -/
def State.freeNumber (s : State) (kind : Nat) : Nat :=
  (Config.freeWord (s.tick * 2 ^ 10 + 2 * kind)).toNat + 2 ^ 32 * (Config.freeWord (s.tick * 2 ^ 10 + 2 * kind + 1)).toNat

/-- A registered window of a context. -/
def Context.window? (c : Context) (win : Nat) : Option Window := c.windows.find? (fun w => w.id == win)

/-- The port toward a device: the route table's, while the link is present (R370). -/
def Device.portTo (d : Device) (dev : Nat) : Option Nat :=
  (d.routes.find? (fun r => r.1 == dev && d.linksPresent.contains r.2.1)).map (fun r => r.2.1)

/-! ## Issue -/

/-- The checks of PUT, GET and PSIG that precede translation (R280).  The address that cause 0x05 reports for a window is open; DESIGN
CHOICE: the address that cause 0x03 reports is the value of the operand that is misaligned, an offset or the count too (log entry 34). -/
def State.remoteFault (s : State) (i : Instr) (local' off n win dev : Nat) (flag : Option Nat) : Option State :=
  match misaligned16 [local', off, n] with
  | some v => some (s.vaTrap 0x03 0 v)
  | none =>
    match flag.bind (fun f => if f % 4 = 0 then none else some f) with
    | some f => some (s.vaTrap 0x03 0 f)
    | none =>
      if 16777216 < n then some (s.illegal i)
      else
        match s.ctx.window? win with
        | none => some (s.vaTrap 0x05 0 (s.freeNumber 0))
        | some w =>
          if w.dev ≠ dev ∨ w.size < off + n ∨ w.size < (flag.map (fun f => f + 4)).getD 0 then some (s.vaTrap 0x05 0 (s.freeNumber 0))
          else none

/-- The retrains and replays of a port so far. -/
def Device.disturbed (d : Device) (port : Nat) : Nat := d.retrains.count port + d.replays.count port

/-- The port of a direct link to another device (R370). -/
def Device.directPort (d : Device) (dev : Nat) : Option Nat :=
  if dev = d.devid.toNat then none
  else (d.routes.find? (fun r => r.1 == dev && r.2.2 && d.linksPresent.contains r.2.1)).map (fun r => r.2.1)

/-- The segment whose sum begins at this device (R374). -/
def RingArgs.firstSeg (a : RingArgs) : Nat := (a.pos + a.devices - 1) % a.devices

/-- The chunks that an operation has started: in ascending order, four in flight at once (R374). -/
def RingArgs.started (a : RingArgs) (done : List Nat) : Nat :=
  Nat.min a.nchunk (((List.range a.nchunk).filter (fun k => done.contains k)).length + 4)

/-- The result of a unit of a chunk may be final: this device has it, or it has passed the unit's segment on to the device that makes it
(R374). -/
def RingArgs.mayBeFinal (a : RingArgs) (sent : List Nat) (joined : List (Nat × Nat × List Byte)) (chunk u : Nat) : Bool :=
  if u % a.devices = a.firstSeg then sent.contains chunk else joined.any (fun e => e.1 == chunk && e.2.1 == u % a.devices)

/-- The bytes of a segment of a chunk (R374). -/
def RingArgs.segBytes (a : RingArgs) (seg : Nat) : Nat := 16 * ((a.chunk / 16 + a.devices - 1 - seg) / a.devices)

/-- The segment whose result a device does not pass on: its successor has made it (R374). -/
def RingArgs.lastSeg (a : RingArgs) : Nat := (a.pos + 1) % a.devices

/-- The bytes of a chunk that a device sends to its successor: the partial segments but its own, and the results but its successor's
(R374). -/
def RingArgs.chunkTraffic (a : RingArgs) : Nat := 2 * a.chunk - a.segBytes a.pos - a.segBytes a.lastSeg

/-- The bytes of a chunk that has not been written at DST which have gone to the successor: the partial segments and this device's result, and of
the other results that can be final those that have gone, freely (R374). -/
def State.gone (s : State) (o : AsyncOp) (a : RingArgs) (sent : List Nat) (joined : List (Nat × Nat × List Byte)) (chunk : Nat) : Nat :=
  let passed := (List.range a.devices).filter (fun q =>
    q != a.pos && q != a.lastSeg && a.mayBeFinal sent joined chunk q && s.free 21 ((o.id * 2 ^ 12 + chunk) * 2 ^ 22 + q))
  (if sent.contains chunk then a.segBytes a.firstSeg else 0)
    + ((joined.filter (fun e => e.1 == chunk)).map (fun e => a.segBytes e.2.1)).sum + (passed.map a.segBytes).sum

/-- The bytes that a frame-class operation under way has still to send on a port: those of the units that a PUT or PSIG has not
performed, and of a ring operation the partial segments and the results that it has not passed on (R373, log entry 70). -/
def State.unsentOn (s : State) (port : Nat) (o : AsyncOp) : Nat :=
  if o.done then 0
  else
    match o.work with
    | .remote kind a => if a.tc && kind != 1 && s.dev.portTo a.dev == some port then 16 * a.todo.length else 0
    | .ring a done sent joined =>
      if a.tc && s.dev.portTo a.succ == some port then
        let chunks := (List.range (a.started done)).filter (fun k => !done.contains k)
        a.chunkTraffic * (a.nchunk - done.length) - (chunks.map (s.gone o a sent joined)).sum
      else 0
    | _ => 0

/-- The clock by which a frame-class PUT or PSIG of some bytes to a directly linked device completes: 1.2 us or 1.5 us and a nanosecond
for every 28 bytes, two clocks to the nanosecond (R373). -/
def State.remoteBound (s : State) (kind : Nat) (tc : Bool) (dev n : Nat) (units : List Loc) : Option Nat :=
  match s.dev.directPort dev with
  | none => none
  | some port =>
    if tc && kind != 1 && (kind == 2 || decide (n ≤ 1048576)) && units.all (fun l => !l.ws) then
      some (s.dev.clock + (if kind = 2 then 3000 else 2400) + (n + (s.ops.map (s.unsentOn port)).sum) / 14)
    else none

/-- PUT (kind 0), GET (1) and PSIG (2): the operation joins the open batch (R280). -/
def remoteCopy (i : Instr) (kind : Nat) (b : Bool) (d a c win : BitVec 6) (tc ord : Bool) (dev : BitVec 22) (s : State) : Out :=
  engineForm s (s.team.belay b) 2 (fun s =>
    let t := s.team
    let va := (t.srd64 d.toNat).toNat
    let off := (t.srd64 a.toNat).toNat
    let n := (t.srd c.toNat).toNat
    let flag := if kind = 2 then some (t.srd (c.toNat + 1)).toNat else none
    match s.remoteFault i va off n win.toNat dev.toNat flag with
    | some s' => .next s'
    | none =>
      let units := (List.range (n / 16)).map (fun u => (va + 16 * u) % 2 ^ 64)
      match s.reach (units.map (fun v => (v, if kind = 1 then Access.write else Access.read))) with
      | .stop s' => .next s'
      | .ok locs =>
        let s := s.settleOver (locs.flatMap (fun l => l.span 16))
        let s := if ord && kind != 1 then s.fenceDev else s
        let args : RemoteArgs := { units := locs, todo := List.range locs.length, win := win.toNat, off := off, dev := dev.toNat, flag := flag.getD 0, tc := tc,
                                   rel := ord && kind != 1, bound := s.remoteBound kind tc dev.toNat n locs,
                                   marks := ((s.dev.portTo dev.toNat).map s.dev.disturbed).getD 0 }
        let s := (s.addOp (.remote kind args) 0 (ord && kind == 1)).touchUnits units
        .next (s.withTeam (s.team.advance 2)))

/-- PUT. -/
def execPut (b : Bool) (d a c win : BitVec 6) (tc ord : Bool) (dev : BitVec 22) (s : State) : Out :=
  remoteCopy (.put b d a c win tc ord dev) 0 b d a c win tc ord dev s

/-- GET. -/
def execGet (b : Bool) (d a c win : BitVec 6) (tc ord : Bool) (dev : BitVec 22) (s : State) : Out :=
  remoteCopy (.get b d a c win tc ord dev) 1 b d a c win tc ord dev s

/-- PSIG. -/
def execPsig (b : Bool) (d a c win : BitVec 6) (tc ord : Bool) (dev : BitVec 22) (s : State) : Out :=
  remoteCopy (.psig b d a c win tc ord dev) 2 b d a c win tc ord dev s

/-! ## Completion -/

/-- The batch of a failed operation carries cause 0x25 with the address of its instruction (R281, R346). -/
def State.endFailed (s : State) (o : AsyncOp) : State := s.finishOp o [] (some (0x25, BitVec.ofNat 64 (o.pc % 2 ^ 57)))

/-- The window that an operation may still use: registered for its device, allowing its kind, with the device in reach; a remote
side may fail at any time (R281, R370, R371). -/
def State.windowFor (s : State) (o : AsyncOp) (kind : Nat) (a : RemoteArgs) : Option Window :=
  match (s.ctx? o.ctx).bind (fun c => c.window? a.win) with
  | none => none
  | some w =>
    if w.dev = a.dev ∧ (if kind = 1 then w.allowGet else w.allowPut) = true
        ∧ (a.dev = s.dev.devid.toNat ∨ ((s.dev.portTo a.dev).isSome ∧ s.free 7 o.id = false)) then some w else none

/-- The earlier PUTs and PSIGs of its team to the same device for which an operation with .rel waits (R281). -/
def State.remoteBefore (s : State) (o : AsyncOp) (a : RemoteArgs) : List AsyncOp :=
  if a.rel then (s.opsOf o.team).filter (fun p => !p.done && decide (p.id < o.id) &&
    (match p.work with | .remote k b => k != 1 && b.dev == a.dev | _ => false))
  else []

/-- An operation with .rel still waits (R281). -/
def State.remoteHeld (s : State) (o : AsyncOp) (a : RemoteArgs) : Bool := !(s.remoteBefore o a).isEmpty

/-- The clock by which a PUT or PSIG has to complete: its bound, unless its link has retrained or replayed a flit since (R373). -/
def State.remoteDue (s : State) (o : AsyncOp) : Option Nat :=
  if o.done then none
  else
    match o.work with
    | .remote _ a => if ((s.dev.portTo a.dev).map s.dev.disturbed).getD 0 = a.marks then a.bound else none
    | _ => none

/-- The location of a unit of a window on this device itself (R281). -/
def State.ownUnit (s : State) (o : AsyncOp) (w : Window) (acc : Access) (off : Nat) : Option Loc :=
  match s.ctx? o.ctx with
  | none => none
  | some c => match s.translateFor c (dieOf o.core) (w.base + off) acc with | .ok l => some l | .error _ => none

/-- A byte that another device holds and that no event gives. -/
def State.remoteByte (s : State) (o : AsyncOp) (k : Nat) : Byte := Config.freeByte (2 ^ 201 + s.tick * 2 ^ 90 + o.id * 2 ^ 40 + k)

/-- The bytes of a unit of another device's window that no event gives. -/
def State.remoteUnit (s : State) (o : AsyncOp) (u : Nat) : List Byte := (List.range 16).map (fun i => s.remoteByte o (16 * u + i))

/-- Bytes go to another device: of a kind, for an address there. -/
def State.sendTo (s : State) (dev kind addr : Nat) (bytes : List Byte) : State :=
  { s with dev := s.dev.report (fun r => { r with sent := r.sent ++ [(dev, kind, addr, bytes)] }) }

/-- Unit `u` of a PUT or PSIG is performed in the window: at its location on this device, or on another one by the traffic that leaves for it.
`none`: the window does not take it (R281, R371). -/
def State.putUnit (s : State) (o : AsyncOp) (a : RemoteArgs) (w : Window) (u : Nat) : Option State :=
  let l := a.units.getD u ⟨0, false, false⟩
  let s1 := s.drainFor o.core [l]
  let data := s1.readForOp o l 16
  let s2 := s1.opSaw o [l] 16
  if a.dev = s.dev.devid.toNat then (s2.ownUnit o w .write (a.off + 16 * u)).map (fun d => s2.writeThrough d 16 (ofLeBytes data))
  else some (s2.sendTo a.dev 0 (w.base + a.off + 16 * u) data)

/-- Unit `u` of a GET is performed here, with the bytes that the window holds: the device's own from its memory, another's as they have come.
`none`: the window does not give it (R281, R371). -/
def State.getUnit (s : State) (o : AsyncOp) (a : RemoteArgs) (w : Window) (given : List Byte) (u : Nat) : Option State :=
  let l := a.units.getD u ⟨0, false, false⟩
  if a.dev = s.dev.devid.toNat then
    (s.ownUnit o w .read (a.off + 16 * u)).map (fun d =>
      let s := s.drainFor o.core [d]
      (s.hasRead o.core [d] 16).writeThrough l 16 (ofLeBytes (s.engineBytes o.core d 16)))
  else some (s.writeThrough l 16 (ofLeBytes given))

/-- A unit of a PUT (kind 0), GET (1) or PSIG (2) (R281). -/
def State.moveUnit (s : State) (o : AsyncOp) (kind : Nat) (a : RemoteArgs) (w : Window) (given : Nat → List Byte) (u : Nat) : Option State :=
  if kind = 1 then s.getUnit o a w (given u) u else s.putUnit o a w u

/-- Units of an operation are performed in turn; `none`: one of them fails. -/
def State.moveUnits (s : State) (o : AsyncOp) (kind : Nat) (a : RemoteArgs) (w : Window) (given : Nat → List Byte) (us : List Nat) : Option State :=
  us.foldl (fun r u => r.bind (fun s => s.moveUnit o kind a w given u)) (some s)

/-- A failed operation leaves each unit that is not performed yet either written or not, freely (R281). -/
def State.failUnits (s : State) (o : AsyncOp) (kind : Nat) (a : RemoteArgs) (given : Nat → List Byte) : State :=
  match (s.ctx? o.ctx).bind (fun c => c.window? a.win) with
  | none => s
  | some w =>
    if w.dev ≠ a.dev then s
    else
      (a.todo.filter (fun u => s.free 8 (o.id * 2 ^ 20 + u))).foldl (fun s u => (s.moveUnit o kind a w given u).getD s) s

/-- A PUT, GET or PSIG fails (R281). -/
def State.failRemote (s : State) (o : AsyncOp) (kind : Nat) (a : RemoteArgs) : State := (s.failUnits o kind a (s.remoteUnit o)).endFailed o

/-- A unit of an operation is performed while others are not yet: the units go in no fixed order (R222, R281). -/
def State.remoteStep (s : State) (op u : Nat) : State :=
  match s.op? op with
  | none => s
  | some o =>
    match o.work with
    | .remote kind a =>
      if o.done || s.remoteHeld o a || !a.todo.contains u then s
      else
        match (s.windowFor o kind a).bind (fun w => s.moveUnit o kind a w (s.remoteUnit o) u) with
        | none => s.failRemote o kind a
        | some s1 => s1.modOp op (fun o => { o with work := .remote kind { a with todo := a.todo.filter (fun x => x != u) } })
    | _ => s

/-- The units of an operation that are left are performed, with the window that they used; `none`: the operation fails. -/
def State.moveRest (s : State) (o : AsyncOp) (kind : Nat) (a : RemoteArgs) (given : Nat → List Byte) : Option (State × Window) :=
  match s.windowFor o kind a with
  | none => none
  | some w => (s.moveUnits o kind a w given a.todo).map (fun s => (s, w))

/-- PUT_COMPLETE: the units that are left are performed, and the operation completes (R281). -/
def execPutComplete (op : Nat) (s : State) : Out :=
  match s.op? op with
  | none => .next s
  | some o =>
    match o.work with
    | .remote 0 a =>
      if o.done || s.remoteHeld o a then .next s
      else
        match s.moveRest o 0 a (s.remoteUnit o) with
        | some (s, _) => .next (s.finishOp o [] none)
        | none => .next (s.failRemote o 0 a)
    | _ => .next s

/-- Add 1 to a word at its home slice, as an atomic (R281). -/
def State.addOne (s : State) (l : Loc) : State :=
  let old := ofLeBytes ((List.range 4).map (fun i => s.sliceByte (l.pa + i)))
  (s.reported l.pa 4).writeThrough l 4 ((old + 1) % 2 ^ 32)

/-- PSIG_COMPLETE: after every unit the flag is added to (R281). -/
def execPsigComplete (op : Nat) (s : State) : Out :=
  match s.op? op with
  | none => .next s
  | some o =>
    match o.work with
    | .remote 2 a =>
      if o.done || s.remoteHeld o a then .next s
      else
        match s.moveRest o 2 a (s.remoteUnit o) with
        | none => .next (s.failRemote o 2 a)
        | some (s1, w) =>
          if a.dev = s.dev.devid.toNat then
            match s1.ownUnit o w .atomic a.flag with
            | some l => .next ((s1.addOne l).finishOp o [] none)
            | none => .next (s.failRemote o 2 a)
          else .next ((s1.sendTo a.dev 2 (w.base + a.flag) []).finishOp o [] none)
    | _ => .next s

/-- GET_COMPLETE: the units that are left are performed here with the bytes that the event gives for another device's window, and the
operation completes (R281).  DESIGN CHOICE: what a unit of another device holds that is performed before the event is open (log entry 70). -/
def execGetComplete (op : Nat) (bytes : List (BitVec 8)) (s : State) : Out :=
  match s.op? op with
  | none => .next s
  | some o =>
    match o.work with
    | .remote 1 a =>
      if o.done then .next s
      else
        let given := fun (u : Nat) => (List.range 16).map (fun i => (bytes[16 * u + i]?).getD (s.remoteByte o (16 * u + i)))
        match s.moveRest o 1 a given with
        | some (s, _) => .next (s.finishOp o [] none)
        | none => .next ((s.failUnits o 1 a given).endFailed o)
    | _ => .next s

/-- Bytes of a PUT of another device reach the home slices, unit by unit, each at the place of its own page; one that does not translate is
not written (R281, R371). -/
def State.remotePut (s : State) (c : Context) (va : Nat) (bytes : List Byte) : State :=
  (List.range ((bytes.length + 15) / 16)).foldl (fun s u =>
    let part := (bytes.drop (16 * u)).take 16
    match s.translateFor c 0 (va + 16 * u) .write with
    | .ok l => s.writeThrough l part.length (ofLeBytes part)
    | .error _ => s) s

/-- REMOTE_ACCESS: traffic of another device reaches the home slices of a context's memory: units of a PUT (kind 0), a read of a
GET (kind 1), which changes nothing here, or the add of a PSIG (kind 2) (R281, R371). -/
def execRemoteAccess (ctx kind va : Nat) (bytes : List (BitVec 8)) (s : State) : Out :=
  match s.ctx? ctx with
  | none => .next s
  | some c =>
    if kind = 0 then .next (s.remotePut c va bytes)
    else if kind = 1 then
      match s.translateFor c 0 va .read with
      | .error _ => .next s
      | .ok l => .next (s.hasRead 0 [l] 16)
    else
      match s.translateFor c 0 va .atomic with
      | .error _ => .next s
      | .ok l => .next (s.addOne l)

/-! ## Windows and links -/

/-- WINDOW_REGISTER (R371). -/
def execWindowRegister (ctx win dev base size : Nat) (allowPut allowGet : Bool) (s : State) : Out :=
  if win < 64 ∧ dev < 2 ^ 22 ∧ size % 65536 = 0 ∧ size ≤ 2 ^ 40 then
    .next (s.modCtx ctx (fun c =>
      { c with windows := ⟨win, dev, base, size, allowPut, allowGet⟩ :: c.windows.filter (fun w => w.id != win) }))
  else .next s

/-- ROUTE_TABLE_WRITE: the masthead kernel names the port toward a device, and whether it links to it directly (R370). -/
def execRouteTableWrite (dev port : Nat) (direct : Bool) (s : State) : Out :=
  if dev < 2 ^ 22 ∧ port ∈ s.dev.linksPresent then
    .next { s with dev := { s.dev with routes := (dev, port, direct) :: s.dev.routes.filter (fun r => r.1 != dev) } }
  else .next s

/-- LINK_RETRAIN: a link retrains and keeps its place (R370, R373). -/
def execLinkRetrain (port : Nat) (s : State) : Out := .next { s with dev := { s.dev with retrains := s.dev.retrains ++ [port] } }

/-- FLIT_CRC_FAILURE: the link layer replays a flit (R370). -/
def execFlitCrcFailure (port : Nat) (s : State) : Out := .next { s with dev := { s.dev with replays := s.dev.replays ++ [port] } }

/-- FORWARDED_FLIT: a flit for another device goes out on the port that the route table names (R370). -/
def execForwardedFlit (_port dest : Nat) (flit : List (BitVec 8)) (s : State) : Out :=
  match s.dev.portTo dest with
  | some out => if dest = s.dev.devid.toNat then .next s else .next { s with dev := s.dev.report (fun r => { r with flits := r.flits ++ [(out, flit)] }) }
  | none => .next s

end Sys2Proof.Machine
end

