-- ==== Sys2Proof/Machine/Frames.lean ====
section
/-! DEFINITION. Frame release and the reef governor (20, R319 to R322; 22, R344), device time and the time pins (25, R376 to R378). -/

namespace Sys2Proof.Machine

/-! ## FRAME.REL -/

/-- The pending release that is released first: the least time, and among equals the earliest issued (R321). -/
def firstRelease : List Release → Option Release
  | [] => none
  | r :: rest =>
    match firstRelease rest with
    | none => some r
    | some q => if q.time < r.time then some q else some r

/-- FRAME.REL (R321, R344): as FENCE.sys, then the message is read as an .acq load at .dev reads it. -/
def execFrameRel (b e : Bool) (a c : BitVec 6) (s : State) : Out :=
  let s := s.withTeam (s.team.belay b)
  let t := s.team
  let msg := (t.srd64 c.toNat).toNat
  let dst := (t.srd64 (c.toNat + 2)).toNat
  if e && !s.ctx.ownsFsync then .next (s.unprivileged (.frameRel b e a c))
  else if msg % 64 ≠ 0 then .next (s.vaTrap 0x03 0 msg)
  else if dst % 64 ≠ 0 then .next (s.vaTrap 0x03 0 dst)
  else
    match s.reach [(msg, .read), (dst, .write)] with
    | .stop s' => .next s'
    | .ok locs =>
      if 8 ≤ s.ctx.releases.length ∨ s.remotePending t.key then .next s.waits
      else
        let (s1, bytes) := (s.fenceDev.touchUnits [msg, dst]).readHeader (locs.headD ⟨0, false, false⟩)
        let dst1 := locs.getLastD ⟨0, false, false⟩
        let time := (t.srd64 a.toNat).toNat
        let r : Release :=
          { time := time, dest := dst1.pa, repl := dst1.repl, msg := bytes, edge := e,
            late := decide (time < s1.dev.dtime + 20000) }
        .next { s1 with team := s1.team.advance 1, ctx := { s1.ctx with releases := s1.ctx.releases ++ [r] } }

/-! ## The reef governor -/

/-- The target level of a context (R319). -/
def Context.reefTarget (c : Context) (now : Nat) : Nat :=
  match firstRelease c.releases with
  | none => 0
  | some r =>
    if r.time ≤ now then 3
    else
      let left := r.time - now
      let work := ((List.range c.nodes.length).map (fun n => (c.bins.getD n []).length * ((c.nodes[n]?).map (fun e => e.cost)).getD 0)).sum
      let room := c.cores.length * left
      if 4 * work ≤ 3 * room then 0 else if work ≤ room then 1 else if 2 * work ≤ 3 * room then 2 else 3

/-- A level within a context's floor and cap (R319, R320). -/
def Context.reefClamp (c : Context) (n : Nat) : Nat := Nat.min (Nat.max n c.reefFloor) c.reefCap

/-- REEF after a tick (R320). -/
def Context.reefTick (c : Context) (now : Nat) : Context :=
  let target := c.reefClamp (c.reefTarget now)
  if target < c.reef then
    if 63 ≤ c.reefBelow then { c with reef := c.reef - 1, reefBelow := 0 } else { c with reefBelow := c.reefBelow + 1 }
  else { c with reef := target, reefBelow := 0 }

/-- A context that the governors serve. -/
def Context.governed (c : Context) : Bool := c.loaded && c.state != .none && c.state != .terminated

/-- REEF_GOVERNOR_TICK: every microsecond of device time (R313, R319, R320). -/
def execReefGovernorTick (s : State) : Out :=
  if s.dev.dtime < s.dev.lastReef + 1000 then .next s
  else
    let f := fun (c : Context) => if c.governed then c.reefTick s.dev.dtime else c
    .next { s with ctx := f s.ctx, ctxs := s.ctxs.map f, dev := { s.dev with lastReef := s.dev.lastReef + 1000 } }

/-! ## The release -/

/-- The last 16 bytes of a released message (R321). -/
def releaseTail (dtime frameno : Nat) (late nosync : Bool) : List Byte :=
  leBytes 8 dtime ++ leBytes 4 frameno ++ leBytes 4 (late.toNat + 2 * nosync.toNat)

/-- The FSYNC output rose within 2 us (R321). -/
def Device.edgeClose (d : Device) : Bool :=
  match d.time.fsyncRose with
  | some t => decide (d.dtime ≤ t + 2000)
  | none => false

/-- A release leaves the pending list; a next one whose time has passed is late (R321). -/
def Context.popRelease (c : Context) (r : Release) (now : Nat) : Context :=
  let rest := c.releases.erase r
  match firstRelease rest with
  | some q => { c with releases := rest.map (fun x => if x = q ∧ q.time < now then { x with late := true } else x) }
  | none => { c with releases := rest }

/-- FRAME_RELEASE: the first pending release of a context falls due (R320, R321, R322). -/
def execFrameRelease (ctx : Nat) (s : State) : Out :=
  match s.ctx? ctx with
  | none => .next s
  | some c =>
    match firstRelease c.releases with
    | none => .next s
    | some r =>
      if s.dev.dtime < r.time ∨ ¬ (c.state = .running ∨ c.state = .halted) then .next s
      else
        let close := r.edge && s.dev.edgeClose
        let frameno := c.frameno + 1
        let bytes := r.msg.take 48 ++ releaseTail s.dev.dtime frameno.toNat r.late close
        let s1 := s.writeThrough ⟨r.dest, r.repl, false⟩ 64 (ofLeBytes bytes)
        let s2 := s1.modCtx ctx (fun c =>
          let c := c.popRelease r s.dev.dtime
          { c with frameno := frameno, reef := c.reefClamp (c.reefTarget s.dev.dtime), reefBelow := 0 })
        if r.edge && !close then
          .next { s2 with dev := ({ s2.dev with time := { s2.dev.time with fsyncOut := true, fsyncRose := some s.dev.dtime } }).report
                            (fun q => { q with fsyncEdges := q.fsyncEdges ++ [s.dev.dtime] }) }
        else .next s2

/-- FSYNC_PULSE_END: the output falls 1 us after it rose (R321). -/
def execFsyncPulseEnd (s : State) : Out :=
  match s.dev.time.fsyncRose with
  | some t =>
    if s.dev.time.fsyncOut = true ∧ t + 1000 ≤ s.dev.dtime then
      .next { s with dev := { s.dev with time := { s.dev.time with fsyncOut := false } } }
    else .next s
  | none => .next s

/-! ## Device time -/

/-- Change the discipline of device time. -/
def State.modTime (s : State) (f : TimeState → TimeState) : State := { s with dev := { s.dev with time := f s.dev.time } }

/-- Sixteen offsets lie within 100 ns of the latest one, or of zero (R376). -/
def steady (offsets : List Int) (centre : Int) : Bool :=
  decide (offsets.length = 16) && offsets.all (fun o => decide ((o - centre).natAbs ≤ 100))

/-- The pending releases that a forward step passes are late and give no edge (R377). -/
def Context.stepPast (c : Context) (now source : Nat) : Context :=
  { c with releases := c.releases.map (fun r => if now < r.time ∧ r.time < source then { r with late := true, edge := false } else r) }

/-- An offset as a whole number of seconds and the rest, which is the nearest to zero. -/
def wholeSeconds (offset : Int) : Int := (offset + 500000000) / 1000000000

/-- DTIME steps forward, once (R376, R377).  The governors' ticks, the pulses and the input edges of late keep their distances, and the time of
day its offset from the source (R378). -/
def State.stepTime (s : State) (source : Nat) : State :=
  let now := s.dev.dtime
  let s1 : State := { s with ctx := s.ctx.stepPast now source, ctxs := s.ctxs.map (fun c => c.stepPast now source),
                             dev := { s.dev with dtime := source, lastTrim := s.dev.lastTrim + (source - now),
                                                 lastReef := s.dev.lastReef + (source - now), lastPower := s.dev.lastPower + (source - now) } }
  s1.modTime (fun t => { t with disc := .locked, stepped := true, slew := 0, offsets := [], ppsRose := t.ppsRose + (source - now),
                                seconds := wholeSeconds (t.seconds * 1000000000 - ((source - now : Nat) : Int)), lastSync := t.lastSync + (source - now),
                                fsyncRose := t.fsyncRose.map (fun r => r + (source - now)),
                                ppsInAt := t.ppsInAt.map (fun r => r + (source - now)),
                                fsyncInAt := t.fsyncInAt.map (fun r => r + (source - now)) })

/-- An offset estimate of one sync interval.  The first steady one steps DTIME forward once, where the source is ahead; every other
offset is slewed away, and the discipline is locked once the offsets have stayed near zero, after which there is no step (R376). -/
def State.takeOffset (s : State) (offset : Int) : State :=
  let t := s.dev.time
  let recent := (t.offsets ++ [offset]).drop ((t.offsets.length + 1) - 16)
  let disc := if t.disc = Discipline.locked then Discipline.locked else Discipline.acquiring
  let first := !t.stepped && t.disc != .locked && steady recent offset
  let s0 := s.modTime (fun t => { t with disc := disc, offsets := recent, slew := offset, stepped := t.stepped || first })
  if first ∧ 0 < offset then s0.stepTime ((s.dev.dtime : Int) + offset).toNat
  else if steady recent 0 then s0.modTime (fun t => { t with disc := .locked, stepped := true })
  else s0

/-- The ports with direct links to other devices (R370). -/
def Device.directPorts (d : Device) : List Nat :=
  ((d.routes.filter (fun r => r.2.2 && d.linksPresent.contains r.2.1)).map (fun r => r.2.1)).eraseDups

/-- With the boundary role a device carries sync exchanges to directly linked devices (R376).  DESIGN CHOICE: one for every exchange
with its own source (log entry 39). -/
def State.passSync (s : State) : State :=
  if s.dev.time.boundary then
    { s with dev := s.dev.report (fun q => { q with
        syncs := q.syncs ++ (s.dev.directPorts.filter (fun p => p != s.dev.time.port)).map (fun p => (p, s.dev.dtime)) }) }
  else s

/-- Where PPS in is the phase source, the time of day has come, from 1588 or from the management port: the discipline acquires by the edges of
PPS in (R376, R378). -/
def State.ppsResumes (s : State) : State :=
  s.modTime (fun t => { t with disc := if t.disc = Discipline.locked then .locked else .acquiring, lastSync := s.dev.dtime })

/-- SYNC_MESSAGE: a sync exchange of the device's domain on the port that time is taken from gives the source's time (R376).  Where PPS
in has replaced the phase source it gives the time of day alone, as the management port can: with either the discipline acquires (R378). -/
def execSyncMessage (m : SyncExchange) (s : State) : Out :=
  let t := s.dev.time
  let offset : Int := (m.source : Int) - s.dev.dtime
  if m.management then
    let s0 := s.modTime (fun t => { t with seconds := wholeSeconds offset })
    .next (if t.phasePps then s0.ppsResumes else s0)
  else if m.port ≠ t.port ∨ m.domain ≠ t.domain then .next s
  else
    let s0 := s.modTime (fun t => { t with lastSync := s.dev.dtime, seconds := wholeSeconds offset })
    if t.phasePps then .next s0.ppsResumes.passSync
    else .next (s0.takeOffset offset).passSync

/-- SYNC_TIMEOUT: sync messages have stopped (R376). -/
def execSyncTimeout (s : State) : Out :=
  if s.dev.dtime ≤ s.dev.time.lastSync then .next s
  else match s.dev.time.disc with
  | .locked => .next (s.modTime (fun t => { t with disc := .holdover, heldSince := s.dev.dtime, offsets := [], slew := 0 }))
  | .acquiring => .next (s.modTime (fun t => { t with disc := .free, offsets := [], slew := 0 }))
  | _ => .next s

/-- HOLDOVER_TIMEOUT: after 10 s of holdover the discipline is free (R376). -/
def execHoldoverTimeout (s : State) : Out :=
  if s.dev.time.disc = .holdover ∧ s.dev.time.heldSince + 10000000000 ≤ s.dev.dtime then
    .next (s.modTime (fun t => { t with disc := .free }))
  else .next s

/-- What the management port reads of device time: the state, the residual offset, and the nanoseconds of slewing still needed at 200
ppm (R376). -/
def Device.timeReport (d : Device) : Discipline × Int × Nat := (d.time.disc, d.time.slew, 5000 * d.time.slew.natAbs)

/-- The PPS output is due to rise (R378). -/
def Device.ppsDue (d : Device) : Bool :=
  d.time.disc == .locked && !d.time.ppsOut && decide (d.dtime % 1000000000 ≤ 2) && decide (d.time.ppsRose + 2 < d.dtime)

/-- PPS_OUTPUT_EDGE: the output rises at a whole second while the discipline is locked (R378). -/
def execPpsOutputEdge (s : State) : Out :=
  if s.dev.ppsDue then
    let s := s.modTime (fun t => { t with ppsOut := true, ppsRose := s.dev.dtime })
    .next { s with dev := s.dev.report (fun q => { q with ppsEdges := q.ppsEdges ++ [s.dev.dtime] }) }
  else .next s

/-- PPS_PULSE_END: the output falls 10 ms after it rose (R378). -/
def execPpsPulseEnd (s : State) : Out :=
  if s.dev.time.ppsOut = true ∧ s.dev.time.ppsRose + 10000000 ≤ s.dev.dtime then
    .next (s.modTime (fun t => { t with ppsOut := false }))
  else .next s

/-- Edges of an input closer together than 1 us are one edge (R378). -/
def newEdge (last : Option Nat) (now : Nat) : Bool :=
  match last with
  | some t => decide (t + 1000 ≤ now)
  | none => true

/-- An input edge is reported with its time. -/
def State.inputEdge (s : State) (pin : Nat) : State :=
  { s with dev := s.dev.report (fun q => { q with inputEdges := q.inputEdges ++ [(pin, s.dev.dtime)] }) }

/-- The offset that an edge of PPS in gives: the phase to the whole second nearest, and the whole seconds of the time of day (R378). -/
def Device.ppsOffset (d : Device) : Int :=
  let phase := d.dtime % 1000000000
  d.time.seconds * 1000000000 - (if phase ≤ 500000000 then (phase : Int) else (phase : Int) - 1000000000)

/-- PPS_INPUT_EDGE: the edge is timestamped in DTIME; by the masthead kernel's choice it is the phase source while sync messages give the
time of day (R378). -/
def execPpsInputEdge (s : State) : Out :=
  if newEdge s.dev.time.ppsInAt s.dev.dtime then
    let s1 := (s.modTime (fun t => { t with ppsInAt := some s.dev.dtime })).inputEdge 0
    let t := s.dev.time
    if t.phasePps && (t.disc == .acquiring || t.disc == .locked) then .next (s1.takeOffset s.dev.ppsOffset) else .next s1
  else .next s

/-- FSYNC_INPUT_EDGE: the edge is timestamped in DTIME and reported to the masthead kernel; it acts on no context (R378). -/
def execFsyncInputEdge (s : State) : Out :=
  if newEdge s.dev.time.fsyncInAt s.dev.dtime then
    .next ((s.modTime (fun t => { t with fsyncInAt := some s.dev.dtime })).inputEdge 1)
  else .next s

end Sys2Proof.Machine
end

