-- ==== Sys2Proof/Machine/Launch.lean ====
section
/-! DEFINITION. From records to crews: when a node is ready (20, R306), what its launch needs (04, R36, R38; 05, R66, R67; 13, R199),
the dispatch of an operator node's record (13, R212 to R215), the launch (04, R35), the end of a crew (20, R311, R324), and the trim
governor (20, R313, R314). -/

namespace Sys2Proof.Machine

/-! ## What the resident crews hold -/

/-- The core and partition of each strand of a team with base partition `b` (R38). -/
def strandPlaces (home : Nat) (pair : Bool) (b strands : Nat) : List (Nat × Nat) :=
  (List.range strands).map (fun j =>
    let q := (b + j) % (if pair then 8 else 4)
    (if q < 4 then home else partner home, q % 4))

/-- The places of every resident strand. -/
def State.places (s : State) : List (Nat × Nat) :=
  s.residentCrews.flatMap (fun w => (s.crewTeams w.key).flatMap (fun t => strandPlaces w.core w.pair t.part t.strands))

/-- The resident strands in the partitions of a core, or of a core and its partner (R38). -/
def State.partitionLoads (s : State) (home : Nat) (pair : Bool) : List Nat :=
  let at' := s.places
  (if pair then [home, partner home] else [home]).flatMap (fun c => (List.range 4).map (fun p => at'.countP (fun x => x == (c, p))))

/-- The lowest-numbered partition among those with the fewest strands. -/
def leastLoad (loads : List Nat) : Nat :=
  (List.range loads.length).foldl (fun b i => if loads.getD i 0 < loads.getD b 0 then i else b) 0

/-- Base partitions for a number of teams, in their order, with the loads they leave (R38). -/
def placeTeams : Nat → Nat → List Nat → List Nat × List Nat
  | 0, _, loads => ([], loads)
  | n + 1, strands, loads =>
    let b := leastLoad loads
    let after := (List.range loads.length).map (fun p =>
      loads.getD p 0 + (List.range strands).countP (fun j => (b + j) % loads.length == p))
    let r := placeTeams n strands after
    (b :: r.1, r.2)

/-- The accumulator slots that crews hold on their home core (R199). -/
def State.accUse (s : State) (core : Nat) : Nat := ((s.residentCrews.filter (fun w => w.core == core)).map (fun w => w.accSlots)).sum

/-- A core's canvas is attached to a crew (R36). -/
def State.canvasUsed (s : State) (core : Nat) : Bool := s.residentCrews.any (fun w => w.core == core && w.hasCanvas)

/-! ## Reservations (R315) -/

/-- A node has records in its bin and no crew that runs. -/
def State.wantsSlot (s : State) (c : Context) (n : Nat) : Bool :=
  !(c.bin n).isEmpty && !s.allCrews.any (fun w => w.ctx == c.key && w.node == n)

/-- The cores of a node's served set, ascending (R313). -/
def Context.servedBy (c : Context) (n : Nat) : List Nat := (List.range 256).filter (fun k => (c.served.getD n []).contains k)

/-- The core of a node's reservation, beside the reservations made before it: the lowest-numbered core of its served set whose
last free slot another one does not hold. -/
def State.reserveOn (s : State) (c : Context) (n : Nat) (made : List (Nat × Nat × Nat)) : Option Nat :=
  let cores := c.servedBy n
  let ok := cores.filter (fun k =>
    let others := made.countP (fun r => r.2.2 == k)
    others == 0 || decide ((s.coreUse k).crews + others < 16))
  match ok with
  | k :: _ => some k
  | [] => cores.head?

/-- The contexts whose nodes keep reservations: running, halted and saved ones, whose bins keep their records (R315). -/
def State.reserving (s : State) : List Context :=
  s.allCtxs.filter (fun c => (c.state == .running || c.state == .halted || c.state == .saved) && c.loaded)

/-- The contexts whose nodes launch. -/
def State.launching (s : State) : List Context := s.allCtxs.filter (fun c => c.state == .running && c.loaded)

/-- Every reservation: context, node, core. -/
def State.reservations (s : State) : List (Nat × Nat × Nat) :=
  let wants := s.reserving.flatMap (fun c => ((List.range c.nodes.length).filter (s.wantsSlot c)).map (fun n => (c, n)))
  wants.foldl (fun made x =>
    match s.reserveOn x.1 x.2 made with
    | some k => made ++ [(x.1.key, x.2, k)]
    | none => made) []

/-! ## Where a crew fits -/

/-- Where a crew is placed: its home core, whether it lives on the pair, and its teams' base partitions. -/
structure Placed where
  home : Nat
  pair : Bool
  bases : List Nat
  deriving DecidableEq, Repr

/-- The shape of a crew: node, teams, and what each takes. -/
structure Shape where
  ctx : Nat
  node : Nat
  pair : Bool
  teams : Nat
  strands : Nat
  alloc : Nat
  spad : Nat
  land : Nat
  acc : Nat
  canvas : Bool
  deriving DecidableEq, Repr

/-- The base partitions of the teams of a crew on a core, or on its pair: the home core is the one on which team 0 has its
first strand (R36, R38). -/
def State.placement (s : State) (sh : Shape) (core : Nat) : Placed × List Nat :=
  let r := placeTeams sh.teams sh.strands (s.partitionLoads core sh.pair)
  if sh.pair = true ∧ 4 ≤ r.1.headD 0 then
    let home := partner core
    let r := placeTeams sh.teams sh.strands (s.partitionLoads home true)
    (⟨home, true, r.1⟩, r.2)
  else (⟨core, sh.pair, r.1⟩, r.2)

/-- Everything that a crew needs is free on a core, or on the pair of it, beside the crew slots that reservations hold (R36, R67,
R199, R315). -/
def State.fits (s : State) (sh : Shape) (held : List (Nat × Nat × Nat)) (core : Nat) : Option Placed :=
  let (p, loads) := s.placement sh core
  let onCore := fun (k i : Nat) =>
    let u := s.coreUse k
    let mine := p.bases.countP (fun b => firstCore p.home p.pair b == k)
    decide (u.crews + held.countP (fun r => r.2.2 == k) + 1 ≤ 16)
    && decide (u.teams + sh.teams ≤ 64)
    && decide (((loads.drop (4 * i)).take 4).sum ≤ 128)
    && decide (u.store + mine * teamStore sh.strands sh.alloc + (if k = p.home then sh.spad else 0) ≤ 2097152 - 131072)
    && decide (u.landing + mine * sh.land ≤ 65536)
  if onCore p.home 0 && (!p.pair || onCore (partner p.home) 1)
      && decide (s.accUse p.home + sh.acc ≤ 16) && !(sh.canvas && s.canvasUsed p.home) then some p
  else none

/-- The cores that a crew can be launched at, in the order in which they are tried: of a pair, its lower core (R25, R306). -/
def Context.launchCores (c : Context) (n : Nat) (pair : Bool) : List Nat :=
  let cores := c.servedBy n
  if pair then cores.filter (fun k => k % 2 == 0 && cores.contains (k + 1)) else cores

/-- The shape of a node's crew of `n` records.  A node whose declared teams hold more than 128 strands needs a core pair (R34). -/
def Context.shape (c : Context) (node : Nat) (e : Node) (n : Nat) : Shape :=
  { ctx := c.key, node := node, pair := decide (128 < e.teams * e.strands), teams := (n + 32 * e.strands - 1) / (32 * e.strands),
    strands := e.strands, alloc := e.regs, spad := e.spad, land := e.land, acc := e.acc, canvas := e.canvas }

/-- The core at which a crew would launch, and its placement (R306). -/
def State.firstFit (s : State) (c : Context) (sh : Shape) : Option (Nat × Placed) :=
  let held := s.reservations.filter (fun r => !(r.1 == sh.ctx && r.2.1 == sh.node))
  (c.launchCores sh.node sh.pair).findSome? (fun k => (s.fits sh held k).map (fun p => (k, p)))

/-! ## Ready nodes -/

/-- The head record of a node has waited the node's timer (R306). -/
def Context.timed (c : Context) (now n : Nat) : Bool :=
  match c.nodes[n]?, (c.bin n).head? with
  | some e, some r => c.fired.contains n && e.timer != 0 && decide (Nat.max r.entered (c.timers.getD n 0) + e.timer ≤ now)
  | _, _ => false

/-- The node is ready (R306, R341); one whose head record has come back from its conversions dispatches it again at once (R214). -/
def Context.ready (c : Context) (now n : Nat) : Bool :=
  match c.nodes[n]?, (c.bin n).head? with
  | some e, some r =>
    decide (e.count ≤ (c.bin n).countP (fun x => x.job == r.job)) || c.timed now n || c.drained.contains n || r.converted
  | _, _ => false

/-- The head record's job has been cancelled and the bin holds records of it that a launch would take (R316, R318). -/
def Context.dropDue (c : Context) (n : Nat) : Option Nat :=
  match (c.bin n).head? with
  | some r =>
    if c.isCancelled r.job.toNat && (c.bin n).any (fun x => x.job == r.job && !x.castOff) then some r.job.toNat else none
  | none => none

/-! ## Dispatch (R212 to R215) -/

/-- The 64-bit number in two words of a record. -/
def Rec.word64 (r : Rec) (i : Nat) : Nat := (r.words.getD i 0).toNat + (r.words.getD (i + 1) 0).toNat * 2 ^ 32

/-- The TAGW of the header at an address; `none` where it is not readable (R209, R213). -/
def State.tagAt (s : State) (c : Context) (va : Nat) : Option Nat :=
  (s.readFor c (va + 28) 2).map (fun b => b.getD 0 0 + 256 * b.getD 1 0)

/-- The tags of the operands of records of an operator node have been read (R213, R398). -/
def State.tagsRead (s : State) (c : Context) (e : Node) (rs : List Rec) : State :=
  if e.op = 0 then s
  else rs.foldl (fun s r => (List.range e.opnd).foldl (fun s o => s.readDone c (r.word64 (2 * o) + 28) 2) s) s

/-- A key matches the tag of an operand, which may have none. -/
def keyMatches (key : Nat) : Option Nat → Bool
  | some t => tagMatches key t
  | none => false

/-- What a dispatch comes to: a routine entry of the table, by its place there, with its address; conversions by operand and rig entry; or
no method. -/
inductive Resolved where
  | entry (place a : Nat)
  | convert (cs : List (Nat × RigEntry))
  | noMethod
  deriving DecidableEq, Repr

/-- The entry applies at a reef level (R211). -/
def RigEntry.atLevel (e : RigEntry) (l : Nat) : Bool := bitOf (e.reef / 2 ^ l)

/-- The conversions of the mismatched operands under a routine entry; `none` where one has none, or where more than two
mismatch (R213). -/
def conversions (rig : List RigEntry) (level m : Nat) (tags : List (Option Nat)) (spare : Nat → Nat) (e : RigEntry) :
    Option (List (Nat × RigEntry)) :=
  let miss := (List.range m).filter (fun o => !keyMatches (e.keys.getD o 0) (tags.getD o none))
  if 2 < miss.length then none
  else
    miss.mapM (fun o =>
      (rig.find? (fun x => x.kind == 2 && x.atLevel level && keyMatches (x.keys.getD 0 0) (tags.getD o none)
        && tagMatches (e.keys.getD o 0) x.outTag && spare o != 0)).map (fun x => (o, x)))

/-- DISPATCH (R213). -/
def State.dispatch (s : State) (c : Context) (e : Node) (r : Rec) : Resolved :=
  let m := e.opnd
  let tags := (List.range m).map (fun o => s.tagAt c (r.word64 (2 * o)))
  let mine := c.rig.zipIdx.filter (fun x => x.1.kind == 1 && x.1.op == e.op && x.1.nopd == m && x.1.atLevel c.reef)
  match mine.find? (fun x => (List.range m).all (fun o => keyMatches (x.1.keys.getD o 0) (tags.getD o none))) with
  | some x => .entry x.2 x.1.entry
  | none =>
    if r.converted then .noMethod
    else
      match (mine.map (fun x => x.1)).findSome? (conversions c.rig c.reef m tags (fun o => r.word64 (2 * m + 2 * o))) with
      | some cs => .convert cs
      | none => .noMethod

/-- The record with the spare addresses in place of the converted operands' (R214). -/
def Rec.spared (r : Rec) (m : Nat) (os : List Nat) : Rec :=
  { r with
    converted := true
    words := (List.range r.words.length).map (fun i =>
      if i < 2 * m ∧ os.contains (i / 2) then r.words.getD (2 * m + i) 0 else r.words.getD i 0) }

/-- The first number from a free starting point, modulo a bound, that a list does not hold; `none` when all are used. -/
def pickFree (start bound : Nat) (used : List Nat) : Option Nat :=
  ((List.range (Nat.min bound (used.length + 1))).map (fun i => (start + i) % bound)).find? (fun x => !used.contains x)

/-- The head record of a node leaves its bin; an empty bin clears the mark of NODE.DONE (R341). -/
def Context.popHead (c : Context) (n : Nat) : Context :=
  let c := c.modBin n (fun l => l.drop 1)
  if c.bin n = [] then { c with drained := c.drained.filter (fun i => i != n) } else c

/-- CONVERT: the head record of a node waits, and its conversion records enter their bins; with no wait entry free, nothing
happens (R214).  DEDUCED: those of a cast-off record are kept from a cancel as it is (R318, log entry 43). -/
def State.convert (s : State) (c : Context) (n : Nat) (e : Node) (r : Rec) (cs : List (Nat × RigEntry)) : State :=
  match pickFree (Config.freeId s.tick) 4096 (c.waiting.map (fun w => w.handle)) with
  | none => s
  | some h =>
    let w : Waiting := { id := s.nextKey, handle := h, node := n, left := cs.length, record := r.spared e.opnd (cs.map (fun x => x.1)) }
    let s1 : State := { s with nextKey := s.nextKey + 1 }
    s1.modCtx c.key (fun c =>
      let c := { (c.popHead n) with waiting := c.waiting ++ [w] }
      cs.foldl (fun c x =>
        let o := x.1
        let words := [r.words.getD (2 * o) 0, r.words.getD (2 * o + 1) 0, r.words.getD (2 * e.opnd + 2 * o) 0,
          r.words.getD (2 * e.opnd + 2 * o + 1) 0, BitVec.ofNat 32 x.2.outTag, BitVec.ofNat 32 h]
        match c.nodes[x.2.cnode]? with
        | none => c
        | some q =>
          c.enter x.2.cnode { job := r.job, words := (List.range q.recWords).map (fun i => words.getD i 0), entered := s.dev.clock,
                              castOff := r.castOff, handle := some w.id, converted := false }) c)

/-- An entry of the dead-record list, for a record whose words lie at an address (R215). -/
def deadEntry (n : Nat) (e : Node) (r : Rec) (addr : Nat) : List Byte :=
  leBytes 4 (n + r.job.toNat * 65536) ++ leBytes 4 e.op ++ leBytes 8 addr

/-- The places of 512 bytes of a spill area that records with no method take. -/
def Context.deadSlots (c : Context) : List Nat := c.dead.map (fun d => (d.addr - c.spill) / 512)

/-- A place of the spill area for a unit: the one that it has asked the masthead kernel to map, else a free one; no record with no method has it
(R215, R247). -/
def Context.spillPlace (c : Context) (unit seed : Nat) : Nat :=
  let asked := (c.devFaults.filter (fun f => f.unit == unit)).map (fun f => (f.va - c.spill) / 512)
  match asked.find? (fun k => !c.deadSlots.contains k) with
  | some k => k
  | none => (pickFree (Config.freeId seed) (4096 + c.dead.length) c.deadSlots).getD 0

/-- NOMETHOD for the head record of a node (R215): its words are kept in the context's spill area and its entry is written to the
dead-record list; while an address there does not translate, the unit tries again (R247).  DESIGN CHOICE: where in the spill area the
words lie (log entry 79). -/
def State.noMethod (s : State) (c : Context) (n : Nat) (e : Node) (r : Rec) : State :=
  let addr := c.spill + 512 * c.spillPlace 1 s.tick
  let entry := deadEntry n e r addr
  let i := c.deadUsed
  let fatal := fun (s : State) => s.terminate c.key 0x0B (recordHeader 0x0B 1 c.key 16 0 0 s.dev.dtime 0 0 0 ++ entry)
  match s.writeFor c addr (r.words.flatMap (fun w => leBytes 4 w.toNat)) 1 with
  | (s, false) => s
  | (s, true) =>
    if c.deadCap ≤ i then fatal s
    else
      match s.writeFor c (c.deadBase + 16 * i) entry with
      | (s, false) => s
      | (s, true) =>
        let s := s.modCtx c.key (fun c => { ((c.popHead n).unitDone 1) with deadUsed := i + 1, dead := c.dead ++ [⟨r.job, addr, r.castOff⟩] })
        if c.deadNode = 0xFFFF then fatal s
        else
          s.modCtx c.key (fun c =>
            State.deviceRecord c s.dev.clock c.deadNode 0 false
              [BitVec.ofNat 32 i, BitVec.ofNat 32 n, r.job.zeroExtend 32, BitVec.ofNat 32 e.op])

/-! ## The spill of bins (R304) -/

/-- The nodes whose bins hold more records than the die does. -/
def Context.spilling (c : Context) : List Nat :=
  if c.state = .none then []
  else (List.range c.nodes.length).filter (fun n => !(c.bin n).isEmpty && decide (Config.recordsOnDie < (c.bin n).length))

/-- A record of a bin beyond those on the die moves to or from the context's spill area, at a place that no record with no method has, in
a form that no rule gives; where its address does not translate, the unit tries again and the record waits on the die (R247, R304).  DESIGN
CHOICE: which place and when (log entry 79). -/
def State.spillBin (s : State) (ck : Nat) (out : Bool) : State :=
  match s.ctx? ck with
  | none => s
  | some c =>
    let va := c.spill + 512 * c.spillPlace 2 s.tick
    let acc : Access := if out then .write else .read
    match s.firstBad c va 512 acc with
    | some (a, e) => if a ∈ c.refusedVas then s else s.deviceFault ck a e acc 0 2
    | none =>
      let s := (s.deviceDone c 0 va 512).modCtx ck (fun c => c.unitDone 2)
      if out then
        (List.range 512).foldl (fun s i => match s.translateFor c 0 (va + i) .write with | .ok l => s.openRange l.pa 1 | .error _ => s) s
      else s

/-! ## The launch -/

/-- The places in a bin of the records that a launch takes: those of the head record's job, up to the coalescing count; of an
operator node those that dispatch to the same routine entry of the table (R303, R306, R213). -/
def State.taken (s : State) (c : Context) (n : Nat) (e : Node) (entry : Option (Nat × Nat)) : List Nat :=
  let bin := c.bin n
  match bin.head? with
  | none => []
  | some h =>
    ((List.range bin.length).filter (fun i =>
      match bin[i]? with
      | some r => r.job == h.job && (match entry with | none => true | some x => s.dispatch c e r == .entry x.1 x.2)
      | none => false)).take e.count

/-- What a ready node does next. -/
inductive Plan where
  | drop (job : Nat)
  | convert (cs : List (Nat × RigEntry))
  | noMethod
  | launch (entry : Nat) (taken : List Nat) (core : Nat) (place : Placed)
  deriving DecidableEq, Repr

/-- Where the launch of the records at some places of a node's bin goes; `none` while its needs are not free. -/
def State.planLaunch (s : State) (c : Context) (n : Nat) (e : Node) (entry : Nat) (taken : List Nat) : Option (Nat × Plan) :=
  (s.firstFit c (c.shape n e taken.length)).map (fun x => (x.1, .launch entry taken x.1 x.2))

/-- The core at which a node acts and what it does; `none` where it is not ready, or where it has to wait (R306, R213, R214). -/
def State.plan (s : State) (c : Context) (n : Nat) : Option (Nat × Plan) :=
  if !c.ready s.dev.clock n then none
  else
    let first := (c.servedBy n).headD 0
    match c.nodes[n]?, (c.bin n).head? with
    | some e, some r =>
      match c.dropDue n with
      | some j => some (first, .drop j)
      | none =>
        if e.op = 0 then s.planLaunch c n e e.entry (s.taken c n e none)
        else
          match s.dispatch c e r with
          | .entry i a => s.planLaunch c n e a (s.taken c n e (some (i, a)))
          | .convert cs => if 4096 ≤ c.waiting.length then none else some (first, .convert cs)
          | .noMethod => some (first, .noMethod)
    | _, _ => none

/-- The node that a core takes among those that act at it: the highest priority, the contexts in turn, then the nodes of the
chosen one in turn (R306). -/
def State.launchChoice (s : State) (core : Nat) : Option (Nat × Nat × Plan) :=
  let acts := s.launching.flatMap (fun c => (List.range c.nodes.length).filterMap (fun n =>
    match s.plan c n with
    | some (k, p) => if k = core then some (c.key, n, ((c.nodes[n]?).map (fun e => e.prio)).getD 0, p) else none
    | none => none))
  let best := acts.foldl (fun b x => Nat.max b x.2.2.1) 0
  let top := acts.filter (fun x => x.2.2.1 == best)
  match nextAfter (assoc? s.dev.lastCtx core) (sortedKeys (top.map (fun x => x.1))) with
  | none => none
  | some ck =>
    let mine := top.filter (fun x => x.1 == ck)
    let last := match s.ctx? ck with | some c => assoc? c.lastServed core | none => none
    match nextAfter last (mine.map (fun x => x.2.1)) with
    | none => none
    | some n => (mine.find? (fun x => x.2.1 == n)).map (fun x => (ck, n, x.2.2.2))

/-- A launched team (R35, R68, R295, R296). -/
def launchTeam (e : Node) (key crew ctx k n part : Nat) (slot : Nat) (entry : Nat) (recs : List Rec) (qgen : Nat) : Team :=
  let mine := (recs.drop (32 * e.strands * k)).take (32 * e.strands)
  let mask := Mask.ofFn (32 * e.strands) (fun l => decide (l < mine.length))
  { Team.vacant with
    key := key, state := .ready, ctx := ctx, crew := crew, index := k, slot := BitVec.ofNat 6 slot, part := part,
    strands := e.strands, alloc := e.regs, pc := BitVec.ofNat 57 entry, mask := mask, launchMask := mask,
    tpri := BitVec.ofNat 4 e.prio
    lanes := (List.range e.recWords).foldl (fun m j =>
      (List.range mine.length).foldl (fun m l => m.set (j * 1024 + l) ((((mine[l]?).map (fun r => r.words)).getD []).getD j 0)) m) []
    scalars := FMap.set [] 0 (BitVec.ofNat 32 n)
    qgen := BitVec.ofNat 32 qgen, landQuota := e.land }

/-- A launched crew (R34, R35, R123, R194, R199).  DESIGN CHOICE: its scratchpad holds zeros (log entry 4). -/
def launchCrew (e : Node) (key ctx node : Nat) (id : Nat) (job : BitVec 16) (p : Placed) (nteams : Nat) (convs : List Nat) : Crew :=
  { Crew.vacant with
    key := key, live := true, crewid := BitVec.ofNat 16 id, ctx := ctx, node := node, job := job, core := p.home, pair := p.pair,
    nteams := nteams, strands := e.strands, spadSize := e.spad,
    tiles := e.tiles.map (fun r => ⟨r.1, r.2.1, r.2.2.1, BitVec.ofNat 16 r.2.2.2⟩),
    accSlots := e.acc, hasCanvas := e.canvas, convs := convs, wdPeriod := e.wdPeriod }

/-- A CREWID that no resident crew holds (R59). -/
def State.newCrewid (s : State) : Nat :=
  ((pickFree (Config.freeId s.tick) 65535 (s.residentCrews.map (fun w => w.crewid.toNat - 1))).getD 0) + 1

/-- The team slots that teams hold on their home core (R60). -/
def State.slotsOn (s : State) (core : Nat) : List Nat :=
  (s.residentCrews.filter (fun w => w.core == core)).flatMap (fun w => (s.crewTeams w.key).map (fun t => t.slot.toNat))

/-- Team slots for a number of teams (R60). -/
def pickSlots : Nat → Nat → List Nat → List Nat
  | 0, _, _ => []
  | n + 1, seed, used =>
    let x := (pickFree (Config.freeId (seed * 16 + n)) 64 used).getD 0
    x :: pickSlots n seed (x :: used)

/-- A crew has taken room on a core. -/
def State.takeStore (s : State) (core : Nat) : State := (s.shrinkL1 core).modCore core (fun k => { k with gated := false })

/-- The launch of a crew (R35, R306); its cores' clocks run, and their L1 keeps what the crew leaves it (R66, R243, R257). -/
def State.launch (s : State) (c : Context) (n : Nat) (e : Node) (entry : Nat) (taken : List Nat) (core : Nat) (p : Placed) : State :=
  let bin := c.bin n
  let recs := taken.filterMap (fun i => bin[i]?)
  let rest := ((List.range bin.length).filter (fun i => !taken.contains i)).filterMap (fun i => bin[i]?)
  let job := (recs.head?.map (fun r => r.job)).getD 0
  let key := s.nextKey
  let slots := pickSlots p.bases.length s.tick (s.slotsOn p.home)
  let teams := (List.range p.bases.length).map (fun k =>
    { (launchTeam e (key + 1 + k) key c.key k recs.length (p.bases.getD k 0) (slots.getD k 0) entry recs c.genClosed) with floor := s.tick })
  let w := launchCrew e key c.key n s.newCrewid job p p.bases.length (recs.filterMap (fun r => r.handle))
  let s1 := s.modCtx c.key (fun c =>
    { (c.modBin n (fun _ => rest)) with
      timers := (List.range c.nodes.length).map (fun i => if i = n then s.dev.clock else c.timers.getD i 0)
      fired := c.fired.filter (fun i => i != n), drained := c.drained.filter (fun i => i != n)
      lastServed := assocPut c.lastServed core n })
  let s2 : State := { s1 with
    nextKey := key + 1 + p.bases.length
    dev := { s1.dev with lastCtx := assocPut s1.dev.lastCtx core c.key }
    teams := s1.teams ++ teams
    crews := s1.crews ++ [w] }
  w.cores.foldl State.takeStore s2

/-- NODE_LAUNCH: what a core's scheduler takes at a clock: the launch of a crew, or, before it, the drop of cancelled records or
the dispatch that the head record needs (R35, R213, R306, R316). -/
def execNodeLaunch (core ctx node : Nat) (s : State) : Out :=
  match s.launchChoice core, s.ctx? ctx with
  | some (ck, n, p), some c =>
    match c.nodes[node]?, (c.bin node).head? with
    | some e, some r =>
      if ck ≠ ctx ∨ n ≠ node then .next s
      else
        match p with
        | .drop j => .next ((s.modCtx ctx (fun c => c.dropJob node j)).retryPushes ctx)
        | .convert cs => .next (((s.tagsRead c e [r]).convert c node e r cs).retryPushes ctx)
        | .noMethod => .next (((s.tagsRead c e [r]).noMethod c node e r).retryPushes ctx)
        | .launch entry taken core place =>
          .next (((s.tagsRead c e (taken.filterMap (fun i => (c.bin node)[i]?))).launch c node e entry taken core place).retryPushes ctx)
    | _, _ => .next s
  | _, _ => .next s

/-! ## The end of a crew -/

/-- Every team of the crew has exited and everything that they issued is performed (R29, R311). -/
def State.crewDone (s : State) (w : Crew) : Bool :=
  let ts := s.crewTeams w.key
  let mine := fun (k : Nat) => ts.any (fun t => t.key == k)
  ts.all (fun t => t.state == .exited) && w.canvas.queue.isEmpty
    && !s.ops.any (fun o => o.crew == w.key && !o.done)
    && !s.cores.any (fun e => e.2.wcb.any (fun b => ts.any (fun t => b.of t.key)))
    && !s.scStores.any (fun b => mine b.team) && !s.atomics.any (fun a => mine a.team)
    && !s.rounds.any (fun r => r.crew == w.key && !r.acked)

/-- The count of a waiting record drops for each conversion record that a crew received; at 0 it is dispatched again, at the head
of its node's launch order (R214, R323). -/
def Context.converted (c : Context) (id : Nat) : Context :=
  match c.waiting.find? (fun w => w.id == id) with
  | none => c
  | some w =>
    let rest := c.waiting.filter (fun x => x.id != id)
    if w.left ≤ 1 then { (c.modBin w.node (fun l => w.record :: l)) with waiting := rest }
    else { c with waiting := c.waiting.map (fun x => if x.id = id then { x with left := x.left - 1 } else x) }

/-- The teams and the crew with a key leave the machine; their slots and store are free (R324). -/
def State.dropCrew (s : State) (k : Nat) : State :=
  { s with
    team := if s.team.crew = k then Team.vacant else s.team
    crew := if s.crew.key = k then Crew.vacant else s.crew
    teams := s.teams.filter (fun t => t.crew != k)
    crews := s.crews.filter (fun w => w.key != k)
    ops := s.ops.filter (fun o => o.crew != k)
    rounds := s.rounds.filter (fun r => r.crew != k) }

/-- CREW_END: a crew ends once all its teams have exited and its effects are performed (R29, R311, R324). -/
def execCrewEnd (crew : Nat) (s : State) : Out :=
  match s.crew? crew with
  | none => .next s
  | some w =>
    match s.ctx? w.ctx with
    | none => .next s
    | some c =>
      if (c.state = .running ∨ c.state = .halted) ∧ s.crewDone w = true then
        .next ((s.dropCrew crew).modCtx w.ctx (fun c => w.convs.foldl Context.converted c))
      else .next s

/-! ## The trim governor -/

/-- The number of nodes, of every context of the package, whose served set holds a core (R314). -/
def servesCount (all : List Context) (core : Nat) : Nat :=
  (all.map (fun c => (List.range c.nodes.length).countP (fun n => (c.served.getD n []).contains core))).sum

/-- The first core of a list among those that serve the fewest nodes. -/
def fewest (all : List Context) : List Nat → Option Nat
  | [] => none
  | k :: rest =>
    match fewest all rest with
    | none => some k
    | some j => if servesCount all j < servesCount all k then some j else some k

/-- Change the served set of a node. -/
def Context.setServed (c : Context) (n : Nat) (xs : List Nat) : Context :=
  { c with served := (List.range c.nodes.length).map (fun i => if i = n then xs else c.served.getD i []) }

/-- The rule of R314 for a node of a context, beside the served sets of every context. -/
def trimNode (all : List Context) (c : Context) (n : Nat) : Context :=
  match c.nodes[n]? with
  | none => c
  | some e =>
    let mine := c.servedBy n
    let out := (List.range 256).filter (fun k => (c.coreSets.getD n []).contains k && !mine.contains k)
    let len := (c.bin n).length
    if e.hi < len ∧ out ≠ [] then
      match fewest all out with
      | some k => c.setServed n (k :: mine)
      | none => c
    else if len < e.lo ∧ 2 ≤ mine.length then c.setServed n (mine.filter (fun k => k != mine.getLastD 0))
    else c

/-- A tick of the trim governor for a node of a context. -/
def State.trim (s : State) (ck n : Nat) : State := s.modCtx ck (fun c => trimNode s.allCtxs c n)

/-- TRIM_GOVERNOR_TICK: every microsecond of device time, node by node (R313, R314). -/
def execTrimGovernorTick (s : State) : Out :=
  if s.dev.dtime < s.dev.lastTrim + 1000 then .next s
  else
    let nodes := (s.allCtxs.filter (fun c => c.loaded && c.state != .none && c.state != .terminated)).flatMap (fun c =>
      (List.range c.nodes.length).map (fun n => (c.key, n)))
    let s1 := nodes.foldl (fun s x => s.trim x.1 x.2) s
    .next { s1 with dev := { s1.dev with lastTrim := s1.dev.lastTrim + 1000 } }

end Sys2Proof.Machine
end

