-- ==== Sys2Proof/Machine/Sums.lean ====
section
/-! DEFINITION. The matrix array's numbers (12): the 26-bit accumulator format (R179, R190), the 4-bit block family (R186, R187), the
element formats (R201), and the sum tree and the fold (R191). -/

namespace Sys2Proof.Machine

/-- A value in the array: an exact value, or a NaN of the 26-bit format with its bits (R190, R191). -/
inductive Term where
  | val (v : Fv)
  | nan (w : Nat)
  deriving DecidableEq, Repr

/-- The default NaN of the 26-bit format (R179). -/
def nan26 : Nat := 0x1FF0000

/-- TO26 of an FP32 NaN (R179). -/
def toNan26 (x : Nat) : Nat := fp26.pack (fp32.neg x) (255 * 2 ^ 17 + Nat.lor (bits x 22 14 * 2 ^ 8) (x % 256))

/-- TO32 of a 26-bit NaN (R179). -/
def toNan32 (a : Nat) : Nat := fp32.pack (fp26.neg a) (255 * 2 ^ 23 + Nat.lor (bits a 16 8 * 2 ^ 14) (a % 256))

/-- The value of a 26-bit word: a zero exponent is a zero of its sign (R179). -/
def term26 (a : Nat) : Term :=
  if fp26.isNan a then .nan a else if fp26.mag a < 2 ^ 17 then .val (.fin (fp26.neg a) 0 0) else .val (fp26.val a)

/-- RNE26 of a finite value that is not zero: rounded with the exponent unbounded below, then zero below 2 ^ -126 (R181). -/
def rndFin26 (neg : Bool) (n : Nat) (e : Int) : Nat :=
  let q : Int := ((Nat.log2 n : Nat) : Int) + e - 17
  let k := if q ≤ e then n * 2 ^ (e - q).toNat else roundShift .rn neg n (q - e).toNat false
  let k' := if k = 2 ^ 18 then 2 ^ 17 else k
  let x : Int := if k = 2 ^ 18 then q + 18 else q + 17
  if x < -126 then fp26.pack neg 0
  else if 127 < x then fp26.pack neg fp26.infMag
  else fp26.pack neg ((x + 127).toNat * 2 ^ 17 + (k' - 2 ^ 17))

/-- RNE26 (R181, R182). -/
def rnd26 : Fv → Nat
  | .nan => nan26
  | .inf neg => fp26.pack neg fp26.infMag
  | .fin neg n e => if n = 0 then fp26.pack neg 0 else rndFin26 neg n e

/-- The 26-bit word of a term. -/
def Term.word : Term → Nat
  | .val v => rnd26 v
  | .nan w => w

/-- ADD26 (R190): the sum of two terms, rounded. -/
def add26 (a b : Term) : Term :=
  match a, b with
  | .nan w, _ => .nan w
  | .val _, .nan w => .nan w
  | .val x, .val y => term26 (rnd26 (x.add y))

/-- TO32 of a 26-bit word (R179). -/
def to32 (a : Nat) : Nat :=
  match term26 a with
  | .nan w => toNan32 w
  | .val v => fp32.rnd .rn v

/-- An element by its FP32 word. -/
def elemTerm (x : Nat) : Term := if fp32.isNan x then .nan (toNan26 x) else .val (fp32.val x)

/-- A product of two elements, not rounded (R191). -/
def prodTerm (x y : Term) : Term :=
  match x, y with
  | .nan w, _ => .nan w
  | .val _, .nan w => .nan w
  | .val a, .val b =>
    match a.mul b with
    | .nan => .nan nan26
    | v => .val v

/-- +0, which a pruned position and a padding element give. -/
def zeroTerm : Term := .val (.fin false 0 0)

/-- The products of 32 positions; a position that no element of A names gives +0 (R191, R205). -/
def products (a : List (Option Term)) (b : List Term) : List Term :=
  (List.zip a b).map (fun p => match p.1 with | some x => prodTerm x p.2 | none => zeroTerm)

/-- The sum of a group of 32 products added to the in-array accumulator (R191). -/
def groupSum (acc : Nat) (s : List Term) : Nat := (add26 (term26 acc) (tree32 add26 zeroTerm s)).word

/-- A fold (R191). -/
def foldInto (d32 acc : Nat) : Nat := if fp32.isNan d32 then d32 else fp32.add d32 (to32 acc)

/-! ## Elements -/

/-- The magnitudes of a code of types 1 and 3 in their units (R187). -/
def hybridMag (k : Nat) : Nat := [0, 1, 2, 3, 4, 6, 8, 12].getD k 0

/-- The value of a 4-bit code of a type (R187). -/
def codeVal (type code : Nat) : Fv :=
  match type with
  | 0 => if code < 8 then .fin false code 0 else .fin true (16 - code) 0
  | 1 => .fin (decide (8 ≤ code)) (hybridMag (code % 8)) (-1)
  | 2 => .fin (decide (8 ≤ code)) (if code % 8 = 0 then 0 else 1) (code % 8 - 7 : Int)
  | _ => .fin (decide (8 ≤ code)) (hybridMag (code % 8)) 0

/-- The code of a type with the largest value, and with the smallest (R187). -/
def codeMax : Nat := 7
def codeMin (type : Nat) : Nat := if type = 0 then 8 else 15

/-- The value of a 4-bit code in units of 2 ^ `q` (R187). -/
def codeUnits (q : Int) (type code : Nat) : Int :=
  match codeVal type code with
  | .fin neg n e => scaled neg n e q
  | _ => 0

/-- Q4ENC (R189): the code of a type for an exact value in a block with scale exponent `e`: clamped, nearest, of two as near the one with
[0] = 0, and for a value below 0 whose code is a zero 0x8.  DESIGN CHOICE: of the codes 0x0 and 0x8, which are as near, any other value takes
0x0 (log entry 94).  No instruction encodes a block; a caller never gives a NaN, which the spec excludes. -/
def q4enc (v : Fv) (type e : Nat) : Nat :=
  match v.mul (.fin false 1 (40 - (e : Int))) with
  | .nan => 0
  | .inf neg => if neg then codeMin type else codeMax
  | .fin neg n k =>
    let q : Int := Min.min k (-7)
    let u := scaled neg n k q
    let far := fun (c : Nat) => (u - codeUnits q type c).natAbs
    if codeUnits q type codeMax < u then codeMax
    else if u < codeUnits q type (codeMin type) then codeMin type
    else
      let code := (List.range 16).foldl (fun b c => if far c < far b ∨ (far c = far b ∧ c % 2 = 0 ∧ b % 2 = 1) then c else b) 0
      if codeUnits q type code = 0 ∧ type ≠ 0 ∧ u < 0 then 8 else code

/-- An element of a 4-bit block as FP32, by its scale byte and code (R186). -/
def blockElem (scale code : Nat) : Nat :=
  if scale % 64 = 63 then 0x7FC00000
  else fp32.rnd .rn ((codeVal (scale / 64) code).mul (.fin false 1 ((scale % 64 : Nat) - 40)))

/-- The floating-point format of an element code (R201). -/
def elemFmt (c : Nat) : Fmt :=
  match c with
  | 0 => bf16
  | 1 => fp16
  | 2 => fpE4
  | _ => fpE5

/-- An element of a format with 16 or 8 bits as FP32, as CVT gives it (R108, R191). -/
def floatElem (c x : Nat) : Nat := cvt (.fp fp32) (.fp (elemFmt c)) false .rn x

/-- The bits of an element of a format code. -/
def elemBits (c : Nat) : Nat := if c ≤ 1 then 16 else if c ≤ 3 then 8 else 4

end Sys2Proof.Machine
end

