-- ==== Sys2Proof/Machine/Matrix.lean ====
section
/-! DEFINITION. The matrix array (13, R197 to R206; 14, R227 to R233): MMA and its format-block record, copies that start an MMA, the
accumulator forms, and the array's groups and folds. -/

namespace Sys2Proof.Machine

/-! ## The format-block record -/

/-- A word of a record in the scratchpad, as a reader sees it. -/
def State.padWord (s : State) (w : Crew) (rd : Reader) (a : Nat) : Nat := ofLeBytes (s.spadRead w rd (.sw 0) a 4)

/-- The stored elements of a group of a sparsity code (R201). -/
def groupStored (asp : Nat) : Nat := if asp = 0 then 32 else if asp = 1 then 8 else 16

/-- The groups of an MMA (R228). -/
def MmaArgs.groups (m : MmaArgs) : Nat := m.kg + 1

/-- The stored K-elements of a row of A (R197). -/
def storedK (m : MmaArgs) (asp : Nat) : Nat := m.groups * groupStored asp

/-- The block length of a record's bit (R201). -/
def blockLen (bl : Nat) : Nat := if bl = 0 then 16 else 32

/-- The blocks of a row of `n` elements. -/
def blocksOf (n bl : Nat) : Nat := (n + blockLen bl - 1) / blockLen bl

/-- The elements of a region row and the region's rows, by its direction bit (R197). -/
def regionShape (byK : Bool) (k : Nat) : Nat × Nat := if byK then (64, k) else (k, 64)

/-- The format-block record at its offset (R201); the metadata fields are filled later. -/
def State.blockWords (s : State) (w : Crew) (rd : Reader) (fbr : Nat) : List Nat :=
  (List.range 8).map (fun k => s.padWord w rd (32 * fbr + 4 * k))

/-- The first field of a record that breaks R201 or R203, or a width below R197's need, by its byte offset (R202, R220). -/
def blockFault (m : MmaArgs) (ws : List Nat) : Option Nat :=
  let f := ws.getD 0 0
  let wid := ws.getD 1 0
  let asp := bits f 6 5
  let af := f % 16
  let bf := bits f 11 8
  let a := regionShape m.da (storedK m asp)
  let c := regionShape (!m.db) (32 * m.groups)
  if Nat.land f 0xF80FE080 ≠ 0 ∨ 64 < bits f 26 20 ∨ 4 < af ∨ 4 < bf ∨ asp = 3 ∨ (m.sp != (asp != 0)) = true
      ∨ (bits f 4 4 = 1 ∧ af ≠ 4) ∨ (bits f 12 12 = 1 ∧ bf ≠ 4) then some 0
  else if Nat.land wid 0xFFC0FFC0 ≠ 0 ∨ wid % 64 = 0 ∨ 32 < wid % 64 ∨ bits wid 21 16 = 0 ∨ 32 < bits wid 21 16
      ∨ 128 * (wid % 64) < a.1 * elemBits af / 8 ∨ 128 * bits wid 21 16 < c.1 * elemBits bf / 8 then some 4
  else if (af = 4 ∧ ws.getD 3 0 % 65536 < blocksOf (storedK m asp) (bits f 4 4))
      ∨ (bf = 4 ∧ ws.getD 3 0 / 65536 < blocksOf (32 * m.groups) (bits f 12 12)) then some 12
  else if asp ≠ 0 ∧ ws.getD 5 0 % 16 ≠ 0 then some 20
  else if ws.getD 6 0 ≠ 0 ∨ ws.getD 7 0 ≠ 0 then some 24
  else none

/-- The first field of a metadata address record that breaks R204, by its byte offset. -/
def metaFault (m : MmaArgs) (asp : Nat) (ws : List Nat) : Option Nat :=
  if ws.getD 0 0 % 256 ≠ 0 then some 0
  else if ws.getD 1 0 % 8 ≠ 0 ∨ ws.getD 1 0 < m.groups * groupStored asp then some 4
  else if ws.getD 2 0 ≠ groupStored asp then some 8
  else if ws.getD 3 0 ≠ 0 then some 12
  else none

/-- The record's fields with those of its metadata record. -/
def fmtBlock (ws ms : List Nat) : FmtBlock :=
  let f := ws.getD 0 0
  { afmt := f % 16, bfmt := bits f 11 8, abl := bits f 4 4, bbl := bits f 12 12, asp := bits f 6 5,
    pi := if bits f 26 20 = 0 then 16 else bits f 26 20, wa := ws.getD 1 0 % 64, wb := bits (ws.getD 1 0) 21 16,
    ascale := ws.getD 2 0, bscale := ws.getD 4 0, astr := ws.getD 3 0 % 65536, bstr := ws.getD 3 0 / 65536,
    mbase := ms.getD 0 0, mstr := ms.getD 1 0, mn := ms.getD 2 0, held := [] }

/-- An area that a record places past the crew's allocation, by the field that places it (R202, R220). -/
def extentFault (m : MmaArgs) (fb : FmtBlock) (size : Nat) : Option Nat :=
  let a := regionShape m.da (storedK m fb.asp)
  let c := regionShape (!m.db) (32 * m.groups)
  if size < m.ao + a.2 * (128 * fb.wa) ∨ size < m.bo + c.2 * (128 * fb.wb) then some 4
  else if fb.afmt = 4 ∧ size < fb.ascale + 63 * fb.astr + blocksOf (storedK m fb.asp) fb.abl then some 8
  else if fb.bfmt = 4 ∧ size < fb.bscale + 63 * fb.bstr + blocksOf (32 * m.groups) fb.bbl then some 16
  else if fb.asp ≠ 0 ∧ size < fb.mbase + 63 * fb.mstr + m.groups * groupStored fb.asp then some 20
  else none

/-- Read and check an MMA's records, as a reader sees them: its fields, or the TRAPINFO of cause 0x24 (R201 to R204).  DESIGN
CHOICE: the metadata address record is read with SW = 0 (log entry 86). -/
def State.readBlock (s : State) (w : Crew) (rd : Reader) (m : MmaArgs) : Except (BitVec 64) FmtBlock :=
  let ws := s.blockWords w rd m.fbr
  match blockFault m ws with
  | some off => .error (malformed 0 off)
  | none =>
    let asp := bits (ws.getD 0 0) 6 5
    let at_ := ws.getD 5 0
    if asp ≠ 0 ∧ w.spadSize < at_ + 16 then .error (malformed 5 20)
    else
      let ms := if asp = 0 then [] else (List.range 4).map (fun k => s.padWord w rd (at_ + 4 * k))
      match (if asp = 0 then none else metaFault m asp ms) with
      | some off => .error (malformed 1 off)
      | none =>
        match extentFault m (fmtBlock ws ms) w.spadSize with
        | some off => .error (malformed 5 off)
        | none => .ok (fmtBlock ws ms)

/-! ## Issue -/

/-- An operation of the matrix array on accumulator memory (R229). -/
def OpWork.onAcc : OpWork → Bool
  | .mma _ _ _ _ _ _ => true
  | .accClr _ _ => true
  | .accProm _ _ _ _ => true
  | .accLd _ _ _ _ => true
  | .accSt _ _ _ _ _ _ _ => true
  | _ => false

/-- The operations that a core's matrix array holds (R220). -/
def State.arrayQueue (s : State) (core : Nat) : Nat :=
  s.ops.countP (fun o => o.core == core && !o.done && s.onCores o.ctx && o.work.onAcc)

/-- The check of a slot offset (R199): the state after cause 0x03 or 0x05. -/
def State.slotFault (s : State) (off : Nat) : Option State :=
  if off % 16384 ≠ 0 then some (s.vaTrap 0x03 0 off)
  else if 16384 * s.crew.accSlots ≤ off then some (s.vaTrap 0x05 0 off)
  else none

/-- The operands of an MMA of the issuing team, from the lowest active lane (R88, R228). -/
def Team.mmaArgs (t : Team) (sp : Bool) (d a c : Nat) (da db : Bool) (kg fbr : Nat) : MmaArgs :=
  let l := t.active.headD 0
  { sp := sp, acc := (t.rd d l).toNat, ao := (t.rd a l).toNat, bo := (t.rd c l).toNat, da := da, db := db, kg := kg, fbr := fbr }

/-- The operand checks of an MMA (R228), with its record as its issue reads it.  DESIGN CHOICE: the lane that TRAPINFO names for cause 0x03 of
`ao` and `bo` and for cause 0x05 of the record is the lowest active one, with the operand's value or 32·FBR as VA (log entry 92). -/
def State.mmaCheck (s : State) (m : MmaArgs) : Except State FmtBlock :=
  let l := s.team.active.headD 0
  if m.ao % 256 ≠ 0 then .error (s.vaTrap 0x03 l m.ao)
  else if m.bo % 256 ≠ 0 then .error (s.vaTrap 0x03 l m.bo)
  else
    match s.slotFault m.acc with
    | some s' => .error s'
    | none =>
      if s.crew.spadSize < 32 * m.fbr + 32 then .error (s.vaTrap 0x05 l (32 * m.fbr))
      else
        match s.readBlock s.crew ⟨s.team.index, .array, s.tick⟩ m with
        | .error info => .error (s.trapHere 0x24 info)
        | .ok fb => .ok fb

/-- An operation of the matrix array issues, or waits for room in the array's queue (R220). -/
def State.issueArray (s : State) (len : Nat) (work : OpWork) : State :=
  if 16 ≤ s.arrayQueue s.home then s.waits
  else
    let s := s.addOp work 0
    s.withTeam (s.team.advance len)

/-- MMA and MMA.SP. -/
def multiply (i : Instr) (b sp : Bool) (d a c : BitVec 7) (da db : Bool) (kg fbr : Nat) (s : State) : Out :=
  if !s.team.namesOk [d.toNat, a.toNat, c.toNat] then .next (s.illegal i)
  else
    engineForm s (s.team.belay b) 2 (fun s =>
      let m := s.team.mmaArgs sp d.toNat a.toNat c.toNat da db kg fbr
      match s.mmaCheck m with
      | .error s' => .next s'
      | .ok fb => .next (s.issueArray 2 (.mma m fb 0 0 [] none)))

/-- MMA (R88, R228). -/
def execMma (b : Bool) (d a c : BitVec 7) (da db : Bool) (kg : BitVec 6) (fbr : BitVec 15) (s : State) : Out :=
  multiply (.mma b d a c da db kg fbr) b false d a c da db kg.toNat fbr.toNat s

/-- MMA.SP (R88, R228). -/
def execMmaSp (b : Bool) (d a c : BitVec 7) (da db : Bool) (kg : BitVec 6) (fbr : BitVec 15) (s : State) : Out :=
  multiply (.mmaSp b d a c da db kg fbr) b true d a c da db kg.toNat fbr.toNat s

/-- The plan of a copy that an MMA follows, by its form (R88, R206). -/
def State.followPlan (s : State) (i : Instr) (kind d a c : Nat) : Except State (State × CopyPlan) :=
  match kind with
  | 0 => (s.cpyPlan i d a c).map (fun p => (s, p))
  | 1 => (s.cpy2dPlan i false d a c).map (fun p => (s, p))
  | _ => s.cpyTPlan false d a

/-- A copy with FOLLOW and its MMA, one instruction of four words (R88, R206, R227). -/
def execCpyFollowMma (b b2 : Bool) (kind : BitVec 2) (d a c : BitVec 6) (ord : Bool) (sw : BitVec 3) (sp : Bool)
    (md ma mc : BitVec 7) (da db : Bool) (kg : BitVec 6) (fbr : BitVec 15) (s : State) : Out :=
  let i : Instr := .cpyFollowMma b b2 kind d a c ord sw sp md ma mc da db kg fbr
  if !s.team.namesOk [md.toNat, ma.toNat, mc.toNat] then .next (s.illegal i)
  else
    engineForm s (s.team.belay (b || b2)) 4 (fun s =>
      match s.followPlan i kind.toNat d.toNat a.toNat c.toNat with
      | .error s' => .next s'
      | .ok (s1, p) =>
        let m := s1.team.mmaArgs sp md.toNat ma.toNat mc.toNat da db kg.toNat fbr.toNat
        match s1.mmaCheck m with
        | .error s' => .next s'
        | .ok _ => .next (s1.issueCopy false ord sw.toNat 4 p (some m)))

/-- The MMA that follows a copy issues: its record is read again, or the batch carries cause 0x24 (R206, R227). -/
def State.issueFollow (s : State) (op : Nat) : State :=
  match s.op? op with
  | none => s
  | some o =>
    match o.work, s.crew? o.crew, s.team? o.team with
    | .follow m, some w, some t =>
      if o.done ∨ ((s.ctx? o.ctx).map (fun c => decide (c.state = .running))).getD false = false then s
      else
        match s.readBlock w ⟨t.index, .array, s.tick⟩ m with
        | .ok fb => s.modOp op (fun o => { o with work := .mma m fb 0 0 [] none, stamp := s.tick })
        | .error info => s.finishOp o [] (some (0x24, info + BitVec.ofNat 64 (o.pc % 2 ^ 57 / 65536 * 65536)))
    | _, _, _ => s

/-- FOLLOW_MMA_ISSUE: the copy engine issues the MMA, once the matrix array has room for it (R206, R227). -/
def execFollowMmaIssue (op : Nat) (s : State) : Out :=
  match s.op? op with
  | none => .next s
  | some o => if 16 ≤ s.arrayQueue o.core then .next s else .next (s.issueFollow op)

/-- The MMAs of a context that follow copies and have not issued do so, before any of its teams issues (R206, R336). -/
def State.issueFollows (s : State) (ctx : Nat) : State :=
  ((s.ops.filter (fun o => o.ctx == ctx && (match o.work with | .follow _ => true | _ => false))).map (fun o => o.id)).foldl
    State.issueFollow s

/-! ## A group of 32 K-elements -/

/-- A stored element of a region: row, index within the row (R195, R197). -/
def State.rawElem (s : State) (w : Crew) (rd : Reader) (base width fmt r e : Nat) : Nat :=
  let a := base + 4 * width * r
  let read := fun (x n : Nat) => ofLeBytes (s.spadRead w rd (.tile base width) x n)
  match elemBits fmt with
  | 16 => read (a + 2 * e) 2
  | 8 => read (a + e) 1
  | _ => read (a + e / 2) 1 / 16 ^ (e % 2) % 16

/-- A scale byte (R203). -/
def State.scaleByte (s : State) (w : Crew) (rd : Reader) (a : Nat) : Byte := (s.spadRead w rd (.sw 0) a 1).headD 0

/-- An element of an operand as the array takes it, with the scale byte of its block (R186, R203). -/
def element (fmt raw : Nat) (scale : Byte) : Term :=
  if fmt = 4 then elemTerm (blockElem scale.toNat raw) else elemTerm (floatElem fmt raw)

/-- A record with the scale bytes of a sparse A for a group: where its blocks begin with the group they are read, and a block that
reaches over several groups keeps its byte (R200, R203). -/
def State.holdScales (s : State) (w : Crew) (rd : Reader) (fb : FmtBlock) (g : Nat) : FmtBlock :=
  let e := g * groupStored fb.asp
  if fb.asp = 0 ∨ fb.afmt ≠ 4 ∨ e % blockLen fb.abl ≠ 0 then fb
  else { fb with held := FMap.tabulate 64 (fun i => s.scaleByte w rd (fb.ascale + i * fb.astr + e / blockLen fb.abl)) }

/-- Stored element `e` of logical row `i` of A. -/
def State.elemA (s : State) (w : Crew) (rd : Reader) (m : MmaArgs) (fb : FmtBlock) (i e : Nat) : Term :=
  let raw := if m.da then s.rawElem w rd m.ao (32 * fb.wa) fb.afmt e i else s.rawElem w rd m.ao (32 * fb.wa) fb.afmt i e
  let scale := if fb.asp = 0 then s.scaleByte w rd (fb.ascale + i * fb.astr + e / blockLen fb.abl) else fb.held.get i
  element fb.afmt raw scale

/-- Element `e` of logical column `j` of B. -/
def State.elemB (s : State) (w : Crew) (rd : Reader) (m : MmaArgs) (fb : FmtBlock) (j e : Nat) : Term :=
  let raw := if m.db then s.rawElem w rd m.bo (32 * fb.wb) fb.bfmt j e else s.rawElem w rd m.bo (32 * fb.wb) fb.bfmt e j
  element fb.bfmt raw (s.scaleByte w rd (fb.bscale + j * fb.bstr + e / blockLen fb.bbl))

/-- The stored element of a sparse group that lands at a position: the last that names it (R205). -/
def sparseAt (mword n k : Nat) : Option Nat := (List.range n).reverse.find? (fun x => mword / 2 ^ (5 * x) % 32 == k)

/-- The 32 positions of row `i` of A in group `g` (R205).  DESIGN CHOICE: the metadata is read with SW = 0 (log entry 86). -/
def State.groupA (s : State) (w : Crew) (rd : Reader) (m : MmaArgs) (fb : FmtBlock) (g i : Nat) : List (Option Term) :=
  if fb.asp = 0 then (List.range 32).map (fun k => some (s.elemA w rd m fb i (32 * g + k)))
  else
    let n := groupStored fb.asp
    let mword := ofLeBytes (s.spadRead w rd (.sw 0) (fb.mbase + i * fb.mstr + g * n) n)
    (List.range 32).map (fun k => (sparseAt mword n k).map (fun x => s.elemA w rd m fb i (g * n + x)))

/-- The 32 positions of column `j` of B in group `g`. -/
def State.groupB (s : State) (w : Crew) (rd : Reader) (m : MmaArgs) (fb : FmtBlock) (g j : Nat) : List Term :=
  (List.range 32).map (fun k => s.elemB w rd m fb j (32 * g + k))

/-- The in-array accumulators after a group (R191). -/
def State.runGroup (s : State) (w : Crew) (rd : Reader) (m : MmaArgs) (fb : FmtBlock) (g : Nat) (acc : FMap 26) : FMap 26 :=
  let rows := (List.range 64).map (s.groupA w rd m fb g)
  let cols := (List.range 64).map (s.groupB w rd m fb g)
  FMap.tabulate 4096 (fun x =>
    BitVec.ofNat 26 (groupSum (acc.get x).toNat (products (rows.getD (x / 64) []) (cols.getD (x % 64) []))))

/-! ## Accumulator memory -/

/-- The key of a word of a slot in the crew's accumulator memory (R199). -/
def accKey (slot x : Nat) : Nat := slot / 16384 * 4096 + x

/-- Another team of the crew has an operation on accumulator memory, with which single words interleave (R229). -/
def State.accContended (s : State) (o : AsyncOp) : Bool :=
  s.ops.any (fun p => p.crew == o.crew && p.team != o.team && !p.done && p.work.onAcc)

/-- The words of an operation that are done in this step (R229): all that are left, or some of them. -/
def State.accNow (s : State) (o : AsyncOp) (left : Plane) : Plane :=
  if s.accContended o then left &&& ~~~(Plane.ofFn (fun x => s.free 6 x)) else left

/-- Change words of a crew's accumulator memory. -/
def Crew.setAcc (w : Crew) (slot : Nat) (xs : List Nat) (f : Nat → Word) : Crew :=
  { w with acc := xs.foldl (fun m x => m.set (accKey slot x) (f x)) w.acc }

/-- A word of a slot. -/
def Crew.accWord (w : Crew) (slot x : Nat) : Word := w.acc.get (accKey slot x)

/-- The oldest operation on accumulator memory of a team (R229). -/
def State.oldestAcc (s : State) (team : Nat) : Option AsyncOp :=
  (s.ops.filter (fun o => o.team == team && !o.done && o.work.onAcc)).foldl
    (fun best o => match best with | none => some o | some p => if o.stamp < p.stamp then some o else some p) none

/-- An ACC form has updated, written or read a word (R230). -/
def OpWork.accStarted : OpWork → Bool
  | .accClr _ left => left != BitVec.allOnes 4096
  | .accProm _ _ _ left => left != BitVec.allOnes 4096
  | .accLd _ _ _ left => left != BitVec.allOnes 4096
  | .accSt _ _ _ _ _ _ left => left != BitVec.allOnes 4096
  | _ => false

/-- The operation is the one of its team that the array takes next; in a halted context an ACC form that has started goes on
(R230). -/
def State.accTurn (s : State) (o : AsyncOp) : Bool :=
  ((s.oldestAcc o.team).map (fun p => p.id == o.id)).getD false
    && ((s.ctx? o.ctx).map (fun c => decide (c.state = .running) || (decide (c.state = .halted) && o.work.accStarted))).getD false

/-- The outputs of a set fold; with the last one the accumulators start again, and after the last group the operation is complete
(R191, R228). -/
def State.foldNow (s : State) (o : AsyncOp) (w : Crew) (m : MmaArgs) (fb : FmtBlock) (g : Nat) (acc : FMap 26) (left now : Plane) : State :=
  let s := s.modCrew w.key (fun w =>
    w.setAcc m.acc (Plane.cells now) (fun x => BitVec.ofNat 32 (foldInto (w.accWord m.acc x).toNat (acc.get x).toNat)))
  let rest := left &&& ~~~now
  if rest ≠ 0 then s.modOp o.id (fun o => { o with work := .mma m fb g 0 acc (some rest) })
  else if g = m.groups then s.finishOp o [] none
  else s.modOp o.id (fun o => { o with work := .mma m fb g 0 [] none })

/-- Some outputs of an MMA fold, word by word where another team's operation interleaves (R191, R229). -/
def State.foldStep (s : State) (o : AsyncOp) (w : Crew) (m : MmaArgs) (fb : FmtBlock) (g : Nat) (acc : FMap 26) (left : Plane) : State :=
  s.foldNow o w m fb g acc left (s.accNow o left)

/-- A halted MMA folds every output at its group boundary (R192). -/
def State.haltMma (s : State) (o : AsyncOp) : State :=
  match o.work, s.crew? o.crew with
  | .mma m fb g n acc fold, some w =>
    match fold with
    | some left => s.foldNow o w m fb g acc left left
    | none => if n = 0 then s else s.foldNow o w m fb g acc (BitVec.allOnes 4096) (BitVec.allOnes 4096)
  | _, _ => s

/-- One step of an MMA in the array: a group, and the fold that is due after it (R191). -/
def State.mmaStep (s : State) (o : AsyncOp) (w : Crew) (index : Nat) (m : MmaArgs) (fb : FmtBlock) (g n : Nat) (acc : FMap 26)
    (fold : Option Plane) : State :=
  match fold with
  | some left => s.foldStep o w m fb g acc left
  | none =>
    let fb := s.holdScales w ⟨index, .array, o.stamp⟩ fb g
    let acc' := s.runGroup w ⟨index, .array, o.stamp⟩ m fb g acc
    if n + 1 = fb.pi ∨ g + 1 = m.groups then s.foldStep o w m fb (g + 1) acc' (BitVec.allOnes 4096)
    else s.modOp o.id (fun o => { o with work := .mma m fb (g + 1) (n + 1) acc' none })

/-! ## ACC forms -/

/-- A form on one slot, its offset checked (R199, R231). -/
def accForm (b : Bool) (s : State) (body : State → Out) : Out := engineForm s (s.team.belay b) 1 body

/-- ACC.CLR (R231, R232). -/
def execAccClr (b : Bool) (a : BitVec 6) (s : State) : Out :=
  accForm b s (fun s =>
    let slot := (s.team.srd a.toNat).toNat
    match s.slotFault slot with
    | some s' => .next s'
    | none => .next (s.issueArray 1 (.accClr slot (BitVec.allOnes 4096))))

/-- ACC.PROM (R231, R232). -/
def execAccProm (b : Bool) (d a c : BitVec 6) (s : State) : Out :=
  accForm b s (fun s =>
    let dst := (s.team.srd d.toNat).toNat
    let src := (s.team.srd a.toNat).toNat
    match s.slotFault dst with
    | some s' => .next s'
    | none =>
      match s.slotFault src with
      | some s' => .next s'
      | none => .next (s.issueArray 1 (.accProm dst src (s.team.srd c.toNat) (BitVec.allOnes 4096))))

/-- The addresses of the elements of a block by word of the slot (R233). -/
def blockElems (h : List Byte) (size : Nat) : List (Nat × Nat) :=
  (List.range (fieldAt h 8 2)).flatMap (fun i =>
    (List.range (fieldAt h 10 2)).map (fun j => (64 * i + j, (fieldAt h 0 8 + i * fieldAt h 12 4 + j * size) % 2 ^ 64)))

/-- The checks of a block's header: at most 64 by 64, and rows that do not overlap (R231, R233). -/
def blockHeaderFault (h : List Byte) (size : Nat) : Option Nat :=
  if 64 < fieldAt h 8 2 ∨ 64 < fieldAt h 10 2 then some 8
  else if fieldAt h 12 4 < fieldAt h 10 2 * size then some 12
  else none

/-- The element size of ACC.LD by the header's FMT, and the format; `none` for any other code (R233). -/
def accLdFmt (tag : Nat) : Option (Nat × Nat) :=
  match tag % 32 with
  | 1 => some (4, 0)
  | 2 => some (2, 1)
  | 3 => some (2, 2)
  | _ => none

/-- The element size of ACC.ST by fmt (R233). -/
def accStSize (f : Nat) : Nat := if f = 0 then 4 else if f ≤ 2 then 2 else 1

/-- The floating-point format of an ACC form's code (R231). -/
def accFmt (f : Nat) : Fmt :=
  match f with
  | 0 => fp32
  | 1 => bf16
  | 2 => fp16
  | 3 => fpE4
  | _ => fpE5

/-- A checked ACC.LD or ACC.ST issues: what the team's atomics and .sc stores do to the bytes of its elements is performed (R262, R292), or it
waits for room in the array's queue (R220). -/
def State.issueBlock (s : State) (elems : List (Nat × Nat)) (locs : List Loc) (size : Nat) (work : List (Nat × Loc) → OpWork) : State :=
  let placed := (List.zip elems locs).map (fun x => (x.1.1, x.2))
  if 16 ≤ s.arrayQueue s.home then s.waits
  else ((s.settleOver (placed.flatMap (fun e => e.2.span size))).touchUnits (elems.map (fun e => e.2))).issueArray 1 (work placed)

/-- ACC.LD (R219, R231, R233). -/
def execAccLd (b : Bool) (d a : BitVec 6) (s : State) : Out :=
  accForm b s (fun s =>
    let slot := (s.team.srd d.toNat).toNat
    let va := (s.team.srd64 a.toNat).toNat
    match s.slotFault slot with
    | some s' => .next s'
    | none =>
      withHeader s va (fun s _ h =>
        match accLdFmt (fieldAt h 28 2) with
        | none => .next (s.trapHere 0x24 (malformed 2 (if 64 < fieldAt h 8 2 ∨ 64 < fieldAt h 10 2 then 8 else 28)))
        | some (size, fmt) =>
          match blockHeaderFault h size with
          | some off => .next (s.trapHere 0x24 (malformed 2 off))
          | none =>
            let elems := blockElems h size
            match s.reach (elems.map (fun e => (e.2, .read)) ++ [(va, .read)]) with
            | .stop s' => .next s'
            | .ok locs =>
              .next (s.issueBlock elems locs size (fun placed => .accLd slot placed fmt (BitVec.allOnes 4096)))))

/-- The tag that ACC.ST leaves: FMT, row-major, dense, VAR 0 (R209, R233). -/
def accStTag (f : Nat) : BitVec 16 := BitVec.ofNat 16 (f + 1)

/-- ACC.ST (R219, R231, R233). -/
def execAccSt (b : Bool) (d a : BitVec 6) (f : BitVec 3) (sat : Bool) (s : State) : Out :=
  accForm b s (fun s =>
    let slot := (s.team.srd d.toNat).toNat
    let va := (s.team.srd64 a.toNat).toNat
    match s.slotFault slot with
    | some s' => .next s'
    | none =>
      withHeader s va (fun s _ h =>
        match blockHeaderFault h (accStSize f.toNat) with
        | some off => .next (s.trapHere 0x24 (malformed 2 off))
        | none =>
          let elems := blockElems h (accStSize f.toNat)
          match s.reach (elems.map (fun e => (e.2, .write)) ++ [(va, .write)]) with
          | .stop s' => .next s'
          | .ok locs =>
            let hdr := (locs.getLast?).getD ⟨0, false, false⟩
            .next (s.issueBlock elems locs (accStSize f.toNat) (fun placed =>
              .accSt slot placed f.toNat sat (.header (hdr.plus 28) (accStTag f.toNat)) [] (BitVec.allOnes 4096)))))

/-- An element of memory as ACC.LD gives it to the slot (R108, R233). -/
def accLoadElem (fmt x : Nat) : Word := BitVec.ofNat 32 (if fmt = 0 then x else cvt (.fp fp32) (.fp (accFmt fmt)) false .rn x)

/-- A word of a slot as ACC.ST stores it (R108, R233). -/
def accStoreElem (fmt : Nat) (sat : Bool) (x : Nat) : Nat :=
  if fmt = 0 then (if sat = true ∧ fp32.isNan x = false then fp32.saturate (fp32.val x) .rn else x)
  else cvt (.fp (accFmt fmt)) (.fp fp32) sat .rn x

/-- ACC_COMPLETE: an ACC form in its turn updates, writes or reads its words; with the last one it is complete, and an ACC.ST's
stores and tag are then in memory (R229, R232, R233). -/
def execAccComplete (op : Nat) (s : State) : Out :=
  match s.op? op with
  | none => .next s
  | some o =>
    if o.done || !s.accTurn o then .next s
    else
      match s.crew? o.crew with
      | none => .next s
      | some w =>
        match o.work with
        | .accClr slot left =>
          let now := s.accNow o left
          let s := s.modCrew w.key (fun w => w.setAcc slot (Plane.cells now) (fun _ => 0))
          if left &&& ~~~now = 0 then .next (s.finishOp o [] none)
          else .next (s.modOp op (fun o => { o with work := .accClr slot (left &&& ~~~now) }))
        | .accProm dst src f left =>
          let now := s.accNow o left
          let s := s.modCrew w.key (fun w => w.setAcc dst (Plane.cells now)
            (fun x => word3 fp32.fma (w.accWord src x) f (w.accWord dst x)))
          if left &&& ~~~now = 0 then .next (s.finishOp o [] none)
          else .next (s.modOp op (fun o => { o with work := .accProm dst src f (left &&& ~~~now) }))
        | .accLd slot elems fmt left =>
          let now := s.accNow o left
          let s := s.drainFor o.core (elems.map (fun e => e.2))
          let value := fun x => match assoc? elems x with
            | some l => accLoadElem fmt (ofLeBytes (s.readForOp o l (accStSize fmt)))
            | none => 0
          let read := (elems.filter (fun e => now.getLsbD e.1)).map (fun e => e.2)
          let s := (s.opSaw o read (accStSize fmt)).modCrew w.key (fun w => w.setAcc slot (Plane.cells now) value)
          if left &&& ~~~now = 0 then .next (s.finishOp o [] none)
          else .next (s.modOp op (fun o => { o with work := .accLd slot elems fmt (left &&& ~~~now) }))
        | .accSt slot elems fmt sat tag got left =>
          let now := s.accNow o left
          let more := (elems.filter (fun e => now.getLsbD e.1)).map (fun e =>
            (e.2, accStoreElem fmt sat (w.accWord slot e.1).toNat))
          if left &&& ~~~now = 0 then
            let s := (got ++ more).foldl (fun (s : State) e => s.writeThrough e.1 (accStSize fmt) e.2) s
            .next ((s.writeTag o w tag).finishOp o [] none)
          else .next (s.modOp op (fun o => { o with work := .accSt slot elems fmt sat tag (got ++ more) (left &&& ~~~now) }))
        | _ => .next s

end Sys2Proof.Machine
end

