-- ==== Sys2Proof/Machine/Ring.lean ====
section
/-! DEFINITION. Ring reductions and their semaphores: RING.RED, RING.WAIT and the grommet engine (22, R345 to R347; 25, R374,
R375). -/

namespace Sys2Proof.Machine

/-! ## The descriptor -/

/-- The first field of a ring descriptor that breaks R345, by its byte offset. -/
def ringFault (h : List Byte) : Option Nat :=
  if fieldAt h 0 8 % 256 ≠ 0 then some 0
  else if fieldAt h 8 8 % 256 ≠ 0 then some 8
  else if fieldAt h 16 4 % 4096 ≠ 0 ∨ fieldAt h 16 4 < 4096 ∨ 16777216 < fieldAt h 16 4 then some 16
  else if fieldAt h 20 4 < 1 ∨ 4096 < fieldAt h 20 4 then some 20
  else none

/-- The fields after RING. -/
def ringFaultTail (h : List Byte) : Option Nat :=
  if 4096 ≤ fieldAt h 32 2 then some 32
  else if fieldAt h 34 1 % 4 = 3 ∨ 16 ≤ fieldAt h 34 1 then some 34
  else if 64 ≤ fieldAt h 35 1 then some 35
  else if (h.drop 36).any (fun x => x != 0) then some 36 else none

/-- The fault of the ring table: its size, or this device absent or twice in it (R345). -/
def tableFault (n : Nat) (devices : List Nat) (me : Nat) : Option Nat :=
  if n < 2 ∨ 4194304 < n ∨ devices.countP (fun d => d == me) ≠ 1 then some 24 else none

/-- The semaphores of an operation lie in the context's grant on a die (R345). -/
def semaphoresGranted (grant : Nat × Nat) (sem n : Nat) : Bool :=
  (List.range n).all (fun k => decide (grant.1 ≤ (sem + k) % 4096) && decide ((sem + k) % 4096 < grant.1 + grant.2))

/-- The location of a byte of a range whose pages are located. -/
def pageLoc (locs : List Loc) (va k : Nat) : Loc :=
  let o := va % 65536 + k
  if o < 65536 then (locs.headD ⟨0, false, false⟩).plus k else (locs.getD (o / 65536) ⟨0, false, false⟩).plus (o % 65536)

/-- The 4-byte words of a table at an address, read for the issuing team. -/
def State.tableWords (s : State) (locs : List Loc) (va n : Nat) : List Nat :=
  (List.range n).map (fun k => ofLeBytes ((List.range 4).map (fun i => s.farByte s.home (pageLoc locs va (4 * k + i)) 0)))

/-- Those words have been read (R398). -/
def State.readTable (s : State) (locs : List Loc) (va n : Nat) : State :=
  if s.dev.injections = [] then s else s.hasRead s.home ((List.range n).map (fun k => pageLoc locs va (4 * k))) 4

/-- The operations that a die's grommet engine runs (R346). -/
def State.ringOps (s : State) (die : Nat) : Nat :=
  s.ops.countP (fun o => !o.done && (match o.work with | .ring a _ _ _ => a.die == die | _ => false))

/-- The window through which a ring operation reaches its successor (R374). -/
def Context.ringWindow (c : Context) (a : RingArgs) : Bool :=
  match c.window? a.win with
  | some w => w.dev == a.succ && w.allowPut && decide (a.nchunk * a.chunk ≤ w.size)
  | none => false

/-! ## The engine -/

/-- The bytes of an element (R345). -/
def RingArgs.size (a : RingArgs) : Nat := if a.fmt = 0 then 4 else 2

/-- OP of two elements, the accumulating one first (R346, R374). -/
def RingArgs.op (a : RingArgs) (x y : Nat) : Nat :=
  let f := if a.fmt = 0 then fp32 else if a.fmt = 1 then bf16 else fp16
  if a.max then f.max x y else f.add x y

/-- OP of the elements of two runs of bytes. -/
def RingArgs.combine (a : RingArgs) (x y : List Byte) : List Byte :=
  (List.range (x.length / a.size)).flatMap (fun k =>
    leBytes a.size (a.op (ofLeBytes ((x.drop (k * a.size)).take a.size)) (ofLeBytes ((y.drop (k * a.size)).take a.size))))

/-- The byte offsets in a chunk of the units of a segment (R374). -/
def RingArgs.unitsOf (a : RingArgs) (seg : Nat) : List Nat :=
  ((List.range (a.chunk / 16)).filter (fun u => u % a.devices == seg)).map (fun u => 16 * u)

/-- The places of some 16-byte units of SRC or DST, translated when the engine uses them, with no place for one that the masthead kernel
cannot map; or the first address that has still to be mapped, with the cause (R247, R345). -/
def State.ringUnits (s : State) (o : AsyncOp) (a : RingArgs) (vas : List Nat) (acc : Access) : Except (Nat × Nat) (List (Option Loc)) :=
  match s.ctx? o.ctx with
  | none => .ok (vas.map (fun _ => none))
  | some c =>
    match s.badOf c a.die (vas.filter (fun v => !c.refusedVas.contains v)) acc with
    | some x => .error x
    | none => .ok (vas.map (fun v => match s.translateFor c a.die v acc with | .ok l => some l | .error _ => none))

/-- The addresses of the units of a segment of a chunk in SRC. -/
def RingArgs.srcUnits (a : RingArgs) (chunk seg : Nat) : List Nat := (a.unitsOf seg).map (fun k => a.srcVa + chunk * a.chunk + k)

/-- The addresses of the units of a chunk in DST. -/
def RingArgs.dstUnits (a : RingArgs) (chunk : Nat) : List Nat :=
  (List.range (a.chunk / 16)).map (fun u => a.dstVa + chunk * a.chunk + 16 * u)

/-- This device's SRC bytes of a segment of a chunk, by the places of its units.  Those of an address that the masthead kernel cannot map are
open. -/
def State.ringSrc (s : State) (o : AsyncOp) (places : List (Option Loc)) : List Byte :=
  places.zipIdx.flatMap (fun x => match x.1 with | some l => s.engineBytes o.core l 16 | none => s.remoteUnit o x.2)

/-- The engine has used the addresses of some units: the masthead kernel has nothing more to map there. -/
def State.ringDone (s : State) (o : AsyncOp) (a : RingArgs) (vas : List Nat) : State :=
  match s.ctx? o.ctx with
  | none => s
  | some c => vas.foldl (fun s v => s.deviceDone c a.die v 16) s

/-- A segment of a chunk goes to the successor's engine (R374). -/
def State.sendSegment (s : State) (a : RingArgs) (chunk seg : Nat) (bytes : List Byte) : State :=
  s.sendTo a.succ 3 (chunk * 2 ^ 32 + seg) bytes

/-- The segments of a chunk that have units (R374). -/
def RingArgs.segments (a : RingArgs) : Nat := Nat.min a.devices (a.chunk / 16)

/-- Every segment of a chunk has passed this device: its own first one has gone out, and it has joined the others (R346, R374). -/
def RingArgs.passed (a : RingArgs) (sent : List Nat) (joined : List (Nat × Nat × List Byte)) (chunk : Nat) : Bool :=
  (decide (a.segments ≤ a.firstSeg) || sent.contains chunk)
    && (List.range a.segments).all (fun q => q == a.firstSeg || joined.any (fun e => e.1 == chunk && e.2.1 == q))

/-- The result of this device's own segment of a chunk, once it is final. -/
def ownResult (a : RingArgs) (joined : List (Nat × Nat × List Byte)) (chunk : Nat) : Option (List Byte) :=
  (joined.find? (fun e => e.1 == chunk && e.2.1 == a.pos)).map (fun e => e.2.2)

/-- The result of a unit of a chunk: this device's own, or another device's, which no event has given. -/
def State.ringResult (s : State) (o : AsyncOp) (a : RingArgs) (joined : List (Nat × Nat × List Byte)) (chunk u : Nat) : List Byte :=
  match (if u % a.devices = a.pos then ownResult a joined chunk else none) with
  | some r => (r.drop (16 * (u / a.devices))).take 16
  | none => s.remoteUnit o (chunk * (a.chunk / 16) + u)

/-- A failed ring operation: each unit of a chunk under way holds what it held or, freely, its result, once that can be final (R346,
R374). -/
def State.failRing (s : State) (o : AsyncOp) (a : RingArgs) (done sent : List Nat) (joined : List (Nat × Nat × List Byte)) : State :=
  let chunks := (List.range (a.started done)).filter (fun k => !done.contains k)
  let s1 := chunks.foldl (fun s k =>
    ((List.range (a.chunk / 16)).filter (fun u => a.mayBeFinal sent joined k u && s.free 8 ((o.id * 2 ^ 12 + k) * 2 ^ 20 + u))).foldl (fun s u =>
      match s.ringUnits o a [a.dstVa + k * a.chunk + 16 * u] .write with
      | .ok [some l] => s.writeThrough l 16 (ofLeBytes (s.ringResult o a joined k u))
      | _ => s) s) s
  { s1 with staging := s1.staging.filter (fun e => e.1 != o.id) }.endFailed o

/-- An operation fails with cause 0x25 (R281, R346). -/
def State.failOp (s : State) (o : AsyncOp) : State :=
  match o.work with
  | .remote kind a => s.failRemote o kind a
  | .ring a done sent joined => s.failRing o a done sent joined
  | _ => s.endFailed o

/-- RING.RED (R345, R346).  DESIGN CHOICE: the address that cause 0x05 reports for a semaphore outside the grant, or for a window, is open
(log entry 34). -/
def execRingRed (b : Bool) (a : BitVec 6) (s : State) : Out :=
  let s := s.withTeam (s.team.belay b)
  let va := (s.team.srd64 a.toNat).toNat
  if va % 64 ≠ 0 then .next (s.vaTrap 0x03 0 va)
  else
    match s.reach [(va, .read)] with
    | .stop s' => .next s'
    | .ok dl =>
      let l := dl.headD ⟨0, false, false⟩
      let s0 := s.drainFor s.home [l]
      let h := s0.engineBytes s.home l 64
      let ring := fieldAt h 24 8
      let s0 := s0.hasRead s.home [l] 64
      match s0.reach (rangeAccesses ring 4 true false) with
      | .stop s' => .next s'
      | .ok nl =>
        let s1 := s0.drainFor s.home nl
        let n := (s1.tableWords nl ring 1).headD 0
        let s1 := s1.readTable nl ring 1
        match s1.reach (if 2 ≤ n ∧ n ≤ 4194304 then rangeAccesses ring (4 + 4 * n) true false else []) with
        | .stop s' => .next s'
        | .ok tl =>
          let s2 := s1.drainFor s.home tl
          let devices := if tl = [] then [] else ((s2.tableWords tl ring (n + 1)).drop 1).map (fun w => w % 2 ^ 22)
          let s2 := if tl = [] then s2 else s2.readTable tl ring (n + 1)
          match (ringFault h).or ((tableFault n devices s.dev.devid.toNat).or (ringFaultTail h)) with
          | some off => .next (s2.trapHere 0x24 (malformed 5 off))
          | none =>
            let die := dieOf s.home
            let pos := devices.findIdx (fun d => d == s.dev.devid.toNat)
            let chunk := fieldAt h 16 4
            let nchunk := fieldAt h 20 4
            let sem := fieldAt h 32 2
            let win := fieldAt h 35 1
            if !semaphoresGranted (s.ctx.grants.getD die (0, 0)) sem nchunk || (s.ctx.window? win).isNone then
              .next (s2.vaTrap 0x05 0 (s.freeNumber 1))
            else
              let src := rangeAccesses (fieldAt h 0 8) (nchunk * chunk) true false
              let dst := rangeAccesses (fieldAt h 8 8) (nchunk * chunk) false true
              match s2.reach (src ++ dst) with
              | .stop s' => .next s'
              | .ok _ =>
                if 64 ≤ s2.ringOps die then .next s.waits
                else
                  let args : RingArgs :=
                    { srcVa := fieldAt h 0 8, dstVa := fieldAt h 8 8, chunk := chunk, nchunk := nchunk, devices := n, pos := pos, succ := devices.getD ((pos + 1) % n) 0,
                      pred := devices.getD ((pos + n - 1) % n) 0, sem := sem,
                      fmt := fieldAt h 34 1 % 4, max := bitOf (fieldAt h 34 1 / 4), tc := bitOf (fieldAt h 34 1 / 8), win := win,
                      die := die }
                  let s3 := s2.release.addOp (.ring args [] [] []) 0
                  match s3.ops.getLast? with
                  | none => .next s
                  | some o =>
                    let s4 := s3.withTeam (s3.team.advance 1)
                    if s.ctx.ringWindow args then .next s4 else .next (s4.failOp o)

/-- A partial segment of an operation, which may not have issued yet, is expected (R374). -/
def State.expects (s : State) (op chunk seg : Nat) : Bool :=
  !s.staging.any (fun e => e.1 == op && e.2.1 == chunk && e.2.2.1 == seg)
    && (match s.op? op with
      | none => decide (s.nextKey ≤ op)
      | some o =>
        match o.work with
        | .ring a done _ joined =>
          !o.done && decide (chunk < a.nchunk) && !done.contains chunk && decide (seg < a.segments) && seg != a.firstSeg
            && !joined.any (fun e => e.1 == chunk && e.2.1 == seg)
        | _ => false)

/-- PARTIAL_SEGMENT: a partial segment arrives from the predecessor and waits in the engine's staging (R374). -/
def execPartialSegment (op chunk seg : Nat) (bytes : List (BitVec 8)) (s : State) : Out :=
  if s.expects op chunk seg then .next { s with staging := s.staging ++ [(op, chunk, seg, bytes)] } else .next s

/-- The chunks below one have all been started: the engine starts them in ascending order (R374). -/
def chunksBefore (done sent : List Nat) (chunk : Nat) : Bool := (List.range chunk).all (fun k => sent.contains k || done.contains k)

/-- The first segment of the next chunk to start goes to the successor, with this device's SRC of then; while a unit of it has still to be
mapped, the engine tries again (R247, R346, R374). -/
def State.ringSend (s : State) (op chunk : Nat) : State :=
  match s.op? op with
  | none => s
  | some o =>
    match o.work with
    | .ring a done sent joined =>
      if o.done || decide (a.started done ≤ chunk) || sent.contains chunk || done.contains chunk || !chunksBefore done sent chunk then s
      else
        let vas := a.srcUnits chunk a.firstSeg
        match s.ringUnits o a vas .read with
        | .error (v, e) => s.deviceFault o.ctx v e .read a.die
        | .ok places =>
          (((s.ringDone o a vas).hasRead o.core (places.filterMap id) 16).sendSegment a chunk a.firstSeg (s.ringSrc o places)).modOp op (fun o =>
            { o with work := .ring a done (sent ++ [chunk]) joined })
    | _ => s

/-- A segment of a started chunk that waits in staging is joined with this device's SRC of then, and goes on to the successor; the
result of this device's own segment is final (R346, R374). -/
def State.ringJoin (s : State) (op chunk seg : Nat) : State :=
  match s.op? op with
  | none => s
  | some o =>
    match o.work, s.staging.find? (fun e => e.1 == op && e.2.1 == chunk && e.2.2.1 == seg) with
    | .ring a done sent joined, some e =>
      if o.done || decide (a.started done ≤ chunk) || done.contains chunk || !chunksBefore done sent chunk then s
      else
        let vas := a.srcUnits chunk seg
        match s.ringUnits o a vas .read with
        | .error (v, e) => s.deviceFault o.ctx v e .read a.die
        | .ok places =>
          let given := (List.range (16 * (a.unitsOf seg).length)).map (fun i => e.2.2.2.getD i 0)
          let sum := a.combine given (s.ringSrc o places)
          let s1 := (((s.ringDone o a vas).hasRead o.core (places.filterMap id) 16).sendSegment a chunk seg sum).modOp op (fun o =>
            { o with work := .ring a done sent ((chunk, seg, if seg = a.pos then sum else []) :: joined) })
          { s1 with staging := s1.staging.filter (fun x => !(x.1 == op && x.2.1 == chunk && x.2.2.1 == seg)) }
    | _, _ => s

/-- The context of an operation may still use its semaphores (R346, R375). -/
def State.addsSemaphores (s : State) (o : AsyncOp) : Bool :=
  match s.ctx? o.ctx with
  | some c => c.state != .terminated
  | none => false

/-- The bytes of a unit of a chunk as its result gives them: this device's own, or those that an event gives for another device's. -/
def State.ringUnit (s : State) (o : AsyncOp) (a : RingArgs) (joined : List (Nat × Nat × List Byte)) (chunk : Nat) (bytes : List Byte) (u : Nat) :
    List Byte :=
  if u % a.devices = a.pos then s.ringResult o a joined chunk u
  else (List.range 16).map (fun i => (bytes[16 * u + i]?).getD (s.remoteByte o (16 * u + i)))

/-- RING_CHUNK_WRITTEN: a chunk of which every segment has passed this device is written at DST, this device's segment with its result
and the others as their devices deliver them, and its semaphore is added to; while a unit of DST has still to be mapped, the engine tries
again (R247, R346, R374). -/
def execRingChunkWritten (op chunk : Nat) (bytes : List (BitVec 8)) (s : State) : Out :=
  match s.op? op with
  | none => .next s
  | some o =>
    match o.work with
    | .ring a done sent joined =>
      if o.done || done.contains chunk || decide (a.started done ≤ chunk) || !a.passed sent joined chunk then .next s
      else
        match s.ringUnits o a (a.dstUnits chunk) .write with
        | .error (v, e) => .next (s.deviceFault o.ctx v e .write a.die)
        | .ok places =>
          let s1 := places.zipIdx.foldl (fun s x =>
            match x.1 with
            | some l => s.writeThrough l 16 (ofLeBytes (s.ringUnit o a joined chunk bytes x.2))
            | none => s) (s.ringDone o a (a.dstUnits chunk))
          let key := a.die * 4096 + (a.sem + chunk) % 4096
          let s2 := if s.addsSemaphores o then { s1 with semaphores := s1.semaphores.set key (s1.semaphores.get key + 1) } else s1
          .next (s2.modOp op (fun o => { o with work := .ring a (done ++ [chunk]) sent (joined.filter (fun e => e.1 != chunk)) }))
    | _ => .next s

/-- RING_COMPLETE: every chunk is done, and with it every transfer to a neighbour; or a peer never joined, and the operation ends with
cause 0x25 (R346). -/
def execRingComplete (op : Nat) (s : State) : Out :=
  match s.op? op with
  | none => .next s
  | some o =>
    match o.work with
    | .ring a done _ _ =>
      if o.done then .next s
      else if (List.range a.nchunk).all (fun k => done.contains k) then .next (s.finishOp o [] none)
      else if s.free 7 op then .next (s.failOp o)
      else .next s
    | _ => .next s

/-! ## What ends operations -/

/-- The operations that an event ends: they fail with cause 0x25 (R281, R346). -/
def State.failOps (s : State) (p : AsyncOp → Bool) : State :=
  (s.ops.filter (fun o => !o.done && p o)).foldl (fun s o => s.failOp o) s

/-- WINDOW_REVOKE: what is in flight in the window ends with cause 0x25, and it is no longer registered (R281, R346, R371). -/
def execWindowRevoke (ctx win : Nat) (s : State) : Out :=
  let s1 := s.failOps (fun o => o.ctx == ctx && (match o.work with
    | .remote _ a => a.win == win
    | .ring a _ _ _ => a.win == win
    | _ => false))
  .next (s1.modCtx ctx (fun c => { c with windows := c.windows.filter (fun w => w.id != win) }))

/-- The devices that an operation exchanges data with: of a ring operation the successor and the predecessor (R374). -/
def AsyncOp.peers (o : AsyncOp) : List Nat :=
  match o.work with
  | .remote _ a => [a.dev]
  | .ring a _ _ _ => [a.succ, a.pred]
  | _ => []

/-- LINK_FAILURE: a port that fails retraining leaves the route table, and the operations on it end with cause 0x25 (R281,
R370). -/
def execLinkFailure (port : Nat) (s : State) : Out :=
  let s1 := s.failOps (fun o => o.peers.any (fun d => d != s.dev.devid.toNat && s.dev.portTo d == some port))
  .next { s1 with dev := { s1.dev with routes := s1.dev.routes.filter (fun r => r.2.1 != port) } }

/-! ## RING.WAIT -/

/-- RING.WAIT (R347): the team goes on once the semaphore has passed the target, and parks until then.  DESIGN CHOICE: the address that
cause 0x05 reports for a semaphore outside the grant is open (log entry 34). -/
def execRingWait (b : Bool) (a c : BitVec 6) (s : State) : Out :=
  let s := (s.withTeam (s.team.belay b)).settleSc
  let v := (s.team.srd a.toNat).toNat
  let idx := v % 4096
  let die := v / 4096 % 2
  let grant := s.ctx.grants.getD die (0, 0)
  if 8192 ≤ v then .next (s.illegal (.ringWait b a c))
  else if idx < grant.1 ∨ grant.1 + grant.2 ≤ idx then .next (s.vaTrap 0x05 0 (s.freeNumber 1))
  else if s.ringPassed die idx (s.team.srd c.toNat) then .next (s.orderAfter.withTeam (s.orderAfter.team.advance 1))
  else
    let poll := decide (64 ≤ s.waitEntries s.team.key (s.crew.coreOf s.team 0))
    .next (s.withTeam { s.team with state := .parked, park := .ringWait die idx (s.team.srd c.toNat) poll })

end Sys2Proof.Machine
end

