-- ==== Sys2Proof/Machine/Contexts.lean ====
section
/-! DEFINITION. Contexts: their creation and destruction (27, R397), loading a rig image (26, R392, R393), host writes to the weight
store (13, R218), and pre-emption, save and restore (21, R332 to R336). -/

namespace Sys2Proof.Machine

/-! ## Creation and destruction -/

/-- The semaphore ranges of a die that contexts hold; termination withdraws them (R375). -/
def State.granted (s : State) (die : Nat) : List (Nat × Nat) :=
  (s.allCtxs.filter (fun c => c.state != .terminated)).map (fun c => c.grants.getD die (0, 0))

/-- The range of semaphores that the masthead kernel grants on a die: any that meets no other, or none (R375). -/
def State.grant (s : State) (die : Nat) : Nat × Nat :=
  let base := Config.freeId (2 * s.tick + die) % 4096
  let len := Config.freeId (2 * (s.tick + 2 ^ 40) + die) % 4097
  if base + len ≤ 4096 ∧ (s.granted die).all (fun g => decide (g.1 + g.2 ≤ base) || decide (base + len ≤ g.1)) = true then (base, len)
  else (0, 0)

/-- The descriptor and its CREGS block meet R397. -/
def State.descriptorOk (s : State) (ctx : Nat) (d : List Byte) (cregs : List (BitVec 64)) (cores : List Nat) : Bool :=
  decide (d.length = 64) && decide (ctx < 65536) && fieldAt d 42 2 == ctx
    && fieldAt d 0 8 % 4096 == 0 && fieldAt d 8 8 % 65536 == 0 && fieldAt d 24 8 % 64 == 0
    && decide (fieldAt d 40 1 % 4 ≤ fieldAt d 40 1 / 4) && decide (fieldAt d 40 1 < 16)
    && decide (fieldAt d 41 1 < 4) && fieldAt d 44 4 == 0 && fieldAt d 56 8 == 0
    && (if fieldAt d 48 8 = 0 then cregs.isEmpty
        else decide (cregs.length = 9) && (List.range 9).all (fun i => i == 7 || cregOk i (cregs.getD i 0)))
    && (fieldAt d 41 1 / 2 == 0 || !s.allCtxs.any (fun c => c.ownsFsync))
    && !cores.isEmpty && cores.all (fun k => s.dev.coresPresent.contains k)

/-- The context that a descriptor makes (R61, R301, R397). -/
def newContext (ctx : Nat) (d : List Byte) (cregs : List (BitVec 64)) (cores : List Nat) (grants : List (Nat × Nat)) : Context :=
  { Context.vacant with
    key := ctx, state := .running, privileged := fieldAt d 41 1 % 2 == 1, ownsFsync := fieldAt d 41 1 / 2 == 1,
    root := fieldAt d 0 8, saveArea := fieldAt d 8 8, spill := fieldAt d 16 8, qbase := fieldAt d 24 8, csets := fieldAt d 32 8,
    reefFloor := fieldAt d 40 1 % 4, reefCap := fieldAt d 40 1 / 4, reef := fieldAt d 40 1 % 4,
    regs := (List.range 9).foldl (fun m i => if i = 7 then m else FMap.set m i (cregs.getD i 0)) []
    cores := cores, grants := grants }

/-- CONTEXT_CREATE: a descriptor that breaks R397 makes the creation fail; in the safe state, and before the package runs, no
context can be created (R394, R395). -/
def execContextCreate (ctx : Nat) (desc : List (BitVec 8)) (cregs : List (BitVec 64)) (cores : List Nat) (s : State) : Out :=
  if s.dev.stage = 7 ∧ (s.ctx? ctx).isNone = true ∧ s.descriptorOk ctx desc cregs cores = true then
    let grants := [s.grant 0, s.grant 1]
    let clear := fun (m : FMap 32) (die : Nat) =>
      m.clear (die * 4096 + (grants.getD die (0, 0)).1) (die * 4096 + (grants.getD die (0, 0)).1 + (grants.getD die (0, 0)).2)
    .next { s with ctxs := s.ctxs ++ [newContext ctx desc cregs cores grants], semaphores := clear (clear s.semaphores 0) 1 }
  else .next s

/-- The context with a CTXID is no more, and a ring operation that goes on belongs to none (R346); with its owner the FSYNC output is low
(R397). -/
def State.removeCtx (s : State) (c : Context) : State :=
  { s with
    ctx := if s.ctx.key = c.key then Context.vacant else s.ctx
    ctxs := s.ctxs.filter (fun x => x.key != c.key)
    ops := s.ops.map (fun o => if o.ctx = c.key then { o with ctx := 65536 } else o)
    dev := if c.ownsFsync then { s.dev with time := { s.dev.time with fsyncOut := false } } else s.dev }

/-- CONTEXT_DESTROY: a context that has not been terminated is terminated first, with cause 0x27, and the request stays until its
record has been delivered; then the context is no more (R325, R397). -/
def execContextDestroy (ctx : Nat) (s : State) : Out :=
  match s.ctx? ctx with
  | none => .next s
  | some c =>
    if c.state = .terminated ∧ c.termRecord = none then .next (s.removeCtx c)
    else
      let s1 := s.terminate ctx 0x27 (recordHeader 0x27 1 ctx 0 0 0 s.dev.dtime 0 0 0)
      .next (s1.modCtx ctx (fun c => { c with request := some .destroy }))

/-! ## The rig image -/

/-- Bytes within a list with new ones from an offset. -/
def patch (blob : List Byte) (off : Nat) (new : List Byte) : List Byte :=
  (List.range blob.length).map (fun i => if off ≤ i ∧ i < off + new.length then new.getD (i - off) 0 else blob.getD i 0)

/-- The section of an image: its bytes (R392). -/
def imageSection (im : List Byte) (k : Nat) : List Byte := (im.drop (fieldAt im (16 + 16 * k) 4)).take (fieldAt im (20 + 16 * k) 4)

/-- A relocation entry, applied to the sections (R392, R393). -/
def relocate (bases : List Nat) (secs : List (List Byte)) (e : List Byte) : List (List Byte) :=
  let v := (bases.getD (fieldAt e 6 1) 0 + fieldAt e 8 8) % 2 ^ 64
  let w := leBytes 4 (if fieldAt e 5 1 = 0 then v % 2 ^ 32 else v / 2 ^ 32)
  (List.range secs.length).map (fun k => if k = fieldAt e 4 1 then patch (secs.getD k []) (fieldAt e 0 4) w else secs.getD k [])

/-- A region entry of an image: offset, rows, width, tag (R392). -/
def imageRegion (im : List Byte) (i : Nat) : Nat × Nat × Nat × Nat :=
  let b := im.drop (fieldAt im 72 4 + 16 * i)
  (fieldAt b 0 4, fieldAt b 4 4, fieldAt b 8 4, fieldAt b 12 2)

/-- A node entry of an image, with its routine's address (R302, R392). -/
def imageNode (im : List Byte) (text i : Nat) : Node :=
  let b := (im.drop (fieldAt im 64 4 + 64 * i)).take 64
  { entry := text + fieldAt b 0 4, op := fieldAt b 4 2, opnd := fieldAt b 6 1, recWords := fieldAt b 8 2, count := fieldAt b 10 2,
    timer := fieldAt b 12 4, prio := fieldAt b 16 1, cap := fieldAt b 20 4, lo := fieldAt b 24 4, hi := fieldAt b 28 4,
    cost := fieldAt b 32 4, fullTrap := bitOf (fieldAt b 7 1), cancelTrap := bitOf (fieldAt b 7 1 / 2), teams := fieldAt b 17 1,
    strands := fieldAt b 18 1, regs := 32 * fieldAt b 19 1, spad := fieldAt b 36 4, land := 128 * fieldAt b 40 2,
    wdPeriod := 2 ^ fieldAt b 43 1, canvas := bitOf (fieldAt b 7 1 / 4), acc := fieldAt b 42 1,
    tiles := (List.range (fieldAt b 46 1)).map (fun k => imageRegion im (fieldAt b 44 2 + k)) }

/-- A node keeps the limits of R27, R34, R55, R66, R67, R194, R199 and R302. -/
def Node.ok (e : Node) : Bool :=
  [1, 2, 4, 8, 16, 32].contains e.strands && decide (1 ≤ e.teams) && decide (e.teams ≤ 16) && decide (e.teams * e.strands ≤ 256)
    && decide (32 ≤ e.regs) && decide (e.regs ≤ 256)
    && decide (1 ≤ e.recWords) && decide (e.recWords ≤ 128) && decide (e.recWords ≤ e.regs)
    && (e.op == 0 || (decide (1 ≤ e.opnd) && decide (e.opnd ≤ 3) && decide (4 * e.opnd ≤ e.recWords)))
    && decide (1 ≤ e.count) && decide (e.count ≤ 1024) && decide (e.count ≤ 32 * e.strands * e.teams)
    && decide (e.timer ≤ 2 ^ 24) && decide (e.prio ≤ 15) && decide (e.count ≤ e.cap) && decide (e.cap ≤ 1048576)
    && decide (e.lo < e.hi) && decide (e.hi ≤ e.cap) && decide (e.cost ≤ 1048575)
    && e.spad % 1024 == 0 && decide (e.spad ≤ 1048576) && decide (e.land ≤ 65536) && decide (e.acc ≤ 16)
    && decide (e.tiles.length ≤ 16) && decide (2 ^ 10 ≤ e.wdPeriod) && decide (e.wdPeriod ≤ 2 ^ 24)

/-- A part of an image lies within the file, aligned to 16 bytes (R392). -/
def partOk (im : List Byte) (off size : Nat) : Bool := size == 0 || (off % 16 == 0 && decide (off + size ≤ im.length))

/-- Bytes padded with zeros: after the first zero there is nothing else. -/
def padded (bs : List Byte) : Bool := (bs.dropWhile (fun x => x != 0)).all (fun x => x == 0)

/-- A section entry of the header meets R392. -/
def sectionOk (im : List Byte) (k : Nat) : Bool :=
  partOk im (fieldAt im (16 + 16 * k) 4) (fieldAt im (20 + 16 * k) 4) && decide (2 ≤ fieldAt im (24 + 16 * k) 4)
    && fieldAt im (28 + 16 * k) 4 == 0

/-- A node entry meets R392: its regions are entries of the table, and its unused bits are zero. -/
def nodeEntryOk (im : List Byte) (i : Nat) : Bool :=
  let b := (im.drop (fieldAt im 64 4 + 64 * i)).take 64
  decide (fieldAt b 7 1 < 8) && (b.drop 47).all (fun x => x == 0) && decide (fieldAt b 44 2 + fieldAt b 46 1 ≤ fieldAt im 68 2)

/-- A relocation entry meets R392. -/
def relocOk (im : List Byte) (i : Nat) : Bool :=
  let e := (im.drop (fieldAt im 80 4 + 16 * i)).take 16
  decide (fieldAt e 4 1 ≤ 2) && decide (fieldAt e 5 1 ≤ 1) && decide (fieldAt e 6 1 ≤ 2) && fieldAt e 7 1 == 0
    && decide (fieldAt e 0 4 + 4 ≤ fieldAt im (20 + 16 * fieldAt e 4 1) 4)

/-- A node number of the header, or 0xFFFF. -/
def nodeFieldOk (im : List Byte) (off : Nat) : Bool := fieldAt im off 2 == 0xFFFF || decide (fieldAt im off 2 < fieldAt im 6 2)

/-- An image meets R392. -/
def imageOk (im : List Byte) : Bool :=
  decide (128 ≤ im.length) && fieldAt im 0 4 == 0x26040D1A && fieldAt im 4 2 == 1
    && decide (1 ≤ fieldAt im 6 2) && decide (fieldAt im 6 2 ≤ 1024) && fieldAt im 8 8 == 0 && decide (fieldAt im 70 2 ≤ 16384)
    && (List.range 3).all (sectionOk im)
    && partOk im (fieldAt im 64 4) (64 * fieldAt im 6 2) && partOk im (fieldAt im 72 4) (16 * fieldAt im 68 2)
    && partOk im (fieldAt im 76 4) (32 * fieldAt im 70 2) && partOk im (fieldAt im 80 4) (16 * fieldAt im 84 4)
    && (List.range (fieldAt im 6 2)).all (nodeEntryOk im) && (List.range (fieldAt im 84 4)).all (relocOk im)
    && (List.range (fieldAt im 68 2)).all (fun i => fieldAt im (fieldAt im 72 4 + 16 * i + 14) 2 == 0)
    && nodeFieldOk im 88 && nodeFieldOk im 90 && padded ((im.drop 96).take 32)

/-- The bases meet step 1 of R393, RIGTAB is 4 KiB aligned (R61) and the dead-record list 64 bytes (R210). -/
def basesOk (im : List Byte) (bases : List Nat) : Bool :=
  (List.range 3).all (fun k => bases.getD k 0 % 65536 == 0 && bases.getD k 0 % 2 ^ fieldAt im (24 + 16 * k) 4 == 0)
    && bases.getD 3 0 % 4096 == 0 && decide (bases.getD 3 0 < 2 ^ 57) && bases.getD 4 0 % 64 == 0

/-- Where a virtual address of a context lies for the host and for Renano, whatever the page permits: in the heap window, or by the page
table; `none` where it maps nothing on the device (R248, R249). -/
def State.hostLoc (s : State) (c : Context) (va : Nat) : Option Loc :=
  if 2 ^ 57 ≤ va then none
  else if inWindow (c.regs.get 0).toNat (c.regs.get 1).toNat va then
    let p := (va + (c.regs.get 2).toNat) % 2 ^ 64
    if s.dev.inMemory p then some ⟨p, false, false⟩ else none
  else
    match s.walk c 0 va with
    | .error _ => none
    | .ok (e, size) => if pteRh e then none else some ⟨ptePa e + va % size, pteRepl e, pteWs e⟩

/-- A byte from outside the package is written: in the weight store, to both dies (R169, R218).  DESIGN CHOICE: a sampler line of the weight
store that was filled before stays as it is (R238, log entry 95). -/
def State.hostByte (s : State) (l : Loc) (v : Byte) : State :=
  if l.ws then { s with weights := (s.weights.set l.pa v).set (2 ^ 29 + l.pa) v } else s.writeThrough l 1 v.toNat

/-- Renano writes bytes at virtual addresses of a context (R169, R393). -/
def State.loadBytes (s : State) (c : Context) (va : Nat) (bytes : List Byte) : State :=
  bytes.zipIdx.foldl (fun s x =>
    match s.hostLoc c (va + x.2) with
    | some l => s.hostByte l x.1
    | none => s) s

/-- The core sets of an image's nodes: those that the host gives, else the context's cores (R301, R313). -/
def nodeCores (c : Context) (csets : List (List Nat)) (n : Nat) : List Nat :=
  match csets[n]? with
  | some ks => c.cores.filter (fun k => ks.contains k)
  | none => c.cores

/-- The rig table that Renano builds: the header, and the image's entries with their routines' addresses, or one empty entry
(R210, R211, R393). -/
def imageRig (im : List Byte) (text dead : Nat) : List Byte :=
  let n := fieldAt im 70 2
  leBytes 4 (Nat.max n 1) ++ leBytes 2 (fieldAt im 90 2) ++ leBytes 2 0 ++ leBytes 8 dead ++ leBytes 4 (fieldAt im 92 4)
    ++ leBytes 44 0 ++ (if n = 0 then leBytes 32 0 else (List.range n).flatMap (fun i =>
      let e := (im.drop (fieldAt im 76 4 + 32 * i)).take 32
      if fieldAt e 2 1 % 4 = 1 then patch e 16 (leBytes 8 ((fieldAt e 16 8 + text) % 2 ^ 64)) else e))

/-- RIG_IMAGE_LOAD: the sections with their relocated words, the rig table, the nodes; `bases` has the virtual bases of text, data,
wstore, the rig table and the dead-record list (R313, R392, R393).  It comes before the context's first launch, and no L1 keeps a sector
from before it (R300). -/
def execRigImageLoad (ctx : Nat) (image : List (BitVec 8)) (bases : List Nat) (csets : List (List Nat)) (s : State) : Out :=
  match s.ctx? ctx with
  | none => .next s
  | some c =>
    let nodes := (List.range (fieldAt image 6 2)).map (imageNode image (bases.getD 0 0))
    let sets := (List.range nodes.length).map (nodeCores c csets)
    if c.loaded = true ∨ c.state ≠ .running ∨ imageOk image = false ∨ basesOk image bases = false ∨ nodes.all Node.ok = false
        ∨ sets.any (fun ks => ks.isEmpty) = true then .next s
    else
      let secs := (List.range (fieldAt image 84 4)).foldl
        (fun secs i => relocate bases secs ((image.drop (fieldAt image 80 4 + 16 * i)).take 16)) ((List.range 3).map (imageSection image))
      let s1 := (List.range 3).foldl (fun s k => s.loadBytes c (bases.getD k 0) (secs.getD k [])) s
      let s2 := s1.loadBytes c (bases.getD 3 0) (imageRig image (bases.getD 0 0) (bases.getD 4 0))
      let c1 := { c with
        loaded := true, nodes := nodes, regs := c.regs.set 7 (BitVec.ofNat 64 (bases.getD 3 0)), quietNode := fieldAt image 88 2,
        bins := nodes.map (fun _ => []), coreSets := sets, served := sets, timers := nodes.map (fun _ => 0) }
      let s3 := s2.modCtx ctx (fun _ => { c1 with rigTodo := some (bases.getD 3 0) })
      let s4 : State := { s3 with cores := s3.cores.map (fun e => (e.1, { e.2 with l1 := [] })) }
      .next (s4.takeRig ctx)

/-- A job of a context is busy: the termination detector does not report it quiescent (R218, R312). -/
def State.anyBusy (s : State) (c : Context) : Bool := (s.jobsOf c).any (fun j => s.jobBusy c j)

/-- A host write to the weight store has been discarded, and the masthead kernel reports it (R218). -/
def State.refuseWeights (s : State) : State := { s with dev := s.dev.report (fun q => { q with weightRefused := q.weightRefused + 1 }) }

/-- WEIGHT_STORE_WRITE: a host write to a context's weight-store area, at an offset of the weight store, is applied to both dies while
the context is quiescent, and discarded whole, with a report, while any job of it is busy (R218). -/
def execWeightStoreWrite (ctx off : Nat) (bytes : List (BitVec 8)) (s : State) : Out :=
  match s.ctx? ctx with
  | none => .next s
  | some c =>
    if s.anyBusy c then .next s.refuseWeights
    else if 2 ^ 29 < off + bytes.length then .next s
    else .next (bytes.zipIdx.foldl (fun s x => s.hostByte ⟨off + x.2, false, true⟩ x.1) s)

/-- HOST_MEMORY_WRITE: a posted host write to the memory of a context is performed (R308); one that reaches the weight store as R218
states. -/
def execHostMemoryWrite (ctx va : Nat) (bytes : List (BitVec 8)) (s : State) : Out :=
  match s.ctx? ctx with
  | none => .next s
  | some c =>
    match bytes.zipIdx.mapM (fun x => (s.hostLoc c (va + x.2)).map (fun l => (l, x.1))) with
    | none => .fault (.noMemory va)
    | some ws =>
      if ws.any (fun w => w.1.ws) && s.anyBusy c then .next s.refuseWeights
      else .next (ws.foldl (fun s w => s.hostByte w.1 w.2) s)

/-- WEIGHT_STORE_REFRESH_SLOT: the rotation moves on; the slot is a function of CLOCK, and a wait for it changes no value (R169,
R217). -/
def execWeightStoreRefreshSlot (s : State) : Out := .next s

/-! ## The pre-emption halt -/

/-- The clocks of the cores of a context's crews run (R257). -/
def State.ungateCtx (s : State) (ctx : Nat) : State :=
  (((s.allCrews.filter (fun w => w.ctx == ctx)).flatMap Crew.cores).eraseDups).foldl (fun s k => s.modCore k (fun q => { q with gated := false })) s

/-- PREEMPTION_REQUEST: accepted for a running context without an accepted request, else refused and reported (R332). -/
def execPreemptionRequest (ctx : Nat) (s : State) : Out :=
  match s.ctx? ctx with
  | some c =>
    if c.state = .running ∧ c.preemptAsked = false then
      .next ((s.modCtx ctx (fun c => { c with preemptAsked := true, haltClock := s.dev.clock })).ungateCtx ctx)
    else .next { s with dev := s.dev.report (fun q => { q with preemptRefused := q.preemptRefused + 1 }) }
  | none => .next { s with dev := s.dev.report (fun q => { q with preemptRefused := q.preemptRefused + 1 }) }

/-- PREEMPTION_HALT: every team of the context halts at an instruction boundary; the canvases complete their instructions, and the
MMAs stop at a group boundary and fold (R145, R192, R333). -/
def execPreemptionHalt (ctx : Nat) (s : State) : Out :=
  match s.ctx? ctx with
  | none => .next s
  | some c =>
    if c.state ≠ .running ∨ c.preemptAsked = false then .next s
    else
      let crews := (s.allCrews.filter (fun w => w.ctx == ctx)).map (fun w => w.key)
      let s1 := crews.foldl (fun s k => (s.canvasStep k).canvasStep k) s
      let s2 := (s1.ops.filter (fun o => o.ctx == ctx && !o.done)).foldl State.haltMma s1
      let s3 := (s2.allTeams.filter (fun t => t.ctx == ctx)).foldl State.stopDrop s2
      .next (s3.modCtx ctx (fun c => { c with state := .halted, preemptAsked := false }))

/-- CONTEXT_RESUME: a halted context goes on in place (R336). -/
def execContextResume (ctx : Nat) (s : State) : Out :=
  .next (s.modCtx ctx (fun c => if c.state = .halted then { c with state := .running } else c))

/-! ## Save -/

/-- A team is between the lines of a sampler instruction (R239). -/
def Team.sampling (t : Team) : Bool := !t.gathered.isEmpty

/-- What the save waits for: copies that move something, remote operations, LDA lanes, ACC forms that have started, atomics, and sampler
instructions under way (R226, R230, R239, R335).  Ring operations go on (R346). -/
def State.unsettled (s : State) (ctx : Nat) : Bool :=
  s.ops.any (fun o => o.ctx == ctx && !o.done &&
    (match o.work with
     | .lda todo _ => !todo.isEmpty
     | .copy _ units _ _ _ _ => !units.isEmpty
     | .remote _ _ => true
     | w => w.accStarted))
  || s.atomics.any (fun a => ((s.team? a.team).map (fun t => t.ctx == ctx)).getD false)
  || s.allTeams.any (fun t => t.ctx == ctx && t.sampling)

/-- The copies of a context that move nothing end before its save, which records their batches as complete (R222, R226). -/
def State.endEmptyCopies (s : State) (ctx : Nat) : State :=
  s.ops.foldl (fun s o =>
    match o.work, s.crew? o.crew with
    | .copy _ [] _ _ tag follow, some w => if o.ctx = ctx ∧ o.done = false then s.endCopy o w tag follow else s
    | _, _ => s) s

/-- A team whose registers are saved: every unchecked result is written, and with a count of 0 it passes a quiescent point (R51,
R295, R335). -/
def Team.saved (t : Team) (gen : Nat) : Team :=
  let t := t.flush
  if t.nest = 0 ∧ t.state ≠ .exited then { t with qgen := BitVec.ofNat 32 gen, qpend := [] } else t

/-- Change every team of a context. -/
def State.mapTeams (s : State) (ctx : Nat) (f : Team → Team) : State :=
  { s with
    team := if s.team.state ≠ .free ∧ s.team.ctx = ctx then f s.team else s.team
    teams := s.teams.map (fun t => if t.ctx = ctx then f t else t) }

/-- A network operation when its context is saved: the tile that has not finished is to run again, from its inputs of issue (R176). -/
def AsyncOp.restartTile (o : AsyncOp) : AsyncOp :=
  match o.work with
  | .net todo nets regs (some x) => { o with work := .net (x.start ++ todo) nets regs none }
  | _ => o

/-- CONTEXT_SAVE: once a halted context has settled, its buffers drain, its state is saved, into its save area in a form that no rule
gives (log entry 40), and what it held on cores is free; until then the request stays (R335). -/
def execContextSave (ctx : Nat) (s : State) : Out :=
  match s.ctx? ctx with
  | none => .next s
  | some c =>
    if c.state ≠ .halted then .next s
    else if s.unsettled ctx then .next (s.modCtx ctx (fun c => { c with request := some .save }))
    else
      let cores := ((s.allCrews.filter (fun w => w.ctx == ctx)).flatMap Crew.cores).eraseDups
      let s1 := (cores.foldl State.drainAll (s.endEmptyCopies ctx)).performSc
      let s2 := (s1.mapTeams ctx (fun t => t.saved c.genClosed)).openRange c.saveArea (Config.freeId s.tick)
      let s3 : State := { s2 with ops := s2.ops.map (fun (o : AsyncOp) => if o.ctx = ctx then o.restartTile else o) }
      .next (s3.modCtx ctx (fun c => { c with state := .saved, request := none }))

/-! ## Restore -/

/-- A crew of a context that is being restored is placed: on its home core from before the save, or its pair, when that qualifies,
else on the lowest-numbered core or pair that does (R336).  Its teams access nothing as of before, and none is in an active set yet. -/
def State.placeCrew (s : State) (c : Context) (w : Crew) (ts : List Team) : Option State :=
  let sh : Shape :=
    { ctx := c.key, node := w.node, pair := w.pair, teams := ts.length, strands := w.strands, alloc := (ts.head?.map (fun t => t.alloc)).getD 32,
      spad := w.spadSize, land := (ts.head?.map (fun t => t.landQuota)).getD 0, acc := w.accSlots, canvas := w.hasCanvas }
  let cores := c.launchCores w.node w.pair
  let old := if w.pair then w.core / 2 * 2 else w.core
  let order := (if cores.contains old then [old] else []) ++ cores.filter (fun k => k != old)
  (order.findSome? (s.fits sh [])).map (fun p =>
    let slots := pickSlots ts.length (s.tick + w.key) (s.slotsOn p.home)
    let w' := { w with core := p.home, crewid := BitVec.ofNat 16 s.newCrewid }
    let ts' := (List.range ts.length).filterMap (fun i =>
      (ts[i]?).map (fun t => { (t.raiseFloor s.tick) with
        state := if t.state = .running then .ready else t.state, part := p.bases.getD i 0, slot := BitVec.ofNat 6 (slots.getD i 0), gathered := [] }))
    let s1 := w'.cores.foldl (fun (s : State) k => s.modCore k (fun q => { q with l1 := [], samp := [], miss := [], gated := false })) s
    { s1 with crews := s1.crews ++ [w'], teams := s1.teams ++ ts'
              ops := s1.ops.map (fun o => if o.crew = w.key then { o with core := p.home } else o) })

/-- The crews of a context are placed one after the other; `none` where one of them does not fit. -/
def State.placeCrews (s : State) (c : Context) (teamsOf : Nat → List Team) : List Crew → Option State
  | [] => some s
  | w :: rest =>
    match s.placeCrew c w (teamsOf w.key) with
    | none => none
    | some s' => s'.placeCrews c teamsOf rest

/-- A team that was in its core's active set before the save enters that of its core again (R41, R336). -/
def State.enterAgain (s : State) (k : Nat) : State := (s.makeRoom k).modTeam k (fun t => { t with state := .running })

/-- A team that is parked is examined again at restore, and takes its wait-table entry again; one in poll mode stays there until it wakes
(R255, R256). A parked REC.PUSH decides again (R43, R309, R336, R340).  DESIGN CHOICE: an entry for which the core has no room any more
becomes poll mode (log entry 11). -/
def State.reexamine (s : State) (k : Nat) : State :=
  match s.team? k with
  | none => s
  | some t =>
    if t.state ≠ .parked then s
    else
      let core := s.waitCore t
      let full := decide (64 ≤ s.waitEntries k core)
      match t.park with
      | .waitv l waited poll _ =>
        if s.watchedWord core k l ≠ waited then s.wakeOn k core l
        else (s.modTeam k (fun t => { t with park := .waitv l waited (poll || full) false })).reported (l.readAddr core 0) 4
      | .ringWait die idx target poll =>
        if s.ringPassed die idx target then s.modTeam k Team.again
        else s.modTeam k (fun t => { t with park := .ringWait die idx target (poll || full) })
      | .bankWait => s.bankWake k
      | .fullBin _ => s.decideAgain k
      | _ => s.afterOps k

/-- A pending release whose time passed while the context was saved is late and gives no edge (R344). -/
def Context.restoreReleases (c : Context) (now : Nat) : Context :=
  { c with releases := c.releases.map (fun r => if r.time ≤ now then { r with late := true, edge := false } else r) }

/-- CONTEXT_RESTORE: a saved context runs again on cores where its crews fit, with its recorded engine operations issued before its teams
issue; while they fit nowhere the request stays (R43, R335, R336, R353). -/
def execContextRestore (ctx : Nat) (s : State) : Out :=
  match s.ctx? ctx with
  | none => .next s
  | some c =>
    if c.state ≠ .saved then .next s
    else
      let s0 := s.stash
      let crews := s0.crews.filter (fun w => w.ctx == ctx)
      let teamsOf := fun k => s0.teams.filter (fun t => t.crew == k)
      let mine := s0.teams.filter (fun t => t.ctx == ctx)
      let running := (mine.filter (fun t => t.state == .running)).map (fun t => t.key)
      let s1 : State := { s0 with crews := s0.crews.filter (fun w => w.ctx != ctx), teams := s0.teams.filter (fun t => t.ctx != ctx) }
      let s2 := s1.modCtx ctx (fun c => { c.restoreReleases s.dev.dtime with state := .running, oldRegs := [], preemptAsked := false, request := none })
      match s2.placeCrews c teamsOf crews with
      | none => .next (s.modCtx ctx (fun c => { c with request := some .restore }))
      | some s3 =>
        .next (((mine.map (fun t => t.key)).foldl State.reexamine ((running.foldl State.enterAgain s3).issueFollows ctx)).retryPushes ctx)

end Sys2Proof.Machine
end

