-- ==== Sys2Proof/Machine/Control.lean ====
section
/-! DEFINITION. Control transfer, majors 0x16 to 0x18, and structured divergence, major 0x19 (01, R12; 04, R44 to R48; 06, R71;
07, R119 to R121). -/

namespace Sys2Proof.Machine

/-- The target of a J-format word: its own address plus four times the signed displacement (R12). -/
def Team.branchTarget (t : Team) (disp : BitVec 21) : Int := (t.pc.toNat : Int) + 4 * disp.toInt

/-- A taken transfer to a target outside the address space is cause 0x05 at the branch (R71). -/
def targetOutside (target : Int) : Bool := decide (target < 0) || decide ((2 : Int) ^ 57 ≤ target)

/-- BRA (R120).  DEDUCED: TRAPINFO has the target modulo 2 ^ 57 (log entry 47). -/
def execBra (b : Bool) (cc : BitVec 4) (disp : BitVec 21) (s : State) : Out :=
  let t := s.team.belay b
  if t.flags.holds cc then
    if targetOutside (t.branchTarget disp) then .next (s.vaTrap 0x05 0 (t.branchTarget disp |>.emod (2 ^ 57) |>.toNat))
    else .next (s.withTeam (t.jump (t.branchTarget disp).toNat))
  else .next (s.withTeam (t.advance 1))

/-- CALL: pushes a frame whose base is the mask-stack depth, then transfers (R119, R120).  DEDUCED: cause 0x05 before 0x21 (log entry
59); TRAPINFO has the target modulo 2 ^ 57 (log entry 47). -/
def execCall (b : Bool) (cc : BitVec 4) (disp : BitVec 21) (s : State) : Out :=
  let t := s.team.belay b
  if t.flags.holds cc then
    if targetOutside (t.branchTarget disp) then .next (s.vaTrap 0x05 0 (t.branchTarget disp |>.emod (2 ^ 57) |>.toNat))
    else if 32 ≤ t.cstack.length then .next (s.trapHere 0x21 0)
    else
      .next (s.withTeam
        ({ t with cstack := ⟨t.pc.toNat + 4, t.mstack.length, false⟩ :: t.cstack }.jump (t.branchTarget disp).toNat))
  else .next (s.withTeam (t.advance 1))

/-- The check of a target that registers or the call stack hold (R71).  DEDUCED: its alignment first, then its reserved bits, for JMPI as
for CALLX and RET (log entry 59). -/
def transferCause (target : Nat) : Option Nat :=
  if target % 4 ≠ 0 then some 0x03 else if 2 ^ 57 ≤ target then some 0x05 else none

/-- JMPI (R121). -/
def execJmpi (b : Bool) (a : BitVec 6) (s : State) : Out :=
  let t := s.team.belay b
  let target := (t.srd64 a.toNat).toNat
  match transferCause target with
  | some c => .next (s.vaTrap c 0 target)
  | none => .next (s.withTeam (t.jump target))

/-- The target that a lane's register pair at physical register `reg` holds (R48). -/
def Team.laneTarget (t : Team) (reg lane : Nat) : Nat :=
  (t.lanes.get (reg * 1024 + lane)).toNat + 2 ^ 32 * (t.lanes.get ((reg + 1) * 1024 + lane)).toNat

/-- The lowest of the targets of some lanes; 0 for no lane. -/
def lowestTarget (f : Nat → Nat) : List Nat → Nat
  | [] => 0
  | [l] => f l
  | l :: rest => Nat.min (f l) (lowestTarget f rest)

/-- What a DISPATCH of CALLX picks: the lowest target of the pending lanes and the lanes that have it (R48). -/
structure Dispatched where
  target : Nat
  group : Mask
  lane : Nat
  deriving DecidableEq, Repr

/-- DISPATCH's choice among the pending lanes (R48). -/
def Team.pick (t : Team) (pending : Mask) (reg : Nat) : Dispatched :=
  let ls := pending.lanesOf t.width
  let target := lowestTarget (t.laneTarget reg) ls
  let grp := ls.filter (fun l => t.laneTarget reg l == target)
  { target := target, group := Mask.ofFn t.width (fun l => grp.contains l), lane := grp.headD 0 }

/-- CALLX: a call per distinct target of the active lanes (R48, R119, R121).  With an empty mask it only takes its clock (R39). -/
def execCallx (b : Bool) (a : BitVec 7) (s : State) : Out :=
  let t := s.team.belay b
  if !t.namesOk [a.toNat, a.toNat + 1] then .next (s.illegal (.callx b a))
  else if t.active = [] then .next (s.withTeam (t.advance 1))
  else
    let reg := t.phys a.toNat
    match t.active.find? (fun l => t.laneTarget reg l % 4 != 0) with
    | some l => .next (s.vaTrap 0x03 l (t.laneTarget reg l))
    | none =>
      if 64 ≤ t.mstack.length then .next (s.trapHere 0x12 0)
      else if 32 ≤ t.cstack.length then .next (s.trapHere 0x21 0)
      else
        let p := t.pick t.mask reg
        match transferCause p.target with
        | some c => .next (s.vaTrap c p.lane p.target)
        | none =>
          .next (s.withTeam
            ({ t with
               mstack := .callxE t.mask (t.mask &&& ~~~p.group) reg :: t.mstack
               cstack := ⟨t.pc.toNat + 4, t.mstack.length + 1, true⟩ :: t.cstack
               mask := p.group }.jump p.target))

/-- RET (R48, R121): on a CALLX frame the next DISPATCH, or the end of the CALLX. -/
def execRet (b : Bool) (s : State) : Out :=
  let t := s.team.belay b
  match t.cstack with
  | [] => .next (s.illegal (.ret b))
  | f :: rest =>
    if t.mstack.length ≠ f.base then .next (s.illegal (.ret b))
    else if f.callx then
      match t.mstack with
      | .callxE saved pending reg :: below =>
        if pending.lanesOf t.width = [] then
          .next (s.withTeam ({ t with mask := saved, mstack := below, cstack := rest }.jump f.ret))
        else
          let p := t.pick pending reg
          match transferCause p.target with
          | some c => .next (s.vaTrap c p.lane p.target)
          | none =>
            .next (s.withTeam
              ({ t with mstack := .callxE saved (pending &&& ~~~p.group) reg :: below, mask := p.group }.jump p.target))
      | _ => .next (s.illegal (.ret b))
    else
      match transferCause f.ret with
      | some c => .next (s.vaTrap c 0 f.ret)
      | none => .next (s.withTeam ({ t with cstack := rest }.jump f.ret))

/-- NOP (R121). -/
def execNop (b : Bool) (s : State) : Out := teamInstr b 1 s (fun t => t)

/-! ## Structured divergence (R46) -/

/-- IF. -/
def execIfMask (b : Bool) (p : BitVec 3) (s : State) : Out :=
  let t := s.team.belay b
  if 64 ≤ t.mstack.length then .next (s.trapHere 0x12 0)
  else
    let m := t.mask &&& t.prd p.toNat
    .next (s.withTeam ({ t with mstack := .ifE t.mask m false :: t.mstack, mask := m }.advance 1))

/-- ELSE. -/
def execElseMask (b : Bool) (s : State) : Out :=
  let t := s.team.belay b
  match t.mstack with
  | .ifE saved thenM false :: below =>
    if t.mstack.length = t.depthBase then .next (s.illegal (.elseMask b))
    else .next (s.withTeam ({ t with mstack := .ifE saved thenM true :: below, mask := saved &&& ~~~thenM }.advance 1))
  | _ => .next (s.illegal (.elseMask b))

/-- ENDIF. -/
def execEndIf (b : Bool) (s : State) : Out :=
  let t := s.team.belay b
  match t.mstack with
  | .ifE saved _ _ :: below =>
    if t.mstack.length = t.depthBase then .next (s.illegal (.endIf b))
    else .next (s.withTeam ({ t with mstack := below, mask := saved }.advance 1))
  | _ => .next (s.illegal (.endIf b))

/-- LOOP. -/
def execLoop (b : Bool) (s : State) : Out :=
  let t := s.team.belay b
  if 64 ≤ t.mstack.length then .next (s.trapHere 0x12 0)
  else .next (s.withTeam ({ t with mstack := .loopE t.mask 0 (t.pc.toNat + 4) :: t.mstack }.advance 1))

/-- The entries of the current function: those above its base (R46). -/
def Team.above (t : Team) : Nat := t.mstack.length - t.depthBase

/-- Lanes leave every IF entry above the innermost LOOP entry, which takes them as continuing where `cont` is given; none where
no LOOP entry stands among the first `n` entries (R46). -/
def leaveLanes (gone : Mask) (cont : Bool) : Nat → List MaskEntry → Option (List MaskEntry)
  | 0, _ => none
  | _, [] => none
  | n + 1, .ifE saved thenM e :: rest =>
    (leaveLanes gone cont n rest).map (fun r => .ifE (saved &&& ~~~gone) (thenM &&& ~~~gone) e :: r)
  | n + 1, .callxE saved pending reg :: rest => (leaveLanes gone cont n rest).map (fun r => .callxE saved pending reg :: r)
  | _ + 1, .loopE saved c start :: rest => some (.loopE saved (if cont then c ||| gone else c) start :: rest)

/-- BREAK. -/
def execBreakMask (b : Bool) (p : BitVec 3) (s : State) : Out :=
  let t := s.team.belay b
  let gone := t.mask &&& t.prd p.toNat
  match leaveLanes gone false t.above t.mstack with
  | none => .next (s.illegal (.breakMask b p))
  | some st => .next (s.withTeam ({ t with mstack := st, mask := t.mask &&& ~~~gone }.advance 1))

/-- CONT. -/
def execContMask (b : Bool) (p : BitVec 3) (s : State) : Out :=
  let t := s.team.belay b
  let gone := t.mask &&& t.prd p.toNat
  match leaveLanes gone true t.above t.mstack with
  | none => .next (s.illegal (.contMask b p))
  | some st => .next (s.withTeam ({ t with mstack := st, mask := t.mask &&& ~~~gone }.advance 1))

/-- ENDLOOP: the next pass while some lane is active or has continued; otherwise the loop ends. -/
def execEndLoop (b : Bool) (s : State) : Out :=
  let t := s.team.belay b
  match t.mstack with
  | .loopE saved cont start :: below =>
    if t.mstack.length = t.depthBase then .next (s.illegal (.endLoop b))
    else
      let m := t.mask ||| cont
      if m ≠ 0 then .next (s.withTeam ({ t with mstack := .loopE saved 0 start :: below, mask := m }.jump start))
      else .next (s.withTeam ({ t with mstack := below, mask := saved }.advance 1))
  | _ => .next (s.illegal (.endLoop b))

end Sys2Proof.Machine
end

