-- ==== Sys2Proof/Machine/Device.lean ====
section
/-! DEFINITION. Bring-up, presence, injection, attestation and power (27, R394 to R396, R398 to R401). -/

namespace Sys2Proof.Machine

/-- INJECTION_ARM: at most 16 columns of the memory present carry an injection (R398). -/
def execInjectionArm (col : Nat) (s : State) : Out :=
  if s.dev.injections.length < 16 ∧ ¬ (col ∈ s.dev.injections) ∧ s.dev.inMemory (32 * col) = true then
    .next { s with dev := { s.dev with injections := s.dev.injections ++ [col] } }
  else .next s

/-- A bit for each unit that is present, as bytes (R396). -/
def presenceBits (n : Nat) (present : List Nat) : List Byte :=
  leBytes n (((List.range (8 * n)).filter (fun i => present.contains i)).map (fun i => 2 ^ i)).sum

/-- The units that a presence list counts, below a bound. -/
def presentBelow (n : Nat) (present : List Nat) : Nat := (List.range n).countP (fun i => present.contains i)

/-- The presence report (R26, R396). -/
def Device.presence (d : Device) : List Byte :=
  presenceBits 32 d.coresPresent ++ presenceBits 32 d.channels ++ presenceBits 4 (d.linksPresent.filter (fun l => decide (l < 24)))
    ++ leBytes 4 0 ++ presenceBits 64 d.bankUnits
    ++ leBytes 8 (presentBelow 256 d.coresPresent + presentBelow 256 d.channels * 2 ^ 16 + presentBelow 24 d.linksPresent * 2 ^ 32
        + presentBelow 512 d.bankUnits * 2 ^ 48)

/-- The boot status word (R395). -/
def Device.bootWord (d : Device) : Nat := d.stage % 16 * 2 ^ 28 + d.code % 256 * 2 ^ 20

/-- The compute dies are clock-gated until the last step of the boot, and in the safe state (R394, R395). -/
def Device.diesGated (d : Device) : Bool := d.stage != 7

/-- HBM4E is held in self-refresh (R395). -/
def Device.selfRefresh (d : Device) : Bool := d.stage == 15

/-- A byte of the configuration mailbox: its first word is the boot status word, and the presence report stands from 0x100 (R395,
R396).  What other offsets hold the spec does not say. -/
def Device.mailbox (d : Device) (off : Nat) : Option Byte :=
  if off < 4 then (leBytes 4 d.bootWord)[off]? else if 0x100 ≤ off then d.presence[off - 0x100]? else none

/-- An attestation report for a nonce (R399).  The digests of the images of this boot, the fuse revision and the signature are free
values (log entry 80). -/
def State.attest (s : State) (nonce : List Byte) : Attestation :=
  let open' := fun (kind at' n : Nat) => (List.range n).map (fun k => Config.freeByte (2 ^ 202 + (kind + 4 * at') * 2 ^ 8 + k))
  { nonce := nonce, firstStage := open' 0 s.dev.booted 64, kernel := open' 1 s.dev.booted 64, fuses := Config.freeId (2 ^ 202),
    presence := s.dev.presence, signature := open' 2 s.tick (Config.freeId (2 ^ 202 + 1)) }

/-- ATTESTATION_REPORT: a report for the requester's nonce of 64 bytes (R399). -/
def execAttestationReport (nonce : List (BitVec 8)) (s : State) : Out :=
  if nonce.length = 64 then
    .next { s with dev := s.dev.report (fun q => { q with attestations := q.attestations ++ [s.attest nonce] }) }
  else .next s

/-- POWER_CAP_SET: the management port sets the cap, from 600 W to 2,400 W (R400). -/
def execPowerCapSet (watts : Nat) (s : State) : Out :=
  if 600 ≤ watts ∧ watts ≤ 2400 then .next { s with dev := { s.dev with cap := watts } } else .next s

/-- POWER_ARBITER_TICK: every microsecond the arbiter withholds issue clocks while its forecast exceeds the cap, which changes no
result (R400). -/
def execPowerArbiterTick (draw : Nat) (s : State) : Out :=
  if s.dev.dtime < s.dev.lastPower + 1000 then .next s
  else .next { s with dev := { s.dev with withheld := decide (s.dev.cap < draw), lastPower := s.dev.lastPower + 1000 } }

/-- COOLANT_LOSS: the module lowers the cap to 600 W (R401). -/
def execCoolantLoss (s : State) : Out := .next { s with dev := { s.dev with cap := 600 } }

/-- The result of a verification: none, or a code that the table gives it: signature, no image, or fuse read (R395). -/
def verifyCode (c : Nat) : Nat := if c = 0 ∨ c = 2 ∨ c = 5 then c else 1

/-- The result of training and self-test: none, or the code of HBM training or of self-test (R395). -/
def trainCode (c : Nat) : Nat := if c = 0 ∨ c = 4 then c else 3

/-- The image of a boot step is verified: from one source, then once from the other.  The source that it came from, or, where both fail,
a code of either (R394, R395). -/
def State.bootImage (s : State) (step : Nat) (source : Bool) (codes : List Nat) : Except Nat Bool :=
  let code := fun (src : Bool) => verifyCode (codes.getD (2 * step + src.toNat) 0)
  if code source = 0 then .ok source
  else if code (!source) = 0 then .ok (!source)
  else .error (if s.free 9 step then code source else code (!source))

/-- The boot status, stage and code, after a boot from a source: the first stage, the masthead kernel from the source of the first stage,
then training and self-test.  The codes are those of the first stage's image from SPI NOR and from NVMe, the kernel's from each, and of
the training and self-test, 0 for success (R394, R395). -/
def State.bootStatus (s : State) (bootsel : Bool) (codes : List Nat) : Nat × Nat :=
  match s.bootImage 0 bootsel codes with
  | .error c => (15, c)
  | .ok src =>
    match s.bootImage 1 src codes with
    | .error c => (15, c)
    | .ok _ => if trainCode (codes.getD 4 0) = 0 then (7, 0) else (15, trainCode (codes.getD 4 0))

/-- PACKAGE_RESET: the package resets and the masthead boots from the source that BOOTSEL selects; `found` has the units that it
finds absent and the kernel's choices for device time.  A package whose verification or training fails enters the safe state (R25, R376,
R394, R395). -/
def execPackageReset (bootsel : Bool) (codes : List Nat) (devid : Nat) (found : BootFinds) (s : State) : Out :=
  let have' := fun (n : Nat) (gone : List Nat) => (List.range n).filter (fun i => !gone.contains i)
  let channels := have' 256 found.noChannels
  let boot := s.bootStatus bootsel codes
  .next { State.reset with
    tick := s.tick, inbox := s.inbox, nextKey := s.nextKey
    dev := { Device.initial with
      devid := BitVec.ofNat 22 devid, stage := boot.1, code := boot.2, booted := s.tick, coresPresent := have' 256 found.noCores,
      channels := channels,
      linksPresent := have' 24 found.noLinks, bankUnits := (have' 512 found.noBanks).filter (fun u => channels.contains (u / 2)), reports := s.dev.reports,
      time := { TimeState.initial with
        domain := found.domain % 256, boundary := found.boundary, phasePps := found.phasePps, port := found.port } } }

end Sys2Proof.Machine
end

