-- ==== Sys2Proof/Machine/Integer.lean ====
section
/-! DEFINITION. Integer lane instructions: majors 0x01 to 0x0A (07, R95 to R99). -/

namespace Sys2Proof.Machine

/-- ADD (R95). -/
def execAdd (b : Bool) (d a c : BitVec 7) (s : State) : Out := laneBin (.add b d a c) b d a c (fun x y => x + y) s

/-- SUB (R95). -/
def execSub (b : Bool) (d a c : BitVec 7) (s : State) : Out := laneBin (.sub b d a c) b d a c (fun x y => x - y) s

/-- MUL (R95). -/
def execMul (b : Bool) (d a c : BitVec 7) (s : State) : Out := laneBin (.mul b d a c) b d a c (fun x y => x * y) s

/-- MULHI: the high half of the signed product (R95). -/
def execMulhi (b : Bool) (d a c : BitVec 7) (s : State) : Out := laneBin (.mulhi b d a c) b d a c (fun x y => BitVec.ofInt 32 (x.toInt * y.toInt / 2 ^ 32)) s

/-- MULHU: the high half of the unsigned product (R95). -/
def execMulhu (b : Bool) (d a c : BitVec 7) (s : State) : Out := laneBin (.mulhu b d a c) b d a c (fun x y => BitVec.ofNat 32 (x.toNat * y.toNat / 2 ^ 32)) s

/-- IMAD (R95). -/
def execImad (b : Bool) (d a c : BitVec 7) (s : State) : Out := laneAcc (.imad b d a c) b d a c (fun x y z => x * y + z) s

/-- MIN (R95). -/
def execMin (b : Bool) (d a c : BitVec 7) (s : State) : Out := laneBin (.min b d a c) b d a c (fun x y => if x.slt y then x else y) s

/-- MAX (R95). -/
def execMax (b : Bool) (d a c : BitVec 7) (s : State) : Out := laneBin (.max b d a c) b d a c (fun x y => if x.slt y then y else x) s

/-- MINU (R95). -/
def execMinu (b : Bool) (d a c : BitVec 7) (s : State) : Out := laneBin (.minu b d a c) b d a c (fun x y => if x.ult y then x else y) s

/-- MAXU (R95). -/
def execMaxu (b : Bool) (d a c : BitVec 7) (s : State) : Out := laneBin (.maxu b d a c) b d a c (fun x y => if x.ult y then y else x) s

/-- AND (R95). -/
def execAnd (b : Bool) (d a c : BitVec 7) (s : State) : Out := laneBin (.and b d a c) b d a c (fun x y => x &&& y) s

/-- OR (R95). -/
def execOr (b : Bool) (d a c : BitVec 7) (s : State) : Out := laneBin (.or b d a c) b d a c (fun x y => x ||| y) s

/-- XOR (R95). -/
def execXor (b : Bool) (d a c : BitVec 7) (s : State) : Out := laneBin (.xor b d a c) b d a c (fun x y => x ^^^ y) s

/-- ANDN (R95). -/
def execAndn (b : Bool) (d a c : BitVec 7) (s : State) : Out := laneBin (.andn b d a c) b d a c (fun x y => x &&& ~~~y) s

/-- SHL (R96). -/
def execShl (b : Bool) (d a c : BitVec 7) (s : State) : Out := laneBin (.shl b d a c) b d a c (fun x y => shiftLeft x (shiftCount y)) s

/-- SHR (R96). -/
def execShr (b : Bool) (d a c : BitVec 7) (s : State) : Out := laneBin (.shr b d a c) b d a c (fun x y => shiftRight x (shiftCount y)) s

/-- SAR (R96). -/
def execSar (b : Bool) (d a c : BitVec 7) (s : State) : Out := laneBin (.sar b d a c) b d a c (fun x y => shiftArith x (shiftCount y)) s

/-- BFX (R96). -/
def execBfx (b : Bool) (d a c : BitVec 7) (s : State) : Out := laneBin (.bfx b d a c) b d a c (fun x y => bfx x y) s

/-- BFXS (R96). -/
def execBfxs (b : Bool) (d a c : BitVec 7) (s : State) : Out := laneBin (.bfxs b d a c) b d a c (fun x y => bfxs x y) s

/-- BFI (R96). -/
def execBfi (b : Bool) (d a c : BitVec 7) (s : State) : Out := laneAcc (.bfi b d a c) b d a c (fun x y z => bfi x y z) s

/-- POPC (R95). -/
def execPopc (b : Bool) (d a : BitVec 7) (s : State) : Out := laneUn (.popc b d a) b d a popCount s

/-- CLZ (R95). -/
def execClz (b : Bool) (d a : BitVec 7) (s : State) : Out := laneUn (.clz b d a) b d a leadingZeros s

/-- ADD64: pairs modulo 2^64 (R97). -/
def execAdd64 (b : Bool) (d a c : BitVec 7) (s : State) : Out := laneBin64 (.add64 b d a c) b d a c (fun x y => x + y) s

/-- SUB64: pairs modulo 2^64 (R97). -/
def execSub64 (b : Bool) (d a c : BitVec 7) (s : State) : Out := laneBin64 (.sub64 b d a c) b d a c (fun x y => x - y) s

/-- ADDI: the immediate is sign-extended (R74, R98). -/
def execAddi (b : Bool) (d a : BitVec 7) (imm : BitVec 11) (s : State) : Out :=
  laneUn (.addi b d a imm) b d a (fun x => x + immWord imm) s

/-- ANDI: the immediate is sign-extended (R74, R98). -/
def execAndi (b : Bool) (d a : BitVec 7) (imm : BitVec 11) (s : State) : Out :=
  laneUn (.andi b d a imm) b d a (fun x => x &&& immWord imm) s

/-- ORI: the immediate is sign-extended (R74, R98). -/
def execOri (b : Bool) (d a : BitVec 7) (imm : BitVec 11) (s : State) : Out :=
  laneUn (.ori b d a imm) b d a (fun x => x ||| immWord imm) s

/-- XORI: the immediate is sign-extended (R74, R98). -/
def execXori (b : Bool) (d a : BitVec 7) (imm : BitVec 11) (s : State) : Out :=
  laneUn (.xori b d a imm) b d a (fun x => x ^^^ immWord imm) s

/-- SHLI (R98). -/
def execShli (b : Bool) (d a : BitVec 7) (n : BitVec 5) (s : State) : Out :=
  laneUn (.shli b d a n) b d a (fun x => shiftLeft x n.toNat) s

/-- SHRI (R98). -/
def execShri (b : Bool) (d a : BitVec 7) (n : BitVec 5) (s : State) : Out :=
  laneUn (.shri b d a n) b d a (fun x => shiftRight x n.toNat) s

/-- SARI (R98). -/
def execSari (b : Bool) (d a : BitVec 7) (n : BitVec 5) (s : State) : Out :=
  laneUn (.sari b d a n) b d a (fun x => shiftArith x n.toNat) s

/-- MOVI: the 18-bit immediate, sign-extended (R74, R98). -/
def execMovi (b : Bool) (d : BitVec 7) (imm : BitVec 18) (s : State) : Out :=
  laneInstr (.movi b d imm) b [d.toNat] s (fun t => t.wr d.toNat t.active (fun _ => immWord imm))

/-- CMPI (R74, R99). -/
def execCmpi (b : Bool) (cc : BitVec 4) (p : BitVec 3) (a : BitVec 7) (imm : BitVec 11) (s : State) : Out :=
  laneCmp (.cmpi b cc p a imm) b p [a.toNat] (fun t l => compareHolds cc (t.rd a.toNat l) (immWord imm)) s

/-- CMP (R99). -/
def execCmp (b : Bool) (cc : BitVec 4) (p : BitVec 3) (a c : BitVec 7) (s : State) : Out :=
  laneCmp (.cmp b cc p a c) b p [a.toNat, c.toNat] (fun t l => compareHolds cc (t.rd a.toNat l) (t.rd c.toNat l)) s

end Sys2Proof.Machine
end

