-- ==== Sys2Proof/Machine/Networks.lean ====
section
/-! DEFINITION. Lane networks (11, R170 to R176; 13, R216; 14, R234): NETV, NETS, their headers and tiles; and the turns of a core's
matrix array (02, R23). -/

namespace Sys2Proof.Machine

/-! ## Headers, read at issue -/

/-- Locations of `n` chunks of a size from a virtual address on; `none` when one does not translate to a readable page (R174). -/
def State.netLocs (s : State) (va size n : Nat) : Option (List Loc) :=
  (List.range n).mapM (fun k =>
    match s.translate s.home ((va + size * k) % 2 ^ 64) .read with
    | .ok l => some l
    | .error _ => none)

/-- A layer from its descriptor; `none` when it breaks a rule of R170, R174 or R216. -/
def State.netLayer (s : State) (h : List Byte) (prev : Nat) : Option NetLayer :=
  let shape := fieldAt h 0 4
  let scalew := fieldAt h 4 4
  let wa := fieldAt h 8 8
  let ba := fieldAt h 16 8
  let sa := fieldAt h 24 8
  let fmt := bits shape 18 16
  let nout := bits shape 14 8
  let nin := shape % 128
  let np := (nin + 31) / 32 * 32
  let block := if scalew % 2 = 0 then 16 else 32
  if Nat.land shape 0xFFC88080 ≠ 0 ∨ 1 < bits shape 21 20 ∨ 3 < fmt ∨ nin = 0 ∨ 64 < nin ∨ nout = 0 ∨ 64 < nout ∨ nin ≠ prev
      ∨ (fmt ≠ 3 ∧ (scalew ≠ 0 ∨ sa ≠ 0)) ∨ (fmt = 3 ∧ 1 < scalew) ∨ wa % 64 ≠ 0 ∨ ba % 4 ≠ 0 then none
  else
    let size := if fmt = 0 then 2 * nin * nout else if fmt = 3 then np / 2 * nout else nin * nout
    match s.netLocs wa 64 ((size + 63) / 64), s.netLocs ba 4 (if ba = 0 then 0 else nout),
        s.netLocs sa 1 (if fmt = 3 then nout * (np / block) else 0) with
    | some w, some b, some sc =>
      some { nin := nin, nout := nout, fmt := fmt, relu := bits shape 20 20 == 1, block := block, w := w, b := b, s := sc }
    | _, _, _ => none

/-- The layers from descriptors in order (R174). -/
def State.netLayers (s : State) : List (List Byte) → Nat → Nat → Option (List NetLayer)
  | [], prev, no => if prev = no then some [] else none
  | h :: rest, prev, no =>
    match s.netLayer h prev with
    | none => none
    | some l => (s.netLayers rest l.nout no).map (fun ls => l :: ls)

/-- The network at a pointer; `none` when every lane that names it faults (R170, R174). -/
def State.network (s : State) (ptr ni no : Nat) : Option (List NetLayer) :=
  if ptr = 0 ∨ ptr % 256 ≠ 0 then none
  else
    match s.translate s.home ptr .read with
    | .error _ => none
    | .ok l =>
      let head := s.engineBytes s.home l 32
      if 4 ≤ fieldAt head 0 4 ∨ fieldAt head 4 28 ≠ 0 then none
      else s.netLayers ((List.range (fieldAt head 0 4 + 1)).map (fun j => s.engineBytes s.home (l.plus (32 + 32 * j)) 32)) ni no

/-- The header and the layers' descriptors of the networks at some pointers have been read (R398). -/
def State.readNets (s : State) (ptrs : List Nat) : State :=
  if s.dev.injections = [] then s
  else
    ptrs.foldl (fun s ptr =>
      match s.translate s.home ptr .read with
      | .error _ => s
      | .ok l =>
        let n := fieldAt (s.engineBytes s.home l 32) 0 4
        s.hasRead s.home [l] (if n < 4 then 64 + 32 * n else 32)) s

/-! ## A row -/

/-- The format that a layer's inputs are converted to (R173, R216). -/
def netInputFmt (fmt : Nat) : Fmt :=
  match fmt with
  | 1 => fpE4
  | 2 => fpE5
  | _ => bf16

/-- A layer input as the array takes it (R173). -/
def netInput (fmt : Nat) (x : Word) : Term :=
  elemTerm (cvt (.fp fp32) (.fp (netInputFmt fmt)) false .rn (cvt (.fp (netInputFmt fmt)) (.fp fp32) false .rn x.toNat))

/-- Bytes of a layer's weights.  DESIGN CHOICE: the array's reads force no drain of its core's write-combining buffer (log entry 29). -/
def State.weightBytes (s : State) (core : Nat) (l : NetLayer) (off n : Nat) : Nat :=
  ofLeBytes ((List.range n).map (fun i => s.farByte core (l.w.getD ((off + i) / 64) ⟨0, false, false⟩) ((off + i) % 64)))

/-- The offset and the size of the bytes of the weight of input `i` to output `o` (R170, R216). -/
def NetLayer.weightAt (l : NetLayer) (o i : Nat) : Nat × Nat :=
  match l.fmt with
  | 0 => (2 * (o * l.nin + i), 2)
  | 1 => (o * l.nin + i, 1)
  | 2 => (o * l.nin + i, 1)
  | _ => (o * ((l.nin + 31) / 32 * 32 / 2) + i / 2, 1)

/-- The location of the scale of the block of input `i` to output `o` (R216). -/
def NetLayer.scaleAt (l : NetLayer) (o i : Nat) : Loc := l.s.getD (o * ((l.nin + 31) / 32 * 32 / l.block) + i / l.block) ⟨0, false, false⟩

/-- The weight of input `i` to output `o` (R170, R216). -/
def State.weight (s : State) (core : Nat) (l : NetLayer) (o i : Nat) : Term :=
  let w := s.weightBytes core l (l.weightAt o i).1 (l.weightAt o i).2
  match l.fmt with
  | 0 => elemTerm (floatElem 0 w)
  | 1 => elemTerm (floatElem 2 w)
  | 2 => elemTerm (floatElem 3 w)
  | _ =>
    let code := w / 16 ^ (i % 2) % 16
    let scale := s.farByte core (l.scaleAt o i) 0
    elemTerm (blockElem scale.toNat code)

/-- The weights of an output for a group of 32 inputs, padded with zeros (R173). -/
def State.weightGroup (s : State) (core : Nat) (l : NetLayer) (o g : Nat) : List Term :=
  (List.range 32).map (fun k => if 32 * g + k < l.nin then s.weight core l o (32 * g + k) else zeroTerm)

/-- The inputs of a row for a group of 32. -/
def inputGroup (fmt : Nat) (xs : List Word) (g : Nat) : List (Option Term) :=
  (List.range 32).map (fun k => (xs[32 * g + k]?).map (netInput fmt))


/-- One output of a layer: the bias and the activation (R173). -/
def netFinish (bias : Option Nat) (relu : Bool) (y : Nat) : Word :=
  let y1 := match bias with | some k => fp32.add y k | none => y
  BitVec.ofNat 32 (if relu = true ∧ fp32.isNan y1 = false ∧ (fp32.neg y1 || fp32.isZero y1) = true then 0 else y1)

/-- The bias of an output as the array reads it (R173). -/
def State.biasOf (s : State) (core : Nat) (l : NetLayer) (o : Nat) : Option Nat :=
  (l.b[o]?).map (fun a => ofLeBytes (s.engineBytes core a 4))

/-- The accumulators of a tile after a group of 32 inputs of its present layer (R173). -/
def State.netGroup (s : State) (core : Nat) (l : NetLayer) (x : NetTile) : FMap 32 :=
  let ws := (List.range l.nout).map (fun o => s.weightGroup core l o x.g)
  x.rows.zipIdx.foldl (fun m r =>
    let ins := inputGroup l.fmt r.1.inputs x.g
    (List.range l.nout).foldl (fun m o =>
      let k := 64 * r.2 + o
      m.set k (BitVec.ofNat 32 (foldInto (m.get k).toNat (groupSum 0 (products ins (ws.getD o [])))))) m) x.acc

/-- The rows of a tile after its present layer: its outputs are the next layer's inputs (R173). -/
def State.netOutputs (s : State) (core : Nat) (l : NetLayer) (rows : List NetLane) (acc : FMap 32) : List NetLane :=
  let bias := (List.range l.nout).map (s.biasOf core l)
  rows.zipIdx.map (fun r =>
    { r.1 with inputs := (List.range l.nout).map (fun o => netFinish (bias.getD o none) l.relu (acc.get (64 * r.2 + o)).toNat) })

/-- A tile after a group: the next group, or the next layer with its inputs. -/
def State.netAdvance (s : State) (core : Nat) (l : NetLayer) (rest : List NetLayer) (x : NetTile) : NetTile :=
  let acc := s.netGroup core l x
  if 32 * (x.g + 1) < l.nin then { x with g := x.g + 1, acc := acc }
  else { x with rows := s.netOutputs core l x.rows acc, layers := rest, g := 0, acc := [] }

/-- The weights, scales and biases of a group of a layer have been read (R398). -/
def State.readLayer (s : State) (core : Nat) (l : NetLayer) (g : Nat) : State :=
  if s.dev.injections = [] then s
  else
    let pairs := (List.range l.nout).flatMap (fun o => ((List.range 32).filter (fun k => decide (32 * g + k < l.nin))).map (fun k => (o, 32 * g + k)))
    let s := s.hasRead core (pairs.map (fun x =>
      (l.w.getD ((l.weightAt x.1 x.2).1 / 64) ⟨0, false, false⟩).plus ((l.weightAt x.1 x.2).1 % 64))) 1
    let s := if l.s = [] then s else s.hasRead core (pairs.map (fun x => l.scaleAt x.1 x.2)) 1
    if 32 * (g + 1) < l.nin then s else s.hasRead core l.b 4

/-! ## Issue -/

/-- The numbers of inputs and outputs that a word names; `none` outside the limits (R171). -/
def netCounts (v : Word) : Option (Nat × Nat) :=
  let ni := v.toNat % 128
  let no := bits v.toNat 14 8
  if Nat.land v.toNat 0xFFFF8080 ≠ 0 ∨ ni = 0 ∨ 64 < ni ∨ no = 0 ∨ 64 < no then none else some (ni, no)

/-- A network operation issues: its lanes' networks are found, the lanes that fault hold the poison, and the others wait for their
tiles, group by group in the order of the groups' first lanes (R171 to R175). -/
def State.issueNet (s : State) (lanes : List NetLane) (ni no : Nat) (regs : List Nat) (need : Nat) : State :=
  let ptrs := (lanes.map (fun l => l.ptr)).eraseDups
  let nets := ptrs.filterMap (fun p => (s.network p ni no).map (fun n => (p, n)))
  let good := ptrs.flatMap (fun p => lanes.filter (fun l => l.ptr == p && (assoc? nets p).isSome))
  let bad := lanes.filter (fun l => (assoc? nets l.ptr).isNone)
  let poison : Word := BitVec.ofNat 32 (poison32 0x0A)
  let id := s.nextKey
  let s := (s.readNets ptrs).addOp (.net good nets regs none) need
  let s := s.modOp id (fun o =>
    { o with
      net := true, done := good.isEmpty, faulted := bad.map (fun l => l.lane)
      cause := if bad.isEmpty then none else some (0x0A, 0)
      landed := bad.flatMap (fun l => regs.map (fun r => ⟨false, r * 1024 + l.lane, poison, false, 0, none⟩)) })
  s.withTeam (s.team.advance 1)

/-- NETV and NETS: the registers that the word names, whatever the mask (R90, R219); then the counts, every register, and the landing
quota (R171, R234); `first` is how far vA is from the first input. -/
def laneNet (i : Instr) (b : Bool) (d a c first : Nat) (ptr : Team → Nat → Nat) (s : State) : Out :=
  if !s.team.namesOk ([d, a] ++ if first = 0 then [] else [a + 1]) then .next (s.illegal i)
  else engineForm s (s.team.belay b) 1 (fun s =>
    let t := s.team
    match netCounts (t.srd c) with
    | none => .next (s.illegal i)
    | some (ni, no) =>
      let names := (List.range (first + ni)).map (fun k => a + k) ++ (List.range no).map (fun k => d + k)
      if names.any (fun n => decide (127 < n)) || !t.namesOk names then .next (s.illegal i)
      else
        let need := 128 * no * t.liveStrands
        if s.quotaFree < need then .next (s.trapHere 0x20 (quotaInfo need s.quotaFree))
        else
          let lanes := t.active.map (fun l =>
            ({ lane := l, ptr := ptr t l, inputs := (List.range ni).map (fun k => t.rd (a + first + k) l) } : NetLane))
          .next (s.issueNet lanes ni no ((List.range no).map (fun k => t.phys (d + k))) need))

/-- NETV (R171). -/
def execNetv (b : Bool) (d a : BitVec 7) (c : BitVec 6) (s : State) : Out :=
  laneNet (.netv b d a c) b d.toNat a.toNat c.toNat 2 (fun t l => (t.rd64 a.toNat l).toNat) s

/-- NETS (R234). -/
def execNets (b : Bool) (d a : BitVec 7) (c : BitVec 6) (s : State) : Out :=
  laneNet (.nets b d a c) b d.toNat a.toNat (c.toNat + 2) 0 (fun t _ => (t.srd64 c.toNat).toNat) s

/-! ## The array's turns -/

/-- The first tile of the lanes not yet run: at most 64 of one network, in strand order, each its own row (R172). -/
def firstTile (todo : List NetLane) (nets : List (Nat × List NetLayer)) : Option NetTile :=
  match todo with
  | [] => none
  | x :: _ =>
    let rows := (todo.takeWhile (fun l => l.ptr == x.ptr)).take 64
    some { start := rows, rows := rows, layers := (assoc? nets x.ptr).getD [], g := 0, acc := [] }

/-- The results of a tile that has run its last layer. -/
def NetTile.results (x : NetTile) (regs : List Nat) : List RegWrite :=
  x.rows.flatMap (fun l => regs.zipIdx.map (fun r => ⟨false, r.1 * 1024 + l.lane, l.inputs.getD r.2 0, false, 0, none⟩))

/-- One group of 32 inputs of one tile; with a tile's last layer its results land (R23, R172, R173). -/
def State.netStep (s : State) (o : AsyncOp) (todo : List NetLane) (nets : List (Nat × List NetLayer)) (regs : List Nat)
    (tile : Option NetTile) : State :=
  match tile.or (firstTile todo nets) with
  | none => s.finishOp o o.landed o.cause
  | some x =>
    let left := if tile.isSome then todo else todo.drop x.rows.length
    match x.layers with
    | [] => s.finishOp o o.landed o.cause
    | l :: rest =>
      let y := s.netAdvance o.core l rest x
      let s := s.readLayer o.core l x.g
      if y.layers ≠ [] then s.modOp o.id (fun o => { o with work := .net left nets regs (some y) })
      else if left = [] then s.finishOp o (o.landed ++ y.results regs) o.cause
      else s.modOp o.id (fun o => { o with work := .net left nets regs none, landed := o.landed ++ y.results regs })

/-- The operations that a core's array may take next: the oldest of each team on accumulator memory, and tiles (R23, R172, R229).  DESIGN
CHOICE: an ACC form takes no turn in the rotation of the waiting issuers; each of its updates comes at a freely chosen time (log entry
10). -/
def State.arrayReady (s : State) (core : Nat) : List AsyncOp :=
  s.ops.filter (fun o => o.core == core && !o.done &&
    (match o.work with
     | .mma _ _ _ _ _ _ => s.accTurn o
     | .net _ _ _ _ => ((s.ctx? o.ctx).map (fun c => decide (c.state = .running))).getD false
     | _ => false))

/-- The TEAMID of the team that issued an operation. -/
def State.issuerOf (s : State) (o : AsyncOp) : Nat := ((s.team? o.team).map Team.teamid).getD 0

/-- The operation whose group a core's array takes: round-robin among the issuers that wait, by TEAMID, and of the chosen one's any
(R23).  DESIGN CHOICE: the order of the rotation (log entry 10). -/
def State.arrayNext (s : State) (core : Nat) : Option AsyncOp :=
  let ready := s.arrayReady core
  match nextAfter (some (s.core core).arrayServed) (sortedKeys (ready.map s.issuerOf)) with
  | none => none
  | some k =>
    let mine := ready.filter (fun o => s.issuerOf o == k)
    mine[Config.freeChoice s.tick % mine.length]?

/-- MATRIX_ARRAY_GROUP: the array of a core runs a group of 32 K-elements of one MMA, or of one tile of a network (R23). -/
def execMatrixArrayGroup (core : Nat) (s : State) : Out :=
  match s.arrayNext core with
  | none => .next s
  | some o =>
    let s1 := s.modCore core (fun k => { k with arrayServed := s.issuerOf o })
    match o.work, s1.crew? o.crew, s1.team? o.team with
    | .mma m fb g n acc fold, some w, some t => .next (s1.mmaStep o w t.index m fb g n acc fold)
    | .net todo nets regs tile, _, _ => .next (s1.netStep o todo nets regs tile)
    | _, _, _ => .next s1

end Sys2Proof.Machine
end

