-- ==== Sys2Proof/Machine/Sampler.lean ====
section
/-! DEFINITION. The sampler (15, R238, R239; 16, R258, R259; 17, R278, R279): SMP.G, SMP, SMP.L and the fills of its cache; and the
ATTR instructions ATTRF and ATTRB (10, R165 to R168). -/

namespace Sys2Proof.Machine

/-! ## The sampler cache -/

/-- The number of the line that a core's sampler reads for a location: physical for device memory, beyond that for the weight store
of the core's die. -/
def Loc.line (l : Loc) (core : Nat) : Nat :=
  if l.ws then 2 ^ 33 + dieOf core * 2 ^ 22 + l.pa / 128 else l.readAddr core 0 / 128

/-- The 128 bytes of a line at its home slice or in the weight store (R238). -/
def State.lineBytes (s : State) (line : Nat) : List Byte :=
  (List.range 128).map (fun i =>
    if line < 2 ^ 33 then s.sliceByte (line * 128 + i)
    else s.weights.get ((line - 2 ^ 33) / 2 ^ 22 * 2 ^ 29 + (line - 2 ^ 33) % 2 ^ 22 * 128 + i))

/-- The key under which a team keeps a line that a lane of its instruction has taken on a core. -/
def gatherKey (core line : Nat) : Nat := core * 2 ^ 40 + line

/-- Use of a line makes it the latest of its set (R238). -/
def CoreState.useLine (k : CoreState) (line : Nat) : CoreState :=
  match k.samp.find? (fun g => g.line == line) with
  | some g => { k with samp := k.samp.filter (fun x => x.line != line) ++ [g] }
  | none => k

/-- A fill: into a full set it replaces the least recently used line (R238). -/
def CoreState.installLine (k : CoreState) (g : SampLine) : CoreState :=
  let mine := k.samp.filter (fun x => x.line % 128 == g.line % 128 && x.line != g.line)
  let drop := if 8 ≤ mine.length then (mine.head?.map (fun x => x.line)) else none
  { k with samp := k.samp.filter (fun x => x.line != g.line && some x.line != drop) ++ [g] }

/-- A core's sampler is asked for a line by a team (R238). -/
def State.askLine (s : State) (core line : Nat) : State :=
  s.modCore core (fun k => if (line, s.team.key) ∈ k.miss then k else { k with miss := k.miss ++ [(line, s.team.key)] })

/-- The lines that the lanes of the issuing team's instruction take, one after another in the order of their needs (core and line): those
that it has taken before, then from the core's cache; at the first one that is not there it asks for that line and stops.  `got` has those
taken so far; an entry without bytes is a line that has been asked for (R238, R239). -/
def State.serveLines (s : State) : List (Nat × Nat) → List SampLine → List SampLine → State × Option (List SampLine)
  | [], got, _ => (s, some got)
  | n :: rest, got, old =>
    let key := gatherKey n.1 n.2
    match old with
    | g :: more =>
      if g.line = key ∧ g.bytes ≠ [] then s.serveLines rest (got ++ [g]) more
      else
        match (s.core n.1).samp.find? (fun x => x.line == n.2) with
        | some x => (s.modCore n.1 (fun k => k.useLine n.2)).serveLines rest (got ++ [⟨key, x.bytes⟩]) []
        | none => ((s.askLine n.1 n.2).withTeam { s.team with gathered := got ++ [⟨key, []⟩] }, none)
    | [] =>
      match (s.core n.1).samp.find? (fun x => x.line == n.2) with
      | some x => (s.modCore n.1 (fun k => k.useLine n.2)).serveLines rest (got ++ [⟨key, x.bytes⟩]) []
      | none => ((s.askLine n.1 n.2).withTeam { s.team with gathered := got ++ [⟨key, []⟩] }, none)

/-- The team's instruction has taken its lines. -/
def State.tookLines (s : State) : State := s.withTeam { s.team with gathered := [] }

/-- Bytes of a location from its line. -/
def SampLine.bytesAt (g : SampLine) (l : Loc) (n : Nat) : List Byte := (g.bytes.drop (l.pa % 128)).take n

/-- A line arrives for a team that waits for it. -/
def Team.deliver (t : Team) (key : Nat) (b : List Byte) : Team :=
  { t with gathered := t.gathered.map (fun g => if g.line = key ∧ g.bytes = [] then { g with bytes := b } else g) }

/-- SAMPLER_FILL: a line that a core's sampler asked for is read and installed (R238). -/
def execSamplerFill (core line : Nat) (s : State) : Out :=
  let who := ((s.core core).miss.filter (fun m => m.1 == line)).map (fun m => m.2)
  if who = [] then .next s
  else
    let b := s.lineBytes line
    let s := (if line < 2 ^ 33 then s.reported (line * 128) 128 else s).modCore core (fun k =>
      ({ k with miss := k.miss.filter (fun m => m.1 != line) }).installLine ⟨line, b⟩)
    .next (who.foldl (fun (s : State) k => s.modTeam k (fun t => t.deliver (gatherKey core line) b)) s)

/-! ## SMP.G (R239) -/

/-- SMP.G. -/
def execSmpG (b : Bool) (d a : BitVec 7) (c : BitVec 6) (s : State) : Out :=
  if !s.team.namesOk [d.toNat, a.toNat] then .next (s.illegal (.smpG b d a c))
  else
    let t := s.team.belay b
    let ls := s.lanesAt t .read (fun l => addOffset ((t.srd64 c.toNat).toNat + (t.rd a.toNat l).toNat) 0)
    match precheck 4 ls with
    | some (k, l, va) => .next (s.vaTrap k l va)
    | none =>
      let s := s.withTeam t
      let coreOf := fun (l : Nat) => s.crew.coreOf t (l / 32)
      match s.serveLines ((located ls).map (fun x => (coreOf x.1, x.2.2.line (coreOf x.1)))) [] s.team.gathered with
      | (s1, none) => .next s1
      | (s1, some got) =>
        let vals := (List.zip (located ls) got).map (fun x => (x.1.1, BitVec.ofNat 32 (ofLeBytes (x.2.bytesAt x.1.2.2 4))))
        let s2 := s1.tookLines.touch ls
        .next ((s2.withTeam (s2.team.wr d.toNat (vals.map (fun v => v.1)) (fun l => (assoc? vals l).getD 0))).finishAccess 1
          (unlocated .read ls))

/-! ## Texture descriptors (R278) -/

/-- A texture descriptor. -/
structure Texture where
  base : Nat
  w : Nat
  h : Nat
  pitch : Nat
  fmt : Nat
  clamp : Bool
  bilinear : Bool
  levels : Nat
  lw : Nat
  lh : Nat
  latent : Nat
  deriving DecidableEq, Repr

/-- The bytes of a texel of a format. -/
def texelBytes (fmt : Nat) : Nat := if fmt = 1 then 8 else 4

/-- The first field of a descriptor that breaks R278, by its byte offset. -/
def textureFault (b : List Byte) : Option Nat :=
  let m := fieldAt b 16 1
  if fieldAt b 0 8 % 16 ≠ 0 then some 0
  else if fieldAt b 8 2 = 0 ∨ 16384 < fieldAt b 8 2 ∨ fieldAt b 10 2 = 0 ∨ 16384 < fieldAt b 10 2 then some 8
  else if fieldAt b 12 4 % 16 ≠ 0 ∨ fieldAt b 12 4 < fieldAt b 8 2 * texelBytes (m % 4) then some 12
  else if m % 4 = 3 ∨ 2 ≤ m / 4 % 4 ∨ m / 32 ≠ 0 then some 16
  else if fieldAt b 17 1 = 0 ∨ 15 < fieldAt b 17 1 then some 17
  else if fieldAt b 18 2 ≠ 0 then some 18
  else if fieldAt b 20 2 = 0 ∨ 4096 < fieldAt b 20 2 ∨ fieldAt b 22 2 = 0 ∨ 4096 < fieldAt b 22 2 then some 20
  else if fieldAt b 32 32 ≠ 0 then some 32
  else none

/-- The fields of a descriptor. -/
def textureOf (b : List Byte) : Texture :=
  let m := fieldAt b 16 1
  { base := fieldAt b 0 8, w := fieldAt b 8 2, h := fieldAt b 10 2, pitch := fieldAt b 12 4, fmt := m % 4,
    clamp := m / 4 % 4 == 1, bilinear := m / 16 % 2 == 1, levels := fieldAt b 17 1, lw := fieldAt b 20 2, lh := fieldAt b 22 2,
    latent := fieldAt b 24 8 }

/-- An image as a level gives it: base, pitch, width, height, texel format. -/
structure Image where
  base : Nat
  pitch : Nat
  w : Nat
  h : Nat
  fmt : Nat
  deriving DecidableEq, Repr

/-- A level of a texture, from level 0 on (R278). -/
def Texture.level (x : Texture) : Nat → Image
  | 0 => ⟨x.base, x.pitch, x.w, x.h, x.fmt⟩
  | m + 1 =>
    let prev := x.level m
    let w := Nat.max 1 (x.w / 2 ^ (m + 1))
    ⟨prev.base + prev.pitch * prev.h, 16 * ((w * texelBytes x.fmt + 15) / 16), w, Nat.max 1 (x.h / 2 ^ (m + 1)), x.fmt⟩

/-- The latent image (R278). -/
def Texture.latentImage (x : Texture) : Image := ⟨x.latent, 4 * x.lw, x.lw, x.lh, 0⟩

/-! ## Filtering (R279) -/

/-- A finite FP32 value as a numerator over a power of two. -/
def dyadic (x : Nat) : Int × Nat :=
  match fp32.val x with
  | .fin neg n e =>
    let m : Int := if neg then -(n : Int) else n
    if 0 ≤ e then (m * 2 ^ e.toNat, 0) else (m, (-e).toNat)
  | _ => (0, 0)

/-- A texel index brought into an image (R279). -/
def texelIndex (clamp : Bool) (i : Int) (n : Nat) : Nat :=
  if clamp then (if i < 0 then 0 else Nat.min i.toNat (n - 1)) else (i % (n : Int)).toNat

/-- The lower index and the weight in 256ths of the bilinear filter along one axis (R279). -/
def bilinearAxis (u n : Nat) : Int × Nat :=
  let d := dyadic u
  let num := 2 * (d.1 * n) - 2 ^ d.2
  let den : Int := 2 ^ (d.2 + 1)
  let a := roundShift .rn false (256 * (num % den).toNat) (d.2 + 1) false
  if a = 256 then (num / den + 1, 0) else (num / den, a)

/-- The texels of a fetch with their weights in 65536ths, in the order of R279; one texel with the nearest filter. -/
def taps (img : Image) (clamp bilinear : Bool) (u v : Nat) : List (Nat × Nat × Nat) :=
  let ix := fun (i j : Int) => (texelIndex clamp i img.w, texelIndex clamp j img.h)
  if bilinear then
    let x := bilinearAxis u img.w
    let y := bilinearAxis v img.h
    [(ix x.1 y.1, (256 - x.2) * (256 - y.2)), (ix (x.1 + 1) y.1, x.2 * (256 - y.2)), (ix x.1 (y.1 + 1), (256 - x.2) * y.2),
      (ix (x.1 + 1) (y.1 + 1), x.2 * y.2)].map (fun p => (p.1.1, p.1.2, p.2))
  else
    let x := dyadic u
    let y := dyadic v
    [((ix (x.1 * img.w / 2 ^ x.2) (y.1 * img.h / 2 ^ y.2)).1, (ix (x.1 * img.w / 2 ^ x.2) (y.1 * img.h / 2 ^ y.2)).2, 65536)]

/-- The address of a texel. -/
def Image.texelAddr (img : Image) (i j : Nat) : Nat := (img.base + j * img.pitch + i * texelBytes img.fmt) % 2 ^ 64

/-- The channels of a texel as FP32 (R278). -/
def texelChannels (fmt : Nat) (b : List Byte) : List Nat :=
  match fmt with
  | 0 => (List.range 4).map (fun k => fp32.quotient false (fieldAt b k 1) 0 255 0)
  | 1 => (List.range 4).map (fun k => floatHalf (fieldAt b (2 * k) 2))
  | _ => [fieldAt b 0 4, 0, 0, 0x3F800000]
where
  /-- An FP16 channel, exact. -/
  floatHalf (x : Nat) : Nat := cvt (.fp fp32) (.fp fp16) false .rn x

/-- A weight in 65536ths as FP32. -/
def weight32 (n : Nat) : Nat := fp32.rnd .rn (.fin false n (-16))

/-- A channel of a fetch from its texels in order, each with its weight (R279). -/
def blendTaps : List (Nat × Nat) → Nat
  | [] => 0
  | (w, x) :: rest => rest.foldl (fun r p => fp32.fma (weight32 p.1) p.2 r) (fp32.mul (weight32 w) x)

/-- The four channels of a fetch, given the channels of each texel (R279). -/
def fetchChannels (bilinear : Bool) (texels : List (Nat × List Nat)) : List Nat :=
  (List.range 4).map (fun k =>
    if bilinear then blendTaps (texels.map (fun t => (t.1, t.2.getD k 0)))
    else ((texels.head?.map (fun t => t.2.getD k 0)).getD 0))

/-- The levels that a lane reads: the first level, and the fraction in 256ths toward the next (R279). -/
def lodOf (lambda : Nat) (levels : Nat) : Nat × Nat :=
  let d := dyadic lambda
  let c : Int := if d.1 < 0 then 0 else if ((levels - 1 : Nat) : Int) * 2 ^ d.2 ≤ d.1 then ((levels - 1 : Nat) : Int) * 2 ^ d.2 else d.1
  let m := (c / 2 ^ d.2).toNat
  if m = levels - 1 then (m, 0) else (m, roundShift .rn false (256 * (c % 2 ^ d.2).toNat) d.2 false)

/-! ## SMP and SMP.L (R258, R259, R279) -/

/-- The images that a lane reads and the fraction between them. -/
structure LaneSample where
  lane : Nat
  u : Nat
  v : Nat
  images : List Image
  frac : Nat
  deriving DecidableEq, Repr

/-- The parts of a texel of `n` bytes, one in each 128-byte line that it lies in: address, length, and whether it goes on in the next line.
LATENT has no alignment, so that a texel of the latent image may cross a line (R278). -/
def texelParts (va n : Nat) : List (Nat × Nat × Bool) :=
  let k := 128 - va % 128
  if n ≤ k then [(va, n, false)] else [(va, k, true), ((va + k) % 2 ^ 64, n - k, false)]

/-- The parts of the texels of a lane's sample, in the order of its taps. -/
def LaneSample.parts (x : LaneSample) (tx : Texture) : List (Nat × Nat × Bool) :=
  x.images.flatMap (fun img => (taps img tx.clamp tx.bilinear x.u x.v).flatMap (fun p => texelParts (img.texelAddr p.1 p.2.1) (texelBytes img.fmt)))

/-- The texel addresses of a lane's sample. -/
def LaneSample.addrs (x : LaneSample) (tx : Texture) : List Nat := (x.parts tx).map (fun p => p.1)

/-- A value that a sample cannot use. -/
def unusable (x : Nat) : Bool := fp32.isNan x || fp32.isInf x

/-- What a lane does: the default NaN, a sample of the texture or of the latent image, or a fault. -/
inductive LaneFate where
  | nan
  | sample (x : LaneSample) (fallback : Bool)
  | fault (f : FaultLane)
  deriving DecidableEq, Repr

/-- The first address of a list that fails with a cause of a set, and that cause. -/
def State.firstFail (s : State) (core : Nat) (vas : List Nat) (p : Nat → Bool) : Option (Nat × Nat) :=
  (vas.filterMap (fun va => match s.translate core va .read with | .error c => if p c then some (va, c) else none | .ok _ => none)).head?

/-- The fate of an acting lane (R258, R279).  DESIGN CHOICE: a LATENT address that lies in device memory is read there, and of one that does
not translate the lane follows R252 with its cause (R278, log entry 30). -/
def State.laneFate (s : State) (t : Team) (tx : Texture) (lod : Bool) (a lane : Nat) : LaneFate :=
  let u := (t.rd a lane).toNat
  let v := (t.rd (a + 1) lane).toNat
  let k := (t.rd (a + 2) lane).toNat
  let core := s.crew.coreOf t (lane / 32)
  if unusable u || unusable v || (lod && unusable k) then .nan
  else
    let m := if lod then lodOf k tx.levels else (0, 0)
    let x : LaneSample := ⟨lane, u, v, if m.2 = 0 then [tx.level m.1] else [tx.level m.1, tx.level (m.1 + 1)], m.2⟩
    match s.firstFail core (x.addrs tx) (fun c => c == 0x05) with
    | some (va, c) => .fault ⟨lane, va, c, 0⟩
    | none =>
      match s.firstFail core (x.addrs tx) (fun _ => true) with
      | none => .sample x false
      | some (va, c) =>
        if tx.latent = 0 then .fault ⟨lane, va, c, 0⟩
        else
          let y : LaneSample := ⟨lane, u, v, [tx.latentImage], 0⟩
          match s.firstFail core (y.addrs tx) (fun _ => true) with
          | some (va, c) => .fault ⟨lane, va, c, 0⟩
          | none => .sample y true

/-- The taps of an image with their bytes, and the bytes that are left. -/
def tapBytes (img : Image) (tx : Texture) (x : LaneSample) (bytes : List (List Byte)) : List (Nat × List Nat) × List (List Byte) :=
  let ts := taps img tx.clamp tx.bilinear x.u x.v
  ((List.zip ts bytes).map (fun p => (p.1.2.2, texelChannels img.fmt p.2)), bytes.drop ts.length)

/-- The result of a lane's sample from the bytes of its texels, in the order of their addresses (R279). -/
def sampleValue (tx : Texture) (x : LaneSample) (bytes : List (List Byte)) : List Nat :=
  match x.images with
  | [] => []
  | [img] => fetchChannels tx.bilinear (tapBytes img tx x bytes).1
  | img :: next :: _ =>
    let (t0, rest) := tapBytes img tx x bytes
    let r0 := fetchChannels tx.bilinear t0
    let r1 := fetchChannels tx.bilinear (tapBytes next tx x rest).1
    let f := fp32.rnd .rn (.fin false x.frac (-8))
    (List.range 4).map (fun k => fp32.fma f (fp32.sub (r1.getD k 0) (r0.getD k 0)) (r0.getD k 0))

/-- The pages that are missing for a lane that falls back (R258). -/
def State.missingPages (s : State) (t : Team) (tx : Texture) (lod : Bool) (a lane : Nat) : List Nat :=
  let k := (t.rd (a + 2) lane).toNat
  let m := if lod then lodOf k tx.levels else (0, 0)
  let x : LaneSample := ⟨lane, (t.rd a lane).toNat, (t.rd (a + 1) lane).toNat,
    if m.2 = 0 then [tx.level m.1] else [tx.level m.1, tx.level (m.1 + 1)], m.2⟩
  ((x.addrs tx).filter (fun va => match s.translate (s.crew.coreOf t (lane / 32)) va .read with | .error _ => true | .ok _ => false)).map
    (fun va => va / 65536 * 65536)

/-- A part of a texel that a lane needs: the lane, where it lies, its size, and whether the texel goes on with the next part. -/
structure TexelNeed where
  lane : Nat
  loc : Loc
  size : Nat
  more : Bool
  deriving DecidableEq, Repr

/-- The texels that the sampling lanes need, in strand order and in the order of each lane's taps. -/
def State.texels (s : State) (tx : Texture) (samples : List (LaneSample × Bool)) : List TexelNeed :=
  samples.flatMap (fun x => (x.1.parts tx).filterMap (fun a =>
    match s.translate (s.crew.coreOf s.team (x.1.lane / 32)) a.1 .read with
    | .ok l => some ⟨x.1.lane, l, a.2.1, a.2.2⟩
    | .error _ => none))

/-- The bytes of the texels, each with its lane, from those of their parts. -/
def joinParts (xs : List (TexelNeed × List Byte)) : List (Nat × List Byte) :=
  xs.foldr (fun x acc =>
    match x.1.more, acc with
    | true, y :: rest => (x.1.lane, x.2 ++ y.2) :: rest
    | _, _ => (x.1.lane, x.2) :: acc) []

/-- The sampling of the lanes, the descriptor being checked; `desc` is the descriptor that the instruction has read (R279). -/
def sampleLanes (lod : Bool) (d a n : Nat) (tx : Texture) (desc : SampLine) (s : State) : Out :=
  let t := s.team
  let coreOf := fun (l : Nat) => s.crew.coreOf t (l / 32)
  let fates := t.acting.map (fun l => (l, s.laneFate t tx lod a l))
  let samples := fates.filterMap (fun f => match f.2 with | .sample x b => some (x, b) | _ => none)
  let rest := fates.filterMap (fun f => match f.2 with | .fault g => some g | _ => none)
  let needs := s.texels tx samples
  match s.serveLines (needs.map (fun x => (coreOf x.lane, x.loc.line (coreOf x.lane)))) [desc] (t.gathered.drop 1) with
  | (s1, none) => .next s1
  | (s1, some got) =>
    let bytes := joinParts ((List.zip needs (got.drop 1)).map (fun x => (x.1, x.2.bytesAt x.1.loc x.1.size)))
    let done := fates.filterMap (fun f => match f.2 with
      | .nan => some (f.1, [0x7FC00000, 0x7FC00000, 0x7FC00000, 0x7FC00000], false)
      | .sample x b => some (f.1, sampleValue tx x ((bytes.filter (fun e => e.1 == f.1)).map (fun e => e.2)), b)
      | .fault _ => none)
    let pages := ((done.filter (fun e => e.2.2)).flatMap (fun e => s.missingPages t tx lod a e.1)).eraseDups
    let lanes := done.map (fun e => e.1)
    let s := s1.tookLines
    let t1 := (List.range 4).foldl (fun (t : Team) k =>
      t.wr (d + k) lanes (fun l => BitVec.ofNat 32 (((assoc? done l).map (fun e => e.1.getD k 0)).getD 0))) s.team
    let t2 := if n = 0 then t1 else t1.pwr n lanes (fun l => ((assoc? done l).map (fun e => e.2)).getD false)
    let s := { s with dev := s.dev.report (fun r => { r with residency := r.residency ++ pages.map (fun p => (s.ctx.key, p)) }) }
    .next ((s.withTeam t2).finishAccess 1 rest)

/-- The key of the descriptor among what an instruction has taken. -/
def descKey : Nat := 2 ^ 100

/-- Cause 0x24 for a texture descriptor: its record has no number in R220, so that REC is open. -/
def State.textureTrap (s : State) (off : Nat) : State := s.trapHere 0x24 (malformed ((Config.freeByte s.tick).toNat % 8) off)

/-- The descriptor at a location as the issuing team's plain load reads it, through L1 (R279). -/
def State.readDescriptor (s : State) (l : Loc) (va : Nat) : State × List Byte :=
  let core := s.crew.coreOf s.team 0
  let s0 := s.prepareLoad 0 64 [(0, va, l)]
  let m := s0.laneMoment 0 64 (0, va, l)
  let h := (List.range 64).map (s0.loadByteAt m core s.team.key false l)
  let s1 := s0.concludeLoad 0 64 [(0, va, l)]
  (if m = s0.tick then s1.fillL1 core s.team.key (l.plus 32) else s1, h)

/-- SMP and SMP.L: the descriptor, read once through L1 (R278, R279). -/
def sampleForm (i : Instr) (b lod : Bool) (d a n k : Nat) (s : State) : Out :=
  if !s.team.namesOk ([d, d + 1, d + 2, d + 3, a, a + 1] ++ if lod then [a + 2] else []) then .next (s.illegal i)
  else
    let t := s.team.belay b
    if t.active = [] then .next (s.withTeam (t.advance 1))
    else
      let s := s.withTeam t
      match s.team.gathered with
      | g :: _ => sampleLanes lod d a n (textureOf g.bytes) g s
      | [] =>
        let va := (t.srd64 (4 * k)).toNat
        let x := s.scalarAcc t .read va
        if va % 64 ≠ 0 then .next (s.textureTrap (Config.freeByte (s.tick + 2 ^ 90)).toNat)
        else
          match precheck 64 [x] with
          | some (c, l, va) => .next (s.vaTrap c l va)
          | none =>
            match x.res with
            | .error c => .next (s.scalarFault ⟨0, va, c, 0⟩)
            | .ok l =>
              let (s, h) := s.readDescriptor l va
              match textureFault h with
              | some off => .next (s.textureTrap off)
              | none => sampleLanes lod d a n (textureOf h) ⟨descKey, h⟩ (s.touch [x])

/-- SMP (R279). -/
def execSmp (b : Bool) (d a : BitVec 7) (n : BitVec 3) (k : BitVec 4) (s : State) : Out :=
  sampleForm (.smp b d a n k) b false d.toNat a.toNat n.toNat k.toNat s

/-- SMP.L (R279). -/
def execSmpL (b : Bool) (d a : BitVec 7) (n : BitVec 3) (k : BitVec 4) (s : State) : Out :=
  sampleForm (.smpL b d a n k) b true d.toNat a.toNat n.toNat k.toNat s

/-! ## ATTRF and ATTRB (R165 to R168) -/

/-- A reading that collects the addresses it has read, and ends in a value or in the address that failed with its cause. -/
structure Got (α : Type) where
  vas : List Nat
  res : Except (Nat × Nat) α
  deriving DecidableEq, Repr

/-- One reading after another. -/
def Got.andThen {α β : Type} (g : Got α) (f : α → Got β) : Got β :=
  match g.res with
  | .error e => ⟨g.vas, .error e⟩
  | .ok x => ⟨g.vas ++ (f x).vas, (f x).res⟩

/-- Nothing to read. -/
def Got.done {α : Type} (x : α) : Got α := ⟨[], .ok x⟩

/-- A relaxed 32-bit load through L1 (R168). -/
def State.attrWord (s : State) (core va : Nat) : Got Nat :=
  match s.translate core (va % 2 ^ 64) .read with
  | .error c => ⟨[], .error (va % 2 ^ 64, c)⟩
  | .ok l =>
    ⟨[va % 2 ^ 64], .ok (s.loadValAt (s.moment s.team core false l 4 (va % 2 ^ 64)) core s.team.key false l 4)⟩

/-- Several words in order. -/
def State.attrWords (s : State) (core : Nat) : List Nat → Got (List Nat)
  | [] => .done []
  | va :: rest => (s.attrWord core va).andThen (fun w => (s.attrWords core rest).andThen (fun ws => .done (w :: ws)))

/-- A quotient of exact values, rounded once; the divisor is positive (R167). -/
def ratio32 (num den : Fv) : Nat :=
  match num, den with
  | .fin neg n e, .fin _ m k =>
    let sh := Nat.log2 m + 64
    fp32.rndFin .rn neg (n * 2 ^ sh / m) (e - k - sh) (n * 2 ^ sh % m != 0)
  | _, _ => fp32.nan

/-- The difference of two FP32 values, exact. -/
def exactSub (a b : Nat) : Fv := (fp32.val a).add (fp32.val b).negate

/-- The weights u[i], with the sign of S taken into each, and the magnitude of S (R167). -/
def attrWeights (px py : Nat) (v : List (List Nat)) : List Fv × Fv :=
  let x := fun i => (v.getD i []).getD 0 0
  let y := fun i => (v.getD i []).getD 1 0
  let q := fun i => (v.getD i []).getD 2 0
  let edge := fun i j k => (((exactSub (x k) (x j)).mul (exactSub py (y j))).add
    ((exactSub (y k) (y j)).mul (exactSub px (x j))).negate).mul (fp32.val (q i))
  let u := [edge 0 1 2, edge 1 2 0, edge 2 0 1]
  let total := u.foldl Fv.add (.fin true 0 0)
  match total with
  | .fin true n e => (u.map Fv.negate, .fin false n e)
  | t => (u, t)

/-- The value is zero. -/
def Fv.isZero : Fv → Bool
  | .fin _ n _ => n == 0
  | _ => false

/-- The poison of an ATTR reference out of range (R167). -/
def attrPoison : Nat := poison32 0x23

/-- The results of one lane: `g` is the first attribute of ATTRF, `none` for ATTRB (R166, R167). -/
def State.attrLane (s : State) (core table : Nat) (word : BitVec 64) (px py : Nat) (g : Option Nat) : Got (List Nat) :=
  let outs := if g.isSome then 4 else 3
  let every := fun (x : Nat) => List.replicate outs x
  if word = BitVec.allOnes 64 then .done (every 0)
  else
    let inst := bits word.toNat 39 20
    let prim := word.toNat % 2 ^ 20
    (s.attrWord core table).andThen (fun icount =>
      if icount ≤ inst then .done (every attrPoison)
      else
        (s.attrWords core ((List.range 7).map (fun k => table + 64 + 32 * inst + 4 * k))).andThen (fun e =>
          let vbase := e.getD 0 0 + 2 ^ 32 * e.getD 1 0
          let ibase := e.getD 2 0 + 2 ^ 32 * e.getD 3 0
          let stride := e.getD 4 0
          let nattr := e.getD 6 0 % 256
          if e.getD 5 0 ≤ prim ∨ vbase % 4 ≠ 0 ∨ ibase % 4 ≠ 0 ∨ 60 < nattr ∨ stride % 4 ≠ 0 ∨ stride < 12 + 4 * nattr then
            .done (every attrPoison)
          else
            (if ibase = 0 then Got.done [3 * prim, 3 * prim + 1, 3 * prim + 2]
              else s.attrWords core ((List.range 3).map (fun k => ibase + 12 * prim + 4 * k))).andThen (fun ix =>
              (s.attrWords core (ix.flatMap (fun t => (List.range 3).map (fun k => vbase + stride * t + 4 * k)))).andThen (fun xs =>
                let v := (List.range 3).map (fun i => (xs.drop (3 * i)).take 3)
                if (px :: py :: xs).any unusable then .done (every 0x7FC00000)
                else
                  let w := attrWeights px py v
                  if w.2.isZero then .done (every 0x7FC00000)
                  else
                    match g with
                    | none => .done (w.1.map (fun u => ratio32 u w.2))
                    | some g =>
                      let js := (List.range 4).map (fun k => g + k)
                      (s.attrWords core (((js.filter (fun j => decide (j < nattr)))).flatMap (fun j =>
                          ix.map (fun t => vbase + stride * t + 12 + 4 * j)))).andThen (fun as =>
                        .done ((List.range 4).map (fun k =>
                          if nattr ≤ g + k then 0
                          else
                            let a := (as.drop (3 * k)).take 3
                            if a.any unusable then 0x7FC00000
                            else
                              ratio32 ((List.zip w.1 a).foldl (fun r p => r.add (p.1.mul (fp32.val p.2))) (.fin true 0 0)) w.2)))))))

/-- What ATTRF or ATTRB gives each acting lane. -/
def State.attrLanes (s : State) (c a : Nat) (perAttr : Bool) : List (Nat × Got (List Nat)) :=
  let t := s.team
  let g := if perAttr then some (t.srd (c + 2)).toNat else none
  t.acting.map (fun l => (l, s.attrLane (s.crew.coreOf t (l / 32)) (t.srd64 c).toNat (t.rd64 a l) (t.rd (a + 2) l).toNat
    (t.rd (a + 3) l).toNat g))

/-- The reads of the lanes, each with its lane and its location. -/
def State.attrReads (s : State) (got : List (Nat × Got (List Nat))) : List (Nat × Nat × Loc) :=
  got.flatMap (fun e => e.2.vas.filterMap (fun va =>
    match s.translate (s.crew.coreOf s.team (e.1 / 32)) va .read with
    | .ok l => some (e.1, va, l)
    | .error _ => none))

/-- What precedes the reads, each as that of an LD (R168, R262, R265): an address may follow from the value before it, so that the
preparation goes on until the longest chain of reads, of five, is prepared. -/
def State.prepareAttr (s : State) (c a : Nat) (perAttr : Bool) : State :=
  (List.range 5).foldl (fun s _ => s.prepareLoad 0 4 (s.attrReads (s.attrLanes c a perAttr))) s

/-- ATTRF and ATTRB: the acting lanes, the checks and faults as for LD (R168, R261). -/
def attrForm (i : Instr) (b : Bool) (d a c outs : Nat) (perAttr : Bool) (s : State) : Out :=
  if !s.team.namesOk ((List.range outs).map (fun k => d + k) ++ (List.range 4).map (fun k => a + k)) then .next (s.illegal i)
  else
    let t := s.team.belay b
    match t.acting with
    | [] => .next (s.withTeam (t.advance 1))
    | l0 :: _ =>
      if (t.srd64 c).toNat % 64 ≠ 0 then .next ((s.withTeam t).vaTrap 0x03 l0 (t.srd64 c).toNat)
      else
        let s0 := (s.withTeam t).prepareAttr c a perAttr
        let got := s0.attrLanes c a perAttr
        let good := got.filterMap (fun e => match e.2.res with | .ok xs => some (e.1, xs) | .error _ => none)
        let rest := got.filterMap (fun e => match e.2.res with
          | .ok _ => none
          | .error (va, k) => some (⟨e.1, va, k, 0⟩ : FaultLane))
        match rest.find? (fun f => decide (2 ^ 57 ≤ f.va)) with
        | some f => .next (s0.vaTrap 0x05 f.lane f.va)
        | none =>
          let reads := s0.attrReads got
          let s1 := reads.foldl (fun s x => s.fillTlb s.ctx (s.crew.coreOf s.team (x.1 / 32)) x.2.1) (s0.concludeLoad 0 4 reads)
          let t1 := (List.range outs).foldl (fun (t : Team) k =>
            t.wr (d + k) (good.map (fun e => e.1)) (fun l => BitVec.ofNat 32 (((assoc? good l).map (fun xs => xs.getD k 0)).getD 0))) s1.team
          .next ((s1.withTeam t1).finishAccess 1 rest)

/-- ATTRF (R165, R167). -/
def execAttrf (b : Bool) (d a : BitVec 7) (c : BitVec 6) (s : State) : Out :=
  attrForm (.attrf b d a c) b d.toNat a.toNat c.toNat 4 true s

/-- ATTRB (R165, R167). -/
def execAttrb (b : Bool) (d a : BitVec 7) (c : BitVec 6) (s : State) : Out :=
  attrForm (.attrb b d a c) b d.toNat a.toNat c.toNat 3 false s

end Sys2Proof.Machine
end

