-- ==== Sys2Proof/Machine/Scalar.lean ====
section
/-! DEFINITION. Scalar instructions: majors 0x12 to 0x14 (07, R115, R116; 06, R85).  They act once per team, whatever the mask
holds (R40). -/

namespace Sys2Proof.Machine

/-- Set the condition flags (R115). -/
def Team.setFlags (t : Team) (f : Flags) : Team := { t with flags := f }

/-- SAND: the flags are unchanged (R115). -/
def execSand (b : Bool) (d a c : BitVec 6) (s : State) : Out := scalarBin b d a c (fun x y => x &&& y) s

/-- SOR: the flags are unchanged (R115). -/
def execSor (b : Bool) (d a c : BitVec 6) (s : State) : Out := scalarBin b d a c (fun x y => x ||| y) s

/-- SXOR: the flags are unchanged (R115). -/
def execSxor (b : Bool) (d a c : BitVec 6) (s : State) : Out := scalarBin b d a c (fun x y => x ^^^ y) s

/-- SMUL: the flags are unchanged (R115). -/
def execSmul (b : Bool) (d a c : BitVec 6) (s : State) : Out := scalarBin b d a c (fun x y => x * y) s

/-- SSHL: the flags are unchanged (R115). -/
def execSshl (b : Bool) (d a c : BitVec 6) (s : State) : Out := scalarBin b d a c (fun x y => shiftLeft x (shiftCount y)) s

/-- SSHR: the flags are unchanged (R115). -/
def execSshr (b : Bool) (d a c : BitVec 6) (s : State) : Out := scalarBin b d a c (fun x y => shiftRight x (shiftCount y)) s

/-- SSAR: the flags are unchanged (R115). -/
def execSsar (b : Bool) (d a c : BitVec 6) (s : State) : Out := scalarBin b d a c (fun x y => shiftArith x (shiftCount y)) s

/-- SADD: sets the flags (R115). -/
def execSadd (b : Bool) (d a c : BitVec 6) (s : State) : Out :=
  teamInstr b 1 s (fun t =>
    let x := t.srd a.toNat
    let y := t.srd c.toNat
    (t.swr d.toNat (x + y)).setFlags (addFlags x y))

/-- SSUB: sets the flags (R115). -/
def execSsub (b : Bool) (d a c : BitVec 6) (s : State) : Out :=
  teamInstr b 1 s (fun t =>
    let x := t.srd a.toNat
    let y := t.srd c.toNat
    (t.swr d.toNat (x - y)).setFlags (subFlags x y))

/-- SCMP: sets the flags from sA - sC (R115). -/
def execScmp (b : Bool) (a c : BitVec 6) (s : State) : Out :=
  teamInstr b 1 s (fun t => t.setFlags (subFlags (t.srd a.toNat) (t.srd c.toNat)))

/-- SMOV (R115). -/
def execSmov (b : Bool) (d a : BitVec 6) (s : State) : Out :=
  teamInstr b 1 s (fun t => t.swr d.toNat (t.srd a.toNat))

/-- SADD64: pairs modulo 2^64; the flags from 64 bits (R115). -/
def execSadd64 (b : Bool) (d a c : BitVec 6) (s : State) : Out :=
  teamInstr b 1 s (fun t =>
    let x := t.srd64 a.toNat
    let y := t.srd64 c.toNat
    (t.swr64 d.toNat (x + y)).setFlags (addFlags x y))

/-- SADDI: sets the flags (R116). -/
def execSaddi (b : Bool) (d a : BitVec 6) (imm : BitVec 10) (s : State) : Out :=
  teamInstr b 1 s (fun t =>
    let x := t.srd a.toNat
    (t.swr d.toNat (x + immWord imm)).setFlags (addFlags x (immWord imm)))

/-- SANDI (R116). -/
def execSandi (b : Bool) (d a : BitVec 6) (imm : BitVec 10) (s : State) : Out := scalarImm b d a (fun x => x &&& immWord imm) s

/-- SORI (R116). -/
def execSori (b : Bool) (d a : BitVec 6) (imm : BitVec 10) (s : State) : Out := scalarImm b d a (fun x => x ||| immWord imm) s

/-- SXORI (R116). -/
def execSxori (b : Bool) (d a : BitVec 6) (imm : BitVec 10) (s : State) : Out := scalarImm b d a (fun x => x ^^^ immWord imm) s

/-- SSHLI (R116). -/
def execSshli (b : Bool) (d a : BitVec 6) (n : BitVec 5) (s : State) : Out := scalarImm b d a (fun x => shiftLeft x n.toNat) s

/-- SSHRI (R116). -/
def execSshri (b : Bool) (d a : BitVec 6) (n : BitVec 5) (s : State) : Out := scalarImm b d a (fun x => shiftRight x n.toNat) s

/-- SSARI (R116). -/
def execSsari (b : Bool) (d a : BitVec 6) (n : BitVec 5) (s : State) : Out := scalarImm b d a (fun x => shiftArith x n.toNat) s

/-- SMOVI (R116). -/
def execSmovi (b : Bool) (d : BitVec 6) (imm : BitVec 16) (s : State) : Out :=
  teamInstr b 1 s (fun t => t.swr d.toNat (immWord imm))

/-- SCMPI: sets the flags from sA - imm (R116). -/
def execScmpi (b : Bool) (a : BitVec 6) (imm : BitVec 10) (s : State) : Out :=
  teamInstr b 1 s (fun t => t.setFlags (subFlags (t.srd a.toNat) (immWord imm)))

/-- MOVX.s: the second word into a scalar (R85, R116). -/
def execMovxS (b : Bool) (d : BitVec 6) (imm : BitVec 32) (s : State) : Out :=
  teamInstr b 2 s (fun t => t.swr d.toNat imm)

/-- MOVX: the second word into the active lanes (R85, R116). -/
def execMovx (b : Bool) (d : BitVec 7) (imm : BitVec 32) (s : State) : Out :=
  if s.team.namesOk [d.toNat] then
    .next (s.withTeam (((s.team.belay b).wr d.toNat s.team.active (fun _ => imm)).advance 2))
  else .next (s.illegal (.movx b d imm))

end Sys2Proof.Machine
end

