-- ==== Sys2Proof/Machine/Dispatch.lean ====
section
/-! DEFINITION. One arm per constructor of the instruction type: its meaning, or the refusal of its name. -/

namespace Sys2Proof.Machine

def exec (i : Instr) (s : State) : Host.Outcome State Fault Refusal :=
  match i with
  | .add b d a c => Sys2Proof.Machine.execAdd b d a c s
  | .sub b d a c => Sys2Proof.Machine.execSub b d a c s
  | .mul b d a c => Sys2Proof.Machine.execMul b d a c s
  | .mulhi b d a c => Sys2Proof.Machine.execMulhi b d a c s
  | .mulhu b d a c => Sys2Proof.Machine.execMulhu b d a c s
  | .imad b d a c => Sys2Proof.Machine.execImad b d a c s
  | .min b d a c => Sys2Proof.Machine.execMin b d a c s
  | .max b d a c => Sys2Proof.Machine.execMax b d a c s
  | .minu b d a c => Sys2Proof.Machine.execMinu b d a c s
  | .maxu b d a c => Sys2Proof.Machine.execMaxu b d a c s
  | .and b d a c => Sys2Proof.Machine.execAnd b d a c s
  | .or b d a c => Sys2Proof.Machine.execOr b d a c s
  | .xor b d a c => Sys2Proof.Machine.execXor b d a c s
  | .andn b d a c => Sys2Proof.Machine.execAndn b d a c s
  | .shl b d a c => Sys2Proof.Machine.execShl b d a c s
  | .shr b d a c => Sys2Proof.Machine.execShr b d a c s
  | .sar b d a c => Sys2Proof.Machine.execSar b d a c s
  | .bfx b d a c => Sys2Proof.Machine.execBfx b d a c s
  | .bfxs b d a c => Sys2Proof.Machine.execBfxs b d a c s
  | .bfi b d a c => Sys2Proof.Machine.execBfi b d a c s
  | .popc b d a => Sys2Proof.Machine.execPopc b d a s
  | .clz b d a => Sys2Proof.Machine.execClz b d a s
  | .add64 b d a c => Sys2Proof.Machine.execAdd64 b d a c s
  | .sub64 b d a c => Sys2Proof.Machine.execSub64 b d a c s
  | .addi b d a imm => Sys2Proof.Machine.execAddi b d a imm s
  | .andi b d a imm => Sys2Proof.Machine.execAndi b d a imm s
  | .ori b d a imm => Sys2Proof.Machine.execOri b d a imm s
  | .xori b d a imm => Sys2Proof.Machine.execXori b d a imm s
  | .shli b d a n => Sys2Proof.Machine.execShli b d a n s
  | .shri b d a n => Sys2Proof.Machine.execShri b d a n s
  | .sari b d a n => Sys2Proof.Machine.execSari b d a n s
  | .movi b d imm => Sys2Proof.Machine.execMovi b d imm s
  | .cmpi b cc p a imm => Sys2Proof.Machine.execCmpi b cc p a imm s
  | .cmp b cc p a c => Sys2Proof.Machine.execCmp b cc p a c s
  | .fadd b d a c => Sys2Proof.Machine.execFadd b d a c s
  | .fsub b d a c => Sys2Proof.Machine.execFsub b d a c s
  | .fmul b d a c => Sys2Proof.Machine.execFmul b d a c s
  | .ffma b d a c => Sys2Proof.Machine.execFfma b d a c s
  | .fmin b d a c => Sys2Proof.Machine.execFmin b d a c s
  | .fmax b d a c => Sys2Proof.Machine.execFmax b d a c s
  | .fabs b d a => Sys2Proof.Machine.execFabs b d a s
  | .fneg b d a => Sys2Proof.Machine.execFneg b d a s
  | .padd b bf d a c => Sys2Proof.Machine.execPadd b bf d a c s
  | .psub b bf d a c => Sys2Proof.Machine.execPsub b bf d a c s
  | .pmul b bf d a c => Sys2Proof.Machine.execPmul b bf d a c s
  | .pfma b bf d a c => Sys2Proof.Machine.execPfma b bf d a c s
  | .pmin b bf d a c => Sys2Proof.Machine.execPmin b bf d a c s
  | .pmax b bf d a c => Sys2Proof.Machine.execPmax b bf d a c s
  | .fcmp b cc p a c => Sys2Proof.Machine.execFcmp b cc p a c s
  | .rcp b d a => Sys2Proof.Machine.execRcp b d a s
  | .rsq b d a => Sys2Proof.Machine.execRsq b d a s
  | .sqrt b d a => Sys2Proof.Machine.execSqrt b d a s
  | .ex2 b d a => Sys2Proof.Machine.execEx2 b d a s
  | .lg2 b d a => Sys2Proof.Machine.execLg2 b d a s
  | .sin b d a => Sys2Proof.Machine.execSin b d a s
  | .cos b d a => Sys2Proof.Machine.execCos b d a s
  | .fdiv b d a c => Sys2Proof.Machine.execFdiv b d a c s
  | .cvt b dst d a rnd sat src => Sys2Proof.Machine.execCvt b dst d a rnd sat src s
  | .shfl b d a c => Sys2Proof.Machine.execShfl b d a c s
  | .shflup b d a n => Sys2Proof.Machine.execShflup b d a n s
  | .shfldn b d a n => Sys2Proof.Machine.execShfldn b d a n s
  | .shflx b d a n => Sys2Proof.Machine.execShflx b d a n s
  | .bcast b d a m => Sys2Proof.Machine.execBcast b d a m s
  | .reda b d a o => Sys2Proof.Machine.execReda b d a o s
  | .freda b d a o => Sys2Proof.Machine.execFreda b d a o s
  | .scana b d a o ex => Sys2Proof.Machine.execScana b d a o ex s
  | .fscana b d a o ex => Sys2Proof.Machine.execFscana b d a o ex s
  | .vany b d p => Sys2Proof.Machine.execVany b d p s
  | .vall b d p => Sys2Proof.Machine.execVall b d p s
  | .ballot b d p j => Sys2Proof.Machine.execBallot b d p j s
  | .pand b d a c => Sys2Proof.Machine.execPand b d a c s
  | .por b d a c => Sys2Proof.Machine.execPor b d a c s
  | .pxor b d a c => Sys2Proof.Machine.execPxor b d a c s
  | .pnot b d a => Sys2Proof.Machine.execPnot b d a s
  | .pset b d a => Sys2Proof.Machine.execPset b d a s
  | .sadd b d a c => Sys2Proof.Machine.execSadd b d a c s
  | .ssub b d a c => Sys2Proof.Machine.execSsub b d a c s
  | .smul b d a c => Sys2Proof.Machine.execSmul b d a c s
  | .sand b d a c => Sys2Proof.Machine.execSand b d a c s
  | .sor b d a c => Sys2Proof.Machine.execSor b d a c s
  | .sxor b d a c => Sys2Proof.Machine.execSxor b d a c s
  | .sshl b d a c => Sys2Proof.Machine.execSshl b d a c s
  | .sshr b d a c => Sys2Proof.Machine.execSshr b d a c s
  | .ssar b d a c => Sys2Proof.Machine.execSsar b d a c s
  | .scmp b a c => Sys2Proof.Machine.execScmp b a c s
  | .smov b d a => Sys2Proof.Machine.execSmov b d a s
  | .sadd64 b d a c => Sys2Proof.Machine.execSadd64 b d a c s
  | .saddi b d a imm => Sys2Proof.Machine.execSaddi b d a imm s
  | .sandi b d a imm => Sys2Proof.Machine.execSandi b d a imm s
  | .sori b d a imm => Sys2Proof.Machine.execSori b d a imm s
  | .sxori b d a imm => Sys2Proof.Machine.execSxori b d a imm s
  | .sshli b d a n => Sys2Proof.Machine.execSshli b d a n s
  | .sshri b d a n => Sys2Proof.Machine.execSshri b d a n s
  | .ssari b d a n => Sys2Proof.Machine.execSsari b d a n s
  | .smovi b d imm => Sys2Proof.Machine.execSmovi b d imm s
  | .scmpi b a imm => Sys2Proof.Machine.execScmpi b a imm s
  | .movxS b d imm => Sys2Proof.Machine.execMovxS b d imm s
  | .movx b d imm => Sys2Proof.Machine.execMovx b d imm s
  | .sreadLane b d ix => Sys2Proof.Machine.execSreadLane b d ix s
  | .sreadScalar b d ix => Sys2Proof.Machine.execSreadScalar b d ix s
  | .swriteLane b ix c => Sys2Proof.Machine.execSwriteLane b ix c s
  | .swriteScalar b ix c => Sys2Proof.Machine.execSwriteScalar b ix c s
  | .wbase b k => Sys2Proof.Machine.execWbase b k s
  | .tpri b n => Sys2Proof.Machine.execTpri b n s
  | .bra b cc disp => Sys2Proof.Machine.execBra b cc disp s
  | .call b cc disp => Sys2Proof.Machine.execCall b cc disp s
  | .ret b => Sys2Proof.Machine.execRet b s
  | .jmpi b a => Sys2Proof.Machine.execJmpi b a s
  | .callx b a => Sys2Proof.Machine.execCallx b a s
  | .exit b => Sys2Proof.Machine.execExit b s
  | .nop b => Sys2Proof.Machine.execNop b s
  | .bar b n => Sys2Proof.Machine.execBar b n s
  | .barC b k n => Sys2Proof.Machine.execBarC b k n s
  | .barX b n => Sys2Proof.Machine.execBarX b n s
  | .barXC b k n => Sys2Proof.Machine.execBarXC b k n s
  | .ifMask b p => Sys2Proof.Machine.execIfMask b p s
  | .elseMask b => Sys2Proof.Machine.execElseMask b s
  | .endIf b => Sys2Proof.Machine.execEndIf b s
  | .loop b => Sys2Proof.Machine.execLoop b s
  | .breakMask b p => Sys2Proof.Machine.execBreakMask b p s
  | .contMask b p => Sys2Proof.Machine.execContMask b p s
  | .endLoop b => Sys2Proof.Machine.execEndLoop b s
  | .ld b q t d a sb => Sys2Proof.Machine.execLd b q t d a sb s
  | .ldOffset b q t d a sb off => Sys2Proof.Machine.execLdOffset b q t d a sb off s
  | .st b q t d a sb => Sys2Proof.Machine.execSt b q t d a sb s
  | .stOffset b q t d a sb off => Sys2Proof.Machine.execStOffset b q t d a sb off s
  | .ldp b w d a t r => Sys2Proof.Machine.execLdp b w d a t r s
  | .ldpOffset b w d a t r off => Sys2Proof.Machine.execLdpOffset b w d a t r off s
  | .stp b w d a t r => Sys2Proof.Machine.execStp b w d a t r s
  | .stpOffset b w d a t r off => Sys2Proof.Machine.execStpOffset b w d a t r off s
  | .lda b q t d a sb => Sys2Proof.Machine.execLda b q t d a sb s
  | .ldaOffset b q t d a sb off => Sys2Proof.Machine.execLdaOffset b q t d a sb off s
  | .atom b q d a sb op w nr c => Sys2Proof.Machine.execAtom b q d a sb op w nr c s
  | .sld b q w d sb => Sys2Proof.Machine.execSld b q w d sb s
  | .sldOffset b q w d sb off => Sys2Proof.Machine.execSldOffset b q w d sb off s
  | .sst b q w d sb => Sys2Proof.Machine.execSst b q w d sb s
  | .sstOffset b q w d sb off => Sys2Proof.Machine.execSstOffset b q w d sb off s
  | .fence b sc => Sys2Proof.Machine.execFence b sc s
  | .batch b d => Sys2Proof.Machine.execBatch b d s
  | .waitb b a => Sys2Proof.Machine.execWaitb b a s
  | .commit b a => Sys2Proof.Machine.execCommit b a s
  | .waitv b a c => Sys2Proof.Machine.execWaitv b a c s
  | .pref b l a c => Sys2Proof.Machine.execPref b l a c s
  | .fenceSmp b sc => Sys2Proof.Machine.execFenceSmp b sc s
  | .fenceMx b sc => Sys2Proof.Machine.execFenceMx b sc s
  | .cpy b d a c dir ord sw => Sys2Proof.Machine.execCpy b d a c dir ord sw s
  | .cpy2d b d a c dir ord sw => Sys2Proof.Machine.execCpy2d b d a c dir ord sw s
  | .cpyT b d a c dir ord sw => Sys2Proof.Machine.execCpyT b d a c dir ord sw s
  | .cpyFollowMma b b2 kind d a c ord sw sp md ma mc da db kg fbr => Sys2Proof.Machine.execCpyFollowMma b b2 kind d a c ord sw sp md ma mc da db kg fbr s
  | .put b d a c win tc ord dev => Sys2Proof.Machine.execPut b d a c win tc ord dev s
  | .get b d a c win tc ord dev => Sys2Proof.Machine.execGet b d a c win tc ord dev s
  | .psig b d a c win tc ord dev => Sys2Proof.Machine.execPsig b d a c win tc ord dev s
  | .smp b d a n k => Sys2Proof.Machine.execSmp b d a n k s
  | .smpL b d a n k => Sys2Proof.Machine.execSmpL b d a n k s
  | .smpG b d a c => Sys2Proof.Machine.execSmpG b d a c s
  | .attrf b d a c => Sys2Proof.Machine.execAttrf b d a c s
  | .attrb b d a c => Sys2Proof.Machine.execAttrb b d a c s
  | .cnvLin b d a => Sys2Proof.Machine.execCnvLin b d a s
  | .cnvQuad b d a => Sys2Proof.Machine.execCnvQuad b d a s
  | .cnvExpq b d a => Sys2Proof.Machine.execCnvExpq b d a s
  | .cnvLinK b d a imm => Sys2Proof.Machine.execCnvLinK b d a imm s
  | .cnvQuadK b d a imm => Sys2Proof.Machine.execCnvQuadK b d a imm s
  | .cnvExpqK b d a imm => Sys2Proof.Machine.execCnvExpqK b d a imm s
  | .cnvAdd b d a c => Sys2Proof.Machine.execCnvAdd b d a c s
  | .cnvSub b d a c => Sys2Proof.Machine.execCnvSub b d a c s
  | .cnvMul b d a c => Sys2Proof.Machine.execCnvMul b d a c s
  | .cnvFma b d a c => Sys2Proof.Machine.execCnvFma b d a c s
  | .cnvMin b d a c => Sys2Proof.Machine.execCnvMin b d a c s
  | .cnvMax b d a c => Sys2Proof.Machine.execCnvMax b d a c s
  | .cnvMov b d a => Sys2Proof.Machine.execCnvMov b d a s
  | .cnvMovScalar b d a => Sys2Proof.Machine.execCnvMovScalar b d a s
  | .cnvSfn b d a f => Sys2Proof.Machine.execCnvSfn b d a f s
  | .cnvCmp b d k a c t => Sys2Proof.Machine.execCnvCmp b d k a c t s
  | .cnvBlend b d a c => Sys2Proof.Machine.execCnvBlend b d a c s
  | .cnvZtest b a c => Sys2Proof.Machine.execCnvZtest b a c s
  | .cnvVis b d m => Sys2Proof.Machine.execCnvVis b d m s
  | .cnvClr b d => Sys2Proof.Machine.execCnvClr b d s
  | .cnvClrOnes b d => Sys2Proof.Machine.execCnvClrOnes b d s
  | .cnvClrVis b => Sys2Proof.Machine.execCnvClrVis b s
  | .cnvPush b k a c => Sys2Proof.Machine.execCnvPush b k a c s
  | .cnvElse b => Sys2Proof.Machine.execCnvElse b s
  | .cnvPop b => Sys2Proof.Machine.execCnvPop b s
  | .cnvAll b => Sys2Proof.Machine.execCnvAll b s
  | .cnvWin b a => Sys2Proof.Machine.execCnvWin b a s
  | .cnvMac b d a c => Sys2Proof.Machine.execCnvMac b d a c s
  | .cnvMacK b d a imm => Sys2Proof.Machine.execCnvMacK b d a imm s
  | .cnvRdl b d a c => Sys2Proof.Machine.execCnvRdl b d a c s
  | .cnvWrl b d a c => Sys2Proof.Machine.execCnvWrl b d a c s
  | .cnvLoad b d a => Sys2Proof.Machine.execCnvLoad b d a s
  | .cnvStore b d a => Sys2Proof.Machine.execCnvStore b d a s
  | .cnvRdlA b d a c => Sys2Proof.Machine.execCnvRdlA b d a c s
  | .cnvXsum b d => Sys2Proof.Machine.execCnvXsum b d s
  | .cnvXmap b d a m => Sys2Proof.Machine.execCnvXmap b d a m s
  | .cnvXclr b m => Sys2Proof.Machine.execCnvXclr b m s
  | .cnvSync b => Sys2Proof.Machine.execCnvSync b s
  | .cnvOrg b a c => Sys2Proof.Machine.execCnvOrg b a c s
  | .mma b d a c da db kg fbr => Sys2Proof.Machine.execMma b d a c da db kg fbr s
  | .mmaSp b d a c da db kg fbr => Sys2Proof.Machine.execMmaSp b d a c da db kg fbr s
  | .accClr b a => Sys2Proof.Machine.execAccClr b a s
  | .accProm b d a c => Sys2Proof.Machine.execAccProm b d a c s
  | .accLd b d a => Sys2Proof.Machine.execAccLd b d a s
  | .accSt b d a f sat => Sys2Proof.Machine.execAccSt b d a f sat s
  | .netv b d a c => Sys2Proof.Machine.execNetv b d a c s
  | .nets b d a c => Sys2Proof.Machine.execNets b d a c s
  | .tagRd b d a r => Sys2Proof.Machine.execTagRd b d a r s
  | .tagWr b a c => Sys2Proof.Machine.execTagWr b a c s
  | .tagChk b d a c => Sys2Proof.Machine.execTagChk b d a c s
  | .tileHdr b d a => Sys2Proof.Machine.execTileHdr b d a s
  | .recPush b a c => Sys2Proof.Machine.execRecPush b a c s
  | .recTry b d a c => Sys2Proof.Machine.execRecTry b d a c s
  | .nodeDone b a => Sys2Proof.Machine.execNodeDone b a s
  | .cancel b a => Sys2Proof.Machine.execCancel b a s
  | .qpass b => Sys2Proof.Machine.execQpass b s
  | .rsecIn b => Sys2Proof.Machine.execRsecIn b s
  | .rsecOut b => Sys2Proof.Machine.execRsecOut b s
  | .grace b => Sys2Proof.Machine.execGrace b s
  | .defer b a c => Sys2Proof.Machine.execDefer b a c s
  | .frameRel b e a c => Sys2Proof.Machine.execFrameRel b e a c s
  | .bankOpen b => Sys2Proof.Machine.execBankOpen b s
  | .bankDot b f l a c => Sys2Proof.Machine.execBankDot b f l a c s
  | .bankAxpy b f l a c => Sys2Proof.Machine.execBankAxpy b f l a c s
  | .bankScal b f l a c => Sys2Proof.Machine.execBankScal b f l a c s
  | .bankSum b f l a c => Sys2Proof.Machine.execBankSum b f l a c s
  | .bankMax b f l a c => Sys2Proof.Machine.execBankMax b f l a c s
  | .bankFill b f l a c => Sys2Proof.Machine.execBankFill b f l a c s
  | .bankCopy b f l a c => Sys2Proof.Machine.execBankCopy b f l a c s
  | .bankClose b w => Sys2Proof.Machine.execBankClose b w s
  | .bankWait b => Sys2Proof.Machine.execBankWait b s
  | .bankErr b d a c => Sys2Proof.Machine.execBankErr b d a c s
  | .ringRed b a => Sys2Proof.Machine.execRingRed b a s
  | .ringWait b a c => Sys2Proof.Machine.execRingWait b a c s
  | .trap b k c => Sys2Proof.Machine.execTrap b k c s
  | .rtt b => Sys2Proof.Machine.execRtt b s
  | .bkpt b k => Sys2Proof.Machine.execBkpt b k s
  | .halt b => Sys2Proof.Machine.execHalt b s
  | .ctxrd b d ix => Sys2Proof.Machine.execCtxrd b d ix s
  | .ctxwr b ix c => Sys2Proof.Machine.execCtxwr b ix c s
  | .wdog b => Sys2Proof.Machine.execWdog b s
  | .push ctx off bytes => Sys2Proof.Machine.execPush ctx off bytes s
  | .registerWrite ctx off bytes => Sys2Proof.Machine.execRegisterWrite ctx off bytes s
  | .nodeLaunch core ctx node => Sys2Proof.Machine.execNodeLaunch core ctx node s
  | .launchTimer ctx node => Sys2Proof.Machine.execLaunchTimer ctx node s
  | .crewEnd crew => Sys2Proof.Machine.execCrewEnd crew s
  | .quiescenceReport ctx job => Sys2Proof.Machine.execQuiescenceReport ctx job s
  | .barrierWatchdogExpiry crew => Sys2Proof.Machine.execBarrierWatchdogExpiry crew s
  | .terminationRecord ctx => Sys2Proof.Machine.execTerminationRecord ctx s
  | .terminateOnRequest ctx => Sys2Proof.Machine.execTerminateOnRequest ctx s
  | .teamWatchdogExpiry team => Sys2Proof.Machine.execTeamWatchdogExpiry team s
  | .issuePriorityAgeing team slot => Sys2Proof.Machine.execIssuePriorityAgeing team slot s
  | .preemptionRequest ctx => Sys2Proof.Machine.execPreemptionRequest ctx s
  | .preemptionHalt ctx => Sys2Proof.Machine.execPreemptionHalt ctx s
  | .contextSave ctx => Sys2Proof.Machine.execContextSave ctx s
  | .contextRestore ctx => Sys2Proof.Machine.execContextRestore ctx s
  | .contextResume ctx => Sys2Proof.Machine.execContextResume ctx s
  | .contextCreate ctx desc cregs cores => Sys2Proof.Machine.execContextCreate ctx desc cregs cores s
  | .contextDestroy ctx => Sys2Proof.Machine.execContextDestroy ctx s
  | .rigImageLoad ctx image bases csets => Sys2Proof.Machine.execRigImageLoad ctx image bases csets s
  | .weightStoreWrite ctx off bytes => Sys2Proof.Machine.execWeightStoreWrite ctx off bytes s
  | .windowRegister ctx win dev base size allowPut allowGet => Sys2Proof.Machine.execWindowRegister ctx win dev base size allowPut allowGet s
  | .windowRevoke ctx win => Sys2Proof.Machine.execWindowRevoke ctx win s
  | .hostCancel ctx job => Sys2Proof.Machine.execHostCancel ctx job s
  | .faultResolved team => Sys2Proof.Machine.execFaultResolved team s
  | .faultDeclined answer => Sys2Proof.Machine.execFaultDeclined answer s
  | .tlbShootdown ctx pa entry page => Sys2Proof.Machine.execTlbShootdown ctx pa entry page s
  | .pageWalk core ctx va => Sys2Proof.Machine.execPageWalk core ctx va s
  | .debugBreakpointSet ctx slot addr => Sys2Proof.Machine.execDebugBreakpointSet ctx slot addr s
  | .debugHalt team => Sys2Proof.Machine.execDebugHalt team s
  | .teamResume team => Sys2Proof.Machine.execTeamResume team s
  | .writeCombiningDrain core line => Sys2Proof.Machine.execWriteCombiningDrain core line s
  | .loadReturn team k => Sys2Proof.Machine.execLoadReturn team k s
  | .atomicExecute team => Sys2Proof.Machine.execAtomicExecute team s
  | .samplerFill core line => Sys2Proof.Machine.execSamplerFill core line s
  | .waitTableNotify core line => Sys2Proof.Machine.execWaitTableNotify core line s
  | .waitvPoll team => Sys2Proof.Machine.execWaitvPoll team s
  | .coreClockGate core => Sys2Proof.Machine.execCoreClockGate core s
  | .canvasExecute crew => Sys2Proof.Machine.execCanvasExecute crew s
  | .matrixArrayGroup core => Sys2Proof.Machine.execMatrixArrayGroup core s
  | .accComplete op => Sys2Proof.Machine.execAccComplete op s
  | .copyComplete op => Sys2Proof.Machine.execCopyComplete op s
  | .followMmaIssue op => Sys2Proof.Machine.execFollowMmaIssue op s
  | .ldaLand op lane => Sys2Proof.Machine.execLdaLand op lane s
  | .putComplete op => Sys2Proof.Machine.execPutComplete op s
  | .getComplete op bytes => Sys2Proof.Machine.execGetComplete op bytes s
  | .psigComplete op => Sys2Proof.Machine.execPsigComplete op s
  | .remoteAccess ctx kind va bytes => Sys2Proof.Machine.execRemoteAccess ctx kind va bytes s
  | .ringChunkWritten op chunk bytes => Sys2Proof.Machine.execRingChunkWritten op chunk bytes s
  | .ringComplete op => Sys2Proof.Machine.execRingComplete op s
  | .bankCommandFinish unit => Sys2Proof.Machine.execBankCommandFinish unit s
  | .bankRoundAck team => Sys2Proof.Machine.execBankRoundAck team s
  | .bankAgeing unit => Sys2Proof.Machine.execBankAgeing unit s
  | .bankRefresh unit bank => Sys2Proof.Machine.execBankRefresh unit bank s
  | .weightStoreRefreshSlot => Sys2Proof.Machine.execWeightStoreRefreshSlot s
  | .graceComplete ctx => Sys2Proof.Machine.execGraceComplete ctx s
  | .trimGovernorTick => Sys2Proof.Machine.execTrimGovernorTick s
  | .reefGovernorTick => Sys2Proof.Machine.execReefGovernorTick s
  | .frameRelease ctx => Sys2Proof.Machine.execFrameRelease ctx s
  | .fsyncPulseEnd => Sys2Proof.Machine.execFsyncPulseEnd s
  | .ppsOutputEdge => Sys2Proof.Machine.execPpsOutputEdge s
  | .ppsPulseEnd => Sys2Proof.Machine.execPpsPulseEnd s
  | .ppsInputEdge => Sys2Proof.Machine.execPpsInputEdge s
  | .fsyncInputEdge => Sys2Proof.Machine.execFsyncInputEdge s
  | .syncMessage m => Sys2Proof.Machine.execSyncMessage m s
  | .syncTimeout => Sys2Proof.Machine.execSyncTimeout s
  | .holdoverTimeout => Sys2Proof.Machine.execHoldoverTimeout s
  | .linkFailure port => Sys2Proof.Machine.execLinkFailure port s
  | .routeTableWrite dev port direct => Sys2Proof.Machine.execRouteTableWrite dev port direct s
  | .injectionArm col => Sys2Proof.Machine.execInjectionArm col s
  | .attestationReport nonce => Sys2Proof.Machine.execAttestationReport nonce s
  | .powerCapSet watts => Sys2Proof.Machine.execPowerCapSet watts s
  | .powerArbiterTick draw => Sys2Proof.Machine.execPowerArbiterTick draw s
  | .coolantLoss => Sys2Proof.Machine.execCoolantLoss s
  | .packageReset bootsel codes devid boot => Sys2Proof.Machine.execPackageReset bootsel codes devid boot s
  | .illegalInstruction w0 w1 => Sys2Proof.Machine.execIllegalInstruction w0 w1 s
  | .samplerDropComplete team => Sys2Proof.Machine.execSamplerDropComplete team s
  | .ctxwrPropagated ctx => Sys2Proof.Machine.execCtxwrPropagated ctx s
  | .cancelDrop ctx job node => Sys2Proof.Machine.execCancelDrop ctx job node s
  | .scStorePerformed team => Sys2Proof.Machine.execScStorePerformed team s
  | .partialSegment op chunk seg bytes => Sys2Proof.Machine.execPartialSegment op chunk seg bytes s
  | .forwardedFlit port dest flit => Sys2Proof.Machine.execForwardedFlit port dest flit s
  | .flitCrcFailure port => Sys2Proof.Machine.execFlitCrcFailure port s
  | .linkRetrain port => Sys2Proof.Machine.execLinkRetrain port s
  | .hostMemoryWrite ctx va bytes => Sys2Proof.Machine.execHostMemoryWrite ctx va bytes s

end Sys2Proof.Machine
end

