-- ==== Sys2Proof/Machine/Issue.lean ====
section
/-! DEFINITION. A team's issue: the issue slots and the parts of an instruction that they serve (04, R39, R49; 07, R93), breakpoints,
fetch and decode (06, R69, R70, R90; 22, R349), and the host's events. -/

namespace Sys2Proof.Machine

/-- A team is within an instruction: some of its parts have issued, or some lines of a sampler instruction have been gathered (R39, R94,
R239). -/
def Team.midway (t : Team) : Bool := !t.issued.isEmpty || t.sampling

/-- The team can issue: it is ready or in the active set, its dies run, its context runs, nothing halts it, and no sampler drop, watchdog
expiry or context-register write of it is under way (R41, R240, R334, R353, R394); or a halt or an expiry finds it within an instruction,
which it finishes (R94, R239, R334). -/
def State.canIssue (s : State) (t : Team) : Bool :=
  (t.state == .ready || t.state == .running) && t.dropping.isNone && !s.dev.diesGated
    && (match s.ctx? t.ctx with
        | some c => (c.state == .running && !t.halted && t.wdogDue.isNone && !c.oldRegs.any (fun r => r.team == t.key))
            || (t.midway && (c.state == .halted || c.state == .running))
        | none => false)

/-! ## Issue slots (R39, R49, R50) -/

/-- The major and SUB of a word. -/
abbrev majorOf (w : Word) : Nat := w.toNat / 2 ^ 25 % 64
abbrev subOf (w : Word) : Nat := w.toNat / 2 ^ 21 % 16

/-- BCAST with a scalar result, which issues once per team in slot X (R93). -/
def bcastScalar (w : Word) : Bool := majorOf w == 0x10 && subOf w == 4 && w.toNat % 128 == 2

/-- REDA, FREDA, SCANA and FSCANA, which issue in slot A strand by strand and then in slot X (R93). -/
def reduces (w : Word) : Bool := majorOf w == 0x10 && decide (5 ≤ subOf w)

/-- A form that issues strand by strand (R39, R93, R114, R147, R171, R239, R338). -/
def byStrand (w : Word) : Bool :=
  let m := majorOf w
  let k := subOf w
  (decide (1 ≤ m) && decide (m ≤ 0x10) && !bcastScalar w) || (m == 0x11 && decide (3 ≤ k)) || (m == 0x14 && k == 1) || (m == 0x15 && k % 2 == 0 && decide (k ≤ 2))
    || (decide (0x20 ≤ m) && decide (m ≤ 0x25)) || (m == 0x26 && k == 5) || m == 0x2A || m == 0x2B
    || (m == 0x34 && (k == 0 || k == 1 || k == 4)) || (m == 0x35 && k == 1) || m == 0x3A || (m == 0x3C && decide (k ≤ 1))

/-- A form that issues once per team, but in slot X where the execution mask is empty: copies, one-sided copies, tag forms, and those of
major 0x26 beside BATCH, WAITB and COMMIT (R39, R219, R240, R272, R280). -/
def onceUnlessEmpty (w : Word) : Bool :=
  let m := majorOf w
  m == 0x28 || m == 0x29 || m == 0x3B || (m == 0x26 && !(decide (1 ≤ subOf w) && decide (subOf w ≤ 3)))

/-- The slot of an instruction's class: 0 A, 1 F, 2 M, 3 X (R93 and the rules of the other forms).  DESIGN CHOICE: the forms of major
0x26, for which no rule names a slot, issue in M (log entry 10). -/
def slotOf (w : Word) : Nat :=
  let m := majorOf w
  let k := subOf w
  if (1 ≤ m ∧ m ≤ 0x0A) ∨ (m = 0x10 ∧ bcastScalar w = false) ∨ (m = 0x14 ∧ k = 1) then 0
  else if m = 0x0B ∨ m = 0x0C ∨ m = 0x0D ∨ m = 0x0F then 1
  else if (0x20 ≤ m ∧ m ≤ 0x2B) ∨ m = 0x3A ∨ m = 0x3B ∨ (m = 0x3C ∧ k ≤ 1) ∨ (m = 0x3D ∧ k ≤ 0xA) then 2
  else 3

/-- A part of an instruction: a strand-instruction by its strand, the second part of a reduction (32), or an issue once for the team (33);
with its core and its slot, 4 times the partition plus the class. -/
structure Part where
  id : Nat
  core : Nat
  slot : Nat
  deriving DecidableEq, Repr

/-- The parts of an instruction of a team by its first word, in the order in which one slot serves them: a strand-instruction for every
strand with an active lane, each in its partition; an MMA in that of the lowest active lane's strand; another form once in the base
partition, in slot X where the mask is empty and the form does nothing then (R38, R39, R93, R219). -/
def Team.parts (t : Team) (w : Crew) (word : Word) : List Part :=
  let strands := ((t.active).map (fun l => l / 32)).eraseDups
  let base := fun (c : Nat) => (⟨33, w.coreOf t 0, t.part % 4 * 4 + c⟩ : Part)
  let at' := fun (c j : Nat) => (⟨j, w.coreOf t j, (t.part + j) % 4 * 4 + c⟩ : Part)
  if majorOf word = 0x38 then [((strands.head?).map (at' 3)).getD (base 3)]
  else if byStrand word then
    if strands.isEmpty then [base 3] else strands.map (at' (slotOf word)) ++ (if reduces word then [{ base 3 with id := 32 }] else [])
  else if onceUnlessEmpty word && strands.isEmpty then [base 3]
  else [base (slotOf word)]

/-- The first word of the selected team's next instruction; 0 where it cannot be fetched. -/
def State.nextWord (s : State) : Word :=
  match s.fetchWord (s.crew.coreOf s.team 0) s.team.pc.toNat with
  | .ok w => w
  | .error _ => 0

/-- The parts of a team's instruction that have not issued. -/
def State.partsLeft (s : State) (k : Nat) : List Part :=
  let s := s.select k
  (s.team.parts s.crew s.nextWord).filter (fun p => !s.team.issued.contains p.id)

/-- The parts that can issue now: the second part of a reduction only after the others. -/
def offered (ps : List Part) : List Part := ps.filter (fun p => p.id != 32 || ps.length == 1)

/-- The number of a slot of a core. -/
def slotKey (core slot : Nat) : Nat := core * 16 + slot

/-- The lane registers that the fields of an instruction name, for the majors of plain forms, the scratchpad accesses and the canvas forms
(R72, R73, R74, R269). -/
def laneFields (w0 w1 : Word) : List Nat :=
  let m := majorOf w0
  let k := subOf w0
  let f := fun (low : Nat) => w0.toNat / 2 ^ low % 128
  let three := [f 14, f 7, f 0]
  let two := [f 14, f 7]
  if m = 0x01 ∨ m = 0x0C then three
  else if m = 0x02 then (if k = 0xA ∨ k = 0xB then two else three)
  else if 0x03 ≤ m ∧ m ≤ 0x07 then [f 18, f 11]
  else if m = 0x08 then [f 18]
  else if m = 0x09 then [f 11]
  else if m = 0x0A ∨ m = 0x0D then [f 7, f 0]
  else if m = 0x0B then (if k = 6 ∨ k = 7 then two else three)
  else if m = 0x0E then (if k = 7 then three else two)
  else if m = 0x0F then two
  else if m = 0x10 then
    (if k = 0 then three else if k ≠ 4 then two else if w0.toNat % 4 = 1 then [f 14] else if w0.toNat % 4 = 2 then [f 7] else two)
  else if m = 0x11 then (if k = 7 then [f 7] else [])
  else if m = 0x14 then (if k = 1 then [f 14] else [])
  else if m = 0x15 then (if k = 0 then [f 14] else if k = 2 then [f 0] else [])
  else if m = 0x18 then (if k = 2 then [f 7] else [])
  else if 0x20 ≤ m ∧ m ≤ 0x24 then [f 13, f 6]
  else if m = 0x25 then [f 13, f 6, w1.toNat % 128]
  else if m = 0x34 then (if k = 0 ∨ k = 4 then [f 14] else if k = 1 then [f 7] else [])
  else if m = 0x35 then (if k = 1 then [f 14] else [])
  else []

/-- The lane registers that an instruction names, with the upper ones of the pairs that it may name (R73, R74). -/
def Team.named (t : Team) (w0 w1 : Word) : List Nat :=
  let pairs := (majorOf w0 = 0x02 ∧ 0xC ≤ subOf w0) ∨ (0x20 ≤ majorOf w0 ∧ majorOf w0 ≤ 0x25)
  (laneFields w0 w1).flatMap (fun n => if pairs then [t.phys n, t.phys (n + 1)] else [t.phys n])

/-- LDP and STP of the register image, which reach every register of the team (R64). -/
def ofImage (w : Word) : Bool := (majorOf w == 0x22 || majorOf w == 0x23) && w.toNat / 4 % 2 == 1

/-- A canvas form of a team with an empty execution mask waits for nothing (R147). -/
def Team.idleCanvasForm (t : Team) (w : Word) : Bool := decide (0x30 ≤ majorOf w) && decide (majorOf w ≤ 0x35) && t.active.isEmpty

/-- A core instruction beside EXIT and SWRITE, or a global access, which may issue beside an outstanding result that it does not name. -/
def plainForm (w : Word) : Bool :=
  let m := majorOf w
  (decide (1 ≤ m) && decide (m ≤ 0x19) && !(m == 0x18 && subOf w == 3) && !(m == 0x15 && (subOf w == 2 || subOf w == 3)))
    || m == 0x20 || m == 0x21 || m == 0x24 || m == 0x25 || m == 0x27

/-- An instruction that may issue while an ATOM of its team, without .acq, has not executed: it names none of the registers that receive
an old value, which are interlocked, and is a core instruction beside EXIT and SWRITE, a global access, or a copy without an MMA (R51,
R270, R285).  Every other instruction waits.  DEDUCED (log entry 18). -/
def State.passesAtomics (s : State) (w0 w1 : Word) : Bool :=
  let m := majorOf w0
  let mine := s.atomics.filter (fun a => a.team == s.team.key)
  let copies := (m == 0x28 && !followsMma w0 w1) || m == 0x29
  s.team.idleCanvasForm w0 || mine.all (fun a => !a.acq
    && (copies || (plainForm w0 && (a.nr || !(s.team.named w0 w1).any (fun r => r == a.key / 1024 || (a.wide && r == a.key / 1024 + 1))))))

/-- An instruction that may issue while a canvas instruction of its team that writes registers has not executed: it names no lane
register that CNV.RDL or CNV.XMAP is to write, while CNV.XSUM is to write a scalar it is a lane form without scalars, and it does not reach
the register image (R51, R64, R127, R129, R160).  DEDUCED (log entry 18). -/
def State.passesCanvas (s : State) (w0 w1 : Word) : Bool :=
  let m := majorOf w0
  let pad := (m == 0x22 || m == 0x23) && !ofImage w0
  let lanes := fun (keys : List Nat) =>
    (plainForm w0 || pad || (decide (0x30 ≤ m) && decide (m ≤ 0x35))) && !(s.team.named w0 w1).any (fun r => keys.contains r)
  s.team.idleCanvasForm w0 || (s.crew.canvas.queue.filter (fun q => q.team == s.team.index)).all (fun q =>
    match q.op with
    | .rdl _ cells => lanes (cells.map (fun e => e.2 / 1024))
    | .xmap _ words => lanes (words.map (fun e => e.2 / 1024))
    | .xsum _ => (decide (1 ≤ m) && decide (m ≤ 0x0F)) || pad
    | _ => true)

/-- The selected team's next instruction waits for a result that is interlocked. -/
def State.heldBack (s : State) : Bool :=
  match s.fetch (s.crew.coreOf s.team 0) s.team.pc.toNat with
  | .fail _ _ => false
  | .words w0 w1 _ _ _ => !(s.passesAtomics w0 w1 && s.passesCanvas w0 w1)

/-- A team's number in the turn of a slot.  DESIGN CHOICE: the turn goes by home core and TEAMID (log entry 10). -/
def State.turnOf (s : State) (t : Team) : Nat := ((s.crew? t.crew).map (fun w => w.core)).getD 0 * 1024 + t.teamid

/-- What the issue of a team comes to: the instruction that runs with the state in which it runs, words that are no instruction, or a
state that is reached without one. -/
inductive Issued where
  | run (i : Instr) (s : State)
  | illegal (w0 w1 : Word) (s : State)
  | wait (s : State)
  | nothing
  deriving DecidableEq, Repr

/-! ## The host -/

/-- An event that comes from outside the package's cores: from the host, Renano, the masthead kernel, the pins, the links or the
management port.  No other instruction is taken from the inbox. -/
def Instr.fromOutside : Instr → Bool
  | .push _ _ _ => true
  | .registerWrite _ _ _ => true
  | .terminateOnRequest _ => true
  | .preemptionRequest _ => true
  | .contextSave _ => true
  | .contextRestore _ => true
  | .contextResume _ => true
  | .contextCreate _ _ _ _ => true
  | .contextDestroy _ => true
  | .rigImageLoad _ _ _ _ => true
  | .weightStoreWrite _ _ _ => true
  | .windowRegister _ _ _ _ _ _ _ => true
  | .windowRevoke _ _ => true
  | .hostCancel _ _ => true
  | .faultResolved _ => true
  | .faultDeclined _ => true
  | .tlbShootdown _ _ _ _ => true
  | .pageWalk _ _ _ => true
  | .debugBreakpointSet _ _ _ => true
  | .debugHalt _ => true
  | .teamResume _ => true
  | .getComplete _ _ => true
  | .remoteAccess _ _ _ _ => true
  | .ringChunkWritten _ _ _ => true
  | .partialSegment _ _ _ _ => true
  | .bankRefresh _ _ => true
  | .weightStoreRefreshSlot => true
  | .ppsInputEdge => true
  | .fsyncInputEdge => true
  | .syncMessage _ => true
  | .syncTimeout => true
  | .linkFailure _ => true
  | .routeTableWrite _ _ _ => true
  | .injectionArm _ => true
  | .attestationReport _ => true
  | .powerCapSet _ => true
  | .coolantLoss => true
  | .packageReset _ _ _ _ => true
  | .forwardedFlit _ _ _ => true
  | .flitCrcFailure _ => true
  | .linkRetrain _ => true
  | .hostMemoryWrite _ _ _ => true
  | _ => false

/-- The first event of the inbox is taken. -/
def State.takeHost (s : State) : Issued :=
  match s.inbox with
  | [] => .nothing
  | i :: rest => if Instr.fromOutside i then .run i { s with inbox := rest } else .wait { s with inbox := rest }

/-! ## Issue -/

/-- Parts of a team's instruction issue at their slots: the team's waits there start again, it is the last served there, and the slots
serve nothing else in this clock (R49, R50). -/
def State.serve (s : State) (k : Nat) (ps : List Part) : State :=
  let turn := ((s.team? k).map s.turnOf).getD 0
  let keys := ps.map (fun p => slotKey p.core p.slot)
  let s := s.modTeam k (fun t =>
    { t with slotWait := t.slotWait.filter (fun x => !keys.contains x.1), aged := t.aged.filter (fun x => !keys.contains x) })
  let s := ps.foldl (fun s p => s.modCore p.core (fun q => { q with served := assocPut q.served p.slot turn })) s
  { s with slotsBusy := ps.map (fun p => (p.core, p.slot)) ++ s.slotsBusy }

/-- A team is selected for issue, with the parts of its instruction that have issued by then: it is in the active set, and its cores' clocks
run (R41, R49, R257). -/
def State.enter (s : State) (k : Nat) (ps : List Part) (issued : List Nat) (now : Bool) : State :=
  let s := ((s.serve k ps).makeRoom k).select k
  let s := s.withTeam { s.team with state := .running, issued := issued, issuedNow := now }
  s.crew.cores.foldl (fun s core => if (s.core core).gated then s.modCore core (fun q => { q with gated := false }) else s) s

/-- A team whose instruction issues whole: every part of it that is left. -/
def State.entering (s : State) (k : Nat) : State := s.enter k (s.partsLeft k) [] true

/-- The debugger's breakpoint at the team's instruction, which it has neither just taken nor begun (R329, R349). -/
def State.breakpoint (s : State) : Option Nat :=
  if s.team.skipBreak || s.team.sampling then none else (s.ctx.breaks.find? (fun e => e.2 == s.team.pc.toNat)).map (fun e => e.1)

/-- The trap of a debugger breakpoint; its RTT does not match it again (R349). -/
def State.breakTrap (s : State) (slot : Nat) : State :=
  let s' := s.trapHere 0x11 (BitVec.ofNat 64 (2 ^ 15 + slot % 4))
  if s.team.trap.mode = false ∧ s'.team.trap.mode = true then s'.withTeam { s'.team with trap := { s'.team.trap with brk := true } } else s'

/-- A fetch that fails: cause 0x05, or the park on causes 0x04 and 0x06 (R70, R252). -/
def State.fetchFault (s : State) (cause va : Nat) : State :=
  if cause = 0x05 then s.vaTrap 0x05 0 va else s.parkFault [⟨0, va, cause, Access.fetch.code⟩]

/-- The words that the issuing team has fetched, decoded (R70, R90). -/
def State.decoded (s : State) (w0 w1 w2 w3 : Word) : Issued :=
  match decodeWords w0 w1 w2 w3 with
  | .ok i => .run i s
  | .error _ => .illegal w0 w1 s

/-- The issue of the selected team; an instruction that a result which it waits for holds back waits at issue. -/
def State.issueSelected (s : State) : Issued :=
  match s.breakpoint with
  | some slot => .wait (s.breakTrap slot)
  | none =>
    match s.fetch (s.crew.coreOf s.team 0) s.team.pc.toNat with
    | .fail cause va => .wait (s.fetchFault cause va)
    | .words w0 w1 w2 w3 len =>
      if s.passesAtomics w0 w1 && s.passesCanvas w0 w1 then
        (s.fetched (s.crew.coreOf s.team 0) s.team.pc.toNat len).decoded w0 w1 w2 w3
      else .wait s

/-- The issue of all that is left of a team's instruction: the instruction runs. -/
def State.issue (s : State) (k : Nat) : Issued :=
  let s' := s.entering k
  if s'.team.key = k ∧ s'.team.state ≠ .free then s'.issueSelected else .nothing

/-- The issue of a part of a team's instruction at a slot of a core: with its last part the instruction runs; a breakpoint or a fetch that
fails stops it at its first (R39, R94, R349). -/
def State.issuePart (s : State) (k core slot : Nat) : Issued :=
  let left := s.partsLeft k
  match (offered left).find? (fun p => p.core == core && p.slot == slot) with
  | none => .nothing
  | some p =>
    let whole := s.enter k [p] [] true
    if left.length ≤ 1 ∨ whole.breakpoint.isSome = true then whole.issueSelected
    else
      let begun := (((s.team? k).map (fun t => t.issued)).getD []) ++ [p.id]
      .wait (s.enter k [p] begun false)

end Sys2Proof.Machine
end

