-- ==== Sys2Proof/Machine/Sched.lean ====
section
/-! DEFINITION. What can happen next: the events of the host and the masthead that wait, the device's own events that are due, and
the teams that the issue slots serve (04, R39, R41, R49, R50).  Where several can, the choice is free; what falls due at a time comes before
everything else, and in each clock every slot with a ready team serves one before the clock ends (log entries 7 and 10). -/

namespace Sys2Proof.Machine

/-! ## Acts -/

/-- A thing that can happen next; `issue` is the issue of all that is left of a team's instruction, `part` of its part at a slot of a
core. -/
inductive Act where
  | host
  | issue (team : Nat)
  | part (team core slot : Nat)
  | launchTimer (ctx node : Nat)
  | nodeLaunch (core ctx node : Nat)
  | crewEnd (crew : Nat)
  | quiescenceReport (ctx job : Nat)
  | barrierWatchdog (crew : Nat)
  | terminationRecord (ctx : Nat)
  | teamWatchdog (team : Nat)
  | ageing (team slot : Nat)
  | halt (ctx : Nat)
  | request (ctx : Nat) (r : Request)
  | drain (core line : Nat)
  | loadReturn (team k : Nat)
  | atomic (team : Nat)
  | samplerFill (core line : Nat)
  | notify (core line : Nat)
  | poll (team : Nat)
  | gate (core : Nat)
  | canvas (crew : Nat)
  | array (core : Nat)
  | acc (op : Nat)
  | copy (op : Nat)
  | follow (op : Nat)
  | land (op lane : Nat)
  | remoteUnit (op u : Nat)
  | put (op : Nat)
  | get (op : Nat)
  | psig (op : Nat)
  | ring (op : Nat)
  | bankFinish (unit : Nat)
  | bankAck (team : Nat)
  | bankAgeing (unit : Nat)
  | grace (ctx : Nat)
  | trim
  | reef
  | power
  | release (ctx : Nat)
  | fsyncEnd
  | ppsEdge
  | ppsEnd
  | holdover
  | samplerDrop (team : Nat)
  | ctxwr (ctx : Nat)
  | cancelDrop (ctx job node : Nat)
  | scStore (team : Nat)
  | takeRegs (ctx core : Nat)
  | retry (ctx : Nat)
  | spillBin (ctx : Nat) (out : Bool)
  | cannotMap (ctx va : Nat)
  | shootdown (ctx : Nat)
  | ringSend (op chunk : Nat)
  | ringJoin (op chunk seg : Nat)
  deriving DecidableEq, Repr

/-- What an act of the device does: the meaning of its event. -/
def Act.run : Act → State → Out
  | .host, s => .next s
  | .issue _, s => .next s
  | .part _ _ _, s => .next s
  | .launchTimer ctx node, s => execLaunchTimer ctx node s
  | .nodeLaunch core ctx node, s => execNodeLaunch core ctx node s
  | .crewEnd crew, s => execCrewEnd crew s
  | .quiescenceReport ctx job, s => execQuiescenceReport ctx job s
  | .barrierWatchdog crew, s => execBarrierWatchdogExpiry crew s
  | .terminationRecord ctx, s => execTerminationRecord ctx s
  | .teamWatchdog team, s => execTeamWatchdogExpiry team s
  | .ageing team slot, s => execIssuePriorityAgeing team slot s
  | .halt ctx, s => execPreemptionHalt ctx s
  | .request ctx .destroy, s => execContextDestroy ctx s
  | .request ctx .save, s => execContextSave ctx s
  | .request ctx .restore, s => execContextRestore ctx s
  | .drain core line, s => execWriteCombiningDrain core line s
  | .loadReturn team k, s => execLoadReturn team k s
  | .atomic team, s => execAtomicExecute team s
  | .samplerFill core line, s => execSamplerFill core line s
  | .notify core line, s => execWaitTableNotify core line s
  | .poll team, s => execWaitvPoll team s
  | .gate core, s => execCoreClockGate core s
  | .canvas crew, s => execCanvasExecute crew s
  | .array core, s => execMatrixArrayGroup core s
  | .acc op, s => execAccComplete op s
  | .copy op, s => execCopyComplete op s
  | .follow op, s => execFollowMmaIssue op s
  | .land op lane, s => execLdaLand op lane s
  | .remoteUnit op u, s => .next (s.remoteStep op u)
  | .put op, s => execPutComplete op s
  | .get op, s => execGetComplete op [] s
  | .psig op, s => execPsigComplete op s
  | .ring op, s => execRingComplete op s
  | .bankFinish unit, s => execBankCommandFinish unit s
  | .bankAck team, s => execBankRoundAck team s
  | .bankAgeing unit, s => execBankAgeing unit s
  | .grace ctx, s => execGraceComplete ctx s
  | .trim, s => execTrimGovernorTick s
  | .reef, s => execReefGovernorTick s
  | .power, s => execPowerArbiterTick (Config.freeId s.tick) s
  | .release ctx, s => execFrameRelease ctx s
  | .fsyncEnd, s => execFsyncPulseEnd s
  | .ppsEdge, s => execPpsOutputEdge s
  | .ppsEnd, s => execPpsPulseEnd s
  | .holdover, s => execHoldoverTimeout s
  | .samplerDrop team, s => execSamplerDropComplete team s
  | .ctxwr ctx, s => execCtxwrPropagated ctx s
  | .cancelDrop ctx job node, s => execCancelDrop ctx job node s
  | .scStore team, s => execScStorePerformed team s
  | .takeRegs ctx core, s => .next (s.takeRegs ctx core)
  | .retry ctx, s => .next ((s.takeRig ctx).spillCastOffs ctx)
  | .spillBin ctx out, s => .next (s.spillBin ctx out)
  | .cannotMap ctx va, s => .next (s.cannotMap ctx va)
  | .shootdown ctx, s => .next (s.shootdown ctx)
  | .ringSend op chunk, s => .next (s.ringSend op chunk)
  | .ringJoin op chunk seg, s => .next (s.ringJoin op chunk seg)

/-! ## What is due at a time -/

/-- A context's first release that it can perform. -/
def Context.dueRelease (c : Context) : Option Release :=
  if c.state = .running ∨ c.state = .halted then firstRelease c.releases else none

/-- Clocks within which an accepted pre-emption request halts its context (R332). -/
def haltBound : Nat := 400

/-- The clock at which a node's launch timer makes it ready (R306). -/
def Context.timerAt (c : Context) (n : Nat) : Option Nat :=
  match c.nodes[n]?, (c.bin n).head? with
  | some e, some r => if e.timer = 0 ∨ n ∈ c.fired then none else some (Nat.max r.entered (c.timers.getD n 0) + e.timer)
  | _, _ => none

/-- The launch timers of the contexts that run: context, node and clock. -/
def State.launchTimers (s : State) : List (Nat × Nat × Nat) :=
  (s.allCtxs.filter (fun c => c.state == .running)).flatMap (fun c =>
    (List.range c.nodes.length).filterMap (fun n => (c.timerAt n).map (fun k => (c.key, n, k))))

/-- A context's accepted pre-emption requests that its halt has still to meet (R332). -/
def State.halting (s : State) : List Context := s.allCtxs.filter (fun c => c.preemptAsked && c.state == .running)

/-- The crews whose barrier watchdog counts (R28). -/
def State.watched (s : State) : List Crew :=
  s.allCrews.filter (fun w => ((s.ctx? w.ctx).map (fun c => c.state == .running)).getD false && (s.firstWaiting w.key).isSome)

/-- A team's watchdog has expired and the team is at an instruction boundary: cause 0x13 is delivered; an expiry in the clock of an
accepted pre-emption request waits for the restore (R334). -/
def State.expired (s : State) (t : Team) : Bool :=
  match t.wdogDue, s.ctx? t.ctx with
  | some (_, k), some c => c.state == .running && !t.halted && !t.midway && !(c.preemptAsked && c.haltClock == k)
  | _, _ => false

/-- The teams of a context of whose instruction some parts have issued: a halt waits until the others have (R94). -/
def State.sweeping (s : State) (ck : Nat) : List Nat :=
  (s.allTeams.filter (fun t => t.ctx == ck && !t.issued.isEmpty && s.canIssue t)).map (fun t => t.key)

/-- A barrier watchdog of a context expires in this clock (R28). -/
def State.barrierDue (s : State) (ck : Nat) : Bool := s.watched.any (fun w => w.ctx == ck && decide (w.wdPeriod ≤ w.wdCount))

/-- What the bound of a halt makes due: what is left of the instructions that have begun, then the halt itself; where a barrier watchdog
reaches its period in the same clock, what the clock makes of that comes first (R28, R43, R94, R332). -/
def State.haltActs (s : State) (c : Context) : List Act :=
  if s.barrierDue c.key then []
  else
    match s.sweeping c.key with
    | [] => [.halt c.key]
    | ks => ks.map Act.issue

/-- The acts that complete a PUT or PSIG that has reached its bound: its own, or the completion of an earlier one that it waits for
(R281, R373). -/
def State.boundActs (s : State) : List Act :=
  (s.ops.filter (fun o => ((s.remoteDue o).map (fun k => decide (k ≤ s.dev.clock))).getD false)).map (fun o =>
    let x := match o.work with | .remote _ a => ((s.remoteBefore o a).head?).getD o | _ => o
    match x.work with | .remote 2 _ => Act.psig x.id | _ => Act.put x.id)

/-- The acts that fall due now: they come before anything else, and before time passes; of several the first is a free choice (R7, log
entry 7). -/
def State.dueNow (s : State) : List Act :=
  let d := s.dev
  let t := d.time
  List.flatten [
    (if t.fsyncOut && ((t.fsyncRose.map (fun r => decide (r + 1000 ≤ d.dtime))).getD false) then [Act.fsyncEnd] else []),
    (if t.ppsOut && decide (t.ppsRose + 10000000 ≤ d.dtime) then [.ppsEnd] else []),
    (if d.ppsDue then [.ppsEdge] else []),
    (if t.disc == .holdover && decide (t.heldSince + 10000000000 ≤ d.dtime) then [.holdover] else []),
    (s.allCtxs.filter (fun c => (c.dueRelease.map (fun r => decide (r.time ≤ d.dtime))).getD false)).map (fun c => .release c.key),
    (s.halting.filter (fun c => decide (c.haltClock + haltBound ≤ d.clock))).flatMap s.haltActs,
    (s.allTeams.filter (fun t => s.expired t && !s.barrierDue t.ctx)).map (fun t => .teamWatchdog t.key),
    (((s.bankCmds.filter (fun c => !c.aged && decide (c.queued + bankLimit ≤ d.clock))).map (fun c => c.unit)).eraseDups).map (fun u => .bankAgeing u),
    (s.launchTimers.filter (fun x => decide (x.2.2 ≤ d.clock))).map (fun x => .launchTimer x.1 x.2.1),
    s.allTeams.flatMap (fun t => (t.agesAt).map (fun k => Act.ageing t.key k)),
    s.boundActs,
    (if d.lastTrim + 1000 ≤ d.dtime then [.trim] else []),
    (if d.lastReef + 1000 ≤ d.dtime then [.reef] else []),
    (if d.lastPower + 1000 ≤ d.dtime then [.power] else [])]

/-- What falls due at the end of this clock: the barrier watchdogs whose counters have reached their periods.  An arrival or an exit that
issues in the clock comes before them, and where it completes the barrier there is no expiry (R28); one that parks restarts the counter too
(log entry 7). -/
def State.clockDue (s : State) : List Act := (s.watched.filter (fun w => decide (w.wdPeriod ≤ w.wdCount))).map (fun w => .barrierWatchdog w.key)

/-! ## What can happen -/

/-- A team that could issue is not ready in this clock: a result, a fetch or a memory structure makes it wait.  Which teams are is timing,
and free (R7, R93, log entry 10). -/
def State.stalled (s : State) (t : Team) : Bool := Config.freeBool (s.dev.clock * 2 ^ 80 + 16 * 2 ^ 72 + t.key)

/-- What the power arbiter withholds of this clock from a core: nothing, the clock of matrix issue and slot X (1), or that of other slots
too (2).  How much it withholds is timing, and free (R400, log entry 10). -/
def State.withheld (s : State) (core : Nat) : Nat :=
  if s.dev.withheld then Config.freeChoice (s.dev.clock * 2 ^ 80 + 17 * 2 ^ 72 + core) % 3 else 0

/-- The power arbiter gates a slot for a part of a team's instruction: slot X first, and never the rest of a sweep that a pre-emption halt waits
for (R332, R400). -/
def State.gatedAt (s : State) (t : Team) (p : Part) : Bool :=
  !(!t.issued.isEmpty && ((s.ctx? t.ctx).map (fun c => c.preemptAsked)).getD false)
    && (if p.slot % 4 = 3 then decide (1 ≤ s.withheld p.core)
        else s.withheld p.core == 2 && Config.freeBool (s.dev.clock * 2 ^ 80 + 18 * 2 ^ 72 + slotKey p.core p.slot))

/-- The teams that can issue at the issue slots; one within a sampler instruction goes on with its lines beside them (R239). -/
def State.issuers (s : State) : List Team := s.allTeams.filter (fun t => s.canIssue t && !t.sampling)

/-- A team is ready in this clock. -/
def State.readyNow (s : State) (t : Team) : Bool := !t.issuedNow && !s.stalled t && !(s.select t.key).heldBack

/-- What a fetched instruction does: `exec` of it. -/
def runFetched (s : State) : Issued → Out
  | .illegal w0 w1 s' => execIllegalInstruction w0 w1 s'
  | .wait s' => .next s'
  | .run i s' => exec i s'
  | .nothing => .next s

/-- The instruction of a team would wait at issue, for a full queue, a full buffer, a full canvas, a fence or a ninth FRAME.REL: it does
not issue, and no slot serves it (R49, R333). -/
def State.waitsAtIssue (s : State) (k : Nat) : Bool :=
  match runFetched s (s.issue k) with
  | .next t => t.team.key == k && !t.team.issuedNow
  | _ => false

/-- A part of a team's instruction that is ready at a slot: the team with its number in the turn, its crew and index, the core and the slot,
its effective priority there, and the rank of the instruction among those that take effect in a fixed order within a clock: a canvas
instruction's by team index, that of a GRACE or DEFER by core and team slot (R49, R138, R343). -/
structure Contender where
  team : Nat
  turn : Nat
  crew : Nat
  core : Nat
  slot : Nat
  priority : Nat
  canvas : Option Nat
  grace : Option Nat
  deriving DecidableEq, Repr

/-- GRACE and DEFER, which close a generation (R298, R343). -/
def closesGeneration (w : Word) : Bool := majorOf w == 0x3C && (subOf w == 7 || subOf w == 8)

/-- The parts of a team's instruction as contenders for their slots, where the power arbiter does not gate them. -/
def State.contend (s : State) (t : Team) : List Contender :=
  let w := (s.select t.key).nextWord
  let m := majorOf w
  ((offered (s.partsLeft t.key)).filter (fun p => !s.gatedAt t p)).map (fun p =>
    ⟨t.key, s.turnOf t, t.crew, p.core, p.slot, t.priority (slotKey p.core p.slot), if 0x30 ≤ m ∧ m ≤ 0x35 then some t.index else none,
      if closesGeneration w = true then some (p.core * 64 + t.slot.toNat) else none⟩)

/-- What is ready at the slots in this clock, whether or not it would wait at issue there. -/
def State.contenders (s : State) : List Contender := (s.issuers.filter s.readyNow).flatMap s.contend

/-- The contender that a slot serves: of those of the highest effective priority the one that follows the team served last (R49). -/
def State.winner (s : State) (core slot : Nat) (xs : List Contender) : Option Contender :=
  let mine := xs.filter (fun x => x.core == core && x.slot == slot)
  let top := (mine.map (fun x => x.priority)).foldl Nat.max 0
  let best := mine.filter (fun x => x.priority == top)
  (nextAfter (assoc? (s.core core).served slot) (sortedKeys (best.map (fun x => x.turn)))).bind (fun i => best.find? (fun x => x.turn == i))

/-- The contenders that the slots which have served none in this clock serve (R49). -/
def State.winners (s : State) : List Contender :=
  let xs := (s.issuers.filter (fun t => s.readyNow t && !s.waitsAtIssue t.key)).flatMap s.contend
  (((xs.map (fun x => (x.core, x.slot))).eraseDups).filter (fun k => !s.slotsBusy.contains k)).filterMap (fun k => s.winner k.1 k.2 xs)

/-- A rank comes after another. -/
def rankAfter (a b : Option Nat) : Bool :=
  match a, b with
  | some i, some j => decide (j < i)
  | _, _ => false

/-- The winners that can be served next: canvas instructions that issue in one clock are accepted in ascending team index, and generations
close by ascending core and team slot (R138, R343). -/
def inTurn (ws : List Contender) : List Contender :=
  ws.filter (fun x => !ws.any (fun y => (y.crew == x.crew && rankAfter x.canvas y.canvas) || rankAfter x.grace y.grace))

/-- The acts of one team, its issue at the slots apart. -/
def State.teamActs (s : State) (t : Team) : List Act :=
  let c := s.ctx? t.ctx
  let runs := (c.map (fun c => c.state == .running)).getD false
  List.flatten [
    (if t.sampling && s.canIssue t then [.issue t.key] else []),
    (List.range t.unchecked.length).map (fun k => .loadReturn t.key k),
    (if s.atomics.any (fun a => a.team == t.key) then [.atomic t.key] else []),
    (if s.scStores.any (fun b => b.team == t.key) then [.scStore t.key] else []),
    (if t.dropping.isSome && runs && !t.halted then [.samplerDrop t.key] else []),
    (if t.state != .parked || !s.onCores t.ctx then []
        else
          match t.park with
          | .waitv l _ poll _ => if s.watchDue t then [if poll then .poll t.key else .notify (s.waitCore t) (l.readAddr (s.waitCore t) 0 / 128)] else []
          | .ringWait die idx target poll =>
            if s.ringPassed die idx target then [if poll then .poll t.key else .notify (s.waitCore t) (semaphoreAddr die idx / 128)] else []
          | _ => [])]

/-- The acts of one context. -/
def State.ctxActs (s : State) (c : Context) : List Act :=
  List.flatten [
    (if c.state == .terminated && c.termRecord.isSome && !s.stillDraining c.key then [.terminationRecord c.key] else []),
    (c.jobs.filter (fun j => !j.due.isEmpty)).map (fun j => .quiescenceReport c.key j.job),
    (if c.preemptAsked && (s.sweeping c.key).isEmpty then [.halt c.key] else []),
    (match c.request with
        | some .destroy => if c.termRecord.isNone then [.request c.key .destroy] else []
        | some .save => if s.unsettled c.key then [] else [.request c.key .save]
        | some .restore => [.request c.key .restore]
        | none => []),
    (if c.state != .terminated && s.graceDue c then [.grace c.key] else []),
    (if c.oldRegs.isEmpty then []
        else
          match c.cores.filter (fun k => c.oldRegs.any (fun r => !r.taken.contains k)) with
          | [] => [.ctxwr c.key]
          | ks => ks.map (fun k => .takeRegs c.key k)),
    (if c.rigTodo.isSome || !c.unspilled.isEmpty then [.retry c.key] else []),
    (if c.spilling.isEmpty then [] else [.spillBin c.key true, .spillBin c.key false]),
    (s.unmapped c).map (fun va => .cannotMap c.key va),
    (if s.shootable c.key then [.shootdown c.key] else []),
    ((c.jobs.filter (fun j => j.cancelled)).flatMap (fun j =>
          ((List.range c.nodes.length).filter (fun n => (c.bin n).any (fun r => r.job.toNat == j.job && !r.castOff)
            || c.waiting.any (fun w => w.node == n && w.record.job.toNat == j.job && !w.record.castOff))).map (fun n => .cancelDrop c.key j.job n)))]

/-- The launches that cores choose (R306). -/
def State.launchActs (s : State) : List Act :=
  let cores := (s.launching.flatMap (fun c => (List.range c.nodes.length).filterMap (fun n => (s.plan c n).map (fun p => p.1)))).eraseDups
  cores.filterMap (fun k => (s.launchChoice k).map (fun x => .nodeLaunch k x.1 x.2.1))

/-- The acts of one core's stores. -/
def coreActs (core : Nat) (k : CoreState) : List Act :=
  k.lines.map (fun l => Act.drain core l) ++ ((k.miss.map (fun m => m.1)).eraseDups).map (fun l => .samplerFill core l)

/-- The acts of one operation. -/
def State.opActs (s : State) (o : AsyncOp) : List Act :=
  if o.done then []
  else
    match o.work with
    | .lda todo _ => todo.map (fun l => Act.land o.id l.lane)
    | .copy _ _ _ _ _ _ => [.copy o.id]
    | .follow _ => [.follow o.id]
    | .mma _ _ _ _ _ _ => []
    | .accClr _ _ => if s.accTurn o then [.acc o.id] else []
    | .accProm _ _ _ _ => if s.accTurn o then [.acc o.id] else []
    | .accLd _ _ _ _ => if s.accTurn o then [.acc o.id] else []
    | .accSt _ _ _ _ _ _ _ => if s.accTurn o then [.acc o.id] else []
    | .net _ _ _ _ => []
    | .rdla => []
    | .remote kind a =>
      if s.remoteHeld o a then []
      else
        (if kind = 0 then [Act.put o.id] else if kind = 1 then (if a.dev = s.dev.devid.toNat then [.get o.id] else []) else [.psig o.id])
          ++ a.todo.map (fun u => .remoteUnit o.id u)
    | .ring a done sent _ =>
      .ring o.id :: ((List.range (a.started done)).filter (fun k => !sent.contains k && !done.contains k && chunksBefore done sent k)).map (fun k =>
        .ringSend o.id k)
    | .nothing => []

/-- The segments in staging that can be joined. -/
def State.stagedActs (s : State) : List Act :=
  s.staging.filterMap (fun e =>
    match s.op? e.1 with
    | some o =>
      match o.work with
      | .ring a done sent _ => if o.done = false ∧ e.2.1 < a.started done ∧ chunksBefore done sent e.2.1 = true then some (.ringJoin e.1 e.2.1 e.2.2.1) else none
      | _ => none
    | none => none)

/-- The acts of the bank arithmetic units (R366, R368). -/
def State.bankActs (s : State) : List Act :=
  ((s.bankCmds.map (fun c => c.unit)).eraseDups).map (fun u => Act.bankFinish u)
  ++ (((s.rounds.filter s.ackable).map (fun r => r.team)).eraseDups).map (fun k => .bankAck k)

/-- Atomics and stores of teams that are gone are still performed (R31). -/
def State.goneActs (s : State) : List Act :=
  (((s.atomics.filter (fun a => (s.team? a.team).isNone)).map (fun a => a.team)).eraseDups).map (fun k => Act.atomic k)
  ++ (((s.scStores.filter (fun b => (s.team? b.team).isNone)).map (fun b => b.team)).eraseDups).map (fun k => .scStore k)

/-- The cores whose clocks can be gated (R257). -/
def State.gateActs (s : State) : List Act := (s.dev.coresPresent.filter s.gateable).map (fun k => Act.gate k)

/-- Everything that can happen next beside the issue slots and what is due. -/
def State.acts (s : State) : List Act :=
  List.flatten [
    (if s.inbox.isEmpty then [] else [Act.host]),
    s.allTeams.flatMap s.teamActs,
    s.allCtxs.flatMap s.ctxActs,
    s.launchActs,
    (s.allCrews.filter (fun w => (s.crewDone w)
          && ((s.ctx? w.ctx).map (fun c => c.state == .running || c.state == .halted)).getD false)).map (fun w => .crewEnd w.key),
    (s.allCrews.filter (fun w => !w.canvas.queue.isEmpty
          && ((s.ctx? w.ctx).map (fun c => c.state == .running)).getD false)).map (fun w => .canvas w.key),
    s.cores.flatMap (fun e => coreActs e.1 e.2),
    s.ops.flatMap s.opActs,
    (((s.ops.map (fun o => o.core)).eraseDups).filter (fun k => !(s.arrayReady k).isEmpty && s.withheld k == 0)).map (fun k => .array k),
    s.stagedActs,
    s.bankActs,
    s.goneActs,
    s.gateActs]

/-- What is served before any later request of a core: the shares of the units with a promoted bank command (R366, log entry 31). -/
def State.promoted (s : State) : List Act :=
  (((s.bankCmds.filter (fun c => c.aged)).map (fun c => c.unit)).eraseDups).map (fun u => Act.bankFinish u)

/-- A free choice among acts. -/
def State.pick (s : State) : List Act → Option Act
  | [] => none
  | [a] => some a
  | a :: b :: rest => (a :: b :: rest)[Config.freeChoice s.tick % (rest.length + 2)]?

/-- The team that alone can issue is not ready now, or the power arbiter gates a slot of its instruction. -/
def State.holds (s : State) (t : Team) : Bool :=
  s.stalled t || (s.select t.key).heldBack || (s.partsLeft t.key).any (s.gatedAt t)

/-- What an issue slot serves next in this clock.  A team that alone can issue needs no arbitration, and where nothing else can happen its
issue comes next. -/
def State.slotAct (s : State) : Option Act :=
  match s.issuers with
  | [] => none
  | [t] =>
    if t.issuedNow || s.waitsAtIssue t.key then none
    else if s.acts.isEmpty || !s.holds t then some (.issue t.key)
    else none
  | _ => s.pick ((inTurn s.winners).map (fun x => Act.part x.team x.core x.slot))

/-- The act that comes next: one that is due now; a share of a promoted bank command; else what an issue slot serves in this clock; else what
the end of the clock makes due; else another act. -/
def State.nextAct (s : State) : Option Act :=
  match s.dueNow with
  | a :: rest => s.pick (a :: rest)
  | [] =>
    match s.promoted with
    | a :: rest => s.pick (a :: rest)
    | [] =>
      match s.slotAct with
      | some a => some a
      | none =>
        match s.clockDue with
        | a :: rest => s.pick (a :: rest)
        | [] => s.pick s.acts

/-! ## The clocks that a step takes -/

/-- The nanoseconds to the times at which something falls due. -/
def State.deadlines (s : State) : List Nat :=
  let d := s.dev
  let t := d.time
  let until' := fun (x : Nat) => if d.dtime < x then [x - d.dtime] else []
  List.flatten [
    (if t.fsyncOut then (t.fsyncRose.map (fun r => until' (r + 1000))).getD [] else []),
    (if t.ppsOut then until' (t.ppsRose + 10000000) else []),
    (if t.disc == .locked then [1000000000 - d.dtime % 1000000000] else []),
    (if t.disc == .holdover then until' (t.heldSince + 10000000000) else []),
    s.allCtxs.flatMap (fun c => (c.dueRelease.map (fun r => until' r.time)).getD []),
    until' (d.lastTrim + 1000), until' (d.lastReef + 1000), until' (d.lastPower + 1000)]

/-- The clocks to the counts at which something falls due (R28, R306, R332, R334, R366, R373). -/
def State.clockDeadlines (s : State) : List Nat :=
  let until' := fun (x : Nat) => if s.dev.clock < x then [x - s.dev.clock] else []
  List.flatten [
    (s.watched.filter (fun w => decide (w.wdCount < w.wdPeriod))).map (fun w => w.wdPeriod - w.wdCount),
    s.halting.flatMap (fun c => until' (c.haltClock + haltBound)),
    s.launchTimers.flatMap (fun x => until' x.2.2),
    (s.bankCmds.filter (fun c => !c.aged)).flatMap (fun c => until' (c.queued + bankLimit)),
    s.ops.flatMap (fun o => ((s.remoteDue o).map until').getD []),
    s.allTeams.filterMap (fun t =>
        match s.ctx? t.ctx with
        | some c => if c.state == .running && decide (c.wdogLimit ≠ 0) && t.wdogDue.isNone then some (Nat.max 1 (c.wdogLimit - t.wdog)) else none
        | none => none)]

/-- The clocks that a step takes: one or more, and no more than lead to what falls due next (R7). -/
def State.stepClocks (s : State) : Nat :=
  let most := s.clockDeadlines.foldl Nat.min (s.deadlines.foldl (fun m n => Nat.min m (2 * n)) (2 ^ 32))
  Nat.max 1 (Nat.min (1 + Config.freeClocks s.tick) most)

/-- A nanosecond of an offset is slewed away: at most one in 10,000 clocks, which are 5,000 at the nominal rate (R376). -/
def State.slewStep (s : State) (ns : Nat) : Int :=
  let t := s.dev.time
  if t.slew ≠ 0 ∧ t.lastSlew + 10000 ≤ s.dev.clock ∧ 1 ≤ ns ∧ s.free 11 0 = true then (if 0 < t.slew then 1 else -1) else 0

/-- CLOCK and DTIME after some clocks (R59, R376): 2 clocks are a nanosecond. -/
def Device.passTime (d : Device) (k : Nat) (slew : Int) : Device :=
  let ns := (d.clock + k) / 2 - d.clock / 2
  { d with
    clock := (d.clock + k) % 2 ^ 64
    dtime := ((d.dtime + ns : Nat) + slew).toNat
    time := if slew = 0 then d.time else { d.time with slew := d.time.slew - slew, lastSlew := d.clock } }

/-- A team's counters after some clocks: the team watchdog with its expiry, and the quiescent points of a team that is parked, saved or
halted by HALT (R295, R334, R351). -/
def State.passTeam (s : State) (k : Nat) (t : Team) : Team :=
  match s.ctx? t.ctx with
  | none => t
  | some c =>
    let counts := c.state == .running && !t.halted && t.state != .exited && decide (c.wdogLimit ≠ 0)
    let wdog := if counts then t.wdog + k else t.wdog
    { (s.pointsOf c t) with
      wdog := wdog
      wdogDue := if counts && decide (c.wdogLimit ≤ wdog) && t.wdogDue.isNone then some ((c.regs.get 4).toNat, s.dev.clock + k) else t.wdogDue }

/-- A crew's barrier watchdog after some clocks (R28). -/
def State.passCrew (s : State) (k : Nat) (w : Crew) : Crew :=
  if ((s.ctx? w.ctx).map (fun c => c.state == .running)).getD false && (s.firstWaiting w.key).isSome then { w with wdCount := w.wdCount + k }
  else w

/-- Some clocks pass: the clocks, the watchdogs and the detector's counts go on, and what no access can depend on any more is
forgotten. -/
def State.pass (s : State) (k : Nat) : State :=
  let ns := (s.dev.clock + k) / 2 - s.dev.clock / 2
  let s1 : State := { s with
    team := s.passTeam k s.team
    teams := s.teams.map (s.passTeam k)
    crew := s.passCrew k s.crew
    crews := s.crews.map (s.passCrew k)
    dev := s.dev.passTime k (s.slewStep ns)
    tick := s.tick + 1 }
  s1.countJobs.forget

/-- A clock ends in which a team was ready at some slots that served others (R49). -/
def Team.waitMore (t : Team) (slots : List Nat) : Team :=
  { t with slotWait := slots.foldl (fun m k => assocPut m k ((assoc? m k).getD 0 + 1)) t.slotWait }

/-- What was ready at a slot in this clock and did not issue there: a team that another part of its instruction has issued there has (R49). -/
def State.unserved (s : State) : List Contender :=
  s.contenders.filter (fun x => !(s.slotsBusy.contains (x.core, x.slot) && assoc? (s.core x.core).served x.slot == some x.turn))

/-- A clock ends at the issue slots: what was ready there and did not issue has waited a clock more (R49). -/
def State.countWaits (s : State) : State :=
  let xs := s.unserved
  ((xs.map (fun x => x.team)).eraseDups).foldl (fun s k =>
    s.modTeam k (fun t => t.waitMore (((xs.filter (fun x => x.team == k)).map (fun x => slotKey x.core x.slot)).eraseDups))) s

/-- A new clock begins at the issue slots. -/
def State.newClock (s : State) : State :=
  { s with slotsBusy := [], team := { s.team with issuedNow := false }, teams := s.teams.map (fun t => { t with issuedNow := false }) }

/-- What a step leaves to do at its end: the notices of the wait tables, and the clocks of the cores whose teams have woken (R255, R257). -/
def State.settle (s : State) : State := s.noticeWrites.ungate

/-- The clocks that pass at the end of a clock: one where several teams can issue or one waits at a slot, else those to the next step. -/
def State.clocksOn (s : State) : Nat :=
  match s.issuers with
  | _ :: _ :: _ => 1
  | _ => if s.unserved.isEmpty then s.stepClocks else 1

/-- Time passes after an act, but not while something is still due or an issue slot has still to serve a ready team in this clock. -/
def State.elapse (s : State) : State :=
  let s := s.settle
  if !s.dueNow.isEmpty || !s.promoted.isEmpty || s.slotAct.isSome || !s.clockDue.isEmpty then s.pass 0
  else (s.countWaits.pass s.clocksOn).newClock

end Sys2Proof.Machine
end

