-- ==== Sys2Proof/Machine/Place.lean ====
section
/-! DEFINITION. How one instruction is placed for a step to run. -/

namespace Sys2Proof.Machine

/-! ## Placing an instruction -/

/-- Write the bytes of a number at a physical address. -/
def State.putNumber (s : State) (pa n v : Nat) : State :=
  { s with mem := (List.range n).foldl (fun m i => FMap.set m (pa + i) (BitVec.ofNat 8 (v / 2 ^ (8 * i)))) s.mem }

/-- A node whose crew is one team of one strand. -/
def plainNode : Node :=
  { entry := 0x100000, op := 0, opnd := 0, recWords := 1, count := 1, timer := 0, prio := 8, cap := 4, lo := 1, hi := 2, cost := 0,
    fullTrap := false, cancelTrap := false, teams := 1, strands := 1, regs := 32, spad := 0, land := 512, wdPeriod := 16777216,
    canvas := false, acc := 0, tiles := [] }

/-- A package that has booted, a context whose page tables, at three physical pages, map the first GiB onto itself, and a crew of one team
that has been launched at 0x100000: what a host would have created, loaded and launched before a team fetches. -/
def State.launched (s : State) : State :=
  let s := ((s.putNumber 0x1000 8 0x2001).putNumber 0x2000 8 0x3001).putNumber 0x3000 8 0x1F
  { s with
    dev := { s.dev with stage := 7 }
    ctx := { Context.vacant with key := 1, state := .running, root := 0x1000, cores := [0] }
    crew := launchCrew plainNode s.nextKey 1 0 1 1 ⟨0, false, [0]⟩ 1 []
    team := launchTeam plainNode (s.nextKey + 1) s.nextKey 1 0 1 0 0 0x100000
      [{ job := 1, words := [0], entered := 0, castOff := false, handle := none, converted := false }] 0
    nextKey := s.nextKey + 2 }

/-- Where the issuing team fetches its next instruction, when it is the only one that can issue. -/
def State.fetchAt (s : State) : Option Nat :=
  match s.nextAct with
  | some (.issue k) =>
    let s' := s.entering k
    match s'.translate (s'.crew.coreOf s'.team 0) s'.team.pc.toNat .fetch with
    | .ok l => if l.ws then none else some (l.readAddr (s'.crew.coreOf s'.team 0) 0)
    | .error _ => none
  | _ => none

/-- The 16 bytes of an instruction stored where the next step fetches: at the program counter of the team that issues next, or, where
none does, at that of a team that is launched first. -/
def State.placeWord (s : State) (w : Nat) : State :=
  match s.fetchAt with
  | some pa => s.putNumber pa 16 w
  | none => s.launched.putNumber 0x100000 16 w

end Sys2Proof.Machine
end

