-- ==== Sys2Proof/Machine/Step.lean ====
section
/-! DEFINITION. One step: what comes next is done, and time passes.  `withFetchWord` places an instruction where the next step
fetches. -/

namespace Sys2Proof.Machine

/-- The effect of one act. -/
def act (a : Act) (s : State) : Host.Outcome State Fault Refusal :=
  match a with
  | .host => runFetched s s.takeHost
  | .issue k => runFetched s (s.issue k)
  | .part k core slot => runFetched s (s.issuePart k core slot)
  | a => a.run s

/-- Time passes after an act that gave a next state. -/
def thenElapse : Host.Outcome State Fault Refusal → Host.Outcome State Fault Refusal
  | .next s => .next s.elapse
  | .fault f => .fault f
  | .refused r => .refused r

/-- One step of the machine. -/
def step (s : State) : Host.Outcome State Fault Refusal :=
  match s.nextAct with
  | some a => thenElapse (act a s)
  | none => .next s.elapse

/-- The state with an instruction, numbered as the opcode table numbers its bits, stored where `step` fetches the next one. -/
def State.withFetchWord (s : State) (nbits w : Nat) : State := s.placeWord (w % 2 ^ nbits)

end Sys2Proof.Machine
end

