-- ==== Sys2Proof/Safety.lean ====
section
/-! DEFINITION. The words in which claims are stated: what a safe run is, what a step keeps, and what an instruction leaves
unchanged. -/

namespace Sys2Proof.Machine

/-- The device memory is in its canonical form: addresses rise strictly, and no listed byte is what an unlisted one reads as. -/
abbrev State.Canonical (s : State) : Prop := Memory.wf s.mem

/-- A step goes on: it neither stops nor refuses. -/
def Out.GoesOn (o : Out) : Prop := ∃ t, o = .next t

/-- A property that a step keeps, from every state that has it. -/
def KeptByStep (P : State → Prop) : Prop := ∀ s t, P s → step s = .next t → P t

/-- A safe run of `n` steps: it does not stop. -/
def SafeRun (s : State) (n : Nat) : Prop := ∃ t, Sys2Proof.core.run n s = .next t

/-- Every byte of device memory reads at its home slice as it did. -/
def SameMemory (s t : State) : Prop := ∀ p, t.sliceByte p = s.sliceByte p

/-- Every store of the package besides the issuing team's, its crew's and its context's records reads as it did: memory, the
weight stores, the semaphores, the bank error registers, and every core's stores. -/
def SameStores (s t : State) : Prop :=
  SameMemory s t ∧ t.weights = s.weights ∧ t.semaphores = s.semaphores ∧ t.bankErr = s.bankErr ∧ t.cores = s.cores
    ∧ t.scStores = s.scStores ∧ t.atomics = s.atomics

/-- A state reached by taking a trap (R327, R328, R31). -/
def Trapped (s t : State) : Prop := ∃ cause addr resume info lane, t = s.takeTrap cause addr resume info lane

/-- The registers of a team but its program counter, lane registers and predicates are as they were. -/
def Team.SameSystem (t u : Team) : Prop :=
  u.scalars = t.scalars ∧ u.flags = t.flags ∧ u.mask = t.mask ∧ u.launchMask = t.launchMask ∧ u.mstack = t.mstack
    ∧ u.cstack = t.cstack ∧ u.winBase = t.winBase ∧ u.tpri = t.tpri ∧ u.netstat = t.netstat ∧ u.trap = t.trap ∧ u.state = t.state
    ∧ u.nest = t.nest ∧ u.qgen = t.qgen ∧ u.qpend = t.qpend ∧ u.wdog = t.wdog

end Sys2Proof.Machine
end

