-- ==== Sys2Proof/Certificates/Slice0/Obligations.lean ====
section
/-! DEFINITION. The statements for the provers.  Each says in its docstring what it states and which rules of spec/ it rests on.
Before a group stand the tables of results that its statements speak of, written from the rules and not from the meanings. -/

open Sys2Proof Sys2Proof.Machine

/-- For every well-formed instruction that has an encoding, whatever its operands, decoding its words (with zero for the words it
does not have) gives exactly that instruction, and its words are as many as the length rule gives: no bit of an operand is
dropped and no encoding falls to another instruction. (06_formats_and_opcode_map.md: R69, R72, R73, R74, R75, R76.) -/
def Obligations.EncodedWordsDecode : Prop :=
  ∀ i : Instr, i.isWord = true → i.wf = true →
    decodeWords (encodedWord i 0) (encodedWord i 1) (encodedWord i 2) (encodedWord i 3) = .ok i
      ∧ (encode i).length = instrLength (encodedWord i 0) (encodedWord i 1)

/-- Whatever four words are given, if they decode to an instruction, that instruction has an encoding, obeys every operand rule, and
its encoding is exactly the words that its length takes: the decoder ignores no bit and accepts no second spelling.
(06_formats_and_opcode_map.md: R69, R73, R90.) -/
def Obligations.DecodedWordsReencode : Prop :=
  ∀ (w0 w1 w2 w3 : Word) (i : Instr), decodeWords w0 w1 w2 w3 = .ok i →
    i.isWord = true ∧ i.wf = true ∧ encode i = [w0, w1, w2, w3].take (instrLength w0 w1)

/-- The word 0x9601_C286 decodes to FADD with the belay bit and D 7, A 5, C 6, without the prefix 0x1601_C286 to the same with it
clear, and 0x2C3F_FFFD to BRA.NE with displacement -3. Beside these, words of 16 instructions of other formats, each written out
bit by bit from the fields of its format and from the rule of its instruction, decode to those instructions with every operand in
its place. (01_assembly_by_example.md: R11, R13; 04_teams_and_crews.md: R45; 06_formats_and_opcode_map.md: R72, R73, R74, R75, R76,
R79, R83, R85; 07_core_instructions.md: R95, R96, R99, R101, R109, R113, R119; 09_the_canvas.md: R131;
17_memory_instructions.md: R260, R264, R270; 22_task_grace_system_instructions.md: R338, R348, R350.) -/
def Obligations.SpecWordsDecode : Prop :=
  (∀ w1 w2 w3, decodeWords 0x9601C286 w1 w2 w3 = .ok (.fadd true 7 5 6)) ∧ (∀ w1 w2 w3, decodeWords 0x1601C286 w1 w2 w3 = .ok (.fadd false 7 5 6))
    ∧ (∀ w1 w2 w3, decodeWords 0x2C3FFFFD w1 w2 w3 = .ok (.bra false 1 (BitVec.ofInt 21 (-3))))
    ∧ decodeWords 0x0200C101 0 0 0 = .ok (.add false 3 2 1)
    ∧ decodeWords 0x860027FF 0 0 0 = .ok (.addi true 0 4 0x7FF)
    ∧ decodeWords 0x14404286 0 0 0 = .ok (.cmp false 2 1 5 6)
    ∧ decodeWords 0x1661C409 0 0 0 = .ok (.ffma false 7 8 9)
    ∧ decodeWords 0x20604110 0 0 0 = .ok (.shflx false 1 2 16)
    ∧ decodeWords 0xA22FC380 0 0 0 = .ok (.vall true 63 7)
    ∧ decodeWords 0x26051BFF 0 0 0 = .ok (.saddi false 5 6 0x3FF)
    ∧ decodeWords 0x283FC000 0xDEADBEEF 0 0 = .ok (.movx false 127 0xDEADBEEF)
    ∧ decodeWords 0x2DDFFFFF 0 0 0 = .ok (.bra false 0xE 0x1FFFFF)
    ∧ decodeWords 0x32000003 0 0 0 = .ok (.ifMask false 3)
    ∧ decodeWords 0x40A142C9 0xFFFFFFF8 0 0 = .ok (.ldOffset false 1 2 10 11 4 0xFFFFFFF8)
    ∧ decodeWords 0x4A002087 0x0C000004 0 0 = .ok (.atom false 0 1 2 3 0 true true 4)
    ∧ decodeWords 0x62004103 0 0 0 = .ok (.cnvAdd false 1 2 3)
    ∧ decodeWords 0x7800048A 0 0 0 = .ok (.recPush false 9 10)
    ∧ decodeWords 0x7C001004 0 0 0 = .ok (.trap false 0x20 4)
    ∧ decodeWords 0x7C200000 0 0 0 = .ok (.rtt false)

/-- No word whose major is 0x00, 0x1A to 0x1F, 0x2C to 0x2F, 0x36, 0x37 or 0x3F decodes, whatever the rest of the word and the words
after it hold; nor does a word of one of the 33 majors that R83's table or, for 0x19, R45 gives SUB values, whose SUB is none of
those assigned there: not above the highest one nor in a gap, as SUB 6 and 7 of 0x0C and SUB 3 of 0x30 are.
(04_teams_and_crews.md: R45; 06_formats_and_opcode_map.md: R79, R80, R82, R83, R90.) -/
def Obligations.ReservedWordsAreIllegal : Prop :=
  ∀ w0 w1 w2 w3 : Word,
    (w0.toNat / 2 ^ 25 % 64 ∈ [0x00, 0x1A, 0x1B, 0x1C, 0x1D, 0x1E, 0x1F, 0x2C, 0x2D, 0x2E, 0x2F, 0x36, 0x37, 0x3F] →
      decodeWords w0 w1 w2 w3 = .error .illegalMajor)
    ∧ (∀ major (subs : List Nat), (major, subs) ∈ [
          (0x01, List.range 10), (0x02, List.range 14), (0x0A, List.range 10), (0x0B, List.range 8),
          (0x0C, [0, 1, 2, 3, 4, 5, 8, 9, 10, 11, 12, 13]), (0x0D, List.range 8), (0x0E, List.range 8), (0x0F, List.range 13),
          (0x10, List.range 9), (0x11, List.range 8), (0x12, List.range 12), (0x14, List.range 2), (0x15, List.range 6),
          (0x18, List.range 9), (0x19, List.range 7), (0x26, List.range 8), (0x28, List.range 3), (0x29, List.range 3),
          (0x2A, List.range 3), (0x2B, List.range 2), (0x30, [0, 1, 2, 4, 5, 6]), (0x31, List.range 13), (0x32, List.range 5),
          (0x33, List.range 2), (0x34, List.range 5), (0x35, List.range 5), (0x38, List.range 2), (0x39, List.range 4),
          (0x3A, List.range 2), (0x3B, List.range 4), (0x3C, List.range 10), (0x3D, List.range 13), (0x3E, List.range 7)] →
        w0.toNat / 2 ^ 25 % 64 = major → w0.toNat / 2 ^ 21 % 16 ∉ subs → ∀ i, decodeWords w0 w1 w2 w3 ≠ .ok i)

namespace Sys2Proof.Claims

/-- The step from s is that of the instruction fetched in e, in which its team has been selected for issue: where nothing that it waits
for holds it back, exec of what its words decode to, the armed injections in those words having been met; where something does, a wait
at issue. -/
def RunsFetched (s e : State) : Prop :=
  ∀ w0 w1 w2 w3 len f, e.breakpoint = none → e.fetch (e.crew.coreOf e.team 0) e.team.pc.toNat = .words w0 w1 w2 w3 len →
    f = e.fetched (e.crew.coreOf e.team 0) e.team.pc.toNat len →
    ((e.passesAtomics w0 w1 && e.passesCanvas w0 w1) = true →
      (∀ i, decodeWords w0 w1 w2 w3 = .ok i → step s = thenElapse (exec i f))
      ∧ (∀ r, decodeWords w0 w1 w2 w3 = .error r → step s = thenElapse (exec (.illegalInstruction w0 w1) f))
      ∧ (e.dev.injections = [] → f = e))
    ∧ ((e.passesAtomics w0 w1 && e.passesCanvas w0 w1) = false → step s = .next e.elapse)

end Sys2Proof.Claims

/-- Where the issue of the whole instruction of the team with key k, or of the last of its parts, is what comes next, the team has no
breakpoint at its instruction and the words at its program counter are fetched: if no pending atomic or canvas instruction of
the team holds the instruction back, the step is exec of the instruction they decode to, in the state in which the team has been
selected for issue and its fetch has met the armed injections in its words (where none is armed, that state is unchanged), after
which time passes, and where they decode to no instruction it is exec of ILLEGAL_INSTRUCTION with those
words; if one does, the team waits at issue and only time passes. Where another part of it comes next, the step only notes that
part as issued. That an instruction runs as a whole with its last part, and which instructions a pending atomic or canvas
instruction holds back, are the model's readings (log entries 10 and 18). (04_teams_and_crews.md: R39, R49;
06_formats_and_opcode_map.md: R69, R70, R90; 27_bringup_and_management.md: R398.) -/
def Obligations.StepRunsDecoded : Prop :=
  (∀ (s : State) (k : Nat), s.nextAct = some (.issue k) → (s.entering k).team.key = k → (s.entering k).team.state ≠ .free →
    Claims.RunsFetched s (s.entering k))
  ∧ (∀ (s : State) (k core slot : Nat) (p : Part), s.nextAct = some (.part k core slot) →
    (offered (s.partsLeft k)).find? (fun p => p.core == core && p.slot == slot) = some p →
    ((s.partsLeft k).length = 1 → Claims.RunsFetched s (s.enter k [p] [] true))
    ∧ (1 < (s.partsLeft k).length → (s.enter k [p] [] true).breakpoint = none →
        step s = .next (s.enter k [p] ((((s.team? k).map (fun t => t.issued)).getD []) ++ [p.id]) false).elapse))

/-- Where an event from outside stands first in the inbox and is what comes next, the step is exec of that event with the event
taken from the inbox; where one of the device's own events is due and comes next, the step is exec of that event, or the
device's act that has none; and where nothing can happen, only time passes. (95_what_each_step_holds.md.) -/
def Obligations.StepRunsEvents : Prop :=
  ∀ (s : State) (a c d : Nat),
    (∀ i rest, s.nextAct = some .host → s.inbox = i :: rest → Instr.fromOutside i = true →
      step s = thenElapse (exec i { s with inbox := rest }))
    ∧ (s.nextAct = none → step s = .next s.elapse)
    ∧ (s.nextAct = some (.launchTimer a c) → step s = thenElapse (exec (.launchTimer a c) s))
    ∧ (s.nextAct = some (.nodeLaunch a c d) → step s = thenElapse (exec (.nodeLaunch a c d) s))
    ∧ (s.nextAct = some (.crewEnd a) → step s = thenElapse (exec (.crewEnd a) s))
    ∧ (s.nextAct = some (.quiescenceReport a c) → step s = thenElapse (exec (.quiescenceReport a c) s))
    ∧ (s.nextAct = some (.barrierWatchdog a) → step s = thenElapse (exec (.barrierWatchdogExpiry a) s))
    ∧ (s.nextAct = some (.terminationRecord a) → step s = thenElapse (exec (.terminationRecord a) s))
    ∧ (s.nextAct = some (.teamWatchdog a) → step s = thenElapse (exec (.teamWatchdogExpiry a) s))
    ∧ (s.nextAct = some (.ageing a c) → step s = thenElapse (exec (.issuePriorityAgeing a c) s))
    ∧ (s.nextAct = some (.halt a) → step s = thenElapse (exec (.preemptionHalt a) s))
    ∧ (s.nextAct = some (.request a .destroy) → step s = thenElapse (exec (.contextDestroy a) s))
    ∧ (s.nextAct = some (.request a .save) → step s = thenElapse (exec (.contextSave a) s))
    ∧ (s.nextAct = some (.request a .restore) → step s = thenElapse (exec (.contextRestore a) s))
    ∧ (s.nextAct = some (.drain a c) → step s = thenElapse (exec (.writeCombiningDrain a c) s))
    ∧ (s.nextAct = some (.loadReturn a c) → step s = thenElapse (exec (.loadReturn a c) s))
    ∧ (s.nextAct = some (.atomic a) → step s = thenElapse (exec (.atomicExecute a) s))
    ∧ (s.nextAct = some (.samplerFill a c) → step s = thenElapse (exec (.samplerFill a c) s))
    ∧ (s.nextAct = some (.notify a c) → step s = thenElapse (exec (.waitTableNotify a c) s))
    ∧ (s.nextAct = some (.poll a) → step s = thenElapse (exec (.waitvPoll a) s))
    ∧ (s.nextAct = some (.gate a) → step s = thenElapse (exec (.coreClockGate a) s))
    ∧ (s.nextAct = some (.canvas a) → step s = thenElapse (exec (.canvasExecute a) s))
    ∧ (s.nextAct = some (.array a) → step s = thenElapse (exec (.matrixArrayGroup a) s))
    ∧ (s.nextAct = some (.acc a) → step s = thenElapse (exec (.accComplete a) s))
    ∧ (s.nextAct = some (.copy a) → step s = thenElapse (exec (.copyComplete a) s))
    ∧ (s.nextAct = some (.follow a) → step s = thenElapse (exec (.followMmaIssue a) s))
    ∧ (s.nextAct = some (.land a c) → step s = thenElapse (exec (.ldaLand a c) s))
    ∧ (s.nextAct = some (.remoteUnit a c) → step s = .next (s.remoteStep a c).elapse)
    ∧ (∀ out, s.nextAct = some (.spillBin a out) → step s = .next (s.spillBin a out).elapse)
    ∧ (s.nextAct = some (.put a) → step s = thenElapse (exec (.putComplete a) s))
    ∧ (s.nextAct = some (.get a) → step s = thenElapse (exec (.getComplete a []) s))
    ∧ (s.nextAct = some (.psig a) → step s = thenElapse (exec (.psigComplete a) s))
    ∧ (s.nextAct = some (.ring a) → step s = thenElapse (exec (.ringComplete a) s))
    ∧ (s.nextAct = some (.bankFinish a) → step s = thenElapse (exec (.bankCommandFinish a) s))
    ∧ (s.nextAct = some (.bankAck a) → step s = thenElapse (exec (.bankRoundAck a) s))
    ∧ (s.nextAct = some (.bankAgeing a) → step s = thenElapse (exec (.bankAgeing a) s))
    ∧ (s.nextAct = some (.grace a) → step s = thenElapse (exec (.graceComplete a) s))
    ∧ (s.nextAct = some (.trim) → step s = thenElapse (exec (.trimGovernorTick) s))
    ∧ (s.nextAct = some (.reef) → step s = thenElapse (exec (.reefGovernorTick) s))
    ∧ (s.nextAct = some (.power) → step s = thenElapse (exec (.powerArbiterTick (Config.freeId s.tick)) s))
    ∧ (s.nextAct = some (.release a) → step s = thenElapse (exec (.frameRelease a) s))
    ∧ (s.nextAct = some (.fsyncEnd) → step s = thenElapse (exec (.fsyncPulseEnd) s))
    ∧ (s.nextAct = some (.ppsEdge) → step s = thenElapse (exec (.ppsOutputEdge) s))
    ∧ (s.nextAct = some (.ppsEnd) → step s = thenElapse (exec (.ppsPulseEnd) s))
    ∧ (s.nextAct = some (.holdover) → step s = thenElapse (exec (.holdoverTimeout) s))
    ∧ (s.nextAct = some (.samplerDrop a) → step s = thenElapse (exec (.samplerDropComplete a) s))
    ∧ (s.nextAct = some (.ctxwr a) → step s = thenElapse (exec (.ctxwrPropagated a) s))
    ∧ (s.nextAct = some (.cancelDrop a c d) → step s = thenElapse (exec (.cancelDrop a c d) s))
    ∧ (s.nextAct = some (.scStore a) → step s = thenElapse (exec (.scStorePerformed a) s))
    ∧ (s.nextAct = some (.takeRegs a c) → step s = .next (s.takeRegs a c).elapse)
    ∧ (s.nextAct = some (.retry a) → step s = .next ((s.takeRig a).spillCastOffs a).elapse)
    ∧ (s.nextAct = some (.cannotMap a c) → step s = .next (s.cannotMap a c).elapse)
    ∧ (s.nextAct = some (.shootdown a) → step s = .next (s.shootdown a).elapse)
    ∧ (∀ x, s.nextAct = some x → step s = thenElapse (act x s)) ∧ act (.ringSend a c) s = .next (s.ringSend a c)
    ∧ (s.nextAct = some (.ringJoin a c d) → step s = .next (s.ringJoin a c d).elapse)

/-- For every instruction and event and every state, exec answers a next state, unless it is HOST_MEMORY_WRITE; that one answers a
next state or stops with the fault noMemory. No instruction is refused, and no instruction stops the machine. That a host write
which finds no location stops with noMemory is the model's choice and no rule's (log entry 53): R308 and R218 give the write its
effect, and no rule says what the port does where it finds none. (06_formats_and_opcode_map.md: R90;
21_traps_and_preemption.md: R325.) -/
def Obligations.EveryInstructionAnswers : Prop :=
  ∀ (i : Instr) (s : State),
    (∃ t, exec i s = .next t) ∨
      ((∃ ctx va bytes, i = .hostMemoryWrite ctx va bytes) ∧ ∃ a, exec i s = .fault (.noMemory a))

/-- In the reset state the masthead has not booted (stage and code 0), CLOCK and DTIME are 0, device time is in state free, the
power cap is 2,400 W, all 256 cores are present, there is no team, crew, context, operation, round or stored byte, and nothing
has been reported. Of these the model chooses: that memory lists nothing (log entry 2); that the weight stores, the semaphores
and the bank error registers list nothing (log entry 3); that reset is the package before its boot, with all units present, CLOCK and
DTIME 0 and the cap at 2,400 W (log entry 5); and the list of reports, the model's own, which begins empty (log entry 73).
(25_beyond_the_package.md: R376; 27_bringup_and_management.md: R394, R395, R400.) -/
def Obligations.ResetIsAsStated : Prop :=
  State.reset.dev.stage = 0 ∧ State.reset.dev.code = 0 ∧ State.reset.dev.clock = 0 ∧ State.reset.dev.dtime = 0
    ∧ State.reset.dev.time.disc = .free ∧ State.reset.dev.time.ppsOut = false ∧ State.reset.dev.time.fsyncOut = false
    ∧ State.reset.dev.cap = 2400 ∧ State.reset.dev.coresPresent.length = 256
    ∧ State.reset.allTeams = [] ∧ State.reset.allCrews = [] ∧ State.reset.allCtxs = [] ∧ State.reset.ops = [] ∧ State.reset.rounds = []
    ∧ State.reset.mem = [] ∧ State.reset.weights = [] ∧ State.reset.semaphores = [] ∧ State.reset.bankErr = []
    ∧ State.reset.dev.reports = Reports.empty

/-- In the reset state the list that holds device memory is canonical: its addresses rise strictly and it lists no byte that an
unlisted address reads as. (16_memory_and_translation.md.) -/
def Obligations.ResetMemoryCanonical : Prop :=
  State.reset.Canonical

/-- From every state whose memory is in the canonical form, whatever the step does (an instruction of a team, an event of the device
or one from outside), if it answers a next state, that state's memory is in the canonical form: equal memories stay equal data.
(16_memory_and_translation.md.) -/
def Obligations.StepKeepsMemoryCanonical : Prop :=
  KeptByStep State.Canonical

/-- Outside trap mode and with a handler installed (TRAPBASE.BASE not 0), taking a trap of any cause at any address gives the state
in which only the issuing team has changed: every outstanding unchecked result is written; TRAPCAUSE, TRAPPC and TRAPINFO hold
the cause, the address and the detail; the saved mask is the mask and the mask is the mask at launch; the saved depths are the
depths of the stacks; the saved replay mask is the replay mask, which becomes empty; trappcwritten is clear, the trap-mode bit
set, the team watchdog counter 0; the team runs and its pc is BASE + 64 times the cause. Stacks, predicates, flags, window base,
priority, NETSTAT and the nesting count are as they were. (04_teams_and_crews.md: R35, R51; 16_memory_and_translation.md: R252;
21_traps_and_preemption.md: R325, R327, R334.) -/
def Obligations.TrapEntrySavesAndEnters : Prop :=
  ∀ (s : State) (cause addr lane : Nat) (info : BitVec 64), s.team.trap.mode = false → s.creg 3 ≠ 0 →
    ∃ u : Team, s.takeTrap cause addr addr info lane = s.withTeam u
      ∧ u.lanes = s.team.flush.lanes ∧ u.scalars = s.team.flush.scalars ∧ u.unchecked = []
      ∧ u.trap.cause = BitVec.ofNat 8 cause ∧ u.trap.pc = BitVec.ofNat 57 addr ∧ u.trap.info = info
      ∧ u.trap.savedMask = s.team.mask ∧ u.mask = s.team.launchMask
      ∧ u.trap.savedMDepth = s.team.mstack.length ∧ u.trap.savedCDepth = s.team.cstack.length
      ∧ u.trap.savedReplay = s.team.replay ∧ u.replay = none ∧ u.trap.pcWritten = false
      ∧ u.trap.mode = true ∧ u.wdog = 0 ∧ u.state = .running
      ∧ u.pc = BitVec.ofNat 57 ((s.creg 3).toNat + 64 * cause)
      ∧ u.mstack = s.team.mstack ∧ u.cstack = s.team.cstack ∧ u.preds = s.team.preds ∧ u.flags = s.team.flags
      ∧ u.winBase = s.team.winBase ∧ u.tpri = s.team.tpri ∧ u.netstat = s.team.netstat ∧ u.nest = s.team.nest

namespace Sys2Proof.Claims

/-- The context of a state has been ended by a cause with a record: the issuing team and its crew are gone, and so are the other teams
and crews of the context; its bins, waiting records, releases and cast-offs are dropped (R31). -/
def ContextEnded (s t : State) (cause : Nat) (record : List Byte) : Prop :=
  t.ctx = s.ctx.ended cause record ∧ t.team.state = .free ∧ t.crew.live = false
    ∧ (∀ u ∈ t.teams, u.ctx ≠ s.ctx.key) ∧ (∀ w ∈ t.crews, w.ctx ≠ s.ctx.key)
    ∧ t.dev = s.dev ∧ t.ctxs = s.ctxs ∧ SameStores s t

end Sys2Proof.Claims

/-- Outside trap mode, where TRAPBASE.BASE is 0 and the issuing team and its crew belong to the context that issues, taking a trap
ends that context with the trap's cause and the fault record of the cause (header of R331 with SECOND 0, then TRAPINFO): the
context is terminated, every team and crew of it is gone, its bins and queues are dropped, and no stored byte has changed. In
trap mode, whatever the handler register holds, taking a trap of any cause ends the context of the team with cause 0x26, and the
record carries both causes: SECOND is the new one, and the body holds the first trap's cause, TRAPPC and TRAPINFO, then the new
TRAPINFO. (03_program_lost_team.md: R31; 21_traps_and_preemption.md: R325, R327, R328.) -/
def Obligations.TrapsThatEndTheContext : Prop :=
  (∀ (s : State) (cause addr resume lane : Nat) (info : BitVec 64),
    s.team.trap.mode = false → s.creg 3 = 0 → s.ctx.state ≠ .none → s.ctx.state ≠ .terminated → s.team.ctx = s.ctx.key →
    s.crew.ctx = s.ctx.key →
    Claims.ContextEnded s (s.takeTrap cause addr resume info lane) cause (s.trapRecord cause 0 addr lane (leBytes 8 info.toNat)))
  ∧ (∀ (s : State) (cause addr resume lane : Nat) (info : BitVec 64),
    s.team.trap.mode = true → s.ctx.state ≠ .none → s.ctx.state ≠ .terminated → s.team.ctx = s.ctx.key → s.crew.ctx = s.ctx.key →
    Claims.ContextEnded s (s.takeTrap cause addr resume info lane) 0x26
      (s.trapRecord 0x26 cause addr lane (leBytes 8 s.team.trap.cause.toNat ++ leBytes 8 s.team.trap.pc.toNat
        ++ leBytes 8 s.team.trap.info.toNat ++ leBytes 8 info.toNat)))

/-- In trap mode, with the mask stack and the call stack at the depths that trap entry saved, RTT answers the state in which only
the team has changed: its mask is the saved mask, its pc is TRAPPC, the replay mask is the saved one unless TRAPPC was written
since entry, the watchdog counter is 0, and the trap-mode bit is clear; the lane registers, scalars, predicates, flags and
stacks are those that its belay bit leaves. Outside trap mode RTT takes cause 0x01 at itself with its own word as TRAPINFO; in
trap mode with a stack away from its saved depth it ends the context with cause 0x26, second cause 0x01 and the record whose body
holds the first trap's cause, TRAPPC and TRAPINFO and then RTT's word. (21_traps_and_preemption.md: R328, R329, R331;
22_task_grace_system_instructions.md: R350.) -/
def Obligations.RttReturnsOrTraps : Prop :=
  (∀ (s : State) (b : Bool), s.team.trap.mode = true → s.team.mstack.length = s.team.trap.savedMDepth →
    s.team.cstack.length = s.team.trap.savedCDepth →
    ∃ u : Team, exec (.rtt b) s = .next (s.withTeam u) ∧ u.trap.mode = false ∧ u.mask = s.team.trap.savedMask ∧ u.pc = s.team.trap.pc
      ∧ u.replay = (if s.team.trap.pcWritten then none else s.team.trap.savedReplay) ∧ u.wdog = 0
      ∧ u.lanes = (s.team.belay b).lanes ∧ u.scalars = (s.team.belay b).scalars ∧ u.preds = s.team.preds ∧ u.flags = s.team.flags
      ∧ u.mstack = s.team.mstack ∧ u.cstack = s.team.cstack ∧ u.trap.cause = s.team.trap.cause ∧ u.trap.info = s.team.trap.info)
  ∧ (∀ (s : State) (b : Bool),
    (s.team.trap.mode = false → exec (.rtt b) s = .next ((s.withTeam (s.team.belay b)).illegal (.rtt b)))
    ∧ (s.team.trap.mode = true →
        (s.team.mstack.length ≠ s.team.trap.savedMDepth ∨ s.team.cstack.length ≠ s.team.trap.savedCDepth) →
        s.ctx.state ≠ .none → s.ctx.state ≠ .terminated → s.team.ctx = s.ctx.key → s.crew.ctx = s.ctx.key →
        ∀ t, t = s.withTeam (s.team.belay b) →
        ∃ u, exec (.rtt b) s = .next u ∧ Claims.ContextEnded t u 0x26 (t.trapRecord 0x26 0x01 t.team.pc.toNat 0
          (leBytes 8 t.team.trap.cause.toNat ++ leBytes 8 t.team.trap.pc.toNat ++ leBytes 8 t.team.trap.info.toNat
            ++ leBytes 8 (wordsInfo (encodedWord (.rtt b) 0) 0).toNat))))

/-- Outside trap mode and with a handler, TRAP enters the handler with its code as cause, its scalar pair as TRAPINFO and TRAPPC at
the next instruction; BKPT enters with cause 0x11, its code as TRAPINFO and TRAPPC at itself; and a word that is no instruction
enters with cause 0x01, its words as TRAPINFO and TRAPPC at itself. (06_formats_and_opcode_map.md: R90;
21_traps_and_preemption.md: R325, R327; 22_task_grace_system_instructions.md: R348, R349.) -/
def Obligations.TrapsOnPurposeEnter : Prop :=
  ∀ (s : State) (b : Bool) (k : BitVec 7) (c : BitVec 6) (code : BitVec 14) (w0 w1 : BitVec 32),
    s.team.trap.mode = false → s.creg 3 ≠ 0 →
    exec (.trap b k c) s = .next (s.withTeam (s.team.enterTrap k.toNat (s.team.pc.toNat + 4) (s.creg 3).toNat ((s.team.belay b).srd64 c.toNat)))
    ∧ exec (.bkpt b code) s = .next (s.withTeam (s.team.enterTrap 0x11 s.team.pc.toNat (s.creg 3).toNat (code.zeroExtend 64)))
    ∧ exec (.illegalInstruction w0 w1) s = .next (s.withTeam (s.team.enterTrap 0x01 s.team.pc.toNat (s.creg 3).toNat (w1 ++ w0)))

/-- The context that a descriptor makes is privileged exactly when the descriptor says so. A team is in privileged mode exactly
while its context is privileged and its trap-mode bit is set. Outside it, CTXWR of any register and HALT take cause 0x02 at
themselves with their own words as TRAPINFO. (22_task_grace_system_instructions.md: R339.) -/
def Obligations.PrivilegedInstructions : Prop :=
  (∀ (s : State) (b : Bool) (ix c : BitVec 6), ¬ (s.ctx.privileged = true ∧ s.team.trap.mode = true) →
    exec (.ctxwr b ix c) s = .next (s.unprivileged (.ctxwr b ix c)) ∧ exec (.halt b) s = .next (s.unprivileged (.halt b)))
  ∧ (∀ s : State, s.privileged = true ↔ s.ctx.privileged = true ∧ s.team.trap.mode = true)
  ∧ (∀ ctx d cregs cores grants, (newContext ctx d cregs cores grants).privileged = true ↔ fieldAt d 41 1 % 2 = 1)

namespace Sys2Proof.Claims

/-- What the rules say of an instruction that writes one lane register: its belay bit, the lane registers it names, the one it writes, its
length in words, and the value that an active lane receives, computed from the team as the instruction finds it. -/
structure LaneRule where
  belay : Bool
  names : List Nat
  dest : Nat
  len : Nat
  value : Team → Nat → Word

/-- Two sources (R92). -/
def two (b : Bool) (d a c : BitVec 7) (f : Word → Word → Word) : Option LaneRule :=
  some ⟨b, [d.toNat, a.toNat, c.toNat], d.toNat, 1, fun t l => f (t.rd a.toNat l) (t.rd c.toNat l)⟩

/-- Two sources and the destination as a third (R92). -/
def three (b : Bool) (d a c : BitVec 7) (f : Word → Word → Word → Word) : Option LaneRule :=
  some ⟨b, [d.toNat, a.toNat, c.toNat], d.toNat, 1, fun t l => f (t.rd a.toNat l) (t.rd c.toNat l) (t.rd d.toNat l)⟩

/-- One source. -/
def one (b : Bool) (d a : BitVec 7) (f : Word → Word) : Option LaneRule :=
  some ⟨b, [d.toNat, a.toNat], d.toNat, 1, fun t l => f (t.rd a.toNat l)⟩

/-- The integer forms of majors 0x01 to 0x08 and MOVX (R95, R96, R98, R85). -/
def integerRule : Instr → Option LaneRule
  | .add b d a c => two b d a c (fun x y => x + y)
  | .sub b d a c => two b d a c (fun x y => x - y)
  | .mul b d a c => two b d a c (fun x y => x * y)
  | .mulhi b d a c => two b d a c (fun x y => BitVec.ofInt 32 (x.toInt * y.toInt / 2 ^ 32))
  | .mulhu b d a c => two b d a c (fun x y => BitVec.ofNat 32 (x.toNat * y.toNat / 2 ^ 32))
  | .imad b d a c => three b d a c (fun x y z => x * y + z)
  | .min b d a c => two b d a c (fun x y => if x.slt y then x else y)
  | .max b d a c => two b d a c (fun x y => if x.slt y then y else x)
  | .minu b d a c => two b d a c (fun x y => if x.ult y then x else y)
  | .maxu b d a c => two b d a c (fun x y => if x.ult y then y else x)
  | .and b d a c => two b d a c (fun x y => x &&& y)
  | .or b d a c => two b d a c (fun x y => x ||| y)
  | .xor b d a c => two b d a c (fun x y => x ^^^ y)
  | .andn b d a c => two b d a c (fun x y => x &&& ~~~y)
  | .shl b d a c => two b d a c (fun x y => if 32 ≤ y.toNat % 256 then 0 else x <<< (y.toNat % 256))
  | .shr b d a c => two b d a c (fun x y => if 32 ≤ y.toNat % 256 then 0 else x >>> (y.toNat % 256))
  | .sar b d a c => two b d a c (fun x y => x.sshiftRight (if 32 ≤ y.toNat % 256 then 32 else y.toNat % 256))
  | .bfx b d a c => two b d a c bfx
  | .bfxs b d a c => two b d a c bfxs
  | .bfi b d a c => three b d a c bfi
  | .popc b d a => one b d a popCount
  | .clz b d a => one b d a leadingZeros
  | .addi b d a imm => one b d a (fun x => x + imm.signExtend 32)
  | .andi b d a imm => one b d a (fun x => x &&& imm.signExtend 32)
  | .ori b d a imm => one b d a (fun x => x ||| imm.signExtend 32)
  | .xori b d a imm => one b d a (fun x => x ^^^ imm.signExtend 32)
  | .shli b d a n => one b d a (fun x => x <<< n.toNat)
  | .shri b d a n => one b d a (fun x => x >>> n.toNat)
  | .sari b d a n => one b d a (fun x => x.sshiftRight n.toNat)
  | .movi b d imm => some ⟨b, [d.toNat], d.toNat, 1, fun _ _ => imm.signExtend 32⟩
  | .movx b d imm => some ⟨b, [d.toNat], d.toNat, 2, fun _ _ => imm⟩
  | _ => none

/-- The floating-point forms of majors 0x0B to 0x0E, and CVT between types of 32 bits or fewer (R101 to R108). -/
def floatRule : Instr → Option LaneRule
  | .fadd b d a c => two b d a c (word2 fp32.add)
  | .fsub b d a c => two b d a c (word2 fp32.sub)
  | .fmul b d a c => two b d a c (word2 fp32.mul)
  | .ffma b d a c => three b d a c (word3 fp32.fma)
  | .fmin b d a c => two b d a c (word2 fp32.min)
  | .fmax b d a c => two b d a c (word2 fp32.max)
  | .fabs b d a => one b d a (fun x => x &&& 0x7FFFFFFF)
  | .fneg b d a => one b d a (fun x => x ^^^ 0x80000000)
  | .padd b bf d a c => two b d a c (word2 (halves2 (packedFmt bf).add))
  | .psub b bf d a c => two b d a c (word2 (halves2 (packedFmt bf).sub))
  | .pmul b bf d a c => two b d a c (word2 (halves2 (packedFmt bf).mul))
  | .pmin b bf d a c => two b d a c (word2 (halves2 (packedFmt bf).min))
  | .pmax b bf d a c => two b d a c (word2 (halves2 (packedFmt bf).max))
  | .pfma b bf d a c => three b d a c (word3 (halves3 (packedFmt bf).fma))
  | .rcp b d a => one b d a (word1 frcp)
  | .rsq b d a => one b d a (word1 frsq)
  | .sqrt b d a => one b d a (word1 fsqrt)
  | .ex2 b d a => one b d a (word1 fex2)
  | .lg2 b d a => one b d a (word1 flg2)
  | .sin b d a => one b d a (word1 fsin)
  | .cos b d a => one b d a (word1 fcos)
  | .fdiv b d a c => two b d a c (word2 fdiv)
  | .cvt b dst d a rnd sat src =>
    if dst = 3 ∨ dst = 7 then none
    else some ⟨b, d.toNat :: cvtNames src.toNat a.toNat, d.toNat, 1, fun t l => BitVec.ofNat 32
      (cvt (CvtType.ofCode dst.toNat) (CvtType.ofCode src.toNat) sat (Rnd.ofCode rnd.toNat) (t.cvtSource src.toNat a.toNat l))⟩
  | _ => none

/-- The first of the active lanes; 0 where none is. -/
def lowest (t : Team) : Nat := t.active.headD 0

/-- The forms of major 0x10 that write lanes: a lane receives from its own strand, from the lowest active lane, or from all (R109 to R112). -/
def acrossRule : Instr → Option LaneRule
  | .shfl b d a c => some ⟨b, [d.toNat, a.toNat, c.toNat], d.toNat, 1, fun t l => t.rd a.toNat (l / 32 * 32 + (t.rd c.toNat l).toNat % 32)⟩
  | .shflup b d a n => some ⟨b, [d.toNat, a.toNat], d.toNat, 1,
      fun t l => t.rd a.toNat (l / 32 * 32 + if n.toNat ≤ l % 32 then l % 32 - n.toNat else l % 32)⟩
  | .shfldn b d a n => some ⟨b, [d.toNat, a.toNat], d.toNat, 1,
      fun t l => t.rd a.toNat (l / 32 * 32 + if l % 32 + n.toNat ≤ 31 then l % 32 + n.toNat else l % 32)⟩
  | .shflx b d a n => some ⟨b, [d.toNat, a.toNat], d.toNat, 1, fun t l => t.rd a.toNat (l / 32 * 32 + Nat.xor (l % 32) n.toNat)⟩
  | .bcast b d a m =>
    if m = 0 then some ⟨b, [d.toNat, a.toNat], d.toNat, 1, fun t _ => t.rd a.toNat (lowest t)⟩
    else if m = 1 then some ⟨b, [d.toNat], d.toNat, 1, fun t _ => t.srd a.toNat⟩
    else none
  | .reda b d a o => some ⟨b, [d.toNat, a.toNat], d.toNat, 1,
      fun t _ => t.active.foldl (fun acc k => (redOp o.toNat).1 acc (t.rd a.toNat k)) (redOp o.toNat).2⟩
  | .freda b d a o => some ⟨b, [d.toNat, a.toNat], d.toNat, 1, fun t _ => t.fredTree o.toNat a.toNat⟩
  | .scana b d a o ex => some ⟨b, [d.toNat, a.toNat], d.toNat, 1,
      fun t l => (assoc? (scanLanes (redOp o.toNat).1 ex (t.rd a.toNat) (redOp o.toNat).2 t.active) l).getD 0⟩
  | .fscana b d a o ex => some ⟨b, [d.toNat, a.toNat], d.toNat, 1,
      fun t l => (assoc? (scanLanes (fredOp o.toNat).1 ex (t.rd a.toNat) (fredOp o.toNat).2 t.active) l).getD 0⟩
  | _ => none

/-- An instruction has the effect that a rule for lane registers says: outside the allocation it is cause 0x01; inside it, every active lane
of the destination register has its value, computed from the registers as they stood after the belay bit's wait, every other register of
every lane keeps its value, the team goes on past the instruction, and nothing else in the package changes. -/
def WritesLanes (i : Instr) (r : LaneRule) : Prop :=
  ∀ s : State,
    (s.team.namesOk r.names = false → exec i s = .next (s.illegal i))
    ∧ (s.team.namesOk r.names = true →
        exec i s = .next (s.withTeam (((s.team.belay r.belay).wr r.dest s.team.active (r.value (s.team.belay r.belay))).advance r.len)))

end Sys2Proof.Claims

/-- For each of the 31 integer forms that write one lane register (R95, R96, R98 and MOVX): where every register it names lies in
the allocation, exec answers the state in which the active lanes of the destination hold the form's result, computed from the
sources after the belay wait, and the team has gone on past the instruction; everything else is as it was. A name outside the
allocation is cause 0x01. (04_teams_and_crews.md: R53; 05_registers_and_unified_store.md: R56; 06_formats_and_opcode_map.md:
R85; 07_core_instructions.md: R92, R95, R96, R98.) -/
def Obligations.IntegerLaneResults : Prop :=
  ∀ (i : Instr) (r : Claims.LaneRule), Claims.integerRule i = some r → Claims.WritesLanes i r

namespace Sys2Proof.Claims

/-- What the rules say of an instruction that writes one predicate: its belay bit, the lane registers it names, the predicate, and the bit
that an active lane receives. -/
structure PredRule where
  belay : Bool
  names : List Nat
  dest : Nat
  value : Team → Nat → Bool

/-- The compares and the predicate operations (R79, R99, R103, R114). -/
def predRule : Instr → Option PredRule
  | .cmp b cc p a c => some ⟨b, [a.toNat, c.toNat], p.toNat, fun t l => compareHolds cc (t.rd a.toNat l) (t.rd c.toNat l)⟩
  | .cmpi b cc p a imm => some ⟨b, [a.toNat], p.toNat, fun t l => compareHolds cc (t.rd a.toNat l) (imm.signExtend 32)⟩
  | .fcmp b cc p a c => some ⟨b, [a.toNat, c.toNat], p.toNat,
      fun t l => fp32.compare cc.toNat (t.rd a.toNat l).toNat (t.rd c.toNat l).toNat⟩
  | .pset b d a => some ⟨b, [a.toNat], d.toNat, fun t l => t.rd a.toNat l != 0⟩
  | .pand b d a c => some ⟨b, [], d.toNat, fun t l => (t.prd a.toNat).getLsbD l && (t.prd c.toNat).getLsbD l⟩
  | .por b d a c => some ⟨b, [], d.toNat, fun t l => (t.prd a.toNat).getLsbD l || (t.prd c.toNat).getLsbD l⟩
  | .pxor b d a c => some ⟨b, [], d.toNat, fun t l => (t.prd a.toNat).getLsbD l != (t.prd c.toNat).getLsbD l⟩
  | .pnot b d a => some ⟨b, [], d.toNat, fun t l => !(t.prd a.toNat).getLsbD l⟩
  | _ => none

/-- What the rules say of an instruction that acts once per team on a scalar register: its belay bit, its length, the scalar it writes (none
for SCMP and SCMPI), whether it writes a pair, the value, and the flags it sets (none where it leaves them). -/
structure ScalarRule where
  belay : Bool
  len : Nat
  dest : Option Nat
  wide : Bool
  value : Team → BitVec 64
  flags : Team → Option Flags

/-- A result of 32 bits that leaves the flags. -/
def plain (b : Bool) (d : BitVec 6) (f : Team → Word) : Option ScalarRule :=
  some ⟨b, 1, some d.toNat, false, fun t => (f t).zeroExtend 64, fun _ => none⟩

/-- Z, N, C and V of a sum of two values of a width: the carry out of the addition, and V where the signed result overflows (R115). -/
def sumFlags {w : Nat} (x y : BitVec w) : Flags :=
  { z := x + y == 0, n := (x + y).msb, c := decide (2 ^ w ≤ x.toNat + y.toNat), v := decide ((x + y).toInt ≠ x.toInt + y.toInt) }

/-- Z, N, C and V of a difference: C is 1 where there is no borrow (R115). -/
def differenceFlags {w : Nat} (x y : BitVec w) : Flags :=
  { z := x - y == 0, n := (x - y).msb, c := decide (y.toNat ≤ x.toNat), v := decide ((x - y).toInt ≠ x.toInt - y.toInt) }

/-- The flags of VANY, VALL, TAG.CHK and REC.TRY: Z from the result, the others clear (R115). -/
def voteFlags (v : Word) : Flags := { z := v == 0, n := false, c := false, v := false }

/-- VANY's result: some active lane's bit is set (R113). -/
def anyLane (t : Team) (p : Nat) : Word := if t.active.any (fun l => (t.prd p).getLsbD l) then 1 else 0

/-- VALL's result: every active lane's bit is set (R113). -/
def allLanes (t : Team) (p : Nat) : Word := if t.active.all (fun l => (t.prd p).getLsbD l) then 1 else 0

/-- The scalar forms of majors 0x12 and 0x13, MOVX.s, and the votes (R85, R113, R115, R116). -/
def scalarRule : Instr → Option ScalarRule
  | .sadd b d a c => some ⟨b, 1, some d.toNat, false, fun t => (t.srd a.toNat + t.srd c.toNat).zeroExtend 64,
      fun t => some (sumFlags (t.srd a.toNat) (t.srd c.toNat))⟩
  | .ssub b d a c => some ⟨b, 1, some d.toNat, false, fun t => (t.srd a.toNat - t.srd c.toNat).zeroExtend 64,
      fun t => some (differenceFlags (t.srd a.toNat) (t.srd c.toNat))⟩
  | .scmp b a c => some ⟨b, 1, none, false, fun _ => 0, fun t => some (differenceFlags (t.srd a.toNat) (t.srd c.toNat))⟩
  | .sadd64 b d a c => some ⟨b, 1, some d.toNat, true, fun t => t.srd64 a.toNat + t.srd64 c.toNat,
      fun t => some (sumFlags (t.srd64 a.toNat) (t.srd64 c.toNat))⟩
  | .saddi b d a imm => some ⟨b, 1, some d.toNat, false, fun t => (t.srd a.toNat + imm.signExtend 32).zeroExtend 64,
      fun t => some (sumFlags (t.srd a.toNat) (imm.signExtend 32))⟩
  | .scmpi b a imm => some ⟨b, 1, none, false, fun _ => 0, fun t => some (differenceFlags (t.srd a.toNat) (imm.signExtend 32))⟩
  | .smul b d a c => plain b d (fun t => t.srd a.toNat * t.srd c.toNat)
  | .sand b d a c => plain b d (fun t => t.srd a.toNat &&& t.srd c.toNat)
  | .sor b d a c => plain b d (fun t => t.srd a.toNat ||| t.srd c.toNat)
  | .sxor b d a c => plain b d (fun t => t.srd a.toNat ^^^ t.srd c.toNat)
  | .sshl b d a c => plain b d (fun t => shiftLeft (t.srd a.toNat) ((t.srd c.toNat).toNat % 256))
  | .sshr b d a c => plain b d (fun t => shiftRight (t.srd a.toNat) ((t.srd c.toNat).toNat % 256))
  | .ssar b d a c => plain b d (fun t => shiftArith (t.srd a.toNat) ((t.srd c.toNat).toNat % 256))
  | .smov b d a => plain b d (fun t => t.srd a.toNat)
  | .sandi b d a imm => plain b d (fun t => t.srd a.toNat &&& imm.signExtend 32)
  | .sori b d a imm => plain b d (fun t => t.srd a.toNat ||| imm.signExtend 32)
  | .sxori b d a imm => plain b d (fun t => t.srd a.toNat ^^^ imm.signExtend 32)
  | .sshli b d a n => plain b d (fun t => t.srd a.toNat <<< n.toNat)
  | .sshri b d a n => plain b d (fun t => t.srd a.toNat >>> n.toNat)
  | .ssari b d a n => plain b d (fun t => (t.srd a.toNat).sshiftRight n.toNat)
  | .smovi b d imm => plain b d (fun _ => imm.signExtend 32)
  | .movxS b d imm => some ⟨b, 2, some d.toNat, false, fun _ => imm.zeroExtend 64, fun _ => none⟩
  | .vany b d p => some ⟨b, 1, some d.toNat, false, fun t => (anyLane t p.toNat).zeroExtend 64, fun t => some (voteFlags (anyLane t p.toNat))⟩
  | .vall b d p => some ⟨b, 1, some d.toNat, false, fun t => (allLanes t p.toNat).zeroExtend 64, fun t => some (voteFlags (allLanes t p.toNat))⟩
  | .ballot b d p j => plain b d (fun t => if j.toNat < t.strands then BitVec.ofNat 32 ((t.mask &&& t.prd p.toNat).toNat / 2 ^ (32 * j.toNat)) else 0)
  | _ => none

/-- The team after a scalar rule's result and flags. -/
def ScalarRule.apply (r : ScalarRule) (t : Team) : Team :=
  let u : Team := match r.dest with
    | none => t
    | some d => if r.wide then t.swr64 d (r.value t) else t.swr d ((r.value t).truncate 32)
  { u with flags := (r.flags t).getD u.flags }

/-- CVT to a 64-bit type: the value of a lane (R80, R107, R108). -/
def cvtWide (dst : BitVec 4) (a : BitVec 7) (rnd : BitVec 2) (sat : Bool) (src : BitVec 4) (t : Team) (l : Nat) : BitVec 64 :=
  BitVec.ofNat 64 (cvt (CvtType.ofCode dst.toNat) (CvtType.ofCode src.toNat) sat (Rnd.ofCode rnd.toNat) (t.cvtSource src.toNat a.toNat l))

end Sys2Proof.Claims

/-- The same of the floating-point forms of majors 0x0B, 0x0C and 0x0E and of CVT to a type of 32 bits or fewer, with the rounded
results of R101 to R108. CVT to a 64-bit type writes both registers of its pair in the active lanes. (04_teams_and_crews.md:
R53; 05_registers_and_unified_store.md: R56; 06_formats_and_opcode_map.md: R73; 07_core_instructions.md: R92, R101, R102, R104,
R105, R107, R108.) -/
def Obligations.FloatLaneResults : Prop :=
  (∀ (i : Instr) (r : Claims.LaneRule), Claims.floatRule i = some r → Claims.WritesLanes i r)
  ∧ (∀ (s : State) (b : Bool) (d a : BitVec 7) (dst src : BitVec 4) (rnd : BitVec 2) (sat : Bool),
    ((dst = 3 ∨ dst = 7) → s.team.namesOk ([d.toNat, d.toNat + 1] ++ cvtNames src.toNat a.toNat) = true →
      exec (.cvt b dst d a rnd sat src) s = .next (s.withTeam (((s.team.belay b).wr64 d.toNat s.team.active
        (Claims.cvtWide dst a rnd sat src (s.team.belay b))).advance 1))))

/-- The same of SHFL, SHFLUP, SHFLDN and SHFLX (every lane of the strand supplies its value, active or not), BCAST modes 0 and 1,
REDA, FREDA, SCANA and FSCANA (over the active lanes in strand order, FREDA by its fixed tree). (04_teams_and_crews.md: R39,
R53; 05_registers_and_unified_store.md: R56; 07_core_instructions.md: R109, R110, R111, R112.) -/
def Obligations.AcrossLaneResults : Prop :=
  ∀ (i : Instr) (r : Claims.LaneRule), Claims.acrossRule i = some r → Claims.WritesLanes i r

/-- For every instruction of the three tables, where its names lie in the allocation: after it, each active lane reads the
instruction's value in the destination register; every other lane and every other register of the register file reads what it
read after the belay wait; the scalars, predicates, flags, mask, stacks, special and trap registers are those after the belay
wait; crew, context, other teams, memory and every store of the package are as before; and with an empty mask no register
changes. (04_teams_and_crews.md: R39, R53; 05_registers_and_unified_store.md: R56.) -/
def Obligations.LaneResultsReadBack : Prop :=
  ∀ (i : Instr) (r : Claims.LaneRule) (s : State),
    (Claims.integerRule i = some r ∨ Claims.floatRule i = some r ∨ Claims.acrossRule i = some r) → s.team.namesOk r.names = true →
    ∃ u : Team, exec i s = .next (s.withTeam u)
      ∧ (∀ l ∈ s.team.active, u.rd r.dest l = r.value (s.team.belay r.belay) l)
      ∧ (∀ k, (∀ l ∈ s.team.active, k ≠ s.team.phys r.dest * 1024 + l) → u.lanes.get k = (s.team.belay r.belay).lanes.get k)
      ∧ u.preds = s.team.preds ∧ Team.SameSystem (s.team.belay r.belay) u
      ∧ u.pc = BitVec.ofNat 57 (s.team.pc.toNat + 4 * r.len) ∧ SameStores s (s.withTeam u)

/-- ADD64 and SUB64 give A plus or minus C modulo 2^64, written to both registers of D in the active lanes, the low word in the even
register; their words with an odd register decode to no instruction, which is cause 0x01 at them; a pair outside the allocation
is cause 0x01. (07_core_instructions.md: R97.) -/
def Obligations.PairSums : Prop :=
  ∀ (s : State) (b : Bool) (d a c : BitVec 7),
    (s.team.namesOk [d.toNat, d.toNat + 1, a.toNat, a.toNat + 1, c.toNat, c.toNat + 1] = true →
      exec (.add64 b d a c) s = .next (s.withTeam (((s.team.belay b).wr64 d.toNat s.team.active
        (fun l => (s.team.belay b).rd64 a.toNat l + (s.team.belay b).rd64 c.toNat l)).advance 1))
      ∧ exec (.sub64 b d a c) s = .next (s.withTeam (((s.team.belay b).wr64 d.toNat s.team.active
        (fun l => (s.team.belay b).rd64 a.toNat l - (s.team.belay b).rd64 c.toNat l)).advance 1)))
    ∧ (s.team.namesOk [d.toNat, d.toNat + 1, a.toNat, a.toNat + 1, c.toNat, c.toNat + 1] = false →
      exec (.add64 b d a c) s = .next (s.illegal (.add64 b d a c)) ∧ exec (.sub64 b d a c) s = .next (s.illegal (.sub64 b d a c)))
    ∧ ((d.toNat % 2 = 1 ∨ a.toNat % 2 = 1 ∨ c.toNat % 2 = 1) →
      ∀ w1 w2 w3, decodeWords (encodedWord (.add64 b d a c) 0) w1 w2 w3 = .error .oddPair
        ∧ decodeWords (encodedWord (.sub64 b d a c) 0) w1 w2 w3 = .error .oddPair)
    ∧ (∀ w0 w1, exec (.illegalInstruction w0 w1) s = .next (s.trapHere 0x01 (wordsInfo w0 w1)))

/-- CMP, CMPI, FCMP, PSET, PAND, POR, PXOR and PNOT, whose lane registers lie in the allocation, answer the state in which the bits
of the active lanes of the destination predicate are the form's results (a source field 0 reads as all ones), every other bit
keeps its value, and the team goes on; a lane register outside the allocation is cause 0x01. (04_teams_and_crews.md: R53;
06_formats_and_opcode_map.md: R79; 07_core_instructions.md: R99, R103, R113, R114.) -/
def Obligations.PredicateResults : Prop :=
  ∀ (i : Instr) (r : Claims.PredRule) (s : State), Claims.predRule i = some r →
    (s.team.namesOk r.names = false → exec i s = .next (s.illegal i))
    ∧ (s.team.namesOk r.names = true →
        exec i s = .next (s.withTeam (((s.team.belay r.belay).pwr r.dest s.team.active (r.value (s.team.belay r.belay))).advance 1)))

/-- For every compare and predicate operation whose names are in the allocation: in the next state bit l of the destination
predicate is the form's result for an active lane l below 1,024 and unchanged for any other lane; every other predicate, every
lane register, scalar and flag, and every store of the package is unchanged after the belay wait. (04_teams_and_crews.md: R37,
R53; 07_core_instructions.md: R114.) -/
def Obligations.PredicateBitsReadBack : Prop :=
  ∀ (i : Instr) (r : Claims.PredRule) (s : State), Claims.predRule i = some r → s.team.namesOk r.names = true →
    ∃ u : Team, exec i s = .next (s.withTeam u)
      ∧ (∀ l, (u.preds.get r.dest).getLsbD l =
          if l ∈ s.team.active then r.value (s.team.belay r.belay) l else (s.team.preds.get r.dest).getLsbD l)
      ∧ (∀ n, n ≠ r.dest → u.preds.get n = s.team.preds.get n) ∧ u.lanes = (s.team.belay r.belay).lanes
      ∧ Team.SameSystem (s.team.belay r.belay) u ∧ SameStores s (s.withTeam u)

/-- For each form of majors 0x12 and 0x13, MOVX.s, VANY, VALL and BALLOT, from every state and whatever the mask holds, exec answers
the state in which the scalar (or, for SADD64, the pair) holds the result, the flags are those R115 gives where the form sets
them and unchanged where it does not, and the team goes on past the instruction. BCAST mode 2, whose source lies in the
allocation, answers the state in which sD holds vA of the lowest active lane, or 0 where no lane is active; the flags are
unchanged. (01_assembly_by_example.md: R12; 04_teams_and_crews.md: R40; 05_registers_and_unified_store.md: R58;
06_formats_and_opcode_map.md: R85; 07_core_instructions.md: R113, R115, R116, R110.) -/
def Obligations.ScalarResults : Prop :=
  (∀ (i : Instr) (r : Claims.ScalarRule) (s : State), Claims.scalarRule i = some r →
    exec i s = .next (s.withTeam ((r.apply (s.team.belay r.belay)).advance r.len)))
  ∧ (∀ (s : State) (b : Bool) (d a : BitVec 7), s.team.namesOk [a.toNat] = true →
    exec (.bcast b d a 2) s = .next (s.withTeam (((s.team.belay b).swr d.toNat
      (if s.team.active = [] then 0 else (s.team.belay b).rd a.toNat (Claims.lowest s.team))).advance 1)))

namespace Sys2Proof.Claims

/-- The content of a special register by its index, for a lane of a team (R59, R60). -/
def specialRegister (s : State) (t : Team) (ix lane : Nat) : BitVec 64 :=
  match ix with
  | 0x00 => BitVec.ofNat 64 (lane % 32)
  | 0x01 => BitVec.ofNat 64 (lane / 32)
  | 0x02 => BitVec.ofNat 64 (t.slot.toNat * 16 + t.index)
  | 0x03 => s.crew.crewid.zeroExtend 64
  | 0x04 => BitVec.ofNat 64 (s.crew.coreOf t (lane / 32))
  | 0x05 => BitVec.ofNat 64 (s.crew.coreOf t (lane / 32) / 128)
  | 0x06 => s.dev.devid.zeroExtend 64
  | 0x07 => BitVec.ofNat 64 s.dev.clock
  | 0x08 => BitVec.ofNat 64 s.dev.dtime
  | 0x09 => BitVec.ofNat 64 (s.ctx.genClosed % 2 ^ 32)
  | 0x0A => BitVec.ofNat 64 s.ctx.reef
  | 0x0B => s.ctx.frameno.zeroExtend 64
  | 0x0C => BitVec.ofNat 64 (s.dev.clock / 500 % 64)
  | 0x0D => t.trap.cause.zeroExtend 64
  | 0x0E => t.trap.pc.zeroExtend 64
  | 0x0F => t.trap.info
  | 0x10 => (t.netstat.get lane).zeroExtend 64
  | _ => if s.crew.hasCanvas then s.crew.canvas.summary.zeroExtend 64 else 0

/-- The registers of 64 bits (R59). -/
def isWide (ix : Nat) : Bool := ix == 0x07 || ix == 0x08 || ix == 0x0E || ix == 0x0F

/-- CLOCK and DTIME, whose reads are unchecked (R51, R59). -/
def isTime (ix : Nat) : Bool := ix == 0x07 || ix == 0x08

/-- An outstanding write of a special register: its low half at a key, and its high half at another for a wide one. -/
def timeWrites (scalar : Bool) (lo hi : Nat) (v : BitVec 64) : List RegWrite :=
  [⟨scalar, lo, v.truncate 32, false, 0, none⟩, ⟨scalar, hi, (v >>> 32).truncate 32, false, 0, none⟩]

/-- No canvas instruction of the crew is waiting, so that CXSUM can be read (R60). -/
def canRead (s : State) (ix : Nat) : Prop := ix = 0x11 → s.crew.hasCanvas = true → s.crew.canvas.queue = []

end Sys2Proof.Claims

/-- SREAD of an index up to 0x11, whose destination lies in the allocation, whatever the mask, answers the state in which only the
team has changed and has gone on. Into a lane register: every active lane's register, or even pair for the four 64-bit ones,
holds that lane's content of the special register, and every other register keeps its value; for CLOCK and DTIME the registers
keep their values and those writes are outstanding, lane by lane. Into a scalar or pair: the same with the content for the
lowest active lane; with an empty mask LANE, STRAND and NETSTAT give 0 and the others their content, the core's being that of
strand 0. CXSUM of a crew with canvas instructions waiting: the team waits at itself. SWRITE of TRAPPC, from a scalar pair or
the lowest active lane's pair, below 2^57 and a multiple of 4, makes that TRAPPC, marked as written; one at or above 2^57 is
cause 0x01, another misaligned one cause 0x03, both with TRAPPC as it was; from lanes with an empty mask it only goes on. SWRITE
of NETSTAT whose bits 31:16 and 7:1 are zero in every active lane clears NETSTAT where bit 0 is set there and keeps it
elsewhere; a set one of those bits in an active lane is cause 0x01. The model's choices in this: of a scalar SREAD with an empty mask the
core, and with it COREID and DIEID, is that of strand 0 (log entry 21); CLOCK and DTIME are as of the issue (log entry 20); with an empty
mask the reserved bits of an SWRITE of NETSTAT are not checked (log entry 55). (00_scope.md: R5; 04_teams_and_crews.md: R51;
05_registers_and_unified_store.md: R58, R59, R60; 07_core_instructions.md: R117; 21_traps_and_preemption.md: R325.) -/
def Obligations.SpecialRegisters : Prop :=
  (∀ (s : State) (b : Bool) (d : BitVec 7) (e ix : BitVec 6) (t : Team), t = s.team.belay b → ix.toNat ≤ 0x11 →
    (∀ names, names = (if Claims.isWide ix.toNat then [d.toNat, d.toNat + 1] else [d.toNat]) → s.team.namesOk names = true →
      (Claims.isWide ix.toNat = true → d.toNat % 2 = 0) →
      (Claims.canRead s ix.toNat → ∃ u : Team, exec (.sreadLane b d ix) s = .next (s.withTeam u)
        ∧ u = { t.advance 1 with lanes := u.lanes, unchecked := u.unchecked }
        ∧ (Claims.isTime ix.toNat = false → u.unchecked = t.unchecked
          ∧ (∀ l ∈ t.active, u.lanes.get (t.phys d.toNat * 1024 + l) = (Claims.specialRegister s t ix.toNat l).truncate 32
              ∧ (Claims.isWide ix.toNat = true →
                  u.lanes.get (t.phys (d.toNat + 1) * 1024 + l) = (Claims.specialRegister s t ix.toNat l >>> 32).truncate 32))
          ∧ (∀ k, (∀ l ∈ t.active, ∀ n ∈ names, k ≠ t.phys n * 1024 + l) → u.lanes.get k = t.lanes.get k))
        ∧ (Claims.isTime ix.toNat = true → u.lanes = t.lanes ∧ u.unchecked = t.unchecked ++ t.active.flatMap (fun l =>
            Claims.timeWrites false (t.phys d.toNat * 1024 + l) (t.phys (d.toNat + 1) * 1024 + l) (Claims.specialRegister s t ix.toNat l))))
      ∧ (¬ Claims.canRead s ix.toNat → exec (.sreadLane b d ix) s = .next s.waits))
    ∧ (∀ v, v = (if t.active = [] ∧ (ix = 0x00 ∨ ix = 0x01 ∨ ix = 0x10) then 0 else Claims.specialRegister s t ix.toNat (Claims.lowest t)) →
      (Claims.canRead s ix.toNat → ∃ u : Team, exec (.sreadScalar b e ix) s = .next (s.withTeam u)
        ∧ u = { t.advance 1 with scalars := u.scalars, unchecked := u.unchecked }
        ∧ (Claims.isTime ix.toNat = false → u.unchecked = t.unchecked ∧ u.scalars.get (t.scalarReg e.toNat) = v.truncate 32
          ∧ (Claims.isWide ix.toNat = true → u.scalars.get (t.scalarReg (e.toNat + 1)) = (v >>> 32).truncate 32)
          ∧ (∀ k, k ≠ t.scalarReg e.toNat → (Claims.isWide ix.toNat = true → k ≠ t.scalarReg (e.toNat + 1)) → u.scalars.get k = t.scalars.get k))
        ∧ (Claims.isTime ix.toNat = true → u.scalars = t.scalars
          ∧ u.unchecked = t.unchecked ++ Claims.timeWrites true (t.scalarReg e.toNat) (t.scalarReg (e.toNat + 1)) v)))
    ∧ (¬ Claims.canRead s ix.toNat → exec (.sreadScalar b e ix) s = .next s.waits))
  ∧ (∀ (s : State) (b : Bool) (c : BitVec 6) (v : BitVec 7) (t : Team), t = s.team.belay b →
    (∀ w i lane, (i = .swriteScalar b 0x0E c ∧ lane = 0 ∧ w = t.srd64 c.toNat)
        ∨ (i = .swriteLane b 0x0E v ∧ s.team.namesOk [v.toNat, v.toNat + 1] = true ∧ t.active.head? = some lane ∧ w = t.rd64 v.toNat lane) →
      (w.toNat < 2 ^ 57 → w.toNat % 4 = 0 →
        exec i s = .next (s.withTeam ({ t with trap := { t.trap with pc := w.truncate 57, pcWritten := true } }.advance 1)))
      ∧ (w.toNat < 2 ^ 57 → w.toNat % 4 ≠ 0 → exec i s = .next ((s.withTeam t).vaTrap 0x03 lane w.toNat))
      ∧ (2 ^ 57 ≤ w.toNat → exec i s = .next ((s.withTeam t).illegal i)))
    ∧ (s.team.namesOk [v.toNat, v.toNat + 1] = true → t.active = [] → exec (.swriteLane b 0x0E v) s = .next (s.withTeam (t.advance 1)))
    ∧ (∀ (w : Nat → Word) i, (i = .swriteScalar b 0x10 c ∧ w = fun _ => t.srd c.toNat) ∨ (i = .swriteLane b 0x10 v ∧ s.team.namesOk [v.toNat] = true ∧ w = t.rd v.toNat) →
      ((∀ l ∈ t.active, w l &&& 0xFFFF00FE = 0) → ∃ u : Team, exec i s = .next (s.withTeam u) ∧ u = { t.advance 1 with netstat := u.netstat }
        ∧ ∀ l, u.netstat.get l = if l ∈ t.active ∧ (w l).getLsbD 0 = true then 0 else t.netstat.get l)
      ∧ ((∃ l ∈ t.active, w l &&& 0xFFFF00FE ≠ 0) → exec i s = .next ((s.withTeam t).illegal i))))

/-- A taken BRA whose target (its own address plus 4 times the signed displacement) lies in the address space moves the pc there; a taken
CALL with fewer than 32 frames also pushes a frame with the address after it and the mask-stack depth; one not taken goes on to the next
instruction and checks nothing; JMPI moves to its scalar pair; RET of a CALL frame at its recorded depth pops it and moves to its return
address; NOP goes on. Mask, mask stack, lane registers, scalars, flags and predicates are those after the belay wait. A taken BRA or CALL
whose target lies outside the address space is cause 0x05 (the address it reports, the target modulo 2^57, and its place before cause 0x21
at a CALL are the model's choices, log entries 47 and 59); a taken CALL with 32 frames is cause 0x21; a JMPI whose target is no multiple
of 4 is cause 0x03, whatever its bits at or above 57 (that 0x03 comes first is the model's choice, log entry 59), and another with a bit
at or above 57 is cause 0x05; RET with an empty call stack, or away from its frame's mask-stack depth, is cause 0x01.
(01_assembly_by_example.md: R12; 04_teams_and_crews.md: R40, R48; 06_formats_and_opcode_map.md: R71; 07_core_instructions.md: R119, R120,
R121; 16_memory_and_translation.md: R253.) -/
def Obligations.TransfersOfControl : Prop :=
  (∀ (s : State) (b : Bool) (cc : BitVec 4) (disp : BitVec 21) (a : BitVec 6),
    (s.team.flags.holds cc = true → 0 ≤ s.team.branchTarget disp → s.team.branchTarget disp < 2 ^ 57 →
      exec (.bra b cc disp) s = .next (s.withTeam ((s.team.belay b).jump (s.team.branchTarget disp).toNat))
      ∧ (s.team.cstack.length < 32 → exec (.call b cc disp) s = .next (s.withTeam ({ s.team.belay b with
          cstack := ⟨s.team.pc.toNat + 4, s.team.mstack.length, false⟩ :: s.team.cstack }.jump (s.team.branchTarget disp).toNat))))
    ∧ (s.team.flags.holds cc = false →
      exec (.bra b cc disp) s = .next (s.withTeam ((s.team.belay b).advance 1))
      ∧ exec (.call b cc disp) s = .next (s.withTeam ((s.team.belay b).advance 1)))
    ∧ (((s.team.belay b).srd64 a.toNat).toNat % 4 = 0 → ((s.team.belay b).srd64 a.toNat).toNat < 2 ^ 57 →
      exec (.jmpi b a) s = .next (s.withTeam ((s.team.belay b).jump ((s.team.belay b).srd64 a.toNat).toNat)))
    ∧ (∀ f rest, s.team.cstack = f :: rest → f.callx = false → s.team.mstack.length = f.base → f.ret % 4 = 0 → f.ret < 2 ^ 57 →
      exec (.ret b) s = .next (s.withTeam ({ s.team.belay b with cstack := rest }.jump f.ret)))
    ∧ exec (.nop b) s = .next (s.withTeam ((s.team.belay b).advance 1)))
  ∧ (∀ (s : State) (b : Bool) (cc : BitVec 4) (disp : BitVec 21) (a : BitVec 6),
    (s.team.flags.holds cc = true → (s.team.branchTarget disp < 0 ∨ 2 ^ 57 ≤ s.team.branchTarget disp) →
      exec (.bra b cc disp) s = .next (s.vaTrap 0x05 0 ((s.team.branchTarget disp).emod (2 ^ 57)).toNat)
      ∧ exec (.call b cc disp) s = .next (s.vaTrap 0x05 0 ((s.team.branchTarget disp).emod (2 ^ 57)).toNat))
    ∧ (s.team.flags.holds cc = true → 0 ≤ s.team.branchTarget disp → s.team.branchTarget disp < 2 ^ 57 → 32 ≤ s.team.cstack.length →
      exec (.call b cc disp) s = .next (s.trapHere 0x21 0))
    ∧ (((s.team.belay b).srd64 a.toNat).toNat % 4 ≠ 0 →
      exec (.jmpi b a) s = .next (s.vaTrap 0x03 0 ((s.team.belay b).srd64 a.toNat).toNat))
    ∧ (((s.team.belay b).srd64 a.toNat).toNat % 4 = 0 → 2 ^ 57 ≤ ((s.team.belay b).srd64 a.toNat).toNat →
      exec (.jmpi b a) s = .next (s.vaTrap 0x05 0 ((s.team.belay b).srd64 a.toNat).toNat))
    ∧ (s.team.cstack = [] → exec (.ret b) s = .next (s.illegal (.ret b)))
    ∧ (∀ f rest, s.team.cstack = f :: rest → s.team.mstack.length ≠ f.base → exec (.ret b) s = .next (s.illegal (.ret b))))

/-- From every state TPRI sets the team's priority to its immediate and WDOG sets the team watchdog's counter to 0; WBASE k sets the
window base where k is 0 in an allocation below 128 registers or at most (A - 128) / 32 in a larger one, and is cause 0x01
otherwise. (04_teams_and_crews.md: R40, R49; 05_registers_and_unified_store.md: R56; 07_core_instructions.md: R118;
21_traps_and_preemption.md: R334; 22_task_grace_system_instructions.md: R354.) -/
def Obligations.TeamSettings : Prop :=
  ∀ (s : State) (b : Bool) (n : BitVec 4) (k : BitVec 7),
    exec (.tpri b n) s = .next (s.withTeam ({ s.team.belay b with tpri := n }.advance 1))
    ∧ exec (.wdog b) s = .next (s.withTeam ({ s.team.belay b with wdog := 0 }.advance 1))
    ∧ ((s.team.alloc < 128 ∧ k = 0 ∨ 128 ≤ s.team.alloc ∧ k.toNat ≤ (s.team.alloc - 128) / 32) →
      exec (.wbase b k) s = .next (s.withTeam ({ s.team.belay b with winBase := k.toNat }.advance 1)))
    ∧ ((s.team.alloc < 128 ∧ k ≠ 0 ∨ 128 ≤ s.team.alloc ∧ (s.team.alloc - 128) / 32 < k.toNat) →
      exec (.wbase b k) s = .next (s.illegal (.wbase b k)))

/-- With fewer than 64 entries, IF pushes the mask and narrows it to the predicate, and LOOP pushes the mask with the loop's start.
Above the function's base, ELSE on an IF entry whose arm is the first takes the saved lanes that were not in it; ENDIF pops and
restores; ENDLOOP starts the next pass with the active and continued lanes while there are any, and otherwise pops and restores;
BREAK and CONT, with a LOOP entry above the base, take their lanes out of the mask and of every IF entry above that entry, and
CONT adds them to its continuing lanes. Everything else stays as the belay wait left it. With 64 entries IF and LOOP take cause
0x12; ELSE, ENDIF and ENDLOOP at the base of their function, ELSE on an IF entry that has had its ELSE, ELSE or ENDIF on a LOOP
entry, ENDLOOP on an IF entry, and BREAK and CONT with no LOOP entry above the base, take cause 0x01 and change nothing before the
trap. (04_teams_and_crews.md: R40, R44, R46.) -/
def Obligations.StructuredDivergence : Prop :=
  (∀ (s : State) (b : Bool) (p : BitVec 3),
    (s.team.mstack.length < 64 →
      exec (.ifMask b p) s = .next (s.withTeam ({ s.team.belay b with
        mstack := .ifE s.team.mask (s.team.mask &&& s.team.prd p.toNat) false :: s.team.mstack
        mask := s.team.mask &&& s.team.prd p.toNat }.advance 1))
      ∧ exec (.loop b) s = .next (s.withTeam ({ s.team.belay b with
        mstack := .loopE s.team.mask 0 (s.team.pc.toNat + 4) :: s.team.mstack }.advance 1)))
    ∧ (∀ saved thenM below, s.team.mstack = .ifE saved thenM false :: below → s.team.mstack.length ≠ s.team.depthBase →
      exec (.elseMask b) s = .next (s.withTeam ({ s.team.belay b with
        mstack := .ifE saved thenM true :: below, mask := saved &&& ~~~thenM }.advance 1)))
    ∧ (∀ saved thenM e below, s.team.mstack = .ifE saved thenM e :: below → s.team.mstack.length ≠ s.team.depthBase →
      exec (.endIf b) s = .next (s.withTeam ({ s.team.belay b with mstack := below, mask := saved }.advance 1)))
    ∧ (∀ st, leaveLanes (s.team.mask &&& s.team.prd p.toNat) false (s.team.mstack.length - s.team.depthBase) s.team.mstack = some st →
      exec (.breakMask b p) s = .next (s.withTeam ({ s.team.belay b with
        mstack := st, mask := s.team.mask &&& ~~~(s.team.mask &&& s.team.prd p.toNat) }.advance 1)))
    ∧ (∀ st, leaveLanes (s.team.mask &&& s.team.prd p.toNat) true (s.team.mstack.length - s.team.depthBase) s.team.mstack = some st →
      exec (.contMask b p) s = .next (s.withTeam ({ s.team.belay b with
        mstack := st, mask := s.team.mask &&& ~~~(s.team.mask &&& s.team.prd p.toNat) }.advance 1)))
    ∧ (∀ saved cont start below, s.team.mstack = .loopE saved cont start :: below → s.team.mstack.length ≠ s.team.depthBase →
      (s.team.mask ||| cont ≠ 0 → exec (.endLoop b) s = .next (s.withTeam ({ s.team.belay b with
        mstack := .loopE saved 0 start :: below, mask := s.team.mask ||| cont }.jump start)))
      ∧ (s.team.mask ||| cont = 0 → exec (.endLoop b) s = .next (s.withTeam ({ s.team.belay b with
        mstack := below, mask := saved }.advance 1)))))
  ∧ (∀ (s : State) (b : Bool) (p : BitVec 3),
    (64 ≤ s.team.mstack.length → exec (.ifMask b p) s = .next (s.trapHere 0x12 0) ∧ exec (.loop b) s = .next (s.trapHere 0x12 0))
    ∧ ((s.team.mstack = [] ∨ s.team.mstack.length = s.team.depthBase) →
      exec (.elseMask b) s = .next (s.illegal (.elseMask b)) ∧ exec (.endIf b) s = .next (s.illegal (.endIf b))
      ∧ exec (.endLoop b) s = .next (s.illegal (.endLoop b)))
    ∧ (∀ saved thenM below, s.team.mstack = .ifE saved thenM true :: below → exec (.elseMask b) s = .next (s.illegal (.elseMask b)))
    ∧ (∀ saved cont start below, s.team.mstack = .loopE saved cont start :: below →
      exec (.elseMask b) s = .next (s.illegal (.elseMask b)) ∧ exec (.endIf b) s = .next (s.illegal (.endIf b)))
    ∧ (∀ saved thenM e below, s.team.mstack = .ifE saved thenM e :: below → exec (.endLoop b) s = .next (s.illegal (.endLoop b)))
    ∧ (leaveLanes (s.team.mask &&& s.team.prd p.toNat) false (s.team.mstack.length - s.team.depthBase) s.team.mstack = none →
      exec (.breakMask b p) s = .next (s.illegal (.breakMask b p)))
    ∧ (leaveLanes (s.team.mask &&& s.team.prd p.toNat) true (s.team.mstack.length - s.team.depthBase) s.team.mstack = none →
      exec (.contMask b p) s = .next (s.illegal (.contMask b p))))

/-- CALLX whose pair lies in the allocation, with an active lane, aligned targets, room on both stacks and a lowest target in the
address space, pushes a CALLX entry with the lanes of other targets pending and a frame, narrows the mask to the lanes of the
lowest target, and goes there. RET on its frame goes to the lowest target of the pending lanes, or, where none is pending,
restores the mask, pops both stacks and returns. With an empty mask CALLX only goes on. (04_teams_and_crews.md: R48;
05_registers_and_unified_store.md: R56; 06_formats_and_opcode_map.md: R71; 07_core_instructions.md: R119, R121.) -/
def Obligations.CallxDispatches : Prop :=
  ∀ (s : State) (b : Bool) (a : BitVec 7),
    (s.team.namesOk [a.toNat, a.toNat + 1] = true → s.team.active = [] → exec (.callx b a) s = .next (s.withTeam ((s.team.belay b).advance 1)))
    ∧ (∀ t p, t = s.team.belay b → p = t.pick t.mask (t.phys a.toNat) → s.team.namesOk [a.toNat, a.toNat + 1] = true → s.team.active ≠ [] →
      (∀ l ∈ s.team.active, t.laneTarget (t.phys a.toNat) l % 4 = 0) → s.team.mstack.length < 64 → s.team.cstack.length < 32 →
      p.target % 4 = 0 → p.target < 2 ^ 57 →
      exec (.callx b a) s = .next (s.withTeam ({ t with
        mstack := .callxE t.mask (t.mask &&& ~~~p.group) (t.phys a.toNat) :: t.mstack
        cstack := ⟨t.pc.toNat + 4, t.mstack.length + 1, true⟩ :: t.cstack
        mask := p.group }.jump p.target)))
    ∧ (∀ f rest saved pending reg below, s.team.cstack = f :: rest → f.callx = true → s.team.mstack.length = f.base →
      s.team.mstack = .callxE saved pending reg :: below →
      (pending.lanesOf s.team.width = [] →
        exec (.ret b) s = .next (s.withTeam ({ s.team.belay b with mask := saved, mstack := below, cstack := rest }.jump f.ret)))
      ∧ (pending.lanesOf s.team.width ≠ [] → ∀ p, p = (s.team.belay b).pick pending reg → p.target % 4 = 0 → p.target < 2 ^ 57 →
        exec (.ret b) s = .next (s.withTeam ({ s.team.belay b with
          mstack := .callxE saved (pending &&& ~~~p.group) reg :: below, mask := p.group }.jump p.target))))

namespace Sys2Proof.Claims

/-- The round of a barrier with the issuing team's arrival: a present round goes on, otherwise one of the instruction's form begins (R30). -/
def arriveAt (n : Nat) (counted x : Bool) (k index : Nat) (rounds : List Round) : List Round :=
  match rounds.find? (fun r => r.n == n) with
  | some r => ⟨n, counted, x, k, r.arrived ++ [index]⟩ :: rounds.filter (fun q => q.n != n)
  | none => ⟨n, counted, x, k, [index]⟩ :: rounds

/-- What a crew barrier of a form does: the team's earlier accesses are fenced at its crew, it parks at the barrier with its arrival counted and the
crew's watchdog restarted, which is a quiescent point outside read sections, and then every barrier of the crew that is complete lets its
teams go (R28, R30, R290, R295). -/
def barrierArrival (s : State) (n : Nat) (counted x : Bool) (k : Nat) : State :=
  let s1 := s.fenceCrew
  let s2 : State := { s1 with
    team := { s1.team with state := .parked, park := .barrier n }
    crew := { s1.crew with rounds := arriveAt n counted x k s1.team.index s1.crew.rounds, wdCount := 0 } }
  State.completeBarriers (if s2.team.nest = 0 then s2.quiesce else s2) s1.crew.key

end Sys2Proof.Claims

/-- Where the barrier has no round present or one of the instruction's own form and count, and the canvas has no delivery pending,
each of the four forms, whatever the mask, answers the state in which the team's arrival is counted, the team is parked at the
barrier, the crew's watchdog count is 0, with a nesting count of 0 a quiescent point has been passed, and every complete round
has let its teams go on past their barrier. A present round of another form is cause 0x01. (03_program_lost_team.md: R28, R30;
04_teams_and_crews.md: R40, R54; 07_core_instructions.md: R122; 18_ordering.md: R290.) -/
def Obligations.CrewBarriersArrive : Prop :=
  ∀ (s : State) (b : Bool) (n : BitVec 4) (k : BitVec 7), s.crew.canvas.pend = none →
    (∀ form ∈ [(Instr.bar b n, false, false, 0), (.barC b k n, true, false, k.toNat), (.barX b n, false, true, 0), (.barXC b k n, true, true, k.toNat)],
      ((∀ r, s.crew.rounds.find? (fun r => r.n == n.toNat) = some r → r.counted = form.2.1 ∧ r.x = form.2.2.1 ∧ r.k = form.2.2.2) →
        exec form.1 s = .next (Claims.barrierArrival (s.withTeam (s.team.belay b)) n.toNat form.2.1 form.2.2.1 form.2.2.2))
      ∧ (∀ r, s.crew.rounds.find? (fun r => r.n == n.toNat) = some r → (r.counted ≠ form.2.1 ∨ r.x ≠ form.2.2.1 ∨ r.k ≠ form.2.2.2) →
        exec form.1 s = .next (s.illegal form.1)))

/-- With an active lane, EXIT answers the state in which the team has exited with an empty mask stack and no replay mask, its outstanding
loads and its LDAs are gone, and so are the uncommitted results, quotas and deferred causes of its other operations, its open bank round is closed
and its acknowledged or empty rounds are gone, and the crew's complete barriers have let their teams go; with an empty mask it
only goes on. That an exited team's outstanding loads count as performed at their issue is the model's choice (log entry 11).
(03_program_lost_team.md: R29, R30; 04_teams_and_crews.md: R41; 24_near_bank_units.md: R369.) -/
def Obligations.ExitEndsTeam : Prop :=
  ∀ (s : State) (b : Bool),
    (s.team.active = [] → exec (.exit b) s = .next (s.withTeam ((s.team.belay b).advance 1)))
    ∧ (s.team.active ≠ [] → exec (.exit b) s = .next (State.completeBarriers { s with
        team := { s.team.belay b with state := .exited, park := .awake, mstack := [], replay := none, unchecked := [] }
        ops := (s.ops.filterMap (fun o => if o.team = s.team.key then (match o.work with
            | .lda _ _ => none
            | _ => some { o with landed := [], quota := 0, cause := none }) else some o)).filter (fun o => !o.spent)
        rounds := (s.rounds.filter (fun r => !(r.team == s.team.key && (r.acked || r.given == 0)))).map (fun r =>
          if r.team = s.team.key then { r with isOpen := false, fails := [] } else r) } s.team.crew))

namespace Sys2Proof.Claims

/-- Every lane of an access is aligned, in the address space, and translates (R252, R261). -/
def AllLocated (size : Nat) (ls : List LaneAcc) : Prop := ∀ x ∈ ls, x.va % size = 0 ∧ x.va < 2 ^ 57 ∧ ∃ l, x.res = .ok l

/-- A form of a lane access: the instruction, its offset word, and its length. -/
abbrev Form := Instr × Int × Nat

/-- The two forms of LD. -/
def ldForms (b : Bool) (q : BitVec 2) (ty : BitVec 3) (d a : BitVec 7) (e : BitVec 5) (off : Word) : List Form :=
  [(.ld b q ty d a e, 0, 1), (.ldOffset b q ty d a e off, off.toInt, 2)]

/-- The two forms of ST. -/
def stForms (b : Bool) (q : BitVec 2) (ty : BitVec 3) (d a : BitVec 7) (e : BitVec 5) (off : Word) : List Form :=
  [(.st b q ty d a e, 0, 1), (.stOffset b q ty d a e off, off.toInt, 2)]

/-- The two forms of LDA. -/
def ldaForms (b : Bool) (q : BitVec 2) (ty : BitVec 3) (d a : BitVec 7) (e : BitVec 5) (off : Word) : List Form :=
  [(.lda b q ty d a e, 0, 1), (.ldaOffset b q ty d a e off, off.toInt, 2)]

/-- The two forms of SLD with their offset and length. -/
def sldForms (b : Bool) (q w : BitVec 2) (d : BitVec 6) (e : BitVec 5) (off : Word) : List Form :=
  [(.sld b q w d e, 0, 1), (.sldOffset b q w d e off, off.toInt, 2)]

/-- The two forms of SST with their offset and length. -/
def sstForms (b : Bool) (q w : BitVec 2) (d : BitVec 6) (e : BitVec 5) (off : Word) : List Form :=
  [(.sst b q w d e, 0, 1), (.sstOffset b q w d e off, off.toInt, 2)]

/-- The register writes that a load of a team makes for the lanes that translate, in strand order: each lane's bytes as its core
finds them as of the step in which the lane reads, zero- or sign-extended, and, for .rlx and .fr of device memory, where the load may
still be performed later (R77, R241, R264). -/
def loadedWrites (s : State) (t : Team) (q : BitVec 2) (ty d : Nat) (ok : List (Nat × Nat × Loc)) : List RegWrite :=
  ok.flatMap (fun x => laneWrites (t.phys d) x.1 ty
    (extendLoad ty (s.loadValAt (s.laneMoment q (typeSize ty) x) (s.crew.coreOf t (x.1 / 32)) t.key (q != 0) x.2.2 (typeSize ty))) s.tick
    (loadSrc s q.toNat x.1 (s.crew.coreOf t (x.1 / 32)) x.2.2 ty))

/-- The physical byte addresses that a store of `size` bytes at the lanes' locations writes: both replicas on a replicated page (R246). -/
def storedAddresses (size : Nat) (ls : List LaneAcc) : List Nat :=
  (located ls).flatMap (fun x => (List.range size).flatMap (fun i =>
    if x.2.2.repl then [x.2.2.pa + i, x.2.2.pa + i + 2 ^ 39] else [x.2.2.pa + i]))

/-- A physical address lies in a 128-byte line, of either replica, that the lanes store to. -/
def InStoredLine (size : Nat) (ls : List LaneAcc) (p : Nat) : Prop :=
  ∃ x ∈ located ls, ∃ i < size, p / 128 = (x.2.2.pa + i) / 128 ∨ p / 128 = (x.2.2.pa + i + 2 ^ 39) / 128

/-- The lines that a core's buffer would hold with the bytes of the lanes added are at most its 64 entries (R244). -/
def BufferHolds (s : State) (size : Nat) (ls : List LaneAcc) : Prop :=
  ∀ core, (((s.core core).wcb.map (fun (b : StoreByte) => b.addr / 128))
    ++ (located ls).flatMap (fun (x : Nat × Nat × Loc) => (List.range size).map (fun i => (x.2.2.pa + i) / 128))).eraseDups.length ≤ 64

end Sys2Proof.Claims

/-- LD (both forms), whose registers lie in the allocation and which has an acting lane, all of them aligned, in the address space and
translating, answers the state in which what must come before the lanes has been performed (the team's own stores and atomics to
those bytes, and with .sc every pending .sc store), the team has one outstanding write per register and lane in strand order
with the bytes that the lane's core finds there, extended by type, what the load orders is noted of the team, the team has gone on,
and memory, crew and context are as before the lanes read. With no acting lane it only goes on. SLD (both forms) of an aligned
address that translates does the same for its scalar or pair. An .sc load reads in this step; which step another lane reads as of,
of those that nothing orders it after, is a free choice of the model's (log entry 11). (04_teams_and_crews.md: R39, R51, R52;
06_formats_and_opcode_map.md: R77; 15_program_table_update.md: R241; 16_memory_and_translation.md: R252;
17_memory_instructions.md: R260, R261, R262, R263, R264, R268; 18_ordering.md: R289.) -/
def Obligations.LoadsComplete : Prop :=
  ∀ (s : State) (b : Bool) (q w : BitVec 2) (ty : BitVec 3) (d a : BitVec 7) (d6 : BitVec 6) (e : BitVec 5) (off : Word) (t : Team), t = s.team.belay b →
    (∀ f ∈ Claims.ldForms b q ty d a e off, ∀ ls s0 u, ls = s.lanesAt t .read (t.laneAddr (2 * e.toNat) a.toNat f.2.1) →
      s.team.namesOk (accessNames ty.toNat d.toNat a.toNat) = true →
      (t.acting = [] → exec f.1 s = .next (s.withTeam (t.advance f.2.2)))
      ∧ (t.acting ≠ [] → Claims.AllLocated (typeSize ty.toNat) ls →
        s0 = (s.withTeam t).prepareLoad q (typeSize ty.toNat) (located ls) → u = s0.afterLanes q (typeSize ty.toNat) (located ls) s0.team →
        ∃ s', exec f.1 s = .next s' ∧ s'.team = ({ u with
            unchecked := u.unchecked ++ Claims.loadedWrites s0 s0.team q ty.toNat d.toNat (located ls) }.advance f.2.2)
          ∧ s'.mem = s0.mem ∧ s'.crew = s.crew ∧ s'.ctx = s.ctx ∧ s'.scStores = s0.scStores ∧ s'.weights = s.weights))
    ∧ (∀ f ∈ Claims.sldForms b q w d6 e off, ∀ va size l s0 v u, va = t.scalarAddr (2 * e.toNat) f.2.1 → size = (if w = 1 then 8 else 4) →
      va % size = 0 → va < 2 ^ 57 → s.translate (s.crew.coreOf t 0) va .read = .ok l →
      s0 = (s.withTeam t).prepareLoad q size [(0, va, l)] → u = s0.afterLanes q size [(0, va, l)] s0.team →
      v = BitVec.ofNat 64 (s0.loadValAt (s0.laneMoment q size (0, va, l)) (s.crew.coreOf t 0) t.key (q != 0) l size) →
      ∃ s', exec f.1 s = .next s' ∧ s'.mem = s0.mem ∧ s'.crew = s.crew ∧ s'.ctx = s.ctx ∧ s'.weights = s.weights
        ∧ s'.team = ({ u with
            unchecked := u.unchecked ++ scalarWrites u w d6.toNat v s0.tick (loadSrc s0 q.toNat 0 (s.crew.coreOf t 0) l (if w = 1 then 3 else 2)) }.advance f.2.2))
    ∧ (∀ (s0 : State) (n : Nat) (x : Nat × Nat × Loc), s0.laneMoment 2 n x = s0.tick)

/-- ST (both forms), whose registers lie in the allocation and which has an acting lane, all of them aligned, in the address space and
translating for writing: after what must come before it (the release that .rel or .sc asks for and the team's own accesses to
those bytes), the lanes' bytes, read with their addresses at issue, enter the write-combining buffers of their cores in strand
order, or, with .sc, the queue of .sc stores, and the team goes on; where the buffer of a core has not room for the lines that its
lanes store to beside other lines in use, a store without .sc waits at issue. With no acting lane ST only goes on: nothing drains.
SST (both forms) does the same with its scalar or pair. (04_teams_and_crews.md: R39, R52;
15_program_table_update.md: R241; 16_memory_and_translation.md: R243, R244, R252; 17_memory_instructions.md: R260, R261, R262,
R263, R265, R268.) -/
def Obligations.StoresComplete : Prop :=
  ∀ (s : State) (b : Bool) (q w : BitVec 2) (ty : BitVec 3) (d a : BitVec 7) (d6 : BitVec 6) (e : BitVec 5) (off : Word) (t : Team), t = s.team.belay b →
    (∀ f ∈ Claims.stForms b q ty d a e off, ∀ ls s0, ls = s.lanesAt t .write (t.laneAddr (2 * e.toNat) a.toNat f.2.1) →
      s.team.namesOk (accessNames ty.toNat d.toNat a.toNat) = true →
      (t.acting = [] → exec f.1 s = .next (s.withTeam (t.advance f.2.2)))
      ∧ (t.acting ≠ [] → Claims.AllLocated (typeSize ty.toNat) ls →
        s0 = (s.withTeam t).prepareStore q (spansOf (typeSize ty.toNat) (located ls)) →
        ((q = 2 ∨ s0.noRoom (located ls) = false) → ∀ s1, s1 = (s0.storeLanes (q == 2) t ty.toNat d.toNat (located ls)).touch ls →
          exec f.1 s = .next (s1.withTeam (s1.team.advance f.2.2)))
        ∧ (q ≠ 2 → s0.noRoom (located ls) = true → exec f.1 s = .next s0.waits)))
    ∧ (∀ f ∈ Claims.sstForms b q w d6 e off, ∀ va size l s0 v, va = t.scalarAddr (2 * e.toNat) f.2.1 → size = (if w = 1 then 8 else 4) →
      va % size = 0 → va < 2 ^ 57 → s.translate (s.crew.coreOf t 0) va .write = .ok l →
      s0 = (s.withTeam t).prepareStore q (l.span size) → v = (if w = 1 then (t.srd64 d6.toNat).toNat else (t.srd d6.toNat).toNat) →
      (q = 2 → ∃ s', exec f.1 s = .next s' ∧ s'.team = s0.team.advance f.2.2
        ∧ s'.scStores = s0.scStores ++ storeBytes t.key (s.crew.coreOf t 0) l size v)
      ∧ (q ≠ 2 → s0.noRoom [(0, va, l)] = false → ∃ s', exec f.1 s = .next s' ∧ s'.team = s0.team.advance f.2.2
        ∧ s'.mem = (s0.bufferStore (s.crew.coreOf t 0) l size v).mem
        ∧ (∀ core, (s'.core core).wcb = ((s0.bufferStore (s.crew.coreOf t 0) l size v).core core).wcb))
      ∧ (q ≠ 2 → s0.noRoom [(0, va, l)] = true → exec f.1 s = .next s0.waits))

/-- For ST of either form without .sc that has an acting lane and whose lanes all translate, while the cores' write-combining buffers can
hold the lines it stores to: every byte of device memory outside the 128-byte lines that the lanes' locations give (computed with the
store's own addresses and translation) reads at its home slice as before the store, and is buffered, or not, as before; in a crew of one
core every byte of device memory does, and every byte outside the stored addresses is buffered, or not, as before. All registers, flags
and predicates are those that the store's release leaves; crew, context, weight stores and semaphores are unchanged. In a core pair a
store drains the whole line of the partner's buffer in which the team itself has stored to the same byte. (15_program_table_update.md:
R241; 16_memory_and_translation.md: R243, R244, R246; 17_memory_instructions.md: R260, R262, R265.) -/
def Obligations.StoresTouchOnlyTheirBytes : Prop :=
  ∀ (s : State) (b : Bool) (q : BitVec 2) (ty : BitVec 3) (d a : BitVec 7) (e : BitVec 5) (off : Word) (t : Team), q ≠ 2 → t = s.team.belay b →
    ∀ f ∈ Claims.stForms b q ty d a e off, ∀ ls s0, ls = s.lanesAt t .write (t.laneAddr (2 * e.toNat) a.toNat f.2.1) →
      s0 = (s.withTeam t).prepareStore q (spansOf (typeSize ty.toNat) (located ls)) →
      s.team.namesOk (accessNames ty.toNat d.toNat a.toNat) = true → t.acting ≠ [] → Claims.AllLocated (typeSize ty.toNat) ls →
      Claims.BufferHolds s0 (typeSize ty.toNat) ls →
      ∃ s', exec f.1 s = .next s'
        ∧ (∀ p, ¬ Claims.InStoredLine (typeSize ty.toNat) ls p →
            s'.sliceByte p = s0.sliceByte p ∧ ∀ core, (s'.core core).buffered p = (s0.core core).buffered p)
        ∧ (s.crew.pair = false → SameMemory s0 s'
            ∧ ∀ core p, p ∉ Claims.storedAddresses (typeSize ty.toNat) ls → (s'.core core).buffered p = (s0.core core).buffered p)
        ∧ s'.team.lanes = s0.team.lanes ∧ s'.team.preds = s0.team.preds ∧ Team.SameSystem s0.team s'.team
        ∧ s'.crew = s0.crew ∧ s'.ctx = s0.ctx ∧ s'.weights = s0.weights ∧ s'.semaphores = s0.semaphores

/-- For LD of either form: where a lane's address is no multiple of the access size, cause 0x03 at the first such lane; else where
one has a bit at or above 57, cause 0x05 at the first such lane; in both cases no lane acts. ST of either form is the same and,
where both checks pass and a lane's page lies in the weight store, is cause 0x07 at the first such lane before any acts. Where
LD's checks pass and every lane that does not translate has cause 0x04 or 0x06 (and the kernel has declined no fault of it), the
other lanes are loaded, the replay mask becomes the unfinished lanes, the team parks at the same instruction, and a service
record goes to the masthead kernel; where one of them has cause 0x05, the others are loaded, the replay mask becomes the
unfinished lanes and the team takes cause 0x05 for the first lane that has it. (07_core_instructions.md: R92;
16_memory_and_translation.md: R252, R253; 17_memory_instructions.md: R261, R264, R265.) -/
def Obligations.AccessesThatFault : Prop :=
  ∀ (s : State) (b : Bool) (q : BitVec 2) (ty : BitVec 3) (d a : BitVec 7) (e : BitVec 5) (off : Word) (t : Team) (n : Nat), t = s.team.belay b →
    n = typeSize ty.toNat → s.team.namesOk (accessNames ty.toNat d.toNat a.toNat) = true →
    (∀ f acc, (f ∈ Claims.ldForms b q ty d a e off ∧ acc = Access.read) ∨ (f ∈ Claims.stForms b q ty d a e off ∧ acc = Access.write) →
      ∀ ls, ls = s.lanesAt t acc (t.laneAddr (2 * e.toNat) a.toNat f.2.1) →
      (∀ x, ls.find? (fun x => x.va % n != 0) = some x → exec f.1 s = .next (s.vaTrap 0x03 x.lane x.va))
      ∧ (∀ x, (∀ y ∈ ls, y.va % n = 0) → ls.find? (fun x => decide (2 ^ 57 ≤ x.va)) = some x → exec f.1 s = .next (s.vaTrap 0x05 x.lane x.va))
      ∧ (∀ before x after, ls = before ++ x :: after → (∀ y ∈ ls, y.va % n = 0 ∧ y.va < 2 ^ 57) → (∀ y ∈ before, y.res ≠ .error 0x07) → x.res = .error 0x07 →
          exec f.1 s = .next (s.vaTrap 0x07 x.lane x.va)))
    ∧ (∀ f ∈ Claims.ldForms b q ty d a e off, ∀ ls s0 u rest, ls = s.lanesAt t .read (t.laneAddr (2 * e.toNat) a.toNat f.2.1) →
      rest = unlocated .read ls → s0 = (s.withTeam t).prepareLoad q n (located ls) → u = s0.afterLanes q n (located ls) s0.team →
      (∀ x ∈ ls, x.va % n = 0 ∧ x.va < 2 ^ 57 ∧ x.res ≠ .error 0x07) → rest ≠ [] →
      ((∀ x ∈ rest, x.cause = 0x04 ∨ x.cause = 0x06) → s.team.declined = none →
        ∃ s', exec f.1 s = .next s' ∧ s'.team.state = .parked ∧ s'.team.park = .memFault rest ∧ s'.team.pc = s.team.pc
          ∧ s'.team.replay = some (Mask.ofFn s.team.width (fun l => rest.any (fun g => g.lane == l)))
          ∧ s'.team.unchecked = u.unchecked ++ Claims.loadedWrites s0 s0.team q ty.toNat d.toNat (located ls) ∧ s'.mem = s0.mem
          ∧ s'.dev.reports.service.length = s.dev.reports.service.length + 1)
      ∧ (∀ x, rest.find? (fun g => g.cause == 0x05) = some x → ∃ s1 : State, exec f.1 s = .next (s1.vaTrap 0x05 x.lane x.va)
          ∧ s1.team.replay = some (Mask.ofFn s.team.width (fun l => rest.any (fun g => g.lane == l))) ∧ s1.team.pc = s.team.pc
          ∧ s1.team.unchecked = u.unchecked ++ Claims.loadedWrites s0 s0.team q ty.toNat d.toNat (located ls) ∧ s1.mem = s0.mem))

/-- LDP and STP of either form, whose registers lie in the allocation and whose active lanes are aligned and inside the limit: without
.reg LDP leaves each lane's scratchpad bytes (as the team sees them, under the region's or the swizzle's mapping, extended by type) as
outstanding writes and notes whose stores the team has found there, and STP writes each lane's bytes in strand order; with .reg they read
and write the words of the team's own register image. The team goes on; memory is unchanged. (05_registers_and_unified_store.md: R63, R64;
06_formats_and_opcode_map.md: R78; 13_matrix_array_and_tags.md: R196; 17_memory_instructions.md: R261, R262, R267.) -/
def Obligations.ScratchpadAccesses : Prop :=
  ∀ (s : State) (b : Bool) (w ty : BitVec 3) (d a : BitVec 7) (off : Word) (t : Team), t = s.team.belay b →
    s.team.namesOk (accessNames ty.toNat d.toNat a.toNat) = true →
    ∀ f ∈ [(0, 1), (1, 2)], ∀ o, o = (if f.1 = 0 then 0 else off) →
      (spadCheck (typeSize ty.toNat) s.crew.spadSize (t.spadAddr a.toNat o) t.active = none →
        (∀ i ∈ (if f.1 = 0 then [Instr.ldp b w d a ty false] else [.ldpOffset b w d a ty false off]),
          exec i s = .next ((s.sawPad (t.active.flatMap (fun l => s.crew.bytesAt w.toNat (typeSize ty.toNat) (t.spadAddr a.toNat o l)))).withTeam
            ({ t with unchecked := t.unchecked ++ t.active.flatMap (fun l =>
            laneWrites (t.phys d.toNat) l ty.toNat (extendLoad ty.toNat (ofLeBytes (s.spadRead s.crew ⟨t.index, .lanes, s.tick⟩
              (s.crew.mapAt w.toNat (t.spadAddr a.toNat o l)) (t.spadAddr a.toNat o l) (typeSize ty.toNat)))) s.tick none) }.advance f.2)))
        ∧ (∀ i ∈ (if f.1 = 0 then [Instr.stp b w d a ty false] else [.stpOffset b w d a ty false off]),
          exec i s = .next ({ s with
            team := t.advance f.2
            crew := t.active.foldl (fun (c : Crew) l => c.write (decide (1 < s.crew.nteams) || s.enginesBusy s.crew) t.index none s.tick
              (c.mapAt w.toNat (t.spadAddr a.toNat o l)) (t.spadAddr a.toNat o l) (leBytes (typeSize ty.toNat) (t.storeData ty.toNat d.toNat l))) s.crew } : State)))
      ∧ (spadCheck 4 (128 * t.strands * (t.alloc + 16) + 1188) (t.spadAddr a.toNat o) t.active = none →
        (∀ i ∈ (if f.1 = 0 then [Instr.ldp b w d a ty true] else [.ldpOffset b w d a ty true off]),
          exec i s = .next (s.withTeam ({ t with
            unchecked := t.unchecked ++ t.active.map (fun l => (⟨false, t.phys d.toNat * 1024 + l, t.imageRead (t.spadAddr a.toNat o l), true, s.tick, none⟩ : RegWrite)) }.advance f.2)))
        ∧ (∀ i ∈ (if f.1 = 0 then [Instr.stp b w d a ty true] else [.stpOffset b w d a ty true off]),
          exec i s = .next (s.withTeam (((t.active.map (fun l => (t.spadAddr a.toNat o l, t.rd d.toNat l))).foldl
            (fun u x => u.imageWrite x.1 x.2) t).advance f.2))))

/-- LDA (either form) of no replay, with an active lane, all lanes translating and quota free, adds an operation with a lane to land for
each lane to the open batch and goes on, with .sc once the lanes have read their values in the order of their tickets; with no acting lane
it only goes on. BATCH, with fewer than 128 batches behind or the old one completed, gives sD the batch's number modulo 256 and opens the
next. WAITB and COMMIT of a completed named batch observe it, COMMIT after writing its landed data once; where no operation of the team up
to that batch has a cause to raise they go on, what the team accesses later following the acquiring operations of those batches, the data
of a COMMIT written in the order of issue and its quota free. Of a batch that is not completed they park; of a number that names none of
the latest 128 closed batches they are cause 0x01. (04_teams_and_crews.md: R53; 05_registers_and_unified_store.md: R57, R67, R68;
16_memory_and_translation.md: R252; 17_memory_instructions.md: R263, R266, R275.) -/
def Obligations.BatchesAndLandings : Prop :=
  ∀ (s : State) (b : Bool) (q : BitVec 2) (ty : BitVec 3) (d a : BitVec 7) (d6 : BitVec 6) (e : BitVec 5) (off : Word) (u : Team), u = s.team.belay b →
    (∀ f ∈ Claims.ldaForms b q ty d a e off, ∀ ls s0, ls = s.lanesAt u .read (u.laneAddr (2 * e.toNat) a.toNat f.2.1) →
      s.team.namesOk (accessNames ty.toNat d.toNat a.toNat) = true →
      (u.acting = [] → exec f.1 s = .next (s.withTeam (u.advance f.2.2)))
      ∧ (Claims.AllLocated (typeSize ty.toNat) ls → s0 = (s.withTeam u).prepareLoad q (typeSize ty.toNat) (located ls) →
      s.team.replay = none → s.team.active ≠ [] → s0.team.ldaQuota ty.toNat ≤ s0.quotaFree →
      ∀ s1 s2, s2 = (s0.addOp (.lda ((located ls).map (fun (x : Nat × Nat × Loc) => ({ lane := x.1, loc := x.2.2, type := ty.toNat, bypass := q != 0, acq := q == 1 || q == 2, reg := s0.team.phys d.toNat, val := if q = 2 then some (extendLoad ty.toNat (s0.loadVal (s.crew.coreOf s0.team (x.1 / 32)) s0.team.key true x.2.2 (typeSize ty.toNat))) else none } : LdaLane))) false)
          (s0.team.ldaQuota ty.toNat)) → s1 = (if q = 2 then s2.ldaSc s0.team.openBatch (typeSize ty.toNat) (located ls) else s2).touch ls →
        exec f.1 s = .next (s1.withTeam (s1.team.advance f.2.2))))
    ∧ ((s.team.openBatch < 128 ∨ s.batchDone u (s.team.openBatch - 128) = true) →
      ∃ s', exec (.batch b d6) s = .next s' ∧ s'.team = ({ (u.swr d6.toNat (BitVec.ofNat 32 (s.team.openBatch % 256))) with
          openBatch := s.team.openBatch + 1, closedAny := true
          committed := s.team.committed.filter (fun k => decide (s.team.openBatch < k + 128)) } : Team).advance 1 ∧ s'.mem = s.mem)
    ∧ (∀ n, u.namedBatch (u.srd d6.toNat).toNat = some (Int.ofNat n) →
      (s.batchDone u n = true →
        exec (.waitb b d6) s = .next ((s.withTeam u).observe n false)
        ∧ (n ∈ s.team.committed → exec (.commit b d6) s = .next ((s.withTeam u).observe n true))
        ∧ (n ∉ s.team.committed → exec (.commit b d6) s = .next (((s.withTeam u).commitBatch n).observe n true))
        ∧ ((∀ o ∈ s.ops, o.team = s.team.key → o.batch ≤ n → o.cause = none) →
          (∃ s', exec (.waitb b d6) s = .next s' ∧ s'.team = (u.observeBatch n).advance 1 ∧ s'.ops = s.ops ∧ s'.mem = s.mem)
          ∧ ∃ s' : State, exec (.commit b d6) s = .next s' ∧ s'.mem = s.mem ∧ s'.team.pc = BitVec.ofNat 57 (s.team.pc.toNat + 4)
            ∧ (n ∈ s.team.committed → s'.team = (u.observeBatch n).advance 1)
            ∧ (n ∉ s.team.committed → n ∈ s'.team.committed ∧ (∀ o ∈ s'.ops, o.team = s.team.key → o.batch = n → o.landed = [] ∧ o.quota = 0)
              ∧ ∀ done, done = (s.ops.filter (fun o => o.team == s.team.key && o.batch == n)).flatMap (fun o => o.landed) →
                s'.team.lanes = (done.foldl Team.land u).lanes ∧ s'.team.scalars = (done.foldl Team.land u).scalars)))
      ∧ (s.batchDone u n = false →
        exec (.waitb b d6) s = .next (s.withTeam { u with state := .parked, park := .waitb n })
        ∧ exec (.commit b d6) s = .next (s.withTeam { u with state := .parked, park := .commit n })))
    ∧ (u.namedBatch (u.srd d6.toNat).toNat = none →
      exec (.waitb b d6) s = .next (s.illegal (.waitb b d6)) ∧ exec (.commit b d6) s = .next (s.illegal (.commit b d6)))

namespace Sys2Proof.Claims

/-- The state in which the lanes of an ATOM of order code Q take effect: with .sc every pending .sc store has been performed, and with .rel
and .sc the release; then the team's own accesses to the bytes of the lanes, its buffered stores to them on its cores, and its outstanding
loads of them (R241, R262, R263, R265, R271). -/
def atomicPoint (s : State) (t : Team) (q : BitVec 2) (n : Nat) (ls : List LaneAcc) : State :=
  let s0 := if q = 3 then (s.withTeam t).performSc.release else if q = 2 then (s.withTeam t).release else s.withTeam t
  let s1 := (located ls).foldl (fun s x => s.beforeLoad true (s.crew.coreOf t (x.1 / 32)) x.2.2 n) (s0.settleOver (spansOf n (located ls)))
  (s1.withTeam (s1.team.fixLoads true (spansOf n (located ls)))).touch ls

end Sys2Proof.Claims

/-- ATOM whose registers lie in the allocation and which has an acting lane, all of them translating, orders as its Q asks. Without .sc
it queues one atomic per acting lane with the operands read at issue, and goes on; with .sc, whose tickets it takes at issue, its
lanes execute at once in strand order, and it goes on. With no acting lane it only goes on: nothing is performed.
ATOMIC_EXECUTE with one lane of the team queued performs it, after the stores of its own core to those bytes: the location holds
the operation's new value on every replica and, without .nr, the lane's register the old value, and with .acq the team's later
accesses follow it; where the team's queued lanes are those of one ATOM that name one address, it performs them one after another in
strand order, nothing coming between; a team with none is left as it is. That the lanes of an .sc ATOM execute in its own step is the
model's reading (log entry 18). (04_teams_and_crews.md: R39; 15_program_table_update.md: R241; 16_memory_and_translation.md: R246;
17_memory_instructions.md: R260, R261, R262, R263, R265, R269, R270, R271, R273; 18_ordering.md: R285.) -/
def Obligations.AtomicsExecute : Prop :=
  (∀ (s : State) (b : Bool) (q : BitVec 2) (d a c : BitVec 7) (e : BitVec 5) (op : BitVec 4) (w nr : Bool) (t : Team) (ls : List LaneAcc) (n : Nat)
    (lanes : List AtomLane) (p : State), t = s.team.belay b → n = (if w then 8 else 4) →
    ls = s.lanesAt t .atomic (t.laneAddr (2 * e.toNat) a.toNat 0) → p = Claims.atomicPoint s t q n ls →
    lanes = (located ls).map (fun x => t.atomicLane s.tick (s.crew.coreOf t (x.1 / 32)) op.toNat w nr (q == 1 || q == 3) d.toNat c.toNat x.1 x.2.2) →
    s.team.namesOk (atomicNames op.toNat w d.toNat a.toNat c.toNat) = true →
    (t.acting = [] → exec (.atom b q d a e op w nr c) s = .next (s.withTeam (t.advance 2)))
    ∧ (t.acting ≠ [] → Claims.AllLocated n ls →
      (q ≠ 3 → exec (.atom b q d a e op w nr c) s = .next ({ p with atomics := p.atomics ++ lanes, team := p.team.advance 2 }))
      ∧ (q = 3 → p.scStores = [] ∧ exec (.atom b q d a e op w nr c) s =
          .next ((lanes.foldl (fun s x => s.atomicAt x) p).withTeam ((lanes.foldl (fun s x => s.atomicAt x) p).team.advance 2)))))
  ∧ (∀ (s : State) team x s1 s2 s3 old, s.atomics.filter (fun y => y.team == team) = [x] →
      s1 = ({ s with atomics := s.atomics.filter (fun y => !x.together y) }.drainWith x.core (fun b => decide (x.addr ≤ b.addr) && decide (b.addr < x.addr + x.size)) : State) →
      old = ofLeBytes ((List.range x.size).map (fun i => s1.sliceByte (x.addr + i))) →
      s2 = (storeBytes x.team x.core ⟨x.addr, x.repl, false⟩ x.size (atomicNew x.op x.wide old x.operand.toNat x.comparand.toNat)).foldl State.perform
        (s1.reported x.addr x.size) →
      s3 = (if x.acq then s2.seeBytes x.core [x.team] (fun b => !b.seen.isEmpty) else s2) →
      exec (.atomicExecute team) s = .next (s3.modTeam x.team (fun t => (if x.acq then t.raiseFloor s3.tick else t).receive x old)))
  ∧ (∀ (s : State) team x rest, s.atomics.filter (fun y => y.team == team) = x :: rest → (∀ y ∈ rest, x.together y = true) →
      exec (.atomicExecute team) s = .next ((x :: rest).foldl State.atomicAt { s with atomics := s.atomics.filter (fun y => !x.together y) }))
  ∧ (∀ (s : State) team, s.atomics.filter (fun y => y.team == team) = [] → exec (.atomicExecute team) s = .next s)

namespace Sys2Proof.Claims

/-- What a fence of a scope waits for beyond this package: at .sys, a PUT, GET or PSIG of the team that has not completed (R273). -/
def FenceHeld (s : State) (sc : Nat) : Prop :=
  sc = 5 ∧ ∃ o ∈ s.ops, o.team = s.team.key ∧ o.done = false ∧ ∃ k a, o.work = .remote k a

/-- Every access of the team that a fence of a scope orders has been performed at that scope (R273): its loads have returned, its
atomics have executed, its LDA lanes have landed, its .sc stores are performed, and at .dev and wider, and in a core pair at .crew,
no buffer of its cores holds a store that it made or observed; a store of it that a buffer still holds counts as observed, for what
acquires after it (R288). -/
def Fenced (s t : State) (sc : Nat) : Prop :=
  (∀ w ∈ t.team.unchecked, w.mem = false) ∧ (∀ x ∈ t.atomics, x.team ≠ s.team.key) ∧ t.ldaLanes s.team.key = []
    ∧ (∀ x ∈ t.scStores, x.team ≠ s.team.key)
    ∧ ((3 ≤ sc ∨ (sc = 1 ∧ s.crew.pair = true)) → ∀ k ∈ s.crew.cores, ∀ x ∈ (t.core k).wcb, x.of s.team.key = false ∧ s.team.key ∉ x.seen)
    ∧ (∀ k ∈ s.crew.cores, ∀ x ∈ (t.core k).wcb, x.of s.team.key = true → s.team.key ∈ x.seen)
    ∧ t.crew = s.crew ∧ t.ctx = s.ctx ∧ t.team.pc = s.team.pc ∧ t.team.preds = s.team.preds ∧ t.team.mask = s.team.mask

end Sys2Proof.Claims

/-- With an active lane, a fence that nothing beyond the package holds back answers the state of its scope's fence (`fenceAt`): the
team's loads have returned, its atomics have executed and its .sc stores are performed, at .dev and wider, and in a core pair at
.crew, no buffer of its cores holds a store that it made or observed, its later accesses follow, and crew, context, predicates and mask
are as before; and the team has gone on. FENCE.MX does the same and then shows the engines every scratchpad store that the team
has made or observed, and FENCE.SMP the same but with the team at the fence until its drop completes. One that is held back, and a
FENCE.SMP whose drop is under way, wait at themselves after the belay wait, not yet issued. WAITV on an aligned word of device memory that translates
answers the state in which the team goes on where the word differs from sC, and otherwise is parked, in poll mode where 64 other teams
hold the core's wait table; memory is as the accesses before it left it. PREF whose register lies in the allocation goes on and
changes no register, no byte of memory or buffer, crew or context. With an empty mask FENCE, FENCE.MX, FENCE.SMP and WAITV only go
on. Which stores FENCE.MX shows to other teams' engines is the model's reading (log entry 67). (04_teams_and_crews.md: R39;
15_program_table_update.md: R240; 16_memory_and_translation.md: R255, R256; 17_memory_instructions.md: R273, R274, R276, R277;
18_ordering.md: R287, R289.) -/
def Obligations.FencesWaitsAndPrefetch : Prop :=
  ∀ (s : State) (b l : Bool) (sc : BitVec 3) (a7 : BitVec 7) (a c : BitVec 6) (u : Team) (r f x : State), u = s.team.belay b → r = s.withTeam u →
    f = r.fenceAt sc.toNat → x = f.mapHidden (fun h => h.fence f.team.index f.tick (f.crew.coveredBy sc.toNat)) →
    (u.active = [] → ∀ i ∈ [Instr.fence b sc, .fenceMx b sc, .fenceSmp b sc, .waitv b a c], exec i s = .next (s.withTeam (u.advance 1)))
    ∧ (u.active ≠ [] → ¬ Claims.FenceHeld r sc.toNat →
      exec (.fence b sc) s = .next (f.withTeam (f.team.advance 1))
      ∧ exec (.fenceMx b sc) s = .next (x.withTeam (x.team.advance 1))
      ∧ (s.team.dropping = none → exec (.fenceSmp b sc) s = .next (f.withTeam { f.team with dropping := some sc.toNat }))
      ∧ (s.team.dropping ≠ none → exec (.fenceSmp b sc) s = .next r.waits))
    ∧ Claims.Fenced r f sc.toNat
    ∧ (∀ h ∈ x.crew.hidden, h.due = none → s.team.index ∈ h.lanesSee ∨ s.team.index ∈ h.readers → s.team.index ∈ h.enginesSee)
    ∧ (u.active ≠ [] → Claims.FenceHeld r sc.toNat → ∀ i ∈ [Instr.fence b sc, .fenceMx b sc, .fenceSmp b sc], exec i s = .next r.waits)
    ∧ (∀ va loc core s0 v w, va = (u.srd64 a.toNat).toNat → core = s.crew.coreOf u 0 → u.active ≠ [] → va % 4 = 0 → va < 2 ^ 57 →
      s.translate core va .read = .ok loc → loc.ws = false → s0 = r.prepareLoad 3 4 [(0, va, loc)] →
      v = BitVec.ofNat 32 (s0.loadVal core u.key true loc 4) →
      w = (s0.team.fixLoads false (loc.span 4)).saw (loc.readAddr core 0) 4 s0.tick s0.tick →
      ∃ t, exec (.waitv b a c) s = .next t ∧ t.mem = s0.mem ∧ t.crew = s.crew ∧ t.ctx = s.ctx
        ∧ (v ≠ u.srd c.toNat → t.team = w.advance 1)
        ∧ (v = u.srd c.toNat → t.team = { w with state := .parked, park := .waitv loc v (decide (64 ≤ s0.waitEntries u.key core)) false }))
    ∧ (s.team.namesOk [a7.toNat] = true → ∃ t, exec (.pref b l a7 c) s = .next t ∧ t.team = u.advance 1 ∧ SameMemory s t ∧ t.weights = s.weights
      ∧ (∀ k, (t.core k).wcb = (s.core k).wcb) ∧ t.scStores = s.scStores ∧ t.crew = s.crew ∧ t.ctx = s.ctx)

namespace Sys2Proof.Claims

/-- What the rules say of a canvas instruction that only queues: its belay bit, its length, and what the canvas is to do, with the scalars and
lanes that are read at issue (R124, R126, R131 to R136, R140, R150 to R164). -/
def canvasRule : Instr → Option (Bool × Nat × (Team → CanvasOp))
  | .cnvLin b d a => some (b, 1, fun t => .expr 0 d.toNat (t.scalarsFrom a.toNat 3))
  | .cnvQuad b d a => some (b, 1, fun t => .expr 1 d.toNat (t.scalarsFrom a.toNat 6))
  | .cnvExpq b d a => some (b, 1, fun t => .expr 2 d.toNat (t.scalarsFrom a.toNat 6))
  | .cnvLinK b d a imm => some (b, 2, fun t => .expr 0 d.toNat (t.scalarsFrom a.toNat 2 ++ [imm]))
  | .cnvQuadK b d a imm => some (b, 2, fun t => .expr 1 d.toNat (t.scalarsFrom a.toNat 5 ++ [imm]))
  | .cnvExpqK b d a imm => some (b, 2, fun t => .expr 2 d.toNat (t.scalarsFrom a.toNat 5 ++ [imm]))
  | .cnvAdd b d a c => some (b, 1, fun _ => .arith 0 d.toNat a.toNat c.toNat)
  | .cnvSub b d a c => some (b, 1, fun _ => .arith 1 d.toNat a.toNat c.toNat)
  | .cnvMul b d a c => some (b, 1, fun _ => .arith 2 d.toNat a.toNat c.toNat)
  | .cnvFma b d a c => some (b, 1, fun _ => .arith 3 d.toNat a.toNat c.toNat)
  | .cnvMin b d a c => some (b, 1, fun _ => .arith 4 d.toNat a.toNat c.toNat)
  | .cnvMax b d a c => some (b, 1, fun _ => .arith 5 d.toNat a.toNat c.toNat)
  | .cnvMov b d a => some (b, 1, fun _ => .mov d.toNat a.toNat)
  | .cnvMovScalar b d a => some (b, 1, fun t => .fill [d.toNat] (t.srd a.toNat))
  | .cnvSfn b d a f => some (b, 1, fun _ => .sfn f.toNat d.toNat a.toNat)
  | .cnvCmp b d k a c ty => some (b, 1, fun _ => .cmp ty.toNat k.toNat d.toNat a.toNat c.toNat)
  | .cnvBlend b d a c => some (b, 1, fun t => .blend d.toNat a.toNat (t.scalarsFrom c.toNat 3))
  | .cnvVis b d m => some (b, 1, fun _ => .vis m.toNat d.toNat)
  | .cnvClr b d => some (b, 1, fun _ => .fill [d.toNat] 0)
  | .cnvClrOnes b d => some (b, 1, fun _ => .fill [d.toNat] 0xFFFFFFFF)
  | .cnvClrVis b => some (b, 1, fun _ => .fill [14, 15] 0xFFFFFFFF)
  | .cnvAll b => some (b, 1, fun _ => .all)
  | .cnvWin b a => some (b, 1, fun t => .win (t.srd a.toNat).toInt (t.srd (a.toNat + 1)).toInt (t.srd (a.toNat + 2)).toInt (t.srd (a.toNat + 3)).toInt)
  | .cnvMac b d a c => some (b, 1, fun t => .mac d.toNat a.toNat (t.srd c.toNat))
  | .cnvMacK b d a imm => some (b, 2, fun _ => .mac d.toNat a.toNat imm)
  | .cnvXclr b m => some (b, 1, fun _ => .xclr m.toNat)
  | _ => none

/-- The issuing team can hand its canvas an instruction: it has an active lane, its crew has a canvas, and one is free to wait there (R134,
R147, R148). -/
def CanvasReady (s : State) : Prop := s.team.active ≠ [] ∧ s.crew.hasCanvas = true ∧ s.crew.canvas.queue.length < 2

/-- The canvas has executed everything that it has accepted, and has nothing to deliver (R127, R128). -/
def CanvasQuiet (s : State) : Prop :=
  s.team.active ≠ [] ∧ s.crew.hasCanvas = true ∧ s.crew.canvas.queue = [] ∧ s.crew.canvas.pend = none

end Sys2Proof.Claims

/-- For each of the 26 forms of the table, with an active lane, a canvas, and room in its queue, the next state is the one in which
the canvas has accepted what the form does as its last waiting instruction and the team has gone on; and the same of CNV.ZTEST
with both identifiers below 0xFFFFF, CNV.ORG with both coordinates in range, CNV.WRL with its register in the allocation,
CNV.LOAD and CNV.STORE with an aligned region inside the scratchpad (CNV.STORE with no delivery pending). For all 31, CNV.WRL
with its register in the allocation: with an active lane and no canvas cause 0x22; with an empty mask the team only goes on. For
the 26 forms, and CNV.WRL with its register in the allocation, with a full queue the team waits at itself after the belay wait. A region
that is no multiple of 256 is cause 0x03 and one past the allocation cause 0x05; an identifier of 0xFFFFF or more and a
coordinate out of range are cause 0x01. (08_program_splat.md: R124, R126, R127; 09_the_canvas.md: R131, R134, R136, R140, R144;
10_canvas_instructions.md: R147, R148, R150, R156, R160, R162, R164.) -/
def Obligations.CanvasAccepts : Prop :=
  ∀ (s : State) (i : Instr) (b : Bool) (len : Nat) (op : Team → CanvasOp) (d a4 : BitVec 4) (a7 : BitVec 7) (a c : BitVec 6) (u : Team) (r : State),
    u = s.team.belay b → r = s.withTeam u →
    (Claims.canvasRule i = some (b, len, op) →
      (Claims.CanvasReady s → exec i s = .next (r.accept len (op u)))
      ∧ (s.team.active ≠ [] → s.crew.hasCanvas = false → exec i s = .next (s.trapHere 0x22 0))
      ∧ (s.team.active = [] → exec i s = .next (s.withTeam (u.advance len)))
      ∧ (s.team.active ≠ [] → s.crew.hasCanvas = true → 2 ≤ s.crew.canvas.queue.length → exec i s = .next r.waits))
    ∧ (∀ i ∈ [Instr.cnvZtest b a4 c, .cnvOrg b a c, .cnvLoad b d a, .cnvStore b d a],
      (s.team.active ≠ [] → s.crew.hasCanvas = false → exec i s = .next (s.trapHere 0x22 0))
      ∧ (s.team.active = [] → exec i s = .next (s.withTeam (u.advance 1))))
    ∧ (s.team.namesOk [a7.toNat] = true →
      (s.team.active ≠ [] → s.crew.hasCanvas = false → exec (.cnvWrl b d a7 c) s = .next (s.trapHere 0x22 0))
      ∧ (s.team.active = [] → exec (.cnvWrl b d a7 c) s = .next (s.withTeam (u.advance 1)))
      ∧ (s.team.active ≠ [] → s.crew.hasCanvas = true → 2 ≤ s.crew.canvas.queue.length → exec (.cnvWrl b d a7 c) s = .next r.waits)
      ∧ (Claims.CanvasReady s → exec (.cnvWrl b d a7 c) s = .next (r.accept 1
          (.wrl d.toNat (s.team.active.map (fun l => (segmentCell (u.srd c.toNat).toNat l, u.rd a7.toNat l)))))))
    ∧ (Claims.CanvasReady s →
      ((u.srd c.toNat).toNat < 0xFFFFF → (u.srd (c.toNat + 1)).toNat < 0xFFFFF →
        exec (.cnvZtest b a4 c) s = .next (r.accept 1 (.ztest a4.toNat (u.srd c.toNat).toNat (u.srd (c.toNat + 1)).toNat)))
      ∧ (-4194304 ≤ (u.srd a.toNat).toInt → (u.srd a.toNat).toInt ≤ 4194240 → -4194304 ≤ (u.srd c.toNat).toInt → (u.srd c.toNat).toInt ≤ 4194240 →
        exec (.cnvOrg b a c) s = .next (r.accept 1 (.org (u.srd a.toNat).toInt (u.srd c.toNat).toInt)))
      ∧ ((u.srd a.toNat).toNat % 256 = 0 → (u.srd a.toNat).toNat + 16384 ≤ s.crew.spadSize →
        exec (.cnvLoad b d a) s = .next (r.accept 1 (.load d.toNat (u.srd a.toNat).toNat))
        ∧ (s.crew.canvas.pend = none → exec (.cnvStore b d a) s = .next (r.accept 1 (.store d.toNat (u.srd a.toNat).toNat 0)))))
    ∧ (s.team.active ≠ [] → s.crew.hasCanvas = true →
      ((0xFFFFF ≤ (u.srd c.toNat).toNat ∨ 0xFFFFF ≤ (u.srd (c.toNat + 1)).toNat →
        exec (.cnvZtest b a4 c) s = .next (s.illegal (.cnvZtest b a4 c)))
      ∧ ((u.srd a.toNat).toInt < -4194304 ∨ 4194240 < (u.srd a.toNat).toInt ∨ (u.srd c.toNat).toInt < -4194304 ∨ 4194240 < (u.srd c.toNat).toInt →
        exec (.cnvOrg b a c) s = .next (s.illegal (.cnvOrg b a c)))
      ∧ ∀ i ∈ [Instr.cnvLoad b d a, .cnvStore b d a],
        ((u.srd a.toNat).toNat % 256 ≠ 0 → exec i s = .next (r.vaTrap 0x03 0 (u.srd a.toNat).toNat))
        ∧ ((u.srd a.toNat).toNat % 256 = 0 → s.crew.spadSize < (u.srd a.toNat).toNat + 16384 →
          exec i s = .next (r.vaTrap 0x05 0 (u.srd a.toNat).toNat))))

/-- With an active lane, a canvas and room in its queue: CNV.XSUM and, with their register in the allocation, CNV.XMAP, CNV.RDL and
CNV.RDL.a queue, as the last waiting instruction, what the canvas is to give the register or lanes they name (CNV.RDL.a with an operation
of the open batch, where its quota is free; a cell by the strand's row segment, a bitmap word by R129), and CNV.PUSH, CNV.ELSE and CNV.POP
queue what they do to the enables, where the stack will have room for the push, or an entry, once the canvas has executed what it has
accepted; and the team goes on. A push of what will be a full stack, and a POP or ELSE of what will be an empty one, wait until the canvas
has executed everything and are then the stack trap; CNV.XSUM, CNV.XMAP and CNV.RDL wait with a full queue: cause 0x09, with ES set in the
cells whose enable is 1. CNV.SYNC waits as long, and then goes on with memory, registers and canvas as they are. With a pending delivery
CNV.RDL, CNV.RDL.a, CNV.SYNC and CNV.STORE take cause 0x08 in its place, with the address and the count of cells (up to 127). With no
canvas all of them are cause 0x22, and with an empty mask they only go on. (08_program_splat.md: R127, R128, R129; 09_the_canvas.md: R134,
R136, R137, R140, R144; 10_canvas_instructions.md: R147, R148, R160, R161, R163.) -/
def Obligations.CanvasReadsAndStack : Prop :=
  ∀ (s : State) (b : Bool) (d4 a4 : BitVec 4) (d7 : BitVec 7) (k : BitVec 3) (m : BitVec 5) (a c d6 : BitVec 6) (u : Team) (r : State)
    (depth : Nat), u = s.team.belay b → r = s.withTeam u → depth = s.crew.canvas.depthAhead →
    (Claims.CanvasReady s →
      (s.team.namesOk [d7.toNat] = true → ∀ cells, cells = u.active.map (fun l => (segmentCell (u.srd c.toNat).toNat l, u.phys d7.toNat * 1024 + l)) →
        exec (.cnvXmap b d7 a m) s = .next (r.accept 1 (.xmap m.toNat (u.active.map (fun l =>
          ((32 * ((u.srd a.toNat).toNat + l / 32) + l % 32) % 128, u.phys d7.toNat * 1024 + l)))))
        ∧ (s.crew.canvas.pend = none →
          exec (.cnvRdl b d7 a4 c) s = .next (r.accept 1 (.rdl a4.toNat cells))
          ∧ (128 * u.liveStrands ≤ r.quotaFree → exec (.cnvRdlA b d7 a4 c) s =
              .next ((r.addOp .rdla (128 * u.liveStrands)).accept 1 (.rdla s.nextKey a4.toNat cells)))))
      ∧ exec (.cnvXsum b d6) s = .next (r.accept 1 (.xsum (u.scalarReg d6.toNat)))
      ∧ (depth < 8 → exec (.cnvPush b k a4 c) s = .next (r.accept 1 (.push k.toNat a4.toNat (u.srd c.toNat).toNat)))
      ∧ (0 < depth → exec (.cnvElse b) s = .next (r.accept 1 .els) ∧ exec (.cnvPop b) s = .next (r.accept 1 .pop)))
    ∧ (u.active ≠ [] → s.crew.hasCanvas = true → s.crew.canvas.queue ≠ [] →
      exec (.cnvSync b) s = .next r.waits ∧ (8 ≤ depth → exec (.cnvPush b k a4 c) s = .next r.waits)
      ∧ (depth = 0 → exec (.cnvElse b) s = .next r.waits ∧ exec (.cnvPop b) s = .next r.waits))
    ∧ (u.active ≠ [] → s.crew.hasCanvas = true → 2 ≤ s.crew.canvas.queue.length →
      exec (.cnvXsum b d6) s = .next r.waits
      ∧ (s.team.namesOk [d7.toNat] = true → exec (.cnvXmap b d7 a m) s = .next r.waits ∧ exec (.cnvRdl b d7 a4 c) s = .next r.waits))
    ∧ (Claims.CanvasQuiet s →
      (∃ s', exec (.cnvSync b) s = .next s' ∧ s'.team = u.advance 1 ∧ s'.crew.canvas = s.crew.canvas ∧ s'.crew.spad = s.crew.spad ∧ s'.mem = s.mem)
      ∧ (∀ t : State, t = r.withCanvas { s.crew.canvas with
          flags := (List.range 5).map (fun f => if f = 4 then s.crew.canvas.flags.getD 4 0 ||| s.crew.canvas.en else s.crew.canvas.flags.getD f 0) } →
        (8 ≤ s.crew.canvas.stack.length → exec (.cnvPush b k a4 c) s = .next (t.trapHere 0x09 1))
        ∧ (s.crew.canvas.stack = [] → exec (.cnvElse b) s = .next (t.trapHere 0x09 0) ∧ exec (.cnvPop b) s = .next (t.trapHere 0x09 0))))
    ∧ (∀ addr (t : State), u.active ≠ [] → s.crew.hasCanvas = true → s.crew.canvas.pend = some addr →
      t = (r.withCanvas { s.crew.canvas with pend := none, counted := 0 }).trapHere 0x08
        (BitVec.ofNat 64 (addr % 2 ^ 57 + Nat.min ((List.range 4096).countP (fun i => s.crew.canvas.counted.getLsbD i)) 127 * 2 ^ 57)) →
      (s.crew.canvas.queue = [] → exec (.cnvSync b) s = .next t)
      ∧ (s.crew.canvas.queue.length < 2 →
        (s.team.namesOk [d7.toNat] = true → exec (.cnvRdl b d7 a4 c) s = .next t
          ∧ (128 * u.liveStrands ≤ r.quotaFree → exec (.cnvRdlA b d7 a4 c) s = .next t))
        ∧ ((u.srd a.toNat).toNat % 256 = 0 → (u.srd a.toNat).toNat + 16384 ≤ s.crew.spadSize → exec (.cnvStore b d4 a) s = .next t)))
    ∧ (∀ i ∈ [Instr.cnvXsum b d6, .cnvPush b k a4 c, .cnvElse b, .cnvPop b, .cnvSync b],
      (u.active = [] → exec i s = .next (s.withTeam (u.advance 1)))
      ∧ (u.active ≠ [] → s.crew.hasCanvas = false → exec i s = .next (s.trapHere 0x22 0)))
    ∧ (s.team.namesOk [d7.toNat] = true → ∀ i ∈ [Instr.cnvXmap b d7 a m, .cnvRdl b d7 a4 c, .cnvRdlA b d7 a4 c],
      (u.active = [] → exec i s = .next (s.withTeam (u.advance 1)))
      ∧ (u.active ≠ [] → s.crew.hasCanvas = false → exec i s = .next (s.trapHere 0x22 0)))

namespace Sys2Proof.Claims

/-- What the rules say of a canvas instruction that acts on the enabled cells: the registers it writes, and the words and flags of each cell
from the cell's old words (R124, R126, R131 to R133, R135, R142, R143, R152 to R157). -/
def cellRule (c : Canvas) : CanvasOp → Option (List Nat × (Nat → CellOut))
  | .expr kind d ks => some ([d], fun i => oneOut (cellExpr kind ks (cellCoord c.x0 (i % 64)) (cellCoord c.y0 (i / 64))))
  | .arith op d a k => some ([d], fun i => oneOut (cellArith op (c.cell a i).toNat (c.cell k i).toNat (c.cell d i).toNat))
  | .mov d a => some ([d], fun i => ⟨[c.cell a i], 0⟩)
  | .fill ds v => some (ds, fun _ => ⟨ds.map (fun _ => v), 0⟩)
  | .sfn fn d a => some ([d], fun i => oneOut (cellSfn fn (c.cell a i).toNat))
  | .cmp ty cc d a k => some ([d], fun i => ⟨[if cellCompare ty cc (c.cell a i) (c.cell k i) then 0x3F800000 else 0], 0⟩)
  | .blend d a k => some ([d, d + 1, d + 2, d + 3], fun i => cellBlend (c.cell (d + 3) i).toNat (c.cell a i).toNat (k.map (fun w => w.toNat))
      [(c.cell d i).toNat, (c.cell (d + 1) i).toNat, (c.cell (d + 2) i).toNat])
  | .ztest a inst prim => some ([14, 15], fun i =>
      ⟨[(cellZtest (c.cell a i).toNat inst prim (c.cell 15 i ++ c.cell 14 i)).truncate 32,
        (cellZtest (c.cell a i).toNat inst prim (c.cell 15 i ++ c.cell 14 i) >>> 32).truncate 32], 0⟩)
  | .vis m d => some ([d], fun i => ⟨[cellVis m (c.cell 15 i ++ c.cell 14 i)], 0⟩)
  | .mac d a w => some ([d], fun i => oneOut (cellFma (c.cell a i).toNat w.toNat (c.cell d i).toNat))
  | _ => none

/-- Cell i is enabled. -/
def Enabled (c : Canvas) (i : Nat) : Prop := i < 4096 ∧ c.en.getLsbD i = true

/-- Enabled cells have received the words and flags that a function gives them, in the registers of a list; every other cell and register,
the enables, the stack and the origin are as they were. -/
def CellsWritten (c c' : Canvas) (ds : List Nat) (f : Nat → CellOut) : Prop :=
  (∀ k < ds.length, ∀ i, (Enabled c i → c'.cell (ds.getD k 0) i = (f i).words.getD k 0) ∧ (¬ Enabled c i → c'.cell (ds.getD k 0) i = c.cell (ds.getD k 0) i))
    ∧ (∀ r i, r ∉ ds → c'.cell r i = c.cell r i)
    ∧ (∀ n < 5, ∀ i, (c'.flags.getD n 0).getLsbD i = true ↔ (c.flags.getD n 0).getLsbD i = true ∨ (Enabled c i ∧ (f i).flags.testBit n = true))
    ∧ c'.en = c.en ∧ c'.stack = c.stack ∧ c'.x0 = c.x0 ∧ c'.y0 = c.y0

/-- What the rules say of a canvas instruction that changes the enables, the stack, the flags of all cells or the origin, or lanes into cells
(R131, R136, R140, R164). -/
def canvasChange (c : Canvas) : CanvasOp → Option Canvas
  | .all => some { c with en := BitVec.allOnes 4096 }
  | .win c0 r0 c1 r1 => some { c with en := Plane.ofFn (fun i => decide (c0 ≤ (i % 64 : Nat)) && decide (((i % 64 : Nat) : Int) ≤ c1)
      && decide (r0 ≤ (i / 64 : Nat)) && decide (((i / 64 : Nat) : Int) ≤ r1)) }
  | .push cc a v => some { c with stack := (c.en, Plane.ofFn (fun i => fp32.compare cc (c.cell a i).toNat v)) :: c.stack
                                  en := c.en &&& Plane.ofFn (fun i => fp32.compare cc (c.cell a i).toNat v) }
  | .els => (c.stack.head?).map (fun e => { c with en := e.1 &&& ~~~e.2 })
  | .pop => (c.stack.head?).map (fun e => { c with en := e.1, stack := c.stack.tail })
  | .xclr m => some { c with flags := (List.range 5).map (fun f => if m.testBit f then 0 else c.flags.getD f 0) }
  | .org x y => some { c with x0 := x, y0 := y }
  | .wrl d cells => some (c.setCells d cells)
  | _ => none

/-- What the canvas gives a team's registers when it executes an instruction (R60, R127, R129, R160). -/
def canvasGives (c : Canvas) : CanvasOp → List RegWrite
  | .rdl a cells => cells.map (fun e => ⟨false, e.2, c.cell a e.1, false, 0, none⟩)
  | .xsum key => [⟨true, key, c.summary, false, 0, none⟩]
  | .xmap m words => words.map (fun e => ⟨false, e.2, c.mapWord m e.1, false, 0, none⟩)
  | _ => []

end Sys2Proof.Claims

/-- Where the issuing crew's canvas has accepted q first, CANVAS_EXECUTE of the crew takes it from the queue and does what it says, and
nothing else: a form that acts on cells (expressions, arithmetic, moves and clears, special functions, compares, blend, depth test,
visibility, MAC) gives every enabled cell of its registers the results of the old operands with their flags, a raised flag of the mask
begins a delivery at q's address, and every other cell and register, the enables, the stack, memory, teams and the crew's scratchpad are
unchanged; CNV.ALL, CNV.WIN, CNV.PUSH, CNV.ELSE, CNV.POP, CNV.XCLR, CNV.ORG and CNV.WRL change the canvas by their rules;
CNV.LOAD gives every cell of its plane its word of the region and CNV.STORE writes every cell to its word; CNV.RDL, CNV.XSUM and
CNV.XMAP write what they read to their team's registers, and CNV.RDL.a completes its operation with it. With nothing accepted the
event leaves the state as it is. (08_program_splat.md: R126, R127, R128, R129; 09_the_canvas.md: R130, R131, R135, R136, R138, R140,
R141, R142, R143, R144; 10_canvas_instructions.md: R151, R152, R153, R154, R155, R156, R157, R159, R160, R161, R162, R164.) -/
def Obligations.CanvasExecutesInOrder : Prop :=
  ∀ (s : State) (q : CanvasInstr) (rest : List CanvasInstr) (c : Canvas) (mask : Nat),
    s.crew.live = true → s.crew.canvas.regs.length = 16 → s.crew.canvas.queue = q :: rest → c = { s.crew.canvas with queue := rest } →
    mask = ((s.ctx? s.crew.ctx).map (fun k => (k.regOn s.crew.core 6).toNat % 16)).getD 0 →
    (∀ ds f, Claims.cellRule c q.op = some (ds, f) → ds.Nodup → (∀ d ∈ ds, d < 16) →
      ∃ s', exec (.canvasExecute s.crew.key) s = .next s' ∧ Claims.CellsWritten c s'.crew.canvas ds f ∧ s'.crew.canvas.queue = rest
        ∧ ((∃ i, Claims.Enabled c i ∧ Nat.land (f i).flags mask ≠ 0) → s'.crew.canvas.pend = some (c.pend.getD q.addr))
        ∧ ((∀ i, Claims.Enabled c i → Nat.land (f i).flags mask = 0) → s'.crew.canvas.pend = c.pend)
        ∧ s'.team = s.team ∧ s'.teams = s.teams ∧ s'.crew.spad = s.crew.spad ∧ SameStores s s')
    ∧ (∀ c', Claims.canvasChange c q.op = some c' → exec (.canvasExecute s.crew.key) s = .next (s.withCanvas c'))
    ∧ (∀ d off, q.op = .load d off → exec (.canvasExecute s.crew.key) s = .next (s.withCanvas (c.setCells d ((List.range 4096).map (fun i =>
        (i, BitVec.ofNat 32 (ofLeBytes (s.spadRead s.crew ⟨q.team, .canvas, q.stamp⟩ (.tile off 64) (off + 4 * i) 4))))))))
    ∧ (∀ d off n, q.op = .store d off n → exec (.canvasExecute s.crew.key) s = .next { s with
        crew := (List.range 4096).foldl (fun (w : Crew) i => w.write true q.team (some 0) s.tick (.tile off 64) (off + 4 * i) (leBytes 4 (c.cell d i).toNat))
          { s.crew with canvas := c } })
    ∧ (∀ op a cells o, q.op = .rdla op a cells → s.op? op = some o → exec (.canvasExecute s.crew.key) s =
        .next ((s.withCanvas c).finishOp o (cells.map (fun e => ⟨false, e.2, c.cell a e.1, false, 0, none⟩)) none))
    ∧ (∀ t, Claims.canvasGives c q.op ≠ [] → (s.crewTeams s.crew.key).find? (fun t => t.index == q.team) = some t →
        exec (.canvasExecute s.crew.key) s = .next ((s.withCanvas c).modTeam t.key (fun t => (Claims.canvasGives c q.op).foldl Team.land t)))
    ∧ (∀ t : State, t.crew.live = true → t.crew.canvas.queue = [] → exec (.canvasExecute t.crew.key) t = .next t)

namespace Sys2Proof.Claims

/-- The record of an operation that a team's instruction issues: it joins the team's open batch, and holds nothing yet (R67, R68). -/
def issuedOp (r : State) (work : OpWork) (quota : Nat) (acq : Bool := false) : AsyncOp :=
  { id := r.nextKey, team := r.team.key, crew := r.team.crew, ctx := r.team.ctx, core := r.home, batch := r.team.openBatch,
    pc := r.team.pc.toNat, work := work, landed := [], quota := quota, done := false, cause := none, net := false, faulted := [],
    stamp := r.tick, acq := acq }

/-- From `r` to `t` an operation has been issued and the team has gone on; no register, byte of memory, crew or context has changed. -/
def Joins (r t : State) (work : OpWork) (quota len : Nat) (acq : Bool := false) : Prop :=
  t.ops = r.ops ++ [issuedOp r work quota acq] ∧ t.team = r.team.advance len ∧ t.crew = r.crew ∧ t.ctx = r.ctx ∧ t.mem = r.mem
    ∧ t.nextKey = r.nextKey + 1 ∧ t.weights = r.weights ∧ t.scStores = r.scStores ∧ t.teams = r.teams

/-- What the addresses of a copy's units ask of their pages: a copy out of the scratchpad writes memory (R221, R222). -/
def unitAccesses (out : Bool) (units : List (Nat × Nat)) : List (Nat × Access) :=
  units.map (fun x => (x.1, if out then Access.write else Access.read))

/-- The units with their locations. -/
def placedUnits (units : List (Nat × Nat)) (locs : List Loc) : List CopyUnit :=
  (List.zip units locs).map (fun x => (⟨x.2, x.1.2⟩ : CopyUnit))

/-- The operand rules of CPY (R222): address, offset and length multiples of 16, at most 1 MiB, and the bytes inside the allocation. -/
def CopyOk (size ga so n : Nat) : Prop := ga % 16 = 0 ∧ so % 16 = 0 ∧ n % 16 = 0 ∧ n ≤ 1048576 ∧ so + n ≤ size

/-- The operand rules of CPY2D (R222): every address, offset and stride a multiple of 16, the sizes within their limits, the rows of
the destination apart, and the scratchpad rows inside the allocation. -/
def Copy2dOk (size : Nat) (out : Bool) (ga so len rows gs ss : Nat) : Prop :=
  ga % 16 = 0 ∧ so % 16 = 0 ∧ len % 16 = 0 ∧ gs % 16 = 0 ∧ ss % 16 = 0 ∧ rows ≤ 4096 ∧ len ≤ 65536 ∧ len * rows ≤ 1048576
    ∧ (out = false → len ≤ ss) ∧ (out = true → len ≤ gs) ∧ (rows = 0 ∨ so + (rows - 1) * ss + len ≤ size)

/-- The header of a tile of 64 bytes at an address is read: the address is a multiple of 64 and translates, the state after the read is
`r1`, its bytes are `h`, and they meet R207. -/
def HeaderRead (r : State) (va : Nat) (r1 : State) (h : List Byte) : Prop :=
  ∃ l, va % 64 = 0 ∧ r.reach [(va, Access.read)] = .ok [l] ∧ r.readHeader l = (r1, h) ∧ headerFault h = none

/-- The rules of CPY.T for a header and a declared region (R223): an element size `w` for the tag at the source, rows of whole 16 bytes
that fit the region's width, and no more rows than it has. -/
def TileOk (out : Bool) (e : Tile) (h : List Byte) (w : Nat) : Prop :=
  tagBits (if out then e.tag.toNat else fieldAt h 28 2) = some w ∧ fieldAt h 10 2 * w % 128 = 0 ∧ fieldAt h 10 2 * w / 8 ≤ 4 * e.width
    ∧ fieldAt h 8 2 ≤ e.rows

/-- The operands of CPY (kind 0), CPY2D (1) and CPY.T (any other) meet the rules of R222 and R223, and the copy has these units, tile,
header access and tag; `r1` is the state after a header has been read. -/
def Planned (r : State) (out : Bool) (kind d a c : Nat) (r1 : State) (p : CopyPlan) : Prop :=
  let ga := (r.team.srd64 d).toNat
  let so := (r.team.srd a).toNat
  let n := (r.team.srd c).toNat
  let rows := (r.team.srd (c + 1)).toNat
  let gs := (r.team.srd (c + 2)).toNat
  let ss := (r.team.srd (c + 3)).toNat
  match kind with
  | 0 => r1 = r ∧ CopyOk r.crew.spadSize ga so n ∧ p = ⟨rowUnits ga so n, none, [], 0, 0⟩
  | 1 => r1 = r ∧ Copy2dOk r.crew.spadSize out ga so n rows gs ss
      ∧ p = ⟨(List.range rows).flatMap (fun k => rowUnits ((ga + k * gs) % 2 ^ 64) (so + k * ss) n), none, [], 0, 0⟩
  | _ => ∃ e h w, r.crew.regionAt so = some e ∧ HeaderRead r ga r1 h ∧ TileOk out e h w
      ∧ p = ⟨(List.range (fieldAt h 8 2)).flatMap (fun k =>
            rowUnits ((fieldAt h 0 8 + k * fieldAt h 12 4) % 2 ^ 64) (e.base + k * 4 * e.width) (fieldAt h 10 2 * w / 8)),
          some (e.base, e.width), [(ga, if out then Access.write else Access.read)], e.base,
          if out then e.tag else BitVec.ofNat 16 (fieldAt h 28 2)⟩

/-- The tag that a copy moves with its data: the region's to the header's TAGW, or the header's to the region (R209, R223). -/
def tagMoved (out : Bool) (p : CopyPlan) (locs : List Loc) : TagWrite :=
  if p.tile.isNone then .none
  else if out then .header ((locs.getLast?.getD ⟨0, false, false⟩).plus 28) p.tag else .region p.region p.tag

/-- The operands of an MMA meet R199, R201 to R204 and R228: offsets of A and B that are multiples of 256, a slot of the crew, a record
inside the allocation, and a record, as its issue reads it, without a fault, which gives `fb`. -/
def MmaOk (r : State) (m : MmaArgs) (fb : FmtBlock) : Prop :=
  m.ao % 256 = 0 ∧ m.bo % 256 = 0 ∧ m.acc % 16384 = 0 ∧ m.acc < 16384 * r.crew.accSlots ∧ 32 * m.fbr + 32 ≤ r.crew.spadSize
    ∧ r.readBlock r.crew ⟨r.team.index, .array, r.tick⟩ m = .ok fb

end Sys2Proof.Claims

/-- With an active lane and fewer than 64 copies at the copy engine: CPY, CPY2D and CPY.T, whose operands meet R222 or R223 and
whose units, with a tile's header, all translate, issue an operation with their units in order (row by row), with the swizzle of
CPY and CPY2D, the tile of CPY.T and the tag that it moves, once the team's .sc stores and atomics to those bytes have been
performed, and a copy out with .rel once every store that the team has made or observed has; a copy with FOLLOW issues one of four
words that also holds its MMA's operands, which have passed the MMA's own checks. The team goes on by the instruction's length, and
no register, byte of memory, crew or context has changed but by these and by a header's read. With 64 copies there
each waits at itself. With an empty mask each only goes on. Of CPY: an address, offset or length that is no multiple of 16 is
cause 0x03 with the first such value, a length past 1 MiB cause 0x01, and an end outside the allocation cause 0x05. Of CPY.T: a
header address that is no multiple of 64 is cause 0x03, and a header that breaks R207 cause 0x24 with its field.
(06_formats_and_opcode_map.md: R86, R88; 13_matrix_array_and_tags.md: R206, R207, R209; 14_matrix_copy_network_instructions.md:
R219, R220, R221, R222, R223, R224, R228.) -/
def Obligations.CopiesJoinTheirBatch : Prop :=
  ∀ (s : State) (b b2 : Bool) (kind : BitVec 2) (d a c : BitVec 6) (dir ord : Bool) (sw : BitVec 3) (sp : Bool) (md ma mc : BitVec 7) (da db : Bool)
    (kg : BitVec 6) (fbr : BitVec 15) (u : Team) (r : State) (ga so n : Nat), u = s.team.belay b → r = s.withTeam u →
    ga = (u.srd64 d.toNat).toNat → so = (u.srd a.toNat).toNat → n = (u.srd c.toNat).toNat →
    (u.active = [] → ∀ i ∈ [Instr.cpy b d a c dir ord sw, .cpy2d b d a c dir ord sw, .cpyT b d a c dir ord sw], exec i s = .next (s.withTeam (u.advance 2)))
    ∧ (u.active ≠ [] → ∀ k i, (k, i) ∈ [(0, Instr.cpy b d a c dir ord sw), (1, .cpy2d b d a c dir ord sw), (2, .cpyT b d a c dir ord sw)] →
      ∀ r1 p locs q, Claims.Planned r dir k d.toNat a.toNat c.toNat r1 p → r1.reach (Claims.unitAccesses dir p.units ++ p.head) = .ok locs →
        q = r1.settleOver ((Claims.placedUnits p.units locs).flatMap (fun x => x.loc.span 16)) →
        (r1.copyQueue r1.home < 64 → ∃ t, exec i s = .next t
          ∧ Claims.Joins (if dir && ord then q.fenceDev else q) t
            (.copy dir (Claims.placedUnits p.units locs) (if k = 2 then 0 else sw.toNat) p.tile (Claims.tagMoved dir p locs) none) 0 2 (!dir && ord))
        ∧ (64 ≤ r1.copyQueue r1.home → exec i s = .next r1.waits))
    ∧ (∀ v r2 i, v = s.team.belay (b || b2) → r2 = s.withTeam v → i = Instr.cpyFollowMma b b2 kind d a c ord sw sp md ma mc da db kg fbr →
      s.team.namesOk [md.toNat, ma.toNat, mc.toNat] = true →
      (v.active = [] → exec i s = .next (s.withTeam (v.advance 4)))
      ∧ (v.active ≠ [] → ∀ r1 p m fb locs q, Claims.Planned r2 false kind.toNat d.toNat a.toNat c.toNat r1 p →
        m = r1.team.mmaArgs sp md.toNat ma.toNat mc.toNat da db kg.toNat fbr.toNat → Claims.MmaOk r1 m fb →
        r1.reach (Claims.unitAccesses false p.units ++ p.head) = .ok locs →
        q = r1.settleOver ((Claims.placedUnits p.units locs).flatMap (fun x => x.loc.span 16)) →
          (r1.copyQueue r1.home < 64 → ∃ t, exec i s = .next t
            ∧ Claims.Joins q t (.copy false (Claims.placedUnits p.units locs) sw.toNat p.tile (Claims.tagMoved false p locs) (some m)) 0 4 ord)
          ∧ (64 ≤ r1.copyQueue r1.home → exec i s = .next r1.waits)))
    ∧ (u.active ≠ [] →
      (∀ v, misaligned16 [ga, so, n] = some v → exec (.cpy b d a c dir ord sw) s = .next (r.vaTrap 0x03 0 v))
      ∧ (ga % 16 = 0 → so % 16 = 0 → n % 16 = 0 →
        (1048576 < n → exec (.cpy b d a c dir ord sw) s = .next (r.illegal (.cpy b d a c dir ord sw)))
        ∧ (n ≤ 1048576 → s.crew.spadSize < so + n → exec (.cpy b d a c dir ord sw) s = .next (r.vaTrap 0x05 0 so)))
      ∧ (ga % 64 ≠ 0 → exec (.cpyT b d a c dir ord sw) s = .next (r.vaTrap 0x03 0 ga))
      ∧ (∀ e l r1 h off, ga % 64 = 0 → s.crew.regionAt so = some e → r.reach [(ga, .read)] = .ok [l] → r.readHeader l = (r1, h) →
        headerFault h = some off → exec (.cpyT b d a c dir ord sw) s = .next (r1.trapHere 0x24 (malformed 2 off))))

/-- With an active lane. Of a declared region: TAG.RD gives its tag zero-extended, TAG.WR makes a tag without reserved or wildcard codes
its tag, TAG.CHK gives 1 or 0 as the key matches the tag, with Z of that word and N, C and V 0. Of a readable header at a multiple of 64
that meets R207 the same with its TAGW, which TAG.WR, once every store that the team has made or observed is performed, writes with two
zero bytes after it; TILE.HDR writes the 48 bytes of 12 scalars, as a release, where they meet R207 and their tag is not reserved. A
header address that is no multiple of 64 is cause 0x03; a header that breaks R207 is cause 0x24 with the field; a reserved tag is cause
0x24; a key with a bit of [31:17] set, and a header form of TAG.WR or TAG.CHK with an odd A, are cause 0x01. With an empty mask the four
only go on. (05_registers_and_unified_store.md: R58; 13_matrix_array_and_tags.md: R207, R208, R209;
14_matrix_copy_network_instructions.md: R219, R235, R236, R237.) -/
def Obligations.TagsAndHeaders : Prop :=
  ∀ (s : State) (b : Bool) (d a c : BitVec 6) (u : Team) (r : State) (v : Word) (va vd : Nat), u = s.team.belay b → r = s.withTeam u →
    v = u.srd c.toNat → va = (u.srd64 a.toNat).toNat → vd = (u.srd64 d.toNat).toNat →
    (u.active = [] → ∀ i ∈ [Instr.tagRd b d a true, .tagRd b d a false, .tagWr b a c, .tagChk b d a c, .tileHdr b d a],
      exec i s = .next (s.withTeam (u.advance 1)))
    ∧ (u.active ≠ [] → ∀ e, s.crew.regionAt (u.srd a.toNat).toNat = some e →
      exec (.tagRd b d a true) s = .next (s.withTeam ((u.swr d.toNat (e.tag.zeroExtend 32)).advance 1))
      ∧ (v.toNat < 2 ^ 17 → v.getLsbD 16 = true →
        (tagReserved (v.toNat % 2 ^ 16) = false →
          exec (.tagWr b a c) s = .next { s with team := u.advance 1, crew := s.crew.setTag e.base (BitVec.ofNat 16 v.toNat) })
        ∧ (tagReserved (v.toNat % 2 ^ 16) = true → exec (.tagWr b a c) s = .next (r.trapHere 0x24 (malformed 4 0)))
        ∧ ∀ w : Word, w = (if tagMatches (v.toNat % 65536) e.tag.toNat then 1 else 0) →
          exec (.tagChk b d a c) s = .next (s.withTeam ({ u.swr d.toNat w with flags := ⟨w == 0, false, false, false⟩ }.advance 1))))
    ∧ (u.active ≠ [] → ∀ r1 h, Claims.HeaderRead r va r1 h →
      exec (.tagRd b d a false) s = .next (r1.withTeam ((r1.team.swr d.toNat (BitVec.ofNat 32 (fieldAt h 28 2))).advance 1))
      ∧ (v.toNat < 2 ^ 16 → a.toNat % 2 = 0 →
        (∀ l2 r2, tagReserved v.toNat = false → r1.reach [(va, .write)] = .ok [l2] → r2 = r1.fenceDev.writeFrom r1.team.key r1.home (l2.plus 28) 4 v.toNat →
          exec (.tagWr b a c) s = .next (r2.withTeam (r2.team.advance 1)))
        ∧ (tagReserved v.toNat = true → exec (.tagWr b a c) s = .next (r1.trapHere 0x24 (malformed 4 0)))
        ∧ ∀ w : Word, w = (if tagMatches v.toNat (fieldAt h 28 2) then 1 else 0) →
          exec (.tagChk b d a c) s = .next (r1.withTeam ({ r1.team.swr d.toNat w with flags := ⟨w == 0, false, false, false⟩ }.advance 1))))
    ∧ (u.active ≠ [] → ∀ h, h = (List.range 12).flatMap (fun k => leBytes 4 (u.srd (a.toNat + k)).toNat) → vd % 64 = 0 →
      (∀ l r2, headerFault h = none → tagReserved (fieldAt h 28 2) = false → r.reach [(vd, .write)] = .ok [l] →
        r2 = r.release.writeFrom r.team.key r.home l 48 (ofLeBytes h) → exec (.tileHdr b d a) s = .next (r2.withTeam (r2.team.advance 1)))
      ∧ (∀ off, headerFault h = some off → exec (.tileHdr b d a) s = .next (r.trapHere 0x24 (malformed 2 off)))
      ∧ (headerFault h = none → tagReserved (fieldAt h 28 2) = true → exec (.tileHdr b d a) s = .next (r.trapHere 0x24 (malformed 2 28))))
    ∧ (u.active ≠ [] →
      (va % 64 ≠ 0 → exec (.tagRd b d a false) s = .next (r.vaTrap 0x03 0 va)
        ∧ (v.toNat < 2 ^ 16 → a.toNat % 2 = 0 → exec (.tagWr b a c) s = .next (r.vaTrap 0x03 0 va) ∧ exec (.tagChk b d a c) s = .next (r.vaTrap 0x03 0 va)))
      ∧ (vd % 64 ≠ 0 → exec (.tileHdr b d a) s = .next (r.vaTrap 0x03 0 vd))
      ∧ (∀ l r1 h off, va % 64 = 0 → r.reach [(va, .read)] = .ok [l] → r.readHeader l = (r1, h) → headerFault h = some off →
        exec (.tagRd b d a false) s = .next (r1.trapHere 0x24 (malformed 2 off)))
      ∧ (2 ^ 17 ≤ v.toNat ∨ (v.toNat < 2 ^ 16 ∧ a.toNat % 2 = 1) →
        exec (.tagWr b a c) s = .next (r.illegal (.tagWr b a c)) ∧ exec (.tagChk b d a c) s = .next (r.illegal (.tagChk b d a c))))

/-- With an active lane and fewer than 16 operations at the matrix array: MMA and MMA.SP, whose registers lie in the allocation and whose
operands and records meet R199, R201 to R204 and R228, issue with the operands of the lowest active lane; ACC.CLR and ACC.PROM with their
slots (multiples of 16,384 below the allocation) and the factor; ACC.LD and ACC.ST with the elements of the header's block, by word of the
slot, where every address translates, after the team's atomics and .sc stores to their bytes; ACC.ST also with the tag it will leave. The
team goes on, and no register, byte of memory, crew or context has changed but by those and a header's read. With 16 operations there each
waits at itself, and with an empty mask each only goes on. An operand offset of an MMA that is no multiple of 256 is cause 0x03, a record
past the allocation cause 0x05 and one that breaks R201 to R204 cause 0x24; a slot, of ACC.PROM the destination and then the source, that
is no multiple of 16,384 is cause 0x03 and one past the allocation cause 0x05; of ACC.LD and ACC.ST a header address that is no multiple
of 64 is cause 0x03, and a header that breaks R207, a block of more than 64 rows or columns, rows that overlap, and for ACC.LD a format
that it does not read, are cause 0x24 with the field. The lane in TRAPINFO of an MMA's operands is the model's choice (log entry 92).
(13_matrix_array_and_tags.md: R199, R201, R203, R204, R207; 14_matrix_copy_network_instructions.md: R219, R220, R228, R231, R232, R233.)
-/
def Obligations.MatrixFormsJoinTheirBatch : Prop :=
  ∀ (s : State) (b da db : Bool) (d a c : BitVec 7) (kg : BitVec 6) (fbr : BitVec 15) (d6 a6 c6 : BitVec 6) (f : BitVec 3) (sat : Bool) (u : Team) (r : State),
    u = s.team.belay b → r = s.withTeam u →
    (∀ sp i m, (sp, i) ∈ [(false, Instr.mma b d a c da db kg fbr), (true, Instr.mmaSp b d a c da db kg fbr)] →
      s.team.namesOk [d.toNat, a.toNat, c.toNat] = true → m = u.mmaArgs sp d.toNat a.toNat c.toNat da db kg.toNat fbr.toNat →
      (u.active = [] → exec i s = .next (s.withTeam (u.advance 2)))
      ∧ (u.active ≠ [] →
        (∀ fb, Claims.MmaOk r m fb →
          (r.arrayQueue r.home < 16 → ∃ t, exec i s = .next t ∧ Claims.Joins r t (.mma m fb 0 0 [] none) 0 2)
          ∧ (16 ≤ r.arrayQueue r.home → exec i s = .next r.waits))
        ∧ (m.ao % 256 ≠ 0 → exec i s = .next (r.vaTrap 0x03 (u.active.headD 0) m.ao))
        ∧ (m.ao % 256 = 0 → m.bo % 256 ≠ 0 → exec i s = .next (r.vaTrap 0x03 (u.active.headD 0) m.bo))
        ∧ (m.ao % 256 = 0 → m.bo % 256 = 0 →
          (m.acc % 16384 ≠ 0 → exec i s = .next (r.vaTrap 0x03 0 m.acc))
          ∧ (m.acc % 16384 = 0 → 16384 * s.crew.accSlots ≤ m.acc → exec i s = .next (r.vaTrap 0x05 0 m.acc))
          ∧ (m.acc % 16384 = 0 → m.acc < 16384 * s.crew.accSlots →
            (s.crew.spadSize < 32 * m.fbr + 32 → exec i s = .next (r.vaTrap 0x05 (u.active.headD 0) (32 * m.fbr)))
            ∧ (32 * m.fbr + 32 ≤ s.crew.spadSize → ∀ info, r.readBlock r.crew ⟨r.team.index, .array, r.tick⟩ m = .error info →
              exec i s = .next (r.trapHere 0x24 info))))))
    ∧ (u.active = [] → ∀ i ∈ [Instr.accClr b a6, .accProm b d6 a6 c6, .accLd b d6 a6, .accSt b d6 a6 f sat], exec i s = .next (s.withTeam (u.advance 1)))
    ∧ (u.active ≠ [] → ∀ x y, x = (u.srd d6.toNat).toNat → y = (u.srd a6.toNat).toNat →
      (y % 16384 = 0 → y < 16384 * s.crew.accSlots →
        (r.arrayQueue r.home < 16 → ∃ t, exec (.accClr b a6) s = .next t ∧ Claims.Joins r t (.accClr y (BitVec.allOnes 4096)) 0 1)
        ∧ (16 ≤ r.arrayQueue r.home → exec (.accClr b a6) s = .next r.waits)
        ∧ (x % 16384 = 0 → x < 16384 * s.crew.accSlots →
          (r.arrayQueue r.home < 16 → ∃ t, exec (.accProm b d6 a6 c6) s = .next t
            ∧ Claims.Joins r t (.accProm x y (u.srd c6.toNat) (BitVec.allOnes 4096)) 0 1)
          ∧ (16 ≤ r.arrayQueue r.home → exec (.accProm b d6 a6 c6) s = .next r.waits)))
      ∧ (x % 16384 = 0 → x < 16384 * s.crew.accSlots →
        (y % 16384 ≠ 0 → exec (.accProm b d6 a6 c6) s = .next (r.vaTrap 0x03 0 y))
        ∧ (y % 16384 = 0 → 16384 * s.crew.accSlots ≤ y → exec (.accProm b d6 a6 c6) s = .next (r.vaTrap 0x05 0 y)))
      ∧ (y % 16384 ≠ 0 → exec (.accClr b a6) s = .next (r.vaTrap 0x03 0 y))
      ∧ (y % 16384 = 0 → 16384 * s.crew.accSlots ≤ y → exec (.accClr b a6) s = .next (r.vaTrap 0x05 0 y))
      ∧ ∀ i ∈ [Instr.accProm b d6 a6 c6, .accLd b d6 a6, .accSt b d6 a6 f sat],
        (x % 16384 ≠ 0 → exec i s = .next (r.vaTrap 0x03 0 x))
        ∧ (x % 16384 = 0 → 16384 * s.crew.accSlots ≤ x → exec i s = .next (r.vaTrap 0x05 0 x)))
    ∧ (u.active ≠ [] → ∀ x va r1 h, x = (u.srd d6.toNat).toNat → x % 16384 = 0 → x < 16384 * s.crew.accSlots → va = (u.srd64 a6.toNat).toNat →
      (∀ i ∈ [Instr.accLd b d6 a6, .accSt b d6 a6 f sat], (va % 64 ≠ 0 → exec i s = .next (r.vaTrap 0x03 0 va))
        ∧ ∀ l off, va % 64 = 0 → r.reach [(va, Access.read)] = .ok [l] → r.readHeader l = (r1, h) → headerFault h = some off →
          exec i s = .next (r1.trapHere 0x24 (malformed 2 off)))
      ∧ (Claims.HeaderRead r va r1 h →
      (∀ size fmt elems locs, fieldAt h 8 2 ≤ 64 → fieldAt h 10 2 ≤ 64 → fieldAt h 10 2 * size ≤ fieldAt h 12 4 →
        elems = (List.range (fieldAt h 8 2)).flatMap (fun i => (List.range (fieldAt h 10 2)).map (fun j =>
          (64 * i + j, (fieldAt h 0 8 + i * fieldAt h 12 4 + j * size) % 2 ^ 64))) →
        ((fieldAt h 28 2 % 32, size, fmt) ∈ [(1, 4, 0), (2, 2, 1), (3, 2, 2)] →
          r1.reach (elems.map (fun e => (e.2, Access.read)) ++ [(va, Access.read)]) = .ok locs →
          (16 ≤ r1.arrayQueue r1.home → exec (.accLd b d6 a6) s = .next r1.waits)
          ∧ (r1.arrayQueue r1.home < 16 → ∃ t, exec (.accLd b d6 a6) s = .next t
            ∧ Claims.Joins (r1.settleOver ((List.zip elems locs).flatMap (fun e => e.2.span size))) t (.accLd x ((List.zip elems locs).map (fun e => (e.1.1, e.2))) fmt (BitVec.allOnes 4096)) 0 1))
        ∧ (size = (if f.toNat = 0 then 4 else if f.toNat ≤ 2 then 2 else 1) →
          r1.reach (elems.map (fun e => (e.2, Access.write)) ++ [(va, Access.write)]) = .ok locs →
          (16 ≤ r1.arrayQueue r1.home → exec (.accSt b d6 a6 f sat) s = .next r1.waits)
          ∧ (r1.arrayQueue r1.home < 16 → ∃ t, exec (.accSt b d6 a6 f sat) s = .next t
            ∧ Claims.Joins (r1.settleOver ((List.zip elems locs).flatMap (fun e => e.2.span size))) t (.accSt x ((List.zip elems locs).map (fun e => (e.1.1, e.2))) f.toNat sat
                (.header ((locs.getLast?.getD ⟨0, false, false⟩).plus 28) (BitVec.ofNat 16 (f.toNat + 1))) [] (BitVec.allOnes 4096)) 0 1)))
      ∧ (fieldAt h 8 2 ≤ 64 → fieldAt h 10 2 ≤ 64 →
        (fieldAt h 28 2 % 32 ∉ [1, 2, 3] → exec (.accLd b d6 a6) s = .next (r1.trapHere 0x24 (malformed 2 28)))
        ∧ (∀ t ∈ [(1, 4), (2, 2), (3, 2)], fieldAt h 28 2 % 32 = t.1 → fieldAt h 12 4 < fieldAt h 10 2 * t.2 →
          exec (.accLd b d6 a6) s = .next (r1.trapHere 0x24 (malformed 2 12)))
        ∧ (fieldAt h 12 4 < fieldAt h 10 2 * (if f.toNat = 0 then 4 else if f.toNat ≤ 2 then 2 else 1) →
          exec (.accSt b d6 a6 f sat) s = .next (r1.trapHere 0x24 (malformed 2 12))))
      ∧ (64 < fieldAt h 8 2 ∨ 64 < fieldAt h 10 2 →
        exec (.accLd b d6 a6) s = .next (r1.trapHere 0x24 (malformed 2 8)) ∧ exec (.accSt b d6 a6 f sat) s = .next (r1.trapHere 0x24 (malformed 2 8)))))

namespace Sys2Proof.Claims

/-- The lanes of a NETV or NETS with their pointers and their inputs, which begin `first` registers past vA (R171, R234). -/
def netLanes (t : Team) (a first ni : Nat) (ptr : Nat → Nat) : List NetLane :=
  t.active.map (fun l => ({ lane := l, ptr := ptr l, inputs := (List.range ni).map (fun k => t.rd (a + first + k) l) } : NetLane))

/-- The registers that a NETV or NETS names (R171). -/
def netNames (d a first ni no : Nat) : List Nat := (List.range (first + ni)).map (fun k => a + k) ++ (List.range no).map (fun k => d + k)

/-- The registers that the word of a NETV or NETS names, whatever its counts (R56, R90). -/
def netFields (d a first : Nat) : List Nat := [d, a] ++ if first = 0 then [] else [a + 1]

/-- A NETV or NETS has been issued for lanes: those whose network is found wait for their tiles, group by group in the order of the
groups' first lanes, and the others are faulted and have the poison in every result register, with cause 0x0A for the batch (R172, R174, R175). -/
def NetIssued (r t : State) (lanes : List NetLane) (d ni no : Nat) : Prop :=
  ∃ o ∈ t.ops, o.id = r.nextKey ∧ t.ops.length = r.ops.length + 1 ∧ t.team = r.team.advance 1 ∧ t.crew = r.crew ∧ t.ctx = r.ctx ∧ t.mem = r.mem
    ∧ o.team = r.team.key ∧ o.batch = r.team.openBatch ∧ o.net = true ∧ o.quota = 128 * no * r.team.liveStrands
    ∧ o.faulted = (lanes.filter (fun l => (r.network l.ptr ni no).isNone)).map (fun l => l.lane)
    ∧ (o.done = true ↔ ∀ l ∈ lanes, r.network l.ptr ni no = none)
    ∧ o.cause = (if o.faulted = [] then none else some (0x0A, 0))
    ∧ o.landed = o.faulted.flatMap (fun l => (List.range no).map (fun k =>
        (⟨false, r.team.phys (d + k) * 1024 + l, BitVec.ofNat 32 (poison32 0x0A), false, 0, none⟩ : RegWrite)))
    ∧ ∃ todo nets, o.work = .net todo nets ((List.range no).map (fun k => r.team.phys (d + k))) none
      ∧ todo = (lanes.map (fun l => l.ptr)).eraseDups.flatMap (fun p => lanes.filter (fun l => l.ptr == p && (r.network p ni no).isSome))
      ∧ ∀ l ∈ todo, assoc? nets l.ptr = r.network l.ptr ni no

end Sys2Proof.Claims

/-- NETV takes each lane's pointer from its first pair and the inputs after it, NETS one pointer from scalars. With an active lane,
counts from 1 to 64 and no reserved bit, registers inside the allocation and not past v127, and 128 bytes of quota free for each
output and live strand, each issues an operation in the open batch that holds that quota, and the team goes on with memory, crew
and context as they are: the lanes whose network is found by R170, R174 and R216 wait for their tiles, group by group in the
order of the groups' first lanes; the others are its faulted lanes, with the poison of cause 0x0A in every result register, and
all of them at once complete it. Too little quota is cause 0x20. Counts out of range, and a register outside the allocation or
past v127, are cause 0x01. With an empty mask a form whose named registers lie in the allocation only goes on, and otherwise it
is cause 0x01 whatever the mask. (05_registers_and_unified_store.md: R56, R67; 06_formats_and_opcode_map.md: R90;
11_program_lane_networks.md: R170, R171, R172, R174, R175; 13_matrix_array_and_tags.md: R216;
14_matrix_copy_network_instructions.md: R219, R234; 21_traps_and_preemption.md: R325.) -/
def Obligations.NetworksJoinTheirBatch : Prop :=
  ∀ (s : State) (b : Bool) (d a : BitVec 7) (c : BitVec 6) (u : Team) (r : State), u = s.team.belay b → r = s.withTeam u →
    ∀ (i : Instr) (first word : Nat) (ptr : Nat → Nat),
      ((i = .netv b d a c ∧ first = 2 ∧ word = c.toNat ∧ ptr = (fun l => (u.rd64 a.toNat l).toNat))
        ∨ (i = .nets b d a c ∧ first = 0 ∧ word = c.toNat + 2 ∧ ptr = (fun _ => (u.srd64 c.toNat).toNat))) →
      (s.team.namesOk (Claims.netFields d.toNat a.toNat first) = false → exec i s = .next (s.illegal i))
      ∧ (s.team.namesOk (Claims.netFields d.toNat a.toNat first) = true →
        (u.active = [] → exec i s = .next (s.withTeam (u.advance 1)))
        ∧ (u.active ≠ [] → netCounts (u.srd word) = none → exec i s = .next (r.illegal i))
        ∧ (∀ ni no, u.active ≠ [] → netCounts (u.srd word) = some (ni, no) →
          (((∃ k ∈ Claims.netNames d.toNat a.toNat first ni no, 127 < k) ∨ u.namesOk (Claims.netNames d.toNat a.toNat first ni no) = false) →
            exec i s = .next (r.illegal i))
          ∧ ((∀ k ∈ Claims.netNames d.toNat a.toNat first ni no, k < 128) → u.namesOk (Claims.netNames d.toNat a.toNat first ni no) = true →
            (128 * no * u.liveStrands ≤ r.quotaFree →
              ∃ t, exec i s = .next t ∧ Claims.NetIssued r t (Claims.netLanes u a.toNat first ni ptr) d.toNat ni no)
            ∧ (r.quotaFree < 128 * no * u.liveStrands →
              exec i s = .next (r.trapHere 0x20 (quotaInfo (128 * no * u.liveStrands) r.quotaFree))))))

namespace Sys2Proof.Claims

/-- The cores and sampler lines that a team's located lanes read, in strand order (R238, R239). -/
def lineNeeds (s : State) (t : Team) (ls : List LaneAcc) : List (Nat × Nat) :=
  (located ls).map (fun x => (s.crew.coreOf t (x.1 / 32), x.2.2.line (s.crew.coreOf t (x.1 / 32))))

/-- The words that SMP.G takes from the lines served to its lanes (R239). -/
def gatheredWords (ls : List LaneAcc) (got : List SampLine) : List (Nat × Word) :=
  (List.zip (located ls) got).map (fun x => (x.1.1, BitVec.ofNat 32 (ofLeBytes (x.2.bytesAt x.1.2.2 4))))

/-- The lines of a core's sampler cache as the lanes of an instruction find them: `none` when one is not there (R238). -/
def cachedLines (s : State) (needs : List (Nat × Nat)) : Option (List SampLine) :=
  needs.mapM (fun n => (s.core n.1).samp.find? (fun g => g.line == n.2))

/-- A team with lists of words written in `outs` registers from `d` on, each lane its own list (R165, R279). -/
def writeLists (t : Team) (d outs : Nat) (xs : List (Nat × List Nat)) : Team :=
  (List.range outs).foldl (fun (t : Team) k =>
    t.wr (d + k) (xs.map (fun e => e.1)) (fun l => BitVec.ofNat 32 (((assoc? xs l).map (fun v => v.getD k 0)).getD 0))) t

/-- What a texture lane gets, given the bytes of the texels by lane: its four channels, the default NaN where u, v or the level is no finite
number, and whether the latent image served (R258, R279). -/
def laneTexel (s : State) (tx : Texture) (lod : Bool) (a : Nat) (texels : List (Nat × List Byte)) (l : Nat) : Option (List Nat × Bool) :=
  match s.laneFate s.team tx lod a l with
  | .nan => some ([0x7FC00000, 0x7FC00000, 0x7FC00000, 0x7FC00000], false)
  | .sample x b => some (sampleValue tx x ((texels.filter (fun e => e.1 == l)).map (fun e => e.2)), b)
  | .fault _ => none

/-- The samples of the acting lanes that read (R279). -/
def laneSamples (s : State) (tx : Texture) (lod : Bool) (a : Nat) : List (LaneSample × Bool) :=
  s.team.acting.filterMap (fun l => match s.laneFate s.team tx lod a l with | .sample x b => some (x, b) | _ => none)

/-- The cores and lines of some texels (R238, R279). -/
def texelLines (s : State) (needs : List TexelNeed) : List (Nat × Nat) :=
  needs.map (fun x => (s.crew.coreOf s.team (x.lane / 32), x.loc.line (s.crew.coreOf s.team (x.lane / 32))))

/-- What SMP or SMP.L answers in a state `r` once its descriptor `tx` is read, kept as `desc`, with the lines `old` taken before: while the
lines are not all served it stays with those it has; with all of them and no lane that faults, four registers of each acting lane hold its
channels, from the bytes of its texels joined where one lies in two lines, and P, when it is not 0, tells the lanes that the latent image
served (R258, R259, R278, R279). -/
def Samples (r : State) (tx : Texture) (desc : SampLine) (old : List SampLine) (lod : Bool) (d a n : Nat) (o : Out) : Prop :=
  ∀ needs, needs = r.texels tx (laneSamples r tx lod a) →
    (∀ s1, r.serveLines (texelLines r needs) [desc] old = (s1, none) → o = .next s1)
    ∧ (∀ s1 got texels done, r.serveLines (texelLines r needs) [desc] old = (s1, some got) →
      texels = joinParts ((List.zip needs (got.drop 1)).map (fun x => (x.1, x.2.bytesAt x.1.loc x.1.size))) →
      (∀ l ∈ r.team.acting, (laneTexel r tx lod a texels l).isSome = true) →
      done = r.team.acting.filterMap (fun l => (laneTexel r tx lod a texels l).map (fun x => (l, x))) →
      ∃ t, o = .next t ∧ t.mem = r.mem ∧ t.crew = r.crew ∧ t.ctx = r.ctx
        ∧ ∀ v, v = writeLists { s1.team with gathered := [] } d 4 (done.map (fun e => (e.1, e.2.1))) →
          t.team = (if n = 0 then v else v.pwr n (done.map (fun e => e.1)) (fun l => ((assoc? done l).map (fun e => e.2)).getD false)).advance 1)

/-- The two forms of SMP, whose registers lie in the allocation, and whether the form has a level (R279). -/
def SmpForm (t : Team) (b : Bool) (d a : BitVec 7) (n : BitVec 3) (k : BitVec 4) (i : Instr) (lod : Bool) : Prop :=
  (i, lod) ∈ [(Instr.smp b d a n k, false), (Instr.smpL b d a n k, true)]
    ∧ t.namesOk ([d.toNat, d.toNat + 1, d.toNat + 2, d.toNat + 3, a.toNat, a.toNat + 1] ++ if lod then [a.toNat + 2] else []) = true

end Sys2Proof.Claims

/-- SMP.G, whose registers lie in the allocation and whose acting lanes are aligned, in the address space and translate: where the core's
sampler cache has every line, each acting lane's register holds its word from the line and the team goes on; where one is missing and none
was taken before, the team stays and has asked for a missing one; in general it takes its lines one after another in strand order, those
it has taken before first. SMP and SMP.L, with an active lane, a descriptor at a multiple of 64 that translates and meets R278, read it as
a plain load and go on the same way with the lines of their texels: four registers of each acting lane get its four channels, and P, when
it is not 0, tells the lanes that the latent image served; a descriptor already read is not read again. With an empty mask SMP and SMP.L
only go on. A descriptor that breaks R278 is cause 0x24 (its REC is open: log entry 26). That the lines are taken one after another in
strand order, and that a descriptor already read is not read again, are the model's choices (log entry 30). SAMPLER_FILL of a line that
some team has asked for installs it as it is read then, and gives it to each of those teams: the entry in which a team waits for the line
holds the bytes installed, and its other entries are as they were. (15_program_table_update.md: R238, R239; 16_memory_and_translation.md:
R252, R258, R259; 17_memory_instructions.md: R261, R278, R279.) -/
def Obligations.SamplerReads : Prop :=
  ∀ (s : State) (b : Bool) (d a : BitVec 7) (c : BitVec 6) (n : BitVec 3) (k : BitVec 4) (u : Team) (r : State), u = s.team.belay b → r = s.withTeam u →
    (∀ ls needs, ls = s.lanesAt u .read (fun l => addOffset ((u.srd64 c.toNat).toNat + (u.rd a.toNat l).toNat) 0) → s.team.namesOk [d.toNat, a.toNat] = true →
      Claims.AllLocated 4 ls → needs = Claims.lineNeeds s u ls →
      (∀ got vals, u.gathered = [] → Claims.cachedLines s needs = some got → vals = Claims.gatheredWords ls got → ∃ t, exec (.smpG b d a c) s = .next t
        ∧ t.team = (u.wr d.toNat (vals.map (fun (v : Nat × Word) => v.1)) (fun l => (assoc? vals l).getD 0)).advance 1
        ∧ t.mem = s.mem ∧ t.crew = s.crew ∧ t.ctx = s.ctx)
      ∧ (u.gathered = [] → Claims.cachedLines s needs = none → ∃ t, exec (.smpG b d a c) s = .next t ∧ t.team.pc = s.team.pc ∧ t.mem = s.mem
        ∧ t.crew = s.crew ∧ ∃ x ∈ needs, (s.core x.1).samp.find? (fun g => g.line == x.2) = none ∧ (x.2, s.team.key) ∈ (t.core x.1).miss)
      ∧ (∀ s1, r.serveLines needs [] u.gathered = (s1, none) → exec (.smpG b d a c) s = .next s1)
      ∧ (∀ s1 got vals, r.serveLines needs [] u.gathered = (s1, some got) → vals = Claims.gatheredWords ls got → ∃ t, exec (.smpG b d a c) s = .next t
        ∧ t.team = ({ s1.team with gathered := [] }.wr d.toNat (vals.map (fun (v : Nat × Word) => v.1)) (fun l => (assoc? vals l).getD 0)).advance 1
        ∧ t.mem = s.mem ∧ t.crew = s.crew ∧ t.ctx = s.ctx))
    ∧ (∀ i lod, Claims.SmpForm s.team b d a n k i lod →
      (u.active = [] → exec i s = .next (s.withTeam (u.advance 1)))
      ∧ (∀ g old, u.active ≠ [] → u.gathered = g :: old → Claims.Samples r (textureOf g.bytes) g old lod d.toNat a.toNat n.toNat (exec i s))
      ∧ (∀ va l r1 h, u.active ≠ [] → u.gathered = [] → va = (u.srd64 (4 * k.toNat)).toNat → va % 64 = 0 → va < 2 ^ 57 →
        s.translate (s.crew.coreOf u 0) va .read = .ok l → r.readDescriptor l va = (r1, h) →
        (textureFault h = none → Claims.Samples (r1.touch [⟨0, va, .ok l⟩]) (textureOf h) ⟨descKey, h⟩ (r1.team.gathered.drop 1) lod d.toNat a.toNat n.toNat (exec i s))
        ∧ (∀ off, textureFault h = some off → exec i s = .next (r1.textureTrap off))))
    ∧ (∀ core line who, who = ((s.core core).miss.filter (fun m => m.1 == line)).map (fun m => m.2) → who ≠ [] →
      ∃ t, exec (.samplerFill core line) s = .next t ∧ (⟨line, s.lineBytes line⟩ : SampLine) ∈ (t.core core).samp
        ∧ (∀ m ∈ (t.core core).miss, m.1 ≠ line) ∧ t.mem = s.mem
        ∧ (∀ j ∈ who, ∀ y x, s.team? j = some y → t.team? j = some x → x.gathered =
          y.gathered.map (fun g => if g.line = gatherKey core line ∧ g.bytes = [] then ⟨gatherKey core line, s.lineBytes line⟩ else g)))

/-- ATTRF and ATTRB, whose registers lie in the allocation. With an acting lane and a table at a multiple of 64, once what each of
their reads must wait for has been performed (five times over, for the longest chain of addresses), where no lane's reads fault:
each acting lane's registers (four for ATTRF, from attribute sC[2] on, three for ATTRB) hold the results that the model computes
from R166 and R167 for its identifiers and position, the team goes on, and memory, crew and context are as they were before the
reads. A read at 2^57 or beyond in some lane is cause 0x05 for the first such lane, before any lane's registers change. A table
at another address is cause 0x03; with no acting lane the team only goes on. Whatever the table, a lane whose identifier word is
all ones gets zeros and reads nothing. (04_teams_and_crews.md: R52, R53; 10_canvas_instructions.md: R165, R166, R167, R168;
16_memory_and_translation.md: R252; 17_memory_instructions.md: R261, R262, R265.) -/
def Obligations.AttributesInterpolate : Prop :=
  ∀ (s : State) (b : Bool) (d a : BitVec 7) (c : BitVec 6) (u : Team) (r : State), u = s.team.belay b → r = s.withTeam u →
    (∀ i outs perAttr, (i, outs, perAttr) ∈ [(Instr.attrf b d a c, 4, true), (Instr.attrb b d a c, 3, false)] →
      s.team.namesOk ((List.range outs).map (fun k => d.toNat + k) ++ (List.range 4).map (fun k => a.toNat + k)) = true →
      (u.acting = [] → exec i s = .next (s.withTeam (u.advance 1)))
      ∧ (∀ l rest, u.acting = l :: rest → (u.srd64 c.toNat).toNat % 64 ≠ 0 → exec i s = .next (r.vaTrap 0x03 l (u.srd64 c.toNat).toNat))
      ∧ (u.acting ≠ [] → (u.srd64 c.toNat).toNat % 64 = 0 → ∀ s0, s0 = r.prepareAttr c.toNat a.toNat perAttr →
        (∀ res : List (Nat × List Nat),
          (s0.attrLanes c.toNat a.toNat perAttr).map (fun e => (e.1, e.2.res)) = res.map (fun e => (e.1, Except.ok e.2)) →
          ∃ t, exec i s = .next t ∧ t.team = (Claims.writeLists s0.team d.toNat outs res).advance 1 ∧ t.mem = s0.mem ∧ t.crew = s.crew ∧ t.ctx = s.ctx)
        ∧ (∀ l va k, ((s0.attrLanes c.toNat a.toNat perAttr).filterMap (fun e => match e.2.res with
              | .error (va, k) => if 2 ^ 57 ≤ va then some (e.1, va, k) else none
              | .ok _ => none)).head? = some (l, va, k) → exec i s = .next (s0.vaTrap 0x05 l va))))
    ∧ (∀ core table px py g, r.attrLane core table (BitVec.allOnes 64) px py g = ⟨[], .ok (List.replicate (if g.isSome then 4 else 3) 0)⟩)

namespace Sys2Proof.Claims

/-- A record as it stands in a bin when a push of a job offers it (R303, R304). -/
def binRecord (job : BitVec 16) (clock : Nat) (r : PushRec) : Rec :=
  { job := job, words := r.words, entered := clock, castOff := false, handle := none, converted := false }

/-- The bin of node `n` lacks room for its records of a push (R309). -/
def ShortOf (c : Context) (recs : List PushRec) (n : Nat) : Prop :=
  n ∈ pushNodes recs ∧ ∃ e, c.nodes[n]? = some e ∧ e.cap < (c.bin n).length + recs.countP (fun r => r.node == n)

/-- The bins of the nodes that a push names have room for its records (R309). -/
def RoomFor (c : Context) (recs : List PushRec) : Prop :=
  ∀ n ∈ pushNodes recs, ∃ e, c.nodes[n]? = some e ∧ (c.bin n).length + recs.countP (fun r => r.node == n) ≤ e.cap

/-- A bin that a push names can never hold its records of the node (R309). -/
def NeverFits (c : Context) (recs : List PushRec) : Prop :=
  ∃ n ∈ pushNodes recs, ∃ e, c.nodes[n]? = some e ∧ e.cap < recs.countP (fun r => r.node == n)

/-- Every node of a push could hold its records, and they are nodes of the context (R309). -/
def CanFit (c : Context) (recs : List PushRec) : Prop :=
  ∀ n ∈ pushNodes recs, ∃ e, c.nodes[n]? = some e ∧ recs.countP (fun r => r.node == n) ≤ e.cap

/-- A node that a push names has a flag. -/
def NodeHas (c : Context) (recs : List PushRec) (f : Node → Bool) : Prop := ∃ n ∈ pushNodes recs, ∃ e, c.nodes[n]? = some e ∧ f e = true

/-- A host's write to the PUSH area that meets R307: the node, a job, twelve zero bytes, and the words that the node declares. -/
def PushOk (c : Context) (off : Nat) (bytes : List Byte) (node job : Nat) (e : Node) : Prop :=
  off = 0 ∧ node = ofLeBytes (bytes.take 2) ∧ job = ofLeBytes ((bytes.drop 2).take 2) ∧ job ≠ 0 ∧ c.nodes[node]? = some e
    ∧ bytes.length = 16 + 4 * e.recWords ∧ ofLeBytes ((bytes.drop 4).take 12) = 0

end Sys2Proof.Claims

/-- With registers in the allocation, an active lane and a good record in every one, where the job is not cancelled and every bin that
the push names has room: REC.PUSH and REC.TRY put, as releases, each record behind those of its node's bin, in strand order, and the
team goes on, REC.TRY with 0 in sD and Z. With no active lane REC.PUSH only goes on, and REC.TRY with 0 and Z: nothing drains.
Otherwise nothing enters: a push that some bin could never hold is cause 0x01; of a
cancelled job REC.PUSH goes on, or takes cause 0x10 where a node it names has the .cancel-trap flag, and REC.TRY gives 2; with a
bin too full REC.PUSH parks with its records, or takes cause 0x0F with the lowest such node that has the .full-trap flag, and
REC.TRY gives 1. A host PUSH of R307's form to a running context with room appends its record; one to a terminated context or of
a cancelled job counts as dropped, one of another form, to no node, or into a full bin as refused. A host write elsewhere in the
port changes nothing. (01_assembly_by_example.md: R17; 04_teams_and_crews.md: R39; 20_tasks_and_scheduling.md: R304, R307, R308, R309, R310;
22_task_grace_system_instructions.md: R340.) -/
def Obligations.RecordsEnterTheirBins : Prop :=
  ∀ (s : State) (b : Bool) (d : BitVec 6) (a c : BitVec 7) (u : Team) (r : State) (recs : List PushRec), u = s.team.belay b → r = (s.withTeam u).release →
    (s.team.namesOk [a.toNat, c.toNat] = true → u.laneRecords s.ctx.nodes a.toNat c.toNat = some recs →
      (recs = [] → exec (.recPush b a c) s = .next (s.withTeam (u.advance 1)))
      ∧ (s.ctx.isCancelled s.crew.job.toNat = false → Claims.RoomFor s.ctx recs → recs ≠ [] →
        (∃ t, exec (.recPush b a c) s = .next t ∧ t.team = r.team.advance 1 ∧ t.crew = s.crew
          ∧ t.ctx = s.ctx.enterAll s.crew.job s.dev.clock recs ∧ t.mem = r.mem)
        ∧ (∃ t, exec (.recTry b d a c) s = .next t ∧ t.team = ({ r.team.swr d.toNat 0 with flags := ⟨true, false, false, false⟩ }.advance 1)
          ∧ t.crew = s.crew ∧ t.ctx = s.ctx.enterAll s.crew.job s.dev.clock recs ∧ t.mem = r.mem))
      ∧ (recs = [] → exec (.recTry b d a c) s = .next (s.withTeam ({ u.swr d.toNat 0 with flags := ⟨true, false, false, false⟩ }.advance 1)))
      ∧ (Claims.NeverFits s.ctx recs → exec (.recPush b a c) s = .next (s.illegal (.recPush b a c))
        ∧ exec (.recTry b d a c) s = .next (s.illegal (.recTry b d a c)))
      ∧ (Claims.CanFit s.ctx recs → s.ctx.isCancelled s.crew.job.toNat = true →
        (Claims.NodeHas s.ctx recs (fun e => e.cancelTrap) → exec (.recPush b a c) s = .next (s.trapHere 0x10 (s.crew.job.zeroExtend 64)))
        ∧ (¬ Claims.NodeHas s.ctx recs (fun e => e.cancelTrap) → exec (.recPush b a c) s = .next (s.withTeam (u.advance 1)))
        ∧ (recs ≠ [] → exec (.recTry b d a c) s = .next (s.withTeam ({ u.swr d.toNat 2 with flags := ⟨false, false, false, false⟩ }.advance 1))))
      ∧ (Claims.CanFit s.ctx recs → s.ctx.isCancelled s.crew.job.toNat = false → (∃ n, Claims.ShortOf s.ctx recs n) →
        ((∀ n e, Claims.ShortOf s.ctx recs n → s.ctx.nodes[n]? = some e → e.fullTrap = false) →
          exec (.recPush b a c) s = .next (s.withTeam { u with state := .parked, park := .fullBin recs }))
        ∧ (∀ n e, Claims.ShortOf s.ctx recs n → s.ctx.nodes[n]? = some e → e.fullTrap = true →
          (∀ m f, Claims.ShortOf s.ctx recs m → s.ctx.nodes[m]? = some f → f.fullTrap = true → n ≤ m) →
          exec (.recPush b a c) s = .next (s.trapHere 0x0F (BitVec.ofNat 64 (n % 65536))))
        ∧ exec (.recTry b d a c) s = .next (s.withTeam ({ u.swr d.toNat 1 with flags := ⟨false, false, false, false⟩ }.advance 1))))
    ∧ (∀ (k : Context) (job : BitVec 16) (clock n : Nat), n < k.nodes.length →
      (k.enterAll job clock recs).bin n = k.bin n ++ (recs.filter (fun r => r.node == n)).map (Claims.binRecord job clock))
    ∧ (∀ ctx off bytes k, s.ctx? ctx = some k →
      (k.state = .terminated → exec (.push ctx off bytes) s = .next (s.modCtx ctx (fun x => { x with dropped := x.dropped + 1 })))
      ∧ (k.state ≠ .terminated →
        (∀ node job e, Claims.PushOk k off bytes node job e →
          (k.isCancelled job = true → exec (.push ctx off bytes) s = .next (s.modCtx ctx (fun x => { x with dropped := x.dropped + 1 })))
          ∧ (k.isCancelled job = false → e.cap ≤ (k.bin node).length →
            exec (.push ctx off bytes) s = .next (s.modCtx ctx (fun x => { x with refused := x.refused + 1 })))
          ∧ (k.isCancelled job = false → (k.bin node).length < e.cap → exec (.push ctx off bytes) s = .next (s.modCtx ctx (fun x => x.enter node
            { job := BitVec.ofNat 16 job, words := (List.range e.recWords).map (fun i => BitVec.ofNat 32 (ofLeBytes ((bytes.drop (16 + 4 * i)).take 4))),
              entered := s.dev.clock, castOff := false, handle := none, converted := false }))))
        ∧ ((∀ node job e, ¬ Claims.PushOk k off bytes node job e) →
          exec (.push ctx off bytes) s = .next (s.modCtx ctx (fun x => { x with refused := x.refused + 1 })))))
    ∧ (∀ ctx off bytes, exec (.registerWrite ctx off bytes) s = .next s)

namespace Sys2Proof.Claims

/-- A context with the cancel mark of a job set: a job that is busy reports when it is quiescent, and another at once, behind the reports
that were due; the spill words of the job's dead records are free, but those of cast-off records (R316, R318, R342). -/
def marked (s : State) (c : Context) (j : Nat) : Context :=
  { (c.putJob { c.job j with cancelled := true, due := if s.jobBusy c j then (c.job j).due else (c.job j).due ++ [1] }) with
    dead := c.dead.filter (fun d => d.job.toNat != j || d.castOff) }

end Sys2Proof.Claims

/-- NODE.DONE of a node marks it as drained while its bin holds records, goes on where the bin is empty or it is marked, and is cause 0x01
past the last node. CANCEL of a job from 1 to 65,535, and HOST_CANCEL, set the job's mark if it is not set and the context has not ended,
with a report due at once where the job is quiescent, and release its dead records but cast-off ones; CANCEL of another number is cause
0x01. CANCEL_DROP of a marked job drops the job's records that are no cast-off records from a bin and those that wait for its node, an
empty bin losing its drained mark, and then parked pushes of the context decide again. A node's timer that has run for its head record
makes it ready. The first due report of a job, where its status word's address translates, writes the word with the EPOCH one up and the
STATUS with which it fell due (1 for the first one after a cancel), with STATUS 1 clears the mark and, for a job from 1 on of a context
that has not ended, enters the notice in the quiet node's bin; where it does not translate the report stays due. Readings of the model
(log entry 58): a report has the STATUS with which it fell due, no mark is set in a context that has ended, a report whose word does not
translate stays due, and word 0 makes no notice. (16_memory_and_translation.md: R247; 20_tasks_and_scheduling.md: R305, R306, R311, R312,
R316, R318; 22_task_grace_system_instructions.md: R341, R342.) -/
def Obligations.NodesAndJobs : Prop :=
  ∀ (s : State) (b : Bool) (a : BitVec 6) (u : Team) (v : Nat), u = s.team.belay b → v = (u.srd a.toNat).toNat →
    (v < s.ctx.nodes.length → s.ctx.bin v ≠ [] → v ∉ s.ctx.drained →
      exec (.nodeDone b a) s = .next { s with team := u.advance 1, ctx := { s.ctx with drained := v :: s.ctx.drained } })
    ∧ (v < s.ctx.nodes.length → (s.ctx.bin v = [] ∨ v ∈ s.ctx.drained) → exec (.nodeDone b a) s = .next (s.withTeam (u.advance 1)))
    ∧ (s.ctx.nodes.length ≤ v → exec (.nodeDone b a) s = .next (s.illegal (.nodeDone b a)))
    ∧ (0 < v → v < 65536 → s.ctx.state ≠ .none →
      ((s.ctx.isCancelled v = true ∨ s.ctx.state = .terminated) → exec (.cancel b a) s = .next (s.withTeam (u.advance 1)))
      ∧ (s.ctx.isCancelled v = false → s.ctx.state ≠ .terminated → exec (.cancel b a) s = .next { s with team := u.advance 1, ctx := Claims.marked s s.ctx v }))
    ∧ ((v = 0 ∨ 65536 ≤ v) → exec (.cancel b a) s = .next (s.illegal (.cancel b a)))
    ∧ (∀ ctx job k, s.ctx? ctx = some k → 0 < job → job < 65536 →
      (k.isCancelled job = false → k.state ≠ .terminated → exec (.hostCancel ctx job) s = .next (s.modCtx ctx (fun c => Claims.marked s c job)))
      ∧ ((k.isCancelled job = true ∨ k.state = .terminated) → exec (.hostCancel ctx job) s = .next s))
    ∧ (∀ ctx job node k, s.ctx? ctx = some k → k.isCancelled job = true →
      exec (.cancelDrop ctx job node) s = .next ((s.modCtx ctx (fun c =>
        { (c.modBin node (fun l => l.filter (fun r => r.job.toNat != job || r.castOff))) with
          waiting := c.waiting.filter (fun w => !(w.node == node && w.record.job.toNat == job && !w.record.castOff))
          drained := if (c.bin node).filter (fun r => r.job.toNat != job || r.castOff) = [] ∨ c.nodes.length ≤ node then
              c.drained.filter (fun i => i != node) else c.drained })).retryPushes ctx))
    ∧ (∀ ctx node k e r, s.ctx? ctx = some k → k.nodes[node]? = some e → (k.bin node).head? = some r → e.timer ≠ 0 →
      Nat.max r.entered (k.timers.getD node 0) + e.timer ≤ s.dev.clock → node ∉ k.fired → s.ctx.key = ctx → s.ctx.state ≠ .none →
      exec (.launchTimer ctx node) s = .next { s with ctx := { k with fired := node :: k.fired } })
    ∧ (∀ ctx job k w s1 status rest e, s.ctx? ctx = some k → (k.job job).due = status :: rest → w = statusWord ((k.job job).epoch + 1) status 0 →
      e = ({ k.job job with epoch := (k.job job).epoch + 1, cancelled := (k.job job).cancelled && status != 1, due := rest } : JobState) →
      (s.writeFor k (k.qbase + 4 * job) (leBytes 4 w) = (s1, true) → exec (.quiescenceReport ctx job) s = .next (s1.modCtx ctx (fun c =>
        if job = 0 ∨ c.state = .terminated then c.putJob e
        else State.deviceRecord (c.putJob e) s1.dev.clock c.quietNode 0 false [BitVec.ofNat 32 job, BitVec.ofNat 32 w])))
      ∧ (s.writeFor k (k.qbase + 4 * job) (leBytes 4 w) = (s1, false) → exec (.quiescenceReport ctx job) s = .next s1))
    ∧ (∀ e : JobState, e.nextStatus = if e.cancelled = true ∧ 1 ∉ e.due then 1 else 0)

namespace Sys2Proof.Claims

/-- Every load that a team has issued up to this step has returned: it has no outstanding write of a load and no LDA lane that has not landed. -/
def LoadsReturned (s : State) (t : Team) : Prop :=
  (∀ w ∈ t.unchecked, w.mem = true → s.tick < w.stamp)
    ∧ (∀ o ∈ s.ops, o.team = t.key → o.stamp ≤ s.tick → ∀ x rest more, o.work ≠ .lda (x :: rest) more)

/-- A team as a quiescent point in the issuing context leaves it: QGEN takes the open generation, at once or, while loads are on their way,
when they have returned, which a point noted with this step records (R295, R296). -/
def Passed (s : State) (t t' : Team) : Prop :=
  (LoadsReturned s t → t' = { t with qgen := BitVec.ofNat 32 s.ctx.genClosed, qpend := [] })
    ∧ (¬ LoadsReturned s t → t' = { t with
        qpend := if (t.qpend.getLast?.map (fun x => x.1)) = some (BitVec.ofNat 32 s.ctx.genClosed) then t.qpend
          else t.qpend ++ [(BitVec.ofNat 32 s.ctx.genClosed, s.tick)] })

/-- The operands of DEFER meet R298: a node with 4 words or more, and an address in the address space. -/
def DeferOk (s : State) (t : Team) (a n : Nat) : Prop :=
  (∃ e, s.ctx.nodes[n]? = some e ∧ 4 ≤ e.recWords) ∧ (t.srd64 a).toNat < 2 ^ 57

/-- The cast-off queue is full: 4,096 entries on die, and no spill area or 65,536 entries there (R402). -/
def QueueFull (s : State) : Prop :=
  4096 ≤ s.ctx.castOffs.countP (fun e => e.slot.isNone)
    ∧ (s.creg 8 = 0 ∨ 65536 ≤ s.ctx.castOffs.countP (fun e => e.slot.isSome))

end Sys2Proof.Claims

/-- RSEC.IN counts the nesting up below 255 and is cause 0x01 there; RSEC.OUT counts it down above 0 and is cause 0x01 there. QPASS
at nesting 0, and RSEC.OUT that reaches 0, pass a quiescent point: QGEN takes the open generation, at once when every load of
the team has returned, and otherwise with those loads; QPASS inside a section only goes on. GRACE at nesting 0, as a fence at
.dev, parks the team on the open generation and closes it; inside a section it is cause 0x01. DEFER of a node with 4 words or
more and an address below 2^57, with room in the queue, is a fence at .dev that queues the entry, on die or, past 4,096 there,
at a place of the spill area, and closes the generation; a full queue is cause 0x14, another node cause 0x01 and another address
cause 0x05. The oldest closed generation of a context that has not ended, once every team that has not exited has passed it,
completes: every L1 is empty, the count is up by one, the entries of the queue up to it are out and their records in their bins,
and the teams parked on it are ready behind their GRACE. The model's choices and readings in this: when a generation completes of
those that can (log entry 61), the place of a spilled entry and what is found of one whose bytes were written (log entry 79), and
that a point at which a team goes on, a section's start and a completion order its later accesses (log entry 91).
(19_program_grace.md: R295, R296, R297, R298, R299;
20_tasks_and_scheduling.md: R318, R402; 22_task_grace_system_instructions.md: R343.) -/
def Obligations.GracePeriods : Prop :=
  ∀ (s : State) (b : Bool) (a c : BitVec 6) (u : Team) (r : State), u = s.team.belay b → r = (s.withTeam u).fenceDev.orderAfter →
    (s.team.nest < 255 → exec (.rsecIn b) s = .next (s.withTeam ({ u.raiseFloor s.tick with nest := u.nest + 1 }.advance 1)))
    ∧ (s.team.nest = 255 → exec (.rsecIn b) s = .next (s.illegal (.rsecIn b)))
    ∧ (1 < s.team.nest → exec (.rsecOut b) s = .next (s.withTeam ({ u with nest := u.nest - 1 }.advance 1)))
    ∧ (s.team.nest = 1 → ∃ v, exec (.rsecOut b) s = .next (s.withTeam v) ∧ Claims.Passed s (({ u with nest := 0 }.advance 1).raiseFloor s.tick) v)
    ∧ (s.team.nest = 0 → exec (.rsecOut b) s = .next (s.illegal (.rsecOut b)))
    ∧ (s.team.nest = 0 → ∃ v, exec (.qpass b) s = .next (s.withTeam v) ∧ Claims.Passed s ((u.advance 1).raiseFloor s.tick) v)
    ∧ (0 < s.team.nest → exec (.qpass b) s = .next (s.withTeam (u.advance 1)) ∧ exec (.grace b) s = .next (s.illegal (.grace b)))
    ∧ (s.team.nest = 0 → ∃ t, exec (.grace b) s = .next t ∧ t.team = { r.team with state := .parked, park := .grace s.ctx.genClosed }
      ∧ t.ctx = { s.ctx with genClosed := s.ctx.genClosed + 1 } ∧ t.crew = s.crew ∧ t.mem = r.mem)
    ∧ (∀ n, n = (u.srd (c.toNat + 1)).toNat →
      (Claims.DeferOk s u a.toNat n → ¬ Claims.QueueFull s →
        ∃ t entry, exec (.defer b a c) s = .next t ∧ entry = (⟨s.ctx.genClosed, u.srd64 a.toNat, u.srd c.toNat, n, s.crew.job, newSlot s.ctx.castOffs⟩ : CastOff)
          ∧ (s.ctx.castOffs.countP (fun e => e.slot.isNone) < 4096 → entry.slot = none ∧ t.team = r.team.advance 1 ∧ t.crew = s.crew ∧ t.mem = r.mem
            ∧ t.ctx = { s.ctx with genClosed := s.ctx.genClosed + 1, castOffs := s.ctx.castOffs ++ [entry] })
          ∧ (4096 ≤ s.ctx.castOffs.countP (fun e => e.slot.isNone) → t = State.spillCastOffs { r with
              team := r.team.advance 1
              ctx := { r.ctx with genClosed := r.ctx.genClosed + 1, castOffs := r.ctx.castOffs ++ [entry] } } r.ctx.key))
      ∧ (Claims.DeferOk s u a.toNat n → Claims.QueueFull s → exec (.defer b a c) s = .next (s.trapHere 0x14 0))
      ∧ ((∀ e, s.ctx.nodes[n]? = some e → e.recWords < 4) → exec (.defer b a c) s = .next (s.illegal (.defer b a c)))
      ∧ ((∃ e, s.ctx.nodes[n]? = some e ∧ 4 ≤ e.recWords) → 2 ^ 57 ≤ (u.srd64 a.toNat).toNat →
        exec (.defer b a c) s = .next (s.vaTrap 0x05 0 (u.srd64 a.toNat).toNat)))
    ∧ (∀ ctx k, s.ctx? ctx = some k → k.state ≠ .terminated → k.genDone < k.genClosed →
      (∀ x ∈ s.allTeams, x.ctx = k.key → x.state ≠ .exited →
        1 ≤ (s.effectiveQgen k x - BitVec.ofNat 32 k.genDone).toNat ∧ (s.effectiveQgen k x - BitVec.ofNat 32 k.genDone).toNat ≤ 2 ^ 31) →
      ∃ t, exec (.graceComplete ctx) s = .next t ∧ (∀ x ∈ t.cores, x.2.l1 = []) ∧ t.mem = s.mem
      ∧ (s.ctx.key = ctx → s.ctx.state ≠ .none → t.ctx.genDone = k.genDone + 1
        ∧ t.ctx.castOffs = (k.castOffs.map s.foundEntry).filter (fun e => decide (k.genDone < e.gen))
        ∧ t.ctx.bins = (((k.castOffs.map s.foundEntry).filter (fun e => decide (e.gen ≤ k.genDone))).foldl (fun (x : Context) (e : CastOff) =>
            State.deviceRecord x s.dev.clock e.node e.job true (castOffWords e)) k).bins)
      ∧ (∀ x ∈ s.teams, x.ctx = ctx → x.state = .parked → x.park = .grace k.genDone →
          { (x.raiseFloor s.tick).wake with qgen := BitVec.ofNat 32 k.genClosed } ∈ t.teams)
      ∧ (s.team.ctx = ctx → s.team.state = .parked → s.team.park = .grace k.genDone →
          t.team = { (s.team.raiseFloor s.tick).wake with qgen := BitVec.ofNat 32 k.genClosed }))

/-- CTXRD gives sD:sD+1 the value that the issuing team's first core uses of the context register: the old one while that core has not
taken a new one, and of several that it has not taken the one that the earliest of them replaces. In privileged mode CTXWR of a value with
zero reserved bits, as a release, makes it the register's value, with the old value listed for the cores that have not taken it, until
CTXWR_PROPAGATED; of RIGTAB the dispatcher has then its table to take; a value with a reserved bit is cause 0x01. HALT there halts the
team on its next instruction and reports crew, team and that address; the kernel's TEAM_RESUME clears the halt, and DEBUG_HALT sets it,
with a FENCE.SMP that was dropping lines back at its start. DEBUG_BREAKPOINT_SET sets or clears one of the four addresses. (00_scope.md:
R5; 04_teams_and_crews.md: R41; 05_registers_and_unified_store.md: R61; 13_matrix_array_and_tags.md: R210; 15_program_table_update.md:
R240; 21_traps_and_preemption.md: R333; 22_task_grace_system_instructions.md: R339, R349, R351, R352, R353.) -/
def Obligations.SystemRegistersAndHalts : Prop :=
  ∀ (s : State) (b : Bool) (d ix c : BitVec 6) (u : Team) (r : State), u = s.team.belay b → r = (s.withTeam u).release →
    (∃ v, exec (.ctxrd b d ix) s = .next (s.withTeam ((u.swr64 d.toNat v).advance 1))
      ∧ ((∀ x ∈ s.ctx.oldRegs, x.idx = ix.toNat → s.crew.coreOf s.team 0 ∈ x.taken) → v = s.ctx.regs.get ix.toNat)
      ∧ (∀ x, (s.ctx.oldRegs.filter (fun x => x.idx == ix.toNat && !x.taken.contains (s.crew.coreOf s.team 0))).getLast? = some x → v = x.old))
    ∧ (s.ctx.privileged = true → s.team.trap.mode = true →
      (cregOk ix.toNat (u.srd64 c.toNat) = true → ∃ t, exec (.ctxwr b ix c) s = .next t
        ∧ (ix.toNat ≠ 7 → t.team = r.team.advance 1 ∧ t.crew = s.crew ∧ t.mem = r.mem ∧ t.ctx.regs = s.ctx.regs.set ix.toNat (u.srd64 c.toNat)
          ∧ t.ctx.oldRegs = ⟨u.key, ix.toNat, s.ctx.regs.get ix.toNat, []⟩ :: s.ctx.oldRegs)
        ∧ (ix.toNat = 7 → t = State.takeRig { r with
              team := r.team.advance 1
              ctx := { r.ctx with
                regs := r.ctx.regs.set 7 (u.srd64 c.toNat)
                oldRegs := ⟨u.key, 7, r.ctx.regs.get 7, []⟩ :: r.ctx.oldRegs
                rigTodo := some (u.srd64 c.toNat).toNat } } r.ctx.key))
      ∧ (cregOk ix.toNat (u.srd64 c.toNat) = false → exec (.ctxwr b ix c) s = .next (s.illegal (.ctxwr b ix c)))
      ∧ exec (.halt b) s = .next { s with
          team := { u.advance 1 with halted := true, held := true }
          dev := { s.dev with reports := { s.dev.reports with
            debug := s.dev.reports.debug ++ [(s.crew.crewid.toNat, s.team.teamid, (u.advance 1).pc.toNat)] } } })
    ∧ (∀ ctx, s.ctx.key = ctx → s.ctx.state ≠ .none →
      exec (.ctxwrPropagated ctx) s = .next { s with ctx := { s.ctx with oldRegs := [] } }
      ∧ ∀ slot (x : BitVec 57), slot < 4 →
        exec (.debugBreakpointSet ctx slot (some x)) s = .next { s with ctx := { s.ctx with
          breaks := (slot, x.toNat) :: s.ctx.breaks.filter (fun e => e.1 != slot) } }
        ∧ exec (.debugBreakpointSet ctx slot none) s = .next { s with ctx := { s.ctx with breaks := s.ctx.breaks.filter (fun e => e.1 != slot) } })
    ∧ (∀ k, s.team.key = k → s.team.state ≠ .free →
      exec (.teamResume k) s = .next (s.withTeam { s.team with halted := false, held := false })
      ∧ (s.team.dropping = none → exec (.debugHalt k) s = .next (s.withTeam { s.team with halted := true }))
      ∧ (∀ w sc, s.team.dropping = some sc → s.crew? s.team.crew = some w → ∃ t, exec (.debugHalt k) s = .next t
        ∧ t.team.halted = true ∧ t.team.dropping = none ∧ t.team.pc = s.team.pc ∧ t.mem = s.mem))

namespace Sys2Proof.Claims

/-- The latest sixteen offsets with a new one (R376). -/
def recentOffsets (t : TimeState) (o : Int) : List Int := (t.offsets ++ [o]).drop (t.offsets.length + 1 - 16)

/-- A sync exchange is the first whose offsets are steady, and its source is ahead (R376). -/
def StepsForward (t : TimeState) (o : Int) : Prop :=
  t.stepped = false ∧ t.disc ≠ .locked ∧ steady (recentOffsets t o) o = true ∧ 0 < o

end Sys2Proof.Claims

/-- FRAME.REL with aligned, translating addresses, fewer than 8 pending releases and no remote copy of the team pending acts as FENCE.sys,
reads the message as an .acq load does, and adds it with its time, destination, edge and lateness; otherwise, with those addresses, it
waits; .edge without the right to FSYNC is cause 0x02. When its time has come, the first pending release of a running context writes its
48 bytes and the 16 of time, number and flags, counts FRAMENO up, leaves the list and sets REEF; with an edge, and no rise within 2 us,
FSYNC rises, and it falls 1 us after; before its time nothing happens. The reef governor ticks each us. PPS rises at a whole second while
locked and falls after 10 ms; input edges are reported with DTIME unless within 1 us of the last. A sync exchange of the device's domain
on its port, with no PPS phase source: a first steady offset ahead steps DTIME; every other is kept for the slew, and sixteen within 100
ns of zero lock, after which no step follows (log entry 39); the management port's gives the time of day alone; with PPS in as the phase
source either gives the time of day, with which the discipline acquires, and an edge of PPS in then gives the offset (log entry 39); with
the boundary role the device passes one on to each direct link (one for each: log entry 39); another exchange does nothing. A timeout
gives holdover or free, and 10 s of holdover gives free. (20_tasks_and_scheduling.md: R319, R320, R321, R322;
22_task_grace_system_instructions.md: R344; 25_beyond_the_package.md: R376, R377, R378.) -/
def Obligations.FramesAndDeviceTime : Prop :=
  ∀ (s : State) (b e : Bool) (a c : BitVec 6) (u : Team) (r : State) (msg dst : Nat), u = s.team.belay b → r = s.withTeam u →
    msg = (u.srd64 c.toNat).toNat → dst = (u.srd64 (c.toNat + 2)).toNat →
    ((e = false ∨ s.ctx.ownsFsync = true) → msg % 64 = 0 → dst % 64 = 0 → ∀ l1 l2, r.reach [(msg, .read), (dst, .write)] = .ok [l1, l2] →
      (s.ctx.releases.length < 8 → r.remotePending u.key = false → ∀ f bytes, (f, bytes) = (r.fenceDev.touchUnits [msg, dst]).readHeader l1 →
        exec (.frameRel b e a c) s = .next { f with
          team := f.team.advance 1
          ctx := { f.ctx with releases := f.ctx.releases ++ [⟨(u.srd64 a.toNat).toNat, l2.pa, l2.repl, bytes, e,
            decide ((u.srd64 a.toNat).toNat < f.dev.dtime + 20000)⟩] } })
      ∧ ((8 ≤ s.ctx.releases.length ∨ r.remotePending u.key = true) → exec (.frameRel b e a c) s = .next r.waits))
    ∧ (e = true → s.ctx.ownsFsync = false → exec (.frameRel b e a c) s = .next (r.unprivileged (.frameRel b e a c)))
    ∧ ((e = false ∨ s.ctx.ownsFsync = true) → (msg % 64 ≠ 0 → exec (.frameRel b e a c) s = .next (r.vaTrap 0x03 0 msg))
      ∧ (msg % 64 = 0 → dst % 64 ≠ 0 → exec (.frameRel b e a c) s = .next (r.vaTrap 0x03 0 dst)))
    ∧ (∀ q close bytes, s.ctx.state = .running → firstRelease s.ctx.releases = some q → close = (q.edge && s.dev.edgeClose) →
      bytes = q.msg.take 48 ++ releaseTail s.dev.dtime (s.ctx.frameno + 1).toNat q.late close →
      (s.dev.dtime < q.time → exec (.frameRelease s.ctx.key) s = .next s)
      ∧ (q.time ≤ s.dev.dtime → ∃ t, exec (.frameRelease s.ctx.key) s = .next t ∧ t.mem = (s.writeThrough ⟨q.dest, q.repl, false⟩ 64 (ofLeBytes bytes)).mem
        ∧ t.ctx.frameno = s.ctx.frameno + 1 ∧ t.ctx.releases.length + 1 = s.ctx.releases.length
        ∧ t.ctx.reef = (s.ctx.popRelease q s.dev.dtime).reefClamp ((s.ctx.popRelease q s.dev.dtime).reefTarget s.dev.dtime)
        ∧ (q.edge = true → close = false → t.dev.time = { s.dev.time with fsyncOut := true, fsyncRose := some s.dev.dtime })
        ∧ ((q.edge = false ∨ close = true) → t.dev.time = s.dev.time)))
    ∧ (∀ x, s.dev.time.fsyncRose = some x → s.dev.time.fsyncOut = true → x + 1000 ≤ s.dev.dtime →
      exec .fsyncPulseEnd s = .next (s.modTime (fun t => { t with fsyncOut := false })))
    ∧ (s.dev.lastReef + 1000 ≤ s.dev.dtime → ∃ t, exec .reefGovernorTick s = .next t ∧ t.dev.lastReef = s.dev.lastReef + 1000
      ∧ t.ctx = (if s.ctx.governed then s.ctx.reefTick s.dev.dtime else s.ctx) ∧ t.ctxs = s.ctxs.map (fun k => if k.governed then k.reefTick s.dev.dtime else k))
    ∧ (s.dev.ppsDue = true → ∃ t, exec .ppsOutputEdge s = .next t ∧ t.dev.time = { s.dev.time with ppsOut := true, ppsRose := s.dev.dtime }
      ∧ t.dev.reports.ppsEdges = s.dev.reports.ppsEdges ++ [s.dev.dtime])
    ∧ (s.dev.time.ppsOut = true → s.dev.time.ppsRose + 10000000 ≤ s.dev.dtime → exec .ppsPulseEnd s = .next (s.modTime (fun t => { t with ppsOut := false })))
    ∧ (newEdge s.dev.time.ppsInAt s.dev.dtime = true → ∃ t, exec .ppsInputEdge s = .next t ∧ t.dev.reports.inputEdges = s.dev.reports.inputEdges ++ [(0, s.dev.dtime)]
      ∧ t.dev.time.ppsInAt = some s.dev.dtime)
    ∧ (newEdge s.dev.time.ppsInAt s.dev.dtime = false → exec .ppsInputEdge s = .next s)
    ∧ (newEdge s.dev.time.fsyncInAt s.dev.dtime = true → ∃ t, exec .fsyncInputEdge s = .next t
      ∧ t.dev.reports.inputEdges = s.dev.reports.inputEdges ++ [(1, s.dev.dtime)] ∧ t.ctx = s.ctx ∧ t.ctxs = s.ctxs)
    ∧ (newEdge s.dev.time.fsyncInAt s.dev.dtime = false → exec .fsyncInputEdge s = .next s)
    ∧ (∀ (port domain source : Nat) (o : Int), o = (source : Int) - s.dev.dtime →
      (port = s.dev.time.port → domain = s.dev.time.domain → s.dev.time.phasePps = false → ∃ t, exec (.syncMessage ⟨port, domain, source, false⟩) s = .next t
        ∧ (Claims.StepsForward s.dev.time o → t.dev.dtime = source ∧ t.dev.time.disc = .locked ∧ t.dev.time.stepped = true)
        ∧ (¬ Claims.StepsForward s.dev.time o → t.dev.dtime = s.dev.dtime ∧ t.dev.time.slew = o ∧ t.dev.time.offsets = Claims.recentOffsets s.dev.time o
          ∧ (steady (Claims.recentOffsets s.dev.time o) 0 = true → t.dev.time.disc = .locked ∧ t.dev.time.stepped = true))
        ∧ t.dev.reports.syncs = s.dev.reports.syncs ++ (if s.dev.time.boundary then
            (s.dev.directPorts.filter (fun p => p != s.dev.time.port)).map (fun p => (p, t.dev.dtime)) else []))
      ∧ ((port ≠ s.dev.time.port ∨ domain ≠ s.dev.time.domain) → exec (.syncMessage ⟨port, domain, source, false⟩) s = .next s)
      ∧ (port = s.dev.time.port → domain = s.dev.time.domain → s.dev.time.phasePps = true → ∃ t, exec (.syncMessage ⟨port, domain, source, false⟩) s = .next t
        ∧ t.dev.dtime = s.dev.dtime ∧ t.dev.time.seconds = wholeSeconds o ∧ t.dev.time.lastSync = s.dev.dtime ∧ t.dev.time.offsets = s.dev.time.offsets
        ∧ t.dev.time.disc = (if s.dev.time.disc = .locked then .locked else .acquiring))
      ∧ (s.dev.time.phasePps = false → exec (.syncMessage ⟨port, domain, source, true⟩) s = .next (s.modTime (fun t => { t with seconds := wholeSeconds o })))
      ∧ (s.dev.time.phasePps = true → exec (.syncMessage ⟨port, domain, source, true⟩) s = .next (s.modTime (fun t => { t with
          seconds := wholeSeconds o, disc := if t.disc = .locked then .locked else .acquiring, lastSync := s.dev.dtime }))))
    ∧ (newEdge s.dev.time.ppsInAt s.dev.dtime = true → s.dev.time.phasePps = true → (s.dev.time.disc = .acquiring ∨ s.dev.time.disc = .locked) →
      exec .ppsInputEdge s = .next (State.takeOffset (State.inputEdge (s.modTime (fun t => { t with ppsInAt := some s.dev.dtime })) 0) s.dev.ppsOffset))
    ∧ (s.dev.time.lastSync < s.dev.dtime →
      (s.dev.time.disc = .locked → ∃ t, exec .syncTimeout s = .next t ∧ t.dev.time.disc = .holdover ∧ t.dev.time.heldSince = s.dev.dtime)
      ∧ (s.dev.time.disc = .acquiring → ∃ t, exec .syncTimeout s = .next t ∧ t.dev.time.disc = .free))
    ∧ (s.dev.time.disc = .holdover → s.dev.time.heldSince + 10000000000 ≤ s.dev.dtime → exec .holdoverTimeout s = .next (s.modTime (fun t => { t with disc := .free })))

namespace Sys2Proof.Claims

/-- The bank commands with their SUB (R362). -/
def bankCommands (b : Bool) (f : BitVec 2) (l : Bool) (a c : BitVec 6) : List (Instr × Nat) :=
  [(.bankDot b f l a c, 1), (.bankAxpy b f l a c, 2), (.bankScal b f l a c, 3), (.bankSum b f l a c, 4), (.bankMax b f l a c, 5),
    (.bankFill b f l a c, 6), (.bankCopy b f l a c, 7)]

/-- The addresses of a bank command's x, y and result word, in its operand block (R362). -/
def bankX (t : Team) (a : Nat) : Nat := (t.srd64 a).toNat
def bankY (t : Team) (op a : Nat) : Option Nat := if op ∈ [1, 2, 7] then some (t.srd64 (a + 2)).toNat else none
def bankR (t : Team) (op a : Nat) : Option Nat :=
  if op = 1 then some (t.srd64 (a + 4)).toNat else if op = 4 ∨ op = 5 then some (t.srd64 (a + 2)).toNat else none

/-- The accesses of a bank command's ranges, in the order in which they translate (R362, R365). -/
def bankXs (t : Team) (op a n : Nat) : List (Nat × Access) := rangeAccesses (bankX t a) n (op != 6) (op == 3 || op == 6)
def bankYs (t : Team) (op a n : Nat) : List (Nat × Access) :=
  ((bankY t op a).map (fun y => rangeAccesses y n (op != 7) (op == 2 || op == 7))).getD []
def bankRs (t : Team) (op a : Nat) : List (Nat × Access) := ((bankR t op a).map (fun v => rangeAccesses v 4 false true)).getD []

/-- What R365 asks of a command's operands and length, beside their translation. -/
def BankOk (d : Device) (op n x : Nat) (y r : Option Nat) (lx ly lr : Loc) : Prop :=
  n % 512 = 0 ∧ 512 ≤ n ∧ n ≤ 2048 ∧ x % 32 = 0 ∧ x % 2048 + n ≤ 2048 ∧ lx.ws = false ∧ (op = 3 ∨ op = 6 → lx.repl = false)
    ∧ d.unitOf lx.pa ∈ d.bankUnits
    ∧ (∀ v, y = some v → v % 32 = 0 ∧ v % 2048 + n ≤ 2048 ∧ ly.ws = false ∧ d.unitOf ly.pa = d.unitOf lx.pa ∧ bankOf ly.pa = bankOf lx.pa
        ∧ (op = 7 → lx.pa = ly.pa ∨ ly.pa + n ≤ lx.pa ∨ lx.pa + n ≤ ly.pa) ∧ (op = 2 ∨ op = 7 → ly.repl = false))
    ∧ (∀ v, r = some v → v % 4 = 0 ∧ lr.repl = false)

end Sys2Proof.Claims

/-- BANK.OPEN with no open round and fewer than 4 unacknowledged opens one, and with an open round is cause 0x0E REASON 2. Each command in
a round of fewer than 64, whose ranges translate and meet R365, is queued at the unit of x, where its queue has room, as the round's next,
and waits at itself where the queue is full; with no round it is REASON 1 and after 64 commands REASON 8. BANK.CLOSE closes the round and
goes on (.w waits as BANK.WAIT does, also when it executes again), and with none open is REASON 1; BANK.WAIT goes on once every closed
round is acknowledged with no failing column, parks before, and otherwise is cause 0x0D with their number and the first. BANK.ERR of a
bank gives its register and, with bit 4, clears it. A unit with queued commands lets one of the banks they need serve the next column, in
the order of their list, of the oldest command that needs it: an update writes the column, and leaves the queue with its last; a reduction
keeps memory until its banks have all served it, then writes its result word and leaves. A finished closed round is acknowledged: no slice
returns its old bytes, no later load of its team reads as of before, and its lines count as written; commands queued for 20 us age; a
refresh changes nothing. Which bank goes next is open (log entry 31). (18_ordering.md: R293; 23_program_bank_dot.md: R356, R357, R359;
24_near_bank_units.md: R360, R361, R362, R363, R364, R365, R366, R368.) -/
def Obligations.BankRoundsAndCommands : Prop :=
  ∀ (s : State) (b l w : Bool) (f : BitVec 2) (d a c : BitVec 6) (u : Team) (r : State), u = s.team.belay b → r = s.withTeam u →
    (r.openRound u.key = none → (r.unacked u.key).length < 4 → exec (.bankOpen b) s = .next { r with
      nextKey := s.nextKey + 1, rounds := s.rounds ++ [⟨s.nextKey, u.key, u.crew, u.ctx, true, 0, false, []⟩], team := u.advance 1 })
    ∧ (∀ q, r.openRound u.key = some q → exec (.bankOpen b) s = .next (r.bankTrap 2 0)
      ∧ (w = false → exec (.bankClose b w) s = .next { r with rounds := closeRound u.key s.rounds, team := u.advance 1 })
      ∧ (w = true → exec (.bankClose b w) s = .next ({ r with rounds := closeRound u.key s.rounds, team := { u with closing := true } } : State).bankWait)
      ∧ (64 ≤ q.given → ∀ i ∈ Claims.bankCommands b f l a c, exec i.1 s = .next (r.bankTrap 8 0))
      ∧ (q.given < 64 → ∀ i op n xs ys rs locs lx ly lr, (i, op) ∈ Claims.bankCommands b f l a c → n = (u.srd c.toNat).toNat →
        xs = Claims.bankXs u op a.toNat n → ys = Claims.bankYs u op a.toNat n → rs = Claims.bankRs u op a.toNat → r.reach (xs ++ ys ++ rs) = .ok locs →
        lx = locs.headD ⟨0, false, false⟩ → ly = (if (Claims.bankY u op a.toNat).isSome then locs.getD xs.length ⟨0, false, false⟩ else lx) →
        lr = locs.getD (xs.length + ys.length) ⟨0, false, false⟩ →
        Claims.BankOk s.dev op n (Claims.bankX u a.toNat) (Claims.bankY u op a.toNat) (Claims.bankR u op a.toNat) lx ly lr →
        (16 ≤ (s.bankCmds.filter (fun k => k.unit == s.dev.unitOf lx.pa)).length → exec i s = .next r.waits)
        ∧ ((s.bankCmds.filter (fun k => k.unit == s.dev.unitOf lx.pa)).length < 16 → ∃ t, exec i s = .next t ∧ t.team = u.advance 1 ∧ t.mem = s.mem ∧ t.crew = s.crew ∧ t.ctx = s.ctx
          ∧ t.rounds = s.rounds.map (fun k => if k.id = q.id then { k with given := k.given + 1 } else k)
          ∧ ∃ k, t.bankCmds = s.bankCmds ++ [k] ∧ k.round = q.id ∧ k.number = q.given ∧ k.unit = s.dev.unitOf lx.pa ∧ k.op = op ∧ k.fmt = f.toNat
            ∧ k.cols = bankCols l n lx ly (Claims.bankX u a.toNat) ((Claims.bankY u op a.toNat).getD (Claims.bankX u a.toNat))
            ∧ k.result = (Claims.bankR u op a.toNat).map (fun _ => lr) ∧ k.queued = s.dev.clock ∧ k.aged = false
            ∧ (op = 2 → k.factor = u.srd (a.toNat + 4)) ∧ (op = 3 ∨ op = 6 → k.factor = u.srd (a.toNat + 2)))))
    ∧ (r.openRound u.key = none → (∀ i ∈ Claims.bankCommands b f l a c, exec i.1 s = .next (r.bankTrap 1 0))
      ∧ (w = false → exec (.bankClose b w) s = .next (r.bankTrap 1 0)))
    ∧ (∀ seen, seen = s.rounds.filter (fun q => q.team == u.key && q.acked) →
      (r.unacked u.key = [] → (∀ q ∈ seen, q.fails = []) →
        exec (.bankWait b) s = .next { r with rounds := s.rounds.filter (fun q => !(q.team == u.key && q.acked)), team := (u.raiseFloor s.tick).advance 1 })
      ∧ (r.unacked u.key = [] → (∃ q ∈ seen, q.fails ≠ []) →
        exec (.bankWait b) s = .next (({ r with rounds := s.rounds.filter (fun q => !(q.team == u.key && q.acked)), team := u.raiseFloor s.tick } : State).trapHere 0x0D
          (BitVec.ofNat 64 (Nat.min (seen.map (fun q => q.fails.length)).sum 127 * 2 ^ 57 + firstFail seen % 2 ^ 57)))))
    ∧ (r.unacked u.key ≠ [] → exec (.bankWait b) s = .next (s.withTeam { u with state := .parked, park := .bankWait }))
    ∧ (∀ v va loc key, v = (u.srd c.toNat).toNat → va = (u.srd64 a.toNat).toNat → v < 32 → r.reach [(va, .read)] = .ok [loc] → loc.ws = false →
      s.dev.unitOf loc.pa ∈ s.dev.bankUnits → key = 16 * s.dev.unitOf loc.pa + v % 16 →
      exec (.bankErr b d a c) s = .next { r with
        team := (u.swr64 d.toNat (s.bankErr.get key)).advance 1, bankErr := if 16 ≤ v then s.bankErr.set key 0 else s.bankErr })
    ∧ (r.openRound u.key = none → w = true →
      (s.team.closing = true → exec (.bankClose b w) s = .next r.bankWait) ∧ (s.team.closing = false → exec (.bankClose b w) s = .next (r.bankTrap 1 0)))
    ∧ (∀ unit k q, (k, some q) ∈ s.bankChoices unit → k.unit = unit ∧ q ∈ k.cols
      ∧ (∀ x ∈ k.cols, bankOf x.px = bankOf q.px → k.cols.idxOf q ≤ k.cols.idxOf x)
      ∧ ∃ n : Nat, s.bankCmds[n]? = some k ∧ ∀ m < n, ∀ x : BankCmd, s.bankCmds[m]? = some x → x.unit = unit → ∀ y ∈ x.cols, bankOf y.px ≠ bankOf q.px)
    ∧ (∀ unit, (s.bankChoices unit = [] → exec (.bankCommandFinish unit) s = .next s)
      ∧ (s.bankChoices unit ≠ [] → ∃ x ∈ s.bankChoices unit,
          (∀ k q, x = (k, some q) → ∃ t, exec (.bankCommandFinish unit) s = .next t ∧ t.crew = s.crew
            ∧ (k.cols.erase q ≠ [] ∨ k.reduces = true → t.bankCmds.length = s.bankCmds.length)
            ∧ (k.cols.erase q = [] → k.reduces = false → ∀ y ∈ t.bankCmds, ¬ (y.round = k.round ∧ y.number = k.number))
            ∧ (k.reduces = false → t.mem = (s.updateColumn { k with cols := k.cols.erase q } q).mem)
            ∧ (k.reduces = true → t.mem = s.mem ∧ (k ∈ s.bankCmds →
                { k with cols := k.cols.erase q, parts := (s.reduceColumn k k.parts q).2, held := s.heldAfter k q } ∈ t.bankCmds)))
          ∧ (∀ k, x = (k, none) → exec (.bankCommandFinish unit) s = .next ((s.reduce k).bankDone k))))
    ∧ (∀ unit bank, exec (.bankRefresh unit bank) s = .next s
      ∧ ∃ t, exec (.bankAgeing unit) s = .next t ∧ t.mem = s.mem ∧ t.bankCmds.length = s.bankCmds.length
          ∧ ∀ k ∈ s.bankCmds, k.unit = unit → k.queued + 40000 ≤ s.dev.clock → { k with aged := true } ∈ t.bankCmds)
    ∧ (∀ team q, s.rounds.find? (fun k => k.team == team && s.ackable k) = some q → ∃ t, exec (.bankRoundAck team) s = .next t ∧ t.mem = s.mem
      ∧ (∀ e ∈ t.bankOld, e.2.round ≠ q.id) ∧ (∀ k ∈ t.rounds, k.id = q.id → k.acked = true)
      ∧ (∀ e ∈ s.bankOld, e.2.round = q.id → e.1 / 128 ∈ t.wrote ∧ (⟨none, [team], e.1, e.2.old, 0, s.tick⟩ : PastByte) ∈ t.past))

namespace Sys2Proof.Claims

/-- The remote copies with their kind (R280). -/
def remoteForms (b : Bool) (d a c win : BitVec 6) (tc ord : Bool) (dev : BitVec 22) : List (Instr × Nat) :=
  [(.put b d a c win tc ord dev, 0), (.get b d a c win tc ord dev, 1), (.psig b d a c win tc ord dev, 2)]

/-- The operands of a remote copy meet R280: aligned, at most 16 MiB, and inside a window that is registered for the device. -/
def RemoteOk (c : Context) (kind va off n win dev flag : Nat) : Prop :=
  va % 16 = 0 ∧ off % 16 = 0 ∧ n % 16 = 0 ∧ n ≤ 16777216
    ∧ ∃ w, c.window? win = some w ∧ w.dev = dev ∧ off + n ≤ w.size ∧ (kind = 2 → flag % 4 = 0 ∧ flag + 4 ≤ w.size)

/-- The semaphore that RING.WAIT names is in the context's grant on its die (R347). -/
def SemaphoreOk (c : Context) (v : Nat) : Prop :=
  v < 8192 ∧ (c.grants.getD (v / 4096 % 2) (0, 0)).1 ≤ v % 4096
    ∧ v % 4096 < (c.grants.getD (v / 4096 % 2) (0, 0)).1 + (c.grants.getD (v / 4096 % 2) (0, 0)).2

/-- The operation of a remote copy, as `r` issues it: its units, window, offset, device and flag, and, for a frame-class PUT of at most 1 MiB or
PSIG to a directly linked device, no unit in the weight store, the clock by which it has to complete (R280, R373). -/
def RemoteIssued (r : State) (kind : Nat) (locs : List Loc) (win off dev n flag : Nat) (tc rel : Bool) (x : RemoteArgs) : Prop :=
  x.units = locs ∧ x.todo = List.range locs.length ∧ x.win = win ∧ x.off = off ∧ x.dev = dev ∧ x.flag = flag ∧ x.tc = tc ∧ x.rel = rel
    ∧ ((tc = false ∨ kind = 1) → x.bound = none)
    ∧ (∀ port, r.dev.directPort dev = some port → tc = true → kind ≠ 1 → (kind = 2 ∨ n ≤ 1048576) → (∀ l ∈ locs, l.ws = false) →
        x.bound = some (r.dev.clock + (if kind = 2 then 3000 else 2400) + (n + (r.ops.map (r.unsentOn port)).sum) / 14))

/-- A remote operation of the kind is in flight, its window is usable, and nothing that it must wait for is left (R281, R371). -/
def RemoteReady (s : State) (op kind : Nat) (o : AsyncOp) (x : RemoteArgs) (w : Window) : Prop :=
  s.op? op = some o ∧ o.done = false ∧ o.work = .remote kind x ∧ s.windowFor o kind x = some w ∧ s.remoteHeld o x = false

/-- Something has gone to another device (R281, R374). -/
def sentOn (s : State) (dev kind at_ : Nat) (bytes : List Byte) : State :=
  { s with dev := s.dev.report (fun q => { q with sent := q.sent ++ [(dev, kind, at_, bytes)] }) }

/-- Unit `u` of a PUT or PSIG goes from `s` to `t`: its data, as the copy engine of its core finds them, to its place in the window of this device,
or to another device (R281). -/
def UnitPut (s : State) (o : AsyncOp) (x : RemoteArgs) (w : Window) (u : Nat) (l d : Loc) (t : State) : Prop :=
  ∃ s1 s2 data, x.units[u]? = some l ∧ s1 = s.drainFor o.core [l] ∧ data = s1.readForOp o l 16 ∧ s2 = s1.opSaw o [l] 16
    ∧ (x.dev = s.dev.devid.toNat → s2.ownUnit o w .write (x.off + 16 * u) = some d ∧ t = s2.writeThrough d 16 (ofLeBytes data))
    ∧ (x.dev ≠ s.dev.devid.toNat → t = sentOn s2 x.dev 0 (w.base + x.off + 16 * u) data)

/-- Unit `u` of a GET goes from `s` to `t`: the window's bytes of this device, or those that have come from another, to its local place (R281). -/
def UnitGot (s : State) (o : AsyncOp) (x : RemoteArgs) (w : Window) (given : List Byte) (u : Nat) (l d : Loc) (t : State) : Prop :=
  ∃ s1, x.units[u]? = some l
    ∧ (x.dev = s.dev.devid.toNat → s.ownUnit o w .read (x.off + 16 * u) = some d ∧ s1 = s.drainFor o.core [d]
        ∧ t = (s1.hasRead o.core [d] 16).writeThrough l 16 (ofLeBytes (s1.engineBytes o.core d 16)))
    ∧ (x.dev ≠ s.dev.devid.toNat → t = s.writeThrough l 16 (ofLeBytes given))

/-- The units of a list are performed in turn by `P`, from `s` to `t`. -/
def UnitsDone (P : State → Nat → State → Prop) : List Nat → State → State → Prop
  | [], s, t => t = s
  | u :: us, s, t => ∃ m, P s u m ∧ UnitsDone P us m t

end Sys2Proof.Claims

/-- With an active lane, operands that meet R280 and local units that translate, PUT, GET and PSIG issue (with .rel a PUT and a PSIG as
releases), a frame-class one with the clock of R373's bound (its count of unsent bytes: log entry 70); RING.RED with a descriptor and a
table that meet R345, in its context's semaphores and windows, whose pages translate, and whose window reaches its successor, issues and
goes on, or waits at itself while its die's engine runs 64. RING.WAIT of a granted semaphore that has passed the target goes on, else
parks; a bad number is cause 0x01, one outside the grant cause 0x05. Its window usable, an operation performs its units one by one: a PUT
or PSIG reads a unit as the copy engine of its core finds it and writes it in this device's window, or sends it to another device; a GET
writes the window's bytes, or those that come, at its local unit. When a PUT, PSIG or GET completes, the units that are left are
performed, a PSIG's flag is then added to, and a step may perform one unit alone before. One whose window is not usable leaves each unit
not yet performed written or not and ends with cause 0x25. Traffic of other devices writes, unit by unit at the place of its own page, or
adds at the home slices. A partial segment that is expected waits in staging, another is dropped. A ring chunk that every segment has
passed is written where its units then translate, counts its semaphore up and is done, or, while one is still to be mapped, is reported
and tried again; a ring with every chunk done completes. (17_memory_instructions.md: R280, R281; 22_task_grace_system_instructions.md:
R345, R346, R347; 25_beyond_the_package.md: R370, R371, R373, R374, R375.) -/
def Obligations.RemoteCopiesAndRings : Prop :=
  ∀ (s : State) (b tc ord : Bool) (d a c win : BitVec 6) (dev : BitVec 22) (u : Team) (r : State), u = s.team.belay b → r = s.withTeam u →
    (∀ i kind va off n flag units locs r1, (i, kind) ∈ Claims.remoteForms b d a c win tc ord dev → u.active ≠ [] → va = (u.srd64 d.toNat).toNat →
      off = (u.srd64 a.toNat).toNat → n = (u.srd c.toNat).toNat → flag = (if kind = 2 then (u.srd (c.toNat + 1)).toNat else 0) →
      Claims.RemoteOk s.ctx kind va off n win.toNat dev.toNat flag → units = (List.range (n / 16)).map (fun k => (va + 16 * k) % 2 ^ 64) →
      r.reach (units.map (fun v => (v, if kind = 1 then Access.write else Access.read))) = .ok locs → ∀ r0, r0 = r.settleOver (locs.flatMap (fun l => l.span 16)) →
      r1 = (if ord && kind != 1 then r0.fenceDev else r0) →
      ∃ t x, exec i s = .next t ∧ Claims.Joins r1 t (.remote kind x) 0 2 (ord && kind == 1)
        ∧ Claims.RemoteIssued r1 kind locs win.toNat off dev.toNat n flag tc (ord && kind != 1) x)
    ∧ (u.active = [] → ∀ i ∈ Claims.remoteForms b d a c win tc ord dev, exec i.1 s = .next (s.withTeam (u.advance 2)))
    ∧ (∀ v idx die r1, v = (u.srd a.toNat).toNat → idx = v % 4096 → die = v / 4096 % 2 → r1 = r.settleSc →
      (Claims.SemaphoreOk s.ctx v → (s.semaphores.get (die * 4096 + idx) - u.srd c.toNat).toNat < 2 ^ 31 → ∃ t, exec (.ringWait b a c) s = .next t
        ∧ t.team = (r1.team.raiseFloor s.tick).advance 1 ∧ t.crew = s.crew ∧ t.ctx = s.ctx ∧ t.semaphores = s.semaphores ∧ t.mem = r1.mem)
      ∧ (Claims.SemaphoreOk s.ctx v → 2 ^ 31 ≤ (s.semaphores.get (die * 4096 + idx) - u.srd c.toNat).toNat → ∃ t poll, exec (.ringWait b a c) s = .next t
        ∧ t.team = { r1.team with state := .parked, park := .ringWait die idx (u.srd c.toNat) poll } ∧ t.semaphores = s.semaphores ∧ t.mem = r1.mem)
      ∧ (8192 ≤ v → exec (.ringWait b a c) s = .next (r1.illegal (.ringWait b a c)))
      ∧ (v < 8192 → ¬ Claims.SemaphoreOk s.ctx v → ∃ x, exec (.ringWait b a c) s = .next (r1.vaTrap 0x05 0 x)))
    ∧ (∀ va l s0 h ring s01 nl s1 n s12 tl s2 devices s3 pos args src dst, va = (u.srd64 a.toNat).toNat → va % 64 = 0 → r.reach [(va, .read)] = .ok [l] →
      s0 = r.drainFor r.home [l] → h = s0.engineBytes r.home l 64 → ring = fieldAt h 24 8 → s01 = s0.hasRead r.home [l] 64 → s01.reach (rangeAccesses ring 4 true false) = .ok nl →
      s1 = s01.drainFor r.home nl → n = (s1.tableWords nl ring 1).headD 0 → s12 = s1.readTable nl ring 1 → 2 ≤ n → n ≤ 4194304 → s12.reach (rangeAccesses ring (4 + 4 * n) true false) = .ok tl → tl ≠ [] →
      s2 = s12.drainFor r.home tl → devices = ((s2.tableWords tl ring (n + 1)).drop 1).map (fun w => w % 2 ^ 22) → s3 = s2.readTable tl ring (n + 1) →
      ringFault h = none → tableFault n devices s.dev.devid.toNat = none → ringFaultTail h = none →
      semaphoresGranted (s.ctx.grants.getD (dieOf r.home) (0, 0)) (fieldAt h 32 2) (fieldAt h 20 4) = true → (s.ctx.window? (fieldAt h 35 1)).isSome = true →
      src = rangeAccesses (fieldAt h 0 8) (fieldAt h 20 4 * fieldAt h 16 4) true false → dst = rangeAccesses (fieldAt h 8 8) (fieldAt h 20 4 * fieldAt h 16 4) false true →
      (∃ locs, s3.reach (src ++ dst) = .ok locs) → (64 ≤ s3.ringOps (dieOf r.home) → exec (.ringRed b a) s = .next r.waits)
      ∧ (s3.ringOps (dieOf r.home) < 64 → pos = devices.findIdx (fun k => k == s.dev.devid.toNat) →
      args = { srcVa := fieldAt h 0 8, dstVa := fieldAt h 8 8, chunk := fieldAt h 16 4, nchunk := fieldAt h 20 4,
               devices := n, pos := pos, succ := devices.getD ((pos + 1) % n) 0, pred := devices.getD ((pos + n - 1) % n) 0, sem := fieldAt h 32 2,
               fmt := fieldAt h 34 1 % 4, max := bitOf (fieldAt h 34 1 / 4), tc := bitOf (fieldAt h 34 1 / 8), win := fieldAt h 35 1, die := dieOf r.home } →
      s.ctx.ringWindow args = true →
      ∃ t, exec (.ringRed b a) s = .next t ∧ t.team = s3.release.team.advance 1 ∧ t.mem = s3.release.mem
        ∧ t.ops = s3.release.ops ++ [Claims.issuedOp s3.release (.ring args [] [] []) 0]))
    ∧ (∀ op o x w t, Claims.RemoteReady s op 0 o x w → Claims.UnitsDone (fun v u m => ∃ l d, Claims.UnitPut v o x w u l d m) x.todo s t →
      exec (.putComplete op) s = .next (t.finishOp o [] none))
    ∧ (∀ op o x w t, Claims.RemoteReady s op 2 o x w → Claims.UnitsDone (fun v u m => ∃ l d, Claims.UnitPut v o x w u l d m) x.todo s t →
      (∀ f, x.dev = s.dev.devid.toNat → t.ownUnit o w .atomic x.flag = some f → exec (.psigComplete op) s = .next ((t.addOne f).finishOp o [] none))
      ∧ (x.dev ≠ s.dev.devid.toNat → exec (.psigComplete op) s = .next ((Claims.sentOn t x.dev 2 (w.base + x.flag) []).finishOp o [] none)))
    ∧ (∀ op o x w bytes t, s.op? op = some o → o.done = false → o.work = .remote 1 x → s.windowFor o 1 x = some w → (∀ u ∈ x.todo, 16 * u + 16 ≤ bytes.length) →
      Claims.UnitsDone (fun v u m => ∃ l d, Claims.UnitGot v o x w ((bytes.drop (16 * u)).take 16) u l d m) x.todo s t →
      exec (.getComplete op bytes) s = .next (t.finishOp o [] none))
    ∧ (∀ op o kind x w u, Claims.RemoteReady s op kind o x w → kind ≤ 2 → u ∈ x.todo →
      (∀ l d t, kind ≠ 1 → Claims.UnitPut s o x w u l d t →
        Act.run (.remoteUnit op u) s = .next (t.modOp op (fun y => { y with work := .remote kind { x with todo := x.todo.filter (fun v => v != u) } })))
      ∧ (∀ l d t, kind = 1 → Claims.UnitGot s o x w (s.remoteUnit o u) u l d t →
        Act.run (.remoteUnit op u) s = .next (t.modOp op (fun y => { y with work := .remote kind { x with todo := x.todo.filter (fun v => v != u) } }))))
    ∧ (∀ op o kind x bytes, s.op? op = some o → o.done = false → o.work = .remote kind x → s.windowFor o kind x = none → s.remoteHeld o x = false →
      ∀ i, (kind, i) ∈ [(0, Instr.putComplete op), (2, .psigComplete op), (1, .getComplete op bytes)] → ∃ given,
        exec i s = .next ((s.failUnits o kind x given).finishOp o [] (some (0x25, BitVec.ofNat 64 (o.pc % 2 ^ 57)))))
    ∧ (∀ ctx va bytes k l, s.ctx? ctx = some k →
      exec (.remoteAccess ctx 0 va bytes) s = .next (s.remotePut k va bytes)
      ∧ (s.translateFor k 0 va .atomic = .ok l → exec (.remoteAccess ctx 2 va bytes) s = .next (s.addOne l)) ∧ exec (.remoteAccess ctx 1 va bytes) s = .next s)
    ∧ (∀ op chunk seg bytes,
      (s.expects op chunk seg = true → exec (.partialSegment op chunk seg bytes) s = .next { s with staging := s.staging ++ [(op, chunk, seg, bytes)] })
      ∧ (s.expects op chunk seg = false → exec (.partialSegment op chunk seg bytes) s = .next s))
    ∧ (∀ op o args done sent joined, s.op? op = some o → o.done = false → o.work = .ring args done sent joined →
      (∀ chunk bytes, chunk ∉ done → chunk < args.started done →
        (∀ places, args.passed sent joined chunk = true → s.addsSemaphores o = true → s.ringUnits o args (args.dstUnits chunk) .write = .ok places → ∃ t, exec (.ringChunkWritten op chunk bytes) s = .next t ∧ t.team = s.team ∧ t.crew = s.crew
          ∧ t.semaphores = s.semaphores.set (args.die * 4096 + (args.sem + chunk) % 4096) (s.semaphores.get (args.die * 4096 + (args.sem + chunk) % 4096) + 1)
          ∧ (∀ x, t.op? op = some x → x.work = .ring args (done ++ [chunk]) sent (joined.filter (fun e => e.1 != chunk)))
          ∧ t.mem = (places.zipIdx.foldl (fun (v : State) y => match y.1 with
              | some l => v.writeThrough l 16 (ofLeBytes (v.ringUnit o args joined chunk bytes y.2))
              | none => v) (s.ringDone o args (args.dstUnits chunk))).mem)
        ∧ (∀ v e, args.passed sent joined chunk = true → s.ringUnits o args (args.dstUnits chunk) .write = .error (v, e) →
          exec (.ringChunkWritten op chunk bytes) s = .next (s.deviceFault o.ctx v e .write args.die))
        ∧ (args.passed sent joined chunk = false → exec (.ringChunkWritten op chunk bytes) s = .next s))
      ∧ ((∀ k < args.nchunk, k ∈ done) → exec (.ringComplete op) s = .next (s.finishOp o [] none)))

/-- COPY_COMPLETE of a copy with units writes some of them, in no fixed order but always at least one, into the scratchpad or out of it;
while units are left it goes on, and after the last it writes the tag and completes, or, with FOLLOW, leaves its MMA to issue; a copy of
no units in batch 0, or whose earlier batches are done, ends so too. FOLLOW_MMA_ISSUE in a running context, with room at the array, makes
it an MMA with the record as it reads then, or, where the record breaks a check, completes with cause 0x24 and the CPY's address. LDA_LAND
of a waiting lane reads its value as its core finds it (no later than a later access of its team has read those bytes), or has the value
its ticket gave it, and lands it. ACC_COMPLETE of a form in its turn zeroes, multiplies and adds, loads, or reads the words of this step
and, after the last, completes, an ACC.ST's stores and tag written then; before its turn nothing. MATRIX_ARRAY_GROUP with an operation
that waits at the array takes one of them (the rotation among issuers by TEAMID: log entry 10) and runs one group of it, MMA or tile; with
none it does nothing. (02_machine_at_a_glance.md: R23; 12_number_formats.md: R191; 13_matrix_array_and_tags.md: R201, R206, R209;
14_matrix_copy_network_instructions.md: R222, R224, R229, R230, R232, R233; 17_memory_instructions.md: R266.) -/
def Obligations.EngineEvents : Prop :=
  ∀ (s : State) (op : Nat) (o : AsyncOp) (w : Crew) (t : Team), s.op? op = some o → o.id = op → o.done = false → s.crew? o.crew = some w → s.team? o.team = some t →
    (∀ out units sw tile tag follow now rest s1, o.work = .copy out units sw tile tag follow → (now, rest) = s.someUnits o units →
      s1 = (if out then s.copyOut o w t.index now sw tile else s.copyIn o w t.index now sw tile follow.isSome) →
      (now ++ rest).Perm units ∧ (units ≠ [] → now ≠ [])
      ∧ (rest ≠ [] → exec (.copyComplete op) s = .next (s1.modOp op (fun x => { x with work := .copy out rest sw tile tag follow })))
      ∧ (rest = [] → (units = [] → o.batch = 0 ∨ s.batchDone t (o.batch - 1) = true) → follow = none →
        exec (.copyComplete op) s = .next ((s1.writeTag o w tag).finishOp o [] none))
      ∧ (∀ m, rest = [] → (units = [] → o.batch = 0 ∨ s.batchDone t (o.batch - 1) = true) → follow = some m →
        exec (.copyComplete op) s = .next ((s1.writeTag o w tag).modOp op (fun x => { x with work := .follow m }))))
    ∧ (∀ m k, o.work = .follow m → s.arrayQueue o.core < 16 → s.ctx? o.ctx = some k → k.state = .running →
      (∀ fb, s.readBlock w ⟨t.index, .array, s.tick⟩ m = .ok fb →
        exec (.followMmaIssue op) s = .next (s.modOp op (fun x => { x with work := .mma m fb 0 0 [] none, stamp := s.tick })))
      ∧ (∀ info, s.readBlock w ⟨t.index, .array, s.tick⟩ m = .error info →
        exec (.followMmaIssue op) s = .next (s.finishOp o [] (some (0x24, info + BitVec.ofNat 64 (o.pc % 2 ^ 57 / 65536 * 65536))))))
    ∧ (∀ todo more lane l core m v s1, o.work = .lda todo more → todo.find? (fun x => x.lane == lane) = some l → s1 = s.landLane o l →
      core = w.coreOf t (l.lane / 32) →
      m = (if l.bypass && !l.loc.ws then s.engineMoment o.team o.stamp (l.loc.readAddr core 0) (typeSize l.type) else s.tick) →
      v = l.val.getD (extendLoad l.type (s.loadValAt m core o.team l.bypass l.loc (typeSize l.type))) →
      exec (.ldaLand op lane) s = .next (s1.afterOps o.team) ∧ s1.mem = s.mem
        ∧ (∀ x, s1.op? op = some x → x.work = .lda (todo.filter (fun y => y.lane != l.lane)) more ∧ x.landed = o.landed ++ laneWrites l.reg l.lane l.type v 0 none))
    ∧ (s.accTurn o = false → exec (.accComplete op) s = .next s)
    ∧ (s.accTurn o = true →
      (∀ slot left now rest s1, o.work = .accClr slot left → now = s.accNow o left → rest = left &&& ~~~now →
        s1 = s.modCrew w.key (fun x => x.setAcc slot (Plane.cells now) (fun _ => 0)) →
        (rest = 0 → exec (.accComplete op) s = .next (s1.finishOp o [] none))
        ∧ (rest ≠ 0 → exec (.accComplete op) s = .next (s1.modOp op (fun x => { x with work := .accClr slot rest }))))
      ∧ (∀ dst src f left now rest s1, o.work = .accProm dst src f left → now = s.accNow o left → rest = left &&& ~~~now →
        s1 = s.modCrew w.key (fun x => x.setAcc dst (Plane.cells now) (fun i => word3 fp32.fma (x.accWord src i) f (x.accWord dst i))) →
        (rest = 0 → exec (.accComplete op) s = .next (s1.finishOp o [] none))
        ∧ (rest ≠ 0 → exec (.accComplete op) s = .next (s1.modOp op (fun x => { x with work := .accProm dst src f rest }))))
      ∧ (∀ slot elems fmt left now rest s1 s2, o.work = .accLd slot elems fmt left → now = s.accNow o left → rest = left &&& ~~~now →
        s1 = s.drainFor o.core (elems.map (fun e => e.2)) → s2 = (s1.opSaw o ((elems.filter (fun e => now.getLsbD e.1)).map (fun e => e.2)) (accStSize fmt)).modCrew w.key (fun x =>
          x.setAcc slot (Plane.cells now) (fun i => match assoc? elems i with
          | some l => accLoadElem fmt (ofLeBytes (s1.readForOp o l (accStSize fmt)))
          | none => 0)) →
        (rest = 0 → exec (.accComplete op) s = .next (s2.finishOp o [] none))
        ∧ (rest ≠ 0 → exec (.accComplete op) s = .next (s2.modOp op (fun x => { x with work := .accLd slot elems fmt rest }))))
      ∧ (∀ slot elems fmt sat tag got left now rest more, o.work = .accSt slot elems fmt sat tag got left → now = s.accNow o left → rest = left &&& ~~~now →
        more = (elems.filter (fun e => now.getLsbD e.1)).map (fun e => (e.2, accStoreElem fmt sat (w.accWord slot e.1).toNat)) →
        (rest = 0 → exec (.accComplete op) s = .next ((((got ++ more).foldl
          (fun (x : State) e => x.writeThrough e.1 (accStSize fmt) e.2) s).writeTag o w tag).finishOp o [] none))
        ∧ (rest ≠ 0 → exec (.accComplete op) s = .next (s.modOp op (fun x => { x with work := .accSt slot elems fmt sat tag (got ++ more) rest })))))
    ∧ (∀ core, (s.arrayReady core = [] → exec (.matrixArrayGroup core) s = .next s)
      ∧ (s.arrayReady core ≠ [] → ∃ p ∈ s.arrayReady core, ∀ s1, s1 = s.modCore core (fun k => { k with arrayServed := s.issuerOf p }) →
        (∀ m fb g n acc fold v u, p.work = .mma m fb g n acc fold → s1.crew? p.crew = some v → s1.team? p.team = some u →
          exec (.matrixArrayGroup core) s = .next (s1.mmaStep p v u.index m fb g n acc fold))
        ∧ (∀ todo nets regs tile, p.work = .net todo nets regs tile → exec (.matrixArrayGroup core) s = .next (s1.netStep p todo nets regs tile))))

/-- A drained line leaves the core's buffer and its bytes are performed in order. A returned load writes its register, with the value of
its issue or, by a free choice, the one that it reads now (a reading of R52, R241 and R288: log entry 11), and is no longer outstanding;
loads that bypass L1 keep their order on common bytes. The .sc stores up to a team's last are performed in ticket order. A parked WAITV
whose entry has been notified wakes behind its instruction if its word, as its core reads it, differs, having read it for what it accesses
later, else goes on waiting; one in poll mode wakes so too; a RING.WAIT whose semaphore has passed is ready again. A team parked on a
memory fault is ready again at its instruction, with the declined cause noted where the kernel declined (what the team does with it is a
reading: log entry 54). A shoot-down writes a migrated page to the entry's frame, then the entry, and is under way, after which the
context's accesses are performed (this order is a reading: log entry 15); when it completes, no TLB holds a translation of the context. A
walk outside the heap window that finds a leaf puts it in the core's TLB and its die's. A core that R257 lets be gated gates its clock,
another does not. A completed sampler drop empties the cores of its scope and the team goes on. A host write to mapped memory is
performed, in the weight store on both dies; it is refused while a job is busy if it reaches the weight store; one to an unmapped address
stops (log entry 53). (13_matrix_array_and_tags.md: R218; 15_program_table_update.md: R240; 16_memory_and_translation.md: R244, R250,
R251, R252, R253, R254, R255, R256, R257; 17_memory_instructions.md: R263.) -/
def Obligations.MemoryPathEvents : Prop :=
  ∀ s : State,
    (∀ core line, ∃ t, exec (.writeCombiningDrain core line) s = .next t ∧ (t.core core).wcb = (s.core core).wcb.filter (fun b => b.addr / 128 != line)
      ∧ t.mem = (((s.core core).wcb.filter (fun b => b.addr / 128 == line)).foldl State.perform s).mem ∧ t.team = s.team ∧ t.teams = s.teams ∧ t.crew = s.crew)
    ∧ (∀ k x, s.team.state ≠ .free → s.team.unchecked[k]? = some x →
      (x.src = none → exec (.loadReturn s.team.key k) s = .next (s.withTeam { s.team.land x with unchecked := dropAt s.team.unchecked k }))
      ∧ (∀ y, x.src = some y →
        (s.free 13 k = false → exec (.loadReturn s.team.key k) s =
          .next (s.withTeam { s.team.land x with unchecked := dropAt (fixEarlier k y s.team.unchecked) k }))
        ∧ (s.free 13 k = true → ∀ s1 s2, s1 = s.afterLoad s.team.key (if y.bypass then 3 else 0) y.core y.loc y.size s.tick →
          s2 = (if y.bypass then s1.withTeam (s1.team.saw (y.loc.readAddr y.core 0) y.size (y.id / 1024) s.tick) else s1) →
          exec (.loadReturn s.team.key k) s = .next (s2.withTeam { s2.team.land { x with val := s.readNow s.team.key y, src := none } with
            unchecked := dropAt (fixEarlier k y (s.performLate s.team.key k y s.team.unchecked)) k }))))
    ∧ (∀ team, ∃ n, exec (.scStorePerformed team) s = .next { ((s.scStores.take n).foldl State.performScByte s) with scStores := s.scStores.drop n }
      ∧ (∀ b ∈ s.scStores.drop n, b.team ≠ team) ∧ (∀ m < n, ∃ b ∈ s.scStores.drop m, b.team = team))
    ∧ (∀ core l waited n, s.team.state = .parked → s.onCores s.team.ctx = true → s.crew.live = true → s.team.crew = s.crew.key → s.crew.coreOf s.team 0 = core →
      (s.team.park = .waitv l waited false true → ∃ t, exec (.waitTableNotify core (l.readAddr core 0 / 128)) s = .next t ∧ t.mem = s.mem
        ∧ t.team = (if s.watchedWord core s.team.key l ≠ waited then s.team.wake.saw (l.readAddr core 0) 4 s.tick s.tick
            else { s.team with park := .waitv l waited false false }))
      ∧ (s.team.park = .waitv l waited true n → ∃ t, exec (.waitvPoll s.team.key) s = .next t ∧ t.mem = s.mem
        ∧ t.team = (if s.watchedWord core s.team.key l ≠ waited then s.team.wake.saw (l.readAddr core 0) 4 s.tick s.tick else s.team)))
    ∧ (∀ core die idx target, s.team.state = .parked → s.onCores s.team.ctx = true → s.ringPassed die idx target = true → s.crew.coreOf s.team 0 = core →
      (s.team.park = .ringWait die idx target false → ∃ t, exec (.waitTableNotify core (semaphoreAddr die idx / 128)) s = .next t
        ∧ t.team = { s.team with state := .ready, park := .awake } ∧ t.mem = s.mem)
      ∧ (s.team.park = .ringWait die idx target true → exec (.waitvPoll s.team.key) s = .next (s.withTeam { s.team with state := .ready, park := .awake })))
    ∧ (∀ ls cause, s.team.state ≠ .free → s.team.park = .memFault ls →
      exec (.faultResolved s.team.key) s = .next (s.withTeam { s.team.raiseFloor s.tick with state := .ready, park := .awake })
      ∧ exec (.faultDeclined ⟨s.team.key, cause⟩) s = .next (s.withTeam { s.team.raiseFloor s.tick with state := .ready, park := .awake, declined := some cause.toNat }))
    ∧ (∀ ctx pa entry page, ∃ t, exec (.tlbShootdown ctx pa entry page) s = .next t ∧ ctx ∈ t.shoots ∧ t.team = (if s.team.ctx = ctx then s.team.raiseFloor s.tick else s.team) ∧ t.cores = s.cores
      ∧ ∀ s0, s0 = (if pteV entry.toNat = true ∧ pteRh entry.toNat = false ∧ pteWs entry.toNat = false then
          s.writeThrough ⟨ptePa entry.toNat, pteRepl entry.toNat, false⟩ page.length (ofLeBytes page) else s) →
        t.mem = (s0.writeThrough ⟨pa, false, false⟩ 8 entry.toNat).mem)
    ∧ (∀ ctx, ctx ∉ (s.shootdown ctx).shoots ∧ (∀ e ∈ (s.shootdown ctx).cores, ∀ x ∈ e.2.tlb, x.ctx ≠ ctx) ∧ (∀ e ∈ (s.shootdown ctx).dieTlbs, ∀ x ∈ e.2, x.ctx ≠ ctx))
    ∧ (∀ core ctx va k e size, s.ctx? ctx = some k → inWindow (k.regs.get 0).toNat (k.regs.get 1).toNat va = false → s.walk k (dieOf core) va = .ok (e, size) →
      ∃ t, exec (.pageWalk core ctx va) s = .next t ∧ (⟨k.key, va / size, size, BitVec.ofNat 64 e⟩ : TlbEntry) ∈ (t.core core).tlb
        ∧ (⟨k.key, va / size, size, BitVec.ofNat 64 e⟩ : TlbEntry) ∈ t.dieTlb (dieOf core) ∧ t.mem = s.mem ∧ t.team = s.team)
    ∧ (∀ core, exec (.coreClockGate core) s = .next (if s.gateable core then s.modCore core (fun k => { k with gated := true }) else s))
    ∧ (∀ sc, s.team.state ≠ .free → s.team.dropping = some sc → s.crew.live = true → s.team.crew = s.crew.key →
      ∃ t, exec (.samplerDropComplete s.team.key) s = .next t ∧ t.team = { s.team.advance 1 with dropping := none }
        ∧ (∀ e ∈ t.cores, s.crew.dropCovers s.team sc e.1 = true → e.2.samp = [] ∧ e.2.miss = []) ∧ t.mem = s.mem)
    ∧ (∀ ctx va bytes k, s.ctx? ctx = some k →
      (∀ ws, bytes.zipIdx.mapM (fun x => (s.hostLoc k (va + x.2)).map (fun l => (l, x.1))) = some ws → exec (.hostMemoryWrite ctx va bytes) s =
        .next (if ws.any (fun w => w.1.ws) && s.anyBusy k then s.refuseWeights else ws.foldl (fun v w => v.hostByte w.1 w.2) s))
      ∧ (∀ n < bytes.length, s.hostLoc k (va + n) = none → exec (.hostMemoryWrite ctx va bytes) s = .fault (.noMemory va)))

/-- What the node that a core's scheduler takes is due: its cancelled records are dropped, or its head record's conversions enter, or it
goes to the dead-record list, or it is launched with the records of its plan, the tags of an operator node's operands having been read;
then the parked pushes of the context decide again. A launched team is ready at its entry with a lane for each of its records, whose words
its first registers hold, the node's priority as TPRI, the number of records in s0, clear flags, empty stacks and clear predicates. A crew
whose teams have exited and whose effects are performed leaves the machine, in a running or a halted context. The barrier watchdog, at its
period, ends the context with cause 0x0C and the capture; a request ends it with 0x27; a terminated context's record, once its drains have
ended, no report is due and its STATUS words translate, goes to host and kernel. The team watchdog, once it has expired or is at its
limit, raises cause 0x13 with the PERIOD and, of a parked team, the code of the park, which it gives up: an arrival at a barrier leaves
its round, and a round without arrivals is gone (log entry 22); a team that was not in the active set enters it as R41 says. A team that
has waited 2,048 clocks at a slot ages there; a trim tick that is due applies R314 node by node (in the order of log entry 69), and one
that is not does nothing. (03_program_lost_team.md: R28, R29, R31; 04_teams_and_crews.md: R35, R49; 13_matrix_array_and_tags.md: R213;
20_tasks_and_scheduling.md: R306, R311, R314, R324; 21_traps_and_preemption.md: R325, R334.) -/
def Obligations.LaunchesAndEnds : Prop :=
  ∀ s : State,
    (∀ core ctx node c e r p, s.launchChoice core = some (ctx, node, p) → s.ctx? ctx = some c → c.nodes[node]? = some e → (c.bin node).head? = some r →
      (∀ entry taken at_ place, p = .launch entry taken at_ place → exec (.nodeLaunch core ctx node) s = .next ((State.launch (s.tagsRead c e (taken.filterMap (fun i => (c.bin node)[i]?))) c node e entry taken at_ place).retryPushes ctx))
      ∧ (∀ j, p = .drop j → exec (.nodeLaunch core ctx node) s = .next ((s.modCtx ctx (fun x => x.dropJob node j)).retryPushes ctx))
      ∧ (∀ cs, p = .convert cs → exec (.nodeLaunch core ctx node) s = .next (((s.tagsRead c e [r]).convert c node e r cs).retryPushes ctx))
      ∧ (p = .noMethod → exec (.nodeLaunch core ctx node) s = .next (((s.tagsRead c e [r]).noMethod c node e r).retryPushes ctx)))
    ∧ (∀ e key crew ctx k n part slot entry recs qgen x, x = launchTeam e key crew ctx k n part slot entry recs qgen →
      x.state = .ready ∧ x.pc = BitVec.ofNat 57 entry ∧ x.mask = Mask.ofFn (32 * e.strands) (fun l => decide (l < ((recs.drop (32 * e.strands * k)).take (32 * e.strands)).length))
        ∧ x.launchMask = x.mask ∧ x.scalars.get 0 = BitVec.ofNat 32 n ∧ x.flags = Flags.clear ∧ x.mstack = [] ∧ x.cstack = [] ∧ x.preds = [] ∧ x.trap.mode = false
        ∧ x.winBase = 0 ∧ x.nest = 0 ∧ x.qgen = BitVec.ofNat 32 qgen ∧ x.tpri = BitVec.ofNat 4 e.prio ∧ x.alloc = e.regs ∧ x.strands = e.strands
        ∧ (e.strands ≤ 32 → ∀ l r j, l < 32 * e.strands → (recs.drop (32 * e.strands * k))[l]? = some r → j < e.recWords →
            x.lanes.get (j * 1024 + l) = r.words.getD j 0))
    ∧ (∀ c n e entry taken at_ place recs, recs = taken.filterMap (fun i => (c.bin n)[i]?) → ∀ k b, place.bases[k]? = some b → ∃ slot,
      ({ launchTeam e (s.nextKey + 1 + k) s.nextKey c.key k recs.length b slot entry recs c.genClosed with floor := s.tick } : Team)
        ∈ (s.launch c n e entry taken at_ place).teams)
    ∧ (∀ crew w c, s.crew? crew = some w → s.ctx? w.ctx = some c → (c.state = .running ∨ c.state = .halted) → s.crewDone w = true →
      exec (.crewEnd crew) s = .next ((s.dropCrew crew).modCtx w.ctx (fun x => w.convs.foldl Context.converted x)))
    ∧ (∀ crew w x c body, s.crew? crew = some w → s.firstWaiting crew = some x → s.ctx? w.ctx = some c → c.state = .running → w.wdPeriod ≤ w.wdCount → body = s.capture w x false →
      exec (.barrierWatchdogExpiry crew) s = .next (s.terminate w.ctx 0x0C
        (recordHeader 0x0C 1 w.ctx body.length w.crewid.toNat x.pc.toNat s.dev.dtime 0 w.core x.teamid ++ body)))
    ∧ (∀ ctx, exec (.terminateOnRequest ctx) s = .next (s.terminate ctx 0x27 (recordHeader 0x27 1 ctx 0 0 0 s.dev.dtime 0 0 0)))
    ∧ (∀ ctx c r, s.ctx? ctx = some c → c.termRecord = some r → s.stillDraining ctx = false → (∀ j ∈ c.jobs, j.due = []) →
      (∀ j ∈ 0 :: c.termJobs, s.drainGone.firstBad c (c.qbase + 4 * j) 4 .write = none) →
      ∃ t, exec (.terminationRecord ctx) s = .next t ∧ t.dev.reports.service.getLast? = some r ∧ t.dev.reports.host = s.dev.reports.host ++ [r])
    ∧ (∀ period, s.ctx.state = .running → period = (s.team.wdogDue.map (fun x => x.1)).getD (s.ctx.regs.get 4).toNat →
      (s.team.wdogDue.isSome = true ∨ (s.ctx.wdogLimit ≠ 0 ∧ s.ctx.wdogLimit ≤ s.team.wdog)) →
      (∀ s1, (s.team.state = .running ∧ s1 = s) ∨ (s.team.state = .ready ∧ s1 = s.roomFor s.team) → exec (.teamWatchdogExpiry s.team.key) s =
        .next ((s1.withTeam { s.team with state := .running, park := .awake, wdogDue := none }).trapHere 0x13 (BitVec.ofNat 64 (period % 2 ^ 32))))
      ∧ (s.team.state = .parked → exec (.teamWatchdogExpiry s.team.key) s = .next ((((s.withdraw s.team).roomFor s.team).withTeam
          { s.team with state := .running, park := .awake, wdogDue := none }).trapHere 0x13 (BitVec.ofNat 64 (period % 2 ^ 32 + s.team.park.code * 2 ^ 32)))))
    ∧ (∀ n, s.team.park = .barrier n → s.crew.live = true → s.team.crew = s.crew.key →
      (s.withdraw s.team).crew = { s.crew with rounds := withdrawArrival n s.team.index s.crew.rounds }
        ∧ ∀ r ∈ withdrawArrival n s.team.index s.crew.rounds, r.n = n → s.team.index ∉ r.arrived ∧ r.arrived ≠ [])
    ∧ (∀ slot, (s.team.state = .ready ∨ s.team.state = .running) → 2048 ≤ s.team.waited slot → slot ∉ s.team.aged →
      exec (.issuePriorityAgeing s.team.key slot) s = .next (s.withTeam { s.team with aged := slot :: s.team.aged }))
    ∧ (s.dev.dtime < s.dev.lastTrim + 1000 → exec .trimGovernorTick s = .next s)
    ∧ (s.dev.lastTrim + 1000 ≤ s.dev.dtime → ∀ nodes s1, nodes = (s.allCtxs.filter (fun c => c.loaded && c.state != .none && c.state != .terminated)).flatMap (fun c =>
        (List.range c.nodes.length).map (fun n => (c.key, n))) → s1 = nodes.foldl (fun x y => x.trim y.1 y.2) s →
      exec .trimGovernorTick s = .next { s1 with dev := { s1.dev with lastTrim := s1.dev.lastTrim + 1000 } })

/-- In the run state a descriptor that meets R397 for a new CTXID makes the context it describes, its granted semaphores zero; any other
creation does nothing. An image and bases that meet R392 and R393 make a running context that has none loaded, with the image's nodes,
empty bins and RIGTAB, and no L1 keeps a sector. A weight-store write within the store is applied to both dies while no job of the context
is busy, and is refused and reported otherwise; a refresh slot changes nothing. A pre-emption request of a running context is accepted
once, its cores' clocks running, else refused and reported; the halt completes two canvas instructions, folds the matrix operations, stops
the sampler drops and halts the context. A settled halted one saves: empty copies end, buffers drain, .sc stores are performed, registers
are flushed, its save area is written in a form that no rule gives (log entry 40), and a network tile that has begun is to run again from
its inputs of issue; an unsettled one keeps the request. A saved one that fits runs again: the teams of the active sets enter them, the
MMAs that follow its copies issue, and the parked teams are examined; one that does not fit keeps the request (both, and that all its
crews are placed or none: log entry 87; the semaphores granted: log entry 52); a halted one resumes; a terminated one whose record is
delivered is destroyed, another is first ended with 0x27. (09_the_canvas.md: R145; 11_program_lane_networks.md: R176;
12_number_formats.md: R192; 13_matrix_array_and_tags.md: R210, R218; 20_tasks_and_scheduling.md: R313; 21_traps_and_preemption.md: R332,
R333, R335, R336; 26_assembler_reference.md: R392, R393; 27_bringup_and_management.md: R397.) -/
def Obligations.ContextsComeAndGo : Prop :=
  ∀ (s : State) (ctx : Nat),
    (∀ desc cregs cores, (s.dev.stage = 7 → s.ctx? ctx = none → s.descriptorOk ctx desc cregs cores = true → ∃ t, exec (.contextCreate ctx desc cregs cores) s = .next t
        ∧ t.ctxs = s.ctxs ++ [newContext ctx desc cregs cores [s.grant 0, s.grant 1]] ∧ t.mem = s.mem ∧ t.team = s.team
        ∧ (∀ k, (s.grant 0).1 ≤ k → k < (s.grant 0).1 + (s.grant 0).2 → t.semaphores.get k = 0)
        ∧ (∀ k, (s.grant 1).1 ≤ k → k < (s.grant 1).1 + (s.grant 1).2 → t.semaphores.get (4096 + k) = 0))
      ∧ (s.dev.stage ≠ 7 ∨ s.ctx? ctx ≠ none ∨ s.descriptorOk ctx desc cregs cores = false → exec (.contextCreate ctx desc cregs cores) s = .next s))
    ∧ (∀ image bases csets c nodes, s.ctx? ctx = some c → nodes = (List.range (fieldAt image 6 2)).map (imageNode image (bases.getD 0 0)) → c.loaded = false → c.state = .running →
      imageOk image = true → basesOk image bases = true → nodes.all Node.ok = true → (∀ n < nodes.length, nodeCores c csets n ≠ []) →
      ∃ t k, exec (.rigImageLoad ctx image bases csets) s = .next t ∧ t.ctx? ctx = some k ∧ k.loaded = true ∧ k.nodes = nodes ∧ k.bins = nodes.map (fun _ => [])
        ∧ k.regs = c.regs.set 7 (BitVec.ofNat 64 (bases.getD 3 0)) ∧ k.coreSets = (List.range nodes.length).map (nodeCores c csets) ∧ (∀ e ∈ t.cores, e.2.l1 = []))
    ∧ (∀ off bytes c, s.ctx? ctx = some c →
      (s.anyBusy c = false → off + bytes.length ≤ 2 ^ 29 → ∃ t, exec (.weightStoreWrite ctx off bytes) s = .next t ∧ t.mem = s.mem
        ∧ ∀ k v, bytes[k]? = some v → t.weights.get (off + k) = v ∧ t.weights.get (2 ^ 29 + (off + k)) = v)
      ∧ (s.anyBusy c = true → exec (.weightStoreWrite ctx off bytes) s = .next s.refuseWeights))
    ∧ exec .weightStoreRefreshSlot s = .next s
    ∧ (∀ c, s.ctx? ctx = some c →
      (c.state = .running → c.preemptAsked = false →
        exec (.preemptionRequest ctx) s = .next ((s.modCtx ctx (fun x => { x with preemptAsked := true, haltClock := s.dev.clock })).ungateCtx ctx))
      ∧ (c.state ≠ .running ∨ c.preemptAsked = true → ∃ t, exec (.preemptionRequest ctx) s = .next t ∧ t.ctx = s.ctx ∧ t.ctxs = s.ctxs ∧ t.team = s.team
        ∧ t.dev.reports.preemptRefused = s.dev.reports.preemptRefused + 1)
      ∧ (c.state = .running → c.preemptAsked = true → ∀ s1 s2 s3,
        s1 = ((s.allCrews.filter (fun w => w.ctx == ctx)).map (fun w => w.key)).foldl (fun x k => (x.canvasStep k).canvasStep k) s →
        s2 = (s1.ops.filter (fun o => o.ctx == ctx && !o.done)).foldl State.haltMma s1 →
        s3 = (s2.allTeams.filter (fun t => t.ctx == ctx)).foldl State.stopDrop s2 →
        exec (.preemptionHalt ctx) s = .next (s3.modCtx ctx (fun x => { x with state := .halted, preemptAsked := false })))
      ∧ (c.state = .halted → s.unsettled ctx = true → exec (.contextSave ctx) s = .next (s.modCtx ctx (fun x => { x with request := some .save })))
      ∧ (c.state = .halted → s.unsettled ctx = false → ∀ s1,
        s1 = ((((s.allCrews.filter (fun w => w.ctx == ctx)).flatMap Crew.cores).eraseDups).foldl State.drainAll (s.endEmptyCopies ctx)).performSc →
        ∀ s2 : State, s2 = (s1.mapTeams ctx (fun t => t.saved c.genClosed)).openRange c.saveArea (Config.freeId s.tick) →
        exec (.contextSave ctx) s = .next (({ s2 with ops := s2.ops.map (fun o => if o.ctx = ctx then o.restartTile else o) } : State).modCtx ctx
          (fun x => { x with state := .saved, request := none }))
        ∧ ∀ (o : AsyncOp) todo nets regs x, o.work = .net todo nets regs (some x) → o.restartTile.work = .net (x.start ++ todo) nets regs none)
      ∧ (c.state = .saved → ∀ s0 s1 s2, s0 = s.stash →
        s1 = { s0 with crews := s0.crews.filter (fun w => w.ctx != ctx), teams := s0.teams.filter (fun t => t.ctx != ctx) } →
        s2 = s1.modCtx ctx (fun x => { x.restoreReleases s.dev.dtime with state := .running, oldRegs := [], preemptAsked := false, request := none }) →
        (∀ s3, s2.placeCrews c (fun k => s0.teams.filter (fun t => t.crew == k)) (s0.crews.filter (fun w => w.ctx == ctx)) = some s3 →
          exec (.contextRestore ctx) s = .next ((((s0.teams.filter (fun t => t.ctx == ctx)).map (fun t => t.key)).foldl State.reexamine
            (((((s0.teams.filter (fun t => t.ctx == ctx)).filter (fun t => t.state == .running)).map (fun t => t.key)).foldl State.enterAgain s3).issueFollows ctx)).retryPushes ctx))
        ∧ (s2.placeCrews c (fun k => s0.teams.filter (fun t => t.crew == k)) (s0.crews.filter (fun w => w.ctx == ctx)) = none →
          exec (.contextRestore ctx) s = .next (s.modCtx ctx (fun x => { x with request := some .restore }))))
      ∧ (c.state = .terminated → c.termRecord = none → exec (.contextDestroy ctx) s = .next (s.removeCtx c))
      ∧ (c.state ≠ .terminated ∨ c.termRecord ≠ none → exec (.contextDestroy ctx) s = .next ((s.terminate ctx 0x27 (recordHeader 0x27 1 ctx 0 0 0 s.dev.dtime 0 0 0)).modCtx ctx
          (fun x => { x with request := some .destroy }))))
    ∧ exec (.contextResume ctx) s = .next (s.modCtx ctx (fun x => if x.state = .halted then { x with state := .running } else x))

/-- A window of R371's form is registered in place of one with its number, another is not; at a revocation what is in flight in the window
has failed and it is gone. The kernel's route to a device over a present link replaces the old one; at a port's failure the operations
with a device behind it have failed and it leaves the table; a retrain and a replay are recorded; a flit for another device goes out on
its port, one with no route nowhere. An injection is armed on a column of present memory while fewer than 16 are, else not; an attestation
of a 64-byte nonce holds it and the presence report (its digests, fuse revision and signature are free: log entry 80); a cap from 600 to
2,400 W is set, another is not; at its microsecond the arbiter withholds exactly while the forecast exceeds the cap; coolant loss sets 600
W. A package reset of which one source of the first stage and one of the kernel verify, and the training succeeds, gives stage 7 and code
0, the device number, the units that are present and the kernel's choices for time (log entry 39), with no context or team and empty
memory (log entry 46); one whose first stage, or then kernel, fails from both sources gives stage 15 and a verification code of one of
them, one whose training fails stage 15 and its code (the codes: log entry 5). That what breaks a limit here does nothing is the model's
choice (log entry 62). (25_beyond_the_package.md: R370, R371, R373; 27_bringup_and_management.md: R394, R395, R398, R399, R400, R401.) -/
def Obligations.LinksPowerAndBoot : Prop :=
  ∀ s : State,
    (∀ ctx win dev base size put get, (win < 64 → dev < 2 ^ 22 → size % 65536 = 0 → size ≤ 2 ^ 40 →
        exec (.windowRegister ctx win dev base size put get) s = .next (s.modCtx ctx (fun c =>
          { c with windows := ⟨win, dev, base, size, put, get⟩ :: c.windows.filter (fun w => w.id != win) })))
      ∧ (64 ≤ win ∨ 2 ^ 22 ≤ dev ∨ size % 65536 ≠ 0 ∨ 2 ^ 40 < size → exec (.windowRegister ctx win dev base size put get) s = .next s))
    ∧ (∀ ctx win, exec (.windowRevoke ctx win) s = .next ((s.failOps (fun o => o.ctx == ctx && (match o.work with
        | .remote _ a => a.win == win
        | .ring a _ _ _ => a.win == win
        | _ => false))).modCtx ctx (fun c => { c with windows := c.windows.filter (fun w => w.id != win) })))
    ∧ (∀ dev port direct, dev < 2 ^ 22 → port ∈ s.dev.linksPresent → exec (.routeTableWrite dev port direct) s =
      .next { s with dev := { s.dev with routes := (dev, port, direct) :: s.dev.routes.filter (fun r => r.1 != dev) } })
    ∧ (∀ port, (∃ t, exec (.linkFailure port) s = .next t ∧ (∀ r ∈ t.dev.routes, r.2.1 ≠ port)
        ∧ t.ops = (s.failOps (fun o => o.peers.any (fun d => d != s.dev.devid.toNat && s.dev.portTo d == some port))).ops)
      ∧ exec (.linkRetrain port) s = .next { s with dev := { s.dev with retrains := s.dev.retrains ++ [port] } }
      ∧ exec (.flitCrcFailure port) s = .next { s with dev := { s.dev with replays := s.dev.replays ++ [port] } })
    ∧ (∀ port dest flit, dest ≠ s.dev.devid.toNat → (∀ out, s.dev.portTo dest = some out → ∃ t, exec (.forwardedFlit port dest flit) s = .next t
        ∧ t.dev.reports.flits = s.dev.reports.flits ++ [(out, flit)] ∧ t.mem = s.mem ∧ t.team = s.team)
      ∧ (s.dev.portTo dest = none → exec (.forwardedFlit port dest flit) s = .next s))
    ∧ (∀ col, (s.dev.injections.length < 16 → col ∉ s.dev.injections → s.dev.inMemory (32 * col) = true →
        exec (.injectionArm col) s = .next { s with dev := { s.dev with injections := s.dev.injections ++ [col] } })
      ∧ (16 ≤ s.dev.injections.length ∨ col ∈ s.dev.injections ∨ s.dev.inMemory (32 * col) = false → exec (.injectionArm col) s = .next s))
    ∧ (∀ nonce, (nonce.length = 64 → ∃ t a, exec (.attestationReport nonce) s = .next t ∧ t.dev.reports.attestations = s.dev.reports.attestations ++ [a]
        ∧ a.nonce = nonce ∧ a.presence = s.dev.presence ∧ t.mem = s.mem ∧ t.team = s.team)
      ∧ (nonce.length ≠ 64 → exec (.attestationReport nonce) s = .next s))
    ∧ (∀ watts, (600 ≤ watts → watts ≤ 2400 → exec (.powerCapSet watts) s = .next { s with dev := { s.dev with cap := watts } })
      ∧ (watts < 600 ∨ 2400 < watts → exec (.powerCapSet watts) s = .next s))
    ∧ (∀ draw, (s.dev.lastPower + 1000 ≤ s.dev.dtime → exec (.powerArbiterTick draw) s =
        .next { s with dev := { s.dev with withheld := decide (s.dev.cap < draw), lastPower := s.dev.lastPower + 1000 } })
      ∧ (s.dev.dtime < s.dev.lastPower + 1000 → exec (.powerArbiterTick draw) s = .next s))
    ∧ exec .coolantLoss s = .next { s with dev := { s.dev with cap := 600 } }
    ∧ (∀ bootsel codes devid boot,
      ((codes.getD 0 0 = 0 ∨ codes.getD 1 0 = 0) → (codes.getD 2 0 = 0 ∨ codes.getD 3 0 = 0) → codes.getD 4 0 = 0 →
        ∃ t, exec (.packageReset bootsel codes devid boot) s = .next t ∧ t.dev.stage = 7 ∧ t.dev.code = 0
          ∧ t.dev.devid = BitVec.ofNat 22 devid ∧ t.dev.coresPresent = (List.range 256).filter (fun k => !boot.noCores.contains k)
          ∧ t.dev.channels = (List.range 256).filter (fun k => !boot.noChannels.contains k) ∧ t.dev.linksPresent = (List.range 24).filter (fun k => !boot.noLinks.contains k)
          ∧ t.dev.time.domain = boot.domain % 256 ∧ t.dev.time.boundary = boot.boundary ∧ t.dev.time.phasePps = boot.phasePps
          ∧ t.dev.time.port = boot.port
          ∧ t.allCtxs = [] ∧ t.allTeams = [] ∧ t.mem = [] ∧ t.dev.cap = 2400)
      ∧ (codes.getD 0 0 ≠ 0 → codes.getD 1 0 ≠ 0 → ∃ t, exec (.packageReset bootsel codes devid boot) s = .next t ∧ t.dev.stage = 15
        ∧ (t.dev.code = verifyCode (codes.getD 0 0) ∨ t.dev.code = verifyCode (codes.getD 1 0)))
      ∧ ((codes.getD 0 0 = 0 ∨ codes.getD 1 0 = 0) → codes.getD 2 0 ≠ 0 → codes.getD 3 0 ≠ 0 → ∃ t, exec (.packageReset bootsel codes devid boot) s = .next t
        ∧ t.dev.stage = 15 ∧ (t.dev.code = verifyCode (codes.getD 2 0) ∨ t.dev.code = verifyCode (codes.getD 3 0)))
      ∧ ((codes.getD 0 0 = 0 ∨ codes.getD 1 0 = 0) → (codes.getD 2 0 = 0 ∨ codes.getD 3 0 = 0) → codes.getD 4 0 ≠ 0 →
        ∃ t, exec (.packageReset bootsel codes devid boot) s = .next t ∧ t.dev.stage = 15 ∧ t.dev.code = trainCode (codes.getD 4 0)))

namespace Sys2Proof.Claims

/-- Instructions that store to no memory: those on lanes, predicates, scalars and special registers, transfers of control, divergence,
settings, the scratchpad's, the grace counters, and the traps. -/
def storesNothing : Instr → Bool
  | .add _ _ _ _ => true
  | .sub _ _ _ _ => true
  | .mul _ _ _ _ => true
  | .mulhi _ _ _ _ => true
  | .mulhu _ _ _ _ => true
  | .imad _ _ _ _ => true
  | .min _ _ _ _ => true
  | .max _ _ _ _ => true
  | .minu _ _ _ _ => true
  | .maxu _ _ _ _ => true
  | .and _ _ _ _ => true
  | .or _ _ _ _ => true
  | .xor _ _ _ _ => true
  | .andn _ _ _ _ => true
  | .shl _ _ _ _ => true
  | .shr _ _ _ _ => true
  | .sar _ _ _ _ => true
  | .bfx _ _ _ _ => true
  | .bfxs _ _ _ _ => true
  | .bfi _ _ _ _ => true
  | .popc _ _ _ => true
  | .clz _ _ _ => true
  | .add64 _ _ _ _ => true
  | .sub64 _ _ _ _ => true
  | .addi _ _ _ _ => true
  | .andi _ _ _ _ => true
  | .ori _ _ _ _ => true
  | .xori _ _ _ _ => true
  | .shli _ _ _ _ => true
  | .shri _ _ _ _ => true
  | .sari _ _ _ _ => true
  | .movi _ _ _ => true
  | .cmpi _ _ _ _ _ => true
  | .cmp _ _ _ _ _ => true
  | .fadd _ _ _ _ => true
  | .fsub _ _ _ _ => true
  | .fmul _ _ _ _ => true
  | .ffma _ _ _ _ => true
  | .fmin _ _ _ _ => true
  | .fmax _ _ _ _ => true
  | .fabs _ _ _ => true
  | .fneg _ _ _ => true
  | .padd _ _ _ _ _ => true
  | .psub _ _ _ _ _ => true
  | .pmul _ _ _ _ _ => true
  | .pfma _ _ _ _ _ => true
  | .pmin _ _ _ _ _ => true
  | .pmax _ _ _ _ _ => true
  | .fcmp _ _ _ _ _ => true
  | .rcp _ _ _ => true
  | .rsq _ _ _ => true
  | .sqrt _ _ _ => true
  | .ex2 _ _ _ => true
  | .lg2 _ _ _ => true
  | .sin _ _ _ => true
  | .cos _ _ _ => true
  | .fdiv _ _ _ _ => true
  | .cvt _ _ _ _ _ _ _ => true
  | .shfl _ _ _ _ => true
  | .shflup _ _ _ _ => true
  | .shfldn _ _ _ _ => true
  | .shflx _ _ _ _ => true
  | .bcast _ _ _ _ => true
  | .reda _ _ _ _ => true
  | .freda _ _ _ _ => true
  | .scana _ _ _ _ _ => true
  | .fscana _ _ _ _ _ => true
  | .vany _ _ _ => true
  | .vall _ _ _ => true
  | .ballot _ _ _ _ => true
  | .pand _ _ _ _ => true
  | .por _ _ _ _ => true
  | .pxor _ _ _ _ => true
  | .pnot _ _ _ => true
  | .pset _ _ _ => true
  | .sadd _ _ _ _ => true
  | .ssub _ _ _ _ => true
  | .smul _ _ _ _ => true
  | .sand _ _ _ _ => true
  | .sor _ _ _ _ => true
  | .sxor _ _ _ _ => true
  | .sshl _ _ _ _ => true
  | .sshr _ _ _ _ => true
  | .ssar _ _ _ _ => true
  | .scmp _ _ _ => true
  | .smov _ _ _ => true
  | .sadd64 _ _ _ _ => true
  | .saddi _ _ _ _ => true
  | .sandi _ _ _ _ => true
  | .sori _ _ _ _ => true
  | .sxori _ _ _ _ => true
  | .sshli _ _ _ _ => true
  | .sshri _ _ _ _ => true
  | .ssari _ _ _ _ => true
  | .smovi _ _ _ => true
  | .scmpi _ _ _ => true
  | .movxS _ _ _ => true
  | .movx _ _ _ => true
  | .sreadLane _ _ _ => true
  | .sreadScalar _ _ _ => true
  | .swriteLane _ _ _ => true
  | .swriteScalar _ _ _ => true
  | .wbase _ _ => true
  | .tpri _ _ => true
  | .bra _ _ _ => true
  | .call _ _ _ => true
  | .ret _ => true
  | .jmpi _ _ => true
  | .callx _ _ => true
  | .nop _ => true
  | .ifMask _ _ => true
  | .elseMask _ => true
  | .endIf _ => true
  | .loop _ => true
  | .breakMask _ _ => true
  | .contMask _ _ => true
  | .endLoop _ => true
  | .ldp _ _ _ _ _ _ => true
  | .ldpOffset _ _ _ _ _ _ _ => true
  | .stp _ _ _ _ _ _ => true
  | .stpOffset _ _ _ _ _ _ _ => true
  | .qpass _ => true
  | .rsecIn _ => true
  | .rsecOut _ => true
  | .trap _ _ _ => true
  | .rtt _ => true
  | .bkpt _ _ => true
  | .ctxrd _ _ _ => true
  | .wdog _ => true
  | .nodeDone _ _ => true
  | .illegalInstruction _ _ => true
  | _ => false

end Sys2Proof.Claims

/-- For each instruction on lane registers, predicates, scalars, special registers, flow of control, divergence, settings and
scratchpad, from every state and on every path, its traps among them: if it gives a next state, every byte of device memory
reads at its home slice as before, and so do the weight stores, the semaphores, the bank error registers, every core's buffers
and caches, the stores and atomics on their way, and the clocks. (04_teams_and_crews.md: R40, R53;
05_registers_and_unified_store.md: R56; 07_core_instructions.md: R95, R101, R109, R113, R115, R119; 17_memory_instructions.md:
R267; 21_traps_and_preemption.md: R325, R327.) -/
def Obligations.NonStoringKeepEveryByte : Prop :=
  ∀ (i : Instr) (s t : State), Claims.storesNothing i = true → exec i s = .next t → SameStores s t ∧ t.mem = s.mem ∧ t.dev = s.dev
end

