-- ==== Sys2Proof/Laws/FMap.lean ====
section
/-! SUPPORT. The laws of sparse maps: a read after a write, and that every operation keeps the canonical form. -/

namespace Sys2Proof.Machine

variable {w : Nat}

@[simp] theorem FMap.get_nil (k : Nat) : FMap.get ([] : FMap w) k = 0 := rfl

/-- Every key of a canonical map lies above the bound that it rises from. -/
theorem FMap.risingFrom_above {b : Nat} {m : FMap w} (h : m.risingFrom (some b) = true) : ∀ e ∈ m, b < e.1 := by
  induction m generalizing b with
  | nil => simp
  | cons a m ih =>
    obtain ⟨k, v⟩ := a
    simp only [FMap.risingFrom, Bool.and_eq_true, decide_eq_true_eq] at h
    intro e he
    rcases List.mem_cons.1 he with rfl | he
    · exact h.1.1
    · exact Nat.lt_trans h.1.1 (ih h.2 e he)

theorem FMap.risingFrom_weaken {b : Nat} {m : FMap w} (c : Option Nat) (hc : ∀ k, c = some k → k ≤ b) (h : m.risingFrom (some b) = true) :
    m.risingFrom c = true := by
  cases m with
  | nil => cases c <;> rfl
  | cons a m =>
    obtain ⟨k, v⟩ := a
    cases c with
    | none => simp_all [FMap.risingFrom]
    | some c =>
      have := hc c rfl
      simp only [FMap.risingFrom, Bool.and_eq_true, decide_eq_true_eq] at h ⊢
      exact ⟨⟨by omega, h.1.2⟩, h.2⟩

theorem FMap.risingFrom_put {c : Option Nat} {m : FMap w} {k : Nat} {v : BitVec w} (hc : ∀ b, c = some b → b < k) (hv : v ≠ 0)
    (h : m.risingFrom c = true) : (m.put k v).risingFrom c = true := by
  induction m generalizing c with
  | nil => cases c <;> simp_all [FMap.put, FMap.risingFrom]
  | cons a m ih =>
    obtain ⟨k', v'⟩ := a
    have hm : FMap.risingFrom (some k') m = true ∧ (v' != 0) = true ∧ (∀ b, c = some b → b < k') := by
      cases c <;> simp_all [FMap.risingFrom]
    simp only [FMap.put]
    split
    · cases c <;> simp_all [FMap.risingFrom]
    · split
      · subst k'; cases c <;> simp_all [FMap.risingFrom]
      · have hk : k' < k := by omega
        have := ih (c := some k') (by simp_all) hm.1
        cases c <;> simp_all [FMap.risingFrom]

theorem FMap.risingFrom_erase {c : Option Nat} {m : FMap w} (k : Nat) (h : m.risingFrom c = true) : (m.erase k).risingFrom c = true := by
  induction m generalizing c with
  | nil => cases c <;> rfl
  | cons a m ih =>
    obtain ⟨k', v'⟩ := a
    have hm : FMap.risingFrom (some k') m = true ∧ (v' != 0) = true ∧ (∀ b, c = some b → b < k') := by
      cases c <;> simp_all [FMap.risingFrom]
    simp only [FMap.erase, List.filter_cons]
    split
    · have := ih (c := some k') hm.1
      simp only [FMap.erase] at this
      cases c <;> simp_all [FMap.risingFrom]
    · exact ih (FMap.risingFrom_weaken c (fun b hb => Nat.le_of_lt (hm.2.2 b hb)) hm.1)

/-- A write keeps the canonical form. -/
theorem FMap.wf_set {m : FMap w} (k : Nat) (v : BitVec w) (h : m.wf = true) : (m.set k v).wf = true := by
  unfold FMap.set
  split
  · exact FMap.risingFrom_erase k h
  · next hv => exact FMap.risingFrom_put (c := none) (by simp) hv h

/-- A read of a key after it is listed. -/
theorem FMap.get_put (m : FMap w) (k j : Nat) (v : BitVec w) : (m.put k v).get j = if j = k then v else m.get j := by
  induction m with
  | nil => simp only [FMap.put, FMap.get, eq_comm (a := k)]
  | cons a m ih =>
    obtain ⟨k', v'⟩ := a
    simp only [FMap.put]
    split
    · simp only [FMap.get, eq_comm (a := k)]
    · split
      · subst k'
        by_cases hj : j = k
        · simp [FMap.get, hj]
        · simp [FMap.get, hj, Ne.symm hj]
      · next _ hk =>
        by_cases hj : k' = j
        · subst j; simp [FMap.get, Ne.symm hk]
        · simp [FMap.get, ih, hj]

theorem FMap.get_erase (m : FMap w) (k j : Nat) : (m.erase k).get j = if j = k then 0 else m.get j := by
  induction m with
  | nil => simp [FMap.erase]
  | cons a m ih =>
    obtain ⟨k', v'⟩ := a
    simp only [FMap.erase, List.filter_cons] at ih ⊢
    by_cases h : k' = k
    · subst k'
      by_cases hj : j = k
      · simp [hj] at ih ⊢; exact ih
      · simp [hj, Ne.symm hj, FMap.get] at ih ⊢; exact ih
    · by_cases hj : k' = j
      · subst j; simp [FMap.get, h]
      · simp [FMap.get, h, hj]; simpa using ih

/-- A read after a write: the value written at its key, and what was there at every other. -/
theorem FMap.get_set (m : FMap w) (k j : Nat) (v : BitVec w) : (m.set k v).get j = if j = k then v else m.get j := by
  unfold FMap.set
  split
  · next hv => rw [FMap.get_erase, hv]
  · exact FMap.get_put m k j v

@[simp] theorem FMap.get_set_self (m : FMap w) (k : Nat) (v : BitVec w) : (m.set k v).get k = v := by simp [FMap.get_set]

theorem FMap.get_set_ne (m : FMap w) {k j : Nat} (v : BitVec w) (h : j ≠ k) : (m.set k v).get j = m.get j := by simp [FMap.get_set, h]

/-- A read after the writes of `f` at the keys `g l` of a list, where distinct members give distinct keys. -/
theorem FMap.get_foldl_set (m : FMap w) (ls : List Nat) (g : Nat → Nat) (f : Nat → BitVec w) (hg : ∀ a b, g a = g b → a = b) (j : Nat) :
    (ls.foldl (fun m l => m.set (g l) (f l)) m).get j = if (∃ l ∈ ls, j = g l) then (f ((ls.find? (fun l => j == g l)).getD 0)) else m.get j := by
  induction ls generalizing m with
  | nil => simp
  | cons a ls ih =>
    rw [List.foldl_cons, ih, FMap.get_set]
    by_cases h : j = g a
    · subst h
      by_cases hm : ∃ l ∈ ls, g a = g l
      · obtain ⟨l, hl, e⟩ := hm
        have := hg _ _ e
        subst this
        have hf : ls.find? (fun l => g a == g l) = some a := by
          have : (fun l => g a == g l) = (fun l => a == l) := by
            funext l
            by_cases h : a = l
            · simp [h]
            · have : g a ≠ g l := fun e => h (hg _ _ e)
              simp [h, this]
          rw [this]
          have hs : (ls.find? (fun l => a == l)).isSome := by simp [List.find?_isSome]; exact hl
          obtain ⟨x, hx⟩ := Option.isSome_iff_exists.1 hs
          have := List.find?_some hx
          simp at this
          rw [hx, this]
        simp [hf]
      · have : ¬ ∃ l ∈ ls, g a = g l := hm
        simp [this]
    · by_cases hm : ∃ l ∈ ls, j = g l
      · simp [hm, h]
      · simp [hm, h]

end Sys2Proof.Machine
end

