-- ==== Sys2Proof/Laws/Launch.lean ====
section
/-! SUPPORT. Where the launch unit puts words in the spill area (R215): never on those of a record with no method. -/

namespace Sys2Proof.Machine

/-- Of more numbers than are used one is free. -/
theorem pickFree_isSome {start bound : Nat} {used : List Nat} (h : used.length < bound) : (pickFree start bound used).isSome = true := by
  have hn : Nat.min bound (used.length + 1) = used.length + 1 := Nat.min_eq_right h
  rw [pickFree, hn, List.find?_isSome]
  by_contra hall
  have sub : (List.range (used.length + 1)).map (fun i => (start + i) % bound) ⊆ used := by
    intro x hx
    by_contra hu
    exact hall ⟨x, hx, by simpa using hu⟩
  have nodup : ((List.range (used.length + 1)).map (fun i => (start + i) % bound)).Nodup := by
    refine List.Nodup.map_on ?_ List.nodup_range
    intro a ha b hb hab
    have ha' : a < bound := lt_of_lt_of_le (List.mem_range.1 ha) h
    have hb' : b < bound := lt_of_lt_of_le (List.mem_range.1 hb) h
    have hm : a ≡ b [MOD bound] := Nat.ModEq.add_left_cancel' start hab
    rwa [Nat.ModEq, Nat.mod_eq_of_lt ha', Nat.mod_eq_of_lt hb'] at hm
  have := (List.subperm_of_subset nodup sub).length_le
  simp at this

/-- The number that is found is not used. -/
theorem pickFree_not_mem {start bound k : Nat} {used : List Nat} (h : pickFree start bound used = some k) : k ∉ used := by
  simpa using List.find?_some h

/-- A place that the launch unit takes holds the words of no record with no method (R215). -/
theorem Context.spillPlace_not_mem (c : Context) (unit seed : Nat) : c.spillPlace unit seed ∉ c.deadSlots := by
  unfold Context.spillPlace
  dsimp only
  split
  · next h => simpa using List.find?_some h
  · next h =>
    obtain ⟨k, hk⟩ := Option.isSome_iff_exists.1
      (pickFree_isSome (start := Config.freeId seed) (bound := 4096 + c.dead.length) (used := c.deadSlots) (by simp [Context.deadSlots]))
    rw [hk]
    exact pickFree_not_mem hk

end Sys2Proof.Machine
end

