-- ==== Sys2Proof/Laws/State.lean ====
section
/-! SUPPORT. One lemma per field per update of a team and of the state: what an update sets and what it leaves. -/

namespace Sys2Proof.Machine

/-! ## A team put in the place of the issuing one -/

@[simp] theorem State.withTeam_crew (s : State) (t : Team) : (s.withTeam t).crew = s.crew := rfl
@[simp] theorem State.withTeam_ctx (s : State) (t : Team) : (s.withTeam t).ctx = s.ctx := rfl
@[simp] theorem State.withTeam_teams (s : State) (t : Team) : (s.withTeam t).teams = s.teams := rfl
@[simp] theorem State.withTeam_crews (s : State) (t : Team) : (s.withTeam t).crews = s.crews := rfl
@[simp] theorem State.withTeam_ctxs (s : State) (t : Team) : (s.withTeam t).ctxs = s.ctxs := rfl
@[simp] theorem State.withTeam_cores (s : State) (t : Team) : (s.withTeam t).cores = s.cores := rfl
@[simp] theorem State.withTeam_dev (s : State) (t : Team) : (s.withTeam t).dev = s.dev := rfl
@[simp] theorem State.withTeam_mem (s : State) (t : Team) : (s.withTeam t).mem = s.mem := rfl
@[simp] theorem State.withTeam_openMem (s : State) (t : Team) : (s.withTeam t).openMem = s.openMem := rfl
@[simp] theorem State.withTeam_bankOld (s : State) (t : Team) : (s.withTeam t).bankOld = s.bankOld := rfl
@[simp] theorem State.withTeam_weights (s : State) (t : Team) : (s.withTeam t).weights = s.weights := rfl
@[simp] theorem State.withTeam_semaphores (s : State) (t : Team) : (s.withTeam t).semaphores = s.semaphores := rfl
@[simp] theorem State.withTeam_bankErr (s : State) (t : Team) : (s.withTeam t).bankErr = s.bankErr := rfl
@[simp] theorem State.withTeam_rounds (s : State) (t : Team) : (s.withTeam t).rounds = s.rounds := rfl
@[simp] theorem State.withTeam_bankCmds (s : State) (t : Team) : (s.withTeam t).bankCmds = s.bankCmds := rfl
@[simp] theorem State.withTeam_ops (s : State) (t : Team) : (s.withTeam t).ops = s.ops := rfl
@[simp] theorem State.withTeam_scStores (s : State) (t : Team) : (s.withTeam t).scStores = s.scStores := rfl
@[simp] theorem State.withTeam_atomics (s : State) (t : Team) : (s.withTeam t).atomics = s.atomics := rfl
@[simp] theorem State.withTeam_dieTlbs (s : State) (t : Team) : (s.withTeam t).dieTlbs = s.dieTlbs := rfl
@[simp] theorem State.withTeam_shoots (s : State) (t : Team) : (s.withTeam t).shoots = s.shoots := rfl
@[simp] theorem State.withTeam_staging (s : State) (t : Team) : (s.withTeam t).staging = s.staging := rfl
@[simp] theorem State.withTeam_wrote (s : State) (t : Team) : (s.withTeam t).wrote = s.wrote := rfl
@[simp] theorem State.withTeam_past (s : State) (t : Team) : (s.withTeam t).past = s.past := rfl
@[simp] theorem State.withTeam_slotsBusy (s : State) (t : Team) : (s.withTeam t).slotsBusy = s.slotsBusy := rfl
@[simp] theorem State.withTeam_inbox (s : State) (t : Team) : (s.withTeam t).inbox = s.inbox := rfl
@[simp] theorem State.withTeam_nextKey (s : State) (t : Team) : (s.withTeam t).nextKey = s.nextKey := rfl
@[simp] theorem State.withTeam_tick (s : State) (t : Team) : (s.withTeam t).tick = s.tick := rfl
@[simp] theorem State.withTeam_team (s : State) (t : Team) : (s.withTeam t).team = t := rfl
@[simp] theorem State.withTeam_withTeam (s : State) (t u : Team) : (s.withTeam t).withTeam u = s.withTeam u := rfl
@[simp] theorem State.withTeam_self (s : State) : s.withTeam s.team = s := rfl

/-! ## A team that goes on, or jumps -/

@[simp] theorem Team.advance_key (t : Team) (n : Nat) : (t.advance n).key = t.key := rfl
@[simp] theorem Team.advance_state (t : Team) (n : Nat) : (t.advance n).state = t.state := rfl
@[simp] theorem Team.advance_halted (t : Team) (n : Nat) : (t.advance n).halted = t.halted := rfl
@[simp] theorem Team.advance_held (t : Team) (n : Nat) : (t.advance n).held = t.held := rfl
@[simp] theorem Team.advance_park (t : Team) (n : Nat) : (t.advance n).park = t.park := rfl
@[simp] theorem Team.advance_ctx (t : Team) (n : Nat) : (t.advance n).ctx = t.ctx := rfl
@[simp] theorem Team.advance_crew (t : Team) (n : Nat) : (t.advance n).crew = t.crew := rfl
@[simp] theorem Team.advance_index (t : Team) (n : Nat) : (t.advance n).index = t.index := rfl
@[simp] theorem Team.advance_slot (t : Team) (n : Nat) : (t.advance n).slot = t.slot := rfl
@[simp] theorem Team.advance_part (t : Team) (n : Nat) : (t.advance n).part = t.part := rfl
@[simp] theorem Team.advance_strands (t : Team) (n : Nat) : (t.advance n).strands = t.strands := rfl
@[simp] theorem Team.advance_alloc (t : Team) (n : Nat) : (t.advance n).alloc = t.alloc := rfl
@[simp] theorem Team.advance_mask (t : Team) (n : Nat) : (t.advance n).mask = t.mask := rfl
@[simp] theorem Team.advance_launchMask (t : Team) (n : Nat) : (t.advance n).launchMask = t.launchMask := rfl
@[simp] theorem Team.advance_mstack (t : Team) (n : Nat) : (t.advance n).mstack = t.mstack := rfl
@[simp] theorem Team.advance_cstack (t : Team) (n : Nat) : (t.advance n).cstack = t.cstack := rfl
@[simp] theorem Team.advance_winBase (t : Team) (n : Nat) : (t.advance n).winBase = t.winBase := rfl
@[simp] theorem Team.advance_tpri (t : Team) (n : Nat) : (t.advance n).tpri = t.tpri := rfl
@[simp] theorem Team.advance_lanes (t : Team) (n : Nat) : (t.advance n).lanes = t.lanes := rfl
@[simp] theorem Team.advance_scalars (t : Team) (n : Nat) : (t.advance n).scalars = t.scalars := rfl
@[simp] theorem Team.advance_preds (t : Team) (n : Nat) : (t.advance n).preds = t.preds := rfl
@[simp] theorem Team.advance_flags (t : Team) (n : Nat) : (t.advance n).flags = t.flags := rfl
@[simp] theorem Team.advance_netstat (t : Team) (n : Nat) : (t.advance n).netstat = t.netstat := rfl
@[simp] theorem Team.advance_trap (t : Team) (n : Nat) : (t.advance n).trap = t.trap := rfl
@[simp] theorem Team.advance_wdog (t : Team) (n : Nat) : (t.advance n).wdog = t.wdog := rfl
@[simp] theorem Team.advance_wdogDue (t : Team) (n : Nat) : (t.advance n).wdogDue = t.wdogDue := rfl
@[simp] theorem Team.advance_unchecked (t : Team) (n : Nat) : (t.advance n).unchecked = t.unchecked := rfl
@[simp] theorem Team.advance_nest (t : Team) (n : Nat) : (t.advance n).nest = t.nest := rfl
@[simp] theorem Team.advance_qgen (t : Team) (n : Nat) : (t.advance n).qgen = t.qgen := rfl
@[simp] theorem Team.advance_qpend (t : Team) (n : Nat) : (t.advance n).qpend = t.qpend := rfl
@[simp] theorem Team.advance_openBatch (t : Team) (n : Nat) : (t.advance n).openBatch = t.openBatch := rfl
@[simp] theorem Team.advance_closedAny (t : Team) (n : Nat) : (t.advance n).closedAny = t.closedAny := rfl
@[simp] theorem Team.advance_committed (t : Team) (n : Nat) : (t.advance n).committed = t.committed := rfl
@[simp] theorem Team.advance_landQuota (t : Team) (n : Nat) : (t.advance n).landQuota = t.landQuota := rfl
@[simp] theorem Team.advance_slotWait (t : Team) (n : Nat) : (t.advance n).slotWait = t.slotWait := rfl
@[simp] theorem Team.advance_aged (t : Team) (n : Nat) : (t.advance n).aged = t.aged := rfl
@[simp] theorem Team.advance_issued (t : Team) (n : Nat) : (t.advance n).issued = t.issued := rfl
@[simp] theorem Team.advance_issuedNow (t : Team) (n : Nat) : (t.advance n).issuedNow = t.issuedNow := rfl
@[simp] theorem Team.advance_floor (t : Team) (n : Nat) : (t.advance n).floor = t.floor := rfl
@[simp] theorem Team.advance_seen (t : Team) (n : Nat) : (t.advance n).seen = t.seen := rfl
@[simp] theorem Team.advance_acqBatches (t : Team) (n : Nat) : (t.advance n).acqBatches = t.acqBatches := rfl
@[simp] theorem Team.advance_dropping (t : Team) (n : Nat) : (t.advance n).dropping = t.dropping := rfl
@[simp] theorem Team.advance_gathered (t : Team) (n : Nat) : (t.advance n).gathered = t.gathered := rfl
@[simp] theorem Team.jump_key (t : Team) (a : Nat) : (t.jump a).key = t.key := rfl
@[simp] theorem Team.jump_state (t : Team) (a : Nat) : (t.jump a).state = t.state := rfl
@[simp] theorem Team.jump_halted (t : Team) (a : Nat) : (t.jump a).halted = t.halted := rfl
@[simp] theorem Team.jump_held (t : Team) (a : Nat) : (t.jump a).held = t.held := rfl
@[simp] theorem Team.jump_park (t : Team) (a : Nat) : (t.jump a).park = t.park := rfl
@[simp] theorem Team.jump_ctx (t : Team) (a : Nat) : (t.jump a).ctx = t.ctx := rfl
@[simp] theorem Team.jump_crew (t : Team) (a : Nat) : (t.jump a).crew = t.crew := rfl
@[simp] theorem Team.jump_index (t : Team) (a : Nat) : (t.jump a).index = t.index := rfl
@[simp] theorem Team.jump_slot (t : Team) (a : Nat) : (t.jump a).slot = t.slot := rfl
@[simp] theorem Team.jump_part (t : Team) (a : Nat) : (t.jump a).part = t.part := rfl
@[simp] theorem Team.jump_strands (t : Team) (a : Nat) : (t.jump a).strands = t.strands := rfl
@[simp] theorem Team.jump_alloc (t : Team) (a : Nat) : (t.jump a).alloc = t.alloc := rfl
@[simp] theorem Team.jump_mask (t : Team) (a : Nat) : (t.jump a).mask = t.mask := rfl
@[simp] theorem Team.jump_launchMask (t : Team) (a : Nat) : (t.jump a).launchMask = t.launchMask := rfl
@[simp] theorem Team.jump_mstack (t : Team) (a : Nat) : (t.jump a).mstack = t.mstack := rfl
@[simp] theorem Team.jump_cstack (t : Team) (a : Nat) : (t.jump a).cstack = t.cstack := rfl
@[simp] theorem Team.jump_winBase (t : Team) (a : Nat) : (t.jump a).winBase = t.winBase := rfl
@[simp] theorem Team.jump_tpri (t : Team) (a : Nat) : (t.jump a).tpri = t.tpri := rfl
@[simp] theorem Team.jump_lanes (t : Team) (a : Nat) : (t.jump a).lanes = t.lanes := rfl
@[simp] theorem Team.jump_scalars (t : Team) (a : Nat) : (t.jump a).scalars = t.scalars := rfl
@[simp] theorem Team.jump_preds (t : Team) (a : Nat) : (t.jump a).preds = t.preds := rfl
@[simp] theorem Team.jump_flags (t : Team) (a : Nat) : (t.jump a).flags = t.flags := rfl
@[simp] theorem Team.jump_netstat (t : Team) (a : Nat) : (t.jump a).netstat = t.netstat := rfl
@[simp] theorem Team.jump_trap (t : Team) (a : Nat) : (t.jump a).trap = t.trap := rfl
@[simp] theorem Team.jump_wdog (t : Team) (a : Nat) : (t.jump a).wdog = t.wdog := rfl
@[simp] theorem Team.jump_wdogDue (t : Team) (a : Nat) : (t.jump a).wdogDue = t.wdogDue := rfl
@[simp] theorem Team.jump_unchecked (t : Team) (a : Nat) : (t.jump a).unchecked = t.unchecked := rfl
@[simp] theorem Team.jump_nest (t : Team) (a : Nat) : (t.jump a).nest = t.nest := rfl
@[simp] theorem Team.jump_qgen (t : Team) (a : Nat) : (t.jump a).qgen = t.qgen := rfl
@[simp] theorem Team.jump_qpend (t : Team) (a : Nat) : (t.jump a).qpend = t.qpend := rfl
@[simp] theorem Team.jump_openBatch (t : Team) (a : Nat) : (t.jump a).openBatch = t.openBatch := rfl
@[simp] theorem Team.jump_closedAny (t : Team) (a : Nat) : (t.jump a).closedAny = t.closedAny := rfl
@[simp] theorem Team.jump_committed (t : Team) (a : Nat) : (t.jump a).committed = t.committed := rfl
@[simp] theorem Team.jump_landQuota (t : Team) (a : Nat) : (t.jump a).landQuota = t.landQuota := rfl
@[simp] theorem Team.jump_slotWait (t : Team) (a : Nat) : (t.jump a).slotWait = t.slotWait := rfl
@[simp] theorem Team.jump_aged (t : Team) (a : Nat) : (t.jump a).aged = t.aged := rfl
@[simp] theorem Team.jump_issued (t : Team) (a : Nat) : (t.jump a).issued = t.issued := rfl
@[simp] theorem Team.jump_issuedNow (t : Team) (a : Nat) : (t.jump a).issuedNow = t.issuedNow := rfl
@[simp] theorem Team.jump_floor (t : Team) (a : Nat) : (t.jump a).floor = t.floor := rfl
@[simp] theorem Team.jump_seen (t : Team) (a : Nat) : (t.jump a).seen = t.seen := rfl
@[simp] theorem Team.jump_acqBatches (t : Team) (a : Nat) : (t.jump a).acqBatches = t.acqBatches := rfl
@[simp] theorem Team.jump_dropping (t : Team) (a : Nat) : (t.jump a).dropping = t.dropping := rfl
@[simp] theorem Team.jump_gathered (t : Team) (a : Nat) : (t.jump a).gathered = t.gathered := rfl
@[simp] theorem Team.advance_pc (t : Team) (n : Nat) : (t.advance n).pc = BitVec.ofNat 57 (t.pc.toNat + 4 * n) := rfl
@[simp] theorem Team.jump_pc (t : Team) (a : Nat) : (t.jump a).pc = BitVec.ofNat 57 a := rfl

/-! ## Later accesses are performed later (R241) -/

@[simp] theorem Team.raiseFloor_key (t : Team) (k : Nat) : (t.raiseFloor k).key = t.key := rfl
@[simp] theorem Team.raiseFloor_state (t : Team) (k : Nat) : (t.raiseFloor k).state = t.state := rfl
@[simp] theorem Team.raiseFloor_halted (t : Team) (k : Nat) : (t.raiseFloor k).halted = t.halted := rfl
@[simp] theorem Team.raiseFloor_held (t : Team) (k : Nat) : (t.raiseFloor k).held = t.held := rfl
@[simp] theorem Team.raiseFloor_park (t : Team) (k : Nat) : (t.raiseFloor k).park = t.park := rfl
@[simp] theorem Team.raiseFloor_ctx (t : Team) (k : Nat) : (t.raiseFloor k).ctx = t.ctx := rfl
@[simp] theorem Team.raiseFloor_crew (t : Team) (k : Nat) : (t.raiseFloor k).crew = t.crew := rfl
@[simp] theorem Team.raiseFloor_index (t : Team) (k : Nat) : (t.raiseFloor k).index = t.index := rfl
@[simp] theorem Team.raiseFloor_slot (t : Team) (k : Nat) : (t.raiseFloor k).slot = t.slot := rfl
@[simp] theorem Team.raiseFloor_part (t : Team) (k : Nat) : (t.raiseFloor k).part = t.part := rfl
@[simp] theorem Team.raiseFloor_strands (t : Team) (k : Nat) : (t.raiseFloor k).strands = t.strands := rfl
@[simp] theorem Team.raiseFloor_alloc (t : Team) (k : Nat) : (t.raiseFloor k).alloc = t.alloc := rfl
@[simp] theorem Team.raiseFloor_pc (t : Team) (k : Nat) : (t.raiseFloor k).pc = t.pc := rfl
@[simp] theorem Team.raiseFloor_mask (t : Team) (k : Nat) : (t.raiseFloor k).mask = t.mask := rfl
@[simp] theorem Team.raiseFloor_launchMask (t : Team) (k : Nat) : (t.raiseFloor k).launchMask = t.launchMask := rfl
@[simp] theorem Team.raiseFloor_mstack (t : Team) (k : Nat) : (t.raiseFloor k).mstack = t.mstack := rfl
@[simp] theorem Team.raiseFloor_cstack (t : Team) (k : Nat) : (t.raiseFloor k).cstack = t.cstack := rfl
@[simp] theorem Team.raiseFloor_winBase (t : Team) (k : Nat) : (t.raiseFloor k).winBase = t.winBase := rfl
@[simp] theorem Team.raiseFloor_tpri (t : Team) (k : Nat) : (t.raiseFloor k).tpri = t.tpri := rfl
@[simp] theorem Team.raiseFloor_lanes (t : Team) (k : Nat) : (t.raiseFloor k).lanes = t.lanes := rfl
@[simp] theorem Team.raiseFloor_scalars (t : Team) (k : Nat) : (t.raiseFloor k).scalars = t.scalars := rfl
@[simp] theorem Team.raiseFloor_preds (t : Team) (k : Nat) : (t.raiseFloor k).preds = t.preds := rfl
@[simp] theorem Team.raiseFloor_flags (t : Team) (k : Nat) : (t.raiseFloor k).flags = t.flags := rfl
@[simp] theorem Team.raiseFloor_netstat (t : Team) (k : Nat) : (t.raiseFloor k).netstat = t.netstat := rfl
@[simp] theorem Team.raiseFloor_trap (t : Team) (k : Nat) : (t.raiseFloor k).trap = t.trap := rfl
@[simp] theorem Team.raiseFloor_replay (t : Team) (k : Nat) : (t.raiseFloor k).replay = t.replay := rfl
@[simp] theorem Team.raiseFloor_closing (t : Team) (k : Nat) : (t.raiseFloor k).closing = t.closing := rfl
@[simp] theorem Team.raiseFloor_wdog (t : Team) (k : Nat) : (t.raiseFloor k).wdog = t.wdog := rfl
@[simp] theorem Team.raiseFloor_wdogDue (t : Team) (k : Nat) : (t.raiseFloor k).wdogDue = t.wdogDue := rfl
@[simp] theorem Team.raiseFloor_unchecked (t : Team) (k : Nat) : (t.raiseFloor k).unchecked = t.unchecked := rfl
@[simp] theorem Team.raiseFloor_nest (t : Team) (k : Nat) : (t.raiseFloor k).nest = t.nest := rfl
@[simp] theorem Team.raiseFloor_qgen (t : Team) (k : Nat) : (t.raiseFloor k).qgen = t.qgen := rfl
@[simp] theorem Team.raiseFloor_qpend (t : Team) (k : Nat) : (t.raiseFloor k).qpend = t.qpend := rfl
@[simp] theorem Team.raiseFloor_openBatch (t : Team) (k : Nat) : (t.raiseFloor k).openBatch = t.openBatch := rfl
@[simp] theorem Team.raiseFloor_closedAny (t : Team) (k : Nat) : (t.raiseFloor k).closedAny = t.closedAny := rfl
@[simp] theorem Team.raiseFloor_committed (t : Team) (k : Nat) : (t.raiseFloor k).committed = t.committed := rfl
@[simp] theorem Team.raiseFloor_landQuota (t : Team) (k : Nat) : (t.raiseFloor k).landQuota = t.landQuota := rfl
@[simp] theorem Team.raiseFloor_slotWait (t : Team) (k : Nat) : (t.raiseFloor k).slotWait = t.slotWait := rfl
@[simp] theorem Team.raiseFloor_aged (t : Team) (k : Nat) : (t.raiseFloor k).aged = t.aged := rfl
@[simp] theorem Team.raiseFloor_issued (t : Team) (k : Nat) : (t.raiseFloor k).issued = t.issued := rfl
@[simp] theorem Team.raiseFloor_issuedNow (t : Team) (k : Nat) : (t.raiseFloor k).issuedNow = t.issuedNow := rfl
@[simp] theorem Team.raiseFloor_seen (t : Team) (k : Nat) : (t.raiseFloor k).seen = t.seen := rfl
@[simp] theorem Team.raiseFloor_acqBatches (t : Team) (k : Nat) : (t.raiseFloor k).acqBatches = t.acqBatches := rfl
@[simp] theorem Team.raiseFloor_skipBreak (t : Team) (k : Nat) : (t.raiseFloor k).skipBreak = t.skipBreak := rfl
@[simp] theorem Team.raiseFloor_declined (t : Team) (k : Nat) : (t.raiseFloor k).declined = t.declined := rfl
@[simp] theorem Team.raiseFloor_dropping (t : Team) (k : Nat) : (t.raiseFloor k).dropping = t.dropping := rfl
@[simp] theorem Team.raiseFloor_gathered (t : Team) (k : Nat) : (t.raiseFloor k).gathered = t.gathered := rfl
@[simp] theorem Team.raiseFloor_floor (t : Team) (k : Nat) : (t.raiseFloor k).floor = Nat.max t.floor k := rfl
@[simp] theorem State.orderAfter_crew (s : State) : s.orderAfter.crew = s.crew := rfl
@[simp] theorem State.orderAfter_ctx (s : State) : s.orderAfter.ctx = s.ctx := rfl
@[simp] theorem State.orderAfter_teams (s : State) : s.orderAfter.teams = s.teams := rfl
@[simp] theorem State.orderAfter_crews (s : State) : s.orderAfter.crews = s.crews := rfl
@[simp] theorem State.orderAfter_ctxs (s : State) : s.orderAfter.ctxs = s.ctxs := rfl
@[simp] theorem State.orderAfter_cores (s : State) : s.orderAfter.cores = s.cores := rfl
@[simp] theorem State.orderAfter_dev (s : State) : s.orderAfter.dev = s.dev := rfl
@[simp] theorem State.orderAfter_mem (s : State) : s.orderAfter.mem = s.mem := rfl
@[simp] theorem State.orderAfter_openMem (s : State) : s.orderAfter.openMem = s.openMem := rfl
@[simp] theorem State.orderAfter_bankOld (s : State) : s.orderAfter.bankOld = s.bankOld := rfl
@[simp] theorem State.orderAfter_weights (s : State) : s.orderAfter.weights = s.weights := rfl
@[simp] theorem State.orderAfter_semaphores (s : State) : s.orderAfter.semaphores = s.semaphores := rfl
@[simp] theorem State.orderAfter_bankErr (s : State) : s.orderAfter.bankErr = s.bankErr := rfl
@[simp] theorem State.orderAfter_rounds (s : State) : s.orderAfter.rounds = s.rounds := rfl
@[simp] theorem State.orderAfter_bankCmds (s : State) : s.orderAfter.bankCmds = s.bankCmds := rfl
@[simp] theorem State.orderAfter_ops (s : State) : s.orderAfter.ops = s.ops := rfl
@[simp] theorem State.orderAfter_scStores (s : State) : s.orderAfter.scStores = s.scStores := rfl
@[simp] theorem State.orderAfter_atomics (s : State) : s.orderAfter.atomics = s.atomics := rfl
@[simp] theorem State.orderAfter_dieTlbs (s : State) : s.orderAfter.dieTlbs = s.dieTlbs := rfl
@[simp] theorem State.orderAfter_shoots (s : State) : s.orderAfter.shoots = s.shoots := rfl
@[simp] theorem State.orderAfter_staging (s : State) : s.orderAfter.staging = s.staging := rfl
@[simp] theorem State.orderAfter_wrote (s : State) : s.orderAfter.wrote = s.wrote := rfl
@[simp] theorem State.orderAfter_past (s : State) : s.orderAfter.past = s.past := rfl
@[simp] theorem State.orderAfter_slotsBusy (s : State) : s.orderAfter.slotsBusy = s.slotsBusy := rfl
@[simp] theorem State.orderAfter_inbox (s : State) : s.orderAfter.inbox = s.inbox := rfl
@[simp] theorem State.orderAfter_nextKey (s : State) : s.orderAfter.nextKey = s.nextKey := rfl
@[simp] theorem State.orderAfter_tick (s : State) : s.orderAfter.tick = s.tick := rfl
@[simp] theorem State.orderAfter_team (s : State) : s.orderAfter.team = s.team.raiseFloor s.tick := rfl

/-! ## A team whose instruction waits at issue -/

@[simp] theorem State.waits_crew (s : State) : s.waits.crew = s.crew := rfl
@[simp] theorem State.waits_ctx (s : State) : s.waits.ctx = s.ctx := rfl
@[simp] theorem State.waits_teams (s : State) : s.waits.teams = s.teams := rfl
@[simp] theorem State.waits_crews (s : State) : s.waits.crews = s.crews := rfl
@[simp] theorem State.waits_ctxs (s : State) : s.waits.ctxs = s.ctxs := rfl
@[simp] theorem State.waits_cores (s : State) : s.waits.cores = s.cores := rfl
@[simp] theorem State.waits_dev (s : State) : s.waits.dev = s.dev := rfl
@[simp] theorem State.waits_mem (s : State) : s.waits.mem = s.mem := rfl
@[simp] theorem State.waits_openMem (s : State) : s.waits.openMem = s.openMem := rfl
@[simp] theorem State.waits_bankOld (s : State) : s.waits.bankOld = s.bankOld := rfl
@[simp] theorem State.waits_weights (s : State) : s.waits.weights = s.weights := rfl
@[simp] theorem State.waits_semaphores (s : State) : s.waits.semaphores = s.semaphores := rfl
@[simp] theorem State.waits_bankErr (s : State) : s.waits.bankErr = s.bankErr := rfl
@[simp] theorem State.waits_rounds (s : State) : s.waits.rounds = s.rounds := rfl
@[simp] theorem State.waits_bankCmds (s : State) : s.waits.bankCmds = s.bankCmds := rfl
@[simp] theorem State.waits_ops (s : State) : s.waits.ops = s.ops := rfl
@[simp] theorem State.waits_scStores (s : State) : s.waits.scStores = s.scStores := rfl
@[simp] theorem State.waits_atomics (s : State) : s.waits.atomics = s.atomics := rfl
@[simp] theorem State.waits_dieTlbs (s : State) : s.waits.dieTlbs = s.dieTlbs := rfl
@[simp] theorem State.waits_shoots (s : State) : s.waits.shoots = s.shoots := rfl
@[simp] theorem State.waits_staging (s : State) : s.waits.staging = s.staging := rfl
@[simp] theorem State.waits_wrote (s : State) : s.waits.wrote = s.wrote := rfl
@[simp] theorem State.waits_past (s : State) : s.waits.past = s.past := rfl
@[simp] theorem State.waits_slotsBusy (s : State) : s.waits.slotsBusy = s.slotsBusy := rfl
@[simp] theorem State.waits_inbox (s : State) : s.waits.inbox = s.inbox := rfl
@[simp] theorem State.waits_nextKey (s : State) : s.waits.nextKey = s.nextKey := rfl
@[simp] theorem State.waits_tick (s : State) : s.waits.tick = s.tick := rfl
@[simp] theorem State.waits_team (s : State) : s.waits.team = { s.team with issuedNow := false } := rfl
@[simp] theorem State.waits_waits (s : State) : s.waits.waits = s.waits := rfl
@[simp] theorem State.waits_team_pc (s : State) : s.waits.team.pc = s.team.pc := rfl

/-! ## Register writes -/

@[simp] theorem Team.wr_key (t : Team) (n : Nat) (ls : List Nat) (f : Nat → Word) : (t.wr n ls f).key = t.key := rfl
@[simp] theorem Team.wr_state (t : Team) (n : Nat) (ls : List Nat) (f : Nat → Word) : (t.wr n ls f).state = t.state := rfl
@[simp] theorem Team.wr_halted (t : Team) (n : Nat) (ls : List Nat) (f : Nat → Word) : (t.wr n ls f).halted = t.halted := rfl
@[simp] theorem Team.wr_held (t : Team) (n : Nat) (ls : List Nat) (f : Nat → Word) : (t.wr n ls f).held = t.held := rfl
@[simp] theorem Team.wr_park (t : Team) (n : Nat) (ls : List Nat) (f : Nat → Word) : (t.wr n ls f).park = t.park := rfl
@[simp] theorem Team.wr_ctx (t : Team) (n : Nat) (ls : List Nat) (f : Nat → Word) : (t.wr n ls f).ctx = t.ctx := rfl
@[simp] theorem Team.wr_crew (t : Team) (n : Nat) (ls : List Nat) (f : Nat → Word) : (t.wr n ls f).crew = t.crew := rfl
@[simp] theorem Team.wr_index (t : Team) (n : Nat) (ls : List Nat) (f : Nat → Word) : (t.wr n ls f).index = t.index := rfl
@[simp] theorem Team.wr_slot (t : Team) (n : Nat) (ls : List Nat) (f : Nat → Word) : (t.wr n ls f).slot = t.slot := rfl
@[simp] theorem Team.wr_part (t : Team) (n : Nat) (ls : List Nat) (f : Nat → Word) : (t.wr n ls f).part = t.part := rfl
@[simp] theorem Team.wr_strands (t : Team) (n : Nat) (ls : List Nat) (f : Nat → Word) : (t.wr n ls f).strands = t.strands := rfl
@[simp] theorem Team.wr_alloc (t : Team) (n : Nat) (ls : List Nat) (f : Nat → Word) : (t.wr n ls f).alloc = t.alloc := rfl
@[simp] theorem Team.wr_pc (t : Team) (n : Nat) (ls : List Nat) (f : Nat → Word) : (t.wr n ls f).pc = t.pc := rfl
@[simp] theorem Team.wr_mask (t : Team) (n : Nat) (ls : List Nat) (f : Nat → Word) : (t.wr n ls f).mask = t.mask := rfl
@[simp] theorem Team.wr_launchMask (t : Team) (n : Nat) (ls : List Nat) (f : Nat → Word) : (t.wr n ls f).launchMask = t.launchMask := rfl
@[simp] theorem Team.wr_mstack (t : Team) (n : Nat) (ls : List Nat) (f : Nat → Word) : (t.wr n ls f).mstack = t.mstack := rfl
@[simp] theorem Team.wr_cstack (t : Team) (n : Nat) (ls : List Nat) (f : Nat → Word) : (t.wr n ls f).cstack = t.cstack := rfl
@[simp] theorem Team.wr_winBase (t : Team) (n : Nat) (ls : List Nat) (f : Nat → Word) : (t.wr n ls f).winBase = t.winBase := rfl
@[simp] theorem Team.wr_tpri (t : Team) (n : Nat) (ls : List Nat) (f : Nat → Word) : (t.wr n ls f).tpri = t.tpri := rfl
@[simp] theorem Team.wr_scalars (t : Team) (n : Nat) (ls : List Nat) (f : Nat → Word) : (t.wr n ls f).scalars = t.scalars := rfl
@[simp] theorem Team.wr_preds (t : Team) (n : Nat) (ls : List Nat) (f : Nat → Word) : (t.wr n ls f).preds = t.preds := rfl
@[simp] theorem Team.wr_flags (t : Team) (n : Nat) (ls : List Nat) (f : Nat → Word) : (t.wr n ls f).flags = t.flags := rfl
@[simp] theorem Team.wr_netstat (t : Team) (n : Nat) (ls : List Nat) (f : Nat → Word) : (t.wr n ls f).netstat = t.netstat := rfl
@[simp] theorem Team.wr_trap (t : Team) (n : Nat) (ls : List Nat) (f : Nat → Word) : (t.wr n ls f).trap = t.trap := rfl
@[simp] theorem Team.wr_replay (t : Team) (n : Nat) (ls : List Nat) (f : Nat → Word) : (t.wr n ls f).replay = t.replay := rfl
@[simp] theorem Team.wr_closing (t : Team) (n : Nat) (ls : List Nat) (f : Nat → Word) : (t.wr n ls f).closing = t.closing := rfl
@[simp] theorem Team.wr_wdog (t : Team) (n : Nat) (ls : List Nat) (f : Nat → Word) : (t.wr n ls f).wdog = t.wdog := rfl
@[simp] theorem Team.wr_wdogDue (t : Team) (n : Nat) (ls : List Nat) (f : Nat → Word) : (t.wr n ls f).wdogDue = t.wdogDue := rfl
@[simp] theorem Team.wr_unchecked (t : Team) (n : Nat) (ls : List Nat) (f : Nat → Word) : (t.wr n ls f).unchecked = t.unchecked := rfl
@[simp] theorem Team.wr_nest (t : Team) (n : Nat) (ls : List Nat) (f : Nat → Word) : (t.wr n ls f).nest = t.nest := rfl
@[simp] theorem Team.wr_qgen (t : Team) (n : Nat) (ls : List Nat) (f : Nat → Word) : (t.wr n ls f).qgen = t.qgen := rfl
@[simp] theorem Team.wr_qpend (t : Team) (n : Nat) (ls : List Nat) (f : Nat → Word) : (t.wr n ls f).qpend = t.qpend := rfl
@[simp] theorem Team.wr_openBatch (t : Team) (n : Nat) (ls : List Nat) (f : Nat → Word) : (t.wr n ls f).openBatch = t.openBatch := rfl
@[simp] theorem Team.wr_closedAny (t : Team) (n : Nat) (ls : List Nat) (f : Nat → Word) : (t.wr n ls f).closedAny = t.closedAny := rfl
@[simp] theorem Team.wr_committed (t : Team) (n : Nat) (ls : List Nat) (f : Nat → Word) : (t.wr n ls f).committed = t.committed := rfl
@[simp] theorem Team.wr_landQuota (t : Team) (n : Nat) (ls : List Nat) (f : Nat → Word) : (t.wr n ls f).landQuota = t.landQuota := rfl
@[simp] theorem Team.wr_slotWait (t : Team) (n : Nat) (ls : List Nat) (f : Nat → Word) : (t.wr n ls f).slotWait = t.slotWait := rfl
@[simp] theorem Team.wr_aged (t : Team) (n : Nat) (ls : List Nat) (f : Nat → Word) : (t.wr n ls f).aged = t.aged := rfl
@[simp] theorem Team.wr_issued (t : Team) (n : Nat) (ls : List Nat) (f : Nat → Word) : (t.wr n ls f).issued = t.issued := rfl
@[simp] theorem Team.wr_issuedNow (t : Team) (n : Nat) (ls : List Nat) (f : Nat → Word) : (t.wr n ls f).issuedNow = t.issuedNow := rfl
@[simp] theorem Team.wr_floor (t : Team) (n : Nat) (ls : List Nat) (f : Nat → Word) : (t.wr n ls f).floor = t.floor := rfl
@[simp] theorem Team.wr_seen (t : Team) (n : Nat) (ls : List Nat) (f : Nat → Word) : (t.wr n ls f).seen = t.seen := rfl
@[simp] theorem Team.wr_acqBatches (t : Team) (n : Nat) (ls : List Nat) (f : Nat → Word) : (t.wr n ls f).acqBatches = t.acqBatches := rfl
@[simp] theorem Team.wr_skipBreak (t : Team) (n : Nat) (ls : List Nat) (f : Nat → Word) : (t.wr n ls f).skipBreak = t.skipBreak := rfl
@[simp] theorem Team.wr_declined (t : Team) (n : Nat) (ls : List Nat) (f : Nat → Word) : (t.wr n ls f).declined = t.declined := rfl
@[simp] theorem Team.wr_dropping (t : Team) (n : Nat) (ls : List Nat) (f : Nat → Word) : (t.wr n ls f).dropping = t.dropping := rfl
@[simp] theorem Team.wr_gathered (t : Team) (n : Nat) (ls : List Nat) (f : Nat → Word) : (t.wr n ls f).gathered = t.gathered := rfl
@[simp] theorem Team.wr64_key (t : Team) (n : Nat) (ls : List Nat) (f : Nat → BitVec 64) : (t.wr64 n ls f).key = t.key := rfl
@[simp] theorem Team.wr64_state (t : Team) (n : Nat) (ls : List Nat) (f : Nat → BitVec 64) : (t.wr64 n ls f).state = t.state := rfl
@[simp] theorem Team.wr64_halted (t : Team) (n : Nat) (ls : List Nat) (f : Nat → BitVec 64) : (t.wr64 n ls f).halted = t.halted := rfl
@[simp] theorem Team.wr64_held (t : Team) (n : Nat) (ls : List Nat) (f : Nat → BitVec 64) : (t.wr64 n ls f).held = t.held := rfl
@[simp] theorem Team.wr64_park (t : Team) (n : Nat) (ls : List Nat) (f : Nat → BitVec 64) : (t.wr64 n ls f).park = t.park := rfl
@[simp] theorem Team.wr64_ctx (t : Team) (n : Nat) (ls : List Nat) (f : Nat → BitVec 64) : (t.wr64 n ls f).ctx = t.ctx := rfl
@[simp] theorem Team.wr64_crew (t : Team) (n : Nat) (ls : List Nat) (f : Nat → BitVec 64) : (t.wr64 n ls f).crew = t.crew := rfl
@[simp] theorem Team.wr64_index (t : Team) (n : Nat) (ls : List Nat) (f : Nat → BitVec 64) : (t.wr64 n ls f).index = t.index := rfl
@[simp] theorem Team.wr64_slot (t : Team) (n : Nat) (ls : List Nat) (f : Nat → BitVec 64) : (t.wr64 n ls f).slot = t.slot := rfl
@[simp] theorem Team.wr64_part (t : Team) (n : Nat) (ls : List Nat) (f : Nat → BitVec 64) : (t.wr64 n ls f).part = t.part := rfl
@[simp] theorem Team.wr64_strands (t : Team) (n : Nat) (ls : List Nat) (f : Nat → BitVec 64) : (t.wr64 n ls f).strands = t.strands := rfl
@[simp] theorem Team.wr64_alloc (t : Team) (n : Nat) (ls : List Nat) (f : Nat → BitVec 64) : (t.wr64 n ls f).alloc = t.alloc := rfl
@[simp] theorem Team.wr64_pc (t : Team) (n : Nat) (ls : List Nat) (f : Nat → BitVec 64) : (t.wr64 n ls f).pc = t.pc := rfl
@[simp] theorem Team.wr64_mask (t : Team) (n : Nat) (ls : List Nat) (f : Nat → BitVec 64) : (t.wr64 n ls f).mask = t.mask := rfl
@[simp] theorem Team.wr64_launchMask (t : Team) (n : Nat) (ls : List Nat) (f : Nat → BitVec 64) : (t.wr64 n ls f).launchMask = t.launchMask := rfl
@[simp] theorem Team.wr64_mstack (t : Team) (n : Nat) (ls : List Nat) (f : Nat → BitVec 64) : (t.wr64 n ls f).mstack = t.mstack := rfl
@[simp] theorem Team.wr64_cstack (t : Team) (n : Nat) (ls : List Nat) (f : Nat → BitVec 64) : (t.wr64 n ls f).cstack = t.cstack := rfl
@[simp] theorem Team.wr64_winBase (t : Team) (n : Nat) (ls : List Nat) (f : Nat → BitVec 64) : (t.wr64 n ls f).winBase = t.winBase := rfl
@[simp] theorem Team.wr64_tpri (t : Team) (n : Nat) (ls : List Nat) (f : Nat → BitVec 64) : (t.wr64 n ls f).tpri = t.tpri := rfl
@[simp] theorem Team.wr64_scalars (t : Team) (n : Nat) (ls : List Nat) (f : Nat → BitVec 64) : (t.wr64 n ls f).scalars = t.scalars := rfl
@[simp] theorem Team.wr64_preds (t : Team) (n : Nat) (ls : List Nat) (f : Nat → BitVec 64) : (t.wr64 n ls f).preds = t.preds := rfl
@[simp] theorem Team.wr64_flags (t : Team) (n : Nat) (ls : List Nat) (f : Nat → BitVec 64) : (t.wr64 n ls f).flags = t.flags := rfl
@[simp] theorem Team.wr64_netstat (t : Team) (n : Nat) (ls : List Nat) (f : Nat → BitVec 64) : (t.wr64 n ls f).netstat = t.netstat := rfl
@[simp] theorem Team.wr64_trap (t : Team) (n : Nat) (ls : List Nat) (f : Nat → BitVec 64) : (t.wr64 n ls f).trap = t.trap := rfl
@[simp] theorem Team.wr64_replay (t : Team) (n : Nat) (ls : List Nat) (f : Nat → BitVec 64) : (t.wr64 n ls f).replay = t.replay := rfl
@[simp] theorem Team.wr64_closing (t : Team) (n : Nat) (ls : List Nat) (f : Nat → BitVec 64) : (t.wr64 n ls f).closing = t.closing := rfl
@[simp] theorem Team.wr64_wdog (t : Team) (n : Nat) (ls : List Nat) (f : Nat → BitVec 64) : (t.wr64 n ls f).wdog = t.wdog := rfl
@[simp] theorem Team.wr64_wdogDue (t : Team) (n : Nat) (ls : List Nat) (f : Nat → BitVec 64) : (t.wr64 n ls f).wdogDue = t.wdogDue := rfl
@[simp] theorem Team.wr64_unchecked (t : Team) (n : Nat) (ls : List Nat) (f : Nat → BitVec 64) : (t.wr64 n ls f).unchecked = t.unchecked := rfl
@[simp] theorem Team.wr64_nest (t : Team) (n : Nat) (ls : List Nat) (f : Nat → BitVec 64) : (t.wr64 n ls f).nest = t.nest := rfl
@[simp] theorem Team.wr64_qgen (t : Team) (n : Nat) (ls : List Nat) (f : Nat → BitVec 64) : (t.wr64 n ls f).qgen = t.qgen := rfl
@[simp] theorem Team.wr64_qpend (t : Team) (n : Nat) (ls : List Nat) (f : Nat → BitVec 64) : (t.wr64 n ls f).qpend = t.qpend := rfl
@[simp] theorem Team.wr64_openBatch (t : Team) (n : Nat) (ls : List Nat) (f : Nat → BitVec 64) : (t.wr64 n ls f).openBatch = t.openBatch := rfl
@[simp] theorem Team.wr64_closedAny (t : Team) (n : Nat) (ls : List Nat) (f : Nat → BitVec 64) : (t.wr64 n ls f).closedAny = t.closedAny := rfl
@[simp] theorem Team.wr64_committed (t : Team) (n : Nat) (ls : List Nat) (f : Nat → BitVec 64) : (t.wr64 n ls f).committed = t.committed := rfl
@[simp] theorem Team.wr64_landQuota (t : Team) (n : Nat) (ls : List Nat) (f : Nat → BitVec 64) : (t.wr64 n ls f).landQuota = t.landQuota := rfl
@[simp] theorem Team.wr64_slotWait (t : Team) (n : Nat) (ls : List Nat) (f : Nat → BitVec 64) : (t.wr64 n ls f).slotWait = t.slotWait := rfl
@[simp] theorem Team.wr64_aged (t : Team) (n : Nat) (ls : List Nat) (f : Nat → BitVec 64) : (t.wr64 n ls f).aged = t.aged := rfl
@[simp] theorem Team.wr64_issued (t : Team) (n : Nat) (ls : List Nat) (f : Nat → BitVec 64) : (t.wr64 n ls f).issued = t.issued := rfl
@[simp] theorem Team.wr64_issuedNow (t : Team) (n : Nat) (ls : List Nat) (f : Nat → BitVec 64) : (t.wr64 n ls f).issuedNow = t.issuedNow := rfl
@[simp] theorem Team.wr64_floor (t : Team) (n : Nat) (ls : List Nat) (f : Nat → BitVec 64) : (t.wr64 n ls f).floor = t.floor := rfl
@[simp] theorem Team.wr64_seen (t : Team) (n : Nat) (ls : List Nat) (f : Nat → BitVec 64) : (t.wr64 n ls f).seen = t.seen := rfl
@[simp] theorem Team.wr64_acqBatches (t : Team) (n : Nat) (ls : List Nat) (f : Nat → BitVec 64) : (t.wr64 n ls f).acqBatches = t.acqBatches := rfl
@[simp] theorem Team.wr64_skipBreak (t : Team) (n : Nat) (ls : List Nat) (f : Nat → BitVec 64) : (t.wr64 n ls f).skipBreak = t.skipBreak := rfl
@[simp] theorem Team.wr64_declined (t : Team) (n : Nat) (ls : List Nat) (f : Nat → BitVec 64) : (t.wr64 n ls f).declined = t.declined := rfl
@[simp] theorem Team.wr64_dropping (t : Team) (n : Nat) (ls : List Nat) (f : Nat → BitVec 64) : (t.wr64 n ls f).dropping = t.dropping := rfl
@[simp] theorem Team.wr64_gathered (t : Team) (n : Nat) (ls : List Nat) (f : Nat → BitVec 64) : (t.wr64 n ls f).gathered = t.gathered := rfl
@[simp] theorem Team.swr_key (t : Team) (n : Nat) (v : Word) : (t.swr n v).key = t.key := rfl
@[simp] theorem Team.swr_state (t : Team) (n : Nat) (v : Word) : (t.swr n v).state = t.state := rfl
@[simp] theorem Team.swr_halted (t : Team) (n : Nat) (v : Word) : (t.swr n v).halted = t.halted := rfl
@[simp] theorem Team.swr_held (t : Team) (n : Nat) (v : Word) : (t.swr n v).held = t.held := rfl
@[simp] theorem Team.swr_park (t : Team) (n : Nat) (v : Word) : (t.swr n v).park = t.park := rfl
@[simp] theorem Team.swr_ctx (t : Team) (n : Nat) (v : Word) : (t.swr n v).ctx = t.ctx := rfl
@[simp] theorem Team.swr_crew (t : Team) (n : Nat) (v : Word) : (t.swr n v).crew = t.crew := rfl
@[simp] theorem Team.swr_index (t : Team) (n : Nat) (v : Word) : (t.swr n v).index = t.index := rfl
@[simp] theorem Team.swr_slot (t : Team) (n : Nat) (v : Word) : (t.swr n v).slot = t.slot := rfl
@[simp] theorem Team.swr_part (t : Team) (n : Nat) (v : Word) : (t.swr n v).part = t.part := rfl
@[simp] theorem Team.swr_strands (t : Team) (n : Nat) (v : Word) : (t.swr n v).strands = t.strands := rfl
@[simp] theorem Team.swr_alloc (t : Team) (n : Nat) (v : Word) : (t.swr n v).alloc = t.alloc := rfl
@[simp] theorem Team.swr_pc (t : Team) (n : Nat) (v : Word) : (t.swr n v).pc = t.pc := rfl
@[simp] theorem Team.swr_mask (t : Team) (n : Nat) (v : Word) : (t.swr n v).mask = t.mask := rfl
@[simp] theorem Team.swr_launchMask (t : Team) (n : Nat) (v : Word) : (t.swr n v).launchMask = t.launchMask := rfl
@[simp] theorem Team.swr_mstack (t : Team) (n : Nat) (v : Word) : (t.swr n v).mstack = t.mstack := rfl
@[simp] theorem Team.swr_cstack (t : Team) (n : Nat) (v : Word) : (t.swr n v).cstack = t.cstack := rfl
@[simp] theorem Team.swr_winBase (t : Team) (n : Nat) (v : Word) : (t.swr n v).winBase = t.winBase := rfl
@[simp] theorem Team.swr_tpri (t : Team) (n : Nat) (v : Word) : (t.swr n v).tpri = t.tpri := rfl
@[simp] theorem Team.swr_lanes (t : Team) (n : Nat) (v : Word) : (t.swr n v).lanes = t.lanes := rfl
@[simp] theorem Team.swr_preds (t : Team) (n : Nat) (v : Word) : (t.swr n v).preds = t.preds := rfl
@[simp] theorem Team.swr_flags (t : Team) (n : Nat) (v : Word) : (t.swr n v).flags = t.flags := rfl
@[simp] theorem Team.swr_netstat (t : Team) (n : Nat) (v : Word) : (t.swr n v).netstat = t.netstat := rfl
@[simp] theorem Team.swr_trap (t : Team) (n : Nat) (v : Word) : (t.swr n v).trap = t.trap := rfl
@[simp] theorem Team.swr_replay (t : Team) (n : Nat) (v : Word) : (t.swr n v).replay = t.replay := rfl
@[simp] theorem Team.swr_closing (t : Team) (n : Nat) (v : Word) : (t.swr n v).closing = t.closing := rfl
@[simp] theorem Team.swr_wdog (t : Team) (n : Nat) (v : Word) : (t.swr n v).wdog = t.wdog := rfl
@[simp] theorem Team.swr_wdogDue (t : Team) (n : Nat) (v : Word) : (t.swr n v).wdogDue = t.wdogDue := rfl
@[simp] theorem Team.swr_unchecked (t : Team) (n : Nat) (v : Word) : (t.swr n v).unchecked = t.unchecked := rfl
@[simp] theorem Team.swr_nest (t : Team) (n : Nat) (v : Word) : (t.swr n v).nest = t.nest := rfl
@[simp] theorem Team.swr_qgen (t : Team) (n : Nat) (v : Word) : (t.swr n v).qgen = t.qgen := rfl
@[simp] theorem Team.swr_qpend (t : Team) (n : Nat) (v : Word) : (t.swr n v).qpend = t.qpend := rfl
@[simp] theorem Team.swr_openBatch (t : Team) (n : Nat) (v : Word) : (t.swr n v).openBatch = t.openBatch := rfl
@[simp] theorem Team.swr_closedAny (t : Team) (n : Nat) (v : Word) : (t.swr n v).closedAny = t.closedAny := rfl
@[simp] theorem Team.swr_committed (t : Team) (n : Nat) (v : Word) : (t.swr n v).committed = t.committed := rfl
@[simp] theorem Team.swr_landQuota (t : Team) (n : Nat) (v : Word) : (t.swr n v).landQuota = t.landQuota := rfl
@[simp] theorem Team.swr_slotWait (t : Team) (n : Nat) (v : Word) : (t.swr n v).slotWait = t.slotWait := rfl
@[simp] theorem Team.swr_aged (t : Team) (n : Nat) (v : Word) : (t.swr n v).aged = t.aged := rfl
@[simp] theorem Team.swr_issued (t : Team) (n : Nat) (v : Word) : (t.swr n v).issued = t.issued := rfl
@[simp] theorem Team.swr_issuedNow (t : Team) (n : Nat) (v : Word) : (t.swr n v).issuedNow = t.issuedNow := rfl
@[simp] theorem Team.swr_floor (t : Team) (n : Nat) (v : Word) : (t.swr n v).floor = t.floor := rfl
@[simp] theorem Team.swr_seen (t : Team) (n : Nat) (v : Word) : (t.swr n v).seen = t.seen := rfl
@[simp] theorem Team.swr_acqBatches (t : Team) (n : Nat) (v : Word) : (t.swr n v).acqBatches = t.acqBatches := rfl
@[simp] theorem Team.swr_skipBreak (t : Team) (n : Nat) (v : Word) : (t.swr n v).skipBreak = t.skipBreak := rfl
@[simp] theorem Team.swr_declined (t : Team) (n : Nat) (v : Word) : (t.swr n v).declined = t.declined := rfl
@[simp] theorem Team.swr_dropping (t : Team) (n : Nat) (v : Word) : (t.swr n v).dropping = t.dropping := rfl
@[simp] theorem Team.swr_gathered (t : Team) (n : Nat) (v : Word) : (t.swr n v).gathered = t.gathered := rfl
@[simp] theorem Team.swr64_key (t : Team) (n : Nat) (v : BitVec 64) : (t.swr64 n v).key = t.key := rfl
@[simp] theorem Team.swr64_state (t : Team) (n : Nat) (v : BitVec 64) : (t.swr64 n v).state = t.state := rfl
@[simp] theorem Team.swr64_halted (t : Team) (n : Nat) (v : BitVec 64) : (t.swr64 n v).halted = t.halted := rfl
@[simp] theorem Team.swr64_held (t : Team) (n : Nat) (v : BitVec 64) : (t.swr64 n v).held = t.held := rfl
@[simp] theorem Team.swr64_park (t : Team) (n : Nat) (v : BitVec 64) : (t.swr64 n v).park = t.park := rfl
@[simp] theorem Team.swr64_ctx (t : Team) (n : Nat) (v : BitVec 64) : (t.swr64 n v).ctx = t.ctx := rfl
@[simp] theorem Team.swr64_crew (t : Team) (n : Nat) (v : BitVec 64) : (t.swr64 n v).crew = t.crew := rfl
@[simp] theorem Team.swr64_index (t : Team) (n : Nat) (v : BitVec 64) : (t.swr64 n v).index = t.index := rfl
@[simp] theorem Team.swr64_slot (t : Team) (n : Nat) (v : BitVec 64) : (t.swr64 n v).slot = t.slot := rfl
@[simp] theorem Team.swr64_part (t : Team) (n : Nat) (v : BitVec 64) : (t.swr64 n v).part = t.part := rfl
@[simp] theorem Team.swr64_strands (t : Team) (n : Nat) (v : BitVec 64) : (t.swr64 n v).strands = t.strands := rfl
@[simp] theorem Team.swr64_alloc (t : Team) (n : Nat) (v : BitVec 64) : (t.swr64 n v).alloc = t.alloc := rfl
@[simp] theorem Team.swr64_pc (t : Team) (n : Nat) (v : BitVec 64) : (t.swr64 n v).pc = t.pc := rfl
@[simp] theorem Team.swr64_mask (t : Team) (n : Nat) (v : BitVec 64) : (t.swr64 n v).mask = t.mask := rfl
@[simp] theorem Team.swr64_launchMask (t : Team) (n : Nat) (v : BitVec 64) : (t.swr64 n v).launchMask = t.launchMask := rfl
@[simp] theorem Team.swr64_mstack (t : Team) (n : Nat) (v : BitVec 64) : (t.swr64 n v).mstack = t.mstack := rfl
@[simp] theorem Team.swr64_cstack (t : Team) (n : Nat) (v : BitVec 64) : (t.swr64 n v).cstack = t.cstack := rfl
@[simp] theorem Team.swr64_winBase (t : Team) (n : Nat) (v : BitVec 64) : (t.swr64 n v).winBase = t.winBase := rfl
@[simp] theorem Team.swr64_tpri (t : Team) (n : Nat) (v : BitVec 64) : (t.swr64 n v).tpri = t.tpri := rfl
@[simp] theorem Team.swr64_lanes (t : Team) (n : Nat) (v : BitVec 64) : (t.swr64 n v).lanes = t.lanes := rfl
@[simp] theorem Team.swr64_preds (t : Team) (n : Nat) (v : BitVec 64) : (t.swr64 n v).preds = t.preds := rfl
@[simp] theorem Team.swr64_flags (t : Team) (n : Nat) (v : BitVec 64) : (t.swr64 n v).flags = t.flags := rfl
@[simp] theorem Team.swr64_netstat (t : Team) (n : Nat) (v : BitVec 64) : (t.swr64 n v).netstat = t.netstat := rfl
@[simp] theorem Team.swr64_trap (t : Team) (n : Nat) (v : BitVec 64) : (t.swr64 n v).trap = t.trap := rfl
@[simp] theorem Team.swr64_replay (t : Team) (n : Nat) (v : BitVec 64) : (t.swr64 n v).replay = t.replay := rfl
@[simp] theorem Team.swr64_closing (t : Team) (n : Nat) (v : BitVec 64) : (t.swr64 n v).closing = t.closing := rfl
@[simp] theorem Team.swr64_wdog (t : Team) (n : Nat) (v : BitVec 64) : (t.swr64 n v).wdog = t.wdog := rfl
@[simp] theorem Team.swr64_wdogDue (t : Team) (n : Nat) (v : BitVec 64) : (t.swr64 n v).wdogDue = t.wdogDue := rfl
@[simp] theorem Team.swr64_unchecked (t : Team) (n : Nat) (v : BitVec 64) : (t.swr64 n v).unchecked = t.unchecked := rfl
@[simp] theorem Team.swr64_nest (t : Team) (n : Nat) (v : BitVec 64) : (t.swr64 n v).nest = t.nest := rfl
@[simp] theorem Team.swr64_qgen (t : Team) (n : Nat) (v : BitVec 64) : (t.swr64 n v).qgen = t.qgen := rfl
@[simp] theorem Team.swr64_qpend (t : Team) (n : Nat) (v : BitVec 64) : (t.swr64 n v).qpend = t.qpend := rfl
@[simp] theorem Team.swr64_openBatch (t : Team) (n : Nat) (v : BitVec 64) : (t.swr64 n v).openBatch = t.openBatch := rfl
@[simp] theorem Team.swr64_closedAny (t : Team) (n : Nat) (v : BitVec 64) : (t.swr64 n v).closedAny = t.closedAny := rfl
@[simp] theorem Team.swr64_committed (t : Team) (n : Nat) (v : BitVec 64) : (t.swr64 n v).committed = t.committed := rfl
@[simp] theorem Team.swr64_landQuota (t : Team) (n : Nat) (v : BitVec 64) : (t.swr64 n v).landQuota = t.landQuota := rfl
@[simp] theorem Team.swr64_slotWait (t : Team) (n : Nat) (v : BitVec 64) : (t.swr64 n v).slotWait = t.slotWait := rfl
@[simp] theorem Team.swr64_aged (t : Team) (n : Nat) (v : BitVec 64) : (t.swr64 n v).aged = t.aged := rfl
@[simp] theorem Team.swr64_issued (t : Team) (n : Nat) (v : BitVec 64) : (t.swr64 n v).issued = t.issued := rfl
@[simp] theorem Team.swr64_issuedNow (t : Team) (n : Nat) (v : BitVec 64) : (t.swr64 n v).issuedNow = t.issuedNow := rfl
@[simp] theorem Team.swr64_floor (t : Team) (n : Nat) (v : BitVec 64) : (t.swr64 n v).floor = t.floor := rfl
@[simp] theorem Team.swr64_seen (t : Team) (n : Nat) (v : BitVec 64) : (t.swr64 n v).seen = t.seen := rfl
@[simp] theorem Team.swr64_acqBatches (t : Team) (n : Nat) (v : BitVec 64) : (t.swr64 n v).acqBatches = t.acqBatches := rfl
@[simp] theorem Team.swr64_skipBreak (t : Team) (n : Nat) (v : BitVec 64) : (t.swr64 n v).skipBreak = t.skipBreak := rfl
@[simp] theorem Team.swr64_declined (t : Team) (n : Nat) (v : BitVec 64) : (t.swr64 n v).declined = t.declined := rfl
@[simp] theorem Team.swr64_dropping (t : Team) (n : Nat) (v : BitVec 64) : (t.swr64 n v).dropping = t.dropping := rfl
@[simp] theorem Team.swr64_gathered (t : Team) (n : Nat) (v : BitVec 64) : (t.swr64 n v).gathered = t.gathered := rfl
@[simp] theorem Team.pwr_key (t : Team) (n : Nat) (ls : List Nat) (f : Nat → Bool) : (t.pwr n ls f).key = t.key := rfl
@[simp] theorem Team.pwr_state (t : Team) (n : Nat) (ls : List Nat) (f : Nat → Bool) : (t.pwr n ls f).state = t.state := rfl
@[simp] theorem Team.pwr_halted (t : Team) (n : Nat) (ls : List Nat) (f : Nat → Bool) : (t.pwr n ls f).halted = t.halted := rfl
@[simp] theorem Team.pwr_held (t : Team) (n : Nat) (ls : List Nat) (f : Nat → Bool) : (t.pwr n ls f).held = t.held := rfl
@[simp] theorem Team.pwr_park (t : Team) (n : Nat) (ls : List Nat) (f : Nat → Bool) : (t.pwr n ls f).park = t.park := rfl
@[simp] theorem Team.pwr_ctx (t : Team) (n : Nat) (ls : List Nat) (f : Nat → Bool) : (t.pwr n ls f).ctx = t.ctx := rfl
@[simp] theorem Team.pwr_crew (t : Team) (n : Nat) (ls : List Nat) (f : Nat → Bool) : (t.pwr n ls f).crew = t.crew := rfl
@[simp] theorem Team.pwr_index (t : Team) (n : Nat) (ls : List Nat) (f : Nat → Bool) : (t.pwr n ls f).index = t.index := rfl
@[simp] theorem Team.pwr_slot (t : Team) (n : Nat) (ls : List Nat) (f : Nat → Bool) : (t.pwr n ls f).slot = t.slot := rfl
@[simp] theorem Team.pwr_part (t : Team) (n : Nat) (ls : List Nat) (f : Nat → Bool) : (t.pwr n ls f).part = t.part := rfl
@[simp] theorem Team.pwr_strands (t : Team) (n : Nat) (ls : List Nat) (f : Nat → Bool) : (t.pwr n ls f).strands = t.strands := rfl
@[simp] theorem Team.pwr_alloc (t : Team) (n : Nat) (ls : List Nat) (f : Nat → Bool) : (t.pwr n ls f).alloc = t.alloc := rfl
@[simp] theorem Team.pwr_pc (t : Team) (n : Nat) (ls : List Nat) (f : Nat → Bool) : (t.pwr n ls f).pc = t.pc := rfl
@[simp] theorem Team.pwr_mask (t : Team) (n : Nat) (ls : List Nat) (f : Nat → Bool) : (t.pwr n ls f).mask = t.mask := rfl
@[simp] theorem Team.pwr_launchMask (t : Team) (n : Nat) (ls : List Nat) (f : Nat → Bool) : (t.pwr n ls f).launchMask = t.launchMask := rfl
@[simp] theorem Team.pwr_mstack (t : Team) (n : Nat) (ls : List Nat) (f : Nat → Bool) : (t.pwr n ls f).mstack = t.mstack := rfl
@[simp] theorem Team.pwr_cstack (t : Team) (n : Nat) (ls : List Nat) (f : Nat → Bool) : (t.pwr n ls f).cstack = t.cstack := rfl
@[simp] theorem Team.pwr_winBase (t : Team) (n : Nat) (ls : List Nat) (f : Nat → Bool) : (t.pwr n ls f).winBase = t.winBase := rfl
@[simp] theorem Team.pwr_tpri (t : Team) (n : Nat) (ls : List Nat) (f : Nat → Bool) : (t.pwr n ls f).tpri = t.tpri := rfl
@[simp] theorem Team.pwr_lanes (t : Team) (n : Nat) (ls : List Nat) (f : Nat → Bool) : (t.pwr n ls f).lanes = t.lanes := rfl
@[simp] theorem Team.pwr_scalars (t : Team) (n : Nat) (ls : List Nat) (f : Nat → Bool) : (t.pwr n ls f).scalars = t.scalars := rfl
@[simp] theorem Team.pwr_flags (t : Team) (n : Nat) (ls : List Nat) (f : Nat → Bool) : (t.pwr n ls f).flags = t.flags := rfl
@[simp] theorem Team.pwr_netstat (t : Team) (n : Nat) (ls : List Nat) (f : Nat → Bool) : (t.pwr n ls f).netstat = t.netstat := rfl
@[simp] theorem Team.pwr_trap (t : Team) (n : Nat) (ls : List Nat) (f : Nat → Bool) : (t.pwr n ls f).trap = t.trap := rfl
@[simp] theorem Team.pwr_replay (t : Team) (n : Nat) (ls : List Nat) (f : Nat → Bool) : (t.pwr n ls f).replay = t.replay := rfl
@[simp] theorem Team.pwr_closing (t : Team) (n : Nat) (ls : List Nat) (f : Nat → Bool) : (t.pwr n ls f).closing = t.closing := rfl
@[simp] theorem Team.pwr_wdog (t : Team) (n : Nat) (ls : List Nat) (f : Nat → Bool) : (t.pwr n ls f).wdog = t.wdog := rfl
@[simp] theorem Team.pwr_wdogDue (t : Team) (n : Nat) (ls : List Nat) (f : Nat → Bool) : (t.pwr n ls f).wdogDue = t.wdogDue := rfl
@[simp] theorem Team.pwr_unchecked (t : Team) (n : Nat) (ls : List Nat) (f : Nat → Bool) : (t.pwr n ls f).unchecked = t.unchecked := rfl
@[simp] theorem Team.pwr_nest (t : Team) (n : Nat) (ls : List Nat) (f : Nat → Bool) : (t.pwr n ls f).nest = t.nest := rfl
@[simp] theorem Team.pwr_qgen (t : Team) (n : Nat) (ls : List Nat) (f : Nat → Bool) : (t.pwr n ls f).qgen = t.qgen := rfl
@[simp] theorem Team.pwr_qpend (t : Team) (n : Nat) (ls : List Nat) (f : Nat → Bool) : (t.pwr n ls f).qpend = t.qpend := rfl
@[simp] theorem Team.pwr_openBatch (t : Team) (n : Nat) (ls : List Nat) (f : Nat → Bool) : (t.pwr n ls f).openBatch = t.openBatch := rfl
@[simp] theorem Team.pwr_closedAny (t : Team) (n : Nat) (ls : List Nat) (f : Nat → Bool) : (t.pwr n ls f).closedAny = t.closedAny := rfl
@[simp] theorem Team.pwr_committed (t : Team) (n : Nat) (ls : List Nat) (f : Nat → Bool) : (t.pwr n ls f).committed = t.committed := rfl
@[simp] theorem Team.pwr_landQuota (t : Team) (n : Nat) (ls : List Nat) (f : Nat → Bool) : (t.pwr n ls f).landQuota = t.landQuota := rfl
@[simp] theorem Team.pwr_slotWait (t : Team) (n : Nat) (ls : List Nat) (f : Nat → Bool) : (t.pwr n ls f).slotWait = t.slotWait := rfl
@[simp] theorem Team.pwr_aged (t : Team) (n : Nat) (ls : List Nat) (f : Nat → Bool) : (t.pwr n ls f).aged = t.aged := rfl
@[simp] theorem Team.pwr_issued (t : Team) (n : Nat) (ls : List Nat) (f : Nat → Bool) : (t.pwr n ls f).issued = t.issued := rfl
@[simp] theorem Team.pwr_issuedNow (t : Team) (n : Nat) (ls : List Nat) (f : Nat → Bool) : (t.pwr n ls f).issuedNow = t.issuedNow := rfl
@[simp] theorem Team.pwr_floor (t : Team) (n : Nat) (ls : List Nat) (f : Nat → Bool) : (t.pwr n ls f).floor = t.floor := rfl
@[simp] theorem Team.pwr_seen (t : Team) (n : Nat) (ls : List Nat) (f : Nat → Bool) : (t.pwr n ls f).seen = t.seen := rfl
@[simp] theorem Team.pwr_acqBatches (t : Team) (n : Nat) (ls : List Nat) (f : Nat → Bool) : (t.pwr n ls f).acqBatches = t.acqBatches := rfl
@[simp] theorem Team.pwr_skipBreak (t : Team) (n : Nat) (ls : List Nat) (f : Nat → Bool) : (t.pwr n ls f).skipBreak = t.skipBreak := rfl
@[simp] theorem Team.pwr_declined (t : Team) (n : Nat) (ls : List Nat) (f : Nat → Bool) : (t.pwr n ls f).declined = t.declined := rfl
@[simp] theorem Team.pwr_dropping (t : Team) (n : Nat) (ls : List Nat) (f : Nat → Bool) : (t.pwr n ls f).dropping = t.dropping := rfl
@[simp] theorem Team.pwr_gathered (t : Team) (n : Nat) (ls : List Nat) (f : Nat → Bool) : (t.pwr n ls f).gathered = t.gathered := rfl

/-! ## Outstanding writes that are made (R51) -/

@[simp] theorem Team.land_key (t : Team) (w : RegWrite) : (t.land w).key = t.key := by unfold Team.land; split <;> rfl
@[simp] theorem Team.land_state (t : Team) (w : RegWrite) : (t.land w).state = t.state := by unfold Team.land; split <;> rfl
@[simp] theorem Team.land_halted (t : Team) (w : RegWrite) : (t.land w).halted = t.halted := by unfold Team.land; split <;> rfl
@[simp] theorem Team.land_held (t : Team) (w : RegWrite) : (t.land w).held = t.held := by unfold Team.land; split <;> rfl
@[simp] theorem Team.land_park (t : Team) (w : RegWrite) : (t.land w).park = t.park := by unfold Team.land; split <;> rfl
@[simp] theorem Team.land_ctx (t : Team) (w : RegWrite) : (t.land w).ctx = t.ctx := by unfold Team.land; split <;> rfl
@[simp] theorem Team.land_crew (t : Team) (w : RegWrite) : (t.land w).crew = t.crew := by unfold Team.land; split <;> rfl
@[simp] theorem Team.land_index (t : Team) (w : RegWrite) : (t.land w).index = t.index := by unfold Team.land; split <;> rfl
@[simp] theorem Team.land_slot (t : Team) (w : RegWrite) : (t.land w).slot = t.slot := by unfold Team.land; split <;> rfl
@[simp] theorem Team.land_part (t : Team) (w : RegWrite) : (t.land w).part = t.part := by unfold Team.land; split <;> rfl
@[simp] theorem Team.land_strands (t : Team) (w : RegWrite) : (t.land w).strands = t.strands := by unfold Team.land; split <;> rfl
@[simp] theorem Team.land_alloc (t : Team) (w : RegWrite) : (t.land w).alloc = t.alloc := by unfold Team.land; split <;> rfl
@[simp] theorem Team.land_pc (t : Team) (w : RegWrite) : (t.land w).pc = t.pc := by unfold Team.land; split <;> rfl
@[simp] theorem Team.land_mask (t : Team) (w : RegWrite) : (t.land w).mask = t.mask := by unfold Team.land; split <;> rfl
@[simp] theorem Team.land_launchMask (t : Team) (w : RegWrite) : (t.land w).launchMask = t.launchMask := by unfold Team.land; split <;> rfl
@[simp] theorem Team.land_mstack (t : Team) (w : RegWrite) : (t.land w).mstack = t.mstack := by unfold Team.land; split <;> rfl
@[simp] theorem Team.land_cstack (t : Team) (w : RegWrite) : (t.land w).cstack = t.cstack := by unfold Team.land; split <;> rfl
@[simp] theorem Team.land_winBase (t : Team) (w : RegWrite) : (t.land w).winBase = t.winBase := by unfold Team.land; split <;> rfl
@[simp] theorem Team.land_tpri (t : Team) (w : RegWrite) : (t.land w).tpri = t.tpri := by unfold Team.land; split <;> rfl
@[simp] theorem Team.land_preds (t : Team) (w : RegWrite) : (t.land w).preds = t.preds := by unfold Team.land; split <;> rfl
@[simp] theorem Team.land_flags (t : Team) (w : RegWrite) : (t.land w).flags = t.flags := by unfold Team.land; split <;> rfl
@[simp] theorem Team.land_netstat (t : Team) (w : RegWrite) : (t.land w).netstat = t.netstat := by unfold Team.land; split <;> rfl
@[simp] theorem Team.land_trap (t : Team) (w : RegWrite) : (t.land w).trap = t.trap := by unfold Team.land; split <;> rfl
@[simp] theorem Team.land_replay (t : Team) (w : RegWrite) : (t.land w).replay = t.replay := by unfold Team.land; split <;> rfl
@[simp] theorem Team.land_closing (t : Team) (w : RegWrite) : (t.land w).closing = t.closing := by unfold Team.land; split <;> rfl
@[simp] theorem Team.land_wdog (t : Team) (w : RegWrite) : (t.land w).wdog = t.wdog := by unfold Team.land; split <;> rfl
@[simp] theorem Team.land_wdogDue (t : Team) (w : RegWrite) : (t.land w).wdogDue = t.wdogDue := by unfold Team.land; split <;> rfl
@[simp] theorem Team.land_unchecked (t : Team) (w : RegWrite) : (t.land w).unchecked = t.unchecked := by unfold Team.land; split <;> rfl
@[simp] theorem Team.land_nest (t : Team) (w : RegWrite) : (t.land w).nest = t.nest := by unfold Team.land; split <;> rfl
@[simp] theorem Team.land_qgen (t : Team) (w : RegWrite) : (t.land w).qgen = t.qgen := by unfold Team.land; split <;> rfl
@[simp] theorem Team.land_qpend (t : Team) (w : RegWrite) : (t.land w).qpend = t.qpend := by unfold Team.land; split <;> rfl
@[simp] theorem Team.land_openBatch (t : Team) (w : RegWrite) : (t.land w).openBatch = t.openBatch := by unfold Team.land; split <;> rfl
@[simp] theorem Team.land_closedAny (t : Team) (w : RegWrite) : (t.land w).closedAny = t.closedAny := by unfold Team.land; split <;> rfl
@[simp] theorem Team.land_committed (t : Team) (w : RegWrite) : (t.land w).committed = t.committed := by unfold Team.land; split <;> rfl
@[simp] theorem Team.land_landQuota (t : Team) (w : RegWrite) : (t.land w).landQuota = t.landQuota := by unfold Team.land; split <;> rfl
@[simp] theorem Team.land_slotWait (t : Team) (w : RegWrite) : (t.land w).slotWait = t.slotWait := by unfold Team.land; split <;> rfl
@[simp] theorem Team.land_aged (t : Team) (w : RegWrite) : (t.land w).aged = t.aged := by unfold Team.land; split <;> rfl
@[simp] theorem Team.land_issued (t : Team) (w : RegWrite) : (t.land w).issued = t.issued := by unfold Team.land; split <;> rfl
@[simp] theorem Team.land_issuedNow (t : Team) (w : RegWrite) : (t.land w).issuedNow = t.issuedNow := by unfold Team.land; split <;> rfl
@[simp] theorem Team.land_floor (t : Team) (w : RegWrite) : (t.land w).floor = t.floor := by unfold Team.land; split <;> rfl
@[simp] theorem Team.land_seen (t : Team) (w : RegWrite) : (t.land w).seen = t.seen := by unfold Team.land; split <;> rfl
@[simp] theorem Team.land_acqBatches (t : Team) (w : RegWrite) : (t.land w).acqBatches = t.acqBatches := by unfold Team.land; split <;> rfl
@[simp] theorem Team.land_skipBreak (t : Team) (w : RegWrite) : (t.land w).skipBreak = t.skipBreak := by unfold Team.land; split <;> rfl
@[simp] theorem Team.land_declined (t : Team) (w : RegWrite) : (t.land w).declined = t.declined := by unfold Team.land; split <;> rfl
@[simp] theorem Team.land_dropping (t : Team) (w : RegWrite) : (t.land w).dropping = t.dropping := by unfold Team.land; split <;> rfl
@[simp] theorem Team.land_gathered (t : Team) (w : RegWrite) : (t.land w).gathered = t.gathered := by unfold Team.land; split <;> rfl

theorem Team.land_foldl {α : Type} (g : Team → α) (h : ∀ t w, g (Team.land t w) = g t) (l : List RegWrite) (t : Team) :
    g (l.foldl Team.land t) = g t := by
  induction l generalizing t with
  | nil => rfl
  | cons a l ih => rw [List.foldl_cons, ih, h]

@[simp] theorem Team.flush_key (t : Team) : t.flush.key = t.key := Team.land_foldl (fun t => t.key) (fun t w => Team.land_key t w) _ t
@[simp] theorem Team.flushLoads_key (t : Team) : t.flushLoads.key = t.key := Team.land_foldl (fun t => t.key) (fun t w => Team.land_key t w) _ t
@[simp] theorem Team.belay_key (t : Team) (b : Bool) : (t.belay b).key = t.key := by cases b <;> simp [Team.belay]
@[simp] theorem Team.flush_state (t : Team) : t.flush.state = t.state := Team.land_foldl (fun t => t.state) (fun t w => Team.land_state t w) _ t
@[simp] theorem Team.flushLoads_state (t : Team) : t.flushLoads.state = t.state := Team.land_foldl (fun t => t.state) (fun t w => Team.land_state t w) _ t
@[simp] theorem Team.belay_state (t : Team) (b : Bool) : (t.belay b).state = t.state := by cases b <;> simp [Team.belay]
@[simp] theorem Team.flush_halted (t : Team) : t.flush.halted = t.halted := Team.land_foldl (fun t => t.halted) (fun t w => Team.land_halted t w) _ t
@[simp] theorem Team.flushLoads_halted (t : Team) : t.flushLoads.halted = t.halted := Team.land_foldl (fun t => t.halted) (fun t w => Team.land_halted t w) _ t
@[simp] theorem Team.belay_halted (t : Team) (b : Bool) : (t.belay b).halted = t.halted := by cases b <;> simp [Team.belay]
@[simp] theorem Team.flush_held (t : Team) : t.flush.held = t.held := Team.land_foldl (fun t => t.held) (fun t w => Team.land_held t w) _ t
@[simp] theorem Team.flushLoads_held (t : Team) : t.flushLoads.held = t.held := Team.land_foldl (fun t => t.held) (fun t w => Team.land_held t w) _ t
@[simp] theorem Team.belay_held (t : Team) (b : Bool) : (t.belay b).held = t.held := by cases b <;> simp [Team.belay]
@[simp] theorem Team.flush_park (t : Team) : t.flush.park = t.park := Team.land_foldl (fun t => t.park) (fun t w => Team.land_park t w) _ t
@[simp] theorem Team.flushLoads_park (t : Team) : t.flushLoads.park = t.park := Team.land_foldl (fun t => t.park) (fun t w => Team.land_park t w) _ t
@[simp] theorem Team.belay_park (t : Team) (b : Bool) : (t.belay b).park = t.park := by cases b <;> simp [Team.belay]
@[simp] theorem Team.flush_ctx (t : Team) : t.flush.ctx = t.ctx := Team.land_foldl (fun t => t.ctx) (fun t w => Team.land_ctx t w) _ t
@[simp] theorem Team.flushLoads_ctx (t : Team) : t.flushLoads.ctx = t.ctx := Team.land_foldl (fun t => t.ctx) (fun t w => Team.land_ctx t w) _ t
@[simp] theorem Team.belay_ctx (t : Team) (b : Bool) : (t.belay b).ctx = t.ctx := by cases b <;> simp [Team.belay]
@[simp] theorem Team.flush_crew (t : Team) : t.flush.crew = t.crew := Team.land_foldl (fun t => t.crew) (fun t w => Team.land_crew t w) _ t
@[simp] theorem Team.flushLoads_crew (t : Team) : t.flushLoads.crew = t.crew := Team.land_foldl (fun t => t.crew) (fun t w => Team.land_crew t w) _ t
@[simp] theorem Team.belay_crew (t : Team) (b : Bool) : (t.belay b).crew = t.crew := by cases b <;> simp [Team.belay]
@[simp] theorem Team.flush_index (t : Team) : t.flush.index = t.index := Team.land_foldl (fun t => t.index) (fun t w => Team.land_index t w) _ t
@[simp] theorem Team.flushLoads_index (t : Team) : t.flushLoads.index = t.index := Team.land_foldl (fun t => t.index) (fun t w => Team.land_index t w) _ t
@[simp] theorem Team.belay_index (t : Team) (b : Bool) : (t.belay b).index = t.index := by cases b <;> simp [Team.belay]
@[simp] theorem Team.flush_slot (t : Team) : t.flush.slot = t.slot := Team.land_foldl (fun t => t.slot) (fun t w => Team.land_slot t w) _ t
@[simp] theorem Team.flushLoads_slot (t : Team) : t.flushLoads.slot = t.slot := Team.land_foldl (fun t => t.slot) (fun t w => Team.land_slot t w) _ t
@[simp] theorem Team.belay_slot (t : Team) (b : Bool) : (t.belay b).slot = t.slot := by cases b <;> simp [Team.belay]
@[simp] theorem Team.flush_part (t : Team) : t.flush.part = t.part := Team.land_foldl (fun t => t.part) (fun t w => Team.land_part t w) _ t
@[simp] theorem Team.flushLoads_part (t : Team) : t.flushLoads.part = t.part := Team.land_foldl (fun t => t.part) (fun t w => Team.land_part t w) _ t
@[simp] theorem Team.belay_part (t : Team) (b : Bool) : (t.belay b).part = t.part := by cases b <;> simp [Team.belay]
@[simp] theorem Team.flush_strands (t : Team) : t.flush.strands = t.strands := Team.land_foldl (fun t => t.strands) (fun t w => Team.land_strands t w) _ t
@[simp] theorem Team.flushLoads_strands (t : Team) : t.flushLoads.strands = t.strands := Team.land_foldl (fun t => t.strands) (fun t w => Team.land_strands t w) _ t
@[simp] theorem Team.belay_strands (t : Team) (b : Bool) : (t.belay b).strands = t.strands := by cases b <;> simp [Team.belay]
@[simp] theorem Team.flush_alloc (t : Team) : t.flush.alloc = t.alloc := Team.land_foldl (fun t => t.alloc) (fun t w => Team.land_alloc t w) _ t
@[simp] theorem Team.flushLoads_alloc (t : Team) : t.flushLoads.alloc = t.alloc := Team.land_foldl (fun t => t.alloc) (fun t w => Team.land_alloc t w) _ t
@[simp] theorem Team.belay_alloc (t : Team) (b : Bool) : (t.belay b).alloc = t.alloc := by cases b <;> simp [Team.belay]
@[simp] theorem Team.flush_pc (t : Team) : t.flush.pc = t.pc := Team.land_foldl (fun t => t.pc) (fun t w => Team.land_pc t w) _ t
@[simp] theorem Team.flushLoads_pc (t : Team) : t.flushLoads.pc = t.pc := Team.land_foldl (fun t => t.pc) (fun t w => Team.land_pc t w) _ t
@[simp] theorem Team.belay_pc (t : Team) (b : Bool) : (t.belay b).pc = t.pc := by cases b <;> simp [Team.belay]
@[simp] theorem Team.flush_mask (t : Team) : t.flush.mask = t.mask := Team.land_foldl (fun t => t.mask) (fun t w => Team.land_mask t w) _ t
@[simp] theorem Team.flushLoads_mask (t : Team) : t.flushLoads.mask = t.mask := Team.land_foldl (fun t => t.mask) (fun t w => Team.land_mask t w) _ t
@[simp] theorem Team.belay_mask (t : Team) (b : Bool) : (t.belay b).mask = t.mask := by cases b <;> simp [Team.belay]
@[simp] theorem Team.flush_launchMask (t : Team) : t.flush.launchMask = t.launchMask := Team.land_foldl (fun t => t.launchMask) (fun t w => Team.land_launchMask t w) _ t
@[simp] theorem Team.flushLoads_launchMask (t : Team) : t.flushLoads.launchMask = t.launchMask := Team.land_foldl (fun t => t.launchMask) (fun t w => Team.land_launchMask t w) _ t
@[simp] theorem Team.belay_launchMask (t : Team) (b : Bool) : (t.belay b).launchMask = t.launchMask := by cases b <;> simp [Team.belay]
@[simp] theorem Team.flush_mstack (t : Team) : t.flush.mstack = t.mstack := Team.land_foldl (fun t => t.mstack) (fun t w => Team.land_mstack t w) _ t
@[simp] theorem Team.flushLoads_mstack (t : Team) : t.flushLoads.mstack = t.mstack := Team.land_foldl (fun t => t.mstack) (fun t w => Team.land_mstack t w) _ t
@[simp] theorem Team.belay_mstack (t : Team) (b : Bool) : (t.belay b).mstack = t.mstack := by cases b <;> simp [Team.belay]
@[simp] theorem Team.flush_cstack (t : Team) : t.flush.cstack = t.cstack := Team.land_foldl (fun t => t.cstack) (fun t w => Team.land_cstack t w) _ t
@[simp] theorem Team.flushLoads_cstack (t : Team) : t.flushLoads.cstack = t.cstack := Team.land_foldl (fun t => t.cstack) (fun t w => Team.land_cstack t w) _ t
@[simp] theorem Team.belay_cstack (t : Team) (b : Bool) : (t.belay b).cstack = t.cstack := by cases b <;> simp [Team.belay]
@[simp] theorem Team.flush_winBase (t : Team) : t.flush.winBase = t.winBase := Team.land_foldl (fun t => t.winBase) (fun t w => Team.land_winBase t w) _ t
@[simp] theorem Team.flushLoads_winBase (t : Team) : t.flushLoads.winBase = t.winBase := Team.land_foldl (fun t => t.winBase) (fun t w => Team.land_winBase t w) _ t
@[simp] theorem Team.belay_winBase (t : Team) (b : Bool) : (t.belay b).winBase = t.winBase := by cases b <;> simp [Team.belay]
@[simp] theorem Team.flush_tpri (t : Team) : t.flush.tpri = t.tpri := Team.land_foldl (fun t => t.tpri) (fun t w => Team.land_tpri t w) _ t
@[simp] theorem Team.flushLoads_tpri (t : Team) : t.flushLoads.tpri = t.tpri := Team.land_foldl (fun t => t.tpri) (fun t w => Team.land_tpri t w) _ t
@[simp] theorem Team.belay_tpri (t : Team) (b : Bool) : (t.belay b).tpri = t.tpri := by cases b <;> simp [Team.belay]
@[simp] theorem Team.flush_preds (t : Team) : t.flush.preds = t.preds := Team.land_foldl (fun t => t.preds) (fun t w => Team.land_preds t w) _ t
@[simp] theorem Team.flushLoads_preds (t : Team) : t.flushLoads.preds = t.preds := Team.land_foldl (fun t => t.preds) (fun t w => Team.land_preds t w) _ t
@[simp] theorem Team.belay_preds (t : Team) (b : Bool) : (t.belay b).preds = t.preds := by cases b <;> simp [Team.belay]
@[simp] theorem Team.flush_flags (t : Team) : t.flush.flags = t.flags := Team.land_foldl (fun t => t.flags) (fun t w => Team.land_flags t w) _ t
@[simp] theorem Team.flushLoads_flags (t : Team) : t.flushLoads.flags = t.flags := Team.land_foldl (fun t => t.flags) (fun t w => Team.land_flags t w) _ t
@[simp] theorem Team.belay_flags (t : Team) (b : Bool) : (t.belay b).flags = t.flags := by cases b <;> simp [Team.belay]
@[simp] theorem Team.flush_netstat (t : Team) : t.flush.netstat = t.netstat := Team.land_foldl (fun t => t.netstat) (fun t w => Team.land_netstat t w) _ t
@[simp] theorem Team.flushLoads_netstat (t : Team) : t.flushLoads.netstat = t.netstat := Team.land_foldl (fun t => t.netstat) (fun t w => Team.land_netstat t w) _ t
@[simp] theorem Team.belay_netstat (t : Team) (b : Bool) : (t.belay b).netstat = t.netstat := by cases b <;> simp [Team.belay]
@[simp] theorem Team.flush_trap (t : Team) : t.flush.trap = t.trap := Team.land_foldl (fun t => t.trap) (fun t w => Team.land_trap t w) _ t
@[simp] theorem Team.flushLoads_trap (t : Team) : t.flushLoads.trap = t.trap := Team.land_foldl (fun t => t.trap) (fun t w => Team.land_trap t w) _ t
@[simp] theorem Team.belay_trap (t : Team) (b : Bool) : (t.belay b).trap = t.trap := by cases b <;> simp [Team.belay]
@[simp] theorem Team.flush_replay (t : Team) : t.flush.replay = t.replay := Team.land_foldl (fun t => t.replay) (fun t w => Team.land_replay t w) _ t
@[simp] theorem Team.flushLoads_replay (t : Team) : t.flushLoads.replay = t.replay := Team.land_foldl (fun t => t.replay) (fun t w => Team.land_replay t w) _ t
@[simp] theorem Team.belay_replay (t : Team) (b : Bool) : (t.belay b).replay = t.replay := by cases b <;> simp [Team.belay]
@[simp] theorem Team.flush_closing (t : Team) : t.flush.closing = t.closing := Team.land_foldl (fun t => t.closing) (fun t w => Team.land_closing t w) _ t
@[simp] theorem Team.flushLoads_closing (t : Team) : t.flushLoads.closing = t.closing := Team.land_foldl (fun t => t.closing) (fun t w => Team.land_closing t w) _ t
@[simp] theorem Team.belay_closing (t : Team) (b : Bool) : (t.belay b).closing = t.closing := by cases b <;> simp [Team.belay]
@[simp] theorem Team.flush_wdog (t : Team) : t.flush.wdog = t.wdog := Team.land_foldl (fun t => t.wdog) (fun t w => Team.land_wdog t w) _ t
@[simp] theorem Team.flushLoads_wdog (t : Team) : t.flushLoads.wdog = t.wdog := Team.land_foldl (fun t => t.wdog) (fun t w => Team.land_wdog t w) _ t
@[simp] theorem Team.belay_wdog (t : Team) (b : Bool) : (t.belay b).wdog = t.wdog := by cases b <;> simp [Team.belay]
@[simp] theorem Team.flush_wdogDue (t : Team) : t.flush.wdogDue = t.wdogDue := Team.land_foldl (fun t => t.wdogDue) (fun t w => Team.land_wdogDue t w) _ t
@[simp] theorem Team.flushLoads_wdogDue (t : Team) : t.flushLoads.wdogDue = t.wdogDue := Team.land_foldl (fun t => t.wdogDue) (fun t w => Team.land_wdogDue t w) _ t
@[simp] theorem Team.belay_wdogDue (t : Team) (b : Bool) : (t.belay b).wdogDue = t.wdogDue := by cases b <;> simp [Team.belay]
@[simp] theorem Team.flush_nest (t : Team) : t.flush.nest = t.nest := Team.land_foldl (fun t => t.nest) (fun t w => Team.land_nest t w) _ t
@[simp] theorem Team.flushLoads_nest (t : Team) : t.flushLoads.nest = t.nest := Team.land_foldl (fun t => t.nest) (fun t w => Team.land_nest t w) _ t
@[simp] theorem Team.belay_nest (t : Team) (b : Bool) : (t.belay b).nest = t.nest := by cases b <;> simp [Team.belay]
@[simp] theorem Team.flush_qgen (t : Team) : t.flush.qgen = t.qgen := Team.land_foldl (fun t => t.qgen) (fun t w => Team.land_qgen t w) _ t
@[simp] theorem Team.flushLoads_qgen (t : Team) : t.flushLoads.qgen = t.qgen := Team.land_foldl (fun t => t.qgen) (fun t w => Team.land_qgen t w) _ t
@[simp] theorem Team.belay_qgen (t : Team) (b : Bool) : (t.belay b).qgen = t.qgen := by cases b <;> simp [Team.belay]
@[simp] theorem Team.flush_qpend (t : Team) : t.flush.qpend = t.qpend := Team.land_foldl (fun t => t.qpend) (fun t w => Team.land_qpend t w) _ t
@[simp] theorem Team.flushLoads_qpend (t : Team) : t.flushLoads.qpend = t.qpend := Team.land_foldl (fun t => t.qpend) (fun t w => Team.land_qpend t w) _ t
@[simp] theorem Team.belay_qpend (t : Team) (b : Bool) : (t.belay b).qpend = t.qpend := by cases b <;> simp [Team.belay]
@[simp] theorem Team.flush_openBatch (t : Team) : t.flush.openBatch = t.openBatch := Team.land_foldl (fun t => t.openBatch) (fun t w => Team.land_openBatch t w) _ t
@[simp] theorem Team.flushLoads_openBatch (t : Team) : t.flushLoads.openBatch = t.openBatch := Team.land_foldl (fun t => t.openBatch) (fun t w => Team.land_openBatch t w) _ t
@[simp] theorem Team.belay_openBatch (t : Team) (b : Bool) : (t.belay b).openBatch = t.openBatch := by cases b <;> simp [Team.belay]
@[simp] theorem Team.flush_closedAny (t : Team) : t.flush.closedAny = t.closedAny := Team.land_foldl (fun t => t.closedAny) (fun t w => Team.land_closedAny t w) _ t
@[simp] theorem Team.flushLoads_closedAny (t : Team) : t.flushLoads.closedAny = t.closedAny := Team.land_foldl (fun t => t.closedAny) (fun t w => Team.land_closedAny t w) _ t
@[simp] theorem Team.belay_closedAny (t : Team) (b : Bool) : (t.belay b).closedAny = t.closedAny := by cases b <;> simp [Team.belay]
@[simp] theorem Team.flush_committed (t : Team) : t.flush.committed = t.committed := Team.land_foldl (fun t => t.committed) (fun t w => Team.land_committed t w) _ t
@[simp] theorem Team.flushLoads_committed (t : Team) : t.flushLoads.committed = t.committed := Team.land_foldl (fun t => t.committed) (fun t w => Team.land_committed t w) _ t
@[simp] theorem Team.belay_committed (t : Team) (b : Bool) : (t.belay b).committed = t.committed := by cases b <;> simp [Team.belay]
@[simp] theorem Team.flush_landQuota (t : Team) : t.flush.landQuota = t.landQuota := Team.land_foldl (fun t => t.landQuota) (fun t w => Team.land_landQuota t w) _ t
@[simp] theorem Team.flushLoads_landQuota (t : Team) : t.flushLoads.landQuota = t.landQuota := Team.land_foldl (fun t => t.landQuota) (fun t w => Team.land_landQuota t w) _ t
@[simp] theorem Team.belay_landQuota (t : Team) (b : Bool) : (t.belay b).landQuota = t.landQuota := by cases b <;> simp [Team.belay]
@[simp] theorem Team.flush_slotWait (t : Team) : t.flush.slotWait = t.slotWait := Team.land_foldl (fun t => t.slotWait) (fun t w => Team.land_slotWait t w) _ t
@[simp] theorem Team.flushLoads_slotWait (t : Team) : t.flushLoads.slotWait = t.slotWait := Team.land_foldl (fun t => t.slotWait) (fun t w => Team.land_slotWait t w) _ t
@[simp] theorem Team.belay_slotWait (t : Team) (b : Bool) : (t.belay b).slotWait = t.slotWait := by cases b <;> simp [Team.belay]
@[simp] theorem Team.flush_aged (t : Team) : t.flush.aged = t.aged := Team.land_foldl (fun t => t.aged) (fun t w => Team.land_aged t w) _ t
@[simp] theorem Team.flushLoads_aged (t : Team) : t.flushLoads.aged = t.aged := Team.land_foldl (fun t => t.aged) (fun t w => Team.land_aged t w) _ t
@[simp] theorem Team.belay_aged (t : Team) (b : Bool) : (t.belay b).aged = t.aged := by cases b <;> simp [Team.belay]
@[simp] theorem Team.flush_issued (t : Team) : t.flush.issued = t.issued := Team.land_foldl (fun t => t.issued) (fun t w => Team.land_issued t w) _ t
@[simp] theorem Team.flushLoads_issued (t : Team) : t.flushLoads.issued = t.issued := Team.land_foldl (fun t => t.issued) (fun t w => Team.land_issued t w) _ t
@[simp] theorem Team.belay_issued (t : Team) (b : Bool) : (t.belay b).issued = t.issued := by cases b <;> simp [Team.belay]
@[simp] theorem Team.flush_issuedNow (t : Team) : t.flush.issuedNow = t.issuedNow := Team.land_foldl (fun t => t.issuedNow) (fun t w => Team.land_issuedNow t w) _ t
@[simp] theorem Team.flushLoads_issuedNow (t : Team) : t.flushLoads.issuedNow = t.issuedNow := Team.land_foldl (fun t => t.issuedNow) (fun t w => Team.land_issuedNow t w) _ t
@[simp] theorem Team.belay_issuedNow (t : Team) (b : Bool) : (t.belay b).issuedNow = t.issuedNow := by cases b <;> simp [Team.belay]
@[simp] theorem Team.flush_floor (t : Team) : t.flush.floor = t.floor := Team.land_foldl (fun t => t.floor) (fun t w => Team.land_floor t w) _ t
@[simp] theorem Team.flushLoads_floor (t : Team) : t.flushLoads.floor = t.floor := Team.land_foldl (fun t => t.floor) (fun t w => Team.land_floor t w) _ t
@[simp] theorem Team.belay_floor (t : Team) (b : Bool) : (t.belay b).floor = t.floor := by cases b <;> simp [Team.belay]
@[simp] theorem Team.flush_seen (t : Team) : t.flush.seen = t.seen := Team.land_foldl (fun t => t.seen) (fun t w => Team.land_seen t w) _ t
@[simp] theorem Team.flushLoads_seen (t : Team) : t.flushLoads.seen = t.seen := Team.land_foldl (fun t => t.seen) (fun t w => Team.land_seen t w) _ t
@[simp] theorem Team.belay_seen (t : Team) (b : Bool) : (t.belay b).seen = t.seen := by cases b <;> simp [Team.belay]
@[simp] theorem Team.flush_acqBatches (t : Team) : t.flush.acqBatches = t.acqBatches := Team.land_foldl (fun t => t.acqBatches) (fun t w => Team.land_acqBatches t w) _ t
@[simp] theorem Team.flushLoads_acqBatches (t : Team) : t.flushLoads.acqBatches = t.acqBatches := Team.land_foldl (fun t => t.acqBatches) (fun t w => Team.land_acqBatches t w) _ t
@[simp] theorem Team.belay_acqBatches (t : Team) (b : Bool) : (t.belay b).acqBatches = t.acqBatches := by cases b <;> simp [Team.belay]
@[simp] theorem Team.flush_skipBreak (t : Team) : t.flush.skipBreak = t.skipBreak := Team.land_foldl (fun t => t.skipBreak) (fun t w => Team.land_skipBreak t w) _ t
@[simp] theorem Team.flushLoads_skipBreak (t : Team) : t.flushLoads.skipBreak = t.skipBreak := Team.land_foldl (fun t => t.skipBreak) (fun t w => Team.land_skipBreak t w) _ t
@[simp] theorem Team.belay_skipBreak (t : Team) (b : Bool) : (t.belay b).skipBreak = t.skipBreak := by cases b <;> simp [Team.belay]
@[simp] theorem Team.flush_declined (t : Team) : t.flush.declined = t.declined := Team.land_foldl (fun t => t.declined) (fun t w => Team.land_declined t w) _ t
@[simp] theorem Team.flushLoads_declined (t : Team) : t.flushLoads.declined = t.declined := Team.land_foldl (fun t => t.declined) (fun t w => Team.land_declined t w) _ t
@[simp] theorem Team.belay_declined (t : Team) (b : Bool) : (t.belay b).declined = t.declined := by cases b <;> simp [Team.belay]
@[simp] theorem Team.flush_dropping (t : Team) : t.flush.dropping = t.dropping := Team.land_foldl (fun t => t.dropping) (fun t w => Team.land_dropping t w) _ t
@[simp] theorem Team.flushLoads_dropping (t : Team) : t.flushLoads.dropping = t.dropping := Team.land_foldl (fun t => t.dropping) (fun t w => Team.land_dropping t w) _ t
@[simp] theorem Team.belay_dropping (t : Team) (b : Bool) : (t.belay b).dropping = t.dropping := by cases b <;> simp [Team.belay]
@[simp] theorem Team.flush_gathered (t : Team) : t.flush.gathered = t.gathered := Team.land_foldl (fun t => t.gathered) (fun t w => Team.land_gathered t w) _ t
@[simp] theorem Team.flushLoads_gathered (t : Team) : t.flushLoads.gathered = t.gathered := Team.land_foldl (fun t => t.gathered) (fun t w => Team.land_gathered t w) _ t
@[simp] theorem Team.belay_gathered (t : Team) (b : Bool) : (t.belay b).gathered = t.gathered := by cases b <;> simp [Team.belay]
@[simp] theorem Team.flush_unchecked (t : Team) : t.flush.unchecked = [] := rfl
@[simp] theorem Team.belay_false (t : Team) : t.belay false = t := rfl
@[simp] theorem Team.belay_true (t : Team) : t.belay true = t.flush := rfl

/-! ## What the views of a team depend on -/

theorem Team.active_congr {t u : Team} (hm : u.mask = t.mask) (hs : u.strands = t.strands) : u.active = t.active := by
  simp [Team.active, Team.width, hm, hs]

theorem Team.acting_congr {t u : Team} (hm : u.mask = t.mask) (hs : u.strands = t.strands) (hr : u.replay = t.replay) : u.acting = t.acting := by
  simp [Team.acting, Team.active, Team.width, hm, hs, hr]

theorem Team.laneReg_congr {t u : Team} (h1 : u.trap = t.trap) (h2 : u.alloc = t.alloc) (h3 : u.winBase = t.winBase) (n : Nat) :
    u.laneReg n = t.laneReg n := by
  simp [Team.laneReg, h1, h2, h3]

@[simp] theorem Team.belay_active (t : Team) (b : Bool) : (t.belay b).active = t.active := Team.active_congr (by simp) (by simp)
@[simp] theorem Team.belay_acting (t : Team) (b : Bool) : (t.belay b).acting = t.acting := Team.acting_congr (by simp) (by simp) (by simp)
@[simp] theorem Team.belay_width (t : Team) (b : Bool) : (t.belay b).width = t.width := by simp [Team.width]
@[simp] theorem Team.belay_teamid (t : Team) (b : Bool) : (t.belay b).teamid = t.teamid := by simp [Team.teamid]
@[simp] theorem Team.belay_depthBase (t : Team) (b : Bool) : (t.belay b).depthBase = t.depthBase := by simp [Team.depthBase]
@[simp] theorem Team.belay_laneReg (t : Team) (b : Bool) (n : Nat) : (t.belay b).laneReg n = t.laneReg n :=
  Team.laneReg_congr (by simp) (by simp) (by simp) n
@[simp] theorem Team.belay_phys (t : Team) (b : Bool) (n : Nat) : (t.belay b).phys n = t.phys n := by simp [Team.phys]
@[simp] theorem Team.belay_namesOk (t : Team) (b : Bool) (ns : List Nat) : (t.belay b).namesOk ns = t.namesOk ns := by simp [Team.namesOk]
@[simp] theorem Team.belay_scalarReg (t : Team) (b : Bool) (n : Nat) : (t.belay b).scalarReg n = t.scalarReg n := by simp [Team.scalarReg]
@[simp] theorem Team.belay_prd (t : Team) (b : Bool) (n : Nat) : (t.belay b).prd n = t.prd n := by simp [Team.prd]
@[simp] theorem Team.flushLoads_active (t : Team) : t.flushLoads.active = t.active := Team.active_congr (by simp) (by simp)
@[simp] theorem Team.flushLoads_acting (t : Team) : t.flushLoads.acting = t.acting := Team.acting_congr (by simp) (by simp) (by simp)
@[simp] theorem Team.flushLoads_laneReg (t : Team) (n : Nat) : t.flushLoads.laneReg n = t.laneReg n :=
  Team.laneReg_congr (by simp) (by simp) (by simp) n
@[simp] theorem Team.flushLoads_namesOk (t : Team) (ns : List Nat) : t.flushLoads.namesOk ns = t.namesOk ns := by simp [Team.namesOk]
@[simp] theorem Team.advance_active (t : Team) (n : Nat) : (t.advance n).active = t.active := rfl
@[simp] theorem Team.jump_active (t : Team) (a : Nat) : (t.jump a).active = t.active := rfl

end Sys2Proof.Machine
end

