-- ==== Sys2Proof/Laws/Memory.lean ====
section
/-! SUPPORT. What the operations over memory leave unchanged (16, 17): one lemma per operation and field. -/

namespace Sys2Proof.Machine

/-- A fold keeps what each of its steps keeps. -/
theorem State.foldl_keeps {α β : Type} (f : State → α → State) (g : State → β) (h : ∀ s a, g (f s a) = g s) (l : List α) (s : State) :
    g (l.foldl f s) = g s := by
  induction l generalizing s with
  | nil => rfl
  | cons a l ih => rw [List.foldl_cons, ih, h]

/-! ## Home slices -/

@[simp] theorem State.mark_team (s : State) (line : Nat) : (s.mark line).team = s.team := by unfold State.mark; split <;> rfl
@[simp] theorem State.mark_crew (s : State) (line : Nat) : (s.mark line).crew = s.crew := by unfold State.mark; split <;> rfl
@[simp] theorem State.mark_ctx (s : State) (line : Nat) : (s.mark line).ctx = s.ctx := by unfold State.mark; split <;> rfl
@[simp] theorem State.mark_teams (s : State) (line : Nat) : (s.mark line).teams = s.teams := by unfold State.mark; split <;> rfl
@[simp] theorem State.mark_crews (s : State) (line : Nat) : (s.mark line).crews = s.crews := by unfold State.mark; split <;> rfl
@[simp] theorem State.mark_ctxs (s : State) (line : Nat) : (s.mark line).ctxs = s.ctxs := by unfold State.mark; split <;> rfl
@[simp] theorem State.mark_cores (s : State) (line : Nat) : (s.mark line).cores = s.cores := by unfold State.mark; split <;> rfl
@[simp] theorem State.mark_dev (s : State) (line : Nat) : (s.mark line).dev = s.dev := by unfold State.mark; split <;> rfl
@[simp] theorem State.mark_mem (s : State) (line : Nat) : (s.mark line).mem = s.mem := by unfold State.mark; split <;> rfl
@[simp] theorem State.mark_openMem (s : State) (line : Nat) : (s.mark line).openMem = s.openMem := by unfold State.mark; split <;> rfl
@[simp] theorem State.mark_bankOld (s : State) (line : Nat) : (s.mark line).bankOld = s.bankOld := by unfold State.mark; split <;> rfl
@[simp] theorem State.mark_weights (s : State) (line : Nat) : (s.mark line).weights = s.weights := by unfold State.mark; split <;> rfl
@[simp] theorem State.mark_semaphores (s : State) (line : Nat) : (s.mark line).semaphores = s.semaphores := by unfold State.mark; split <;> rfl
@[simp] theorem State.mark_bankErr (s : State) (line : Nat) : (s.mark line).bankErr = s.bankErr := by unfold State.mark; split <;> rfl
@[simp] theorem State.mark_rounds (s : State) (line : Nat) : (s.mark line).rounds = s.rounds := by unfold State.mark; split <;> rfl
@[simp] theorem State.mark_bankCmds (s : State) (line : Nat) : (s.mark line).bankCmds = s.bankCmds := by unfold State.mark; split <;> rfl
@[simp] theorem State.mark_ops (s : State) (line : Nat) : (s.mark line).ops = s.ops := by unfold State.mark; split <;> rfl
@[simp] theorem State.mark_scStores (s : State) (line : Nat) : (s.mark line).scStores = s.scStores := by unfold State.mark; split <;> rfl
@[simp] theorem State.mark_atomics (s : State) (line : Nat) : (s.mark line).atomics = s.atomics := by unfold State.mark; split <;> rfl
@[simp] theorem State.mark_dieTlbs (s : State) (line : Nat) : (s.mark line).dieTlbs = s.dieTlbs := by unfold State.mark; split <;> rfl
@[simp] theorem State.mark_shoots (s : State) (line : Nat) : (s.mark line).shoots = s.shoots := by unfold State.mark; split <;> rfl
@[simp] theorem State.mark_staging (s : State) (line : Nat) : (s.mark line).staging = s.staging := by unfold State.mark; split <;> rfl
@[simp] theorem State.mark_past (s : State) (line : Nat) : (s.mark line).past = s.past := by unfold State.mark; split <;> rfl
@[simp] theorem State.mark_slotsBusy (s : State) (line : Nat) : (s.mark line).slotsBusy = s.slotsBusy := by unfold State.mark; split <;> rfl
@[simp] theorem State.mark_inbox (s : State) (line : Nat) : (s.mark line).inbox = s.inbox := by unfold State.mark; split <;> rfl
@[simp] theorem State.mark_nextKey (s : State) (line : Nat) : (s.mark line).nextKey = s.nextKey := by unfold State.mark; split <;> rfl
@[simp] theorem State.mark_tick (s : State) (line : Nat) : (s.mark line).tick = s.tick := by unfold State.mark; split <;> rfl
@[simp] theorem State.rawMem_team (s : State) (p : Nat) (v : Byte) : (s.rawMem p v).team = s.team := rfl
@[simp] theorem State.rawMem_crew (s : State) (p : Nat) (v : Byte) : (s.rawMem p v).crew = s.crew := rfl
@[simp] theorem State.rawMem_ctx (s : State) (p : Nat) (v : Byte) : (s.rawMem p v).ctx = s.ctx := rfl
@[simp] theorem State.rawMem_teams (s : State) (p : Nat) (v : Byte) : (s.rawMem p v).teams = s.teams := rfl
@[simp] theorem State.rawMem_crews (s : State) (p : Nat) (v : Byte) : (s.rawMem p v).crews = s.crews := rfl
@[simp] theorem State.rawMem_ctxs (s : State) (p : Nat) (v : Byte) : (s.rawMem p v).ctxs = s.ctxs := rfl
@[simp] theorem State.rawMem_cores (s : State) (p : Nat) (v : Byte) : (s.rawMem p v).cores = s.cores := rfl
@[simp] theorem State.rawMem_dev (s : State) (p : Nat) (v : Byte) : (s.rawMem p v).dev = s.dev := rfl
@[simp] theorem State.rawMem_bankOld (s : State) (p : Nat) (v : Byte) : (s.rawMem p v).bankOld = s.bankOld := rfl
@[simp] theorem State.rawMem_weights (s : State) (p : Nat) (v : Byte) : (s.rawMem p v).weights = s.weights := rfl
@[simp] theorem State.rawMem_semaphores (s : State) (p : Nat) (v : Byte) : (s.rawMem p v).semaphores = s.semaphores := rfl
@[simp] theorem State.rawMem_bankErr (s : State) (p : Nat) (v : Byte) : (s.rawMem p v).bankErr = s.bankErr := rfl
@[simp] theorem State.rawMem_rounds (s : State) (p : Nat) (v : Byte) : (s.rawMem p v).rounds = s.rounds := rfl
@[simp] theorem State.rawMem_bankCmds (s : State) (p : Nat) (v : Byte) : (s.rawMem p v).bankCmds = s.bankCmds := rfl
@[simp] theorem State.rawMem_ops (s : State) (p : Nat) (v : Byte) : (s.rawMem p v).ops = s.ops := rfl
@[simp] theorem State.rawMem_scStores (s : State) (p : Nat) (v : Byte) : (s.rawMem p v).scStores = s.scStores := rfl
@[simp] theorem State.rawMem_atomics (s : State) (p : Nat) (v : Byte) : (s.rawMem p v).atomics = s.atomics := rfl
@[simp] theorem State.rawMem_dieTlbs (s : State) (p : Nat) (v : Byte) : (s.rawMem p v).dieTlbs = s.dieTlbs := rfl
@[simp] theorem State.rawMem_shoots (s : State) (p : Nat) (v : Byte) : (s.rawMem p v).shoots = s.shoots := rfl
@[simp] theorem State.rawMem_staging (s : State) (p : Nat) (v : Byte) : (s.rawMem p v).staging = s.staging := rfl
@[simp] theorem State.rawMem_wrote (s : State) (p : Nat) (v : Byte) : (s.rawMem p v).wrote = s.wrote := rfl
@[simp] theorem State.rawMem_past (s : State) (p : Nat) (v : Byte) : (s.rawMem p v).past = s.past := rfl
@[simp] theorem State.rawMem_slotsBusy (s : State) (p : Nat) (v : Byte) : (s.rawMem p v).slotsBusy = s.slotsBusy := rfl
@[simp] theorem State.rawMem_inbox (s : State) (p : Nat) (v : Byte) : (s.rawMem p v).inbox = s.inbox := rfl
@[simp] theorem State.rawMem_nextKey (s : State) (p : Nat) (v : Byte) : (s.rawMem p v).nextKey = s.nextKey := rfl
@[simp] theorem State.rawMem_tick (s : State) (p : Nat) (v : Byte) : (s.rawMem p v).tick = s.tick := rfl
@[simp] theorem State.setMem_team (s : State) (p : Nat) (v : Byte) : (s.setMem p v).team = s.team := rfl
@[simp] theorem State.setMem_crew (s : State) (p : Nat) (v : Byte) : (s.setMem p v).crew = s.crew := rfl
@[simp] theorem State.setMem_ctx (s : State) (p : Nat) (v : Byte) : (s.setMem p v).ctx = s.ctx := rfl
@[simp] theorem State.setMem_teams (s : State) (p : Nat) (v : Byte) : (s.setMem p v).teams = s.teams := rfl
@[simp] theorem State.setMem_crews (s : State) (p : Nat) (v : Byte) : (s.setMem p v).crews = s.crews := rfl
@[simp] theorem State.setMem_ctxs (s : State) (p : Nat) (v : Byte) : (s.setMem p v).ctxs = s.ctxs := rfl
@[simp] theorem State.setMem_cores (s : State) (p : Nat) (v : Byte) : (s.setMem p v).cores = s.cores := rfl
@[simp] theorem State.setMem_dev (s : State) (p : Nat) (v : Byte) : (s.setMem p v).dev = s.dev := rfl
@[simp] theorem State.setMem_bankOld (s : State) (p : Nat) (v : Byte) : (s.setMem p v).bankOld = s.bankOld := rfl
@[simp] theorem State.setMem_weights (s : State) (p : Nat) (v : Byte) : (s.setMem p v).weights = s.weights := rfl
@[simp] theorem State.setMem_semaphores (s : State) (p : Nat) (v : Byte) : (s.setMem p v).semaphores = s.semaphores := rfl
@[simp] theorem State.setMem_bankErr (s : State) (p : Nat) (v : Byte) : (s.setMem p v).bankErr = s.bankErr := rfl
@[simp] theorem State.setMem_rounds (s : State) (p : Nat) (v : Byte) : (s.setMem p v).rounds = s.rounds := rfl
@[simp] theorem State.setMem_bankCmds (s : State) (p : Nat) (v : Byte) : (s.setMem p v).bankCmds = s.bankCmds := rfl
@[simp] theorem State.setMem_ops (s : State) (p : Nat) (v : Byte) : (s.setMem p v).ops = s.ops := rfl
@[simp] theorem State.setMem_scStores (s : State) (p : Nat) (v : Byte) : (s.setMem p v).scStores = s.scStores := rfl
@[simp] theorem State.setMem_atomics (s : State) (p : Nat) (v : Byte) : (s.setMem p v).atomics = s.atomics := rfl
@[simp] theorem State.setMem_dieTlbs (s : State) (p : Nat) (v : Byte) : (s.setMem p v).dieTlbs = s.dieTlbs := rfl
@[simp] theorem State.setMem_shoots (s : State) (p : Nat) (v : Byte) : (s.setMem p v).shoots = s.shoots := rfl
@[simp] theorem State.setMem_staging (s : State) (p : Nat) (v : Byte) : (s.setMem p v).staging = s.staging := rfl
@[simp] theorem State.setMem_wrote (s : State) (p : Nat) (v : Byte) : (s.setMem p v).wrote = s.wrote := rfl
@[simp] theorem State.setMem_slotsBusy (s : State) (p : Nat) (v : Byte) : (s.setMem p v).slotsBusy = s.slotsBusy := rfl
@[simp] theorem State.setMem_inbox (s : State) (p : Nat) (v : Byte) : (s.setMem p v).inbox = s.inbox := rfl
@[simp] theorem State.setMem_nextKey (s : State) (p : Nat) (v : Byte) : (s.setMem p v).nextKey = s.nextKey := rfl
@[simp] theorem State.setMem_tick (s : State) (p : Nat) (v : Byte) : (s.setMem p v).tick = s.tick := rfl
@[simp] theorem State.keep_team (s : State) (x : PastByte) : (s.keep x).team = s.team := rfl
@[simp] theorem State.keep_crew (s : State) (x : PastByte) : (s.keep x).crew = s.crew := rfl
@[simp] theorem State.keep_ctx (s : State) (x : PastByte) : (s.keep x).ctx = s.ctx := rfl
@[simp] theorem State.keep_teams (s : State) (x : PastByte) : (s.keep x).teams = s.teams := rfl
@[simp] theorem State.keep_crews (s : State) (x : PastByte) : (s.keep x).crews = s.crews := rfl
@[simp] theorem State.keep_ctxs (s : State) (x : PastByte) : (s.keep x).ctxs = s.ctxs := rfl
@[simp] theorem State.keep_cores (s : State) (x : PastByte) : (s.keep x).cores = s.cores := rfl
@[simp] theorem State.keep_dev (s : State) (x : PastByte) : (s.keep x).dev = s.dev := rfl
@[simp] theorem State.keep_mem (s : State) (x : PastByte) : (s.keep x).mem = s.mem := rfl
@[simp] theorem State.keep_openMem (s : State) (x : PastByte) : (s.keep x).openMem = s.openMem := rfl
@[simp] theorem State.keep_bankOld (s : State) (x : PastByte) : (s.keep x).bankOld = s.bankOld := rfl
@[simp] theorem State.keep_weights (s : State) (x : PastByte) : (s.keep x).weights = s.weights := rfl
@[simp] theorem State.keep_semaphores (s : State) (x : PastByte) : (s.keep x).semaphores = s.semaphores := rfl
@[simp] theorem State.keep_bankErr (s : State) (x : PastByte) : (s.keep x).bankErr = s.bankErr := rfl
@[simp] theorem State.keep_rounds (s : State) (x : PastByte) : (s.keep x).rounds = s.rounds := rfl
@[simp] theorem State.keep_bankCmds (s : State) (x : PastByte) : (s.keep x).bankCmds = s.bankCmds := rfl
@[simp] theorem State.keep_ops (s : State) (x : PastByte) : (s.keep x).ops = s.ops := rfl
@[simp] theorem State.keep_scStores (s : State) (x : PastByte) : (s.keep x).scStores = s.scStores := rfl
@[simp] theorem State.keep_atomics (s : State) (x : PastByte) : (s.keep x).atomics = s.atomics := rfl
@[simp] theorem State.keep_dieTlbs (s : State) (x : PastByte) : (s.keep x).dieTlbs = s.dieTlbs := rfl
@[simp] theorem State.keep_shoots (s : State) (x : PastByte) : (s.keep x).shoots = s.shoots := rfl
@[simp] theorem State.keep_staging (s : State) (x : PastByte) : (s.keep x).staging = s.staging := rfl
@[simp] theorem State.keep_wrote (s : State) (x : PastByte) : (s.keep x).wrote = s.wrote := rfl
@[simp] theorem State.keep_slotsBusy (s : State) (x : PastByte) : (s.keep x).slotsBusy = s.slotsBusy := rfl
@[simp] theorem State.keep_inbox (s : State) (x : PastByte) : (s.keep x).inbox = s.inbox := rfl
@[simp] theorem State.keep_nextKey (s : State) (x : PastByte) : (s.keep x).nextKey = s.nextKey := rfl
@[simp] theorem State.keep_tick (s : State) (x : PastByte) : (s.keep x).tick = s.tick := rfl
@[simp] theorem State.keepBuffered_team (s : State) (c : Nat) (b : StoreByte) : (s.keepBuffered c b).team = s.team := rfl
@[simp] theorem State.keepBuffered_crew (s : State) (c : Nat) (b : StoreByte) : (s.keepBuffered c b).crew = s.crew := rfl
@[simp] theorem State.keepBuffered_ctx (s : State) (c : Nat) (b : StoreByte) : (s.keepBuffered c b).ctx = s.ctx := rfl
@[simp] theorem State.keepBuffered_teams (s : State) (c : Nat) (b : StoreByte) : (s.keepBuffered c b).teams = s.teams := rfl
@[simp] theorem State.keepBuffered_crews (s : State) (c : Nat) (b : StoreByte) : (s.keepBuffered c b).crews = s.crews := rfl
@[simp] theorem State.keepBuffered_ctxs (s : State) (c : Nat) (b : StoreByte) : (s.keepBuffered c b).ctxs = s.ctxs := rfl
@[simp] theorem State.keepBuffered_cores (s : State) (c : Nat) (b : StoreByte) : (s.keepBuffered c b).cores = s.cores := rfl
@[simp] theorem State.keepBuffered_dev (s : State) (c : Nat) (b : StoreByte) : (s.keepBuffered c b).dev = s.dev := rfl
@[simp] theorem State.keepBuffered_mem (s : State) (c : Nat) (b : StoreByte) : (s.keepBuffered c b).mem = s.mem := rfl
@[simp] theorem State.keepBuffered_openMem (s : State) (c : Nat) (b : StoreByte) : (s.keepBuffered c b).openMem = s.openMem := rfl
@[simp] theorem State.keepBuffered_bankOld (s : State) (c : Nat) (b : StoreByte) : (s.keepBuffered c b).bankOld = s.bankOld := rfl
@[simp] theorem State.keepBuffered_weights (s : State) (c : Nat) (b : StoreByte) : (s.keepBuffered c b).weights = s.weights := rfl
@[simp] theorem State.keepBuffered_semaphores (s : State) (c : Nat) (b : StoreByte) : (s.keepBuffered c b).semaphores = s.semaphores := rfl
@[simp] theorem State.keepBuffered_bankErr (s : State) (c : Nat) (b : StoreByte) : (s.keepBuffered c b).bankErr = s.bankErr := rfl
@[simp] theorem State.keepBuffered_rounds (s : State) (c : Nat) (b : StoreByte) : (s.keepBuffered c b).rounds = s.rounds := rfl
@[simp] theorem State.keepBuffered_bankCmds (s : State) (c : Nat) (b : StoreByte) : (s.keepBuffered c b).bankCmds = s.bankCmds := rfl
@[simp] theorem State.keepBuffered_ops (s : State) (c : Nat) (b : StoreByte) : (s.keepBuffered c b).ops = s.ops := rfl
@[simp] theorem State.keepBuffered_scStores (s : State) (c : Nat) (b : StoreByte) : (s.keepBuffered c b).scStores = s.scStores := rfl
@[simp] theorem State.keepBuffered_atomics (s : State) (c : Nat) (b : StoreByte) : (s.keepBuffered c b).atomics = s.atomics := rfl
@[simp] theorem State.keepBuffered_dieTlbs (s : State) (c : Nat) (b : StoreByte) : (s.keepBuffered c b).dieTlbs = s.dieTlbs := rfl
@[simp] theorem State.keepBuffered_shoots (s : State) (c : Nat) (b : StoreByte) : (s.keepBuffered c b).shoots = s.shoots := rfl
@[simp] theorem State.keepBuffered_staging (s : State) (c : Nat) (b : StoreByte) : (s.keepBuffered c b).staging = s.staging := rfl
@[simp] theorem State.keepBuffered_wrote (s : State) (c : Nat) (b : StoreByte) : (s.keepBuffered c b).wrote = s.wrote := rfl
@[simp] theorem State.keepBuffered_slotsBusy (s : State) (c : Nat) (b : StoreByte) : (s.keepBuffered c b).slotsBusy = s.slotsBusy := rfl
@[simp] theorem State.keepBuffered_inbox (s : State) (c : Nat) (b : StoreByte) : (s.keepBuffered c b).inbox = s.inbox := rfl
@[simp] theorem State.keepBuffered_nextKey (s : State) (c : Nat) (b : StoreByte) : (s.keepBuffered c b).nextKey = s.nextKey := rfl
@[simp] theorem State.keepBuffered_tick (s : State) (c : Nat) (b : StoreByte) : (s.keepBuffered c b).tick = s.tick := rfl
@[simp] theorem State.openRange_team (s : State) (a n : Nat) : (s.openRange a n).team = s.team := State.foldl_keeps _ (fun s => s.team) (fun s _ => State.mark_team s _) _ _
@[simp] theorem State.openRange_crew (s : State) (a n : Nat) : (s.openRange a n).crew = s.crew := State.foldl_keeps _ (fun s => s.crew) (fun s _ => State.mark_crew s _) _ _
@[simp] theorem State.openRange_ctx (s : State) (a n : Nat) : (s.openRange a n).ctx = s.ctx := State.foldl_keeps _ (fun s => s.ctx) (fun s _ => State.mark_ctx s _) _ _
@[simp] theorem State.openRange_teams (s : State) (a n : Nat) : (s.openRange a n).teams = s.teams := State.foldl_keeps _ (fun s => s.teams) (fun s _ => State.mark_teams s _) _ _
@[simp] theorem State.openRange_crews (s : State) (a n : Nat) : (s.openRange a n).crews = s.crews := State.foldl_keeps _ (fun s => s.crews) (fun s _ => State.mark_crews s _) _ _
@[simp] theorem State.openRange_ctxs (s : State) (a n : Nat) : (s.openRange a n).ctxs = s.ctxs := State.foldl_keeps _ (fun s => s.ctxs) (fun s _ => State.mark_ctxs s _) _ _
@[simp] theorem State.openRange_cores (s : State) (a n : Nat) : (s.openRange a n).cores = s.cores := State.foldl_keeps _ (fun s => s.cores) (fun s _ => State.mark_cores s _) _ _
@[simp] theorem State.openRange_dev (s : State) (a n : Nat) : (s.openRange a n).dev = s.dev := State.foldl_keeps _ (fun s => s.dev) (fun s _ => State.mark_dev s _) _ _
@[simp] theorem State.openRange_mem (s : State) (a n : Nat) : (s.openRange a n).mem = s.mem := State.foldl_keeps _ (fun s => s.mem) (fun s _ => State.mark_mem s _) _ _
@[simp] theorem State.openRange_bankOld (s : State) (a n : Nat) : (s.openRange a n).bankOld = s.bankOld := State.foldl_keeps _ (fun s => s.bankOld) (fun s _ => State.mark_bankOld s _) _ _
@[simp] theorem State.openRange_weights (s : State) (a n : Nat) : (s.openRange a n).weights = s.weights := State.foldl_keeps _ (fun s => s.weights) (fun s _ => State.mark_weights s _) _ _
@[simp] theorem State.openRange_semaphores (s : State) (a n : Nat) : (s.openRange a n).semaphores = s.semaphores := State.foldl_keeps _ (fun s => s.semaphores) (fun s _ => State.mark_semaphores s _) _ _
@[simp] theorem State.openRange_bankErr (s : State) (a n : Nat) : (s.openRange a n).bankErr = s.bankErr := State.foldl_keeps _ (fun s => s.bankErr) (fun s _ => State.mark_bankErr s _) _ _
@[simp] theorem State.openRange_rounds (s : State) (a n : Nat) : (s.openRange a n).rounds = s.rounds := State.foldl_keeps _ (fun s => s.rounds) (fun s _ => State.mark_rounds s _) _ _
@[simp] theorem State.openRange_bankCmds (s : State) (a n : Nat) : (s.openRange a n).bankCmds = s.bankCmds := State.foldl_keeps _ (fun s => s.bankCmds) (fun s _ => State.mark_bankCmds s _) _ _
@[simp] theorem State.openRange_ops (s : State) (a n : Nat) : (s.openRange a n).ops = s.ops := State.foldl_keeps _ (fun s => s.ops) (fun s _ => State.mark_ops s _) _ _
@[simp] theorem State.openRange_scStores (s : State) (a n : Nat) : (s.openRange a n).scStores = s.scStores := State.foldl_keeps _ (fun s => s.scStores) (fun s _ => State.mark_scStores s _) _ _
@[simp] theorem State.openRange_atomics (s : State) (a n : Nat) : (s.openRange a n).atomics = s.atomics := State.foldl_keeps _ (fun s => s.atomics) (fun s _ => State.mark_atomics s _) _ _
@[simp] theorem State.openRange_dieTlbs (s : State) (a n : Nat) : (s.openRange a n).dieTlbs = s.dieTlbs := State.foldl_keeps _ (fun s => s.dieTlbs) (fun s _ => State.mark_dieTlbs s _) _ _
@[simp] theorem State.openRange_shoots (s : State) (a n : Nat) : (s.openRange a n).shoots = s.shoots := State.foldl_keeps _ (fun s => s.shoots) (fun s _ => State.mark_shoots s _) _ _
@[simp] theorem State.openRange_staging (s : State) (a n : Nat) : (s.openRange a n).staging = s.staging := State.foldl_keeps _ (fun s => s.staging) (fun s _ => State.mark_staging s _) _ _
@[simp] theorem State.openRange_past (s : State) (a n : Nat) : (s.openRange a n).past = s.past := State.foldl_keeps _ (fun s => s.past) (fun s _ => State.mark_past s _) _ _
@[simp] theorem State.openRange_slotsBusy (s : State) (a n : Nat) : (s.openRange a n).slotsBusy = s.slotsBusy := State.foldl_keeps _ (fun s => s.slotsBusy) (fun s _ => State.mark_slotsBusy s _) _ _
@[simp] theorem State.openRange_inbox (s : State) (a n : Nat) : (s.openRange a n).inbox = s.inbox := State.foldl_keeps _ (fun s => s.inbox) (fun s _ => State.mark_inbox s _) _ _
@[simp] theorem State.openRange_nextKey (s : State) (a n : Nat) : (s.openRange a n).nextKey = s.nextKey := State.foldl_keeps _ (fun s => s.nextKey) (fun s _ => State.mark_nextKey s _) _ _
@[simp] theorem State.openRange_tick (s : State) (a n : Nat) : (s.openRange a n).tick = s.tick := State.foldl_keeps _ (fun s => s.tick) (fun s _ => State.mark_tick s _) _ _
@[simp] theorem State.putByte_team (s : State) (p : Nat) (v : Byte) : (s.putByte p v).team = s.team := by unfold State.putByte; dsimp only; split <;> (try split) <;> simp
@[simp] theorem State.putByte_crew (s : State) (p : Nat) (v : Byte) : (s.putByte p v).crew = s.crew := by unfold State.putByte; dsimp only; split <;> (try split) <;> simp
@[simp] theorem State.putByte_ctx (s : State) (p : Nat) (v : Byte) : (s.putByte p v).ctx = s.ctx := by unfold State.putByte; dsimp only; split <;> (try split) <;> simp
@[simp] theorem State.putByte_teams (s : State) (p : Nat) (v : Byte) : (s.putByte p v).teams = s.teams := by unfold State.putByte; dsimp only; split <;> (try split) <;> simp
@[simp] theorem State.putByte_crews (s : State) (p : Nat) (v : Byte) : (s.putByte p v).crews = s.crews := by unfold State.putByte; dsimp only; split <;> (try split) <;> simp
@[simp] theorem State.putByte_ctxs (s : State) (p : Nat) (v : Byte) : (s.putByte p v).ctxs = s.ctxs := by unfold State.putByte; dsimp only; split <;> (try split) <;> simp
@[simp] theorem State.putByte_cores (s : State) (p : Nat) (v : Byte) : (s.putByte p v).cores = s.cores := by unfold State.putByte; dsimp only; split <;> (try split) <;> simp
@[simp] theorem State.putByte_dev (s : State) (p : Nat) (v : Byte) : (s.putByte p v).dev = s.dev := by unfold State.putByte; dsimp only; split <;> (try split) <;> simp
@[simp] theorem State.putByte_bankOld (s : State) (p : Nat) (v : Byte) : (s.putByte p v).bankOld = s.bankOld := by unfold State.putByte; dsimp only; split <;> (try split) <;> simp
@[simp] theorem State.putByte_weights (s : State) (p : Nat) (v : Byte) : (s.putByte p v).weights = s.weights := by unfold State.putByte; dsimp only; split <;> (try split) <;> simp
@[simp] theorem State.putByte_semaphores (s : State) (p : Nat) (v : Byte) : (s.putByte p v).semaphores = s.semaphores := by unfold State.putByte; dsimp only; split <;> (try split) <;> simp
@[simp] theorem State.putByte_bankErr (s : State) (p : Nat) (v : Byte) : (s.putByte p v).bankErr = s.bankErr := by unfold State.putByte; dsimp only; split <;> (try split) <;> simp
@[simp] theorem State.putByte_rounds (s : State) (p : Nat) (v : Byte) : (s.putByte p v).rounds = s.rounds := by unfold State.putByte; dsimp only; split <;> (try split) <;> simp
@[simp] theorem State.putByte_bankCmds (s : State) (p : Nat) (v : Byte) : (s.putByte p v).bankCmds = s.bankCmds := by unfold State.putByte; dsimp only; split <;> (try split) <;> simp
@[simp] theorem State.putByte_ops (s : State) (p : Nat) (v : Byte) : (s.putByte p v).ops = s.ops := by unfold State.putByte; dsimp only; split <;> (try split) <;> simp
@[simp] theorem State.putByte_scStores (s : State) (p : Nat) (v : Byte) : (s.putByte p v).scStores = s.scStores := by unfold State.putByte; dsimp only; split <;> (try split) <;> simp
@[simp] theorem State.putByte_atomics (s : State) (p : Nat) (v : Byte) : (s.putByte p v).atomics = s.atomics := by unfold State.putByte; dsimp only; split <;> (try split) <;> simp
@[simp] theorem State.putByte_dieTlbs (s : State) (p : Nat) (v : Byte) : (s.putByte p v).dieTlbs = s.dieTlbs := by unfold State.putByte; dsimp only; split <;> (try split) <;> simp
@[simp] theorem State.putByte_shoots (s : State) (p : Nat) (v : Byte) : (s.putByte p v).shoots = s.shoots := by unfold State.putByte; dsimp only; split <;> (try split) <;> simp
@[simp] theorem State.putByte_staging (s : State) (p : Nat) (v : Byte) : (s.putByte p v).staging = s.staging := by unfold State.putByte; dsimp only; split <;> (try split) <;> simp
@[simp] theorem State.putByte_slotsBusy (s : State) (p : Nat) (v : Byte) : (s.putByte p v).slotsBusy = s.slotsBusy := by unfold State.putByte; dsimp only; split <;> (try split) <;> simp
@[simp] theorem State.putByte_inbox (s : State) (p : Nat) (v : Byte) : (s.putByte p v).inbox = s.inbox := by unfold State.putByte; dsimp only; split <;> (try split) <;> simp
@[simp] theorem State.putByte_nextKey (s : State) (p : Nat) (v : Byte) : (s.putByte p v).nextKey = s.nextKey := by unfold State.putByte; dsimp only; split <;> (try split) <;> simp
@[simp] theorem State.putByte_tick (s : State) (p : Nat) (v : Byte) : (s.putByte p v).tick = s.tick := by unfold State.putByte; dsimp only; split <;> (try split) <;> simp
@[simp] theorem State.performAt_team (s : State) (b : StoreByte) (p : Nat) : (s.performAt b p).team = s.team := by simp [State.performAt]
@[simp] theorem State.performAt_crew (s : State) (b : StoreByte) (p : Nat) : (s.performAt b p).crew = s.crew := by simp [State.performAt]
@[simp] theorem State.performAt_ctx (s : State) (b : StoreByte) (p : Nat) : (s.performAt b p).ctx = s.ctx := by simp [State.performAt]
@[simp] theorem State.performAt_teams (s : State) (b : StoreByte) (p : Nat) : (s.performAt b p).teams = s.teams := by simp [State.performAt]
@[simp] theorem State.performAt_crews (s : State) (b : StoreByte) (p : Nat) : (s.performAt b p).crews = s.crews := by simp [State.performAt]
@[simp] theorem State.performAt_ctxs (s : State) (b : StoreByte) (p : Nat) : (s.performAt b p).ctxs = s.ctxs := by simp [State.performAt]
@[simp] theorem State.performAt_cores (s : State) (b : StoreByte) (p : Nat) : (s.performAt b p).cores = s.cores := by simp [State.performAt]
@[simp] theorem State.performAt_dev (s : State) (b : StoreByte) (p : Nat) : (s.performAt b p).dev = s.dev := by simp [State.performAt]
@[simp] theorem State.performAt_bankOld (s : State) (b : StoreByte) (p : Nat) : (s.performAt b p).bankOld = s.bankOld := by simp [State.performAt]
@[simp] theorem State.performAt_weights (s : State) (b : StoreByte) (p : Nat) : (s.performAt b p).weights = s.weights := by simp [State.performAt]
@[simp] theorem State.performAt_semaphores (s : State) (b : StoreByte) (p : Nat) : (s.performAt b p).semaphores = s.semaphores := by simp [State.performAt]
@[simp] theorem State.performAt_bankErr (s : State) (b : StoreByte) (p : Nat) : (s.performAt b p).bankErr = s.bankErr := by simp [State.performAt]
@[simp] theorem State.performAt_rounds (s : State) (b : StoreByte) (p : Nat) : (s.performAt b p).rounds = s.rounds := by simp [State.performAt]
@[simp] theorem State.performAt_bankCmds (s : State) (b : StoreByte) (p : Nat) : (s.performAt b p).bankCmds = s.bankCmds := by simp [State.performAt]
@[simp] theorem State.performAt_ops (s : State) (b : StoreByte) (p : Nat) : (s.performAt b p).ops = s.ops := by simp [State.performAt]
@[simp] theorem State.performAt_scStores (s : State) (b : StoreByte) (p : Nat) : (s.performAt b p).scStores = s.scStores := by simp [State.performAt]
@[simp] theorem State.performAt_atomics (s : State) (b : StoreByte) (p : Nat) : (s.performAt b p).atomics = s.atomics := by simp [State.performAt]
@[simp] theorem State.performAt_dieTlbs (s : State) (b : StoreByte) (p : Nat) : (s.performAt b p).dieTlbs = s.dieTlbs := by simp [State.performAt]
@[simp] theorem State.performAt_shoots (s : State) (b : StoreByte) (p : Nat) : (s.performAt b p).shoots = s.shoots := by simp [State.performAt]
@[simp] theorem State.performAt_staging (s : State) (b : StoreByte) (p : Nat) : (s.performAt b p).staging = s.staging := by simp [State.performAt]
@[simp] theorem State.performAt_slotsBusy (s : State) (b : StoreByte) (p : Nat) : (s.performAt b p).slotsBusy = s.slotsBusy := by simp [State.performAt]
@[simp] theorem State.performAt_inbox (s : State) (b : StoreByte) (p : Nat) : (s.performAt b p).inbox = s.inbox := by simp [State.performAt]
@[simp] theorem State.performAt_nextKey (s : State) (b : StoreByte) (p : Nat) : (s.performAt b p).nextKey = s.nextKey := by simp [State.performAt]
@[simp] theorem State.performAt_tick (s : State) (b : StoreByte) (p : Nat) : (s.performAt b p).tick = s.tick := by simp [State.performAt]
@[simp] theorem State.perform_team (s : State) (b : StoreByte) : (s.perform b).team = s.team := by unfold State.perform; dsimp only; split <;> simp
@[simp] theorem State.perform_crew (s : State) (b : StoreByte) : (s.perform b).crew = s.crew := by unfold State.perform; dsimp only; split <;> simp
@[simp] theorem State.perform_ctx (s : State) (b : StoreByte) : (s.perform b).ctx = s.ctx := by unfold State.perform; dsimp only; split <;> simp
@[simp] theorem State.perform_teams (s : State) (b : StoreByte) : (s.perform b).teams = s.teams := by unfold State.perform; dsimp only; split <;> simp
@[simp] theorem State.perform_crews (s : State) (b : StoreByte) : (s.perform b).crews = s.crews := by unfold State.perform; dsimp only; split <;> simp
@[simp] theorem State.perform_ctxs (s : State) (b : StoreByte) : (s.perform b).ctxs = s.ctxs := by unfold State.perform; dsimp only; split <;> simp
@[simp] theorem State.perform_cores (s : State) (b : StoreByte) : (s.perform b).cores = s.cores := by unfold State.perform; dsimp only; split <;> simp
@[simp] theorem State.perform_dev (s : State) (b : StoreByte) : (s.perform b).dev = s.dev := by unfold State.perform; dsimp only; split <;> simp
@[simp] theorem State.perform_bankOld (s : State) (b : StoreByte) : (s.perform b).bankOld = s.bankOld := by unfold State.perform; dsimp only; split <;> simp
@[simp] theorem State.perform_weights (s : State) (b : StoreByte) : (s.perform b).weights = s.weights := by unfold State.perform; dsimp only; split <;> simp
@[simp] theorem State.perform_semaphores (s : State) (b : StoreByte) : (s.perform b).semaphores = s.semaphores := by unfold State.perform; dsimp only; split <;> simp
@[simp] theorem State.perform_bankErr (s : State) (b : StoreByte) : (s.perform b).bankErr = s.bankErr := by unfold State.perform; dsimp only; split <;> simp
@[simp] theorem State.perform_rounds (s : State) (b : StoreByte) : (s.perform b).rounds = s.rounds := by unfold State.perform; dsimp only; split <;> simp
@[simp] theorem State.perform_bankCmds (s : State) (b : StoreByte) : (s.perform b).bankCmds = s.bankCmds := by unfold State.perform; dsimp only; split <;> simp
@[simp] theorem State.perform_ops (s : State) (b : StoreByte) : (s.perform b).ops = s.ops := by unfold State.perform; dsimp only; split <;> simp
@[simp] theorem State.perform_scStores (s : State) (b : StoreByte) : (s.perform b).scStores = s.scStores := by unfold State.perform; dsimp only; split <;> simp
@[simp] theorem State.perform_atomics (s : State) (b : StoreByte) : (s.perform b).atomics = s.atomics := by unfold State.perform; dsimp only; split <;> simp
@[simp] theorem State.perform_dieTlbs (s : State) (b : StoreByte) : (s.perform b).dieTlbs = s.dieTlbs := by unfold State.perform; dsimp only; split <;> simp
@[simp] theorem State.perform_shoots (s : State) (b : StoreByte) : (s.perform b).shoots = s.shoots := by unfold State.perform; dsimp only; split <;> simp
@[simp] theorem State.perform_staging (s : State) (b : StoreByte) : (s.perform b).staging = s.staging := by unfold State.perform; dsimp only; split <;> simp
@[simp] theorem State.perform_slotsBusy (s : State) (b : StoreByte) : (s.perform b).slotsBusy = s.slotsBusy := by unfold State.perform; dsimp only; split <;> simp
@[simp] theorem State.perform_inbox (s : State) (b : StoreByte) : (s.perform b).inbox = s.inbox := by unfold State.perform; dsimp only; split <;> simp
@[simp] theorem State.perform_nextKey (s : State) (b : StoreByte) : (s.perform b).nextKey = s.nextKey := by unfold State.perform; dsimp only; split <;> simp
@[simp] theorem State.perform_tick (s : State) (b : StoreByte) : (s.perform b).tick = s.tick := by unfold State.perform; dsimp only; split <;> simp
@[simp] theorem State.drained_team (s : State) (c : Nat) (l : List StoreByte) : (l.foldl (fun s b => (s.keepBuffered c b).perform b) s).team = s.team := State.foldl_keeps _ (fun s => s.team) (fun s _ => by simp) l s
@[simp] theorem State.drained_crew (s : State) (c : Nat) (l : List StoreByte) : (l.foldl (fun s b => (s.keepBuffered c b).perform b) s).crew = s.crew := State.foldl_keeps _ (fun s => s.crew) (fun s _ => by simp) l s
@[simp] theorem State.drained_ctx (s : State) (c : Nat) (l : List StoreByte) : (l.foldl (fun s b => (s.keepBuffered c b).perform b) s).ctx = s.ctx := State.foldl_keeps _ (fun s => s.ctx) (fun s _ => by simp) l s
@[simp] theorem State.drained_teams (s : State) (c : Nat) (l : List StoreByte) : (l.foldl (fun s b => (s.keepBuffered c b).perform b) s).teams = s.teams := State.foldl_keeps _ (fun s => s.teams) (fun s _ => by simp) l s
@[simp] theorem State.drained_crews (s : State) (c : Nat) (l : List StoreByte) : (l.foldl (fun s b => (s.keepBuffered c b).perform b) s).crews = s.crews := State.foldl_keeps _ (fun s => s.crews) (fun s _ => by simp) l s
@[simp] theorem State.drained_ctxs (s : State) (c : Nat) (l : List StoreByte) : (l.foldl (fun s b => (s.keepBuffered c b).perform b) s).ctxs = s.ctxs := State.foldl_keeps _ (fun s => s.ctxs) (fun s _ => by simp) l s
@[simp] theorem State.drained_cores (s : State) (c : Nat) (l : List StoreByte) : (l.foldl (fun s b => (s.keepBuffered c b).perform b) s).cores = s.cores := State.foldl_keeps _ (fun s => s.cores) (fun s _ => by simp) l s
@[simp] theorem State.drained_dev (s : State) (c : Nat) (l : List StoreByte) : (l.foldl (fun s b => (s.keepBuffered c b).perform b) s).dev = s.dev := State.foldl_keeps _ (fun s => s.dev) (fun s _ => by simp) l s
@[simp] theorem State.drained_bankOld (s : State) (c : Nat) (l : List StoreByte) : (l.foldl (fun s b => (s.keepBuffered c b).perform b) s).bankOld = s.bankOld := State.foldl_keeps _ (fun s => s.bankOld) (fun s _ => by simp) l s
@[simp] theorem State.drained_weights (s : State) (c : Nat) (l : List StoreByte) : (l.foldl (fun s b => (s.keepBuffered c b).perform b) s).weights = s.weights := State.foldl_keeps _ (fun s => s.weights) (fun s _ => by simp) l s
@[simp] theorem State.drained_semaphores (s : State) (c : Nat) (l : List StoreByte) : (l.foldl (fun s b => (s.keepBuffered c b).perform b) s).semaphores = s.semaphores := State.foldl_keeps _ (fun s => s.semaphores) (fun s _ => by simp) l s
@[simp] theorem State.drained_bankErr (s : State) (c : Nat) (l : List StoreByte) : (l.foldl (fun s b => (s.keepBuffered c b).perform b) s).bankErr = s.bankErr := State.foldl_keeps _ (fun s => s.bankErr) (fun s _ => by simp) l s
@[simp] theorem State.drained_rounds (s : State) (c : Nat) (l : List StoreByte) : (l.foldl (fun s b => (s.keepBuffered c b).perform b) s).rounds = s.rounds := State.foldl_keeps _ (fun s => s.rounds) (fun s _ => by simp) l s
@[simp] theorem State.drained_bankCmds (s : State) (c : Nat) (l : List StoreByte) : (l.foldl (fun s b => (s.keepBuffered c b).perform b) s).bankCmds = s.bankCmds := State.foldl_keeps _ (fun s => s.bankCmds) (fun s _ => by simp) l s
@[simp] theorem State.drained_ops (s : State) (c : Nat) (l : List StoreByte) : (l.foldl (fun s b => (s.keepBuffered c b).perform b) s).ops = s.ops := State.foldl_keeps _ (fun s => s.ops) (fun s _ => by simp) l s
@[simp] theorem State.drained_scStores (s : State) (c : Nat) (l : List StoreByte) : (l.foldl (fun s b => (s.keepBuffered c b).perform b) s).scStores = s.scStores := State.foldl_keeps _ (fun s => s.scStores) (fun s _ => by simp) l s
@[simp] theorem State.drained_atomics (s : State) (c : Nat) (l : List StoreByte) : (l.foldl (fun s b => (s.keepBuffered c b).perform b) s).atomics = s.atomics := State.foldl_keeps _ (fun s => s.atomics) (fun s _ => by simp) l s
@[simp] theorem State.drained_dieTlbs (s : State) (c : Nat) (l : List StoreByte) : (l.foldl (fun s b => (s.keepBuffered c b).perform b) s).dieTlbs = s.dieTlbs := State.foldl_keeps _ (fun s => s.dieTlbs) (fun s _ => by simp) l s
@[simp] theorem State.drained_shoots (s : State) (c : Nat) (l : List StoreByte) : (l.foldl (fun s b => (s.keepBuffered c b).perform b) s).shoots = s.shoots := State.foldl_keeps _ (fun s => s.shoots) (fun s _ => by simp) l s
@[simp] theorem State.drained_staging (s : State) (c : Nat) (l : List StoreByte) : (l.foldl (fun s b => (s.keepBuffered c b).perform b) s).staging = s.staging := State.foldl_keeps _ (fun s => s.staging) (fun s _ => by simp) l s
@[simp] theorem State.drained_slotsBusy (s : State) (c : Nat) (l : List StoreByte) : (l.foldl (fun s b => (s.keepBuffered c b).perform b) s).slotsBusy = s.slotsBusy := State.foldl_keeps _ (fun s => s.slotsBusy) (fun s _ => by simp) l s
@[simp] theorem State.drained_inbox (s : State) (c : Nat) (l : List StoreByte) : (l.foldl (fun s b => (s.keepBuffered c b).perform b) s).inbox = s.inbox := State.foldl_keeps _ (fun s => s.inbox) (fun s _ => by simp) l s
@[simp] theorem State.drained_nextKey (s : State) (c : Nat) (l : List StoreByte) : (l.foldl (fun s b => (s.keepBuffered c b).perform b) s).nextKey = s.nextKey := State.foldl_keeps _ (fun s => s.nextKey) (fun s _ => by simp) l s
@[simp] theorem State.drained_tick (s : State) (c : Nat) (l : List StoreByte) : (l.foldl (fun s b => (s.keepBuffered c b).perform b) s).tick = s.tick := State.foldl_keeps _ (fun s => s.tick) (fun s _ => by simp) l s
@[simp] theorem State.performAll_team (s : State) (l : List StoreByte) : (l.foldl State.perform s).team = s.team := State.foldl_keeps _ (fun s => s.team) (fun s _ => State.perform_team s _) l s
@[simp] theorem State.performAll_crew (s : State) (l : List StoreByte) : (l.foldl State.perform s).crew = s.crew := State.foldl_keeps _ (fun s => s.crew) (fun s _ => State.perform_crew s _) l s
@[simp] theorem State.performAll_ctx (s : State) (l : List StoreByte) : (l.foldl State.perform s).ctx = s.ctx := State.foldl_keeps _ (fun s => s.ctx) (fun s _ => State.perform_ctx s _) l s
@[simp] theorem State.performAll_teams (s : State) (l : List StoreByte) : (l.foldl State.perform s).teams = s.teams := State.foldl_keeps _ (fun s => s.teams) (fun s _ => State.perform_teams s _) l s
@[simp] theorem State.performAll_crews (s : State) (l : List StoreByte) : (l.foldl State.perform s).crews = s.crews := State.foldl_keeps _ (fun s => s.crews) (fun s _ => State.perform_crews s _) l s
@[simp] theorem State.performAll_ctxs (s : State) (l : List StoreByte) : (l.foldl State.perform s).ctxs = s.ctxs := State.foldl_keeps _ (fun s => s.ctxs) (fun s _ => State.perform_ctxs s _) l s
@[simp] theorem State.performAll_cores (s : State) (l : List StoreByte) : (l.foldl State.perform s).cores = s.cores := State.foldl_keeps _ (fun s => s.cores) (fun s _ => State.perform_cores s _) l s
@[simp] theorem State.performAll_dev (s : State) (l : List StoreByte) : (l.foldl State.perform s).dev = s.dev := State.foldl_keeps _ (fun s => s.dev) (fun s _ => State.perform_dev s _) l s
@[simp] theorem State.performAll_bankOld (s : State) (l : List StoreByte) : (l.foldl State.perform s).bankOld = s.bankOld := State.foldl_keeps _ (fun s => s.bankOld) (fun s _ => State.perform_bankOld s _) l s
@[simp] theorem State.performAll_weights (s : State) (l : List StoreByte) : (l.foldl State.perform s).weights = s.weights := State.foldl_keeps _ (fun s => s.weights) (fun s _ => State.perform_weights s _) l s
@[simp] theorem State.performAll_semaphores (s : State) (l : List StoreByte) : (l.foldl State.perform s).semaphores = s.semaphores := State.foldl_keeps _ (fun s => s.semaphores) (fun s _ => State.perform_semaphores s _) l s
@[simp] theorem State.performAll_bankErr (s : State) (l : List StoreByte) : (l.foldl State.perform s).bankErr = s.bankErr := State.foldl_keeps _ (fun s => s.bankErr) (fun s _ => State.perform_bankErr s _) l s
@[simp] theorem State.performAll_rounds (s : State) (l : List StoreByte) : (l.foldl State.perform s).rounds = s.rounds := State.foldl_keeps _ (fun s => s.rounds) (fun s _ => State.perform_rounds s _) l s
@[simp] theorem State.performAll_bankCmds (s : State) (l : List StoreByte) : (l.foldl State.perform s).bankCmds = s.bankCmds := State.foldl_keeps _ (fun s => s.bankCmds) (fun s _ => State.perform_bankCmds s _) l s
@[simp] theorem State.performAll_ops (s : State) (l : List StoreByte) : (l.foldl State.perform s).ops = s.ops := State.foldl_keeps _ (fun s => s.ops) (fun s _ => State.perform_ops s _) l s
@[simp] theorem State.performAll_scStores (s : State) (l : List StoreByte) : (l.foldl State.perform s).scStores = s.scStores := State.foldl_keeps _ (fun s => s.scStores) (fun s _ => State.perform_scStores s _) l s
@[simp] theorem State.performAll_atomics (s : State) (l : List StoreByte) : (l.foldl State.perform s).atomics = s.atomics := State.foldl_keeps _ (fun s => s.atomics) (fun s _ => State.perform_atomics s _) l s
@[simp] theorem State.performAll_dieTlbs (s : State) (l : List StoreByte) : (l.foldl State.perform s).dieTlbs = s.dieTlbs := State.foldl_keeps _ (fun s => s.dieTlbs) (fun s _ => State.perform_dieTlbs s _) l s
@[simp] theorem State.performAll_shoots (s : State) (l : List StoreByte) : (l.foldl State.perform s).shoots = s.shoots := State.foldl_keeps _ (fun s => s.shoots) (fun s _ => State.perform_shoots s _) l s
@[simp] theorem State.performAll_staging (s : State) (l : List StoreByte) : (l.foldl State.perform s).staging = s.staging := State.foldl_keeps _ (fun s => s.staging) (fun s _ => State.perform_staging s _) l s
@[simp] theorem State.performAll_slotsBusy (s : State) (l : List StoreByte) : (l.foldl State.perform s).slotsBusy = s.slotsBusy := State.foldl_keeps _ (fun s => s.slotsBusy) (fun s _ => State.perform_slotsBusy s _) l s
@[simp] theorem State.performAll_inbox (s : State) (l : List StoreByte) : (l.foldl State.perform s).inbox = s.inbox := State.foldl_keeps _ (fun s => s.inbox) (fun s _ => State.perform_inbox s _) l s
@[simp] theorem State.performAll_nextKey (s : State) (l : List StoreByte) : (l.foldl State.perform s).nextKey = s.nextKey := State.foldl_keeps _ (fun s => s.nextKey) (fun s _ => State.perform_nextKey s _) l s
@[simp] theorem State.performAll_tick (s : State) (l : List StoreByte) : (l.foldl State.perform s).tick = s.tick := State.foldl_keeps _ (fun s => s.tick) (fun s _ => State.perform_tick s _) l s
@[simp] theorem State.writeThrough_team (s : State) (l : Loc) (n v : Nat) : (s.writeThrough l n v).team = s.team := by simp [State.writeThrough]
@[simp] theorem State.writeThrough_crew (s : State) (l : Loc) (n v : Nat) : (s.writeThrough l n v).crew = s.crew := by simp [State.writeThrough]
@[simp] theorem State.writeThrough_ctx (s : State) (l : Loc) (n v : Nat) : (s.writeThrough l n v).ctx = s.ctx := by simp [State.writeThrough]
@[simp] theorem State.writeThrough_teams (s : State) (l : Loc) (n v : Nat) : (s.writeThrough l n v).teams = s.teams := by simp [State.writeThrough]
@[simp] theorem State.writeThrough_crews (s : State) (l : Loc) (n v : Nat) : (s.writeThrough l n v).crews = s.crews := by simp [State.writeThrough]
@[simp] theorem State.writeThrough_ctxs (s : State) (l : Loc) (n v : Nat) : (s.writeThrough l n v).ctxs = s.ctxs := by simp [State.writeThrough]
@[simp] theorem State.writeThrough_cores (s : State) (l : Loc) (n v : Nat) : (s.writeThrough l n v).cores = s.cores := by simp [State.writeThrough]
@[simp] theorem State.writeThrough_dev (s : State) (l : Loc) (n v : Nat) : (s.writeThrough l n v).dev = s.dev := by simp [State.writeThrough]
@[simp] theorem State.writeThrough_bankOld (s : State) (l : Loc) (n v : Nat) : (s.writeThrough l n v).bankOld = s.bankOld := by simp [State.writeThrough]
@[simp] theorem State.writeThrough_weights (s : State) (l : Loc) (n v : Nat) : (s.writeThrough l n v).weights = s.weights := by simp [State.writeThrough]
@[simp] theorem State.writeThrough_semaphores (s : State) (l : Loc) (n v : Nat) : (s.writeThrough l n v).semaphores = s.semaphores := by simp [State.writeThrough]
@[simp] theorem State.writeThrough_bankErr (s : State) (l : Loc) (n v : Nat) : (s.writeThrough l n v).bankErr = s.bankErr := by simp [State.writeThrough]
@[simp] theorem State.writeThrough_rounds (s : State) (l : Loc) (n v : Nat) : (s.writeThrough l n v).rounds = s.rounds := by simp [State.writeThrough]
@[simp] theorem State.writeThrough_bankCmds (s : State) (l : Loc) (n v : Nat) : (s.writeThrough l n v).bankCmds = s.bankCmds := by simp [State.writeThrough]
@[simp] theorem State.writeThrough_ops (s : State) (l : Loc) (n v : Nat) : (s.writeThrough l n v).ops = s.ops := by simp [State.writeThrough]
@[simp] theorem State.writeThrough_scStores (s : State) (l : Loc) (n v : Nat) : (s.writeThrough l n v).scStores = s.scStores := by simp [State.writeThrough]
@[simp] theorem State.writeThrough_atomics (s : State) (l : Loc) (n v : Nat) : (s.writeThrough l n v).atomics = s.atomics := by simp [State.writeThrough]
@[simp] theorem State.writeThrough_dieTlbs (s : State) (l : Loc) (n v : Nat) : (s.writeThrough l n v).dieTlbs = s.dieTlbs := by simp [State.writeThrough]
@[simp] theorem State.writeThrough_shoots (s : State) (l : Loc) (n v : Nat) : (s.writeThrough l n v).shoots = s.shoots := by simp [State.writeThrough]
@[simp] theorem State.writeThrough_staging (s : State) (l : Loc) (n v : Nat) : (s.writeThrough l n v).staging = s.staging := by simp [State.writeThrough]
@[simp] theorem State.writeThrough_slotsBusy (s : State) (l : Loc) (n v : Nat) : (s.writeThrough l n v).slotsBusy = s.slotsBusy := by simp [State.writeThrough]
@[simp] theorem State.writeThrough_inbox (s : State) (l : Loc) (n v : Nat) : (s.writeThrough l n v).inbox = s.inbox := by simp [State.writeThrough]
@[simp] theorem State.writeThrough_nextKey (s : State) (l : Loc) (n v : Nat) : (s.writeThrough l n v).nextKey = s.nextKey := by simp [State.writeThrough]
@[simp] theorem State.writeThrough_tick (s : State) (l : Loc) (n v : Nat) : (s.writeThrough l n v).tick = s.tick := by simp [State.writeThrough]

/-! ## Cores -/

@[simp] theorem State.modCore_team (s : State) (c : Nat) (f : CoreState → CoreState) : (s.modCore c f).team = s.team := rfl
@[simp] theorem State.modCore_crew (s : State) (c : Nat) (f : CoreState → CoreState) : (s.modCore c f).crew = s.crew := rfl
@[simp] theorem State.modCore_ctx (s : State) (c : Nat) (f : CoreState → CoreState) : (s.modCore c f).ctx = s.ctx := rfl
@[simp] theorem State.modCore_teams (s : State) (c : Nat) (f : CoreState → CoreState) : (s.modCore c f).teams = s.teams := rfl
@[simp] theorem State.modCore_crews (s : State) (c : Nat) (f : CoreState → CoreState) : (s.modCore c f).crews = s.crews := rfl
@[simp] theorem State.modCore_ctxs (s : State) (c : Nat) (f : CoreState → CoreState) : (s.modCore c f).ctxs = s.ctxs := rfl
@[simp] theorem State.modCore_dev (s : State) (c : Nat) (f : CoreState → CoreState) : (s.modCore c f).dev = s.dev := rfl
@[simp] theorem State.modCore_mem (s : State) (c : Nat) (f : CoreState → CoreState) : (s.modCore c f).mem = s.mem := rfl
@[simp] theorem State.modCore_openMem (s : State) (c : Nat) (f : CoreState → CoreState) : (s.modCore c f).openMem = s.openMem := rfl
@[simp] theorem State.modCore_bankOld (s : State) (c : Nat) (f : CoreState → CoreState) : (s.modCore c f).bankOld = s.bankOld := rfl
@[simp] theorem State.modCore_weights (s : State) (c : Nat) (f : CoreState → CoreState) : (s.modCore c f).weights = s.weights := rfl
@[simp] theorem State.modCore_semaphores (s : State) (c : Nat) (f : CoreState → CoreState) : (s.modCore c f).semaphores = s.semaphores := rfl
@[simp] theorem State.modCore_bankErr (s : State) (c : Nat) (f : CoreState → CoreState) : (s.modCore c f).bankErr = s.bankErr := rfl
@[simp] theorem State.modCore_rounds (s : State) (c : Nat) (f : CoreState → CoreState) : (s.modCore c f).rounds = s.rounds := rfl
@[simp] theorem State.modCore_bankCmds (s : State) (c : Nat) (f : CoreState → CoreState) : (s.modCore c f).bankCmds = s.bankCmds := rfl
@[simp] theorem State.modCore_ops (s : State) (c : Nat) (f : CoreState → CoreState) : (s.modCore c f).ops = s.ops := rfl
@[simp] theorem State.modCore_scStores (s : State) (c : Nat) (f : CoreState → CoreState) : (s.modCore c f).scStores = s.scStores := rfl
@[simp] theorem State.modCore_atomics (s : State) (c : Nat) (f : CoreState → CoreState) : (s.modCore c f).atomics = s.atomics := rfl
@[simp] theorem State.modCore_dieTlbs (s : State) (c : Nat) (f : CoreState → CoreState) : (s.modCore c f).dieTlbs = s.dieTlbs := rfl
@[simp] theorem State.modCore_shoots (s : State) (c : Nat) (f : CoreState → CoreState) : (s.modCore c f).shoots = s.shoots := rfl
@[simp] theorem State.modCore_staging (s : State) (c : Nat) (f : CoreState → CoreState) : (s.modCore c f).staging = s.staging := rfl
@[simp] theorem State.modCore_wrote (s : State) (c : Nat) (f : CoreState → CoreState) : (s.modCore c f).wrote = s.wrote := rfl
@[simp] theorem State.modCore_past (s : State) (c : Nat) (f : CoreState → CoreState) : (s.modCore c f).past = s.past := rfl
@[simp] theorem State.modCore_slotsBusy (s : State) (c : Nat) (f : CoreState → CoreState) : (s.modCore c f).slotsBusy = s.slotsBusy := rfl
@[simp] theorem State.modCore_inbox (s : State) (c : Nat) (f : CoreState → CoreState) : (s.modCore c f).inbox = s.inbox := rfl
@[simp] theorem State.modCore_nextKey (s : State) (c : Nat) (f : CoreState → CoreState) : (s.modCore c f).nextKey = s.nextKey := rfl
@[simp] theorem State.modCore_tick (s : State) (c : Nat) (f : CoreState → CoreState) : (s.modCore c f).tick = s.tick := rfl
@[simp] theorem State.drainLine_team (s : State) (c l : Nat) : (s.drainLine c l).team = s.team := by simp [State.drainLine]
@[simp] theorem State.drainLine_crew (s : State) (c l : Nat) : (s.drainLine c l).crew = s.crew := by simp [State.drainLine]
@[simp] theorem State.drainLine_ctx (s : State) (c l : Nat) : (s.drainLine c l).ctx = s.ctx := by simp [State.drainLine]
@[simp] theorem State.drainLine_teams (s : State) (c l : Nat) : (s.drainLine c l).teams = s.teams := by simp [State.drainLine]
@[simp] theorem State.drainLine_crews (s : State) (c l : Nat) : (s.drainLine c l).crews = s.crews := by simp [State.drainLine]
@[simp] theorem State.drainLine_ctxs (s : State) (c l : Nat) : (s.drainLine c l).ctxs = s.ctxs := by simp [State.drainLine]
@[simp] theorem State.drainLine_dev (s : State) (c l : Nat) : (s.drainLine c l).dev = s.dev := by simp [State.drainLine]
@[simp] theorem State.drainLine_bankOld (s : State) (c l : Nat) : (s.drainLine c l).bankOld = s.bankOld := by simp [State.drainLine]
@[simp] theorem State.drainLine_weights (s : State) (c l : Nat) : (s.drainLine c l).weights = s.weights := by simp [State.drainLine]
@[simp] theorem State.drainLine_semaphores (s : State) (c l : Nat) : (s.drainLine c l).semaphores = s.semaphores := by simp [State.drainLine]
@[simp] theorem State.drainLine_bankErr (s : State) (c l : Nat) : (s.drainLine c l).bankErr = s.bankErr := by simp [State.drainLine]
@[simp] theorem State.drainLine_rounds (s : State) (c l : Nat) : (s.drainLine c l).rounds = s.rounds := by simp [State.drainLine]
@[simp] theorem State.drainLine_bankCmds (s : State) (c l : Nat) : (s.drainLine c l).bankCmds = s.bankCmds := by simp [State.drainLine]
@[simp] theorem State.drainLine_ops (s : State) (c l : Nat) : (s.drainLine c l).ops = s.ops := by simp [State.drainLine]
@[simp] theorem State.drainLine_scStores (s : State) (c l : Nat) : (s.drainLine c l).scStores = s.scStores := by simp [State.drainLine]
@[simp] theorem State.drainLine_atomics (s : State) (c l : Nat) : (s.drainLine c l).atomics = s.atomics := by simp [State.drainLine]
@[simp] theorem State.drainLine_dieTlbs (s : State) (c l : Nat) : (s.drainLine c l).dieTlbs = s.dieTlbs := by simp [State.drainLine]
@[simp] theorem State.drainLine_shoots (s : State) (c l : Nat) : (s.drainLine c l).shoots = s.shoots := by simp [State.drainLine]
@[simp] theorem State.drainLine_staging (s : State) (c l : Nat) : (s.drainLine c l).staging = s.staging := by simp [State.drainLine]
@[simp] theorem State.drainLine_slotsBusy (s : State) (c l : Nat) : (s.drainLine c l).slotsBusy = s.slotsBusy := by simp [State.drainLine]
@[simp] theorem State.drainLine_inbox (s : State) (c l : Nat) : (s.drainLine c l).inbox = s.inbox := by simp [State.drainLine]
@[simp] theorem State.drainLine_nextKey (s : State) (c l : Nat) : (s.drainLine c l).nextKey = s.nextKey := by simp [State.drainLine]
@[simp] theorem State.drainLine_tick (s : State) (c l : Nat) : (s.drainLine c l).tick = s.tick := by simp [State.drainLine]
@[simp] theorem State.drainAll_team (s : State) (c : Nat) : (s.drainAll c).team = s.team := by simp [State.drainAll]
@[simp] theorem State.drainAll_crew (s : State) (c : Nat) : (s.drainAll c).crew = s.crew := by simp [State.drainAll]
@[simp] theorem State.drainAll_ctx (s : State) (c : Nat) : (s.drainAll c).ctx = s.ctx := by simp [State.drainAll]
@[simp] theorem State.drainAll_teams (s : State) (c : Nat) : (s.drainAll c).teams = s.teams := by simp [State.drainAll]
@[simp] theorem State.drainAll_crews (s : State) (c : Nat) : (s.drainAll c).crews = s.crews := by simp [State.drainAll]
@[simp] theorem State.drainAll_ctxs (s : State) (c : Nat) : (s.drainAll c).ctxs = s.ctxs := by simp [State.drainAll]
@[simp] theorem State.drainAll_dev (s : State) (c : Nat) : (s.drainAll c).dev = s.dev := by simp [State.drainAll]
@[simp] theorem State.drainAll_bankOld (s : State) (c : Nat) : (s.drainAll c).bankOld = s.bankOld := by simp [State.drainAll]
@[simp] theorem State.drainAll_weights (s : State) (c : Nat) : (s.drainAll c).weights = s.weights := by simp [State.drainAll]
@[simp] theorem State.drainAll_semaphores (s : State) (c : Nat) : (s.drainAll c).semaphores = s.semaphores := by simp [State.drainAll]
@[simp] theorem State.drainAll_bankErr (s : State) (c : Nat) : (s.drainAll c).bankErr = s.bankErr := by simp [State.drainAll]
@[simp] theorem State.drainAll_rounds (s : State) (c : Nat) : (s.drainAll c).rounds = s.rounds := by simp [State.drainAll]
@[simp] theorem State.drainAll_bankCmds (s : State) (c : Nat) : (s.drainAll c).bankCmds = s.bankCmds := by simp [State.drainAll]
@[simp] theorem State.drainAll_ops (s : State) (c : Nat) : (s.drainAll c).ops = s.ops := by simp [State.drainAll]
@[simp] theorem State.drainAll_scStores (s : State) (c : Nat) : (s.drainAll c).scStores = s.scStores := by simp [State.drainAll]
@[simp] theorem State.drainAll_atomics (s : State) (c : Nat) : (s.drainAll c).atomics = s.atomics := by simp [State.drainAll]
@[simp] theorem State.drainAll_dieTlbs (s : State) (c : Nat) : (s.drainAll c).dieTlbs = s.dieTlbs := by simp [State.drainAll]
@[simp] theorem State.drainAll_shoots (s : State) (c : Nat) : (s.drainAll c).shoots = s.shoots := by simp [State.drainAll]
@[simp] theorem State.drainAll_staging (s : State) (c : Nat) : (s.drainAll c).staging = s.staging := by simp [State.drainAll]
@[simp] theorem State.drainAll_slotsBusy (s : State) (c : Nat) : (s.drainAll c).slotsBusy = s.slotsBusy := by simp [State.drainAll]
@[simp] theorem State.drainAll_inbox (s : State) (c : Nat) : (s.drainAll c).inbox = s.inbox := by simp [State.drainAll]
@[simp] theorem State.drainAll_nextKey (s : State) (c : Nat) : (s.drainAll c).nextKey = s.nextKey := by simp [State.drainAll]
@[simp] theorem State.drainAll_tick (s : State) (c : Nat) : (s.drainAll c).tick = s.tick := by simp [State.drainAll]
@[simp] theorem State.drainWith_team (s : State) (c : Nat) (p : StoreByte → Bool) : (s.drainWith c p).team = s.team := State.foldl_keeps _ (fun s => s.team) (fun s _ => State.drainLine_team s _ _) _ s
@[simp] theorem State.drainWith_crew (s : State) (c : Nat) (p : StoreByte → Bool) : (s.drainWith c p).crew = s.crew := State.foldl_keeps _ (fun s => s.crew) (fun s _ => State.drainLine_crew s _ _) _ s
@[simp] theorem State.drainWith_ctx (s : State) (c : Nat) (p : StoreByte → Bool) : (s.drainWith c p).ctx = s.ctx := State.foldl_keeps _ (fun s => s.ctx) (fun s _ => State.drainLine_ctx s _ _) _ s
@[simp] theorem State.drainWith_teams (s : State) (c : Nat) (p : StoreByte → Bool) : (s.drainWith c p).teams = s.teams := State.foldl_keeps _ (fun s => s.teams) (fun s _ => State.drainLine_teams s _ _) _ s
@[simp] theorem State.drainWith_crews (s : State) (c : Nat) (p : StoreByte → Bool) : (s.drainWith c p).crews = s.crews := State.foldl_keeps _ (fun s => s.crews) (fun s _ => State.drainLine_crews s _ _) _ s
@[simp] theorem State.drainWith_ctxs (s : State) (c : Nat) (p : StoreByte → Bool) : (s.drainWith c p).ctxs = s.ctxs := State.foldl_keeps _ (fun s => s.ctxs) (fun s _ => State.drainLine_ctxs s _ _) _ s
@[simp] theorem State.drainWith_dev (s : State) (c : Nat) (p : StoreByte → Bool) : (s.drainWith c p).dev = s.dev := State.foldl_keeps _ (fun s => s.dev) (fun s _ => State.drainLine_dev s _ _) _ s
@[simp] theorem State.drainWith_bankOld (s : State) (c : Nat) (p : StoreByte → Bool) : (s.drainWith c p).bankOld = s.bankOld := State.foldl_keeps _ (fun s => s.bankOld) (fun s _ => State.drainLine_bankOld s _ _) _ s
@[simp] theorem State.drainWith_weights (s : State) (c : Nat) (p : StoreByte → Bool) : (s.drainWith c p).weights = s.weights := State.foldl_keeps _ (fun s => s.weights) (fun s _ => State.drainLine_weights s _ _) _ s
@[simp] theorem State.drainWith_semaphores (s : State) (c : Nat) (p : StoreByte → Bool) : (s.drainWith c p).semaphores = s.semaphores := State.foldl_keeps _ (fun s => s.semaphores) (fun s _ => State.drainLine_semaphores s _ _) _ s
@[simp] theorem State.drainWith_bankErr (s : State) (c : Nat) (p : StoreByte → Bool) : (s.drainWith c p).bankErr = s.bankErr := State.foldl_keeps _ (fun s => s.bankErr) (fun s _ => State.drainLine_bankErr s _ _) _ s
@[simp] theorem State.drainWith_rounds (s : State) (c : Nat) (p : StoreByte → Bool) : (s.drainWith c p).rounds = s.rounds := State.foldl_keeps _ (fun s => s.rounds) (fun s _ => State.drainLine_rounds s _ _) _ s
@[simp] theorem State.drainWith_bankCmds (s : State) (c : Nat) (p : StoreByte → Bool) : (s.drainWith c p).bankCmds = s.bankCmds := State.foldl_keeps _ (fun s => s.bankCmds) (fun s _ => State.drainLine_bankCmds s _ _) _ s
@[simp] theorem State.drainWith_ops (s : State) (c : Nat) (p : StoreByte → Bool) : (s.drainWith c p).ops = s.ops := State.foldl_keeps _ (fun s => s.ops) (fun s _ => State.drainLine_ops s _ _) _ s
@[simp] theorem State.drainWith_scStores (s : State) (c : Nat) (p : StoreByte → Bool) : (s.drainWith c p).scStores = s.scStores := State.foldl_keeps _ (fun s => s.scStores) (fun s _ => State.drainLine_scStores s _ _) _ s
@[simp] theorem State.drainWith_atomics (s : State) (c : Nat) (p : StoreByte → Bool) : (s.drainWith c p).atomics = s.atomics := State.foldl_keeps _ (fun s => s.atomics) (fun s _ => State.drainLine_atomics s _ _) _ s
@[simp] theorem State.drainWith_dieTlbs (s : State) (c : Nat) (p : StoreByte → Bool) : (s.drainWith c p).dieTlbs = s.dieTlbs := State.foldl_keeps _ (fun s => s.dieTlbs) (fun s _ => State.drainLine_dieTlbs s _ _) _ s
@[simp] theorem State.drainWith_shoots (s : State) (c : Nat) (p : StoreByte → Bool) : (s.drainWith c p).shoots = s.shoots := State.foldl_keeps _ (fun s => s.shoots) (fun s _ => State.drainLine_shoots s _ _) _ s
@[simp] theorem State.drainWith_staging (s : State) (c : Nat) (p : StoreByte → Bool) : (s.drainWith c p).staging = s.staging := State.foldl_keeps _ (fun s => s.staging) (fun s _ => State.drainLine_staging s _ _) _ s
@[simp] theorem State.drainWith_slotsBusy (s : State) (c : Nat) (p : StoreByte → Bool) : (s.drainWith c p).slotsBusy = s.slotsBusy := State.foldl_keeps _ (fun s => s.slotsBusy) (fun s _ => State.drainLine_slotsBusy s _ _) _ s
@[simp] theorem State.drainWith_inbox (s : State) (c : Nat) (p : StoreByte → Bool) : (s.drainWith c p).inbox = s.inbox := State.foldl_keeps _ (fun s => s.inbox) (fun s _ => State.drainLine_inbox s _ _) _ s
@[simp] theorem State.drainWith_nextKey (s : State) (c : Nat) (p : StoreByte → Bool) : (s.drainWith c p).nextKey = s.nextKey := State.foldl_keeps _ (fun s => s.nextKey) (fun s _ => State.drainLine_nextKey s _ _) _ s
@[simp] theorem State.drainWith_tick (s : State) (c : Nat) (p : StoreByte → Bool) : (s.drainWith c p).tick = s.tick := State.foldl_keeps _ (fun s => s.tick) (fun s _ => State.drainLine_tick s _ _) _ s
@[simp] theorem State.drainTeam_team (s : State)  : (s.drainTeam).team = s.team := State.foldl_keeps _ (fun s => s.team) (fun s _ => State.drainWith_team s _ _) _ s
@[simp] theorem State.drainTeam_crew (s : State)  : (s.drainTeam).crew = s.crew := State.foldl_keeps _ (fun s => s.crew) (fun s _ => State.drainWith_crew s _ _) _ s
@[simp] theorem State.drainTeam_ctx (s : State)  : (s.drainTeam).ctx = s.ctx := State.foldl_keeps _ (fun s => s.ctx) (fun s _ => State.drainWith_ctx s _ _) _ s
@[simp] theorem State.drainTeam_teams (s : State)  : (s.drainTeam).teams = s.teams := State.foldl_keeps _ (fun s => s.teams) (fun s _ => State.drainWith_teams s _ _) _ s
@[simp] theorem State.drainTeam_crews (s : State)  : (s.drainTeam).crews = s.crews := State.foldl_keeps _ (fun s => s.crews) (fun s _ => State.drainWith_crews s _ _) _ s
@[simp] theorem State.drainTeam_ctxs (s : State)  : (s.drainTeam).ctxs = s.ctxs := State.foldl_keeps _ (fun s => s.ctxs) (fun s _ => State.drainWith_ctxs s _ _) _ s
@[simp] theorem State.drainTeam_dev (s : State)  : (s.drainTeam).dev = s.dev := State.foldl_keeps _ (fun s => s.dev) (fun s _ => State.drainWith_dev s _ _) _ s
@[simp] theorem State.drainTeam_bankOld (s : State)  : (s.drainTeam).bankOld = s.bankOld := State.foldl_keeps _ (fun s => s.bankOld) (fun s _ => State.drainWith_bankOld s _ _) _ s
@[simp] theorem State.drainTeam_weights (s : State)  : (s.drainTeam).weights = s.weights := State.foldl_keeps _ (fun s => s.weights) (fun s _ => State.drainWith_weights s _ _) _ s
@[simp] theorem State.drainTeam_semaphores (s : State)  : (s.drainTeam).semaphores = s.semaphores := State.foldl_keeps _ (fun s => s.semaphores) (fun s _ => State.drainWith_semaphores s _ _) _ s
@[simp] theorem State.drainTeam_bankErr (s : State)  : (s.drainTeam).bankErr = s.bankErr := State.foldl_keeps _ (fun s => s.bankErr) (fun s _ => State.drainWith_bankErr s _ _) _ s
@[simp] theorem State.drainTeam_rounds (s : State)  : (s.drainTeam).rounds = s.rounds := State.foldl_keeps _ (fun s => s.rounds) (fun s _ => State.drainWith_rounds s _ _) _ s
@[simp] theorem State.drainTeam_bankCmds (s : State)  : (s.drainTeam).bankCmds = s.bankCmds := State.foldl_keeps _ (fun s => s.bankCmds) (fun s _ => State.drainWith_bankCmds s _ _) _ s
@[simp] theorem State.drainTeam_ops (s : State)  : (s.drainTeam).ops = s.ops := State.foldl_keeps _ (fun s => s.ops) (fun s _ => State.drainWith_ops s _ _) _ s
@[simp] theorem State.drainTeam_scStores (s : State)  : (s.drainTeam).scStores = s.scStores := State.foldl_keeps _ (fun s => s.scStores) (fun s _ => State.drainWith_scStores s _ _) _ s
@[simp] theorem State.drainTeam_atomics (s : State)  : (s.drainTeam).atomics = s.atomics := State.foldl_keeps _ (fun s => s.atomics) (fun s _ => State.drainWith_atomics s _ _) _ s
@[simp] theorem State.drainTeam_dieTlbs (s : State)  : (s.drainTeam).dieTlbs = s.dieTlbs := State.foldl_keeps _ (fun s => s.dieTlbs) (fun s _ => State.drainWith_dieTlbs s _ _) _ s
@[simp] theorem State.drainTeam_shoots (s : State)  : (s.drainTeam).shoots = s.shoots := State.foldl_keeps _ (fun s => s.shoots) (fun s _ => State.drainWith_shoots s _ _) _ s
@[simp] theorem State.drainTeam_staging (s : State)  : (s.drainTeam).staging = s.staging := State.foldl_keeps _ (fun s => s.staging) (fun s _ => State.drainWith_staging s _ _) _ s
@[simp] theorem State.drainTeam_slotsBusy (s : State)  : (s.drainTeam).slotsBusy = s.slotsBusy := State.foldl_keeps _ (fun s => s.slotsBusy) (fun s _ => State.drainWith_slotsBusy s _ _) _ s
@[simp] theorem State.drainTeam_inbox (s : State)  : (s.drainTeam).inbox = s.inbox := State.foldl_keeps _ (fun s => s.inbox) (fun s _ => State.drainWith_inbox s _ _) _ s
@[simp] theorem State.drainTeam_nextKey (s : State)  : (s.drainTeam).nextKey = s.nextKey := State.foldl_keeps _ (fun s => s.nextKey) (fun s _ => State.drainWith_nextKey s _ _) _ s
@[simp] theorem State.drainTeam_tick (s : State)  : (s.drainTeam).tick = s.tick := State.foldl_keeps _ (fun s => s.tick) (fun s _ => State.drainWith_tick s _ _) _ s
@[simp] theorem State.drainSeen_team (s : State)  : (s.drainSeen).team = s.team := State.foldl_keeps _ (fun s => s.team) (fun s _ => State.drainWith_team s _ _) _ s
@[simp] theorem State.drainSeen_crew (s : State)  : (s.drainSeen).crew = s.crew := State.foldl_keeps _ (fun s => s.crew) (fun s _ => State.drainWith_crew s _ _) _ s
@[simp] theorem State.drainSeen_ctx (s : State)  : (s.drainSeen).ctx = s.ctx := State.foldl_keeps _ (fun s => s.ctx) (fun s _ => State.drainWith_ctx s _ _) _ s
@[simp] theorem State.drainSeen_teams (s : State)  : (s.drainSeen).teams = s.teams := State.foldl_keeps _ (fun s => s.teams) (fun s _ => State.drainWith_teams s _ _) _ s
@[simp] theorem State.drainSeen_crews (s : State)  : (s.drainSeen).crews = s.crews := State.foldl_keeps _ (fun s => s.crews) (fun s _ => State.drainWith_crews s _ _) _ s
@[simp] theorem State.drainSeen_ctxs (s : State)  : (s.drainSeen).ctxs = s.ctxs := State.foldl_keeps _ (fun s => s.ctxs) (fun s _ => State.drainWith_ctxs s _ _) _ s
@[simp] theorem State.drainSeen_dev (s : State)  : (s.drainSeen).dev = s.dev := State.foldl_keeps _ (fun s => s.dev) (fun s _ => State.drainWith_dev s _ _) _ s
@[simp] theorem State.drainSeen_bankOld (s : State)  : (s.drainSeen).bankOld = s.bankOld := State.foldl_keeps _ (fun s => s.bankOld) (fun s _ => State.drainWith_bankOld s _ _) _ s
@[simp] theorem State.drainSeen_weights (s : State)  : (s.drainSeen).weights = s.weights := State.foldl_keeps _ (fun s => s.weights) (fun s _ => State.drainWith_weights s _ _) _ s
@[simp] theorem State.drainSeen_semaphores (s : State)  : (s.drainSeen).semaphores = s.semaphores := State.foldl_keeps _ (fun s => s.semaphores) (fun s _ => State.drainWith_semaphores s _ _) _ s
@[simp] theorem State.drainSeen_bankErr (s : State)  : (s.drainSeen).bankErr = s.bankErr := State.foldl_keeps _ (fun s => s.bankErr) (fun s _ => State.drainWith_bankErr s _ _) _ s
@[simp] theorem State.drainSeen_rounds (s : State)  : (s.drainSeen).rounds = s.rounds := State.foldl_keeps _ (fun s => s.rounds) (fun s _ => State.drainWith_rounds s _ _) _ s
@[simp] theorem State.drainSeen_bankCmds (s : State)  : (s.drainSeen).bankCmds = s.bankCmds := State.foldl_keeps _ (fun s => s.bankCmds) (fun s _ => State.drainWith_bankCmds s _ _) _ s
@[simp] theorem State.drainSeen_ops (s : State)  : (s.drainSeen).ops = s.ops := State.foldl_keeps _ (fun s => s.ops) (fun s _ => State.drainWith_ops s _ _) _ s
@[simp] theorem State.drainSeen_scStores (s : State)  : (s.drainSeen).scStores = s.scStores := State.foldl_keeps _ (fun s => s.scStores) (fun s _ => State.drainWith_scStores s _ _) _ s
@[simp] theorem State.drainSeen_atomics (s : State)  : (s.drainSeen).atomics = s.atomics := State.foldl_keeps _ (fun s => s.atomics) (fun s _ => State.drainWith_atomics s _ _) _ s
@[simp] theorem State.drainSeen_dieTlbs (s : State)  : (s.drainSeen).dieTlbs = s.dieTlbs := State.foldl_keeps _ (fun s => s.dieTlbs) (fun s _ => State.drainWith_dieTlbs s _ _) _ s
@[simp] theorem State.drainSeen_shoots (s : State)  : (s.drainSeen).shoots = s.shoots := State.foldl_keeps _ (fun s => s.shoots) (fun s _ => State.drainWith_shoots s _ _) _ s
@[simp] theorem State.drainSeen_staging (s : State)  : (s.drainSeen).staging = s.staging := State.foldl_keeps _ (fun s => s.staging) (fun s _ => State.drainWith_staging s _ _) _ s
@[simp] theorem State.drainSeen_slotsBusy (s : State)  : (s.drainSeen).slotsBusy = s.slotsBusy := State.foldl_keeps _ (fun s => s.slotsBusy) (fun s _ => State.drainWith_slotsBusy s _ _) _ s
@[simp] theorem State.drainSeen_inbox (s : State)  : (s.drainSeen).inbox = s.inbox := State.foldl_keeps _ (fun s => s.inbox) (fun s _ => State.drainWith_inbox s _ _) _ s
@[simp] theorem State.drainSeen_nextKey (s : State)  : (s.drainSeen).nextKey = s.nextKey := State.foldl_keeps _ (fun s => s.nextKey) (fun s _ => State.drainWith_nextKey s _ _) _ s
@[simp] theorem State.drainSeen_tick (s : State)  : (s.drainSeen).tick = s.tick := State.foldl_keeps _ (fun s => s.tick) (fun s _ => State.drainWith_tick s _ _) _ s
@[simp] theorem State.seeBytes_team (s : State) (c : Nat) (ts : List Nat) (p : StoreByte → Bool) : (s.seeBytes c ts p).team = s.team := by unfold State.seeBytes; split <;> simp
@[simp] theorem State.seeBytes_crew (s : State) (c : Nat) (ts : List Nat) (p : StoreByte → Bool) : (s.seeBytes c ts p).crew = s.crew := by unfold State.seeBytes; split <;> simp
@[simp] theorem State.seeBytes_ctx (s : State) (c : Nat) (ts : List Nat) (p : StoreByte → Bool) : (s.seeBytes c ts p).ctx = s.ctx := by unfold State.seeBytes; split <;> simp
@[simp] theorem State.seeBytes_teams (s : State) (c : Nat) (ts : List Nat) (p : StoreByte → Bool) : (s.seeBytes c ts p).teams = s.teams := by unfold State.seeBytes; split <;> simp
@[simp] theorem State.seeBytes_crews (s : State) (c : Nat) (ts : List Nat) (p : StoreByte → Bool) : (s.seeBytes c ts p).crews = s.crews := by unfold State.seeBytes; split <;> simp
@[simp] theorem State.seeBytes_ctxs (s : State) (c : Nat) (ts : List Nat) (p : StoreByte → Bool) : (s.seeBytes c ts p).ctxs = s.ctxs := by unfold State.seeBytes; split <;> simp
@[simp] theorem State.seeBytes_dev (s : State) (c : Nat) (ts : List Nat) (p : StoreByte → Bool) : (s.seeBytes c ts p).dev = s.dev := by unfold State.seeBytes; split <;> simp
@[simp] theorem State.seeBytes_mem (s : State) (c : Nat) (ts : List Nat) (p : StoreByte → Bool) : (s.seeBytes c ts p).mem = s.mem := by unfold State.seeBytes; split <;> simp
@[simp] theorem State.seeBytes_openMem (s : State) (c : Nat) (ts : List Nat) (p : StoreByte → Bool) : (s.seeBytes c ts p).openMem = s.openMem := by unfold State.seeBytes; split <;> simp
@[simp] theorem State.seeBytes_bankOld (s : State) (c : Nat) (ts : List Nat) (p : StoreByte → Bool) : (s.seeBytes c ts p).bankOld = s.bankOld := by unfold State.seeBytes; split <;> simp
@[simp] theorem State.seeBytes_weights (s : State) (c : Nat) (ts : List Nat) (p : StoreByte → Bool) : (s.seeBytes c ts p).weights = s.weights := by unfold State.seeBytes; split <;> simp
@[simp] theorem State.seeBytes_semaphores (s : State) (c : Nat) (ts : List Nat) (p : StoreByte → Bool) : (s.seeBytes c ts p).semaphores = s.semaphores := by unfold State.seeBytes; split <;> simp
@[simp] theorem State.seeBytes_bankErr (s : State) (c : Nat) (ts : List Nat) (p : StoreByte → Bool) : (s.seeBytes c ts p).bankErr = s.bankErr := by unfold State.seeBytes; split <;> simp
@[simp] theorem State.seeBytes_rounds (s : State) (c : Nat) (ts : List Nat) (p : StoreByte → Bool) : (s.seeBytes c ts p).rounds = s.rounds := by unfold State.seeBytes; split <;> simp
@[simp] theorem State.seeBytes_bankCmds (s : State) (c : Nat) (ts : List Nat) (p : StoreByte → Bool) : (s.seeBytes c ts p).bankCmds = s.bankCmds := by unfold State.seeBytes; split <;> simp
@[simp] theorem State.seeBytes_ops (s : State) (c : Nat) (ts : List Nat) (p : StoreByte → Bool) : (s.seeBytes c ts p).ops = s.ops := by unfold State.seeBytes; split <;> simp
@[simp] theorem State.seeBytes_scStores (s : State) (c : Nat) (ts : List Nat) (p : StoreByte → Bool) : (s.seeBytes c ts p).scStores = s.scStores := by unfold State.seeBytes; split <;> simp
@[simp] theorem State.seeBytes_atomics (s : State) (c : Nat) (ts : List Nat) (p : StoreByte → Bool) : (s.seeBytes c ts p).atomics = s.atomics := by unfold State.seeBytes; split <;> simp
@[simp] theorem State.seeBytes_dieTlbs (s : State) (c : Nat) (ts : List Nat) (p : StoreByte → Bool) : (s.seeBytes c ts p).dieTlbs = s.dieTlbs := by unfold State.seeBytes; split <;> simp
@[simp] theorem State.seeBytes_shoots (s : State) (c : Nat) (ts : List Nat) (p : StoreByte → Bool) : (s.seeBytes c ts p).shoots = s.shoots := by unfold State.seeBytes; split <;> simp
@[simp] theorem State.seeBytes_staging (s : State) (c : Nat) (ts : List Nat) (p : StoreByte → Bool) : (s.seeBytes c ts p).staging = s.staging := by unfold State.seeBytes; split <;> simp
@[simp] theorem State.seeBytes_wrote (s : State) (c : Nat) (ts : List Nat) (p : StoreByte → Bool) : (s.seeBytes c ts p).wrote = s.wrote := by unfold State.seeBytes; split <;> simp
@[simp] theorem State.seeBytes_past (s : State) (c : Nat) (ts : List Nat) (p : StoreByte → Bool) : (s.seeBytes c ts p).past = s.past := by unfold State.seeBytes; split <;> simp
@[simp] theorem State.seeBytes_slotsBusy (s : State) (c : Nat) (ts : List Nat) (p : StoreByte → Bool) : (s.seeBytes c ts p).slotsBusy = s.slotsBusy := by unfold State.seeBytes; split <;> simp
@[simp] theorem State.seeBytes_inbox (s : State) (c : Nat) (ts : List Nat) (p : StoreByte → Bool) : (s.seeBytes c ts p).inbox = s.inbox := by unfold State.seeBytes; split <;> simp
@[simp] theorem State.seeBytes_nextKey (s : State) (c : Nat) (ts : List Nat) (p : StoreByte → Bool) : (s.seeBytes c ts p).nextKey = s.nextKey := by unfold State.seeBytes; split <;> simp
@[simp] theorem State.seeBytes_tick (s : State) (c : Nat) (ts : List Nat) (p : StoreByte → Bool) : (s.seeBytes c ts p).tick = s.tick := by unfold State.seeBytes; split <;> simp
@[simp] theorem State.dropL1_team (s : State) (c a : Nat) : (s.dropL1 c a).team = s.team := rfl
@[simp] theorem State.dropL1_crew (s : State) (c a : Nat) : (s.dropL1 c a).crew = s.crew := rfl
@[simp] theorem State.dropL1_ctx (s : State) (c a : Nat) : (s.dropL1 c a).ctx = s.ctx := rfl
@[simp] theorem State.dropL1_teams (s : State) (c a : Nat) : (s.dropL1 c a).teams = s.teams := rfl
@[simp] theorem State.dropL1_crews (s : State) (c a : Nat) : (s.dropL1 c a).crews = s.crews := rfl
@[simp] theorem State.dropL1_ctxs (s : State) (c a : Nat) : (s.dropL1 c a).ctxs = s.ctxs := rfl
@[simp] theorem State.dropL1_dev (s : State) (c a : Nat) : (s.dropL1 c a).dev = s.dev := rfl
@[simp] theorem State.dropL1_mem (s : State) (c a : Nat) : (s.dropL1 c a).mem = s.mem := rfl
@[simp] theorem State.dropL1_openMem (s : State) (c a : Nat) : (s.dropL1 c a).openMem = s.openMem := rfl
@[simp] theorem State.dropL1_bankOld (s : State) (c a : Nat) : (s.dropL1 c a).bankOld = s.bankOld := rfl
@[simp] theorem State.dropL1_weights (s : State) (c a : Nat) : (s.dropL1 c a).weights = s.weights := rfl
@[simp] theorem State.dropL1_semaphores (s : State) (c a : Nat) : (s.dropL1 c a).semaphores = s.semaphores := rfl
@[simp] theorem State.dropL1_bankErr (s : State) (c a : Nat) : (s.dropL1 c a).bankErr = s.bankErr := rfl
@[simp] theorem State.dropL1_rounds (s : State) (c a : Nat) : (s.dropL1 c a).rounds = s.rounds := rfl
@[simp] theorem State.dropL1_bankCmds (s : State) (c a : Nat) : (s.dropL1 c a).bankCmds = s.bankCmds := rfl
@[simp] theorem State.dropL1_ops (s : State) (c a : Nat) : (s.dropL1 c a).ops = s.ops := rfl
@[simp] theorem State.dropL1_scStores (s : State) (c a : Nat) : (s.dropL1 c a).scStores = s.scStores := rfl
@[simp] theorem State.dropL1_atomics (s : State) (c a : Nat) : (s.dropL1 c a).atomics = s.atomics := rfl
@[simp] theorem State.dropL1_dieTlbs (s : State) (c a : Nat) : (s.dropL1 c a).dieTlbs = s.dieTlbs := rfl
@[simp] theorem State.dropL1_shoots (s : State) (c a : Nat) : (s.dropL1 c a).shoots = s.shoots := rfl
@[simp] theorem State.dropL1_staging (s : State) (c a : Nat) : (s.dropL1 c a).staging = s.staging := rfl
@[simp] theorem State.dropL1_wrote (s : State) (c a : Nat) : (s.dropL1 c a).wrote = s.wrote := rfl
@[simp] theorem State.dropL1_past (s : State) (c a : Nat) : (s.dropL1 c a).past = s.past := rfl
@[simp] theorem State.dropL1_slotsBusy (s : State) (c a : Nat) : (s.dropL1 c a).slotsBusy = s.slotsBusy := rfl
@[simp] theorem State.dropL1_inbox (s : State) (c a : Nat) : (s.dropL1 c a).inbox = s.inbox := rfl
@[simp] theorem State.dropL1_nextKey (s : State) (c a : Nat) : (s.dropL1 c a).nextKey = s.nextKey := rfl
@[simp] theorem State.dropL1_tick (s : State) (c a : Nat) : (s.dropL1 c a).tick = s.tick := rfl
@[simp] theorem State.barL1_team (s : State) (c t a : Nat) : (s.barL1 c t a).team = s.team := rfl
@[simp] theorem State.barL1_crew (s : State) (c t a : Nat) : (s.barL1 c t a).crew = s.crew := rfl
@[simp] theorem State.barL1_ctx (s : State) (c t a : Nat) : (s.barL1 c t a).ctx = s.ctx := rfl
@[simp] theorem State.barL1_teams (s : State) (c t a : Nat) : (s.barL1 c t a).teams = s.teams := rfl
@[simp] theorem State.barL1_crews (s : State) (c t a : Nat) : (s.barL1 c t a).crews = s.crews := rfl
@[simp] theorem State.barL1_ctxs (s : State) (c t a : Nat) : (s.barL1 c t a).ctxs = s.ctxs := rfl
@[simp] theorem State.barL1_dev (s : State) (c t a : Nat) : (s.barL1 c t a).dev = s.dev := rfl
@[simp] theorem State.barL1_mem (s : State) (c t a : Nat) : (s.barL1 c t a).mem = s.mem := rfl
@[simp] theorem State.barL1_openMem (s : State) (c t a : Nat) : (s.barL1 c t a).openMem = s.openMem := rfl
@[simp] theorem State.barL1_bankOld (s : State) (c t a : Nat) : (s.barL1 c t a).bankOld = s.bankOld := rfl
@[simp] theorem State.barL1_weights (s : State) (c t a : Nat) : (s.barL1 c t a).weights = s.weights := rfl
@[simp] theorem State.barL1_semaphores (s : State) (c t a : Nat) : (s.barL1 c t a).semaphores = s.semaphores := rfl
@[simp] theorem State.barL1_bankErr (s : State) (c t a : Nat) : (s.barL1 c t a).bankErr = s.bankErr := rfl
@[simp] theorem State.barL1_rounds (s : State) (c t a : Nat) : (s.barL1 c t a).rounds = s.rounds := rfl
@[simp] theorem State.barL1_bankCmds (s : State) (c t a : Nat) : (s.barL1 c t a).bankCmds = s.bankCmds := rfl
@[simp] theorem State.barL1_ops (s : State) (c t a : Nat) : (s.barL1 c t a).ops = s.ops := rfl
@[simp] theorem State.barL1_scStores (s : State) (c t a : Nat) : (s.barL1 c t a).scStores = s.scStores := rfl
@[simp] theorem State.barL1_atomics (s : State) (c t a : Nat) : (s.barL1 c t a).atomics = s.atomics := rfl
@[simp] theorem State.barL1_dieTlbs (s : State) (c t a : Nat) : (s.barL1 c t a).dieTlbs = s.dieTlbs := rfl
@[simp] theorem State.barL1_shoots (s : State) (c t a : Nat) : (s.barL1 c t a).shoots = s.shoots := rfl
@[simp] theorem State.barL1_staging (s : State) (c t a : Nat) : (s.barL1 c t a).staging = s.staging := rfl
@[simp] theorem State.barL1_wrote (s : State) (c t a : Nat) : (s.barL1 c t a).wrote = s.wrote := rfl
@[simp] theorem State.barL1_past (s : State) (c t a : Nat) : (s.barL1 c t a).past = s.past := rfl
@[simp] theorem State.barL1_slotsBusy (s : State) (c t a : Nat) : (s.barL1 c t a).slotsBusy = s.slotsBusy := rfl
@[simp] theorem State.barL1_inbox (s : State) (c t a : Nat) : (s.barL1 c t a).inbox = s.inbox := rfl
@[simp] theorem State.barL1_nextKey (s : State) (c t a : Nat) : (s.barL1 c t a).nextKey = s.nextKey := rfl
@[simp] theorem State.barL1_tick (s : State) (c t a : Nat) : (s.barL1 c t a).tick = s.tick := rfl
@[simp] theorem State.barAcross_team (s : State) (t c a : Nat) : (s.barAcross t c a).team = s.team := by unfold State.barAcross; split; exacts [State.foldl_keeps _ (fun s => s.team) (fun s _ => State.barL1_team s _ _ _) _ s, rfl]
@[simp] theorem State.barAcross_crew (s : State) (t c a : Nat) : (s.barAcross t c a).crew = s.crew := by unfold State.barAcross; split; exacts [State.foldl_keeps _ (fun s => s.crew) (fun s _ => State.barL1_crew s _ _ _) _ s, rfl]
@[simp] theorem State.barAcross_ctx (s : State) (t c a : Nat) : (s.barAcross t c a).ctx = s.ctx := by unfold State.barAcross; split; exacts [State.foldl_keeps _ (fun s => s.ctx) (fun s _ => State.barL1_ctx s _ _ _) _ s, rfl]
@[simp] theorem State.barAcross_teams (s : State) (t c a : Nat) : (s.barAcross t c a).teams = s.teams := by unfold State.barAcross; split; exacts [State.foldl_keeps _ (fun s => s.teams) (fun s _ => State.barL1_teams s _ _ _) _ s, rfl]
@[simp] theorem State.barAcross_crews (s : State) (t c a : Nat) : (s.barAcross t c a).crews = s.crews := by unfold State.barAcross; split; exacts [State.foldl_keeps _ (fun s => s.crews) (fun s _ => State.barL1_crews s _ _ _) _ s, rfl]
@[simp] theorem State.barAcross_ctxs (s : State) (t c a : Nat) : (s.barAcross t c a).ctxs = s.ctxs := by unfold State.barAcross; split; exacts [State.foldl_keeps _ (fun s => s.ctxs) (fun s _ => State.barL1_ctxs s _ _ _) _ s, rfl]
@[simp] theorem State.barAcross_dev (s : State) (t c a : Nat) : (s.barAcross t c a).dev = s.dev := by unfold State.barAcross; split; exacts [State.foldl_keeps _ (fun s => s.dev) (fun s _ => State.barL1_dev s _ _ _) _ s, rfl]
@[simp] theorem State.barAcross_mem (s : State) (t c a : Nat) : (s.barAcross t c a).mem = s.mem := by unfold State.barAcross; split; exacts [State.foldl_keeps _ (fun s => s.mem) (fun s _ => State.barL1_mem s _ _ _) _ s, rfl]
@[simp] theorem State.barAcross_openMem (s : State) (t c a : Nat) : (s.barAcross t c a).openMem = s.openMem := by unfold State.barAcross; split; exacts [State.foldl_keeps _ (fun s => s.openMem) (fun s _ => State.barL1_openMem s _ _ _) _ s, rfl]
@[simp] theorem State.barAcross_bankOld (s : State) (t c a : Nat) : (s.barAcross t c a).bankOld = s.bankOld := by unfold State.barAcross; split; exacts [State.foldl_keeps _ (fun s => s.bankOld) (fun s _ => State.barL1_bankOld s _ _ _) _ s, rfl]
@[simp] theorem State.barAcross_weights (s : State) (t c a : Nat) : (s.barAcross t c a).weights = s.weights := by unfold State.barAcross; split; exacts [State.foldl_keeps _ (fun s => s.weights) (fun s _ => State.barL1_weights s _ _ _) _ s, rfl]
@[simp] theorem State.barAcross_semaphores (s : State) (t c a : Nat) : (s.barAcross t c a).semaphores = s.semaphores := by unfold State.barAcross; split; exacts [State.foldl_keeps _ (fun s => s.semaphores) (fun s _ => State.barL1_semaphores s _ _ _) _ s, rfl]
@[simp] theorem State.barAcross_bankErr (s : State) (t c a : Nat) : (s.barAcross t c a).bankErr = s.bankErr := by unfold State.barAcross; split; exacts [State.foldl_keeps _ (fun s => s.bankErr) (fun s _ => State.barL1_bankErr s _ _ _) _ s, rfl]
@[simp] theorem State.barAcross_rounds (s : State) (t c a : Nat) : (s.barAcross t c a).rounds = s.rounds := by unfold State.barAcross; split; exacts [State.foldl_keeps _ (fun s => s.rounds) (fun s _ => State.barL1_rounds s _ _ _) _ s, rfl]
@[simp] theorem State.barAcross_bankCmds (s : State) (t c a : Nat) : (s.barAcross t c a).bankCmds = s.bankCmds := by unfold State.barAcross; split; exacts [State.foldl_keeps _ (fun s => s.bankCmds) (fun s _ => State.barL1_bankCmds s _ _ _) _ s, rfl]
@[simp] theorem State.barAcross_ops (s : State) (t c a : Nat) : (s.barAcross t c a).ops = s.ops := by unfold State.barAcross; split; exacts [State.foldl_keeps _ (fun s => s.ops) (fun s _ => State.barL1_ops s _ _ _) _ s, rfl]
@[simp] theorem State.barAcross_scStores (s : State) (t c a : Nat) : (s.barAcross t c a).scStores = s.scStores := by unfold State.barAcross; split; exacts [State.foldl_keeps _ (fun s => s.scStores) (fun s _ => State.barL1_scStores s _ _ _) _ s, rfl]
@[simp] theorem State.barAcross_atomics (s : State) (t c a : Nat) : (s.barAcross t c a).atomics = s.atomics := by unfold State.barAcross; split; exacts [State.foldl_keeps _ (fun s => s.atomics) (fun s _ => State.barL1_atomics s _ _ _) _ s, rfl]
@[simp] theorem State.barAcross_dieTlbs (s : State) (t c a : Nat) : (s.barAcross t c a).dieTlbs = s.dieTlbs := by unfold State.barAcross; split; exacts [State.foldl_keeps _ (fun s => s.dieTlbs) (fun s _ => State.barL1_dieTlbs s _ _ _) _ s, rfl]
@[simp] theorem State.barAcross_shoots (s : State) (t c a : Nat) : (s.barAcross t c a).shoots = s.shoots := by unfold State.barAcross; split; exacts [State.foldl_keeps _ (fun s => s.shoots) (fun s _ => State.barL1_shoots s _ _ _) _ s, rfl]
@[simp] theorem State.barAcross_staging (s : State) (t c a : Nat) : (s.barAcross t c a).staging = s.staging := by unfold State.barAcross; split; exacts [State.foldl_keeps _ (fun s => s.staging) (fun s _ => State.barL1_staging s _ _ _) _ s, rfl]
@[simp] theorem State.barAcross_wrote (s : State) (t c a : Nat) : (s.barAcross t c a).wrote = s.wrote := by unfold State.barAcross; split; exacts [State.foldl_keeps _ (fun s => s.wrote) (fun s _ => State.barL1_wrote s _ _ _) _ s, rfl]
@[simp] theorem State.barAcross_past (s : State) (t c a : Nat) : (s.barAcross t c a).past = s.past := by unfold State.barAcross; split; exacts [State.foldl_keeps _ (fun s => s.past) (fun s _ => State.barL1_past s _ _ _) _ s, rfl]
@[simp] theorem State.barAcross_slotsBusy (s : State) (t c a : Nat) : (s.barAcross t c a).slotsBusy = s.slotsBusy := by unfold State.barAcross; split; exacts [State.foldl_keeps _ (fun s => s.slotsBusy) (fun s _ => State.barL1_slotsBusy s _ _ _) _ s, rfl]
@[simp] theorem State.barAcross_inbox (s : State) (t c a : Nat) : (s.barAcross t c a).inbox = s.inbox := by unfold State.barAcross; split; exacts [State.foldl_keeps _ (fun s => s.inbox) (fun s _ => State.barL1_inbox s _ _ _) _ s, rfl]
@[simp] theorem State.barAcross_nextKey (s : State) (t c a : Nat) : (s.barAcross t c a).nextKey = s.nextKey := by unfold State.barAcross; split; exacts [State.foldl_keeps _ (fun s => s.nextKey) (fun s _ => State.barL1_nextKey s _ _ _) _ s, rfl]
@[simp] theorem State.barAcross_tick (s : State) (t c a : Nat) : (s.barAcross t c a).tick = s.tick := by unfold State.barAcross; split; exacts [State.foldl_keeps _ (fun s => s.tick) (fun s _ => State.barL1_tick s _ _ _) _ s, rfl]
@[simp] theorem State.writeFrom_team (s : State) (t c : Nat) (l : Loc) (n v : Nat) : (s.writeFrom t c l n v).team = s.team := by simp [State.writeFrom]
@[simp] theorem State.writeFrom_crew (s : State) (t c : Nat) (l : Loc) (n v : Nat) : (s.writeFrom t c l n v).crew = s.crew := by simp [State.writeFrom]
@[simp] theorem State.writeFrom_ctx (s : State) (t c : Nat) (l : Loc) (n v : Nat) : (s.writeFrom t c l n v).ctx = s.ctx := by simp [State.writeFrom]
@[simp] theorem State.writeFrom_teams (s : State) (t c : Nat) (l : Loc) (n v : Nat) : (s.writeFrom t c l n v).teams = s.teams := by simp [State.writeFrom]
@[simp] theorem State.writeFrom_crews (s : State) (t c : Nat) (l : Loc) (n v : Nat) : (s.writeFrom t c l n v).crews = s.crews := by simp [State.writeFrom]
@[simp] theorem State.writeFrom_ctxs (s : State) (t c : Nat) (l : Loc) (n v : Nat) : (s.writeFrom t c l n v).ctxs = s.ctxs := by simp [State.writeFrom]
@[simp] theorem State.writeFrom_dev (s : State) (t c : Nat) (l : Loc) (n v : Nat) : (s.writeFrom t c l n v).dev = s.dev := by simp [State.writeFrom]
@[simp] theorem State.writeFrom_bankOld (s : State) (t c : Nat) (l : Loc) (n v : Nat) : (s.writeFrom t c l n v).bankOld = s.bankOld := by simp [State.writeFrom]
@[simp] theorem State.writeFrom_weights (s : State) (t c : Nat) (l : Loc) (n v : Nat) : (s.writeFrom t c l n v).weights = s.weights := by simp [State.writeFrom]
@[simp] theorem State.writeFrom_semaphores (s : State) (t c : Nat) (l : Loc) (n v : Nat) : (s.writeFrom t c l n v).semaphores = s.semaphores := by simp [State.writeFrom]
@[simp] theorem State.writeFrom_bankErr (s : State) (t c : Nat) (l : Loc) (n v : Nat) : (s.writeFrom t c l n v).bankErr = s.bankErr := by simp [State.writeFrom]
@[simp] theorem State.writeFrom_rounds (s : State) (t c : Nat) (l : Loc) (n v : Nat) : (s.writeFrom t c l n v).rounds = s.rounds := by simp [State.writeFrom]
@[simp] theorem State.writeFrom_bankCmds (s : State) (t c : Nat) (l : Loc) (n v : Nat) : (s.writeFrom t c l n v).bankCmds = s.bankCmds := by simp [State.writeFrom]
@[simp] theorem State.writeFrom_ops (s : State) (t c : Nat) (l : Loc) (n v : Nat) : (s.writeFrom t c l n v).ops = s.ops := by simp [State.writeFrom]
@[simp] theorem State.writeFrom_scStores (s : State) (t c : Nat) (l : Loc) (n v : Nat) : (s.writeFrom t c l n v).scStores = s.scStores := by simp [State.writeFrom]
@[simp] theorem State.writeFrom_atomics (s : State) (t c : Nat) (l : Loc) (n v : Nat) : (s.writeFrom t c l n v).atomics = s.atomics := by simp [State.writeFrom]
@[simp] theorem State.writeFrom_dieTlbs (s : State) (t c : Nat) (l : Loc) (n v : Nat) : (s.writeFrom t c l n v).dieTlbs = s.dieTlbs := by simp [State.writeFrom]
@[simp] theorem State.writeFrom_shoots (s : State) (t c : Nat) (l : Loc) (n v : Nat) : (s.writeFrom t c l n v).shoots = s.shoots := by simp [State.writeFrom]
@[simp] theorem State.writeFrom_staging (s : State) (t c : Nat) (l : Loc) (n v : Nat) : (s.writeFrom t c l n v).staging = s.staging := by simp [State.writeFrom]
@[simp] theorem State.writeFrom_slotsBusy (s : State) (t c : Nat) (l : Loc) (n v : Nat) : (s.writeFrom t c l n v).slotsBusy = s.slotsBusy := by simp [State.writeFrom]
@[simp] theorem State.writeFrom_inbox (s : State) (t c : Nat) (l : Loc) (n v : Nat) : (s.writeFrom t c l n v).inbox = s.inbox := by simp [State.writeFrom]
@[simp] theorem State.writeFrom_nextKey (s : State) (t c : Nat) (l : Loc) (n v : Nat) : (s.writeFrom t c l n v).nextKey = s.nextKey := by simp [State.writeFrom]
@[simp] theorem State.writeFrom_tick (s : State) (t c : Nat) (l : Loc) (n v : Nat) : (s.writeFrom t c l n v).tick = s.tick := by simp [State.writeFrom]
@[simp] theorem State.acrossPair_team (s : State) (c a : Nat) : (s.acrossPair c a).team = s.team := State.foldl_keeps _ (fun s => s.team) (fun s _ => by simp) _ s
@[simp] theorem State.acrossPair_crew (s : State) (c a : Nat) : (s.acrossPair c a).crew = s.crew := State.foldl_keeps _ (fun s => s.crew) (fun s _ => by simp) _ s
@[simp] theorem State.acrossPair_ctx (s : State) (c a : Nat) : (s.acrossPair c a).ctx = s.ctx := State.foldl_keeps _ (fun s => s.ctx) (fun s _ => by simp) _ s
@[simp] theorem State.acrossPair_teams (s : State) (c a : Nat) : (s.acrossPair c a).teams = s.teams := State.foldl_keeps _ (fun s => s.teams) (fun s _ => by simp) _ s
@[simp] theorem State.acrossPair_crews (s : State) (c a : Nat) : (s.acrossPair c a).crews = s.crews := State.foldl_keeps _ (fun s => s.crews) (fun s _ => by simp) _ s
@[simp] theorem State.acrossPair_ctxs (s : State) (c a : Nat) : (s.acrossPair c a).ctxs = s.ctxs := State.foldl_keeps _ (fun s => s.ctxs) (fun s _ => by simp) _ s
@[simp] theorem State.acrossPair_dev (s : State) (c a : Nat) : (s.acrossPair c a).dev = s.dev := State.foldl_keeps _ (fun s => s.dev) (fun s _ => by simp) _ s
@[simp] theorem State.acrossPair_bankOld (s : State) (c a : Nat) : (s.acrossPair c a).bankOld = s.bankOld := State.foldl_keeps _ (fun s => s.bankOld) (fun s _ => by simp) _ s
@[simp] theorem State.acrossPair_weights (s : State) (c a : Nat) : (s.acrossPair c a).weights = s.weights := State.foldl_keeps _ (fun s => s.weights) (fun s _ => by simp) _ s
@[simp] theorem State.acrossPair_semaphores (s : State) (c a : Nat) : (s.acrossPair c a).semaphores = s.semaphores := State.foldl_keeps _ (fun s => s.semaphores) (fun s _ => by simp) _ s
@[simp] theorem State.acrossPair_bankErr (s : State) (c a : Nat) : (s.acrossPair c a).bankErr = s.bankErr := State.foldl_keeps _ (fun s => s.bankErr) (fun s _ => by simp) _ s
@[simp] theorem State.acrossPair_rounds (s : State) (c a : Nat) : (s.acrossPair c a).rounds = s.rounds := State.foldl_keeps _ (fun s => s.rounds) (fun s _ => by simp) _ s
@[simp] theorem State.acrossPair_bankCmds (s : State) (c a : Nat) : (s.acrossPair c a).bankCmds = s.bankCmds := State.foldl_keeps _ (fun s => s.bankCmds) (fun s _ => by simp) _ s
@[simp] theorem State.acrossPair_ops (s : State) (c a : Nat) : (s.acrossPair c a).ops = s.ops := State.foldl_keeps _ (fun s => s.ops) (fun s _ => by simp) _ s
@[simp] theorem State.acrossPair_scStores (s : State) (c a : Nat) : (s.acrossPair c a).scStores = s.scStores := State.foldl_keeps _ (fun s => s.scStores) (fun s _ => by simp) _ s
@[simp] theorem State.acrossPair_atomics (s : State) (c a : Nat) : (s.acrossPair c a).atomics = s.atomics := State.foldl_keeps _ (fun s => s.atomics) (fun s _ => by simp) _ s
@[simp] theorem State.acrossPair_dieTlbs (s : State) (c a : Nat) : (s.acrossPair c a).dieTlbs = s.dieTlbs := State.foldl_keeps _ (fun s => s.dieTlbs) (fun s _ => by simp) _ s
@[simp] theorem State.acrossPair_shoots (s : State) (c a : Nat) : (s.acrossPair c a).shoots = s.shoots := State.foldl_keeps _ (fun s => s.shoots) (fun s _ => by simp) _ s
@[simp] theorem State.acrossPair_staging (s : State) (c a : Nat) : (s.acrossPair c a).staging = s.staging := State.foldl_keeps _ (fun s => s.staging) (fun s _ => by simp) _ s
@[simp] theorem State.acrossPair_slotsBusy (s : State) (c a : Nat) : (s.acrossPair c a).slotsBusy = s.slotsBusy := State.foldl_keeps _ (fun s => s.slotsBusy) (fun s _ => by simp) _ s
@[simp] theorem State.acrossPair_inbox (s : State) (c a : Nat) : (s.acrossPair c a).inbox = s.inbox := State.foldl_keeps _ (fun s => s.inbox) (fun s _ => by simp) _ s
@[simp] theorem State.acrossPair_nextKey (s : State) (c a : Nat) : (s.acrossPair c a).nextKey = s.nextKey := State.foldl_keeps _ (fun s => s.nextKey) (fun s _ => by simp) _ s
@[simp] theorem State.acrossPair_tick (s : State) (c a : Nat) : (s.acrossPair c a).tick = s.tick := State.foldl_keeps _ (fun s => s.tick) (fun s _ => by simp) _ s
@[simp] theorem State.bufferByte_team (s : State) (c : Nat) (b : StoreByte) : (s.bufferByte c b).team = s.team := by unfold State.bufferByte; dsimp only; split <;> split <;> simp
@[simp] theorem State.bufferByte_crew (s : State) (c : Nat) (b : StoreByte) : (s.bufferByte c b).crew = s.crew := by unfold State.bufferByte; dsimp only; split <;> split <;> simp
@[simp] theorem State.bufferByte_ctx (s : State) (c : Nat) (b : StoreByte) : (s.bufferByte c b).ctx = s.ctx := by unfold State.bufferByte; dsimp only; split <;> split <;> simp
@[simp] theorem State.bufferByte_teams (s : State) (c : Nat) (b : StoreByte) : (s.bufferByte c b).teams = s.teams := by unfold State.bufferByte; dsimp only; split <;> split <;> simp
@[simp] theorem State.bufferByte_crews (s : State) (c : Nat) (b : StoreByte) : (s.bufferByte c b).crews = s.crews := by unfold State.bufferByte; dsimp only; split <;> split <;> simp
@[simp] theorem State.bufferByte_ctxs (s : State) (c : Nat) (b : StoreByte) : (s.bufferByte c b).ctxs = s.ctxs := by unfold State.bufferByte; dsimp only; split <;> split <;> simp
@[simp] theorem State.bufferByte_dev (s : State) (c : Nat) (b : StoreByte) : (s.bufferByte c b).dev = s.dev := by unfold State.bufferByte; dsimp only; split <;> split <;> simp
@[simp] theorem State.bufferByte_bankOld (s : State) (c : Nat) (b : StoreByte) : (s.bufferByte c b).bankOld = s.bankOld := by unfold State.bufferByte; dsimp only; split <;> split <;> simp
@[simp] theorem State.bufferByte_weights (s : State) (c : Nat) (b : StoreByte) : (s.bufferByte c b).weights = s.weights := by unfold State.bufferByte; dsimp only; split <;> split <;> simp
@[simp] theorem State.bufferByte_semaphores (s : State) (c : Nat) (b : StoreByte) : (s.bufferByte c b).semaphores = s.semaphores := by unfold State.bufferByte; dsimp only; split <;> split <;> simp
@[simp] theorem State.bufferByte_bankErr (s : State) (c : Nat) (b : StoreByte) : (s.bufferByte c b).bankErr = s.bankErr := by unfold State.bufferByte; dsimp only; split <;> split <;> simp
@[simp] theorem State.bufferByte_rounds (s : State) (c : Nat) (b : StoreByte) : (s.bufferByte c b).rounds = s.rounds := by unfold State.bufferByte; dsimp only; split <;> split <;> simp
@[simp] theorem State.bufferByte_bankCmds (s : State) (c : Nat) (b : StoreByte) : (s.bufferByte c b).bankCmds = s.bankCmds := by unfold State.bufferByte; dsimp only; split <;> split <;> simp
@[simp] theorem State.bufferByte_ops (s : State) (c : Nat) (b : StoreByte) : (s.bufferByte c b).ops = s.ops := by unfold State.bufferByte; dsimp only; split <;> split <;> simp
@[simp] theorem State.bufferByte_scStores (s : State) (c : Nat) (b : StoreByte) : (s.bufferByte c b).scStores = s.scStores := by unfold State.bufferByte; dsimp only; split <;> split <;> simp
@[simp] theorem State.bufferByte_atomics (s : State) (c : Nat) (b : StoreByte) : (s.bufferByte c b).atomics = s.atomics := by unfold State.bufferByte; dsimp only; split <;> split <;> simp
@[simp] theorem State.bufferByte_dieTlbs (s : State) (c : Nat) (b : StoreByte) : (s.bufferByte c b).dieTlbs = s.dieTlbs := by unfold State.bufferByte; dsimp only; split <;> split <;> simp
@[simp] theorem State.bufferByte_shoots (s : State) (c : Nat) (b : StoreByte) : (s.bufferByte c b).shoots = s.shoots := by unfold State.bufferByte; dsimp only; split <;> split <;> simp
@[simp] theorem State.bufferByte_staging (s : State) (c : Nat) (b : StoreByte) : (s.bufferByte c b).staging = s.staging := by unfold State.bufferByte; dsimp only; split <;> split <;> simp
@[simp] theorem State.bufferByte_slotsBusy (s : State) (c : Nat) (b : StoreByte) : (s.bufferByte c b).slotsBusy = s.slotsBusy := by unfold State.bufferByte; dsimp only; split <;> split <;> simp
@[simp] theorem State.bufferByte_inbox (s : State) (c : Nat) (b : StoreByte) : (s.bufferByte c b).inbox = s.inbox := by unfold State.bufferByte; dsimp only; split <;> split <;> simp
@[simp] theorem State.bufferByte_nextKey (s : State) (c : Nat) (b : StoreByte) : (s.bufferByte c b).nextKey = s.nextKey := by unfold State.bufferByte; dsimp only; split <;> split <;> simp
@[simp] theorem State.bufferByte_tick (s : State) (c : Nat) (b : StoreByte) : (s.bufferByte c b).tick = s.tick := by unfold State.bufferByte; dsimp only; split <;> split <;> simp
@[simp] theorem State.bufferStore_team (s : State) (c : Nat) (l : Loc) (n v : Nat) : (s.bufferStore c l n v).team = s.team := State.foldl_keeps _ (fun s => s.team) (fun s _ => State.bufferByte_team s _ _) _ s
@[simp] theorem State.bufferStore_crew (s : State) (c : Nat) (l : Loc) (n v : Nat) : (s.bufferStore c l n v).crew = s.crew := State.foldl_keeps _ (fun s => s.crew) (fun s _ => State.bufferByte_crew s _ _) _ s
@[simp] theorem State.bufferStore_ctx (s : State) (c : Nat) (l : Loc) (n v : Nat) : (s.bufferStore c l n v).ctx = s.ctx := State.foldl_keeps _ (fun s => s.ctx) (fun s _ => State.bufferByte_ctx s _ _) _ s
@[simp] theorem State.bufferStore_teams (s : State) (c : Nat) (l : Loc) (n v : Nat) : (s.bufferStore c l n v).teams = s.teams := State.foldl_keeps _ (fun s => s.teams) (fun s _ => State.bufferByte_teams s _ _) _ s
@[simp] theorem State.bufferStore_crews (s : State) (c : Nat) (l : Loc) (n v : Nat) : (s.bufferStore c l n v).crews = s.crews := State.foldl_keeps _ (fun s => s.crews) (fun s _ => State.bufferByte_crews s _ _) _ s
@[simp] theorem State.bufferStore_ctxs (s : State) (c : Nat) (l : Loc) (n v : Nat) : (s.bufferStore c l n v).ctxs = s.ctxs := State.foldl_keeps _ (fun s => s.ctxs) (fun s _ => State.bufferByte_ctxs s _ _) _ s
@[simp] theorem State.bufferStore_dev (s : State) (c : Nat) (l : Loc) (n v : Nat) : (s.bufferStore c l n v).dev = s.dev := State.foldl_keeps _ (fun s => s.dev) (fun s _ => State.bufferByte_dev s _ _) _ s
@[simp] theorem State.bufferStore_bankOld (s : State) (c : Nat) (l : Loc) (n v : Nat) : (s.bufferStore c l n v).bankOld = s.bankOld := State.foldl_keeps _ (fun s => s.bankOld) (fun s _ => State.bufferByte_bankOld s _ _) _ s
@[simp] theorem State.bufferStore_weights (s : State) (c : Nat) (l : Loc) (n v : Nat) : (s.bufferStore c l n v).weights = s.weights := State.foldl_keeps _ (fun s => s.weights) (fun s _ => State.bufferByte_weights s _ _) _ s
@[simp] theorem State.bufferStore_semaphores (s : State) (c : Nat) (l : Loc) (n v : Nat) : (s.bufferStore c l n v).semaphores = s.semaphores := State.foldl_keeps _ (fun s => s.semaphores) (fun s _ => State.bufferByte_semaphores s _ _) _ s
@[simp] theorem State.bufferStore_bankErr (s : State) (c : Nat) (l : Loc) (n v : Nat) : (s.bufferStore c l n v).bankErr = s.bankErr := State.foldl_keeps _ (fun s => s.bankErr) (fun s _ => State.bufferByte_bankErr s _ _) _ s
@[simp] theorem State.bufferStore_rounds (s : State) (c : Nat) (l : Loc) (n v : Nat) : (s.bufferStore c l n v).rounds = s.rounds := State.foldl_keeps _ (fun s => s.rounds) (fun s _ => State.bufferByte_rounds s _ _) _ s
@[simp] theorem State.bufferStore_bankCmds (s : State) (c : Nat) (l : Loc) (n v : Nat) : (s.bufferStore c l n v).bankCmds = s.bankCmds := State.foldl_keeps _ (fun s => s.bankCmds) (fun s _ => State.bufferByte_bankCmds s _ _) _ s
@[simp] theorem State.bufferStore_ops (s : State) (c : Nat) (l : Loc) (n v : Nat) : (s.bufferStore c l n v).ops = s.ops := State.foldl_keeps _ (fun s => s.ops) (fun s _ => State.bufferByte_ops s _ _) _ s
@[simp] theorem State.bufferStore_scStores (s : State) (c : Nat) (l : Loc) (n v : Nat) : (s.bufferStore c l n v).scStores = s.scStores := State.foldl_keeps _ (fun s => s.scStores) (fun s _ => State.bufferByte_scStores s _ _) _ s
@[simp] theorem State.bufferStore_atomics (s : State) (c : Nat) (l : Loc) (n v : Nat) : (s.bufferStore c l n v).atomics = s.atomics := State.foldl_keeps _ (fun s => s.atomics) (fun s _ => State.bufferByte_atomics s _ _) _ s
@[simp] theorem State.bufferStore_dieTlbs (s : State) (c : Nat) (l : Loc) (n v : Nat) : (s.bufferStore c l n v).dieTlbs = s.dieTlbs := State.foldl_keeps _ (fun s => s.dieTlbs) (fun s _ => State.bufferByte_dieTlbs s _ _) _ s
@[simp] theorem State.bufferStore_shoots (s : State) (c : Nat) (l : Loc) (n v : Nat) : (s.bufferStore c l n v).shoots = s.shoots := State.foldl_keeps _ (fun s => s.shoots) (fun s _ => State.bufferByte_shoots s _ _) _ s
@[simp] theorem State.bufferStore_staging (s : State) (c : Nat) (l : Loc) (n v : Nat) : (s.bufferStore c l n v).staging = s.staging := State.foldl_keeps _ (fun s => s.staging) (fun s _ => State.bufferByte_staging s _ _) _ s
@[simp] theorem State.bufferStore_slotsBusy (s : State) (c : Nat) (l : Loc) (n v : Nat) : (s.bufferStore c l n v).slotsBusy = s.slotsBusy := State.foldl_keeps _ (fun s => s.slotsBusy) (fun s _ => State.bufferByte_slotsBusy s _ _) _ s
@[simp] theorem State.bufferStore_inbox (s : State) (c : Nat) (l : Loc) (n v : Nat) : (s.bufferStore c l n v).inbox = s.inbox := State.foldl_keeps _ (fun s => s.inbox) (fun s _ => State.bufferByte_inbox s _ _) _ s
@[simp] theorem State.bufferStore_nextKey (s : State) (c : Nat) (l : Loc) (n v : Nat) : (s.bufferStore c l n v).nextKey = s.nextKey := State.foldl_keeps _ (fun s => s.nextKey) (fun s _ => State.bufferByte_nextKey s _ _) _ s
@[simp] theorem State.bufferStore_tick (s : State) (c : Nat) (l : Loc) (n v : Nat) : (s.bufferStore c l n v).tick = s.tick := State.foldl_keeps _ (fun s => s.tick) (fun s _ => State.bufferByte_tick s _ _) _ s
@[simp] theorem State.reported_team (s : State) (p n : Nat) : (s.reported p n).team = s.team := by unfold State.reported; dsimp only; split <;> rfl
@[simp] theorem State.reported_crew (s : State) (p n : Nat) : (s.reported p n).crew = s.crew := by unfold State.reported; dsimp only; split <;> rfl
@[simp] theorem State.reported_ctx (s : State) (p n : Nat) : (s.reported p n).ctx = s.ctx := by unfold State.reported; dsimp only; split <;> rfl
@[simp] theorem State.reported_teams (s : State) (p n : Nat) : (s.reported p n).teams = s.teams := by unfold State.reported; dsimp only; split <;> rfl
@[simp] theorem State.reported_crews (s : State) (p n : Nat) : (s.reported p n).crews = s.crews := by unfold State.reported; dsimp only; split <;> rfl
@[simp] theorem State.reported_ctxs (s : State) (p n : Nat) : (s.reported p n).ctxs = s.ctxs := by unfold State.reported; dsimp only; split <;> rfl
@[simp] theorem State.reported_cores (s : State) (p n : Nat) : (s.reported p n).cores = s.cores := by unfold State.reported; dsimp only; split <;> rfl
@[simp] theorem State.reported_mem (s : State) (p n : Nat) : (s.reported p n).mem = s.mem := by unfold State.reported; dsimp only; split <;> rfl
@[simp] theorem State.reported_openMem (s : State) (p n : Nat) : (s.reported p n).openMem = s.openMem := by unfold State.reported; dsimp only; split <;> rfl
@[simp] theorem State.reported_bankOld (s : State) (p n : Nat) : (s.reported p n).bankOld = s.bankOld := by unfold State.reported; dsimp only; split <;> rfl
@[simp] theorem State.reported_weights (s : State) (p n : Nat) : (s.reported p n).weights = s.weights := by unfold State.reported; dsimp only; split <;> rfl
@[simp] theorem State.reported_semaphores (s : State) (p n : Nat) : (s.reported p n).semaphores = s.semaphores := by unfold State.reported; dsimp only; split <;> rfl
@[simp] theorem State.reported_bankErr (s : State) (p n : Nat) : (s.reported p n).bankErr = s.bankErr := by unfold State.reported; dsimp only; split <;> rfl
@[simp] theorem State.reported_rounds (s : State) (p n : Nat) : (s.reported p n).rounds = s.rounds := by unfold State.reported; dsimp only; split <;> rfl
@[simp] theorem State.reported_bankCmds (s : State) (p n : Nat) : (s.reported p n).bankCmds = s.bankCmds := by unfold State.reported; dsimp only; split <;> rfl
@[simp] theorem State.reported_ops (s : State) (p n : Nat) : (s.reported p n).ops = s.ops := by unfold State.reported; dsimp only; split <;> rfl
@[simp] theorem State.reported_scStores (s : State) (p n : Nat) : (s.reported p n).scStores = s.scStores := by unfold State.reported; dsimp only; split <;> rfl
@[simp] theorem State.reported_atomics (s : State) (p n : Nat) : (s.reported p n).atomics = s.atomics := by unfold State.reported; dsimp only; split <;> rfl
@[simp] theorem State.reported_dieTlbs (s : State) (p n : Nat) : (s.reported p n).dieTlbs = s.dieTlbs := by unfold State.reported; dsimp only; split <;> rfl
@[simp] theorem State.reported_shoots (s : State) (p n : Nat) : (s.reported p n).shoots = s.shoots := by unfold State.reported; dsimp only; split <;> rfl
@[simp] theorem State.reported_staging (s : State) (p n : Nat) : (s.reported p n).staging = s.staging := by unfold State.reported; dsimp only; split <;> rfl
@[simp] theorem State.reported_wrote (s : State) (p n : Nat) : (s.reported p n).wrote = s.wrote := by unfold State.reported; dsimp only; split <;> rfl
@[simp] theorem State.reported_past (s : State) (p n : Nat) : (s.reported p n).past = s.past := by unfold State.reported; dsimp only; split <;> rfl
@[simp] theorem State.reported_slotsBusy (s : State) (p n : Nat) : (s.reported p n).slotsBusy = s.slotsBusy := by unfold State.reported; dsimp only; split <;> rfl
@[simp] theorem State.reported_inbox (s : State) (p n : Nat) : (s.reported p n).inbox = s.inbox := by unfold State.reported; dsimp only; split <;> rfl
@[simp] theorem State.reported_nextKey (s : State) (p n : Nat) : (s.reported p n).nextKey = s.nextKey := by unfold State.reported; dsimp only; split <;> rfl
@[simp] theorem State.reported_tick (s : State) (p n : Nat) : (s.reported p n).tick = s.tick := by unfold State.reported; dsimp only; split <;> rfl
@[simp] theorem State.walked_team (s : State) (k : Context) (d va : Nat) : (s.walked k d va).team = s.team := by unfold State.walked; split; exacts [rfl, State.foldl_keeps _ (fun s => s.team) (fun s _ => State.reported_team s _ _) _ s]
@[simp] theorem State.walked_crew (s : State) (k : Context) (d va : Nat) : (s.walked k d va).crew = s.crew := by unfold State.walked; split; exacts [rfl, State.foldl_keeps _ (fun s => s.crew) (fun s _ => State.reported_crew s _ _) _ s]
@[simp] theorem State.walked_ctx (s : State) (k : Context) (d va : Nat) : (s.walked k d va).ctx = s.ctx := by unfold State.walked; split; exacts [rfl, State.foldl_keeps _ (fun s => s.ctx) (fun s _ => State.reported_ctx s _ _) _ s]
@[simp] theorem State.walked_teams (s : State) (k : Context) (d va : Nat) : (s.walked k d va).teams = s.teams := by unfold State.walked; split; exacts [rfl, State.foldl_keeps _ (fun s => s.teams) (fun s _ => State.reported_teams s _ _) _ s]
@[simp] theorem State.walked_crews (s : State) (k : Context) (d va : Nat) : (s.walked k d va).crews = s.crews := by unfold State.walked; split; exacts [rfl, State.foldl_keeps _ (fun s => s.crews) (fun s _ => State.reported_crews s _ _) _ s]
@[simp] theorem State.walked_ctxs (s : State) (k : Context) (d va : Nat) : (s.walked k d va).ctxs = s.ctxs := by unfold State.walked; split; exacts [rfl, State.foldl_keeps _ (fun s => s.ctxs) (fun s _ => State.reported_ctxs s _ _) _ s]
@[simp] theorem State.walked_cores (s : State) (k : Context) (d va : Nat) : (s.walked k d va).cores = s.cores := by unfold State.walked; split; exacts [rfl, State.foldl_keeps _ (fun s => s.cores) (fun s _ => State.reported_cores s _ _) _ s]
@[simp] theorem State.walked_mem (s : State) (k : Context) (d va : Nat) : (s.walked k d va).mem = s.mem := by unfold State.walked; split; exacts [rfl, State.foldl_keeps _ (fun s => s.mem) (fun s _ => State.reported_mem s _ _) _ s]
@[simp] theorem State.walked_openMem (s : State) (k : Context) (d va : Nat) : (s.walked k d va).openMem = s.openMem := by unfold State.walked; split; exacts [rfl, State.foldl_keeps _ (fun s => s.openMem) (fun s _ => State.reported_openMem s _ _) _ s]
@[simp] theorem State.walked_bankOld (s : State) (k : Context) (d va : Nat) : (s.walked k d va).bankOld = s.bankOld := by unfold State.walked; split; exacts [rfl, State.foldl_keeps _ (fun s => s.bankOld) (fun s _ => State.reported_bankOld s _ _) _ s]
@[simp] theorem State.walked_weights (s : State) (k : Context) (d va : Nat) : (s.walked k d va).weights = s.weights := by unfold State.walked; split; exacts [rfl, State.foldl_keeps _ (fun s => s.weights) (fun s _ => State.reported_weights s _ _) _ s]
@[simp] theorem State.walked_semaphores (s : State) (k : Context) (d va : Nat) : (s.walked k d va).semaphores = s.semaphores := by unfold State.walked; split; exacts [rfl, State.foldl_keeps _ (fun s => s.semaphores) (fun s _ => State.reported_semaphores s _ _) _ s]
@[simp] theorem State.walked_bankErr (s : State) (k : Context) (d va : Nat) : (s.walked k d va).bankErr = s.bankErr := by unfold State.walked; split; exacts [rfl, State.foldl_keeps _ (fun s => s.bankErr) (fun s _ => State.reported_bankErr s _ _) _ s]
@[simp] theorem State.walked_rounds (s : State) (k : Context) (d va : Nat) : (s.walked k d va).rounds = s.rounds := by unfold State.walked; split; exacts [rfl, State.foldl_keeps _ (fun s => s.rounds) (fun s _ => State.reported_rounds s _ _) _ s]
@[simp] theorem State.walked_bankCmds (s : State) (k : Context) (d va : Nat) : (s.walked k d va).bankCmds = s.bankCmds := by unfold State.walked; split; exacts [rfl, State.foldl_keeps _ (fun s => s.bankCmds) (fun s _ => State.reported_bankCmds s _ _) _ s]
@[simp] theorem State.walked_ops (s : State) (k : Context) (d va : Nat) : (s.walked k d va).ops = s.ops := by unfold State.walked; split; exacts [rfl, State.foldl_keeps _ (fun s => s.ops) (fun s _ => State.reported_ops s _ _) _ s]
@[simp] theorem State.walked_scStores (s : State) (k : Context) (d va : Nat) : (s.walked k d va).scStores = s.scStores := by unfold State.walked; split; exacts [rfl, State.foldl_keeps _ (fun s => s.scStores) (fun s _ => State.reported_scStores s _ _) _ s]
@[simp] theorem State.walked_atomics (s : State) (k : Context) (d va : Nat) : (s.walked k d va).atomics = s.atomics := by unfold State.walked; split; exacts [rfl, State.foldl_keeps _ (fun s => s.atomics) (fun s _ => State.reported_atomics s _ _) _ s]
@[simp] theorem State.walked_dieTlbs (s : State) (k : Context) (d va : Nat) : (s.walked k d va).dieTlbs = s.dieTlbs := by unfold State.walked; split; exacts [rfl, State.foldl_keeps _ (fun s => s.dieTlbs) (fun s _ => State.reported_dieTlbs s _ _) _ s]
@[simp] theorem State.walked_shoots (s : State) (k : Context) (d va : Nat) : (s.walked k d va).shoots = s.shoots := by unfold State.walked; split; exacts [rfl, State.foldl_keeps _ (fun s => s.shoots) (fun s _ => State.reported_shoots s _ _) _ s]
@[simp] theorem State.walked_staging (s : State) (k : Context) (d va : Nat) : (s.walked k d va).staging = s.staging := by unfold State.walked; split; exacts [rfl, State.foldl_keeps _ (fun s => s.staging) (fun s _ => State.reported_staging s _ _) _ s]
@[simp] theorem State.walked_wrote (s : State) (k : Context) (d va : Nat) : (s.walked k d va).wrote = s.wrote := by unfold State.walked; split; exacts [rfl, State.foldl_keeps _ (fun s => s.wrote) (fun s _ => State.reported_wrote s _ _) _ s]
@[simp] theorem State.walked_past (s : State) (k : Context) (d va : Nat) : (s.walked k d va).past = s.past := by unfold State.walked; split; exacts [rfl, State.foldl_keeps _ (fun s => s.past) (fun s _ => State.reported_past s _ _) _ s]
@[simp] theorem State.walked_slotsBusy (s : State) (k : Context) (d va : Nat) : (s.walked k d va).slotsBusy = s.slotsBusy := by unfold State.walked; split; exacts [rfl, State.foldl_keeps _ (fun s => s.slotsBusy) (fun s _ => State.reported_slotsBusy s _ _) _ s]
@[simp] theorem State.walked_inbox (s : State) (k : Context) (d va : Nat) : (s.walked k d va).inbox = s.inbox := by unfold State.walked; split; exacts [rfl, State.foldl_keeps _ (fun s => s.inbox) (fun s _ => State.reported_inbox s _ _) _ s]
@[simp] theorem State.walked_nextKey (s : State) (k : Context) (d va : Nat) : (s.walked k d va).nextKey = s.nextKey := by unfold State.walked; split; exacts [rfl, State.foldl_keeps _ (fun s => s.nextKey) (fun s _ => State.reported_nextKey s _ _) _ s]
@[simp] theorem State.walked_tick (s : State) (k : Context) (d va : Nat) : (s.walked k d va).tick = s.tick := by unfold State.walked; split; exacts [rfl, State.foldl_keeps _ (fun s => s.tick) (fun s _ => State.reported_tick s _ _) _ s]
@[simp] theorem State.hasRead_team (s : State) (c : Nat) (ls : List Loc) (n : Nat) : (s.hasRead c ls n).team = s.team := by unfold State.hasRead; split; exacts [rfl, State.foldl_keeps _ (fun s => s.team) (fun s _ => State.reported_team s _ _) _ s]
@[simp] theorem State.hasRead_crew (s : State) (c : Nat) (ls : List Loc) (n : Nat) : (s.hasRead c ls n).crew = s.crew := by unfold State.hasRead; split; exacts [rfl, State.foldl_keeps _ (fun s => s.crew) (fun s _ => State.reported_crew s _ _) _ s]
@[simp] theorem State.hasRead_ctx (s : State) (c : Nat) (ls : List Loc) (n : Nat) : (s.hasRead c ls n).ctx = s.ctx := by unfold State.hasRead; split; exacts [rfl, State.foldl_keeps _ (fun s => s.ctx) (fun s _ => State.reported_ctx s _ _) _ s]
@[simp] theorem State.hasRead_teams (s : State) (c : Nat) (ls : List Loc) (n : Nat) : (s.hasRead c ls n).teams = s.teams := by unfold State.hasRead; split; exacts [rfl, State.foldl_keeps _ (fun s => s.teams) (fun s _ => State.reported_teams s _ _) _ s]
@[simp] theorem State.hasRead_crews (s : State) (c : Nat) (ls : List Loc) (n : Nat) : (s.hasRead c ls n).crews = s.crews := by unfold State.hasRead; split; exacts [rfl, State.foldl_keeps _ (fun s => s.crews) (fun s _ => State.reported_crews s _ _) _ s]
@[simp] theorem State.hasRead_ctxs (s : State) (c : Nat) (ls : List Loc) (n : Nat) : (s.hasRead c ls n).ctxs = s.ctxs := by unfold State.hasRead; split; exacts [rfl, State.foldl_keeps _ (fun s => s.ctxs) (fun s _ => State.reported_ctxs s _ _) _ s]
@[simp] theorem State.hasRead_cores (s : State) (c : Nat) (ls : List Loc) (n : Nat) : (s.hasRead c ls n).cores = s.cores := by unfold State.hasRead; split; exacts [rfl, State.foldl_keeps _ (fun s => s.cores) (fun s _ => State.reported_cores s _ _) _ s]
@[simp] theorem State.hasRead_mem (s : State) (c : Nat) (ls : List Loc) (n : Nat) : (s.hasRead c ls n).mem = s.mem := by unfold State.hasRead; split; exacts [rfl, State.foldl_keeps _ (fun s => s.mem) (fun s _ => State.reported_mem s _ _) _ s]
@[simp] theorem State.hasRead_openMem (s : State) (c : Nat) (ls : List Loc) (n : Nat) : (s.hasRead c ls n).openMem = s.openMem := by unfold State.hasRead; split; exacts [rfl, State.foldl_keeps _ (fun s => s.openMem) (fun s _ => State.reported_openMem s _ _) _ s]
@[simp] theorem State.hasRead_bankOld (s : State) (c : Nat) (ls : List Loc) (n : Nat) : (s.hasRead c ls n).bankOld = s.bankOld := by unfold State.hasRead; split; exacts [rfl, State.foldl_keeps _ (fun s => s.bankOld) (fun s _ => State.reported_bankOld s _ _) _ s]
@[simp] theorem State.hasRead_weights (s : State) (c : Nat) (ls : List Loc) (n : Nat) : (s.hasRead c ls n).weights = s.weights := by unfold State.hasRead; split; exacts [rfl, State.foldl_keeps _ (fun s => s.weights) (fun s _ => State.reported_weights s _ _) _ s]
@[simp] theorem State.hasRead_semaphores (s : State) (c : Nat) (ls : List Loc) (n : Nat) : (s.hasRead c ls n).semaphores = s.semaphores := by unfold State.hasRead; split; exacts [rfl, State.foldl_keeps _ (fun s => s.semaphores) (fun s _ => State.reported_semaphores s _ _) _ s]
@[simp] theorem State.hasRead_bankErr (s : State) (c : Nat) (ls : List Loc) (n : Nat) : (s.hasRead c ls n).bankErr = s.bankErr := by unfold State.hasRead; split; exacts [rfl, State.foldl_keeps _ (fun s => s.bankErr) (fun s _ => State.reported_bankErr s _ _) _ s]
@[simp] theorem State.hasRead_rounds (s : State) (c : Nat) (ls : List Loc) (n : Nat) : (s.hasRead c ls n).rounds = s.rounds := by unfold State.hasRead; split; exacts [rfl, State.foldl_keeps _ (fun s => s.rounds) (fun s _ => State.reported_rounds s _ _) _ s]
@[simp] theorem State.hasRead_bankCmds (s : State) (c : Nat) (ls : List Loc) (n : Nat) : (s.hasRead c ls n).bankCmds = s.bankCmds := by unfold State.hasRead; split; exacts [rfl, State.foldl_keeps _ (fun s => s.bankCmds) (fun s _ => State.reported_bankCmds s _ _) _ s]
@[simp] theorem State.hasRead_ops (s : State) (c : Nat) (ls : List Loc) (n : Nat) : (s.hasRead c ls n).ops = s.ops := by unfold State.hasRead; split; exacts [rfl, State.foldl_keeps _ (fun s => s.ops) (fun s _ => State.reported_ops s _ _) _ s]
@[simp] theorem State.hasRead_scStores (s : State) (c : Nat) (ls : List Loc) (n : Nat) : (s.hasRead c ls n).scStores = s.scStores := by unfold State.hasRead; split; exacts [rfl, State.foldl_keeps _ (fun s => s.scStores) (fun s _ => State.reported_scStores s _ _) _ s]
@[simp] theorem State.hasRead_atomics (s : State) (c : Nat) (ls : List Loc) (n : Nat) : (s.hasRead c ls n).atomics = s.atomics := by unfold State.hasRead; split; exacts [rfl, State.foldl_keeps _ (fun s => s.atomics) (fun s _ => State.reported_atomics s _ _) _ s]
@[simp] theorem State.hasRead_dieTlbs (s : State) (c : Nat) (ls : List Loc) (n : Nat) : (s.hasRead c ls n).dieTlbs = s.dieTlbs := by unfold State.hasRead; split; exacts [rfl, State.foldl_keeps _ (fun s => s.dieTlbs) (fun s _ => State.reported_dieTlbs s _ _) _ s]
@[simp] theorem State.hasRead_shoots (s : State) (c : Nat) (ls : List Loc) (n : Nat) : (s.hasRead c ls n).shoots = s.shoots := by unfold State.hasRead; split; exacts [rfl, State.foldl_keeps _ (fun s => s.shoots) (fun s _ => State.reported_shoots s _ _) _ s]
@[simp] theorem State.hasRead_staging (s : State) (c : Nat) (ls : List Loc) (n : Nat) : (s.hasRead c ls n).staging = s.staging := by unfold State.hasRead; split; exacts [rfl, State.foldl_keeps _ (fun s => s.staging) (fun s _ => State.reported_staging s _ _) _ s]
@[simp] theorem State.hasRead_wrote (s : State) (c : Nat) (ls : List Loc) (n : Nat) : (s.hasRead c ls n).wrote = s.wrote := by unfold State.hasRead; split; exacts [rfl, State.foldl_keeps _ (fun s => s.wrote) (fun s _ => State.reported_wrote s _ _) _ s]
@[simp] theorem State.hasRead_past (s : State) (c : Nat) (ls : List Loc) (n : Nat) : (s.hasRead c ls n).past = s.past := by unfold State.hasRead; split; exacts [rfl, State.foldl_keeps _ (fun s => s.past) (fun s _ => State.reported_past s _ _) _ s]
@[simp] theorem State.hasRead_slotsBusy (s : State) (c : Nat) (ls : List Loc) (n : Nat) : (s.hasRead c ls n).slotsBusy = s.slotsBusy := by unfold State.hasRead; split; exacts [rfl, State.foldl_keeps _ (fun s => s.slotsBusy) (fun s _ => State.reported_slotsBusy s _ _) _ s]
@[simp] theorem State.hasRead_inbox (s : State) (c : Nat) (ls : List Loc) (n : Nat) : (s.hasRead c ls n).inbox = s.inbox := by unfold State.hasRead; split; exacts [rfl, State.foldl_keeps _ (fun s => s.inbox) (fun s _ => State.reported_inbox s _ _) _ s]
@[simp] theorem State.hasRead_nextKey (s : State) (c : Nat) (ls : List Loc) (n : Nat) : (s.hasRead c ls n).nextKey = s.nextKey := by unfold State.hasRead; split; exacts [rfl, State.foldl_keeps _ (fun s => s.nextKey) (fun s _ => State.reported_nextKey s _ _) _ s]
@[simp] theorem State.hasRead_tick (s : State) (c : Nat) (ls : List Loc) (n : Nat) : (s.hasRead c ls n).tick = s.tick := by unfold State.hasRead; split; exacts [rfl, State.foldl_keeps _ (fun s => s.tick) (fun s _ => State.reported_tick s _ _) _ s]
@[simp] theorem State.fillDieTlb_team (s : State) (k : Context) (d va : Nat) : (s.fillDieTlb k d va).team = s.team := by unfold State.fillDieTlb; split <;> simp
@[simp] theorem State.fillDieTlb_crew (s : State) (k : Context) (d va : Nat) : (s.fillDieTlb k d va).crew = s.crew := by unfold State.fillDieTlb; split <;> simp
@[simp] theorem State.fillDieTlb_ctx (s : State) (k : Context) (d va : Nat) : (s.fillDieTlb k d va).ctx = s.ctx := by unfold State.fillDieTlb; split <;> simp
@[simp] theorem State.fillDieTlb_teams (s : State) (k : Context) (d va : Nat) : (s.fillDieTlb k d va).teams = s.teams := by unfold State.fillDieTlb; split <;> simp
@[simp] theorem State.fillDieTlb_crews (s : State) (k : Context) (d va : Nat) : (s.fillDieTlb k d va).crews = s.crews := by unfold State.fillDieTlb; split <;> simp
@[simp] theorem State.fillDieTlb_ctxs (s : State) (k : Context) (d va : Nat) : (s.fillDieTlb k d va).ctxs = s.ctxs := by unfold State.fillDieTlb; split <;> simp
@[simp] theorem State.fillDieTlb_cores (s : State) (k : Context) (d va : Nat) : (s.fillDieTlb k d va).cores = s.cores := by unfold State.fillDieTlb; split <;> simp
@[simp] theorem State.fillDieTlb_mem (s : State) (k : Context) (d va : Nat) : (s.fillDieTlb k d va).mem = s.mem := by unfold State.fillDieTlb; split <;> simp
@[simp] theorem State.fillDieTlb_openMem (s : State) (k : Context) (d va : Nat) : (s.fillDieTlb k d va).openMem = s.openMem := by unfold State.fillDieTlb; split <;> simp
@[simp] theorem State.fillDieTlb_bankOld (s : State) (k : Context) (d va : Nat) : (s.fillDieTlb k d va).bankOld = s.bankOld := by unfold State.fillDieTlb; split <;> simp
@[simp] theorem State.fillDieTlb_weights (s : State) (k : Context) (d va : Nat) : (s.fillDieTlb k d va).weights = s.weights := by unfold State.fillDieTlb; split <;> simp
@[simp] theorem State.fillDieTlb_semaphores (s : State) (k : Context) (d va : Nat) : (s.fillDieTlb k d va).semaphores = s.semaphores := by unfold State.fillDieTlb; split <;> simp
@[simp] theorem State.fillDieTlb_bankErr (s : State) (k : Context) (d va : Nat) : (s.fillDieTlb k d va).bankErr = s.bankErr := by unfold State.fillDieTlb; split <;> simp
@[simp] theorem State.fillDieTlb_rounds (s : State) (k : Context) (d va : Nat) : (s.fillDieTlb k d va).rounds = s.rounds := by unfold State.fillDieTlb; split <;> simp
@[simp] theorem State.fillDieTlb_bankCmds (s : State) (k : Context) (d va : Nat) : (s.fillDieTlb k d va).bankCmds = s.bankCmds := by unfold State.fillDieTlb; split <;> simp
@[simp] theorem State.fillDieTlb_ops (s : State) (k : Context) (d va : Nat) : (s.fillDieTlb k d va).ops = s.ops := by unfold State.fillDieTlb; split <;> simp
@[simp] theorem State.fillDieTlb_scStores (s : State) (k : Context) (d va : Nat) : (s.fillDieTlb k d va).scStores = s.scStores := by unfold State.fillDieTlb; split <;> simp
@[simp] theorem State.fillDieTlb_atomics (s : State) (k : Context) (d va : Nat) : (s.fillDieTlb k d va).atomics = s.atomics := by unfold State.fillDieTlb; split <;> simp
@[simp] theorem State.fillDieTlb_shoots (s : State) (k : Context) (d va : Nat) : (s.fillDieTlb k d va).shoots = s.shoots := by unfold State.fillDieTlb; split <;> simp
@[simp] theorem State.fillDieTlb_staging (s : State) (k : Context) (d va : Nat) : (s.fillDieTlb k d va).staging = s.staging := by unfold State.fillDieTlb; split <;> simp
@[simp] theorem State.fillDieTlb_wrote (s : State) (k : Context) (d va : Nat) : (s.fillDieTlb k d va).wrote = s.wrote := by unfold State.fillDieTlb; split <;> simp
@[simp] theorem State.fillDieTlb_past (s : State) (k : Context) (d va : Nat) : (s.fillDieTlb k d va).past = s.past := by unfold State.fillDieTlb; split <;> simp
@[simp] theorem State.fillDieTlb_slotsBusy (s : State) (k : Context) (d va : Nat) : (s.fillDieTlb k d va).slotsBusy = s.slotsBusy := by unfold State.fillDieTlb; split <;> simp
@[simp] theorem State.fillDieTlb_inbox (s : State) (k : Context) (d va : Nat) : (s.fillDieTlb k d va).inbox = s.inbox := by unfold State.fillDieTlb; split <;> simp
@[simp] theorem State.fillDieTlb_nextKey (s : State) (k : Context) (d va : Nat) : (s.fillDieTlb k d va).nextKey = s.nextKey := by unfold State.fillDieTlb; split <;> simp
@[simp] theorem State.fillDieTlb_tick (s : State) (k : Context) (d va : Nat) : (s.fillDieTlb k d va).tick = s.tick := by unfold State.fillDieTlb; split <;> simp
@[simp] theorem State.fillTlb_team (s : State) (k : Context) (c va : Nat) : (s.fillTlb k c va).team = s.team := by unfold State.fillTlb; split <;> (try split) <;> simp
@[simp] theorem State.fillTlb_crew (s : State) (k : Context) (c va : Nat) : (s.fillTlb k c va).crew = s.crew := by unfold State.fillTlb; split <;> (try split) <;> simp
@[simp] theorem State.fillTlb_ctx (s : State) (k : Context) (c va : Nat) : (s.fillTlb k c va).ctx = s.ctx := by unfold State.fillTlb; split <;> (try split) <;> simp
@[simp] theorem State.fillTlb_teams (s : State) (k : Context) (c va : Nat) : (s.fillTlb k c va).teams = s.teams := by unfold State.fillTlb; split <;> (try split) <;> simp
@[simp] theorem State.fillTlb_crews (s : State) (k : Context) (c va : Nat) : (s.fillTlb k c va).crews = s.crews := by unfold State.fillTlb; split <;> (try split) <;> simp
@[simp] theorem State.fillTlb_ctxs (s : State) (k : Context) (c va : Nat) : (s.fillTlb k c va).ctxs = s.ctxs := by unfold State.fillTlb; split <;> (try split) <;> simp
@[simp] theorem State.fillTlb_mem (s : State) (k : Context) (c va : Nat) : (s.fillTlb k c va).mem = s.mem := by unfold State.fillTlb; split <;> (try split) <;> simp
@[simp] theorem State.fillTlb_openMem (s : State) (k : Context) (c va : Nat) : (s.fillTlb k c va).openMem = s.openMem := by unfold State.fillTlb; split <;> (try split) <;> simp
@[simp] theorem State.fillTlb_bankOld (s : State) (k : Context) (c va : Nat) : (s.fillTlb k c va).bankOld = s.bankOld := by unfold State.fillTlb; split <;> (try split) <;> simp
@[simp] theorem State.fillTlb_weights (s : State) (k : Context) (c va : Nat) : (s.fillTlb k c va).weights = s.weights := by unfold State.fillTlb; split <;> (try split) <;> simp
@[simp] theorem State.fillTlb_semaphores (s : State) (k : Context) (c va : Nat) : (s.fillTlb k c va).semaphores = s.semaphores := by unfold State.fillTlb; split <;> (try split) <;> simp
@[simp] theorem State.fillTlb_bankErr (s : State) (k : Context) (c va : Nat) : (s.fillTlb k c va).bankErr = s.bankErr := by unfold State.fillTlb; split <;> (try split) <;> simp
@[simp] theorem State.fillTlb_rounds (s : State) (k : Context) (c va : Nat) : (s.fillTlb k c va).rounds = s.rounds := by unfold State.fillTlb; split <;> (try split) <;> simp
@[simp] theorem State.fillTlb_bankCmds (s : State) (k : Context) (c va : Nat) : (s.fillTlb k c va).bankCmds = s.bankCmds := by unfold State.fillTlb; split <;> (try split) <;> simp
@[simp] theorem State.fillTlb_ops (s : State) (k : Context) (c va : Nat) : (s.fillTlb k c va).ops = s.ops := by unfold State.fillTlb; split <;> (try split) <;> simp
@[simp] theorem State.fillTlb_scStores (s : State) (k : Context) (c va : Nat) : (s.fillTlb k c va).scStores = s.scStores := by unfold State.fillTlb; split <;> (try split) <;> simp
@[simp] theorem State.fillTlb_atomics (s : State) (k : Context) (c va : Nat) : (s.fillTlb k c va).atomics = s.atomics := by unfold State.fillTlb; split <;> (try split) <;> simp
@[simp] theorem State.fillTlb_shoots (s : State) (k : Context) (c va : Nat) : (s.fillTlb k c va).shoots = s.shoots := by unfold State.fillTlb; split <;> (try split) <;> simp
@[simp] theorem State.fillTlb_staging (s : State) (k : Context) (c va : Nat) : (s.fillTlb k c va).staging = s.staging := by unfold State.fillTlb; split <;> (try split) <;> simp
@[simp] theorem State.fillTlb_wrote (s : State) (k : Context) (c va : Nat) : (s.fillTlb k c va).wrote = s.wrote := by unfold State.fillTlb; split <;> (try split) <;> simp
@[simp] theorem State.fillTlb_past (s : State) (k : Context) (c va : Nat) : (s.fillTlb k c va).past = s.past := by unfold State.fillTlb; split <;> (try split) <;> simp
@[simp] theorem State.fillTlb_slotsBusy (s : State) (k : Context) (c va : Nat) : (s.fillTlb k c va).slotsBusy = s.slotsBusy := by unfold State.fillTlb; split <;> (try split) <;> simp
@[simp] theorem State.fillTlb_inbox (s : State) (k : Context) (c va : Nat) : (s.fillTlb k c va).inbox = s.inbox := by unfold State.fillTlb; split <;> (try split) <;> simp
@[simp] theorem State.fillTlb_nextKey (s : State) (k : Context) (c va : Nat) : (s.fillTlb k c va).nextKey = s.nextKey := by unfold State.fillTlb; split <;> (try split) <;> simp
@[simp] theorem State.fillTlb_tick (s : State) (k : Context) (c va : Nat) : (s.fillTlb k c va).tick = s.tick := by unfold State.fillTlb; split <;> (try split) <;> simp
@[simp] theorem State.touch_team (s : State) (ls : List LaneAcc) : (s.touch ls).team = s.team := State.foldl_keeps (fun s (x : LaneAcc) => s.fillTlb s.ctx (s.crew.coreOf s.team (x.lane / 32)) x.va) (fun s => s.team) (fun s _ => State.fillTlb_team s _ _ _) ls s
@[simp] theorem State.touch_crew (s : State) (ls : List LaneAcc) : (s.touch ls).crew = s.crew := State.foldl_keeps (fun s (x : LaneAcc) => s.fillTlb s.ctx (s.crew.coreOf s.team (x.lane / 32)) x.va) (fun s => s.crew) (fun s _ => State.fillTlb_crew s _ _ _) ls s
@[simp] theorem State.touch_ctx (s : State) (ls : List LaneAcc) : (s.touch ls).ctx = s.ctx := State.foldl_keeps (fun s (x : LaneAcc) => s.fillTlb s.ctx (s.crew.coreOf s.team (x.lane / 32)) x.va) (fun s => s.ctx) (fun s _ => State.fillTlb_ctx s _ _ _) ls s
@[simp] theorem State.touch_teams (s : State) (ls : List LaneAcc) : (s.touch ls).teams = s.teams := State.foldl_keeps (fun s (x : LaneAcc) => s.fillTlb s.ctx (s.crew.coreOf s.team (x.lane / 32)) x.va) (fun s => s.teams) (fun s _ => State.fillTlb_teams s _ _ _) ls s
@[simp] theorem State.touch_crews (s : State) (ls : List LaneAcc) : (s.touch ls).crews = s.crews := State.foldl_keeps (fun s (x : LaneAcc) => s.fillTlb s.ctx (s.crew.coreOf s.team (x.lane / 32)) x.va) (fun s => s.crews) (fun s _ => State.fillTlb_crews s _ _ _) ls s
@[simp] theorem State.touch_ctxs (s : State) (ls : List LaneAcc) : (s.touch ls).ctxs = s.ctxs := State.foldl_keeps (fun s (x : LaneAcc) => s.fillTlb s.ctx (s.crew.coreOf s.team (x.lane / 32)) x.va) (fun s => s.ctxs) (fun s _ => State.fillTlb_ctxs s _ _ _) ls s
@[simp] theorem State.touch_mem (s : State) (ls : List LaneAcc) : (s.touch ls).mem = s.mem := State.foldl_keeps (fun s (x : LaneAcc) => s.fillTlb s.ctx (s.crew.coreOf s.team (x.lane / 32)) x.va) (fun s => s.mem) (fun s _ => State.fillTlb_mem s _ _ _) ls s
@[simp] theorem State.touch_openMem (s : State) (ls : List LaneAcc) : (s.touch ls).openMem = s.openMem := State.foldl_keeps (fun s (x : LaneAcc) => s.fillTlb s.ctx (s.crew.coreOf s.team (x.lane / 32)) x.va) (fun s => s.openMem) (fun s _ => State.fillTlb_openMem s _ _ _) ls s
@[simp] theorem State.touch_bankOld (s : State) (ls : List LaneAcc) : (s.touch ls).bankOld = s.bankOld := State.foldl_keeps (fun s (x : LaneAcc) => s.fillTlb s.ctx (s.crew.coreOf s.team (x.lane / 32)) x.va) (fun s => s.bankOld) (fun s _ => State.fillTlb_bankOld s _ _ _) ls s
@[simp] theorem State.touch_weights (s : State) (ls : List LaneAcc) : (s.touch ls).weights = s.weights := State.foldl_keeps (fun s (x : LaneAcc) => s.fillTlb s.ctx (s.crew.coreOf s.team (x.lane / 32)) x.va) (fun s => s.weights) (fun s _ => State.fillTlb_weights s _ _ _) ls s
@[simp] theorem State.touch_semaphores (s : State) (ls : List LaneAcc) : (s.touch ls).semaphores = s.semaphores := State.foldl_keeps (fun s (x : LaneAcc) => s.fillTlb s.ctx (s.crew.coreOf s.team (x.lane / 32)) x.va) (fun s => s.semaphores) (fun s _ => State.fillTlb_semaphores s _ _ _) ls s
@[simp] theorem State.touch_bankErr (s : State) (ls : List LaneAcc) : (s.touch ls).bankErr = s.bankErr := State.foldl_keeps (fun s (x : LaneAcc) => s.fillTlb s.ctx (s.crew.coreOf s.team (x.lane / 32)) x.va) (fun s => s.bankErr) (fun s _ => State.fillTlb_bankErr s _ _ _) ls s
@[simp] theorem State.touch_rounds (s : State) (ls : List LaneAcc) : (s.touch ls).rounds = s.rounds := State.foldl_keeps (fun s (x : LaneAcc) => s.fillTlb s.ctx (s.crew.coreOf s.team (x.lane / 32)) x.va) (fun s => s.rounds) (fun s _ => State.fillTlb_rounds s _ _ _) ls s
@[simp] theorem State.touch_bankCmds (s : State) (ls : List LaneAcc) : (s.touch ls).bankCmds = s.bankCmds := State.foldl_keeps (fun s (x : LaneAcc) => s.fillTlb s.ctx (s.crew.coreOf s.team (x.lane / 32)) x.va) (fun s => s.bankCmds) (fun s _ => State.fillTlb_bankCmds s _ _ _) ls s
@[simp] theorem State.touch_ops (s : State) (ls : List LaneAcc) : (s.touch ls).ops = s.ops := State.foldl_keeps (fun s (x : LaneAcc) => s.fillTlb s.ctx (s.crew.coreOf s.team (x.lane / 32)) x.va) (fun s => s.ops) (fun s _ => State.fillTlb_ops s _ _ _) ls s
@[simp] theorem State.touch_scStores (s : State) (ls : List LaneAcc) : (s.touch ls).scStores = s.scStores := State.foldl_keeps (fun s (x : LaneAcc) => s.fillTlb s.ctx (s.crew.coreOf s.team (x.lane / 32)) x.va) (fun s => s.scStores) (fun s _ => State.fillTlb_scStores s _ _ _) ls s
@[simp] theorem State.touch_atomics (s : State) (ls : List LaneAcc) : (s.touch ls).atomics = s.atomics := State.foldl_keeps (fun s (x : LaneAcc) => s.fillTlb s.ctx (s.crew.coreOf s.team (x.lane / 32)) x.va) (fun s => s.atomics) (fun s _ => State.fillTlb_atomics s _ _ _) ls s
@[simp] theorem State.touch_shoots (s : State) (ls : List LaneAcc) : (s.touch ls).shoots = s.shoots := State.foldl_keeps (fun s (x : LaneAcc) => s.fillTlb s.ctx (s.crew.coreOf s.team (x.lane / 32)) x.va) (fun s => s.shoots) (fun s _ => State.fillTlb_shoots s _ _ _) ls s
@[simp] theorem State.touch_staging (s : State) (ls : List LaneAcc) : (s.touch ls).staging = s.staging := State.foldl_keeps (fun s (x : LaneAcc) => s.fillTlb s.ctx (s.crew.coreOf s.team (x.lane / 32)) x.va) (fun s => s.staging) (fun s _ => State.fillTlb_staging s _ _ _) ls s
@[simp] theorem State.touch_wrote (s : State) (ls : List LaneAcc) : (s.touch ls).wrote = s.wrote := State.foldl_keeps (fun s (x : LaneAcc) => s.fillTlb s.ctx (s.crew.coreOf s.team (x.lane / 32)) x.va) (fun s => s.wrote) (fun s _ => State.fillTlb_wrote s _ _ _) ls s
@[simp] theorem State.touch_past (s : State) (ls : List LaneAcc) : (s.touch ls).past = s.past := State.foldl_keeps (fun s (x : LaneAcc) => s.fillTlb s.ctx (s.crew.coreOf s.team (x.lane / 32)) x.va) (fun s => s.past) (fun s _ => State.fillTlb_past s _ _ _) ls s
@[simp] theorem State.touch_slotsBusy (s : State) (ls : List LaneAcc) : (s.touch ls).slotsBusy = s.slotsBusy := State.foldl_keeps (fun s (x : LaneAcc) => s.fillTlb s.ctx (s.crew.coreOf s.team (x.lane / 32)) x.va) (fun s => s.slotsBusy) (fun s _ => State.fillTlb_slotsBusy s _ _ _) ls s
@[simp] theorem State.touch_inbox (s : State) (ls : List LaneAcc) : (s.touch ls).inbox = s.inbox := State.foldl_keeps (fun s (x : LaneAcc) => s.fillTlb s.ctx (s.crew.coreOf s.team (x.lane / 32)) x.va) (fun s => s.inbox) (fun s _ => State.fillTlb_inbox s _ _ _) ls s
@[simp] theorem State.touch_nextKey (s : State) (ls : List LaneAcc) : (s.touch ls).nextKey = s.nextKey := State.foldl_keeps (fun s (x : LaneAcc) => s.fillTlb s.ctx (s.crew.coreOf s.team (x.lane / 32)) x.va) (fun s => s.nextKey) (fun s _ => State.fillTlb_nextKey s _ _ _) ls s
@[simp] theorem State.touch_tick (s : State) (ls : List LaneAcc) : (s.touch ls).tick = s.tick := State.foldl_keeps (fun s (x : LaneAcc) => s.fillTlb s.ctx (s.crew.coreOf s.team (x.lane / 32)) x.va) (fun s => s.tick) (fun s _ => State.fillTlb_tick s _ _ _) ls s
@[simp] theorem State.touchUnits_team (s : State) (vas : List Nat) : (s.touchUnits vas).team = s.team := State.foldl_keeps _ (fun s => s.team) (fun s _ => State.fillTlb_team s _ _ _) _ s
@[simp] theorem State.touchUnits_crew (s : State) (vas : List Nat) : (s.touchUnits vas).crew = s.crew := State.foldl_keeps _ (fun s => s.crew) (fun s _ => State.fillTlb_crew s _ _ _) _ s
@[simp] theorem State.touchUnits_ctx (s : State) (vas : List Nat) : (s.touchUnits vas).ctx = s.ctx := State.foldl_keeps _ (fun s => s.ctx) (fun s _ => State.fillTlb_ctx s _ _ _) _ s
@[simp] theorem State.touchUnits_teams (s : State) (vas : List Nat) : (s.touchUnits vas).teams = s.teams := State.foldl_keeps _ (fun s => s.teams) (fun s _ => State.fillTlb_teams s _ _ _) _ s
@[simp] theorem State.touchUnits_crews (s : State) (vas : List Nat) : (s.touchUnits vas).crews = s.crews := State.foldl_keeps _ (fun s => s.crews) (fun s _ => State.fillTlb_crews s _ _ _) _ s
@[simp] theorem State.touchUnits_ctxs (s : State) (vas : List Nat) : (s.touchUnits vas).ctxs = s.ctxs := State.foldl_keeps _ (fun s => s.ctxs) (fun s _ => State.fillTlb_ctxs s _ _ _) _ s
@[simp] theorem State.touchUnits_mem (s : State) (vas : List Nat) : (s.touchUnits vas).mem = s.mem := State.foldl_keeps _ (fun s => s.mem) (fun s _ => State.fillTlb_mem s _ _ _) _ s
@[simp] theorem State.touchUnits_openMem (s : State) (vas : List Nat) : (s.touchUnits vas).openMem = s.openMem := State.foldl_keeps _ (fun s => s.openMem) (fun s _ => State.fillTlb_openMem s _ _ _) _ s
@[simp] theorem State.touchUnits_bankOld (s : State) (vas : List Nat) : (s.touchUnits vas).bankOld = s.bankOld := State.foldl_keeps _ (fun s => s.bankOld) (fun s _ => State.fillTlb_bankOld s _ _ _) _ s
@[simp] theorem State.touchUnits_weights (s : State) (vas : List Nat) : (s.touchUnits vas).weights = s.weights := State.foldl_keeps _ (fun s => s.weights) (fun s _ => State.fillTlb_weights s _ _ _) _ s
@[simp] theorem State.touchUnits_semaphores (s : State) (vas : List Nat) : (s.touchUnits vas).semaphores = s.semaphores := State.foldl_keeps _ (fun s => s.semaphores) (fun s _ => State.fillTlb_semaphores s _ _ _) _ s
@[simp] theorem State.touchUnits_bankErr (s : State) (vas : List Nat) : (s.touchUnits vas).bankErr = s.bankErr := State.foldl_keeps _ (fun s => s.bankErr) (fun s _ => State.fillTlb_bankErr s _ _ _) _ s
@[simp] theorem State.touchUnits_rounds (s : State) (vas : List Nat) : (s.touchUnits vas).rounds = s.rounds := State.foldl_keeps _ (fun s => s.rounds) (fun s _ => State.fillTlb_rounds s _ _ _) _ s
@[simp] theorem State.touchUnits_bankCmds (s : State) (vas : List Nat) : (s.touchUnits vas).bankCmds = s.bankCmds := State.foldl_keeps _ (fun s => s.bankCmds) (fun s _ => State.fillTlb_bankCmds s _ _ _) _ s
@[simp] theorem State.touchUnits_ops (s : State) (vas : List Nat) : (s.touchUnits vas).ops = s.ops := State.foldl_keeps _ (fun s => s.ops) (fun s _ => State.fillTlb_ops s _ _ _) _ s
@[simp] theorem State.touchUnits_scStores (s : State) (vas : List Nat) : (s.touchUnits vas).scStores = s.scStores := State.foldl_keeps _ (fun s => s.scStores) (fun s _ => State.fillTlb_scStores s _ _ _) _ s
@[simp] theorem State.touchUnits_atomics (s : State) (vas : List Nat) : (s.touchUnits vas).atomics = s.atomics := State.foldl_keeps _ (fun s => s.atomics) (fun s _ => State.fillTlb_atomics s _ _ _) _ s
@[simp] theorem State.touchUnits_shoots (s : State) (vas : List Nat) : (s.touchUnits vas).shoots = s.shoots := State.foldl_keeps _ (fun s => s.shoots) (fun s _ => State.fillTlb_shoots s _ _ _) _ s
@[simp] theorem State.touchUnits_staging (s : State) (vas : List Nat) : (s.touchUnits vas).staging = s.staging := State.foldl_keeps _ (fun s => s.staging) (fun s _ => State.fillTlb_staging s _ _ _) _ s
@[simp] theorem State.touchUnits_wrote (s : State) (vas : List Nat) : (s.touchUnits vas).wrote = s.wrote := State.foldl_keeps _ (fun s => s.wrote) (fun s _ => State.fillTlb_wrote s _ _ _) _ s
@[simp] theorem State.touchUnits_past (s : State) (vas : List Nat) : (s.touchUnits vas).past = s.past := State.foldl_keeps _ (fun s => s.past) (fun s _ => State.fillTlb_past s _ _ _) _ s
@[simp] theorem State.touchUnits_slotsBusy (s : State) (vas : List Nat) : (s.touchUnits vas).slotsBusy = s.slotsBusy := State.foldl_keeps _ (fun s => s.slotsBusy) (fun s _ => State.fillTlb_slotsBusy s _ _ _) _ s
@[simp] theorem State.touchUnits_inbox (s : State) (vas : List Nat) : (s.touchUnits vas).inbox = s.inbox := State.foldl_keeps _ (fun s => s.inbox) (fun s _ => State.fillTlb_inbox s _ _ _) _ s
@[simp] theorem State.touchUnits_nextKey (s : State) (vas : List Nat) : (s.touchUnits vas).nextKey = s.nextKey := State.foldl_keeps _ (fun s => s.nextKey) (fun s _ => State.fillTlb_nextKey s _ _ _) _ s
@[simp] theorem State.touchUnits_tick (s : State) (vas : List Nat) : (s.touchUnits vas).tick = s.tick := State.foldl_keeps _ (fun s => s.tick) (fun s _ => State.fillTlb_tick s _ _ _) _ s
@[simp] theorem State.fillL1_team (s : State) (c t : Nat) (l : Loc) : (s.fillL1 c t l).team = s.team := by unfold State.fillL1; split <;> simp
@[simp] theorem State.fillL1_crew (s : State) (c t : Nat) (l : Loc) : (s.fillL1 c t l).crew = s.crew := by unfold State.fillL1; split <;> simp
@[simp] theorem State.fillL1_ctx (s : State) (c t : Nat) (l : Loc) : (s.fillL1 c t l).ctx = s.ctx := by unfold State.fillL1; split <;> simp
@[simp] theorem State.fillL1_teams (s : State) (c t : Nat) (l : Loc) : (s.fillL1 c t l).teams = s.teams := by unfold State.fillL1; split <;> simp
@[simp] theorem State.fillL1_crews (s : State) (c t : Nat) (l : Loc) : (s.fillL1 c t l).crews = s.crews := by unfold State.fillL1; split <;> simp
@[simp] theorem State.fillL1_ctxs (s : State) (c t : Nat) (l : Loc) : (s.fillL1 c t l).ctxs = s.ctxs := by unfold State.fillL1; split <;> simp
@[simp] theorem State.fillL1_dev (s : State) (c t : Nat) (l : Loc) : (s.fillL1 c t l).dev = s.dev := by unfold State.fillL1; split <;> simp
@[simp] theorem State.fillL1_mem (s : State) (c t : Nat) (l : Loc) : (s.fillL1 c t l).mem = s.mem := by unfold State.fillL1; split <;> simp
@[simp] theorem State.fillL1_openMem (s : State) (c t : Nat) (l : Loc) : (s.fillL1 c t l).openMem = s.openMem := by unfold State.fillL1; split <;> simp
@[simp] theorem State.fillL1_bankOld (s : State) (c t : Nat) (l : Loc) : (s.fillL1 c t l).bankOld = s.bankOld := by unfold State.fillL1; split <;> simp
@[simp] theorem State.fillL1_weights (s : State) (c t : Nat) (l : Loc) : (s.fillL1 c t l).weights = s.weights := by unfold State.fillL1; split <;> simp
@[simp] theorem State.fillL1_semaphores (s : State) (c t : Nat) (l : Loc) : (s.fillL1 c t l).semaphores = s.semaphores := by unfold State.fillL1; split <;> simp
@[simp] theorem State.fillL1_bankErr (s : State) (c t : Nat) (l : Loc) : (s.fillL1 c t l).bankErr = s.bankErr := by unfold State.fillL1; split <;> simp
@[simp] theorem State.fillL1_rounds (s : State) (c t : Nat) (l : Loc) : (s.fillL1 c t l).rounds = s.rounds := by unfold State.fillL1; split <;> simp
@[simp] theorem State.fillL1_bankCmds (s : State) (c t : Nat) (l : Loc) : (s.fillL1 c t l).bankCmds = s.bankCmds := by unfold State.fillL1; split <;> simp
@[simp] theorem State.fillL1_ops (s : State) (c t : Nat) (l : Loc) : (s.fillL1 c t l).ops = s.ops := by unfold State.fillL1; split <;> simp
@[simp] theorem State.fillL1_scStores (s : State) (c t : Nat) (l : Loc) : (s.fillL1 c t l).scStores = s.scStores := by unfold State.fillL1; split <;> simp
@[simp] theorem State.fillL1_atomics (s : State) (c t : Nat) (l : Loc) : (s.fillL1 c t l).atomics = s.atomics := by unfold State.fillL1; split <;> simp
@[simp] theorem State.fillL1_dieTlbs (s : State) (c t : Nat) (l : Loc) : (s.fillL1 c t l).dieTlbs = s.dieTlbs := by unfold State.fillL1; split <;> simp
@[simp] theorem State.fillL1_shoots (s : State) (c t : Nat) (l : Loc) : (s.fillL1 c t l).shoots = s.shoots := by unfold State.fillL1; split <;> simp
@[simp] theorem State.fillL1_staging (s : State) (c t : Nat) (l : Loc) : (s.fillL1 c t l).staging = s.staging := by unfold State.fillL1; split <;> simp
@[simp] theorem State.fillL1_wrote (s : State) (c t : Nat) (l : Loc) : (s.fillL1 c t l).wrote = s.wrote := by unfold State.fillL1; split <;> simp
@[simp] theorem State.fillL1_past (s : State) (c t : Nat) (l : Loc) : (s.fillL1 c t l).past = s.past := by unfold State.fillL1; split <;> simp
@[simp] theorem State.fillL1_slotsBusy (s : State) (c t : Nat) (l : Loc) : (s.fillL1 c t l).slotsBusy = s.slotsBusy := by unfold State.fillL1; split <;> simp
@[simp] theorem State.fillL1_inbox (s : State) (c t : Nat) (l : Loc) : (s.fillL1 c t l).inbox = s.inbox := by unfold State.fillL1; split <;> simp
@[simp] theorem State.fillL1_nextKey (s : State) (c t : Nat) (l : Loc) : (s.fillL1 c t l).nextKey = s.nextKey := by unfold State.fillL1; split <;> simp
@[simp] theorem State.fillL1_tick (s : State) (c t : Nat) (l : Loc) : (s.fillL1 c t l).tick = s.tick := by unfold State.fillL1; split <;> simp
@[simp] theorem State.fillLine_team (s : State) (c t : Nat) (l : Loc) : (s.fillLine c t l).team = s.team := State.foldl_keeps _ (fun s => s.team) (fun s _ => State.fillL1_team s _ _ _) _ s
@[simp] theorem State.fillLine_crew (s : State) (c t : Nat) (l : Loc) : (s.fillLine c t l).crew = s.crew := State.foldl_keeps _ (fun s => s.crew) (fun s _ => State.fillL1_crew s _ _ _) _ s
@[simp] theorem State.fillLine_ctx (s : State) (c t : Nat) (l : Loc) : (s.fillLine c t l).ctx = s.ctx := State.foldl_keeps _ (fun s => s.ctx) (fun s _ => State.fillL1_ctx s _ _ _) _ s
@[simp] theorem State.fillLine_teams (s : State) (c t : Nat) (l : Loc) : (s.fillLine c t l).teams = s.teams := State.foldl_keeps _ (fun s => s.teams) (fun s _ => State.fillL1_teams s _ _ _) _ s
@[simp] theorem State.fillLine_crews (s : State) (c t : Nat) (l : Loc) : (s.fillLine c t l).crews = s.crews := State.foldl_keeps _ (fun s => s.crews) (fun s _ => State.fillL1_crews s _ _ _) _ s
@[simp] theorem State.fillLine_ctxs (s : State) (c t : Nat) (l : Loc) : (s.fillLine c t l).ctxs = s.ctxs := State.foldl_keeps _ (fun s => s.ctxs) (fun s _ => State.fillL1_ctxs s _ _ _) _ s
@[simp] theorem State.fillLine_dev (s : State) (c t : Nat) (l : Loc) : (s.fillLine c t l).dev = s.dev := State.foldl_keeps _ (fun s => s.dev) (fun s _ => State.fillL1_dev s _ _ _) _ s
@[simp] theorem State.fillLine_mem (s : State) (c t : Nat) (l : Loc) : (s.fillLine c t l).mem = s.mem := State.foldl_keeps _ (fun s => s.mem) (fun s _ => State.fillL1_mem s _ _ _) _ s
@[simp] theorem State.fillLine_openMem (s : State) (c t : Nat) (l : Loc) : (s.fillLine c t l).openMem = s.openMem := State.foldl_keeps _ (fun s => s.openMem) (fun s _ => State.fillL1_openMem s _ _ _) _ s
@[simp] theorem State.fillLine_bankOld (s : State) (c t : Nat) (l : Loc) : (s.fillLine c t l).bankOld = s.bankOld := State.foldl_keeps _ (fun s => s.bankOld) (fun s _ => State.fillL1_bankOld s _ _ _) _ s
@[simp] theorem State.fillLine_weights (s : State) (c t : Nat) (l : Loc) : (s.fillLine c t l).weights = s.weights := State.foldl_keeps _ (fun s => s.weights) (fun s _ => State.fillL1_weights s _ _ _) _ s
@[simp] theorem State.fillLine_semaphores (s : State) (c t : Nat) (l : Loc) : (s.fillLine c t l).semaphores = s.semaphores := State.foldl_keeps _ (fun s => s.semaphores) (fun s _ => State.fillL1_semaphores s _ _ _) _ s
@[simp] theorem State.fillLine_bankErr (s : State) (c t : Nat) (l : Loc) : (s.fillLine c t l).bankErr = s.bankErr := State.foldl_keeps _ (fun s => s.bankErr) (fun s _ => State.fillL1_bankErr s _ _ _) _ s
@[simp] theorem State.fillLine_rounds (s : State) (c t : Nat) (l : Loc) : (s.fillLine c t l).rounds = s.rounds := State.foldl_keeps _ (fun s => s.rounds) (fun s _ => State.fillL1_rounds s _ _ _) _ s
@[simp] theorem State.fillLine_bankCmds (s : State) (c t : Nat) (l : Loc) : (s.fillLine c t l).bankCmds = s.bankCmds := State.foldl_keeps _ (fun s => s.bankCmds) (fun s _ => State.fillL1_bankCmds s _ _ _) _ s
@[simp] theorem State.fillLine_ops (s : State) (c t : Nat) (l : Loc) : (s.fillLine c t l).ops = s.ops := State.foldl_keeps _ (fun s => s.ops) (fun s _ => State.fillL1_ops s _ _ _) _ s
@[simp] theorem State.fillLine_scStores (s : State) (c t : Nat) (l : Loc) : (s.fillLine c t l).scStores = s.scStores := State.foldl_keeps _ (fun s => s.scStores) (fun s _ => State.fillL1_scStores s _ _ _) _ s
@[simp] theorem State.fillLine_atomics (s : State) (c t : Nat) (l : Loc) : (s.fillLine c t l).atomics = s.atomics := State.foldl_keeps _ (fun s => s.atomics) (fun s _ => State.fillL1_atomics s _ _ _) _ s
@[simp] theorem State.fillLine_dieTlbs (s : State) (c t : Nat) (l : Loc) : (s.fillLine c t l).dieTlbs = s.dieTlbs := State.foldl_keeps _ (fun s => s.dieTlbs) (fun s _ => State.fillL1_dieTlbs s _ _ _) _ s
@[simp] theorem State.fillLine_shoots (s : State) (c t : Nat) (l : Loc) : (s.fillLine c t l).shoots = s.shoots := State.foldl_keeps _ (fun s => s.shoots) (fun s _ => State.fillL1_shoots s _ _ _) _ s
@[simp] theorem State.fillLine_staging (s : State) (c t : Nat) (l : Loc) : (s.fillLine c t l).staging = s.staging := State.foldl_keeps _ (fun s => s.staging) (fun s _ => State.fillL1_staging s _ _ _) _ s
@[simp] theorem State.fillLine_wrote (s : State) (c t : Nat) (l : Loc) : (s.fillLine c t l).wrote = s.wrote := State.foldl_keeps _ (fun s => s.wrote) (fun s _ => State.fillL1_wrote s _ _ _) _ s
@[simp] theorem State.fillLine_past (s : State) (c t : Nat) (l : Loc) : (s.fillLine c t l).past = s.past := State.foldl_keeps _ (fun s => s.past) (fun s _ => State.fillL1_past s _ _ _) _ s
@[simp] theorem State.fillLine_slotsBusy (s : State) (c t : Nat) (l : Loc) : (s.fillLine c t l).slotsBusy = s.slotsBusy := State.foldl_keeps _ (fun s => s.slotsBusy) (fun s _ => State.fillL1_slotsBusy s _ _ _) _ s
@[simp] theorem State.fillLine_inbox (s : State) (c t : Nat) (l : Loc) : (s.fillLine c t l).inbox = s.inbox := State.foldl_keeps _ (fun s => s.inbox) (fun s _ => State.fillL1_inbox s _ _ _) _ s
@[simp] theorem State.fillLine_nextKey (s : State) (c t : Nat) (l : Loc) : (s.fillLine c t l).nextKey = s.nextKey := State.foldl_keeps _ (fun s => s.nextKey) (fun s _ => State.fillL1_nextKey s _ _ _) _ s
@[simp] theorem State.fillLine_tick (s : State) (c t : Nat) (l : Loc) : (s.fillLine c t l).tick = s.tick := State.foldl_keeps _ (fun s => s.tick) (fun s _ => State.fillL1_tick s _ _ _) _ s
@[simp] theorem State.shrinkL1_team (s : State) (c : Nat) : (s.shrinkL1 c).team = s.team := rfl
@[simp] theorem State.shrinkL1_crew (s : State) (c : Nat) : (s.shrinkL1 c).crew = s.crew := rfl
@[simp] theorem State.shrinkL1_ctx (s : State) (c : Nat) : (s.shrinkL1 c).ctx = s.ctx := rfl
@[simp] theorem State.shrinkL1_teams (s : State) (c : Nat) : (s.shrinkL1 c).teams = s.teams := rfl
@[simp] theorem State.shrinkL1_crews (s : State) (c : Nat) : (s.shrinkL1 c).crews = s.crews := rfl
@[simp] theorem State.shrinkL1_ctxs (s : State) (c : Nat) : (s.shrinkL1 c).ctxs = s.ctxs := rfl
@[simp] theorem State.shrinkL1_dev (s : State) (c : Nat) : (s.shrinkL1 c).dev = s.dev := rfl
@[simp] theorem State.shrinkL1_mem (s : State) (c : Nat) : (s.shrinkL1 c).mem = s.mem := rfl
@[simp] theorem State.shrinkL1_openMem (s : State) (c : Nat) : (s.shrinkL1 c).openMem = s.openMem := rfl
@[simp] theorem State.shrinkL1_bankOld (s : State) (c : Nat) : (s.shrinkL1 c).bankOld = s.bankOld := rfl
@[simp] theorem State.shrinkL1_weights (s : State) (c : Nat) : (s.shrinkL1 c).weights = s.weights := rfl
@[simp] theorem State.shrinkL1_semaphores (s : State) (c : Nat) : (s.shrinkL1 c).semaphores = s.semaphores := rfl
@[simp] theorem State.shrinkL1_bankErr (s : State) (c : Nat) : (s.shrinkL1 c).bankErr = s.bankErr := rfl
@[simp] theorem State.shrinkL1_rounds (s : State) (c : Nat) : (s.shrinkL1 c).rounds = s.rounds := rfl
@[simp] theorem State.shrinkL1_bankCmds (s : State) (c : Nat) : (s.shrinkL1 c).bankCmds = s.bankCmds := rfl
@[simp] theorem State.shrinkL1_ops (s : State) (c : Nat) : (s.shrinkL1 c).ops = s.ops := rfl
@[simp] theorem State.shrinkL1_scStores (s : State) (c : Nat) : (s.shrinkL1 c).scStores = s.scStores := rfl
@[simp] theorem State.shrinkL1_atomics (s : State) (c : Nat) : (s.shrinkL1 c).atomics = s.atomics := rfl
@[simp] theorem State.shrinkL1_dieTlbs (s : State) (c : Nat) : (s.shrinkL1 c).dieTlbs = s.dieTlbs := rfl
@[simp] theorem State.shrinkL1_shoots (s : State) (c : Nat) : (s.shrinkL1 c).shoots = s.shoots := rfl
@[simp] theorem State.shrinkL1_staging (s : State) (c : Nat) : (s.shrinkL1 c).staging = s.staging := rfl
@[simp] theorem State.shrinkL1_wrote (s : State) (c : Nat) : (s.shrinkL1 c).wrote = s.wrote := rfl
@[simp] theorem State.shrinkL1_past (s : State) (c : Nat) : (s.shrinkL1 c).past = s.past := rfl
@[simp] theorem State.shrinkL1_slotsBusy (s : State) (c : Nat) : (s.shrinkL1 c).slotsBusy = s.slotsBusy := rfl
@[simp] theorem State.shrinkL1_inbox (s : State) (c : Nat) : (s.shrinkL1 c).inbox = s.inbox := rfl
@[simp] theorem State.shrinkL1_nextKey (s : State) (c : Nat) : (s.shrinkL1 c).nextKey = s.nextKey := rfl
@[simp] theorem State.shrinkL1_tick (s : State) (c : Nat) : (s.shrinkL1 c).tick = s.tick := rfl

/-! ## .sc stores -/

@[simp] theorem State.performScByte_team (s : State) (b : StoreByte) : (s.performScByte b).team = s.team := by simp [State.performScByte]
@[simp] theorem State.performScByte_crew (s : State) (b : StoreByte) : (s.performScByte b).crew = s.crew := by simp [State.performScByte]
@[simp] theorem State.performScByte_ctx (s : State) (b : StoreByte) : (s.performScByte b).ctx = s.ctx := by simp [State.performScByte]
@[simp] theorem State.performScByte_teams (s : State) (b : StoreByte) : (s.performScByte b).teams = s.teams := by simp [State.performScByte]
@[simp] theorem State.performScByte_crews (s : State) (b : StoreByte) : (s.performScByte b).crews = s.crews := by simp [State.performScByte]
@[simp] theorem State.performScByte_ctxs (s : State) (b : StoreByte) : (s.performScByte b).ctxs = s.ctxs := by simp [State.performScByte]
@[simp] theorem State.performScByte_dev (s : State) (b : StoreByte) : (s.performScByte b).dev = s.dev := by simp [State.performScByte]
@[simp] theorem State.performScByte_bankOld (s : State) (b : StoreByte) : (s.performScByte b).bankOld = s.bankOld := by simp [State.performScByte]
@[simp] theorem State.performScByte_weights (s : State) (b : StoreByte) : (s.performScByte b).weights = s.weights := by simp [State.performScByte]
@[simp] theorem State.performScByte_semaphores (s : State) (b : StoreByte) : (s.performScByte b).semaphores = s.semaphores := by simp [State.performScByte]
@[simp] theorem State.performScByte_bankErr (s : State) (b : StoreByte) : (s.performScByte b).bankErr = s.bankErr := by simp [State.performScByte]
@[simp] theorem State.performScByte_rounds (s : State) (b : StoreByte) : (s.performScByte b).rounds = s.rounds := by simp [State.performScByte]
@[simp] theorem State.performScByte_bankCmds (s : State) (b : StoreByte) : (s.performScByte b).bankCmds = s.bankCmds := by simp [State.performScByte]
@[simp] theorem State.performScByte_ops (s : State) (b : StoreByte) : (s.performScByte b).ops = s.ops := by simp [State.performScByte]
@[simp] theorem State.performScByte_scStores (s : State) (b : StoreByte) : (s.performScByte b).scStores = s.scStores := by simp [State.performScByte]
@[simp] theorem State.performScByte_atomics (s : State) (b : StoreByte) : (s.performScByte b).atomics = s.atomics := by simp [State.performScByte]
@[simp] theorem State.performScByte_dieTlbs (s : State) (b : StoreByte) : (s.performScByte b).dieTlbs = s.dieTlbs := by simp [State.performScByte]
@[simp] theorem State.performScByte_shoots (s : State) (b : StoreByte) : (s.performScByte b).shoots = s.shoots := by simp [State.performScByte]
@[simp] theorem State.performScByte_staging (s : State) (b : StoreByte) : (s.performScByte b).staging = s.staging := by simp [State.performScByte]
@[simp] theorem State.performScByte_slotsBusy (s : State) (b : StoreByte) : (s.performScByte b).slotsBusy = s.slotsBusy := by simp [State.performScByte]
@[simp] theorem State.performScByte_inbox (s : State) (b : StoreByte) : (s.performScByte b).inbox = s.inbox := by simp [State.performScByte]
@[simp] theorem State.performScByte_nextKey (s : State) (b : StoreByte) : (s.performScByte b).nextKey = s.nextKey := by simp [State.performScByte]
@[simp] theorem State.performScByte_tick (s : State) (b : StoreByte) : (s.performScByte b).tick = s.tick := by simp [State.performScByte]
@[simp] theorem State.performScAll_team (s : State) (l : List StoreByte) : (l.foldl State.performScByte s).team = s.team := State.foldl_keeps _ (fun s => s.team) (fun s _ => State.performScByte_team s _) l s
@[simp] theorem State.performScAll_crew (s : State) (l : List StoreByte) : (l.foldl State.performScByte s).crew = s.crew := State.foldl_keeps _ (fun s => s.crew) (fun s _ => State.performScByte_crew s _) l s
@[simp] theorem State.performScAll_ctx (s : State) (l : List StoreByte) : (l.foldl State.performScByte s).ctx = s.ctx := State.foldl_keeps _ (fun s => s.ctx) (fun s _ => State.performScByte_ctx s _) l s
@[simp] theorem State.performScAll_teams (s : State) (l : List StoreByte) : (l.foldl State.performScByte s).teams = s.teams := State.foldl_keeps _ (fun s => s.teams) (fun s _ => State.performScByte_teams s _) l s
@[simp] theorem State.performScAll_crews (s : State) (l : List StoreByte) : (l.foldl State.performScByte s).crews = s.crews := State.foldl_keeps _ (fun s => s.crews) (fun s _ => State.performScByte_crews s _) l s
@[simp] theorem State.performScAll_ctxs (s : State) (l : List StoreByte) : (l.foldl State.performScByte s).ctxs = s.ctxs := State.foldl_keeps _ (fun s => s.ctxs) (fun s _ => State.performScByte_ctxs s _) l s
@[simp] theorem State.performScAll_dev (s : State) (l : List StoreByte) : (l.foldl State.performScByte s).dev = s.dev := State.foldl_keeps _ (fun s => s.dev) (fun s _ => State.performScByte_dev s _) l s
@[simp] theorem State.performScAll_bankOld (s : State) (l : List StoreByte) : (l.foldl State.performScByte s).bankOld = s.bankOld := State.foldl_keeps _ (fun s => s.bankOld) (fun s _ => State.performScByte_bankOld s _) l s
@[simp] theorem State.performScAll_weights (s : State) (l : List StoreByte) : (l.foldl State.performScByte s).weights = s.weights := State.foldl_keeps _ (fun s => s.weights) (fun s _ => State.performScByte_weights s _) l s
@[simp] theorem State.performScAll_semaphores (s : State) (l : List StoreByte) : (l.foldl State.performScByte s).semaphores = s.semaphores := State.foldl_keeps _ (fun s => s.semaphores) (fun s _ => State.performScByte_semaphores s _) l s
@[simp] theorem State.performScAll_bankErr (s : State) (l : List StoreByte) : (l.foldl State.performScByte s).bankErr = s.bankErr := State.foldl_keeps _ (fun s => s.bankErr) (fun s _ => State.performScByte_bankErr s _) l s
@[simp] theorem State.performScAll_rounds (s : State) (l : List StoreByte) : (l.foldl State.performScByte s).rounds = s.rounds := State.foldl_keeps _ (fun s => s.rounds) (fun s _ => State.performScByte_rounds s _) l s
@[simp] theorem State.performScAll_bankCmds (s : State) (l : List StoreByte) : (l.foldl State.performScByte s).bankCmds = s.bankCmds := State.foldl_keeps _ (fun s => s.bankCmds) (fun s _ => State.performScByte_bankCmds s _) l s
@[simp] theorem State.performScAll_ops (s : State) (l : List StoreByte) : (l.foldl State.performScByte s).ops = s.ops := State.foldl_keeps _ (fun s => s.ops) (fun s _ => State.performScByte_ops s _) l s
@[simp] theorem State.performScAll_scStores (s : State) (l : List StoreByte) : (l.foldl State.performScByte s).scStores = s.scStores := State.foldl_keeps _ (fun s => s.scStores) (fun s _ => State.performScByte_scStores s _) l s
@[simp] theorem State.performScAll_atomics (s : State) (l : List StoreByte) : (l.foldl State.performScByte s).atomics = s.atomics := State.foldl_keeps _ (fun s => s.atomics) (fun s _ => State.performScByte_atomics s _) l s
@[simp] theorem State.performScAll_dieTlbs (s : State) (l : List StoreByte) : (l.foldl State.performScByte s).dieTlbs = s.dieTlbs := State.foldl_keeps _ (fun s => s.dieTlbs) (fun s _ => State.performScByte_dieTlbs s _) l s
@[simp] theorem State.performScAll_shoots (s : State) (l : List StoreByte) : (l.foldl State.performScByte s).shoots = s.shoots := State.foldl_keeps _ (fun s => s.shoots) (fun s _ => State.performScByte_shoots s _) l s
@[simp] theorem State.performScAll_staging (s : State) (l : List StoreByte) : (l.foldl State.performScByte s).staging = s.staging := State.foldl_keeps _ (fun s => s.staging) (fun s _ => State.performScByte_staging s _) l s
@[simp] theorem State.performScAll_slotsBusy (s : State) (l : List StoreByte) : (l.foldl State.performScByte s).slotsBusy = s.slotsBusy := State.foldl_keeps _ (fun s => s.slotsBusy) (fun s _ => State.performScByte_slotsBusy s _) l s
@[simp] theorem State.performScAll_inbox (s : State) (l : List StoreByte) : (l.foldl State.performScByte s).inbox = s.inbox := State.foldl_keeps _ (fun s => s.inbox) (fun s _ => State.performScByte_inbox s _) l s
@[simp] theorem State.performScAll_nextKey (s : State) (l : List StoreByte) : (l.foldl State.performScByte s).nextKey = s.nextKey := State.foldl_keeps _ (fun s => s.nextKey) (fun s _ => State.performScByte_nextKey s _) l s
@[simp] theorem State.performScAll_tick (s : State) (l : List StoreByte) : (l.foldl State.performScByte s).tick = s.tick := State.foldl_keeps _ (fun s => s.tick) (fun s _ => State.performScByte_tick s _) l s
@[simp] theorem State.performScFor_team (s : State) (p : StoreByte → Bool) : (s.performScFor p).team = s.team := by unfold State.performScFor; dsimp only; split <;> simp
@[simp] theorem State.performScFor_crew (s : State) (p : StoreByte → Bool) : (s.performScFor p).crew = s.crew := by unfold State.performScFor; dsimp only; split <;> simp
@[simp] theorem State.performScFor_ctx (s : State) (p : StoreByte → Bool) : (s.performScFor p).ctx = s.ctx := by unfold State.performScFor; dsimp only; split <;> simp
@[simp] theorem State.performScFor_teams (s : State) (p : StoreByte → Bool) : (s.performScFor p).teams = s.teams := by unfold State.performScFor; dsimp only; split <;> simp
@[simp] theorem State.performScFor_crews (s : State) (p : StoreByte → Bool) : (s.performScFor p).crews = s.crews := by unfold State.performScFor; dsimp only; split <;> simp
@[simp] theorem State.performScFor_ctxs (s : State) (p : StoreByte → Bool) : (s.performScFor p).ctxs = s.ctxs := by unfold State.performScFor; dsimp only; split <;> simp
@[simp] theorem State.performScFor_dev (s : State) (p : StoreByte → Bool) : (s.performScFor p).dev = s.dev := by unfold State.performScFor; dsimp only; split <;> simp
@[simp] theorem State.performScFor_bankOld (s : State) (p : StoreByte → Bool) : (s.performScFor p).bankOld = s.bankOld := by unfold State.performScFor; dsimp only; split <;> simp
@[simp] theorem State.performScFor_weights (s : State) (p : StoreByte → Bool) : (s.performScFor p).weights = s.weights := by unfold State.performScFor; dsimp only; split <;> simp
@[simp] theorem State.performScFor_semaphores (s : State) (p : StoreByte → Bool) : (s.performScFor p).semaphores = s.semaphores := by unfold State.performScFor; dsimp only; split <;> simp
@[simp] theorem State.performScFor_bankErr (s : State) (p : StoreByte → Bool) : (s.performScFor p).bankErr = s.bankErr := by unfold State.performScFor; dsimp only; split <;> simp
@[simp] theorem State.performScFor_rounds (s : State) (p : StoreByte → Bool) : (s.performScFor p).rounds = s.rounds := by unfold State.performScFor; dsimp only; split <;> simp
@[simp] theorem State.performScFor_bankCmds (s : State) (p : StoreByte → Bool) : (s.performScFor p).bankCmds = s.bankCmds := by unfold State.performScFor; dsimp only; split <;> simp
@[simp] theorem State.performScFor_ops (s : State) (p : StoreByte → Bool) : (s.performScFor p).ops = s.ops := by unfold State.performScFor; dsimp only; split <;> simp
@[simp] theorem State.performScFor_atomics (s : State) (p : StoreByte → Bool) : (s.performScFor p).atomics = s.atomics := by unfold State.performScFor; dsimp only; split <;> simp
@[simp] theorem State.performScFor_dieTlbs (s : State) (p : StoreByte → Bool) : (s.performScFor p).dieTlbs = s.dieTlbs := by unfold State.performScFor; dsimp only; split <;> simp
@[simp] theorem State.performScFor_shoots (s : State) (p : StoreByte → Bool) : (s.performScFor p).shoots = s.shoots := by unfold State.performScFor; dsimp only; split <;> simp
@[simp] theorem State.performScFor_staging (s : State) (p : StoreByte → Bool) : (s.performScFor p).staging = s.staging := by unfold State.performScFor; dsimp only; split <;> simp
@[simp] theorem State.performScFor_slotsBusy (s : State) (p : StoreByte → Bool) : (s.performScFor p).slotsBusy = s.slotsBusy := by unfold State.performScFor; dsimp only; split <;> simp
@[simp] theorem State.performScFor_inbox (s : State) (p : StoreByte → Bool) : (s.performScFor p).inbox = s.inbox := by unfold State.performScFor; dsimp only; split <;> simp
@[simp] theorem State.performScFor_nextKey (s : State) (p : StoreByte → Bool) : (s.performScFor p).nextKey = s.nextKey := by unfold State.performScFor; dsimp only; split <;> simp
@[simp] theorem State.performScFor_tick (s : State) (p : StoreByte → Bool) : (s.performScFor p).tick = s.tick := by unfold State.performScFor; dsimp only; split <;> simp
@[simp] theorem State.performSc_team (s : State)  : (s.performSc).team = s.team := State.performScAll_team s s.scStores
@[simp] theorem State.performSc_crew (s : State)  : (s.performSc).crew = s.crew := State.performScAll_crew s s.scStores
@[simp] theorem State.performSc_ctx (s : State)  : (s.performSc).ctx = s.ctx := State.performScAll_ctx s s.scStores
@[simp] theorem State.performSc_teams (s : State)  : (s.performSc).teams = s.teams := State.performScAll_teams s s.scStores
@[simp] theorem State.performSc_crews (s : State)  : (s.performSc).crews = s.crews := State.performScAll_crews s s.scStores
@[simp] theorem State.performSc_ctxs (s : State)  : (s.performSc).ctxs = s.ctxs := State.performScAll_ctxs s s.scStores
@[simp] theorem State.performSc_dev (s : State)  : (s.performSc).dev = s.dev := State.performScAll_dev s s.scStores
@[simp] theorem State.performSc_bankOld (s : State)  : (s.performSc).bankOld = s.bankOld := State.performScAll_bankOld s s.scStores
@[simp] theorem State.performSc_weights (s : State)  : (s.performSc).weights = s.weights := State.performScAll_weights s s.scStores
@[simp] theorem State.performSc_semaphores (s : State)  : (s.performSc).semaphores = s.semaphores := State.performScAll_semaphores s s.scStores
@[simp] theorem State.performSc_bankErr (s : State)  : (s.performSc).bankErr = s.bankErr := State.performScAll_bankErr s s.scStores
@[simp] theorem State.performSc_rounds (s : State)  : (s.performSc).rounds = s.rounds := State.performScAll_rounds s s.scStores
@[simp] theorem State.performSc_bankCmds (s : State)  : (s.performSc).bankCmds = s.bankCmds := State.performScAll_bankCmds s s.scStores
@[simp] theorem State.performSc_ops (s : State)  : (s.performSc).ops = s.ops := State.performScAll_ops s s.scStores
@[simp] theorem State.performSc_atomics (s : State)  : (s.performSc).atomics = s.atomics := State.performScAll_atomics s s.scStores
@[simp] theorem State.performSc_dieTlbs (s : State)  : (s.performSc).dieTlbs = s.dieTlbs := State.performScAll_dieTlbs s s.scStores
@[simp] theorem State.performSc_shoots (s : State)  : (s.performSc).shoots = s.shoots := State.performScAll_shoots s s.scStores
@[simp] theorem State.performSc_staging (s : State)  : (s.performSc).staging = s.staging := State.performScAll_staging s s.scStores
@[simp] theorem State.performSc_slotsBusy (s : State)  : (s.performSc).slotsBusy = s.slotsBusy := State.performScAll_slotsBusy s s.scStores
@[simp] theorem State.performSc_inbox (s : State)  : (s.performSc).inbox = s.inbox := State.performScAll_inbox s s.scStores
@[simp] theorem State.performSc_nextKey (s : State)  : (s.performSc).nextKey = s.nextKey := State.performScAll_nextKey s s.scStores
@[simp] theorem State.performSc_tick (s : State)  : (s.performSc).tick = s.tick := State.performScAll_tick s s.scStores
@[simp] theorem State.performSc_scStores (s : State) : s.performSc.scStores = [] := rfl
@[simp] theorem State.settleScOf_team (s : State) (k : Nat) : (s.settleScOf k).team = s.team := State.performScFor_team s _
@[simp] theorem State.settleScOf_crew (s : State) (k : Nat) : (s.settleScOf k).crew = s.crew := State.performScFor_crew s _
@[simp] theorem State.settleScOf_ctx (s : State) (k : Nat) : (s.settleScOf k).ctx = s.ctx := State.performScFor_ctx s _
@[simp] theorem State.settleScOf_teams (s : State) (k : Nat) : (s.settleScOf k).teams = s.teams := State.performScFor_teams s _
@[simp] theorem State.settleScOf_crews (s : State) (k : Nat) : (s.settleScOf k).crews = s.crews := State.performScFor_crews s _
@[simp] theorem State.settleScOf_ctxs (s : State) (k : Nat) : (s.settleScOf k).ctxs = s.ctxs := State.performScFor_ctxs s _
@[simp] theorem State.settleScOf_dev (s : State) (k : Nat) : (s.settleScOf k).dev = s.dev := State.performScFor_dev s _
@[simp] theorem State.settleScOf_bankOld (s : State) (k : Nat) : (s.settleScOf k).bankOld = s.bankOld := State.performScFor_bankOld s _
@[simp] theorem State.settleScOf_weights (s : State) (k : Nat) : (s.settleScOf k).weights = s.weights := State.performScFor_weights s _
@[simp] theorem State.settleScOf_semaphores (s : State) (k : Nat) : (s.settleScOf k).semaphores = s.semaphores := State.performScFor_semaphores s _
@[simp] theorem State.settleScOf_bankErr (s : State) (k : Nat) : (s.settleScOf k).bankErr = s.bankErr := State.performScFor_bankErr s _
@[simp] theorem State.settleScOf_rounds (s : State) (k : Nat) : (s.settleScOf k).rounds = s.rounds := State.performScFor_rounds s _
@[simp] theorem State.settleScOf_bankCmds (s : State) (k : Nat) : (s.settleScOf k).bankCmds = s.bankCmds := State.performScFor_bankCmds s _
@[simp] theorem State.settleScOf_ops (s : State) (k : Nat) : (s.settleScOf k).ops = s.ops := State.performScFor_ops s _
@[simp] theorem State.settleScOf_atomics (s : State) (k : Nat) : (s.settleScOf k).atomics = s.atomics := State.performScFor_atomics s _
@[simp] theorem State.settleScOf_dieTlbs (s : State) (k : Nat) : (s.settleScOf k).dieTlbs = s.dieTlbs := State.performScFor_dieTlbs s _
@[simp] theorem State.settleScOf_shoots (s : State) (k : Nat) : (s.settleScOf k).shoots = s.shoots := State.performScFor_shoots s _
@[simp] theorem State.settleScOf_staging (s : State) (k : Nat) : (s.settleScOf k).staging = s.staging := State.performScFor_staging s _
@[simp] theorem State.settleScOf_slotsBusy (s : State) (k : Nat) : (s.settleScOf k).slotsBusy = s.slotsBusy := State.performScFor_slotsBusy s _
@[simp] theorem State.settleScOf_inbox (s : State) (k : Nat) : (s.settleScOf k).inbox = s.inbox := State.performScFor_inbox s _
@[simp] theorem State.settleScOf_nextKey (s : State) (k : Nat) : (s.settleScOf k).nextKey = s.nextKey := State.performScFor_nextKey s _
@[simp] theorem State.settleScOf_tick (s : State) (k : Nat) : (s.settleScOf k).tick = s.tick := State.performScFor_tick s _
@[simp] theorem State.settleSc_team (s : State)  : (s.settleSc).team = s.team := State.performScFor_team s _
@[simp] theorem State.settleSc_crew (s : State)  : (s.settleSc).crew = s.crew := State.performScFor_crew s _
@[simp] theorem State.settleSc_ctx (s : State)  : (s.settleSc).ctx = s.ctx := State.performScFor_ctx s _
@[simp] theorem State.settleSc_teams (s : State)  : (s.settleSc).teams = s.teams := State.performScFor_teams s _
@[simp] theorem State.settleSc_crews (s : State)  : (s.settleSc).crews = s.crews := State.performScFor_crews s _
@[simp] theorem State.settleSc_ctxs (s : State)  : (s.settleSc).ctxs = s.ctxs := State.performScFor_ctxs s _
@[simp] theorem State.settleSc_dev (s : State)  : (s.settleSc).dev = s.dev := State.performScFor_dev s _
@[simp] theorem State.settleSc_bankOld (s : State)  : (s.settleSc).bankOld = s.bankOld := State.performScFor_bankOld s _
@[simp] theorem State.settleSc_weights (s : State)  : (s.settleSc).weights = s.weights := State.performScFor_weights s _
@[simp] theorem State.settleSc_semaphores (s : State)  : (s.settleSc).semaphores = s.semaphores := State.performScFor_semaphores s _
@[simp] theorem State.settleSc_bankErr (s : State)  : (s.settleSc).bankErr = s.bankErr := State.performScFor_bankErr s _
@[simp] theorem State.settleSc_rounds (s : State)  : (s.settleSc).rounds = s.rounds := State.performScFor_rounds s _
@[simp] theorem State.settleSc_bankCmds (s : State)  : (s.settleSc).bankCmds = s.bankCmds := State.performScFor_bankCmds s _
@[simp] theorem State.settleSc_ops (s : State)  : (s.settleSc).ops = s.ops := State.performScFor_ops s _
@[simp] theorem State.settleSc_atomics (s : State)  : (s.settleSc).atomics = s.atomics := State.performScFor_atomics s _
@[simp] theorem State.settleSc_dieTlbs (s : State)  : (s.settleSc).dieTlbs = s.dieTlbs := State.performScFor_dieTlbs s _
@[simp] theorem State.settleSc_shoots (s : State)  : (s.settleSc).shoots = s.shoots := State.performScFor_shoots s _
@[simp] theorem State.settleSc_staging (s : State)  : (s.settleSc).staging = s.staging := State.performScFor_staging s _
@[simp] theorem State.settleSc_slotsBusy (s : State)  : (s.settleSc).slotsBusy = s.slotsBusy := State.performScFor_slotsBusy s _
@[simp] theorem State.settleSc_inbox (s : State)  : (s.settleSc).inbox = s.inbox := State.performScFor_inbox s _
@[simp] theorem State.settleSc_nextKey (s : State)  : (s.settleSc).nextKey = s.nextKey := State.performScFor_nextKey s _
@[simp] theorem State.settleSc_tick (s : State)  : (s.settleSc).tick = s.tick := State.performScFor_tick s _
@[simp] theorem State.drainFor_team (s : State) (c : Nat) (l : List Loc) : (s.drainFor c l).team = s.team := (State.foldl_keeps _ (fun s => s.team) (fun s _ => State.drainLine_team s _ _) _ _).trans (State.performScFor_team _ _)
@[simp] theorem State.drainFor_crew (s : State) (c : Nat) (l : List Loc) : (s.drainFor c l).crew = s.crew := (State.foldl_keeps _ (fun s => s.crew) (fun s _ => State.drainLine_crew s _ _) _ _).trans (State.performScFor_crew _ _)
@[simp] theorem State.drainFor_ctx (s : State) (c : Nat) (l : List Loc) : (s.drainFor c l).ctx = s.ctx := (State.foldl_keeps _ (fun s => s.ctx) (fun s _ => State.drainLine_ctx s _ _) _ _).trans (State.performScFor_ctx _ _)
@[simp] theorem State.drainFor_teams (s : State) (c : Nat) (l : List Loc) : (s.drainFor c l).teams = s.teams := (State.foldl_keeps _ (fun s => s.teams) (fun s _ => State.drainLine_teams s _ _) _ _).trans (State.performScFor_teams _ _)
@[simp] theorem State.drainFor_crews (s : State) (c : Nat) (l : List Loc) : (s.drainFor c l).crews = s.crews := (State.foldl_keeps _ (fun s => s.crews) (fun s _ => State.drainLine_crews s _ _) _ _).trans (State.performScFor_crews _ _)
@[simp] theorem State.drainFor_ctxs (s : State) (c : Nat) (l : List Loc) : (s.drainFor c l).ctxs = s.ctxs := (State.foldl_keeps _ (fun s => s.ctxs) (fun s _ => State.drainLine_ctxs s _ _) _ _).trans (State.performScFor_ctxs _ _)
@[simp] theorem State.drainFor_dev (s : State) (c : Nat) (l : List Loc) : (s.drainFor c l).dev = s.dev := (State.foldl_keeps _ (fun s => s.dev) (fun s _ => State.drainLine_dev s _ _) _ _).trans (State.performScFor_dev _ _)
@[simp] theorem State.drainFor_bankOld (s : State) (c : Nat) (l : List Loc) : (s.drainFor c l).bankOld = s.bankOld := (State.foldl_keeps _ (fun s => s.bankOld) (fun s _ => State.drainLine_bankOld s _ _) _ _).trans (State.performScFor_bankOld _ _)
@[simp] theorem State.drainFor_weights (s : State) (c : Nat) (l : List Loc) : (s.drainFor c l).weights = s.weights := (State.foldl_keeps _ (fun s => s.weights) (fun s _ => State.drainLine_weights s _ _) _ _).trans (State.performScFor_weights _ _)
@[simp] theorem State.drainFor_semaphores (s : State) (c : Nat) (l : List Loc) : (s.drainFor c l).semaphores = s.semaphores := (State.foldl_keeps _ (fun s => s.semaphores) (fun s _ => State.drainLine_semaphores s _ _) _ _).trans (State.performScFor_semaphores _ _)
@[simp] theorem State.drainFor_bankErr (s : State) (c : Nat) (l : List Loc) : (s.drainFor c l).bankErr = s.bankErr := (State.foldl_keeps _ (fun s => s.bankErr) (fun s _ => State.drainLine_bankErr s _ _) _ _).trans (State.performScFor_bankErr _ _)
@[simp] theorem State.drainFor_rounds (s : State) (c : Nat) (l : List Loc) : (s.drainFor c l).rounds = s.rounds := (State.foldl_keeps _ (fun s => s.rounds) (fun s _ => State.drainLine_rounds s _ _) _ _).trans (State.performScFor_rounds _ _)
@[simp] theorem State.drainFor_bankCmds (s : State) (c : Nat) (l : List Loc) : (s.drainFor c l).bankCmds = s.bankCmds := (State.foldl_keeps _ (fun s => s.bankCmds) (fun s _ => State.drainLine_bankCmds s _ _) _ _).trans (State.performScFor_bankCmds _ _)
@[simp] theorem State.drainFor_ops (s : State) (c : Nat) (l : List Loc) : (s.drainFor c l).ops = s.ops := (State.foldl_keeps _ (fun s => s.ops) (fun s _ => State.drainLine_ops s _ _) _ _).trans (State.performScFor_ops _ _)
@[simp] theorem State.drainFor_atomics (s : State) (c : Nat) (l : List Loc) : (s.drainFor c l).atomics = s.atomics := (State.foldl_keeps _ (fun s => s.atomics) (fun s _ => State.drainLine_atomics s _ _) _ _).trans (State.performScFor_atomics _ _)
@[simp] theorem State.drainFor_dieTlbs (s : State) (c : Nat) (l : List Loc) : (s.drainFor c l).dieTlbs = s.dieTlbs := (State.foldl_keeps _ (fun s => s.dieTlbs) (fun s _ => State.drainLine_dieTlbs s _ _) _ _).trans (State.performScFor_dieTlbs _ _)
@[simp] theorem State.drainFor_shoots (s : State) (c : Nat) (l : List Loc) : (s.drainFor c l).shoots = s.shoots := (State.foldl_keeps _ (fun s => s.shoots) (fun s _ => State.drainLine_shoots s _ _) _ _).trans (State.performScFor_shoots _ _)
@[simp] theorem State.drainFor_staging (s : State) (c : Nat) (l : List Loc) : (s.drainFor c l).staging = s.staging := (State.foldl_keeps _ (fun s => s.staging) (fun s _ => State.drainLine_staging s _ _) _ _).trans (State.performScFor_staging _ _)
@[simp] theorem State.drainFor_slotsBusy (s : State) (c : Nat) (l : List Loc) : (s.drainFor c l).slotsBusy = s.slotsBusy := (State.foldl_keeps _ (fun s => s.slotsBusy) (fun s _ => State.drainLine_slotsBusy s _ _) _ _).trans (State.performScFor_slotsBusy _ _)
@[simp] theorem State.drainFor_inbox (s : State) (c : Nat) (l : List Loc) : (s.drainFor c l).inbox = s.inbox := (State.foldl_keeps _ (fun s => s.inbox) (fun s _ => State.drainLine_inbox s _ _) _ _).trans (State.performScFor_inbox _ _)
@[simp] theorem State.drainFor_nextKey (s : State) (c : Nat) (l : List Loc) : (s.drainFor c l).nextKey = s.nextKey := (State.foldl_keeps _ (fun s => s.nextKey) (fun s _ => State.drainLine_nextKey s _ _) _ _).trans (State.performScFor_nextKey _ _)
@[simp] theorem State.drainFor_tick (s : State) (c : Nat) (l : List Loc) : (s.drainFor c l).tick = s.tick := (State.foldl_keeps _ (fun s => s.tick) (fun s _ => State.drainLine_tick s _ _) _ _).trans (State.performScFor_tick _ _)
@[simp] theorem State.afterLoad_team (s : State) (k o c : Nat) (l : Loc) (n m : Nat) : (s.afterLoad k o c l n m).team = s.team := by unfold State.afterLoad; dsimp only; split <;> [rfl; (split <;> simp)]
@[simp] theorem State.afterLoad_crew (s : State) (k o c : Nat) (l : Loc) (n m : Nat) : (s.afterLoad k o c l n m).crew = s.crew := by unfold State.afterLoad; dsimp only; split <;> [rfl; (split <;> simp)]
@[simp] theorem State.afterLoad_ctx (s : State) (k o c : Nat) (l : Loc) (n m : Nat) : (s.afterLoad k o c l n m).ctx = s.ctx := by unfold State.afterLoad; dsimp only; split <;> [rfl; (split <;> simp)]
@[simp] theorem State.afterLoad_teams (s : State) (k o c : Nat) (l : Loc) (n m : Nat) : (s.afterLoad k o c l n m).teams = s.teams := by unfold State.afterLoad; dsimp only; split <;> [rfl; (split <;> simp)]
@[simp] theorem State.afterLoad_crews (s : State) (k o c : Nat) (l : Loc) (n m : Nat) : (s.afterLoad k o c l n m).crews = s.crews := by unfold State.afterLoad; dsimp only; split <;> [rfl; (split <;> simp)]
@[simp] theorem State.afterLoad_ctxs (s : State) (k o c : Nat) (l : Loc) (n m : Nat) : (s.afterLoad k o c l n m).ctxs = s.ctxs := by unfold State.afterLoad; dsimp only; split <;> [rfl; (split <;> simp)]
@[simp] theorem State.afterLoad_mem (s : State) (k o c : Nat) (l : Loc) (n m : Nat) : (s.afterLoad k o c l n m).mem = s.mem := by unfold State.afterLoad; dsimp only; split <;> [rfl; (split <;> simp)]
@[simp] theorem State.afterLoad_openMem (s : State) (k o c : Nat) (l : Loc) (n m : Nat) : (s.afterLoad k o c l n m).openMem = s.openMem := by unfold State.afterLoad; dsimp only; split <;> [rfl; (split <;> simp)]
@[simp] theorem State.afterLoad_bankOld (s : State) (k o c : Nat) (l : Loc) (n m : Nat) : (s.afterLoad k o c l n m).bankOld = s.bankOld := by unfold State.afterLoad; dsimp only; split <;> [rfl; (split <;> simp)]
@[simp] theorem State.afterLoad_weights (s : State) (k o c : Nat) (l : Loc) (n m : Nat) : (s.afterLoad k o c l n m).weights = s.weights := by unfold State.afterLoad; dsimp only; split <;> [rfl; (split <;> simp)]
@[simp] theorem State.afterLoad_semaphores (s : State) (k o c : Nat) (l : Loc) (n m : Nat) : (s.afterLoad k o c l n m).semaphores = s.semaphores := by unfold State.afterLoad; dsimp only; split <;> [rfl; (split <;> simp)]
@[simp] theorem State.afterLoad_bankErr (s : State) (k o c : Nat) (l : Loc) (n m : Nat) : (s.afterLoad k o c l n m).bankErr = s.bankErr := by unfold State.afterLoad; dsimp only; split <;> [rfl; (split <;> simp)]
@[simp] theorem State.afterLoad_rounds (s : State) (k o c : Nat) (l : Loc) (n m : Nat) : (s.afterLoad k o c l n m).rounds = s.rounds := by unfold State.afterLoad; dsimp only; split <;> [rfl; (split <;> simp)]
@[simp] theorem State.afterLoad_bankCmds (s : State) (k o c : Nat) (l : Loc) (n m : Nat) : (s.afterLoad k o c l n m).bankCmds = s.bankCmds := by unfold State.afterLoad; dsimp only; split <;> [rfl; (split <;> simp)]
@[simp] theorem State.afterLoad_ops (s : State) (k o c : Nat) (l : Loc) (n m : Nat) : (s.afterLoad k o c l n m).ops = s.ops := by unfold State.afterLoad; dsimp only; split <;> [rfl; (split <;> simp)]
@[simp] theorem State.afterLoad_scStores (s : State) (k o c : Nat) (l : Loc) (n m : Nat) : (s.afterLoad k o c l n m).scStores = s.scStores := by unfold State.afterLoad; dsimp only; split <;> [rfl; (split <;> simp)]
@[simp] theorem State.afterLoad_atomics (s : State) (k o c : Nat) (l : Loc) (n m : Nat) : (s.afterLoad k o c l n m).atomics = s.atomics := by unfold State.afterLoad; dsimp only; split <;> [rfl; (split <;> simp)]
@[simp] theorem State.afterLoad_dieTlbs (s : State) (k o c : Nat) (l : Loc) (n m : Nat) : (s.afterLoad k o c l n m).dieTlbs = s.dieTlbs := by unfold State.afterLoad; dsimp only; split <;> [rfl; (split <;> simp)]
@[simp] theorem State.afterLoad_shoots (s : State) (k o c : Nat) (l : Loc) (n m : Nat) : (s.afterLoad k o c l n m).shoots = s.shoots := by unfold State.afterLoad; dsimp only; split <;> [rfl; (split <;> simp)]
@[simp] theorem State.afterLoad_staging (s : State) (k o c : Nat) (l : Loc) (n m : Nat) : (s.afterLoad k o c l n m).staging = s.staging := by unfold State.afterLoad; dsimp only; split <;> [rfl; (split <;> simp)]
@[simp] theorem State.afterLoad_wrote (s : State) (k o c : Nat) (l : Loc) (n m : Nat) : (s.afterLoad k o c l n m).wrote = s.wrote := by unfold State.afterLoad; dsimp only; split <;> [rfl; (split <;> simp)]
@[simp] theorem State.afterLoad_past (s : State) (k o c : Nat) (l : Loc) (n m : Nat) : (s.afterLoad k o c l n m).past = s.past := by unfold State.afterLoad; dsimp only; split <;> [rfl; (split <;> simp)]
@[simp] theorem State.afterLoad_slotsBusy (s : State) (k o c : Nat) (l : Loc) (n m : Nat) : (s.afterLoad k o c l n m).slotsBusy = s.slotsBusy := by unfold State.afterLoad; dsimp only; split <;> [rfl; (split <;> simp)]
@[simp] theorem State.afterLoad_inbox (s : State) (k o c : Nat) (l : Loc) (n m : Nat) : (s.afterLoad k o c l n m).inbox = s.inbox := by unfold State.afterLoad; dsimp only; split <;> [rfl; (split <;> simp)]
@[simp] theorem State.afterLoad_nextKey (s : State) (k o c : Nat) (l : Loc) (n m : Nat) : (s.afterLoad k o c l n m).nextKey = s.nextKey := by unfold State.afterLoad; dsimp only; split <;> [rfl; (split <;> simp)]
@[simp] theorem State.afterLoad_tick (s : State) (k o c : Nat) (l : Loc) (n m : Nat) : (s.afterLoad k o c l n m).tick = s.tick := by unfold State.afterLoad; dsimp only; split <;> [rfl; (split <;> simp)]
@[simp] theorem State.beforeLoad_team (s : State) (b : Bool) (c : Nat) (l : Loc) (n : Nat) : (s.beforeLoad b c l n).team = s.team := by unfold State.beforeLoad; dsimp only; split <;> [rfl; exact (State.foldl_keeps _ (fun s => s.team) (fun s _ => State.drainWith_team s _ _) _ _).trans (by split <;> simp)]
@[simp] theorem State.beforeLoad_crew (s : State) (b : Bool) (c : Nat) (l : Loc) (n : Nat) : (s.beforeLoad b c l n).crew = s.crew := by unfold State.beforeLoad; dsimp only; split <;> [rfl; exact (State.foldl_keeps _ (fun s => s.crew) (fun s _ => State.drainWith_crew s _ _) _ _).trans (by split <;> simp)]
@[simp] theorem State.beforeLoad_ctx (s : State) (b : Bool) (c : Nat) (l : Loc) (n : Nat) : (s.beforeLoad b c l n).ctx = s.ctx := by unfold State.beforeLoad; dsimp only; split <;> [rfl; exact (State.foldl_keeps _ (fun s => s.ctx) (fun s _ => State.drainWith_ctx s _ _) _ _).trans (by split <;> simp)]
@[simp] theorem State.beforeLoad_teams (s : State) (b : Bool) (c : Nat) (l : Loc) (n : Nat) : (s.beforeLoad b c l n).teams = s.teams := by unfold State.beforeLoad; dsimp only; split <;> [rfl; exact (State.foldl_keeps _ (fun s => s.teams) (fun s _ => State.drainWith_teams s _ _) _ _).trans (by split <;> simp)]
@[simp] theorem State.beforeLoad_crews (s : State) (b : Bool) (c : Nat) (l : Loc) (n : Nat) : (s.beforeLoad b c l n).crews = s.crews := by unfold State.beforeLoad; dsimp only; split <;> [rfl; exact (State.foldl_keeps _ (fun s => s.crews) (fun s _ => State.drainWith_crews s _ _) _ _).trans (by split <;> simp)]
@[simp] theorem State.beforeLoad_ctxs (s : State) (b : Bool) (c : Nat) (l : Loc) (n : Nat) : (s.beforeLoad b c l n).ctxs = s.ctxs := by unfold State.beforeLoad; dsimp only; split <;> [rfl; exact (State.foldl_keeps _ (fun s => s.ctxs) (fun s _ => State.drainWith_ctxs s _ _) _ _).trans (by split <;> simp)]
@[simp] theorem State.beforeLoad_dev (s : State) (b : Bool) (c : Nat) (l : Loc) (n : Nat) : (s.beforeLoad b c l n).dev = s.dev := by unfold State.beforeLoad; dsimp only; split <;> [rfl; exact (State.foldl_keeps _ (fun s => s.dev) (fun s _ => State.drainWith_dev s _ _) _ _).trans (by split <;> simp)]
@[simp] theorem State.beforeLoad_bankOld (s : State) (b : Bool) (c : Nat) (l : Loc) (n : Nat) : (s.beforeLoad b c l n).bankOld = s.bankOld := by unfold State.beforeLoad; dsimp only; split <;> [rfl; exact (State.foldl_keeps _ (fun s => s.bankOld) (fun s _ => State.drainWith_bankOld s _ _) _ _).trans (by split <;> simp)]
@[simp] theorem State.beforeLoad_weights (s : State) (b : Bool) (c : Nat) (l : Loc) (n : Nat) : (s.beforeLoad b c l n).weights = s.weights := by unfold State.beforeLoad; dsimp only; split <;> [rfl; exact (State.foldl_keeps _ (fun s => s.weights) (fun s _ => State.drainWith_weights s _ _) _ _).trans (by split <;> simp)]
@[simp] theorem State.beforeLoad_semaphores (s : State) (b : Bool) (c : Nat) (l : Loc) (n : Nat) : (s.beforeLoad b c l n).semaphores = s.semaphores := by unfold State.beforeLoad; dsimp only; split <;> [rfl; exact (State.foldl_keeps _ (fun s => s.semaphores) (fun s _ => State.drainWith_semaphores s _ _) _ _).trans (by split <;> simp)]
@[simp] theorem State.beforeLoad_bankErr (s : State) (b : Bool) (c : Nat) (l : Loc) (n : Nat) : (s.beforeLoad b c l n).bankErr = s.bankErr := by unfold State.beforeLoad; dsimp only; split <;> [rfl; exact (State.foldl_keeps _ (fun s => s.bankErr) (fun s _ => State.drainWith_bankErr s _ _) _ _).trans (by split <;> simp)]
@[simp] theorem State.beforeLoad_rounds (s : State) (b : Bool) (c : Nat) (l : Loc) (n : Nat) : (s.beforeLoad b c l n).rounds = s.rounds := by unfold State.beforeLoad; dsimp only; split <;> [rfl; exact (State.foldl_keeps _ (fun s => s.rounds) (fun s _ => State.drainWith_rounds s _ _) _ _).trans (by split <;> simp)]
@[simp] theorem State.beforeLoad_bankCmds (s : State) (b : Bool) (c : Nat) (l : Loc) (n : Nat) : (s.beforeLoad b c l n).bankCmds = s.bankCmds := by unfold State.beforeLoad; dsimp only; split <;> [rfl; exact (State.foldl_keeps _ (fun s => s.bankCmds) (fun s _ => State.drainWith_bankCmds s _ _) _ _).trans (by split <;> simp)]
@[simp] theorem State.beforeLoad_ops (s : State) (b : Bool) (c : Nat) (l : Loc) (n : Nat) : (s.beforeLoad b c l n).ops = s.ops := by unfold State.beforeLoad; dsimp only; split <;> [rfl; exact (State.foldl_keeps _ (fun s => s.ops) (fun s _ => State.drainWith_ops s _ _) _ _).trans (by split <;> simp)]
@[simp] theorem State.beforeLoad_scStores (s : State) (b : Bool) (c : Nat) (l : Loc) (n : Nat) : (s.beforeLoad b c l n).scStores = s.scStores := by unfold State.beforeLoad; dsimp only; split <;> [rfl; exact (State.foldl_keeps _ (fun s => s.scStores) (fun s _ => State.drainWith_scStores s _ _) _ _).trans (by split <;> simp)]
@[simp] theorem State.beforeLoad_atomics (s : State) (b : Bool) (c : Nat) (l : Loc) (n : Nat) : (s.beforeLoad b c l n).atomics = s.atomics := by unfold State.beforeLoad; dsimp only; split <;> [rfl; exact (State.foldl_keeps _ (fun s => s.atomics) (fun s _ => State.drainWith_atomics s _ _) _ _).trans (by split <;> simp)]
@[simp] theorem State.beforeLoad_dieTlbs (s : State) (b : Bool) (c : Nat) (l : Loc) (n : Nat) : (s.beforeLoad b c l n).dieTlbs = s.dieTlbs := by unfold State.beforeLoad; dsimp only; split <;> [rfl; exact (State.foldl_keeps _ (fun s => s.dieTlbs) (fun s _ => State.drainWith_dieTlbs s _ _) _ _).trans (by split <;> simp)]
@[simp] theorem State.beforeLoad_shoots (s : State) (b : Bool) (c : Nat) (l : Loc) (n : Nat) : (s.beforeLoad b c l n).shoots = s.shoots := by unfold State.beforeLoad; dsimp only; split <;> [rfl; exact (State.foldl_keeps _ (fun s => s.shoots) (fun s _ => State.drainWith_shoots s _ _) _ _).trans (by split <;> simp)]
@[simp] theorem State.beforeLoad_staging (s : State) (b : Bool) (c : Nat) (l : Loc) (n : Nat) : (s.beforeLoad b c l n).staging = s.staging := by unfold State.beforeLoad; dsimp only; split <;> [rfl; exact (State.foldl_keeps _ (fun s => s.staging) (fun s _ => State.drainWith_staging s _ _) _ _).trans (by split <;> simp)]
@[simp] theorem State.beforeLoad_slotsBusy (s : State) (b : Bool) (c : Nat) (l : Loc) (n : Nat) : (s.beforeLoad b c l n).slotsBusy = s.slotsBusy := by unfold State.beforeLoad; dsimp only; split <;> [rfl; exact (State.foldl_keeps _ (fun s => s.slotsBusy) (fun s _ => State.drainWith_slotsBusy s _ _) _ _).trans (by split <;> simp)]
@[simp] theorem State.beforeLoad_inbox (s : State) (b : Bool) (c : Nat) (l : Loc) (n : Nat) : (s.beforeLoad b c l n).inbox = s.inbox := by unfold State.beforeLoad; dsimp only; split <;> [rfl; exact (State.foldl_keeps _ (fun s => s.inbox) (fun s _ => State.drainWith_inbox s _ _) _ _).trans (by split <;> simp)]
@[simp] theorem State.beforeLoad_nextKey (s : State) (b : Bool) (c : Nat) (l : Loc) (n : Nat) : (s.beforeLoad b c l n).nextKey = s.nextKey := by unfold State.beforeLoad; dsimp only; split <;> [rfl; exact (State.foldl_keeps _ (fun s => s.nextKey) (fun s _ => State.drainWith_nextKey s _ _) _ _).trans (by split <;> simp)]
@[simp] theorem State.beforeLoad_tick (s : State) (b : Bool) (c : Nat) (l : Loc) (n : Nat) : (s.beforeLoad b c l n).tick = s.tick := by unfold State.beforeLoad; dsimp only; split <;> [rfl; exact (State.foldl_keeps _ (fun s => s.tick) (fun s _ => State.drainWith_tick s _ _) _ _).trans (by split <;> simp)]

end Sys2Proof.Machine
end

