-- ==== Sys2Proof/Laws/Traps.lean ====
section
/-! SUPPORT. What trap entry and the end of a context leave unchanged, and that the memory operations keep the canonical form. -/

namespace Sys2Proof.Machine

/-! ## Changing a team, a crew or a context by its key -/

@[simp] theorem State.modTeam_crew (s : State) (k : Nat) (f : Team → Team) : (s.modTeam k f).crew = s.crew := by unfold State.modTeam; split <;> rfl
@[simp] theorem State.modTeam_ctx (s : State) (k : Nat) (f : Team → Team) : (s.modTeam k f).ctx = s.ctx := by unfold State.modTeam; split <;> rfl
@[simp] theorem State.modTeam_crews (s : State) (k : Nat) (f : Team → Team) : (s.modTeam k f).crews = s.crews := by unfold State.modTeam; split <;> rfl
@[simp] theorem State.modTeam_ctxs (s : State) (k : Nat) (f : Team → Team) : (s.modTeam k f).ctxs = s.ctxs := by unfold State.modTeam; split <;> rfl
@[simp] theorem State.modTeam_cores (s : State) (k : Nat) (f : Team → Team) : (s.modTeam k f).cores = s.cores := by unfold State.modTeam; split <;> rfl
@[simp] theorem State.modTeam_dev (s : State) (k : Nat) (f : Team → Team) : (s.modTeam k f).dev = s.dev := by unfold State.modTeam; split <;> rfl
@[simp] theorem State.modTeam_mem (s : State) (k : Nat) (f : Team → Team) : (s.modTeam k f).mem = s.mem := by unfold State.modTeam; split <;> rfl
@[simp] theorem State.modTeam_openMem (s : State) (k : Nat) (f : Team → Team) : (s.modTeam k f).openMem = s.openMem := by unfold State.modTeam; split <;> rfl
@[simp] theorem State.modTeam_bankOld (s : State) (k : Nat) (f : Team → Team) : (s.modTeam k f).bankOld = s.bankOld := by unfold State.modTeam; split <;> rfl
@[simp] theorem State.modTeam_weights (s : State) (k : Nat) (f : Team → Team) : (s.modTeam k f).weights = s.weights := by unfold State.modTeam; split <;> rfl
@[simp] theorem State.modTeam_semaphores (s : State) (k : Nat) (f : Team → Team) : (s.modTeam k f).semaphores = s.semaphores := by unfold State.modTeam; split <;> rfl
@[simp] theorem State.modTeam_bankErr (s : State) (k : Nat) (f : Team → Team) : (s.modTeam k f).bankErr = s.bankErr := by unfold State.modTeam; split <;> rfl
@[simp] theorem State.modTeam_rounds (s : State) (k : Nat) (f : Team → Team) : (s.modTeam k f).rounds = s.rounds := by unfold State.modTeam; split <;> rfl
@[simp] theorem State.modTeam_bankCmds (s : State) (k : Nat) (f : Team → Team) : (s.modTeam k f).bankCmds = s.bankCmds := by unfold State.modTeam; split <;> rfl
@[simp] theorem State.modTeam_ops (s : State) (k : Nat) (f : Team → Team) : (s.modTeam k f).ops = s.ops := by unfold State.modTeam; split <;> rfl
@[simp] theorem State.modTeam_scStores (s : State) (k : Nat) (f : Team → Team) : (s.modTeam k f).scStores = s.scStores := by unfold State.modTeam; split <;> rfl
@[simp] theorem State.modTeam_atomics (s : State) (k : Nat) (f : Team → Team) : (s.modTeam k f).atomics = s.atomics := by unfold State.modTeam; split <;> rfl
@[simp] theorem State.modTeam_dieTlbs (s : State) (k : Nat) (f : Team → Team) : (s.modTeam k f).dieTlbs = s.dieTlbs := by unfold State.modTeam; split <;> rfl
@[simp] theorem State.modTeam_shoots (s : State) (k : Nat) (f : Team → Team) : (s.modTeam k f).shoots = s.shoots := by unfold State.modTeam; split <;> rfl
@[simp] theorem State.modTeam_staging (s : State) (k : Nat) (f : Team → Team) : (s.modTeam k f).staging = s.staging := by unfold State.modTeam; split <;> rfl
@[simp] theorem State.modTeam_wrote (s : State) (k : Nat) (f : Team → Team) : (s.modTeam k f).wrote = s.wrote := by unfold State.modTeam; split <;> rfl
@[simp] theorem State.modTeam_past (s : State) (k : Nat) (f : Team → Team) : (s.modTeam k f).past = s.past := by unfold State.modTeam; split <;> rfl
@[simp] theorem State.modTeam_slotsBusy (s : State) (k : Nat) (f : Team → Team) : (s.modTeam k f).slotsBusy = s.slotsBusy := by unfold State.modTeam; split <;> rfl
@[simp] theorem State.modTeam_inbox (s : State) (k : Nat) (f : Team → Team) : (s.modTeam k f).inbox = s.inbox := by unfold State.modTeam; split <;> rfl
@[simp] theorem State.modTeam_nextKey (s : State) (k : Nat) (f : Team → Team) : (s.modTeam k f).nextKey = s.nextKey := by unfold State.modTeam; split <;> rfl
@[simp] theorem State.modTeam_tick (s : State) (k : Nat) (f : Team → Team) : (s.modTeam k f).tick = s.tick := by unfold State.modTeam; split <;> rfl
@[simp] theorem State.modCrew_team (s : State) (k : Nat) (f : Crew → Crew) : (s.modCrew k f).team = s.team := by unfold State.modCrew; split <;> rfl
@[simp] theorem State.modCrew_ctx (s : State) (k : Nat) (f : Crew → Crew) : (s.modCrew k f).ctx = s.ctx := by unfold State.modCrew; split <;> rfl
@[simp] theorem State.modCrew_teams (s : State) (k : Nat) (f : Crew → Crew) : (s.modCrew k f).teams = s.teams := by unfold State.modCrew; split <;> rfl
@[simp] theorem State.modCrew_ctxs (s : State) (k : Nat) (f : Crew → Crew) : (s.modCrew k f).ctxs = s.ctxs := by unfold State.modCrew; split <;> rfl
@[simp] theorem State.modCrew_cores (s : State) (k : Nat) (f : Crew → Crew) : (s.modCrew k f).cores = s.cores := by unfold State.modCrew; split <;> rfl
@[simp] theorem State.modCrew_dev (s : State) (k : Nat) (f : Crew → Crew) : (s.modCrew k f).dev = s.dev := by unfold State.modCrew; split <;> rfl
@[simp] theorem State.modCrew_mem (s : State) (k : Nat) (f : Crew → Crew) : (s.modCrew k f).mem = s.mem := by unfold State.modCrew; split <;> rfl
@[simp] theorem State.modCrew_openMem (s : State) (k : Nat) (f : Crew → Crew) : (s.modCrew k f).openMem = s.openMem := by unfold State.modCrew; split <;> rfl
@[simp] theorem State.modCrew_bankOld (s : State) (k : Nat) (f : Crew → Crew) : (s.modCrew k f).bankOld = s.bankOld := by unfold State.modCrew; split <;> rfl
@[simp] theorem State.modCrew_weights (s : State) (k : Nat) (f : Crew → Crew) : (s.modCrew k f).weights = s.weights := by unfold State.modCrew; split <;> rfl
@[simp] theorem State.modCrew_semaphores (s : State) (k : Nat) (f : Crew → Crew) : (s.modCrew k f).semaphores = s.semaphores := by unfold State.modCrew; split <;> rfl
@[simp] theorem State.modCrew_bankErr (s : State) (k : Nat) (f : Crew → Crew) : (s.modCrew k f).bankErr = s.bankErr := by unfold State.modCrew; split <;> rfl
@[simp] theorem State.modCrew_rounds (s : State) (k : Nat) (f : Crew → Crew) : (s.modCrew k f).rounds = s.rounds := by unfold State.modCrew; split <;> rfl
@[simp] theorem State.modCrew_bankCmds (s : State) (k : Nat) (f : Crew → Crew) : (s.modCrew k f).bankCmds = s.bankCmds := by unfold State.modCrew; split <;> rfl
@[simp] theorem State.modCrew_ops (s : State) (k : Nat) (f : Crew → Crew) : (s.modCrew k f).ops = s.ops := by unfold State.modCrew; split <;> rfl
@[simp] theorem State.modCrew_scStores (s : State) (k : Nat) (f : Crew → Crew) : (s.modCrew k f).scStores = s.scStores := by unfold State.modCrew; split <;> rfl
@[simp] theorem State.modCrew_atomics (s : State) (k : Nat) (f : Crew → Crew) : (s.modCrew k f).atomics = s.atomics := by unfold State.modCrew; split <;> rfl
@[simp] theorem State.modCrew_dieTlbs (s : State) (k : Nat) (f : Crew → Crew) : (s.modCrew k f).dieTlbs = s.dieTlbs := by unfold State.modCrew; split <;> rfl
@[simp] theorem State.modCrew_shoots (s : State) (k : Nat) (f : Crew → Crew) : (s.modCrew k f).shoots = s.shoots := by unfold State.modCrew; split <;> rfl
@[simp] theorem State.modCrew_staging (s : State) (k : Nat) (f : Crew → Crew) : (s.modCrew k f).staging = s.staging := by unfold State.modCrew; split <;> rfl
@[simp] theorem State.modCrew_wrote (s : State) (k : Nat) (f : Crew → Crew) : (s.modCrew k f).wrote = s.wrote := by unfold State.modCrew; split <;> rfl
@[simp] theorem State.modCrew_past (s : State) (k : Nat) (f : Crew → Crew) : (s.modCrew k f).past = s.past := by unfold State.modCrew; split <;> rfl
@[simp] theorem State.modCrew_slotsBusy (s : State) (k : Nat) (f : Crew → Crew) : (s.modCrew k f).slotsBusy = s.slotsBusy := by unfold State.modCrew; split <;> rfl
@[simp] theorem State.modCrew_inbox (s : State) (k : Nat) (f : Crew → Crew) : (s.modCrew k f).inbox = s.inbox := by unfold State.modCrew; split <;> rfl
@[simp] theorem State.modCrew_nextKey (s : State) (k : Nat) (f : Crew → Crew) : (s.modCrew k f).nextKey = s.nextKey := by unfold State.modCrew; split <;> rfl
@[simp] theorem State.modCrew_tick (s : State) (k : Nat) (f : Crew → Crew) : (s.modCrew k f).tick = s.tick := by unfold State.modCrew; split <;> rfl
@[simp] theorem State.modCtx_team (s : State) (k : Nat) (f : Context → Context) : (s.modCtx k f).team = s.team := by unfold State.modCtx; split <;> rfl
@[simp] theorem State.modCtx_crew (s : State) (k : Nat) (f : Context → Context) : (s.modCtx k f).crew = s.crew := by unfold State.modCtx; split <;> rfl
@[simp] theorem State.modCtx_teams (s : State) (k : Nat) (f : Context → Context) : (s.modCtx k f).teams = s.teams := by unfold State.modCtx; split <;> rfl
@[simp] theorem State.modCtx_crews (s : State) (k : Nat) (f : Context → Context) : (s.modCtx k f).crews = s.crews := by unfold State.modCtx; split <;> rfl
@[simp] theorem State.modCtx_cores (s : State) (k : Nat) (f : Context → Context) : (s.modCtx k f).cores = s.cores := by unfold State.modCtx; split <;> rfl
@[simp] theorem State.modCtx_dev (s : State) (k : Nat) (f : Context → Context) : (s.modCtx k f).dev = s.dev := by unfold State.modCtx; split <;> rfl
@[simp] theorem State.modCtx_mem (s : State) (k : Nat) (f : Context → Context) : (s.modCtx k f).mem = s.mem := by unfold State.modCtx; split <;> rfl
@[simp] theorem State.modCtx_openMem (s : State) (k : Nat) (f : Context → Context) : (s.modCtx k f).openMem = s.openMem := by unfold State.modCtx; split <;> rfl
@[simp] theorem State.modCtx_bankOld (s : State) (k : Nat) (f : Context → Context) : (s.modCtx k f).bankOld = s.bankOld := by unfold State.modCtx; split <;> rfl
@[simp] theorem State.modCtx_weights (s : State) (k : Nat) (f : Context → Context) : (s.modCtx k f).weights = s.weights := by unfold State.modCtx; split <;> rfl
@[simp] theorem State.modCtx_semaphores (s : State) (k : Nat) (f : Context → Context) : (s.modCtx k f).semaphores = s.semaphores := by unfold State.modCtx; split <;> rfl
@[simp] theorem State.modCtx_bankErr (s : State) (k : Nat) (f : Context → Context) : (s.modCtx k f).bankErr = s.bankErr := by unfold State.modCtx; split <;> rfl
@[simp] theorem State.modCtx_rounds (s : State) (k : Nat) (f : Context → Context) : (s.modCtx k f).rounds = s.rounds := by unfold State.modCtx; split <;> rfl
@[simp] theorem State.modCtx_bankCmds (s : State) (k : Nat) (f : Context → Context) : (s.modCtx k f).bankCmds = s.bankCmds := by unfold State.modCtx; split <;> rfl
@[simp] theorem State.modCtx_ops (s : State) (k : Nat) (f : Context → Context) : (s.modCtx k f).ops = s.ops := by unfold State.modCtx; split <;> rfl
@[simp] theorem State.modCtx_scStores (s : State) (k : Nat) (f : Context → Context) : (s.modCtx k f).scStores = s.scStores := by unfold State.modCtx; split <;> rfl
@[simp] theorem State.modCtx_atomics (s : State) (k : Nat) (f : Context → Context) : (s.modCtx k f).atomics = s.atomics := by unfold State.modCtx; split <;> rfl
@[simp] theorem State.modCtx_dieTlbs (s : State) (k : Nat) (f : Context → Context) : (s.modCtx k f).dieTlbs = s.dieTlbs := by unfold State.modCtx; split <;> rfl
@[simp] theorem State.modCtx_shoots (s : State) (k : Nat) (f : Context → Context) : (s.modCtx k f).shoots = s.shoots := by unfold State.modCtx; split <;> rfl
@[simp] theorem State.modCtx_staging (s : State) (k : Nat) (f : Context → Context) : (s.modCtx k f).staging = s.staging := by unfold State.modCtx; split <;> rfl
@[simp] theorem State.modCtx_wrote (s : State) (k : Nat) (f : Context → Context) : (s.modCtx k f).wrote = s.wrote := by unfold State.modCtx; split <;> rfl
@[simp] theorem State.modCtx_past (s : State) (k : Nat) (f : Context → Context) : (s.modCtx k f).past = s.past := by unfold State.modCtx; split <;> rfl
@[simp] theorem State.modCtx_slotsBusy (s : State) (k : Nat) (f : Context → Context) : (s.modCtx k f).slotsBusy = s.slotsBusy := by unfold State.modCtx; split <;> rfl
@[simp] theorem State.modCtx_inbox (s : State) (k : Nat) (f : Context → Context) : (s.modCtx k f).inbox = s.inbox := by unfold State.modCtx; split <;> rfl
@[simp] theorem State.modCtx_nextKey (s : State) (k : Nat) (f : Context → Context) : (s.modCtx k f).nextKey = s.nextKey := by unfold State.modCtx; split <;> rfl
@[simp] theorem State.modCtx_tick (s : State) (k : Nat) (f : Context → Context) : (s.modCtx k f).tick = s.tick := by unfold State.modCtx; split <;> rfl

theorem State.modTeam_self {s : State} {k : Nat} (f : Team → Team) (h : s.team.state ≠ .free) (hk : s.team.key = k) :
    s.modTeam k f = s.withTeam (f s.team) := by simp [State.modTeam, State.withTeam, h, hk]

theorem State.modCtx_self {s : State} {k : Nat} (f : Context → Context) (h : s.ctx.state ≠ .none) (hk : s.ctx.key = k) :
    s.modCtx k f = { s with ctx := f s.ctx } := by simp [State.modCtx, h, hk]

theorem State.modCrew_self {s : State} {k : Nat} (f : Crew → Crew) (h : s.crew.live = true) (hk : s.crew.key = k) :
    s.modCrew k f = { s with crew := f s.crew } := by simp [State.modCrew, h, hk]

/-! ## Traps -/

@[simp] theorem State.terminate_cores (s : State) (k c : Nat) (r : List Byte) : (s.terminate k c r).cores = s.cores := by unfold State.terminate; split <;> (try split) <;> simp
@[simp] theorem State.terminate_dev (s : State) (k c : Nat) (r : List Byte) : (s.terminate k c r).dev = s.dev := by unfold State.terminate; split <;> (try split) <;> simp
@[simp] theorem State.terminate_mem (s : State) (k c : Nat) (r : List Byte) : (s.terminate k c r).mem = s.mem := by unfold State.terminate; split <;> (try split) <;> simp
@[simp] theorem State.terminate_openMem (s : State) (k c : Nat) (r : List Byte) : (s.terminate k c r).openMem = s.openMem := by unfold State.terminate; split <;> (try split) <;> simp
@[simp] theorem State.terminate_dieTlbs (s : State) (k c : Nat) (r : List Byte) : (s.terminate k c r).dieTlbs = s.dieTlbs := by unfold State.terminate; split <;> (try split) <;> simp
@[simp] theorem State.terminate_shoots (s : State) (k c : Nat) (r : List Byte) : (s.terminate k c r).shoots = s.shoots := by unfold State.terminate; split <;> (try split) <;> simp
@[simp] theorem State.terminate_staging (s : State) (k c : Nat) (r : List Byte) : (s.terminate k c r).staging = s.staging := by unfold State.terminate; split <;> (try split) <;> simp
@[simp] theorem State.terminate_wrote (s : State) (k c : Nat) (r : List Byte) : (s.terminate k c r).wrote = s.wrote := by unfold State.terminate; split <;> (try split) <;> simp
@[simp] theorem State.terminate_bankOld (s : State) (k c : Nat) (r : List Byte) : (s.terminate k c r).bankOld = s.bankOld := by unfold State.terminate; split <;> (try split) <;> simp
@[simp] theorem State.terminate_weights (s : State) (k c : Nat) (r : List Byte) : (s.terminate k c r).weights = s.weights := by unfold State.terminate; split <;> (try split) <;> simp
@[simp] theorem State.terminate_semaphores (s : State) (k c : Nat) (r : List Byte) : (s.terminate k c r).semaphores = s.semaphores := by unfold State.terminate; split <;> (try split) <;> simp
@[simp] theorem State.terminate_bankErr (s : State) (k c : Nat) (r : List Byte) : (s.terminate k c r).bankErr = s.bankErr := by unfold State.terminate; split <;> (try split) <;> simp
@[simp] theorem State.terminate_rounds (s : State) (k c : Nat) (r : List Byte) : (s.terminate k c r).rounds = s.rounds := by unfold State.terminate; split <;> (try split) <;> simp
@[simp] theorem State.terminate_bankCmds (s : State) (k c : Nat) (r : List Byte) : (s.terminate k c r).bankCmds = s.bankCmds := by unfold State.terminate; split <;> (try split) <;> simp
@[simp] theorem State.terminate_scStores (s : State) (k c : Nat) (r : List Byte) : (s.terminate k c r).scStores = s.scStores := by unfold State.terminate; split <;> (try split) <;> simp
@[simp] theorem State.terminate_atomics (s : State) (k c : Nat) (r : List Byte) : (s.terminate k c r).atomics = s.atomics := by unfold State.terminate; split <;> (try split) <;> simp
@[simp] theorem State.terminate_past (s : State) (k c : Nat) (r : List Byte) : (s.terminate k c r).past = s.past := by unfold State.terminate; split <;> (try split) <;> simp
@[simp] theorem State.terminate_slotsBusy (s : State) (k c : Nat) (r : List Byte) : (s.terminate k c r).slotsBusy = s.slotsBusy := by unfold State.terminate; split <;> (try split) <;> simp
@[simp] theorem State.terminate_inbox (s : State) (k c : Nat) (r : List Byte) : (s.terminate k c r).inbox = s.inbox := by unfold State.terminate; split <;> (try split) <;> simp
@[simp] theorem State.terminate_nextKey (s : State) (k c : Nat) (r : List Byte) : (s.terminate k c r).nextKey = s.nextKey := by unfold State.terminate; split <;> (try split) <;> simp
@[simp] theorem State.terminate_tick (s : State) (k c : Nat) (r : List Byte) : (s.terminate k c r).tick = s.tick := by unfold State.terminate; split <;> (try split) <;> simp
@[simp] theorem State.doubleFault_cores (s : State) (c a : Nat) (i : BitVec 64) (l : Nat) : (s.doubleFault c a i l).cores = s.cores := by simp [State.doubleFault]
@[simp] theorem State.doubleFault_dev (s : State) (c a : Nat) (i : BitVec 64) (l : Nat) : (s.doubleFault c a i l).dev = s.dev := by simp [State.doubleFault]
@[simp] theorem State.doubleFault_mem (s : State) (c a : Nat) (i : BitVec 64) (l : Nat) : (s.doubleFault c a i l).mem = s.mem := by simp [State.doubleFault]
@[simp] theorem State.doubleFault_openMem (s : State) (c a : Nat) (i : BitVec 64) (l : Nat) : (s.doubleFault c a i l).openMem = s.openMem := by simp [State.doubleFault]
@[simp] theorem State.doubleFault_dieTlbs (s : State) (c a : Nat) (i : BitVec 64) (l : Nat) : (s.doubleFault c a i l).dieTlbs = s.dieTlbs := by simp [State.doubleFault]
@[simp] theorem State.doubleFault_shoots (s : State) (c a : Nat) (i : BitVec 64) (l : Nat) : (s.doubleFault c a i l).shoots = s.shoots := by simp [State.doubleFault]
@[simp] theorem State.doubleFault_staging (s : State) (c a : Nat) (i : BitVec 64) (l : Nat) : (s.doubleFault c a i l).staging = s.staging := by simp [State.doubleFault]
@[simp] theorem State.doubleFault_wrote (s : State) (c a : Nat) (i : BitVec 64) (l : Nat) : (s.doubleFault c a i l).wrote = s.wrote := by simp [State.doubleFault]
@[simp] theorem State.doubleFault_bankOld (s : State) (c a : Nat) (i : BitVec 64) (l : Nat) : (s.doubleFault c a i l).bankOld = s.bankOld := by simp [State.doubleFault]
@[simp] theorem State.doubleFault_weights (s : State) (c a : Nat) (i : BitVec 64) (l : Nat) : (s.doubleFault c a i l).weights = s.weights := by simp [State.doubleFault]
@[simp] theorem State.doubleFault_semaphores (s : State) (c a : Nat) (i : BitVec 64) (l : Nat) : (s.doubleFault c a i l).semaphores = s.semaphores := by simp [State.doubleFault]
@[simp] theorem State.doubleFault_bankErr (s : State) (c a : Nat) (i : BitVec 64) (l : Nat) : (s.doubleFault c a i l).bankErr = s.bankErr := by simp [State.doubleFault]
@[simp] theorem State.doubleFault_rounds (s : State) (c a : Nat) (i : BitVec 64) (l : Nat) : (s.doubleFault c a i l).rounds = s.rounds := by simp [State.doubleFault]
@[simp] theorem State.doubleFault_bankCmds (s : State) (c a : Nat) (i : BitVec 64) (l : Nat) : (s.doubleFault c a i l).bankCmds = s.bankCmds := by simp [State.doubleFault]
@[simp] theorem State.doubleFault_scStores (s : State) (c a : Nat) (i : BitVec 64) (l : Nat) : (s.doubleFault c a i l).scStores = s.scStores := by simp [State.doubleFault]
@[simp] theorem State.doubleFault_atomics (s : State) (c a : Nat) (i : BitVec 64) (l : Nat) : (s.doubleFault c a i l).atomics = s.atomics := by simp [State.doubleFault]
@[simp] theorem State.doubleFault_past (s : State) (c a : Nat) (i : BitVec 64) (l : Nat) : (s.doubleFault c a i l).past = s.past := by simp [State.doubleFault]
@[simp] theorem State.doubleFault_slotsBusy (s : State) (c a : Nat) (i : BitVec 64) (l : Nat) : (s.doubleFault c a i l).slotsBusy = s.slotsBusy := by simp [State.doubleFault]
@[simp] theorem State.doubleFault_inbox (s : State) (c a : Nat) (i : BitVec 64) (l : Nat) : (s.doubleFault c a i l).inbox = s.inbox := by simp [State.doubleFault]
@[simp] theorem State.doubleFault_nextKey (s : State) (c a : Nat) (i : BitVec 64) (l : Nat) : (s.doubleFault c a i l).nextKey = s.nextKey := by simp [State.doubleFault]
@[simp] theorem State.doubleFault_tick (s : State) (c a : Nat) (i : BitVec 64) (l : Nat) : (s.doubleFault c a i l).tick = s.tick := by simp [State.doubleFault]
@[simp] theorem State.takeTrap_cores (s : State) (c a r : Nat) (i : BitVec 64) (l : Nat) : (s.takeTrap c a r i l).cores = s.cores := by unfold State.takeTrap; split <;> (try split) <;> simp
@[simp] theorem State.takeTrap_dev (s : State) (c a r : Nat) (i : BitVec 64) (l : Nat) : (s.takeTrap c a r i l).dev = s.dev := by unfold State.takeTrap; split <;> (try split) <;> simp
@[simp] theorem State.takeTrap_mem (s : State) (c a r : Nat) (i : BitVec 64) (l : Nat) : (s.takeTrap c a r i l).mem = s.mem := by unfold State.takeTrap; split <;> (try split) <;> simp
@[simp] theorem State.takeTrap_openMem (s : State) (c a r : Nat) (i : BitVec 64) (l : Nat) : (s.takeTrap c a r i l).openMem = s.openMem := by unfold State.takeTrap; split <;> (try split) <;> simp
@[simp] theorem State.takeTrap_dieTlbs (s : State) (c a r : Nat) (i : BitVec 64) (l : Nat) : (s.takeTrap c a r i l).dieTlbs = s.dieTlbs := by unfold State.takeTrap; split <;> (try split) <;> simp
@[simp] theorem State.takeTrap_shoots (s : State) (c a r : Nat) (i : BitVec 64) (l : Nat) : (s.takeTrap c a r i l).shoots = s.shoots := by unfold State.takeTrap; split <;> (try split) <;> simp
@[simp] theorem State.takeTrap_staging (s : State) (c a r : Nat) (i : BitVec 64) (l : Nat) : (s.takeTrap c a r i l).staging = s.staging := by unfold State.takeTrap; split <;> (try split) <;> simp
@[simp] theorem State.takeTrap_wrote (s : State) (c a r : Nat) (i : BitVec 64) (l : Nat) : (s.takeTrap c a r i l).wrote = s.wrote := by unfold State.takeTrap; split <;> (try split) <;> simp
@[simp] theorem State.takeTrap_bankOld (s : State) (c a r : Nat) (i : BitVec 64) (l : Nat) : (s.takeTrap c a r i l).bankOld = s.bankOld := by unfold State.takeTrap; split <;> (try split) <;> simp
@[simp] theorem State.takeTrap_weights (s : State) (c a r : Nat) (i : BitVec 64) (l : Nat) : (s.takeTrap c a r i l).weights = s.weights := by unfold State.takeTrap; split <;> (try split) <;> simp
@[simp] theorem State.takeTrap_semaphores (s : State) (c a r : Nat) (i : BitVec 64) (l : Nat) : (s.takeTrap c a r i l).semaphores = s.semaphores := by unfold State.takeTrap; split <;> (try split) <;> simp
@[simp] theorem State.takeTrap_bankErr (s : State) (c a r : Nat) (i : BitVec 64) (l : Nat) : (s.takeTrap c a r i l).bankErr = s.bankErr := by unfold State.takeTrap; split <;> (try split) <;> simp
@[simp] theorem State.takeTrap_rounds (s : State) (c a r : Nat) (i : BitVec 64) (l : Nat) : (s.takeTrap c a r i l).rounds = s.rounds := by unfold State.takeTrap; split <;> (try split) <;> simp
@[simp] theorem State.takeTrap_bankCmds (s : State) (c a r : Nat) (i : BitVec 64) (l : Nat) : (s.takeTrap c a r i l).bankCmds = s.bankCmds := by unfold State.takeTrap; split <;> (try split) <;> simp
@[simp] theorem State.takeTrap_scStores (s : State) (c a r : Nat) (i : BitVec 64) (l : Nat) : (s.takeTrap c a r i l).scStores = s.scStores := by unfold State.takeTrap; split <;> (try split) <;> simp
@[simp] theorem State.takeTrap_atomics (s : State) (c a r : Nat) (i : BitVec 64) (l : Nat) : (s.takeTrap c a r i l).atomics = s.atomics := by unfold State.takeTrap; split <;> (try split) <;> simp
@[simp] theorem State.takeTrap_past (s : State) (c a r : Nat) (i : BitVec 64) (l : Nat) : (s.takeTrap c a r i l).past = s.past := by unfold State.takeTrap; split <;> (try split) <;> simp
@[simp] theorem State.takeTrap_slotsBusy (s : State) (c a r : Nat) (i : BitVec 64) (l : Nat) : (s.takeTrap c a r i l).slotsBusy = s.slotsBusy := by unfold State.takeTrap; split <;> (try split) <;> simp
@[simp] theorem State.takeTrap_inbox (s : State) (c a r : Nat) (i : BitVec 64) (l : Nat) : (s.takeTrap c a r i l).inbox = s.inbox := by unfold State.takeTrap; split <;> (try split) <;> simp
@[simp] theorem State.takeTrap_nextKey (s : State) (c a r : Nat) (i : BitVec 64) (l : Nat) : (s.takeTrap c a r i l).nextKey = s.nextKey := by unfold State.takeTrap; split <;> (try split) <;> simp
@[simp] theorem State.takeTrap_tick (s : State) (c a r : Nat) (i : BitVec 64) (l : Nat) : (s.takeTrap c a r i l).tick = s.tick := by unfold State.takeTrap; split <;> (try split) <;> simp
@[simp] theorem State.trapHere_cores (s : State) (c : Nat) (i : BitVec 64) (l : Nat) : (s.trapHere c i l).cores = s.cores := State.takeTrap_cores s _ _ _ _ _
@[simp] theorem State.trapHere_dev (s : State) (c : Nat) (i : BitVec 64) (l : Nat) : (s.trapHere c i l).dev = s.dev := State.takeTrap_dev s _ _ _ _ _
@[simp] theorem State.trapHere_mem (s : State) (c : Nat) (i : BitVec 64) (l : Nat) : (s.trapHere c i l).mem = s.mem := State.takeTrap_mem s _ _ _ _ _
@[simp] theorem State.trapHere_openMem (s : State) (c : Nat) (i : BitVec 64) (l : Nat) : (s.trapHere c i l).openMem = s.openMem := State.takeTrap_openMem s _ _ _ _ _
@[simp] theorem State.trapHere_dieTlbs (s : State) (c : Nat) (i : BitVec 64) (l : Nat) : (s.trapHere c i l).dieTlbs = s.dieTlbs := State.takeTrap_dieTlbs s _ _ _ _ _
@[simp] theorem State.trapHere_shoots (s : State) (c : Nat) (i : BitVec 64) (l : Nat) : (s.trapHere c i l).shoots = s.shoots := State.takeTrap_shoots s _ _ _ _ _
@[simp] theorem State.trapHere_staging (s : State) (c : Nat) (i : BitVec 64) (l : Nat) : (s.trapHere c i l).staging = s.staging := State.takeTrap_staging s _ _ _ _ _
@[simp] theorem State.trapHere_wrote (s : State) (c : Nat) (i : BitVec 64) (l : Nat) : (s.trapHere c i l).wrote = s.wrote := State.takeTrap_wrote s _ _ _ _ _
@[simp] theorem State.trapHere_bankOld (s : State) (c : Nat) (i : BitVec 64) (l : Nat) : (s.trapHere c i l).bankOld = s.bankOld := State.takeTrap_bankOld s _ _ _ _ _
@[simp] theorem State.trapHere_weights (s : State) (c : Nat) (i : BitVec 64) (l : Nat) : (s.trapHere c i l).weights = s.weights := State.takeTrap_weights s _ _ _ _ _
@[simp] theorem State.trapHere_semaphores (s : State) (c : Nat) (i : BitVec 64) (l : Nat) : (s.trapHere c i l).semaphores = s.semaphores := State.takeTrap_semaphores s _ _ _ _ _
@[simp] theorem State.trapHere_bankErr (s : State) (c : Nat) (i : BitVec 64) (l : Nat) : (s.trapHere c i l).bankErr = s.bankErr := State.takeTrap_bankErr s _ _ _ _ _
@[simp] theorem State.trapHere_rounds (s : State) (c : Nat) (i : BitVec 64) (l : Nat) : (s.trapHere c i l).rounds = s.rounds := State.takeTrap_rounds s _ _ _ _ _
@[simp] theorem State.trapHere_bankCmds (s : State) (c : Nat) (i : BitVec 64) (l : Nat) : (s.trapHere c i l).bankCmds = s.bankCmds := State.takeTrap_bankCmds s _ _ _ _ _
@[simp] theorem State.trapHere_scStores (s : State) (c : Nat) (i : BitVec 64) (l : Nat) : (s.trapHere c i l).scStores = s.scStores := State.takeTrap_scStores s _ _ _ _ _
@[simp] theorem State.trapHere_atomics (s : State) (c : Nat) (i : BitVec 64) (l : Nat) : (s.trapHere c i l).atomics = s.atomics := State.takeTrap_atomics s _ _ _ _ _
@[simp] theorem State.trapHere_past (s : State) (c : Nat) (i : BitVec 64) (l : Nat) : (s.trapHere c i l).past = s.past := State.takeTrap_past s _ _ _ _ _
@[simp] theorem State.trapHere_slotsBusy (s : State) (c : Nat) (i : BitVec 64) (l : Nat) : (s.trapHere c i l).slotsBusy = s.slotsBusy := State.takeTrap_slotsBusy s _ _ _ _ _
@[simp] theorem State.trapHere_inbox (s : State) (c : Nat) (i : BitVec 64) (l : Nat) : (s.trapHere c i l).inbox = s.inbox := State.takeTrap_inbox s _ _ _ _ _
@[simp] theorem State.trapHere_nextKey (s : State) (c : Nat) (i : BitVec 64) (l : Nat) : (s.trapHere c i l).nextKey = s.nextKey := State.takeTrap_nextKey s _ _ _ _ _
@[simp] theorem State.trapHere_tick (s : State) (c : Nat) (i : BitVec 64) (l : Nat) : (s.trapHere c i l).tick = s.tick := State.takeTrap_tick s _ _ _ _ _
@[simp] theorem State.illegal_cores (s : State) (i : Instr) : (s.illegal i).cores = s.cores := State.takeTrap_cores s _ _ _ _ _
@[simp] theorem State.illegal_dev (s : State) (i : Instr) : (s.illegal i).dev = s.dev := State.takeTrap_dev s _ _ _ _ _
@[simp] theorem State.illegal_mem (s : State) (i : Instr) : (s.illegal i).mem = s.mem := State.takeTrap_mem s _ _ _ _ _
@[simp] theorem State.illegal_openMem (s : State) (i : Instr) : (s.illegal i).openMem = s.openMem := State.takeTrap_openMem s _ _ _ _ _
@[simp] theorem State.illegal_dieTlbs (s : State) (i : Instr) : (s.illegal i).dieTlbs = s.dieTlbs := State.takeTrap_dieTlbs s _ _ _ _ _
@[simp] theorem State.illegal_shoots (s : State) (i : Instr) : (s.illegal i).shoots = s.shoots := State.takeTrap_shoots s _ _ _ _ _
@[simp] theorem State.illegal_staging (s : State) (i : Instr) : (s.illegal i).staging = s.staging := State.takeTrap_staging s _ _ _ _ _
@[simp] theorem State.illegal_wrote (s : State) (i : Instr) : (s.illegal i).wrote = s.wrote := State.takeTrap_wrote s _ _ _ _ _
@[simp] theorem State.illegal_bankOld (s : State) (i : Instr) : (s.illegal i).bankOld = s.bankOld := State.takeTrap_bankOld s _ _ _ _ _
@[simp] theorem State.illegal_weights (s : State) (i : Instr) : (s.illegal i).weights = s.weights := State.takeTrap_weights s _ _ _ _ _
@[simp] theorem State.illegal_semaphores (s : State) (i : Instr) : (s.illegal i).semaphores = s.semaphores := State.takeTrap_semaphores s _ _ _ _ _
@[simp] theorem State.illegal_bankErr (s : State) (i : Instr) : (s.illegal i).bankErr = s.bankErr := State.takeTrap_bankErr s _ _ _ _ _
@[simp] theorem State.illegal_rounds (s : State) (i : Instr) : (s.illegal i).rounds = s.rounds := State.takeTrap_rounds s _ _ _ _ _
@[simp] theorem State.illegal_bankCmds (s : State) (i : Instr) : (s.illegal i).bankCmds = s.bankCmds := State.takeTrap_bankCmds s _ _ _ _ _
@[simp] theorem State.illegal_scStores (s : State) (i : Instr) : (s.illegal i).scStores = s.scStores := State.takeTrap_scStores s _ _ _ _ _
@[simp] theorem State.illegal_atomics (s : State) (i : Instr) : (s.illegal i).atomics = s.atomics := State.takeTrap_atomics s _ _ _ _ _
@[simp] theorem State.illegal_past (s : State) (i : Instr) : (s.illegal i).past = s.past := State.takeTrap_past s _ _ _ _ _
@[simp] theorem State.illegal_slotsBusy (s : State) (i : Instr) : (s.illegal i).slotsBusy = s.slotsBusy := State.takeTrap_slotsBusy s _ _ _ _ _
@[simp] theorem State.illegal_inbox (s : State) (i : Instr) : (s.illegal i).inbox = s.inbox := State.takeTrap_inbox s _ _ _ _ _
@[simp] theorem State.illegal_nextKey (s : State) (i : Instr) : (s.illegal i).nextKey = s.nextKey := State.takeTrap_nextKey s _ _ _ _ _
@[simp] theorem State.illegal_tick (s : State) (i : Instr) : (s.illegal i).tick = s.tick := State.takeTrap_tick s _ _ _ _ _
@[simp] theorem State.unprivileged_cores (s : State) (i : Instr) : (s.unprivileged i).cores = s.cores := State.takeTrap_cores s _ _ _ _ _
@[simp] theorem State.unprivileged_dev (s : State) (i : Instr) : (s.unprivileged i).dev = s.dev := State.takeTrap_dev s _ _ _ _ _
@[simp] theorem State.unprivileged_mem (s : State) (i : Instr) : (s.unprivileged i).mem = s.mem := State.takeTrap_mem s _ _ _ _ _
@[simp] theorem State.unprivileged_openMem (s : State) (i : Instr) : (s.unprivileged i).openMem = s.openMem := State.takeTrap_openMem s _ _ _ _ _
@[simp] theorem State.unprivileged_dieTlbs (s : State) (i : Instr) : (s.unprivileged i).dieTlbs = s.dieTlbs := State.takeTrap_dieTlbs s _ _ _ _ _
@[simp] theorem State.unprivileged_shoots (s : State) (i : Instr) : (s.unprivileged i).shoots = s.shoots := State.takeTrap_shoots s _ _ _ _ _
@[simp] theorem State.unprivileged_staging (s : State) (i : Instr) : (s.unprivileged i).staging = s.staging := State.takeTrap_staging s _ _ _ _ _
@[simp] theorem State.unprivileged_wrote (s : State) (i : Instr) : (s.unprivileged i).wrote = s.wrote := State.takeTrap_wrote s _ _ _ _ _
@[simp] theorem State.unprivileged_bankOld (s : State) (i : Instr) : (s.unprivileged i).bankOld = s.bankOld := State.takeTrap_bankOld s _ _ _ _ _
@[simp] theorem State.unprivileged_weights (s : State) (i : Instr) : (s.unprivileged i).weights = s.weights := State.takeTrap_weights s _ _ _ _ _
@[simp] theorem State.unprivileged_semaphores (s : State) (i : Instr) : (s.unprivileged i).semaphores = s.semaphores := State.takeTrap_semaphores s _ _ _ _ _
@[simp] theorem State.unprivileged_bankErr (s : State) (i : Instr) : (s.unprivileged i).bankErr = s.bankErr := State.takeTrap_bankErr s _ _ _ _ _
@[simp] theorem State.unprivileged_rounds (s : State) (i : Instr) : (s.unprivileged i).rounds = s.rounds := State.takeTrap_rounds s _ _ _ _ _
@[simp] theorem State.unprivileged_bankCmds (s : State) (i : Instr) : (s.unprivileged i).bankCmds = s.bankCmds := State.takeTrap_bankCmds s _ _ _ _ _
@[simp] theorem State.unprivileged_scStores (s : State) (i : Instr) : (s.unprivileged i).scStores = s.scStores := State.takeTrap_scStores s _ _ _ _ _
@[simp] theorem State.unprivileged_atomics (s : State) (i : Instr) : (s.unprivileged i).atomics = s.atomics := State.takeTrap_atomics s _ _ _ _ _
@[simp] theorem State.unprivileged_past (s : State) (i : Instr) : (s.unprivileged i).past = s.past := State.takeTrap_past s _ _ _ _ _
@[simp] theorem State.unprivileged_slotsBusy (s : State) (i : Instr) : (s.unprivileged i).slotsBusy = s.slotsBusy := State.takeTrap_slotsBusy s _ _ _ _ _
@[simp] theorem State.unprivileged_inbox (s : State) (i : Instr) : (s.unprivileged i).inbox = s.inbox := State.takeTrap_inbox s _ _ _ _ _
@[simp] theorem State.unprivileged_nextKey (s : State) (i : Instr) : (s.unprivileged i).nextKey = s.nextKey := State.takeTrap_nextKey s _ _ _ _ _
@[simp] theorem State.unprivileged_tick (s : State) (i : Instr) : (s.unprivileged i).tick = s.tick := State.takeTrap_tick s _ _ _ _ _
@[simp] theorem State.vaTrap_cores (s : State) (c l v : Nat) : (s.vaTrap c l v).cores = s.cores := State.takeTrap_cores s _ _ _ _ _
@[simp] theorem State.vaTrap_dev (s : State) (c l v : Nat) : (s.vaTrap c l v).dev = s.dev := State.takeTrap_dev s _ _ _ _ _
@[simp] theorem State.vaTrap_mem (s : State) (c l v : Nat) : (s.vaTrap c l v).mem = s.mem := State.takeTrap_mem s _ _ _ _ _
@[simp] theorem State.vaTrap_openMem (s : State) (c l v : Nat) : (s.vaTrap c l v).openMem = s.openMem := State.takeTrap_openMem s _ _ _ _ _
@[simp] theorem State.vaTrap_dieTlbs (s : State) (c l v : Nat) : (s.vaTrap c l v).dieTlbs = s.dieTlbs := State.takeTrap_dieTlbs s _ _ _ _ _
@[simp] theorem State.vaTrap_shoots (s : State) (c l v : Nat) : (s.vaTrap c l v).shoots = s.shoots := State.takeTrap_shoots s _ _ _ _ _
@[simp] theorem State.vaTrap_staging (s : State) (c l v : Nat) : (s.vaTrap c l v).staging = s.staging := State.takeTrap_staging s _ _ _ _ _
@[simp] theorem State.vaTrap_wrote (s : State) (c l v : Nat) : (s.vaTrap c l v).wrote = s.wrote := State.takeTrap_wrote s _ _ _ _ _
@[simp] theorem State.vaTrap_bankOld (s : State) (c l v : Nat) : (s.vaTrap c l v).bankOld = s.bankOld := State.takeTrap_bankOld s _ _ _ _ _
@[simp] theorem State.vaTrap_weights (s : State) (c l v : Nat) : (s.vaTrap c l v).weights = s.weights := State.takeTrap_weights s _ _ _ _ _
@[simp] theorem State.vaTrap_semaphores (s : State) (c l v : Nat) : (s.vaTrap c l v).semaphores = s.semaphores := State.takeTrap_semaphores s _ _ _ _ _
@[simp] theorem State.vaTrap_bankErr (s : State) (c l v : Nat) : (s.vaTrap c l v).bankErr = s.bankErr := State.takeTrap_bankErr s _ _ _ _ _
@[simp] theorem State.vaTrap_rounds (s : State) (c l v : Nat) : (s.vaTrap c l v).rounds = s.rounds := State.takeTrap_rounds s _ _ _ _ _
@[simp] theorem State.vaTrap_bankCmds (s : State) (c l v : Nat) : (s.vaTrap c l v).bankCmds = s.bankCmds := State.takeTrap_bankCmds s _ _ _ _ _
@[simp] theorem State.vaTrap_scStores (s : State) (c l v : Nat) : (s.vaTrap c l v).scStores = s.scStores := State.takeTrap_scStores s _ _ _ _ _
@[simp] theorem State.vaTrap_atomics (s : State) (c l v : Nat) : (s.vaTrap c l v).atomics = s.atomics := State.takeTrap_atomics s _ _ _ _ _
@[simp] theorem State.vaTrap_past (s : State) (c l v : Nat) : (s.vaTrap c l v).past = s.past := State.takeTrap_past s _ _ _ _ _
@[simp] theorem State.vaTrap_slotsBusy (s : State) (c l v : Nat) : (s.vaTrap c l v).slotsBusy = s.slotsBusy := State.takeTrap_slotsBusy s _ _ _ _ _
@[simp] theorem State.vaTrap_inbox (s : State) (c l v : Nat) : (s.vaTrap c l v).inbox = s.inbox := State.takeTrap_inbox s _ _ _ _ _
@[simp] theorem State.vaTrap_nextKey (s : State) (c l v : Nat) : (s.vaTrap c l v).nextKey = s.nextKey := State.takeTrap_nextKey s _ _ _ _ _
@[simp] theorem State.vaTrap_tick (s : State) (c l v : Nat) : (s.vaTrap c l v).tick = s.tick := State.takeTrap_tick s _ _ _ _ _
@[simp] theorem State.returnFromTrap_cores (s : State) (i : Instr) : (s.returnFromTrap i).cores = s.cores := by unfold State.returnFromTrap; split <;> (try split) <;> simp
@[simp] theorem State.returnFromTrap_dev (s : State) (i : Instr) : (s.returnFromTrap i).dev = s.dev := by unfold State.returnFromTrap; split <;> (try split) <;> simp
@[simp] theorem State.returnFromTrap_mem (s : State) (i : Instr) : (s.returnFromTrap i).mem = s.mem := by unfold State.returnFromTrap; split <;> (try split) <;> simp
@[simp] theorem State.returnFromTrap_openMem (s : State) (i : Instr) : (s.returnFromTrap i).openMem = s.openMem := by unfold State.returnFromTrap; split <;> (try split) <;> simp
@[simp] theorem State.returnFromTrap_dieTlbs (s : State) (i : Instr) : (s.returnFromTrap i).dieTlbs = s.dieTlbs := by unfold State.returnFromTrap; split <;> (try split) <;> simp
@[simp] theorem State.returnFromTrap_shoots (s : State) (i : Instr) : (s.returnFromTrap i).shoots = s.shoots := by unfold State.returnFromTrap; split <;> (try split) <;> simp
@[simp] theorem State.returnFromTrap_staging (s : State) (i : Instr) : (s.returnFromTrap i).staging = s.staging := by unfold State.returnFromTrap; split <;> (try split) <;> simp
@[simp] theorem State.returnFromTrap_wrote (s : State) (i : Instr) : (s.returnFromTrap i).wrote = s.wrote := by unfold State.returnFromTrap; split <;> (try split) <;> simp
@[simp] theorem State.returnFromTrap_bankOld (s : State) (i : Instr) : (s.returnFromTrap i).bankOld = s.bankOld := by unfold State.returnFromTrap; split <;> (try split) <;> simp
@[simp] theorem State.returnFromTrap_weights (s : State) (i : Instr) : (s.returnFromTrap i).weights = s.weights := by unfold State.returnFromTrap; split <;> (try split) <;> simp
@[simp] theorem State.returnFromTrap_semaphores (s : State) (i : Instr) : (s.returnFromTrap i).semaphores = s.semaphores := by unfold State.returnFromTrap; split <;> (try split) <;> simp
@[simp] theorem State.returnFromTrap_bankErr (s : State) (i : Instr) : (s.returnFromTrap i).bankErr = s.bankErr := by unfold State.returnFromTrap; split <;> (try split) <;> simp
@[simp] theorem State.returnFromTrap_rounds (s : State) (i : Instr) : (s.returnFromTrap i).rounds = s.rounds := by unfold State.returnFromTrap; split <;> (try split) <;> simp
@[simp] theorem State.returnFromTrap_bankCmds (s : State) (i : Instr) : (s.returnFromTrap i).bankCmds = s.bankCmds := by unfold State.returnFromTrap; split <;> (try split) <;> simp
@[simp] theorem State.returnFromTrap_scStores (s : State) (i : Instr) : (s.returnFromTrap i).scStores = s.scStores := by unfold State.returnFromTrap; split <;> (try split) <;> simp
@[simp] theorem State.returnFromTrap_atomics (s : State) (i : Instr) : (s.returnFromTrap i).atomics = s.atomics := by unfold State.returnFromTrap; split <;> (try split) <;> simp
@[simp] theorem State.returnFromTrap_past (s : State) (i : Instr) : (s.returnFromTrap i).past = s.past := by unfold State.returnFromTrap; split <;> (try split) <;> simp
@[simp] theorem State.returnFromTrap_slotsBusy (s : State) (i : Instr) : (s.returnFromTrap i).slotsBusy = s.slotsBusy := by unfold State.returnFromTrap; split <;> (try split) <;> simp
@[simp] theorem State.returnFromTrap_inbox (s : State) (i : Instr) : (s.returnFromTrap i).inbox = s.inbox := by unfold State.returnFromTrap; split <;> (try split) <;> simp
@[simp] theorem State.returnFromTrap_nextKey (s : State) (i : Instr) : (s.returnFromTrap i).nextKey = s.nextKey := by unfold State.returnFromTrap; split <;> (try split) <;> simp
@[simp] theorem State.returnFromTrap_tick (s : State) (i : Instr) : (s.returnFromTrap i).tick = s.tick := by unfold State.returnFromTrap; split <;> (try split) <;> simp
@[simp] theorem State.parkFault_cores (s : State) (l : List FaultLane) : (s.parkFault l).cores = s.cores := by unfold State.parkFault; split <;> simp
@[simp] theorem State.parkFault_mem (s : State) (l : List FaultLane) : (s.parkFault l).mem = s.mem := by unfold State.parkFault; split <;> simp
@[simp] theorem State.parkFault_openMem (s : State) (l : List FaultLane) : (s.parkFault l).openMem = s.openMem := by unfold State.parkFault; split <;> simp
@[simp] theorem State.parkFault_dieTlbs (s : State) (l : List FaultLane) : (s.parkFault l).dieTlbs = s.dieTlbs := by unfold State.parkFault; split <;> simp
@[simp] theorem State.parkFault_shoots (s : State) (l : List FaultLane) : (s.parkFault l).shoots = s.shoots := by unfold State.parkFault; split <;> simp
@[simp] theorem State.parkFault_staging (s : State) (l : List FaultLane) : (s.parkFault l).staging = s.staging := by unfold State.parkFault; split <;> simp
@[simp] theorem State.parkFault_wrote (s : State) (l : List FaultLane) : (s.parkFault l).wrote = s.wrote := by unfold State.parkFault; split <;> simp
@[simp] theorem State.parkFault_bankOld (s : State) (l : List FaultLane) : (s.parkFault l).bankOld = s.bankOld := by unfold State.parkFault; split <;> simp
@[simp] theorem State.parkFault_weights (s : State) (l : List FaultLane) : (s.parkFault l).weights = s.weights := by unfold State.parkFault; split <;> simp
@[simp] theorem State.parkFault_semaphores (s : State) (l : List FaultLane) : (s.parkFault l).semaphores = s.semaphores := by unfold State.parkFault; split <;> simp
@[simp] theorem State.parkFault_bankErr (s : State) (l : List FaultLane) : (s.parkFault l).bankErr = s.bankErr := by unfold State.parkFault; split <;> simp
@[simp] theorem State.parkFault_rounds (s : State) (l : List FaultLane) : (s.parkFault l).rounds = s.rounds := by unfold State.parkFault; split <;> simp
@[simp] theorem State.parkFault_bankCmds (s : State) (l : List FaultLane) : (s.parkFault l).bankCmds = s.bankCmds := by unfold State.parkFault; split <;> simp
@[simp] theorem State.parkFault_scStores (s : State) (l : List FaultLane) : (s.parkFault l).scStores = s.scStores := by unfold State.parkFault; split <;> simp
@[simp] theorem State.parkFault_atomics (s : State) (l : List FaultLane) : (s.parkFault l).atomics = s.atomics := by unfold State.parkFault; split <;> simp
@[simp] theorem State.parkFault_past (s : State) (l : List FaultLane) : (s.parkFault l).past = s.past := by unfold State.parkFault; split <;> simp
@[simp] theorem State.parkFault_slotsBusy (s : State) (l : List FaultLane) : (s.parkFault l).slotsBusy = s.slotsBusy := by unfold State.parkFault; split <;> simp
@[simp] theorem State.parkFault_inbox (s : State) (l : List FaultLane) : (s.parkFault l).inbox = s.inbox := by unfold State.parkFault; split <;> simp
@[simp] theorem State.parkFault_nextKey (s : State) (l : List FaultLane) : (s.parkFault l).nextKey = s.nextKey := by unfold State.parkFault; split <;> simp
@[simp] theorem State.parkFault_tick (s : State) (l : List FaultLane) : (s.parkFault l).tick = s.tick := by unfold State.parkFault; split <;> simp
@[simp] theorem State.finishAccess_cores (s : State) (n : Nat) (l : List FaultLane) : (s.finishAccess n l).cores = s.cores := by unfold State.finishAccess; split <;> (try dsimp only) <;> (try split) <;> simp
@[simp] theorem State.finishAccess_mem (s : State) (n : Nat) (l : List FaultLane) : (s.finishAccess n l).mem = s.mem := by unfold State.finishAccess; split <;> (try dsimp only) <;> (try split) <;> simp
@[simp] theorem State.finishAccess_openMem (s : State) (n : Nat) (l : List FaultLane) : (s.finishAccess n l).openMem = s.openMem := by unfold State.finishAccess; split <;> (try dsimp only) <;> (try split) <;> simp
@[simp] theorem State.finishAccess_dieTlbs (s : State) (n : Nat) (l : List FaultLane) : (s.finishAccess n l).dieTlbs = s.dieTlbs := by unfold State.finishAccess; split <;> (try dsimp only) <;> (try split) <;> simp
@[simp] theorem State.finishAccess_shoots (s : State) (n : Nat) (l : List FaultLane) : (s.finishAccess n l).shoots = s.shoots := by unfold State.finishAccess; split <;> (try dsimp only) <;> (try split) <;> simp
@[simp] theorem State.finishAccess_staging (s : State) (n : Nat) (l : List FaultLane) : (s.finishAccess n l).staging = s.staging := by unfold State.finishAccess; split <;> (try dsimp only) <;> (try split) <;> simp
@[simp] theorem State.finishAccess_wrote (s : State) (n : Nat) (l : List FaultLane) : (s.finishAccess n l).wrote = s.wrote := by unfold State.finishAccess; split <;> (try dsimp only) <;> (try split) <;> simp
@[simp] theorem State.finishAccess_bankOld (s : State) (n : Nat) (l : List FaultLane) : (s.finishAccess n l).bankOld = s.bankOld := by unfold State.finishAccess; split <;> (try dsimp only) <;> (try split) <;> simp
@[simp] theorem State.finishAccess_weights (s : State) (n : Nat) (l : List FaultLane) : (s.finishAccess n l).weights = s.weights := by unfold State.finishAccess; split <;> (try dsimp only) <;> (try split) <;> simp
@[simp] theorem State.finishAccess_semaphores (s : State) (n : Nat) (l : List FaultLane) : (s.finishAccess n l).semaphores = s.semaphores := by unfold State.finishAccess; split <;> (try dsimp only) <;> (try split) <;> simp
@[simp] theorem State.finishAccess_bankErr (s : State) (n : Nat) (l : List FaultLane) : (s.finishAccess n l).bankErr = s.bankErr := by unfold State.finishAccess; split <;> (try dsimp only) <;> (try split) <;> simp
@[simp] theorem State.finishAccess_rounds (s : State) (n : Nat) (l : List FaultLane) : (s.finishAccess n l).rounds = s.rounds := by unfold State.finishAccess; split <;> (try dsimp only) <;> (try split) <;> simp
@[simp] theorem State.finishAccess_bankCmds (s : State) (n : Nat) (l : List FaultLane) : (s.finishAccess n l).bankCmds = s.bankCmds := by unfold State.finishAccess; split <;> (try dsimp only) <;> (try split) <;> simp
@[simp] theorem State.finishAccess_scStores (s : State) (n : Nat) (l : List FaultLane) : (s.finishAccess n l).scStores = s.scStores := by unfold State.finishAccess; split <;> (try dsimp only) <;> (try split) <;> simp
@[simp] theorem State.finishAccess_atomics (s : State) (n : Nat) (l : List FaultLane) : (s.finishAccess n l).atomics = s.atomics := by unfold State.finishAccess; split <;> (try dsimp only) <;> (try split) <;> simp
@[simp] theorem State.finishAccess_past (s : State) (n : Nat) (l : List FaultLane) : (s.finishAccess n l).past = s.past := by unfold State.finishAccess; split <;> (try dsimp only) <;> (try split) <;> simp
@[simp] theorem State.finishAccess_slotsBusy (s : State) (n : Nat) (l : List FaultLane) : (s.finishAccess n l).slotsBusy = s.slotsBusy := by unfold State.finishAccess; split <;> (try dsimp only) <;> (try split) <;> simp
@[simp] theorem State.finishAccess_inbox (s : State) (n : Nat) (l : List FaultLane) : (s.finishAccess n l).inbox = s.inbox := by unfold State.finishAccess; split <;> (try dsimp only) <;> (try split) <;> simp
@[simp] theorem State.finishAccess_nextKey (s : State) (n : Nat) (l : List FaultLane) : (s.finishAccess n l).nextKey = s.nextKey := by unfold State.finishAccess; split <;> (try dsimp only) <;> (try split) <;> simp
@[simp] theorem State.finishAccess_tick (s : State) (n : Nat) (l : List FaultLane) : (s.finishAccess n l).tick = s.tick := by unfold State.finishAccess; split <;> (try dsimp only) <;> (try split) <;> simp
@[simp] theorem State.scalarFault_cores (s : State) (x : FaultLane) : (s.scalarFault x).cores = s.cores := by unfold State.scalarFault; split <;> simp
@[simp] theorem State.scalarFault_mem (s : State) (x : FaultLane) : (s.scalarFault x).mem = s.mem := by unfold State.scalarFault; split <;> simp
@[simp] theorem State.scalarFault_openMem (s : State) (x : FaultLane) : (s.scalarFault x).openMem = s.openMem := by unfold State.scalarFault; split <;> simp
@[simp] theorem State.scalarFault_dieTlbs (s : State) (x : FaultLane) : (s.scalarFault x).dieTlbs = s.dieTlbs := by unfold State.scalarFault; split <;> simp
@[simp] theorem State.scalarFault_shoots (s : State) (x : FaultLane) : (s.scalarFault x).shoots = s.shoots := by unfold State.scalarFault; split <;> simp
@[simp] theorem State.scalarFault_staging (s : State) (x : FaultLane) : (s.scalarFault x).staging = s.staging := by unfold State.scalarFault; split <;> simp
@[simp] theorem State.scalarFault_wrote (s : State) (x : FaultLane) : (s.scalarFault x).wrote = s.wrote := by unfold State.scalarFault; split <;> simp
@[simp] theorem State.scalarFault_bankOld (s : State) (x : FaultLane) : (s.scalarFault x).bankOld = s.bankOld := by unfold State.scalarFault; split <;> simp
@[simp] theorem State.scalarFault_weights (s : State) (x : FaultLane) : (s.scalarFault x).weights = s.weights := by unfold State.scalarFault; split <;> simp
@[simp] theorem State.scalarFault_semaphores (s : State) (x : FaultLane) : (s.scalarFault x).semaphores = s.semaphores := by unfold State.scalarFault; split <;> simp
@[simp] theorem State.scalarFault_bankErr (s : State) (x : FaultLane) : (s.scalarFault x).bankErr = s.bankErr := by unfold State.scalarFault; split <;> simp
@[simp] theorem State.scalarFault_rounds (s : State) (x : FaultLane) : (s.scalarFault x).rounds = s.rounds := by unfold State.scalarFault; split <;> simp
@[simp] theorem State.scalarFault_bankCmds (s : State) (x : FaultLane) : (s.scalarFault x).bankCmds = s.bankCmds := by unfold State.scalarFault; split <;> simp
@[simp] theorem State.scalarFault_scStores (s : State) (x : FaultLane) : (s.scalarFault x).scStores = s.scStores := by unfold State.scalarFault; split <;> simp
@[simp] theorem State.scalarFault_atomics (s : State) (x : FaultLane) : (s.scalarFault x).atomics = s.atomics := by unfold State.scalarFault; split <;> simp
@[simp] theorem State.scalarFault_past (s : State) (x : FaultLane) : (s.scalarFault x).past = s.past := by unfold State.scalarFault; split <;> simp
@[simp] theorem State.scalarFault_slotsBusy (s : State) (x : FaultLane) : (s.scalarFault x).slotsBusy = s.slotsBusy := by unfold State.scalarFault; split <;> simp
@[simp] theorem State.scalarFault_inbox (s : State) (x : FaultLane) : (s.scalarFault x).inbox = s.inbox := by unfold State.scalarFault; split <;> simp
@[simp] theorem State.scalarFault_nextKey (s : State) (x : FaultLane) : (s.scalarFault x).nextKey = s.nextKey := by unfold State.scalarFault; split <;> simp
@[simp] theorem State.scalarFault_tick (s : State) (x : FaultLane) : (s.scalarFault x).tick = s.tick := by unfold State.scalarFault; split <;> simp

/-- What taking a trap comes to: the double fault, the end of the context, or the handler (R327, R328). -/
theorem State.takeTrap_cases (s : State) (c a r : Nat) (i : BitVec 64) (l : Nat) :
    (s.team.trap.mode = true ∧ s.takeTrap c a r i l = s.doubleFault c a i l)
    ∨ (s.team.trap.mode = false ∧ s.creg 3 = 0
        ∧ s.takeTrap c a r i l = s.terminate s.ctx.key c (s.trapRecord c 0 a l (leBytes 8 i.toNat)))
    ∨ (s.team.trap.mode = false ∧ s.creg 3 ≠ 0
        ∧ s.takeTrap c a r i l = s.withTeam (s.team.enterTrap c r (s.creg 3).toNat i)) := by
  unfold State.takeTrap
  by_cases h : s.team.trap.mode = true
  · simp [h]
  · have h' : s.team.trap.mode = false := by simpa using h
    by_cases h2 : s.creg 3 = 0
    · exact .inr (.inl ⟨h', h2, by rw [if_neg h, if_pos h2]⟩)
    · exact .inr (.inr ⟨h', h2, by rw [if_neg h, if_neg h2]⟩)

/-! ## The canonical form of memory -/

theorem State.Canonical.congr {s t : State} (h : t.mem = s.mem) (c : s.Canonical) : t.Canonical := by
  unfold State.Canonical Memory.wf at *; rw [h]; exact c

theorem State.Canonical.setMem {s : State} (c : s.Canonical) (p : Nat) (v : Byte) : (s.setMem p v).Canonical := FMap.wf_set p v c

theorem State.Canonical.keep {s : State} (c : s.Canonical) (x : PastByte) : (s.keep x).Canonical := c

theorem State.Canonical.keepBuffered {s : State} (c : s.Canonical) (k : Nat) (b : StoreByte) : (s.keepBuffered k b).Canonical := c

theorem State.Canonical.mark {s : State} (c : s.Canonical) (l : Nat) : (s.mark l).Canonical := c.congr (State.mark_mem s l)

theorem State.Canonical.putByte {s : State} (c : s.Canonical) (p : Nat) (v : Byte) : (s.putByte p v).Canonical := by
  unfold State.putByte
  dsimp only
  split
  · split
    · exact c.mark _
    · exact (c.mark _).setMem p v
  · exact (c.mark _).setMem p v

theorem State.Canonical.performAt {s : State} (c : s.Canonical) (b : StoreByte) (p : Nat) : (s.performAt b p).Canonical :=
  (c.keep _).putByte p b.val

theorem State.Canonical.perform {s : State} (c : s.Canonical) (b : StoreByte) : (s.perform b).Canonical := by
  unfold State.perform
  dsimp only
  split
  · exact (c.performAt b _).performAt b _
  · exact c.performAt b _

/-- A fold keeps the canonical form where each of its steps does. -/
theorem State.Canonical.foldl {α : Type} {f : State → α → State} (h : ∀ s a, s.Canonical → (f s a).Canonical) (l : List α) {s : State}
    (c : s.Canonical) : (l.foldl f s).Canonical := by
  induction l generalizing s with
  | nil => exact c
  | cons a l ih => exact ih (h s a c)

theorem State.Canonical.performAll {s : State} (c : s.Canonical) (l : List StoreByte) : (l.foldl State.perform s).Canonical :=
  c.foldl (fun _ b c => c.perform b) l

theorem State.Canonical.writeThrough {s : State} (c : s.Canonical) (l : Loc) (n v : Nat) : (s.writeThrough l n v).Canonical :=
  c.performAll _

theorem State.Canonical.drained {s : State} (c : s.Canonical) (k : Nat) (l : List StoreByte) :
    (l.foldl (fun s b => (s.keepBuffered k b).perform b) s).Canonical :=
  c.foldl (fun _ b c => (c.keepBuffered k b).perform b) l

theorem State.Canonical.drainLine {s : State} (c : s.Canonical) (k l : Nat) : (s.drainLine k l).Canonical :=
  (c.drained k ((s.core k).wcb.filter (fun b => b.addr / 128 == l))).congr rfl

theorem State.Canonical.drainAll {s : State} (c : s.Canonical) (k : Nat) : (s.drainAll k).Canonical :=
  (c.drained k (s.core k).wcb).congr rfl

theorem State.Canonical.drainWith {s : State} (c : s.Canonical) (k : Nat) (p : StoreByte → Bool) : (s.drainWith k p).Canonical :=
  c.foldl (fun _ l c => c.drainLine k l) _

theorem State.Canonical.drainTeam {s : State} (c : s.Canonical) : s.drainTeam.Canonical := c.foldl (fun _ k c => c.drainWith k _) _

theorem State.Canonical.drainSeen {s : State} (c : s.Canonical) : s.drainSeen.Canonical := c.foldl (fun _ k c => c.drainWith k _) _

theorem State.Canonical.acrossPair {s : State} (c : s.Canonical) (k a : Nat) : (s.acrossPair k a).Canonical :=
  c.foldl (fun _ k c => (c.drainWith k _).congr (State.barL1_mem _ _ _ _)) _

theorem State.Canonical.bufferByte {s : State} (c : s.Canonical) (k : Nat) (b : StoreByte) : (s.bufferByte k b).Canonical := by
  unfold State.bufferByte
  dsimp only
  have h := c.acrossPair k b.addr
  split <;> split <;> simp only [State.Canonical, State.modCore_mem, State.dropL1_mem, State.keepBuffered_mem] <;>
    first | exact h.drainLine k _ | exact h

theorem State.Canonical.bufferStore {s : State} (c : s.Canonical) (k : Nat) (l : Loc) (n v : Nat) : (s.bufferStore k l n v).Canonical :=
  c.foldl (fun _ b c => c.bufferByte k b) _

theorem State.Canonical.performScByte {s : State} (c : s.Canonical) (b : StoreByte) : (s.performScByte b).Canonical := by
  unfold State.performScByte
  exact ((c.perform b).congr (State.dropL1_mem _ _ _)).congr (State.barAcross_mem _ _ _ _)

theorem State.Canonical.writeFrom {s : State} (c : s.Canonical) (t k : Nat) (l : Loc) (n v : Nat) : (s.writeFrom t k l n v).Canonical := by
  unfold State.writeFrom
  exact (((((c.drainWith _ _).performAll _).congr (State.dropL1_mem _ _ _)).congr (State.dropL1_mem _ _ _)).congr
    (State.barAcross_mem _ _ _ _)).congr (State.barAcross_mem _ _ _ _)

theorem State.Canonical.openRange {s : State} (c : s.Canonical) (a n : Nat) : (s.openRange a n).Canonical := c.congr (State.openRange_mem s a n)

theorem State.Canonical.performScAll {s : State} (c : s.Canonical) (l : List StoreByte) : (l.foldl State.performScByte s).Canonical :=
  c.foldl (fun _ b c => c.performScByte b) l

theorem State.Canonical.performScFor {s : State} (c : s.Canonical) (p : StoreByte → Bool) : (s.performScFor p).Canonical := by
  unfold State.performScFor
  dsimp only
  split
  · exact c
  · exact (c.performScAll _).congr rfl

theorem State.Canonical.performSc {s : State} (c : s.Canonical) : s.performSc.Canonical := (c.performScAll s.scStores).congr rfl

theorem State.Canonical.settleScOf {s : State} (c : s.Canonical) (k : Nat) : (s.settleScOf k).Canonical := c.performScFor _

theorem State.Canonical.settleSc {s : State} (c : s.Canonical) : s.settleSc.Canonical := c.performScFor _

theorem State.Canonical.withTeam {s : State} (c : s.Canonical) (t : Team) : (s.withTeam t).Canonical := c

theorem State.Canonical.modTeam {s : State} (c : s.Canonical) (k : Nat) (f : Team → Team) : (s.modTeam k f).Canonical :=
  c.congr (State.modTeam_mem s k f)

theorem State.Canonical.seeBytes {s : State} (c : s.Canonical) (k : Nat) (l : List Nat) (p : StoreByte → Bool) : (s.seeBytes k l p).Canonical :=
  c.congr (State.seeBytes_mem s k l p)

theorem State.Canonical.atomicAt {s : State} (c : s.Canonical) (x : AtomLane) : (s.atomicAt x).Canonical := by
  unfold State.atomicAt
  dsimp only
  split
  · exact State.Canonical.modTeam (State.Canonical.seeBytes (State.Canonical.performAll ((c.drainWith _ _).congr (State.reported_mem _ _ _)) _) _ _ _) _ _
  · exact State.Canonical.modTeam (State.Canonical.performAll ((c.drainWith _ _).congr (State.reported_mem _ _ _)) _) _ _

theorem State.Canonical.runAtomics {s : State} (c : s.Canonical) (k : Nat) : (s.runAtomics k).Canonical :=
  (State.Canonical.foldl (fun _ x c => c.atomicAt x) (s.atomics.filter (fun x => x.team == k)) c).congr rfl

theorem State.Canonical.settleOver {s : State} (c : s.Canonical) (l : List (Nat × Nat)) : (s.settleOver l).Canonical := by
  unfold State.settleOver
  dsimp only
  split
  · exact (c.performScFor _).runAtomics _
  · exact c.performScFor _

theorem State.Canonical.landLane {s : State} (c : s.Canonical) (o : AsyncOp) (l : LdaLane) : (s.landLane o l).Canonical := by
  refine c.congr ?_
  unfold State.landLane
  split
  · rfl
  · unfold State.landRead
    dsimp only
    rw [State.afterLoad_mem]
    split <;> split <;> simp [State.engineSaw, State.landValue]

theorem State.Canonical.landTeam {s : State} (c : s.Canonical) : s.landTeam.Canonical := c.foldl (fun _ x c => c.landLane x.1 x.2) _

theorem State.Canonical.loadsBack {s : State} (c : s.Canonical) : s.loadsBack.Canonical := ((c.runAtomics _).landTeam).withTeam _

theorem State.Canonical.release {s : State} (c : s.Canonical) : s.release.Canonical := c.loadsBack.settleSc.drainTeam

theorem State.Canonical.publish {s : State} (c : s.Canonical) : s.publish.Canonical := c.foldl (fun _ k c => c.seeBytes k _ _) _

theorem State.Canonical.fenceCore {s : State} (c : s.Canonical) : s.fenceCore.Canonical := c.loadsBack.settleSc.publish

theorem State.Canonical.fenceDev {s : State} (c : s.Canonical) : s.fenceDev.Canonical := c.loadsBack.settleSc.drainSeen

theorem State.Canonical.drainFor {s : State} (c : s.Canonical) (k : Nat) (l : List Loc) : (s.drainFor k l).Canonical :=
  State.Canonical.foldl (fun _ x c => c.drainLine k x) _ (c.performScFor _)

theorem State.Canonical.trapHere {s : State} (c : s.Canonical) (k : Nat) (i : BitVec 64) (l : Nat) : (s.trapHere k i l).Canonical :=
  c.congr (State.trapHere_mem s k i l)

/-- The memory after reset is canonical. -/
theorem State.reset_wf : Memory.wf State.reset.mem := rfl

end Sys2Proof.Machine
end

