-- ==== Sys2Proof/Tests/Slice0.lean ====
section
/-! SUPPORT. Tests of single decodings and single steps, and for every statement states and operands that meet its hypotheses. -/

namespace Sys2Proof.Tests

set_option Elab.async false

open Sys2Proof Sys2Proof.Machine

/-! ## Decoding: a word of every instruction, built from the opcode table's fixed bits and fields (06, R72 to R89) -/

/-- The words decode to the instruction, the words past it being what they may. -/
def decodesTo (x : List Word × Instr) : Bool :=
  match decodeWords (x.1.getD 0 0) (x.1.getD 1 0xFFFFFFFF) (x.1.getD 2 0xFFFFFFFF) (x.1.getD 3 0xFFFFFFFF) with
  | .ok i => decide (i = x.2)
  | .error _ => false

/-- Words of the integer majors with every operand in its place. -/
def integerWords : List (List Word × Instr) := [
  ([0x820AAA16], .add true 42 84 22),
  ([0x822AAA16], .sub true 42 84 22),
  ([0x824AAA16], .mul true 42 84 22),
  ([0x826AAA16], .mulhi true 42 84 22),
  ([0x828AAA16], .mulhu true 42 84 22),
  ([0x82AAAA16], .imad true 42 84 22),
  ([0x82CAAA16], .min true 42 84 22),
  ([0x82EAAA16], .max true 42 84 22),
  ([0x830AAA16], .minu true 42 84 22),
  ([0x832AAA16], .maxu true 42 84 22),
  ([0x840AAA16], .and true 42 84 22),
  ([0x842AAA16], .or true 42 84 22),
  ([0x844AAA16], .xor true 42 84 22),
  ([0x846AAA16], .andn true 42 84 22),
  ([0x848AAA16], .shl true 42 84 22),
  ([0x84AAAA16], .shr true 42 84 22),
  ([0x84CAAA16], .sar true 42 84 22),
  ([0x84EAAA16], .bfx true 42 84 22),
  ([0x850AAA16], .bfxs true 42 84 22),
  ([0x852AAA16], .bfi true 42 84 22),
  ([0x854AAA00], .popc true 42 84),
  ([0x856AAA00], .clz true 42 84),
  ([0x858AAA16], .add64 true 42 84 22),
  ([0x85AAAA16], .sub64 true 42 84 22),
  ([0x86AAA6AB], .addi true 42 84 0x6ab),
  ([0x88AAA6AB], .andi true 42 84 0x6ab),
  ([0x8AAAA6AB], .ori true 42 84 0x6ab),
  ([0x8CAAA6AB], .xori true 42 84 0x6ab),
  ([0x8EAAA015], .shli true 42 84 21),
  ([0x8EAAA035], .shri true 42 84 21),
  ([0x8EAAA055], .sari true 42 84 21),
  ([0x90AAAAAB], .movi true 42 0x2aaab),
  ([0x92B6A6AB], .cmpi true 5 5 84 0x6ab),
  ([0x94A16A16], .cmp true 5 5 84 22)]

theorem test_decode_integer : integerWords.all decodesTo = true := by decide

/-- Words of the float majors with every operand in its place. -/
def floatWords : List (List Word × Instr) := [
  ([0x960AAA16], .fadd true 42 84 22),
  ([0x962AAA16], .fsub true 42 84 22),
  ([0x964AAA16], .fmul true 42 84 22),
  ([0x966AAA16], .ffma true 42 84 22),
  ([0x968AAA16], .fmin true 42 84 22),
  ([0x96AAAA16], .fmax true 42 84 22),
  ([0x96CAAA00], .fabs true 42 84),
  ([0x96EAAA00], .fneg true 42 84),
  ([0x990AAA16], .padd true true 42 84 22),
  ([0x992AAA16], .psub true true 42 84 22),
  ([0x994AAA16], .pmul true true 42 84 22),
  ([0x996AAA16], .pfma true true 42 84 22),
  ([0x998AAA16], .pmin true true 42 84 22),
  ([0x99AAAA16], .pmax true true 42 84 22),
  ([0x9AA16A16], .fcmp true 5 5 84 22),
  ([0x9C0AAA00], .rcp true 42 84),
  ([0x9C2AAA00], .rsq true 42 84),
  ([0x9C4AAA00], .sqrt true 42 84),
  ([0x9C6AAA00], .ex2 true 42 84),
  ([0x9C8AAA00], .lg2 true 42 84),
  ([0x9CAAAA00], .sin true 42 84),
  ([0x9CCAAA00], .cos true 42 84),
  ([0x9CEAAA16], .fdiv true 42 84 22),
  ([0x9F4AAA46], .cvt true 10 42 84 2 false 6)]

theorem test_decode_float : floatWords.all decodesTo = true := by decide

/-- Words of the lanes majors with every operand in its place. -/
def lanesWords : List (List Word × Instr) := [
  ([0xA00AAA16], .shfl true 42 84 22),
  ([0xA02AAA15], .shflup true 42 84 21),
  ([0xA04AAA15], .shfldn true 42 84 21),
  ([0xA06AAA15], .shflx true 42 84 21),
  ([0xA0814482], .bcast true 5 9 2),
  ([0xA0AAAA05], .reda true 42 84 5),
  ([0xA0CAAA02], .freda true 42 84 2),
  ([0xA0EAAA0D], .scana true 42 84 5 true),
  ([0xA10AAA09], .fscana true 42 84 1 true),
  ([0xA20A8280], .vany true 42 5),
  ([0xA22A8280], .vall true 42 5),
  ([0xA24A8295], .ballot true 42 5 21),
  ([0xA2614285], .pand true 5 5 5),
  ([0xA2814285], .por true 5 5 5),
  ([0xA2A14285], .pxor true 5 5 5),
  ([0xA2C14280], .pnot true 5 5),
  ([0xA2E16A00], .pset true 5 84)]

theorem test_decode_lanes : lanesWords.all decodesTo = true := by decide

/-- Words of the scalar majors with every operand in its place. -/
def scalarWords : List (List Word × Instr) := [
  ([0xA40A9A16], .sadd true 42 52 22),
  ([0xA42A9A16], .ssub true 42 52 22),
  ([0xA44A9A16], .smul true 42 52 22),
  ([0xA46A9A16], .sand true 42 52 22),
  ([0xA48A9A16], .sor true 42 52 22),
  ([0xA4AA9A16], .sxor true 42 52 22),
  ([0xA4CA9A16], .sshl true 42 52 22),
  ([0xA4EA9A16], .sshr true 42 52 22),
  ([0xA50A9A16], .ssar true 42 52 22),
  ([0xA5201A16], .scmp true 52 22),
  ([0xA54A9A00], .smov true 42 52),
  ([0xA56A9A16], .sadd64 true 42 52 22),
  ([0xA62AD2AB], .saddi true 42 52 683),
  ([0xA66AD2AB], .sandi true 42 52 683),
  ([0xA6AAD2AB], .sori true 42 52 683),
  ([0xA6EAD2AB], .sxori true 42 52 683),
  ([0xA72AD015], .sshli true 42 52 21),
  ([0xA72AD035], .sshri true 42 52 21),
  ([0xA72AD055], .ssari true 42 52 21),
  ([0xA76AAAAB], .smovi true 42 0xaaab),
  ([0xA780D2AB], .scmpi true 52 683),
  ([0xA80A8000, 0xDEADBEEF], .movxS true 42 0xdeadbeef),
  ([0xA8394000, 0x80000001], .movx true 101 0x80000001),
  ([0xAA084080], .sreadLane true 33 1),
  ([0xAA288380], .sreadScalar true 34 7),
  ([0xAA44004D], .swriteLane true 16 77),
  ([0xAA63802C], .swriteScalar true 14 44),
  ([0xAA80002D], .wbase true 45),
  ([0xAAA00005], .tpri true 5)]

theorem test_decode_scalar : scalarWords.all decodesTo = true := by decide

/-- Words of the control majors with every operand in its place. -/
def controlWords : List (List Word × Instr) := [
  ([0xADB2AAAB], .bra true 13 0x12aaab),
  ([0xAED2AAAB], .call true 6 0x12aaab),
  ([0xB0000000], .ret true),
  ([0xB0201A00], .jmpi true 52),
  ([0xB0402A00], .callx true 84),
  ([0xB0600000], .exit true),
  ([0xB0800000], .nop true),
  ([0xB0A00005], .bar true 5),
  ([0xB0C00805], .barC true 16 5),
  ([0xB0E00005], .barX true 5),
  ([0xB1000485], .barXC true 9 5),
  ([0xB2000005], .ifMask true 5),
  ([0xB2200000], .elseMask true),
  ([0xB2400000], .endIf true),
  ([0xB2600000], .loop true),
  ([0xB2800005], .breakMask true 5),
  ([0xB2A00005], .contMask true 5),
  ([0xB2C00000], .endLoop true)]

theorem test_decode_control : controlWords.all decodesTo = true := by decide

/-- Words of the memory majors with every operand in its place. -/
def memoryWords : List (List Word × Instr) := [
  ([0xC0D5552A], .ld true 1 5 42 84 21),
  ([0xC0AC752B, 0xFFFFFF80], .ldOffset true 1 2 99 84 21 0xffffff80),
  ([0xC295552A], .st true 1 1 42 84 21),
  ([0xC2AC752B, 0xFFFFFF80], .stOffset true 1 2 99 84 21 0xffffff80),
  ([0xC4555528], .ldp true 5 42 84 5 false),
  ([0xC45C5519, 0x00000104], .ldpOffset true 5 98 84 3 false 260),
  ([0xC6557510], .stp true 5 43 84 2 false),
  ([0xC65C5519, 0x00000104], .stpOffset true 5 98 84 3 false 260),
  ([0xC8D5552A], .lda true 1 5 42 84 21),
  ([0xC8AC752B, 0xFFFFFF80], .ldaOffset true 1 2 99 84 21 0xffffff80),
  ([0xCE95402A], .sld true 1 1 42 21),
  ([0xCF15802B, 0x80000000], .sldOffset true 2 1 44 21 0x80000000),
  ([0xCED5402A], .sst true 1 1 42 21),
  ([0xCF55802B, 0x80000000], .sstOffset true 2 1 44 21 0x80000000),
  ([0xCC000005], .fence true 5),
  ([0xCC2A8000], .batch true 42),
  ([0xCC401A00], .waitb true 52),
  ([0xCC601A00], .commit true 52),
  ([0xCC801A16], .waitv true 52 22),
  ([0xCCA06A16], .pref true true 84 22),
  ([0xCCC00005], .fenceSmp true 5),
  ([0xCCE00005], .fenceMx true 5)]

theorem test_decode_memory : memoryWords.all decodesTo = true := by decide

/-- Words of the engines majors with every operand in its place. -/
def enginesWords : List (List Word × Instr) := [
  ([0xD00A9A97, 0x4E000000], .cpy true 42 53 23 true true 6),
  ([0xD02A9ABC, 0x4E000000], .cpy2d true 42 53 60 true true 6),
  ([0xD04A9A80, 0x48000000], .cpyT true 42 53 0 true true 0),
  ([0xD20A9A17, 0xA56AAAAB], .put true 42 52 23 41 true true 0x2aaaab),
  ([0xD22A9A17, 0xA56AAAAB], .get true 42 52 23 41 true true 0x2aaaab),
  ([0xD24A9A17, 0xA56AAAAB], .psig true 42 52 23 41 true true 0x2aaaab),
  ([0xD40AAA2D], .smp true 42 84 5 5),
  ([0xD42AAA2D], .smpL true 42 84 5 5),
  ([0xD44AAA16], .smpG true 42 84 22),
  ([0xD60AAA16], .attrf true 42 84 22),
  ([0xD62AAA16], .attrb true 42 84 22)]

theorem test_decode_engines : enginesWords.all decodesTo = true := by decide

/-- Words of the canvas majors with every operand in its place. -/
def canvasWords : List (List Word × Instr) := [
  ([0xE0025A00], .cnvLin true 9 52),
  ([0xE0225A00], .cnvQuad true 9 52),
  ([0xE0425A00], .cnvExpq true 9 52),
  ([0xE0825D80, 0xC2020000], .cnvLinK true 9 59 0xc2020000),
  ([0xE0A25D80, 0xC2020000], .cnvQuadK true 9 59 0xc2020000),
  ([0xE0C25D80, 0xC2020000], .cnvExpqK true 9 59 0xc2020000),
  ([0xE202430C], .cnvAdd true 9 6 12),
  ([0xE222430C], .cnvSub true 9 6 12),
  ([0xE242430C], .cnvMul true 9 6 12),
  ([0xE262430C], .cnvFma true 9 6 12),
  ([0xE282430C], .cnvMin true 9 6 12),
  ([0xE2A2430C], .cnvMax true 9 6 12),
  ([0xE2C24300], .cnvMov true 9 6),
  ([0xE2C25A01], .cnvMovScalar true 9 52),
  ([0xE2E24305], .cnvSfn true 9 6 5),
  ([0xE316431C], .cnvCmp true 9 5 6 12 1),
  ([0xE3224316], .cnvBlend true 9 6 22),
  ([0xE3400316], .cnvZtest true 6 22),
  ([0xE3624001], .cnvVis true 9 1),
  ([0xE3824000], .cnvClr true 9),
  ([0xE3824001], .cnvClrOnes true 9),
  ([0xE3838002], .cnvClrVis true),
  ([0xE4014316], .cnvPush true 5 6 22),
  ([0xE4200000], .cnvElse true),
  ([0xE4400000], .cnvPop true),
  ([0xE4600000], .cnvAll true),
  ([0xE4801A00], .cnvWin true 52),
  ([0xE6024316], .cnvMac true 9 6 22),
  ([0xE6224300, 0x3F800000], .cnvMacK true 9 6 0x3f800000),
  ([0xE80A8316], .cnvRdl true 42 6 22),
  ([0xE8226A16], .cnvWrl true 9 84 22),
  ([0xE8425A00], .cnvLoad true 9 52),
  ([0xE8625A00], .cnvStore true 9 52),
  ([0xE88A8316], .cnvRdlA true 42 6 22),
  ([0xEA0A8000], .cnvXsum true 42),
  ([0xEA2A9A15], .cnvXmap true 42 52 21),
  ([0xEA400015], .cnvXclr true 21),
  ([0xEA600000], .cnvSync true),
  ([0xEA801A16], .cnvOrg true 52 22)]

theorem test_decode_canvas : canvasWords.all decodesTo = true := by decide

/-- Words of the matrix majors with every operand in its place. -/
def matrixWords : List (List Word × Instr) := [
  ([0xF00AAAFF, 0xA9555400], .mma true 42 85 127 true false 41 0x2aaa),
  ([0xF02AAAFF, 0xA9555400], .mmaSp true 42 85 127 true false 41 0x2aaa),
  ([0xF2001A00], .accClr true 52),
  ([0xF22A9A16], .accProm true 42 52 22),
  ([0xF24A9A00], .accLd true 42 52),
  ([0xF26A9A0C], .accSt true 42 52 4 true),
  ([0xF40AAA16], .netv true 42 84 22),
  ([0xF42AAA16], .nets true 42 84 22),
  ([0xF60A9A01], .tagRd true 42 52 true),
  ([0xF6201A16], .tagWr true 52 22),
  ([0xF64A9A16], .tagChk true 42 52 22),
  ([0xF66A9A00], .tileHdr true 42 52)]

theorem test_decode_matrix : matrixWords.all decodesTo = true := by decide

/-- Words of the tasks majors with every operand in its place. -/
def tasksWords : List (List Word × Instr) := [
  ([0xF8002A16], .recPush true 84 22),
  ([0xF82AAA16], .recTry true 42 84 22),
  ([0xF8401A00], .nodeDone true 52),
  ([0xF8601A00], .cancel true 52),
  ([0xF8800000], .qpass true),
  ([0xF8A00000], .rsecIn true),
  ([0xF8C00000], .rsecOut true),
  ([0xF8E00000], .grace true),
  ([0xF9001A16], .defer true 52 22),
  ([0xF9205A16], .frameRel true true 52 22)]

theorem test_decode_tasks : tasksWords.all decodesTo = true := by decide

/-- Words of the bank majors with every operand in its place. -/
def bankWords : List (List Word × Instr) := [
  ([0xFA000000], .bankOpen true),
  ([0xFA215A16], .bankDot true 1 true 52 22),
  ([0xFA415A16], .bankAxpy true 1 true 52 22),
  ([0xFA615A16], .bankScal true 1 true 52 22),
  ([0xFA815A16], .bankSum true 1 true 52 22),
  ([0xFAA15A16], .bankMax true 1 true 52 22),
  ([0xFAC15A16], .bankFill true 1 true 52 22),
  ([0xFAE15A16], .bankCopy true 1 true 52 22),
  ([0xFB000001], .bankClose true true),
  ([0xFB200000], .bankWait true),
  ([0xFB4A9A16], .bankErr true 42 52 22),
  ([0xFB601A00], .ringRed true 52),
  ([0xFB801A16], .ringWait true 52 22)]

theorem test_decode_bank : bankWords.all decodesTo = true := by decide

/-- Words of the system majors with every operand in its place. -/
def systemWords : List (List Word × Instr) := [
  ([0xFC001296], .trap true 37 22),
  ([0xFC200000], .rtt true),
  ([0xFC401555], .bkpt true 0x1555),
  ([0xFC600000], .halt true),
  ([0xFC8A8380], .ctxrd true 42 7),
  ([0xFCA18016], .ctxwr true 6 22),
  ([0xFCC00000], .wdog true)]

theorem test_decode_system : systemWords.all decodesTo = true := by decide

/-- The worked words of 06, of the table at its end and its copy with a following MMA, and an ATOM.cas.b64.acq of R269. -/
def workedWords : List (List Word × Instr) := [
  ([0x0E102002], .shli false 4 4 2),
  ([0x12442008], .cmpi false 2 1 4 8),
  ([0x10180064], .movi false 6 100),
  ([0x26030FFF], .saddi false 3 3 0x3FF),
  ([0x4020A109, 0x00000080], .ldOffset false 0 2 5 4 4 0x80),
  ([0x28018000, 0x3F800000], .movxS false 6 0x3F800000),
  ([0x60800300, 0xC2020000], .cnvLinK false 0 6 0xC2020000),
  ([0x50020205, 0x20000000, 0x7002858C, 0x41080000], .cpyFollowMma false false 0 8 4 5 false 0 false 10 11 12 false true 1 0x400),
  ([0xCA85552B, 0x98000016], .atom true 1 0x2A 0x54 0x15 9 true false 0x16)]

theorem test_decode_worked : workedWords.all decodesTo = true := by decide

/-- Words that are no instruction (R90): the zero word, reserved majors, an unassigned SUB, COND 0xF, a set reserved bit, an odd
pair, an M word of major 0x25 with E clear, a FOLLOW with DIR 1, a FOLLOW with an FADD behind, and a reserved bit of MOVX's C. -/
def noWords : List (List Word) := [[0x00000000], [0x34000000], [0x58000000], [0x6C000000], [0x7E000000], [0x03400000],
  [0x2DE00000], [0x14000040 ||| 0x01E00000], [0x24000040], [0x03810002], [0x4A000000, 0], [0x50020205, 0x60000000, 0x7002858C, 0x41080000],
  [0x50020205, 0x20000000, 0x1601C286, 0x41080000], [0x28000001, 0x3F800000]]

theorem test_decode_refuses : noWords.all (fun ws =>
    match decodeWords (ws.getD 0 0) (ws.getD 1 0) (ws.getD 2 0) (ws.getD 3 0) with
    | .ok _ => false
    | .error _ => true) = true := by decide

/-! ## Well-formedness: a term that breaks each operand rule, every other rule kept where that can be -/

/-- Terms that oddPair refuses. -/
def illFormedOddPair1 : List Instr := [
  .add64 true 101 84 22,
  .add64 true 42 93 22,
  .add64 true 42 84 9,
  .sub64 true 111 84 22,
  .sub64 true 42 107 22,
  .sub64 true 42 84 17,
  .sadd64 true 11 52 22,
  .sadd64 true 42 7 22,
  .sadd64 true 42 52 15,
  .cvt false 7 55 68 0 false 4,
  .cvt true 10 42 21 2 false 7,
  .sreadLane true 107 7,
  .sreadScalar true 43 7,
  .swriteLane true 14 111,
  .swriteScalar true 14 17,
  .jmpi true 25,
  .callx true 75,
  .ld true 1 3 45 84 21,
  .ldOffset true 1 3 9 84 21 0xffffff80,
  .lda true 1 3 103 84 21,
  .ldaOffset true 1 3 101 84 21 0xffffff80,
  .st true 1 3 13 84 21,
  .stOffset true 1 3 39 84 21 0xffffff80,
  .ldp true 5 23 84 3 false,
  .ldpOffset true 5 5 84 3 false 260,
  .stp true 5 3 84 3 false,
  .stpOffset true 5 41 84 3 false 260,
  .sld true 1 1 41 21,
  .sldOffset true 2 1 23 21 0x80000000,
  .sst true 1 1 7 21,
  .sstOffset true 2 1 23 21 0x80000000,
  .atom true 1 105 84 21 9 true false 22,
  .atom true 1 42 84 21 9 true false 119,
  .waitv true 57 22,
  .pref true true 84 33,
  .cpy true 33 53 23 true true 6,
  .cpy2d true 61 53 60 true true 6,
  .cpyT true 49 53 0 true true 0,
  .cpyFollowMma false false 0 57 0 0 false 0 false 0 0 0 false false 0 0,
  .put true 63 52 23 41 true true 0x2aaaab,
  .put true 42 39 23 41 true true 0x2aaaab,
  .get true 59 52 23 41 true true 0x2aaaab,
  .get true 42 53 23 41 true true 0x2aaaab,
  .psig true 61 52 23 41 true true 0x2aaaab,
  .psig true 42 53 23 41 true true 0x2aaaab]

theorem test_wf_illFormedOddPair1 : illFormedOddPair1.all (fun i => i.violation == some .oddPair) = true := by decide

/-- Terms that oddPair refuses. -/
def illFormedOddPair2 : List Instr := [
  .smp true 42 111 5 5,
  .smpL true 42 121 5 5,
  .smpG true 42 84 61,
  .attrf true 42 11 22,
  .attrf true 42 84 21,
  .attrb true 42 41 22,
  .attrb true 42 84 1,
  .accLd true 42 53,
  .accSt true 42 19 4 true,
  .netv true 42 69 22,
  .nets true 42 84 59,
  .tagRd true 42 29 false,
  .tileHdr true 3 52,
  .defer true 7 22,
  .frameRel true true 39 22,
  .frameRel true true 52 59,
  .bankDot true 1 true 7 22,
  .bankAxpy true 1 true 17 22,
  .bankScal true 1 true 33 22,
  .bankSum true 1 true 7 22,
  .bankMax true 1 true 23 22,
  .bankFill true 1 true 17 22,
  .bankCopy true 1 true 23 22,
  .bankErr true 47 52 22,
  .bankErr true 42 63 22,
  .ringRed true 41,
  .trap true 37 35,
  .ctxrd true 61 7,
  .ctxwr true 6 43]

theorem test_wf_illFormedOddPair2 : illFormedOddPair2.all (fun i => i.violation == some .oddPair) = true := by decide

/-- Terms that reservedCode refuses. -/
def illFormedReservedCode1 : List Instr := [
  .cmp true 12 5 84 22,
  .cmp true 5 0 84 22,
  .cmpi true 13 5 84 0x6ab,
  .cmpi true 5 0 84 0x6ab,
  .fcmp true 15 5 84 22,
  .fcmp true 5 0 84 22,
  .cvt true 15 42 84 2 false 14,
  .cvt true 12 42 84 2 false 12,
  .cvt true 7 42 84 1 false 2,
  .bcast true 5 9 3,
  .freda true 42 84 3,
  .fscana true 42 84 3 true,
  .pand true 0 5 5,
  .por true 0 5 5,
  .pxor true 0 5 5,
  .pnot true 0 5,
  .pset true 0 84,
  .sreadLane true 33 36,
  .sreadScalar true 34 29,
  .swriteLane true 44 77,
  .swriteScalar true 56 44,
  .bra true 15 0x12aaab,
  .call true 15 0x12aaab,
  .barC true 62 5,
  .barXC true 107 5,
  .ifMask true 0,
  .ld true 1 6 42 84 21,
  .ldOffset true 1 6 99 84 21 0xffffff80,
  .lda true 1 6 42 84 21,
  .ldaOffset true 1 6 99 84 21 0xffffff80,
  .st true 3 1 42 84 21,
  .st true 1 4 42 84 21,
  .stOffset true 3 2 99 84 21 0xffffff80,
  .stOffset true 1 4 99 84 21 0xffffff80,
  .ldp true 5 42 84 6 false,
  .ldp true 5 42 84 1 true,
  .ldpOffset true 5 98 84 7 false 260,
  .ldpOffset true 3 98 84 3 true 260,
  .stp true 5 43 84 5 false,
  .stp true 0 43 84 0 true,
  .stpOffset true 5 98 84 7 false 260,
  .stpOffset true 7 98 84 2 true 260,
  .sld true 1 3 42 21,
  .sldOffset true 2 3 44 21 0x80000000,
  .sst true 3 1 42 21]

theorem test_wf_illFormedReservedCode1 : illFormedReservedCode1.all (fun i => i.violation == some .reservedCode) = true := by decide

/-- Terms that reservedCode refuses. -/
def illFormedReservedCode2 : List Instr := [
  .sst true 1 2 42 21,
  .sstOffset true 3 1 44 21 0x80000000,
  .sstOffset true 2 3 44 21 0x80000000,
  .atom false 0 42 97 10 14 true false 0,
  .atom false 0 2 18 3 10 true false 0,
  .fence true 6,
  .fenceSmp true 6,
  .fenceMx true 7,
  .cpyFollowMma false false 3 0 0 0 false 0 false 0 0 0 false false 0 0,
  .cnvSfn true 9 6 7,
  .cnvCmp true 9 5 6 12 3,
  .cnvCmp true 9 6 6 12 2,
  .accSt true 42 52 7 true,
  .bankDot true 3 true 52 22,
  .bankAxpy true 3 true 52 22,
  .bankScal true 3 true 52 22,
  .bankSum true 3 true 52 22,
  .bankMax true 3 true 52 22,
  .bankFill true 3 true 52 22,
  .bankCopy true 3 true 52 22,
  .trap true 66 22,
  .ctxrd true 42 52,
  .ctxwr true 49 22]

theorem test_wf_illFormedReservedCode2 : illFormedReservedCode2.all (fun i => i.violation == some .reservedCode) = true := by decide

/-- Terms that reservedField refuses. -/
def illFormedReservedField : List Instr := [
  .bcast true 5 66 1,
  .bcast true 86 9 2,
  .atom true 1 42 84 21 8 true false 31,
  .cpyT true 42 53 39 true true 0,
  .cpyT true 42 53 0 true true 1,
  .cpyFollowMma false false 2 0 0 57 false 6 false 0 0 0 false false 0 0]

theorem test_wf_illFormedReservedField : illFormedReservedField.all (fun i => i.violation == some .reservedField) = true := by decide

/-- Terms that registerRange refuses. -/
def illFormedRegisterRange : List Instr := [
  .cpy2d true 42 53 61 true true 6,
  .cpyFollowMma false false 1 0 0 63 false 0 false 0 0 0 false false 0 0,
  .psig true 42 52 63 41 true true 0x2aaaab,
  .smp true 125 84 5 5,
  .smpL true 125 84 5 5,
  .smpL true 42 126 5 5,
  .attrf true 42 126 22,
  .attrf true 127 84 22,
  .attrf true 42 84 62,
  .attrb true 126 84 22,
  .cnvLin true 9 63,
  .cnvQuad true 9 59,
  .cnvExpq true 9 63,
  .cnvLinK true 9 63 0xc2020000,
  .cnvQuadK true 9 62 0xc2020000,
  .cnvExpqK true 9 63 0xc2020000,
  .cnvBlend true 14 6 22,
  .cnvBlend true 9 6 63,
  .cnvZtest true 6 63,
  .cnvWin true 61,
  .nets true 42 84 62,
  .tileHdr true 42 57,
  .defer true 52 63,
  .frameRel true true 52 62,
  .bankDot true 1 true 62 22,
  .bankAxpy true 1 true 62 22,
  .bankScal true 1 true 62 22,
  .bankSum true 1 true 62 22,
  .bankMax true 1 true 62 22,
  .bankFill true 1 true 62 22,
  .bankCopy true 1 true 62 22]

theorem test_wf_illFormedRegisterRange : illFormedRegisterRange.all (fun i => i.violation == some .registerRange) = true := by decide

/-- Every instruction of the decoding tables obeys the operand rules. -/
theorem test_wf_accepts : (integerWords ++ floatWords ++ lanesWords ++ scalarWords ++ controlWords ++ memoryWords ++ enginesWords ++ canvasWords ++ matrixWords ++ tasksWords ++ bankWords ++ systemWords).all (fun x => x.2.wf) = true := by decide

/-! ## States -/

/-- A context, a crew of one team and that team with one lane, which issues next at 0x100000; the first GiB is mapped onto itself. -/
def base : State := State.reset.launched

/-- The package booted, with nothing in it. -/
def idle : State := { State.reset with dev := { State.reset.dev with stage := 7 } }

/-- The next state of an instruction or event, or the state where there is none. -/
def ran (i : Instr) (s : State) : State :=
  match exec i s with
  | .next t => t
  | _ => s

/-- A state with the issuing team changed. -/
def onTeam (s : State) (f : Team → Team) : State := s.withTeam (f s.team)

/-- A state with a lane register given. -/
def withLane (s : State) (r l v : Nat) : State :=
  onTeam s (fun t => { t with lanes := t.lanes.set (t.phys r * 1024 + l) (BitVec.ofNat 32 v) })

/-- A state with a scalar register given. -/
def withScalar (s : State) (r v : Nat) : State := onTeam s (fun t => { t with scalars := t.scalars.set r (BitVec.ofNat 32 v) })

/-- Lane register `r` of a lane of the issuing team, as a number. -/
def laneOf (s : State) (r l : Nat) : Nat := (s.team.rd r l).toNat

/-- Scalar register `r` of the issuing team, as a number. -/
def scalarOf (s : State) (r : Nat) : Nat := (s.team.srd r).toNat

/-- The base state with four lanes active, in a crew with 64 KiB of scratchpad, accumulator slots and a canvas. -/
def quad : State :=
  { base with
    team := { base.team with mask := 0xF, launchMask := 0xF, state := .running }
    crew := { base.crew with spadSize := 65536, accSlots := 4, hasCanvas := true } }

/-- The state with no active lane. -/
def unmasked : State := onTeam quad (fun t => { t with mask := 0 })

/-- The state with a trap handler at 0x200000. -/
def handled : State := { quad with ctx := { quad.ctx with regs := FMap.set [] 3 0x200000 } }

/-- The state in trap mode, with a saved mask of two lanes. -/
def inHandler : State := onTeam handled (fun t => { t with trap := { t.trap with mode := true, savedMask := 3, pc := 0x100040 } })

/-- The state in trap mode of a privileged context. -/
def privileged : State := { inHandler with ctx := { inHandler.ctx with privileged := true } }

/-- An address written as a scalar pair. -/
def withPair (s : State) (r v : Nat) : State := withScalar (withScalar s r (v % 2 ^ 32)) (r + 1) (v / 2 ^ 32)

/-! ## What each statement supposes can be met -/

theorem test_meets_EncodedWordsDecode :
    (Instr.cpyFollowMma true false 1 62 63 60 true 7 true 127 126 125 true true 63 0x7FFF).isWord = true
      ∧ (Instr.cpyFollowMma true false 1 62 63 60 true 7 true 127 126 125 true true 63 0x7FFF).wf = true := by decide

theorem test_meets_DecodedWordsReencode :
    decodeWords 0x50020205 0x20000000 0x7002858C 0x41080000
      = .ok (.cpyFollowMma false false 0 8 4 5 false 0 false 10 11 12 false true 1 0x400) := by decide

theorem test_meets_ReservedWordsAreIllegal :
    (0x7FFFFFFF : Word).toNat / 2 ^ 25 % 64 = 0x3F ∧ (0x03400000 : Word).toNat / 2 ^ 25 % 64 = 0x01
      ∧ 10 ≤ (0x03400000 : Word).toNat / 2 ^ 21 % 16 := by decide

/-- A team with a part of FADD issued that a halt at its bound waits for, and that has an ATOM.acq which has not executed. -/
def heldBack : State :=
  let s := onTeam (base.placeWord 0x1601C286) (fun t => { t with issued := [0] })
  { s with
    ctx := { s.ctx with preemptAsked := true }
    dev := { s.dev with clock := haltBound }
    atomics := [⟨0, 2, 0, 0x300000, false, 9, true, false, 5, 7, true, 3072⟩] }

/-- A team that issues FADD next, and one that issues a word of major 0x3F next. -/
theorem test_meets_StepRunsDecoded :
    (base.placeWord 0x1601C286).nextAct = some (.issue 2) ∧ ((base.placeWord 0x1601C286).entering 2).team.key = 2
      ∧ ((base.placeWord 0x1601C286).entering 2).team.state ≠ .free ∧ ((base.placeWord 0x1601C286).entering 2).breakpoint = none
      ∧ ((base.placeWord 0x1601C286).entering 2).fetch 0 0x100000 = .words 0x1601C286 0 0 0 1
      ∧ ((base.placeWord 0x1601C286).entering 2).crew.coreOf ((base.placeWord 0x1601C286).entering 2).team 0 = 0
      ∧ ((base.placeWord 0x1601C286).entering 2).team.pc.toNat = 0x100000
      ∧ decodeWords 0x1601C286 0 0 0 = .ok (.fadd false 7 5 6)
      ∧ ((base.placeWord 0x7E000000).entering 2).fetch 0 0x100000 = .words 0x7E000000 0 0 0 1
      ∧ decodeWords 0x7E000000 0 0 0 = .error .illegalMajor
      ∧ (((base.placeWord 0x1601C286).entering 2).passesAtomics 0x1601C286 0 && ((base.placeWord 0x1601C286).entering 2).passesCanvas 0x1601C286 0) = true
      ∧ (((base.placeWord 0x7E000000).entering 2).passesAtomics 0x7E000000 0 && ((base.placeWord 0x7E000000).entering 2).passesCanvas 0x7E000000 0) = true
      ∧ heldBack.nextAct = some (.issue 2) ∧ ((heldBack.entering 2).passesAtomics 0x1601C286 0 && (heldBack.entering 2).passesCanvas 0x1601C286 0) = false
      ∧ (heldBack.entering 2).fetch 0 0x100000 = .words 0x1601C286 0 0 0 1 ∧ (heldBack.entering 2).breakpoint = none := by decide +kernel

/-- A second team of the crew, which has issued in this clock already. -/
def other : Team := { base.team with key := 9, index := 1, slot := 1, issuedNow := true }

/-- Two teams that can issue, of which the other one has issued in this clock already: FADD, in one strand or in two, the second one's slot
busy. -/
def sharing (strands : Nat) (mask : Mask) : State :=
  { onTeam (base.placeWord 0x1601C286) (fun t => { t with strands := strands, mask := mask, launchMask := mask }) with
    crew := { base.crew with nteams := 2, strands := strands }
    teams := [other]
    slotsBusy := [(0, 5)] }

/-- Of two teams that can issue, the one that is ready alone has the contenders. -/
theorem contenders_of_one {s : State} {t o : Team} (hi : s.issuers = [t, o]) (ht : s.readyNow t = true) (hw : s.waitsAtIssue t.key = false)
    (ho : s.readyNow o = false) :
    (s.issuers.filter (fun t => s.readyNow t && !s.waitsAtIssue t.key)).flatMap s.contend = s.contend t := by
  simp [hi, ht, hw, ho]

/-- The issue of a part, the last or another one, comes next where nothing stalls the team, which is open (log entry 10). -/
theorem test_meets_StepRunsParts (strands : Nat) (mask : Mask) (hm : (strands = 1 ∧ mask = 1) ∨ (strands = 2 ∧ mask = 0x100000001))
    (h : (sharing strands mask).stalled (sharing strands mask).team = false) :
    (sharing strands mask).nextAct = some (.part 2 0 1)
      ∧ (offered ((sharing strands mask).partsLeft 2)).find? (fun p => p.core == 0 && p.slot == 1) = some ⟨0, 0, 1⟩
      ∧ ((sharing strands mask).partsLeft 2).length = strands
      ∧ ((sharing strands mask).enter 2 [⟨0, 0, 1⟩] [] true).breakpoint = none := by
  rcases hm with ⟨rfl, rfl⟩ | ⟨rfl, rfl⟩
  all_goals
    refine ⟨?_, by decide +kernel, by decide +kernel, by decide +kernel⟩
    have hr : ∀ s : State, s.stalled s.team = false → s.team.issuedNow = false → (s.select s.team.key).heldBack = false → s.readyNow s.team = true := by
      intro s h1 h2 h3; simp [State.readyNow, h1, h2, h3]
    have hc := contenders_of_one (o := other) (by decide +kernel)
      (hr _ h (by decide +kernel) (by decide +kernel)) (by decide +kernel) (by simp [State.readyNow, other])
    have hw : ∀ (s : State) (xs : List Contender), (s.issuers.filter (fun t => s.readyNow t && !s.waitsAtIssue t.key)).flatMap s.contend = xs → s.winners =
        (((xs.map (fun x => (x.core, x.slot))).eraseDups).filter (fun k => !s.slotsBusy.contains k)).filterMap
          (fun k => s.winner k.1 k.2 xs) := by
      intro s xs e; simp [State.winners, e]
    have hn : ∀ (s : State) (x : Contender), s.dueNow = [] → s.promoted = [] → s.issuers = [s.team, other] → inTurn s.winners = [x] →
        s.nextAct = some (.part x.team x.core x.slot) := by
      intro s x h1 h2 h3 h4; simp [State.nextAct, State.slotAct, h1, h2, h3, h4, State.pick]
    refine hn _ ⟨2, 0, 1, 0, 1, 8, none, none⟩ (by decide +kernel) (by decide +kernel) (by decide +kernel) ?_
    rw [hw _ _ hc]
    decide +kernel

/-! ### Acts: for each act that StepRunsEvents names, a state in which it comes next -/

/-- Core 0 with its clock gated, and the given stores. -/
def gatedCore : List (Nat × CoreState) := [(0, { CoreState.empty with gated := true })]

/-- The base state with its team changed and core 0's clock gated. -/
def gatedWith (f : Team → Team) : State := { onTeam base f with cores := gatedCore }

/-- A running context with no crew. -/
def hosted : State := { idle with ctx := { Context.vacant with key := 1, state := .running, root := 0x1000, cores := [0], coreSets := [[0]], served := [[0]], bins := [[]] } }

/-- The context of a state changed. -/
def onCtx (s : State) (f : Context → Context) : State := { s with ctx := f s.ctx }

/-- A record of job 3. -/
def rec3 : Rec := { job := 3, words := [7], entered := 0, castOff := false, handle := none, converted := false }

/-- An operation of a team in context 1 that has the given work. -/
def opWith (w : OpWork) : AsyncOp :=
  { id := 20, team := 2, crew := 1, ctx := 1, core := 0, batch := 0, pc := 0x100000, work := w, landed := [], quota := 0, done := false,
    cause := none, net := false, faulted := [], stamp := 0, acq := false }

/-- The running context with one operation. -/
def withOp (w : OpWork) : State := { hosted with ops := [opWith w] }

/-- The operands of a PUT of no units to this device. -/
def noUnits : RemoteArgs := { units := [], todo := [], win := 0, off := 0, dev := 0, flag := 0, tc := false, rel := false, bound := none, marks := 0 }

/-- A bank command that has been queued since time 0. -/
def bankCmd : BankCmd :=
  { round := 5, number := 0, unit := 3, op := 6, fmt := 2, cols := [], held := [], parts := [], factor := 0, result := none, queued := 0, stamp := 0, aged := false }

theorem test_meets_StepRunsEvents_teams :
    ({ idle with inbox := [.coolantLoss] } : State).nextAct = some .host ∧ Instr.fromOutside .coolantLoss = true
      ∧ idle.nextAct = none
      ∧ ({ gatedWith (fun t => { t with state := .exited }) with tick := 1 } : State).nextAct = some (.crewEnd 1)
      ∧ ({ gatedWith (fun t => { t with state := .parked, park := .barrier 0 }) with
            crew := { base.crew with wdCount := 16777216 } } : State).nextAct = some (.barrierWatchdog 1)
      ∧ (gatedWith (fun t => { t with wdogDue := some (5, 0) })).nextAct = some (.teamWatchdog 2)
      ∧ (gatedWith (fun t => { t with slotWait := [(2, 2048)] })).nextAct = some (.ageing 2 2)
      ∧ (gatedWith (fun t => { t with halted := true, unchecked := [⟨true, 3, 9, true, 0, none⟩] })).nextAct = some (.loadReturn 2 0)
      ∧ (gatedWith (fun t => { t with state := .parked, park := .waitv ⟨0x80, false, false⟩ 1 false true })).nextAct = some (.notify 0 1)
      ∧ (gatedWith (fun t => { t with state := .parked, park := .waitv ⟨0x80, false, false⟩ 1 true false })).nextAct = some (.poll 2)
      ∧ ({ onTeam base (fun t => { t with state := .parked }) with cores := [(0, { CoreState.empty with gated := false })] } : State).nextAct = some (.gate 0)
      ∧ (gatedWith (fun t => { t with dropping := some 2 })).nextAct = some (.samplerDrop 2)
      ∧ ({ gatedWith (fun t => { t with halted := true }) with
            crew := { base.crew with canvas := { Canvas.fresh with queue := [⟨0x100000, 0, 0, .all⟩] } } } : State).nextAct = some (.canvas 1)
      ∧ ({ idle with atomics := [⟨0, 9, 0, 0, false, 0, false, true, 1, 0, false, 0⟩] } : State).nextAct = some (.atomic 9)
      ∧ ({ idle with scStores := [⟨64, 1, false, 9, 0, [], [], 0⟩] } : State).nextAct = some (.scStore 9) := by decide +kernel

theorem test_meets_StepRunsEvents_contexts :
    (onCtx hosted (fun c => { c with nodes := [{ plainNode with timer := 10 }], bins := [[rec3]] })).dueNow = []
      ∧ ({ onCtx hosted (fun c => { c with nodes := [{ plainNode with timer := 10 }], bins := [[rec3]] }) with
            dev := { idle.dev with clock := 10 } } : State).nextAct = some (.launchTimer 1 0)
      ∧ (onCtx hosted (fun c => { c with jobs := [⟨3, 0, false, false, [0]⟩] })).nextAct = some (.quiescenceReport 1 3)
      ∧ (onCtx hosted (fun c => { c with state := .terminated, termRecord := some [] })).nextAct = some (.terminationRecord 1)
      ∧ (onCtx hosted (fun c => { c with preemptAsked := true })).nextAct = some (.halt 1)
      ∧ (onCtx hosted (fun c => { c with request := some .destroy })).nextAct = some (.request 1 .destroy)
      ∧ (onCtx hosted (fun c => { c with state := .halted, request := some .save })).nextAct = some (.request 1 .save)
      ∧ (onCtx hosted (fun c => { c with state := .saved, request := some .restore })).nextAct = some (.request 1 .restore)
      ∧ (onCtx hosted (fun c => { c with genClosed := 1 })).nextAct = some (.grace 1)
      ∧ (onCtx hosted (fun c => { c with oldRegs := [⟨2, 3, 0, [0]⟩] })).nextAct = some (.ctxwr 1)
      ∧ (onCtx hosted (fun c => { c with nodes := [plainNode], waiting := [⟨7, 0, 0, 1, rec3⟩], jobs := [⟨3, 0, true, true, []⟩] })).nextAct
          = some (.cancelDrop 1 3 0)
      ∧ (onCtx hosted (fun c => { c with releases := [⟨0, 0, false, [], false, false⟩] })).nextAct = some (.release 1)
      ∧ (onCtx hosted (fun c => { c with oldRegs := [⟨2, 3, 0, []⟩] })).nextAct = some (.takeRegs 1 0)
      ∧ (onCtx hosted (fun c => { c with rigTodo := some 0x1000 })).nextAct = some (.retry 1)
      ∧ (onCtx hosted (fun c => { c with devFaults := [⟨0, 0x5000, 0, .read⟩] })).nextAct = some (.cannotMap 1 0x5000)
      ∧ ({ hosted with shoots := [1] } : State).nextAct = some (.shootdown 1) := by decide +kernel

/-- A context with a ready node, and one whose bin holds more records than the die. -/
def readyNode : State := onCtx hosted (fun c => { c with loaded := true, nodes := [plainNode], bins := [[rec3]] })
def overfull : State := onCtx hosted (fun c => { c with nodes := [plainNode], bins := [List.replicate (Config.recordsOnDie + 1) rec3] })

/-- What comes next beside the issue slots where one context alone acts, and nothing is due or promoted. -/
theorem nextAct_of_ctx {s : State} {c : Context} {xs : List Act} (hd : s.dueNow = []) (hi : s.issuers = []) (hp : s.promoted = []) (hq : s.clockDue = [])
    (hc : s.allCtxs = [c]) (hx : s.ctxActs c = xs) (ha : ∀ ys, s.allCtxs.flatMap s.ctxActs = ys → s.acts = ys ++ s.launchActs) :
    s.nextAct = s.pick (xs ++ s.launchActs) := by
  simp only [State.nextAct, hd, State.slotAct, hi, hp, hq]
  rw [ha xs (by simp [hc, hx])]

/-- The acts of a state in which nothing but its contexts acts. -/
theorem acts_of_ctx {s : State} (h1 : s.inbox = []) (h2 : s.allTeams = []) (h3 : s.allCrews = []) (h4 : s.cores = []) (h5 : s.ops = []) (h6 : s.staging = [])
    (h8 : s.bankActs = []) (h9 : s.goneActs = []) (h10 : s.gateActs = []) (ys : List Act)
    (hy : s.allCtxs.flatMap s.ctxActs = ys) : s.acts = ys ++ s.launchActs := by
  simp [State.acts, h1, h2, h3, h4, h5, h8, h9, h10, State.stagedActs, h6, hy, List.eraseDups]

/-- Where the die holds a record of a bin, which is open, and where a bin spills or gets records back, which is a free choice. -/
theorem test_meets_StepRunsEvents_bins :
    (1 ≤ Config.recordsOnDie → readyNode.nextAct = some (.nodeLaunch 0 1 0))
      ∧ ∃ out, overfull.nextAct = some (.spillBin 1 out) := by
  constructor
  · intro h
    have hs : readyNode.ctx.spilling = [] := by
      have hl : ¬ Config.recordsOnDie < (readyNode.ctx.bin 0).length := by
        rw [show (readyNode.ctx.bin 0).length = 1 from by decide +kernel]; omega
      rw [Context.spilling, if_neg (by decide +kernel), show List.range readyNode.ctx.nodes.length = [0] from by decide +kernel]
      simp [hl]
    have hx : readyNode.ctxActs readyNode.ctx = [] := by
      unfold State.ctxActs
      rw [hs]
      decide +kernel
    rw [nextAct_of_ctx (c := readyNode.ctx) (by decide +kernel) (by decide +kernel) (by decide +kernel) (by decide +kernel) (by decide +kernel) hx
      (acts_of_ctx rfl (by decide +kernel) (by decide +kernel) (by decide +kernel) rfl rfl (by decide +kernel) (by decide +kernel)
        (by decide +kernel))]
    decide +kernel
  · have hs : overfull.ctx.spilling = [0] := by
      have hb : overfull.ctx.bin 0 = List.replicate (Config.recordsOnDie + 1) rec3 := rfl
      rw [Context.spilling, if_neg (by decide +kernel), show List.range overfull.ctx.nodes.length = [0] from by decide +kernel]
      simp [hb]
    have hx : overfull.ctxActs overfull.ctx = [.spillBin 1 true, .spillBin 1 false] := by
      unfold State.ctxActs
      rw [hs]
      decide +kernel
    rw [nextAct_of_ctx (c := overfull.ctx) (by decide +kernel) (by decide +kernel) (by decide +kernel) (by decide +kernel) rfl hx
      (acts_of_ctx rfl (by decide +kernel) (by decide +kernel) (by decide +kernel) rfl rfl (by decide +kernel) (by decide +kernel)
        (by decide +kernel)), show overfull.launchActs = [] from by decide +kernel]
    have hm := Nat.mod_two_eq_zero_or_one (Config.freeChoice overfull.tick)
    rcases hm with hm | hm
    · exact ⟨true, by simp [State.pick, hm]⟩
    · exact ⟨false, by simp [State.pick, hm]⟩

theorem test_meets_StepRunsEvents_engines :
    ({ idle with cores := [(0, { CoreState.empty with wcb := [⟨640, 1, false, 9, 0, [], [], 0⟩] })] } : State).nextAct = some (.drain 0 5)
      ∧ ({ idle with cores := [(0, { CoreState.empty with miss := [(5, 2)] })] } : State).nextAct = some (.samplerFill 0 5)
      ∧ (withOp (.mma ⟨false, 0, 0, 0, false, false, 0, 0⟩ ⟨0, 0, 0, 0, 0, 0, 0, 0, 0, 0, 0, 0, 0, 0, 0, []⟩ 0 0 [] none)).nextAct = some (.array 0)
      ∧ (withOp (.accClr 0 (BitVec.allOnes 4096))).nextAct = some (.acc 20)
      ∧ (withOp (.copy false [] 0 none .none none)).nextAct = some (.copy 20)
      ∧ (withOp (.follow ⟨false, 0, 0, 0, false, false, 0, 0⟩)).nextAct = some (.follow 20)
      ∧ (withOp (.lda [⟨0, ⟨64, false, false⟩, 2, false, false, 3, none⟩] false)).nextAct = some (.land 20 0)
      ∧ (withOp (.remote 0 noUnits)).nextAct = some (.put 20) ∧ (withOp (.remote 1 noUnits)).nextAct = some (.get 20)
      ∧ (withOp (.remote 2 noUnits)).nextAct = some (.psig 20)
      ∧ (withOp (.ring ⟨0, 0, 16, 1, 2, 0, 1, 1, 0, 2, false, false, 0, 0⟩ [0] [] [])).nextAct = some (.ring 20)
      ∧ (withOp (.remote 1 { noUnits with todo := [4], dev := 9 })).nextAct = some (.remoteUnit 20 4)
      ∧ ({ idle with bankCmds := [bankCmd] } : State).nextAct = some (.bankFinish 3)
      ∧ ({ idle with rounds := [⟨5, 9, 1, 1, false, 0, false, []⟩] } : State).nextAct = some (.bankAck 9)
      ∧ ({ idle with bankCmds := [bankCmd], dev := { idle.dev with clock := 40000 } } : State).nextAct = some (.bankAgeing 3) := by decide +kernel

/-- The idle package at a device time, its governors' ticks done but for one. -/
def atTime (ns : Nat) (f : Device → Device) : State :=
  { idle with dev := f { idle.dev with dtime := ns, lastTrim := ns, lastReef := ns, lastPower := ns } }

/-- The same with its time state changed. -/
def timed (f : TimeState → TimeState) (ns : Nat) : State := atTime ns (fun d => { d with time := f d.time })

theorem test_meets_StepRunsEvents_times :
    (atTime 1000 (fun d => { d with lastTrim := 0 })).nextAct = some .trim
      ∧ (atTime 1000 (fun d => { d with lastReef := 0 })).nextAct = some .reef
      ∧ (atTime 1000 (fun d => { d with lastPower := 0 })).nextAct = some .power
      ∧ (idle.modTime (fun t => { t with fsyncOut := true, fsyncRose := some 0 })).nextAct = none
      ∧ (timed (fun t => { t with fsyncOut := true, fsyncRose := some 0 }) 1000).nextAct = some .fsyncEnd
      ∧ (timed (fun t => { t with disc := .locked }) 1000000000).nextAct = some .ppsEdge
      ∧ (timed (fun t => { t with ppsOut := true }) 10000000).nextAct = some .ppsEnd
      ∧ (timed (fun t => { t with disc := .holdover }) 10000000000).nextAct = some .holdover := by
  decide +kernel

/-! ### Traps, lanes, predicates and scalars -/

theorem test_meets_StepKeepsMemoryCanonical :
    base.Canonical ∧ (match step (base.placeWord 0x30800000) with
      | .next _ => true
      | _ => false) = true := by decide +kernel

theorem test_meets_TrapEntrySavesAndEnters : handled.team.trap.mode = false ∧ handled.creg 3 ≠ 0 := by decide +kernel

theorem test_meets_TrapsThatEndTheContext :
    quad.team.trap.mode = false ∧ quad.creg 3 = 0 ∧ quad.ctx.state = .running ∧ quad.team.ctx = quad.ctx.key ∧ quad.crew.ctx = quad.ctx.key
      ∧ inHandler.team.trap.mode = true ∧ inHandler.ctx.state = .running ∧ inHandler.team.ctx = inHandler.ctx.key
      ∧ inHandler.crew.ctx = inHandler.ctx.key := by decide +kernel

theorem test_meets_RttReturnsOrTraps :
    inHandler.team.trap.mode = true ∧ inHandler.team.mstack.length = inHandler.team.trap.savedMDepth
      ∧ inHandler.team.cstack.length = inHandler.team.trap.savedCDepth ∧ quad.team.trap.mode = false
      ∧ (onTeam inHandler (fun t => { t with mstack := [.loopE 1 0 4] })).team.mstack.length
          ≠ (onTeam inHandler (fun t => { t with mstack := [.loopE 1 0 4] })).team.trap.savedMDepth := by decide +kernel

theorem test_meets_PrivilegedInstructions :
    ¬ (inHandler.ctx.privileged = true ∧ inHandler.team.trap.mode = true)
      ∧ privileged.ctx.privileged = true ∧ privileged.team.trap.mode = true ∧ privileged.privileged = true := by decide +kernel

/-- Registers inside an allocation of 32, its last one among them, and one past it. -/
theorem test_meets_IntegerLaneResults :
    (∃ r, Claims.integerRule (.imad true 31 0 30) = some r ∧ quad.team.namesOk r.names = true)
      ∧ ∃ r, Claims.integerRule (.add false 32 0 1) = some r ∧ quad.team.namesOk r.names = false :=
  ⟨⟨_, rfl, by decide +kernel⟩, _, rfl, by decide +kernel⟩

theorem test_meets_FloatLaneResults :
    (∃ r, Claims.floatRule (.cvt false 10 31 30 0 false 3) = some r ∧ quad.team.namesOk r.names = true)
      ∧ (∃ r, Claims.floatRule (.fdiv false 32 0 1) = some r ∧ quad.team.namesOk r.names = false)
      ∧ quad.team.namesOk ([(30 : BitVec 7).toNat, (30 : BitVec 7).toNat + 1] ++ cvtNames (10 : BitVec 4).toNat (1 : BitVec 7).toNat) = true :=
  ⟨⟨_, rfl, by decide +kernel⟩, ⟨_, rfl, by decide +kernel⟩, by decide +kernel⟩

theorem test_meets_AcrossLaneResults :
    (∃ r, Claims.acrossRule (.bcast false 31 63 1) = some r ∧ quad.team.namesOk r.names = true)
      ∧ ∃ r, Claims.acrossRule (.scana false 32 0 7 true) = some r ∧ quad.team.namesOk r.names = false :=
  ⟨⟨_, rfl, by decide +kernel⟩, _, rfl, by decide +kernel⟩

theorem test_meets_LaneResultsReadBack :
    (∃ r, Claims.integerRule (.movi false 31 5) = some r ∧ quad.team.namesOk r.names = true)
      ∧ ∃ r, Claims.acrossRule (.freda false 3 31 2) = some r ∧ unmasked.team.namesOk r.names = true :=
  ⟨⟨_, rfl, by decide +kernel⟩, _, rfl, by decide +kernel⟩

theorem test_meets_PairSums :
    quad.team.namesOk [30, 31, 28, 29, 0, 1] = true ∧ quad.team.namesOk [32, 33, 28, 29, 0, 1] = false
      ∧ (31 : BitVec 7).toNat % 2 = 1 := by decide +kernel

theorem test_meets_PredicateResults :
    (∃ r, Claims.predRule (.cmp false 9 7 31 0) = some r ∧ quad.team.namesOk r.names = true)
      ∧ (∃ r, Claims.predRule (.pset false 1 32) = some r ∧ quad.team.namesOk r.names = false)
      ∧ ∃ r, Claims.predRule (.pand false 1 0 7) = some r ∧ quad.team.namesOk r.names = true :=
  ⟨⟨_, rfl, by decide +kernel⟩, ⟨_, rfl, by decide +kernel⟩, _, rfl, by decide +kernel⟩

theorem test_meets_PredicateBitsReadBack :
    ∃ r, Claims.predRule (.fcmp false 7 7 31 0) = some r ∧ quad.team.namesOk r.names = true := ⟨_, rfl, by decide +kernel⟩

theorem test_meets_ScalarResults :
    (∃ r, Claims.scalarRule (.sadd64 true 62 0 60) = some r) ∧ (∃ r, Claims.scalarRule (.ballot false 63 7 31) = some r)
      ∧ quad.team.namesOk [31] = true ∧ unmasked.team.active = [] ∧ quad.team.active ≠ [] :=
  ⟨⟨_, rfl⟩, ⟨_, rfl⟩, by decide +kernel, by decide +kernel, by decide +kernel⟩

/-- The canvas of the crew has an instruction that has not executed. -/
def canvasBusy : State := { quad with crew := { quad.crew with canvas := { Canvas.fresh with queue := [⟨0x100000, 0, 0, .all⟩] } } }

/-- The largest aligned address in a scalar pair and in a lane pair, a misaligned one, and one past the limit. -/
theorem test_meets_SpecialRegisters :
    canvasBusy.specialWaits 0x11 = true ∧ canvasBusy.team.namesOk [31] = true ∧ quad.specialWaits 7 = false
      ∧ quad.team.namesOk [30, 31] = true
      ∧ ((withPair quad 4 0x1FFFFFFFFFFFFFC).team.belay true).srd64 4 = 0x1FFFFFFFFFFFFFC ∧ 0x1FFFFFFFFFFFFFC < 2 ^ 57
      ∧ ((withPair quad 4 2).team.belay true).srd64 4 = 2 ∧ ((withPair quad 4 (2 ^ 57)).team.belay true).srd64 4 = 2 ^ 57
      ∧ unmasked.team.namesOk [30, 31] = true ∧ unmasked.team.active = []
      ∧ quad.team.active = [0, 1, 2, 3] ∧ ((withLane quad 2 0 0x40).team.belay false).rd64 2 0 = 0x40
      ∧ quad.team.active.all (fun l => netstatOk ((quad.team.belay true).rd 5 l)) = true
      ∧ netstatOk ((quad.team.belay true).srd 5) = true := by decide +kernel

/-! ### Control, divergence, barriers and ends -/

/-- A call stack of a number of frames. -/
def frames (n : Nat) : List Frame := List.replicate n ⟨0x100100, 0, false⟩

/-- A mask stack of a number of IF entries. -/
def arms (n : Nat) : List MaskEntry := List.replicate n (.ifE 0xF 3 false)

/-- The state with a mask stack and a call stack. -/
def stacked (m : List MaskEntry) (c : List Frame) : State := onTeam quad (fun t => { t with mstack := m, cstack := c })

/-- The state at an address. -/
def atPc (pc : Nat) : State := onTeam quad (fun t => { t with pc := BitVec.ofNat 57 pc })

/-- Targets at both ends of the address space, and past them. -/
theorem test_meets_TransfersOfControl :
    quad.team.flags.holds 1 = true ∧ (atPc 4).team.branchTarget (BitVec.ofInt 21 (-1)) = 0
      ∧ (atPc (2 ^ 57 - 8)).team.branchTarget 1 = 2 ^ 57 - 4 ∧ (stacked [] (frames 31)).team.cstack.length < 32
      ∧ quad.team.flags.holds 0 = false
      ∧ ((withPair quad 4 0x1FFFFFFFFFFFFFC).team.belay true).srd64 4 = 0x1FFFFFFFFFFFFFC
      ∧ (stacked [] (frames 1)).team.cstack = [⟨0x100100, 0, false⟩] ∧ (stacked [] (frames 1)).team.mstack.length = 0
      ∧ (atPc 0).team.branchTarget (BitVec.ofInt 21 (-1)) < 0 ∧ 2 ^ 57 ≤ (atPc (2 ^ 57 - 4)).team.branchTarget 1
      ∧ 32 ≤ (stacked [] (frames 32)).team.cstack.length
      ∧ ((withPair quad 4 2).team.belay true).srd64 4 = 2 ∧ ((withPair quad 4 (2 ^ 57)).team.belay true).srd64 4 = 2 ^ 57
      ∧ quad.team.cstack = [] ∧ (stacked (arms 1) (frames 1)).team.mstack.length ≠ 0 := by decide +kernel

theorem test_meets_TeamSettings :
    (quad.team.alloc < 128 ∧ (0 : BitVec 7) = 0)
      ∧ (∀ t : Team, t = { quad.team with alloc := 192 } → 128 ≤ t.alloc ∧ (2 : BitVec 7).toNat ≤ (t.alloc - 128) / 32
          ∧ (t.alloc - 128) / 32 < (3 : BitVec 7).toNat)
      ∧ (quad.team.alloc < 128 ∧ (1 : BitVec 7) ≠ 0) := by
  refine ⟨by decide +kernel, fun t ht => ?_, by decide +kernel⟩
  subst ht; decide

theorem test_meets_StructuredDivergence :
    (stacked (arms 63) []).team.mstack.length < 64
      ∧ (stacked (arms 1) []).team.mstack = .ifE 0xF 3 false :: [] ∧ (stacked (arms 1) []).team.mstack.length ≠ (stacked (arms 1) []).team.depthBase
      ∧ leaveLanes 1 false 2 (.ifE 0xF 3 false :: [.loopE 0xF 0 0x100000]) = some (.ifE 0xE 2 false :: [.loopE 0xF 0 0x100000])
      ∧ (stacked (arms 1 ++ [.loopE 0xF 0 0x100000]) []).team.mstack.length - (stacked (arms 1 ++ [.loopE 0xF 0 0x100000]) []).team.depthBase = 2
      ∧ leaveLanes 1 true 1 [.loopE 0xF 0 0x100000] = some [.loopE 0xF 1 0x100000]
      ∧ (stacked [.loopE 0xF 0 0x100000] []).team.mstack = [.loopE 0xF 0 0x100000]
      ∧ (stacked [.loopE 0xF 0 0x100000] []).team.mstack.length ≠ (stacked [.loopE 0xF 0 0x100000] []).team.depthBase
      ∧ (stacked [.loopE 0xF 0 0x100000] []).team.mask ||| 0 ≠ 0
      ∧ (onTeam (stacked [.loopE 0xF 0 0x100000] []) (fun t => { t with mask := 0 })).team.mask ||| 0 = 0
      ∧ 64 ≤ (stacked (arms 64) []).team.mstack.length ∧ quad.team.mstack = []
      ∧ (stacked (arms 1) [⟨0x100100, 1, false⟩]).team.mstack.length = (stacked (arms 1) [⟨0x100100, 1, false⟩]).team.depthBase
      ∧ leaveLanes 1 false 1 (arms 1) = none ∧ leaveLanes 1 true 0 [] = none
      ∧ (stacked [.ifE 0xF 3 true] []).team.mstack = [.ifE 0xF 3 true] := by decide +kernel

/-- Four lanes with the targets 0x200, 0x100, 0x200 and 0x100 in v2:v3. -/
def targets : State := withLane (withLane (withLane (withLane quad 2 0 0x200) 2 1 0x100) 2 2 0x200) 2 3 0x100

/-- The state in a CALLX whose lanes of a mask are pending. -/
def inCallx (pending : Mask) : State :=
  onTeam targets (fun t => { t with mstack := [.callxE 0xF pending 2], cstack := [⟨0x100004, 1, true⟩], mask := 0xA })

theorem test_meets_CallxDispatches :
    targets.team.namesOk [2, 3] = true ∧ targets.team.active ≠ [] ∧ unmasked.team.active = []
      ∧ (∀ l ∈ targets.team.active, (targets.team.belay true).laneTarget ((targets.team.belay true).phys 2) l % 4 = 0)
      ∧ targets.team.mstack.length < 64 ∧ targets.team.cstack.length < 32
      ∧ ((targets.team.belay true).pick 0xF ((targets.team.belay true).phys 2)).target = 0x100
      ∧ ((targets.team.belay true).pick 0xF ((targets.team.belay true).phys 2)).group = 0xA
      ∧ (inCallx 0).team.cstack = [⟨0x100004, 1, true⟩] ∧ (inCallx 0).team.mstack.length = 1
      ∧ Mask.lanesOf 0 (inCallx 0).team.width = [] ∧ Mask.lanesOf 5 (inCallx 5).team.width ≠ []
      ∧ (((inCallx 5).team.belay false).pick 5 2).target = 0x200 := by decide +kernel

/-- A crew of two teams with a round of BAR present that the other team began. -/
def meeting : State := { quad with crew := { quad.crew with nteams := 2, rounds := [⟨3, false, false, 0, [1]⟩] } }

theorem test_meets_CrewBarriersArrive :
    meeting.crew.canvas.pend = none ∧ meeting.crew.rounds.find? (fun r => r.n == 3) = some ⟨3, false, false, 0, [1]⟩
      ∧ meeting.crew.rounds.find? (fun r => r.n == 15) = none
      ∧ meeting.crew.rounds.find? (fun r => r.n == (3 : BitVec 4).toNat) = some ⟨3, false, false, 0, [1]⟩ := by decide +kernel

theorem test_meets_ExitEndsTeam : unmasked.team.active = [] ∧ quad.team.active ≠ [] := by decide +kernel

/-! ### Memory -/

/-- Every lane is aligned, in the address space, and translates. -/
def allLocated (size : Nat) (ls : List LaneAcc) : Bool :=
  ls.all (fun x => x.va % size == 0 && decide (x.va < 2 ^ 57) && match x.res with
    | .ok _ => true
    | .error _ => false)

theorem allLocated_sound (size : Nat) (ls : List LaneAcc) (h : allLocated size ls = true) : Claims.AllLocated size ls := by
  intro x hx
  have := List.all_eq_true.mp h x hx
  simp only [Bool.and_eq_true, beq_iff_eq, decide_eq_true_eq] at this
  refine ⟨this.1.1, this.1.2, ?_⟩
  cases hr : x.res with
  | ok l => exact ⟨l, rfl⟩
  | error e => rw [hr] at this; simp at this

/-- Four lanes with their byte offsets in v1, and a base of 0x300000 in s8:s9. -/
def spread : State :=
  withPair (withLane (withLane (withLane (withLane quad 1 0 0) 1 1 64) 1 2 8) 1 3 0x4000) 8 0x300000

/-- The lanes' accesses of LD and ST without and with an offset, in the state that every order code sees. -/
def spreadLanes (acc : Access) (off : Int) : List LaneAcc := spread.lanesAt (spread.team.belay true) acc ((spread.team.belay true).laneAddr 8 1 off)

theorem test_meets_LoadsComplete :
    spread.team.namesOk (accessNames 3 30 1) = true
      ∧ Claims.AllLocated 8 (spreadLanes .read 0) ∧ Claims.AllLocated 8 (spreadLanes .read (-8))
      ∧ ((spread.team.belay true).scalarAddr 8 0) % 8 = 0 ∧ (spread.team.belay true).scalarAddr 8 0 < 2 ^ 57
      ∧ spread.translate (spread.crew.coreOf (spread.team.belay true) 0) ((spread.team.belay true).scalarAddr 8 0) .read
          = .ok ⟨0x300000, false, false⟩ ∧ (unmasked.team.belay true).acting = [] ∧ (spread.team.belay true).acting ≠ [] := by
  refine ⟨by decide +kernel, allLocated_sound _ _ (by decide +kernel), allLocated_sound _ _ (by decide +kernel), by decide +kernel⟩

/-- The state before the lanes of ST store, of a buffer without entries and of one with 64. -/
def storing : State := (spread.withTeam (spread.team.belay true)).prepareStore 0 (spansOf 1 (located (spreadLanes .write 0)))
def crowded : State :=
  { spread with cores := [(0, { CoreState.empty with wcb := (List.range 64).map (fun k => ⟨0x200000 + 128 * k, 1, false, 9, 0, [], [], 0⟩) })] }

theorem test_meets_StoresComplete :
    spread.team.namesOk (accessNames 0 31 1) = true ∧ Claims.AllLocated 1 (spreadLanes .write 0) ∧ Claims.AllLocated 1 (spreadLanes .write 3)
      ∧ storing.noRoom (located (spreadLanes .write 0)) = false
      ∧ ((crowded.withTeam (crowded.team.belay true)).prepareStore 1 (spansOf 1 (located (spreadLanes .write 0)))).noRoom (located (spreadLanes .write 0)) = true
      ∧ storing.noRoom [(0, 0x2FFFFC, ⟨0x2FFFFC, false, false⟩)] = false
      ∧ crowded.noRoom [(0, 0x2FFFFC, ⟨0x2FFFFC, false, false⟩)] = true
      ∧ ((spread.team.belay true).scalarAddr 8 (-4)) % 4 = 0 ∧ (spread.team.belay true).scalarAddr 8 (-4) < 2 ^ 57
      ∧ spread.translate (spread.crew.coreOf (spread.team.belay true) 0) ((spread.team.belay true).scalarAddr 8 (-4)) .write
          = .ok ⟨0x2FFFFC, false, false⟩ ∧ (unmasked.team.belay true).acting = [] ∧ (spread.team.belay true).acting ≠ [] := by
  refine ⟨by decide +kernel, allLocated_sound _ _ (by decide +kernel), allLocated_sound _ _ (by decide +kernel), by decide +kernel⟩

theorem test_meets_StoresTouchOnlyTheirBytes :
    (1 : BitVec 2) ≠ 2 ∧ spread.team.namesOk (accessNames 0 3 1) = true ∧ Claims.AllLocated 1 (spreadLanes .write 0) ∧ spread.crew.pair = false
      ∧ (spread.team.belay true).acting ≠ [] ∧ Claims.BufferHolds storing 1 (spreadLanes .write 0) := by
  have h : storing.cores = [] := by decide +kernel
  refine ⟨by decide, by decide +kernel, allLocated_sound _ _ (by decide +kernel), by decide +kernel, by decide +kernel, fun core => ?_⟩
  have : (storing.core core).wcb = [] := by
    unfold State.core
    rw [h]
    rfl
  rw [this]
  exact of_decide_eq_true (by decide +kernel)

/-- A lane at 0x300001, one past the address space, and one on a page of 0x40000000 that is not present. -/
theorem test_meets_AccessesThatFault :
    ((spreadLanes .read 1).find? (fun x => x.va % typeSize 2 != 0)).map (fun x => (x.lane, x.va)) = some (0, 0x300001)
      ∧ (spread.lanesAt (spread.team.belay true) .read (fun _ => 2 ^ 57)).all (fun y => y.va % typeSize 2 == 0) = true
      ∧ ((spread.lanesAt (spread.team.belay true) .read (fun _ => 2 ^ 57)).find? (fun x => decide (2 ^ 57 ≤ x.va))).isSome = true
      ∧ (spread.lanesAt (spread.team.belay true) .read (fun l => 0x3FFFFFFC + 4 * l)).map (fun x => (x.va, x.res))
          = [(0x3FFFFFFC, .ok ⟨0x3FFFFFFC, false, false⟩), (0x40000000, .error 0x04), (0x40000004, .error 0x04), (0x40000008, .error 0x04)]
      ∧ spread.team.declined = none := by decide +kernel

/-- The value of a computation that succeeded. -/
def okE {ε α : Type} (x : Except ε α) : Bool :=
  match x with
  | .ok _ => true
  | .error _ => false

/-- The addresses of a list all translate. -/
def reaches (s : State) (xs : List (Nat × Access)) : Bool :=
  match s.reach xs with
  | .ok _ => true
  | .stop _ => false

/-- Where the addresses of a list lie, when they all translate. -/
def reached (s : State) (xs : List (Nat × Access)) : Option (List Loc) :=
  match s.reach xs with
  | .ok locs => some locs
  | .stop _ => none

/-- The last four bytes of the scratchpad of 64 KiB, and of the register image of 32 registers and the trap registers. -/
theorem test_meets_ScratchpadAccesses :
    quad.team.namesOk (accessNames 2 31 1) = true
      ∧ spadCheck 4 65536 ((withLane quad 1 3 65532).team.spadAddr 1 0) [0, 1, 2, 3] = none
      ∧ spadCheck 4 65536 ((withLane quad 1 3 65528).team.spadAddr 1 4) [0, 1, 2, 3] = none
      ∧ (withLane quad 1 3 7328).team.active = [0, 1, 2, 3] ∧ quad.crew.spadSize = 65536
      ∧ spadCheck 4 (128 * quad.team.strands * (quad.team.alloc + 16) + 1188) ((withLane quad 1 3 7328).team.spadAddr 1 0) [0, 1, 2, 3] = none := by
  decide +kernel

/-- The state with its first two batches closed, and its team's operation of the second one not complete. -/
def closedTwo : State := withScalar (onTeam quad (fun t => { t with openBatch := 2, closedAny := true })) 5 1
def closedTwoBusy : State := { closedTwo with ops := [{ opWith (.accClr 0 1) with batch := 1 }] }

theorem test_meets_BatchesAndLandings :
    spread.team.namesOk (accessNames 3 30 1) = true ∧ Claims.AllLocated 8 (spreadLanes .read 8) ∧ spread.team.replay = none ∧ spread.team.active ≠ []
      ∧ (onTeam spread (fun t => { t with landQuota := 8192 })).team.ldaQuota 3 ≤ (onTeam spread (fun t => { t with landQuota := 8192 })).quotaFree
      ∧ (onTeam quad (fun t => { t with openBatch := 127 })).team.openBatch < 128
      ∧ (onTeam quad (fun t => { t with openBatch := 128 })).batchDone (onTeam quad (fun t => { t with openBatch := 128 })).team 0 = true
      ∧ (closedTwo.team.belay true).namedBatch ((closedTwo.team.belay true).srd 5).toNat = some (Int.ofNat 1)
      ∧ closedTwo.batchDone (closedTwo.team.belay true) 1 = true ∧ closedTwoBusy.batchDone (closedTwoBusy.team.belay true) 1 = false
      ∧ 1 ∈ (onTeam closedTwo (fun t => { t with committed := [1] })).team.committed ∧ 1 ∉ closedTwo.team.committed
      ∧ (quad.team.belay true).namedBatch 0 = none ∧ (unmasked.team.belay true).acting = [] := by
  refine ⟨by decide +kernel, allLocated_sound _ _ (by decide +kernel), by decide +kernel⟩

/-- An atomic of a lane that waits. -/
def atomLane : AtomLane := ⟨0, 2, 0, 0x300000, false, 9, true, false, 5, 7, true, 3072⟩

theorem test_meets_AtomicsExecute :
    spread.team.namesOk (atomicNames 9 true 30 1 28) = true ∧ Claims.AllLocated 8 (spreadLanes .atomic 0)
      ∧ (1 : BitVec 2) ≠ 3 ∧ (3 : BitVec 2) = 3 ∧ ({ spread with atomics := [atomLane] } : State).atomics.filter (fun y => y.team == 2) = [atomLane]
      ∧ ({ spread with atomics := [atomLane] } : State).atomics.filter (fun y => y.team == 3) = []
      ∧ atomLane.together { atomLane with key := 3073 } = true
      ∧ ({ spread with atomics := [atomLane, { atomLane with key := 3073 }] } : State).atomics.filter (fun y => y.team == 2)
        = [atomLane, { atomLane with key := 3073 }]
      ∧ (unmasked.team.belay true).acting = [] ∧ (spread.team.belay true).acting ≠ [] := by
  refine ⟨by decide +kernel, allLocated_sound _ _ (by decide +kernel), by decide +kernel⟩

/-- The issuing team has a PUT that has not completed. -/
def putPending : State := { spread with ops := [opWith (.remote 0 noUnits)] }

/-- The state of a WAITV of the word at 0x300000 after the accesses before it. -/
def watching : State := (spread.withTeam (spread.team.belay true)).prepareLoad 3 4 [(0, 0x300000, ⟨0x300000, false, false⟩)]

theorem test_meets_FencesWaitsAndPrefetch :
    unmasked.team.active = [] ∧ (spread.team.belay true).active ≠ [] ∧ ¬ Claims.FenceHeld (spread.withTeam (spread.team.belay true)) 4
      ∧ Claims.FenceHeld (putPending.withTeam (putPending.team.belay true)) 5 ∧ spread.team.dropping = none
      ∧ (onTeam spread (fun t => { t with dropping := some 2 })).team.dropping ≠ none ∧ spread.team.namesOk [31] = true
      ∧ ((spread.team.belay true).srd64 8).toNat = 0x300000
      ∧ spread.translate (spread.crew.coreOf (spread.team.belay true) 0) 0x300000 .read = .ok ⟨0x300000, false, false⟩
      ∧ BitVec.ofNat 32 (watching.loadVal 0 2 true ⟨0x300000, false, false⟩ 4) = (spread.team.belay true).srd 5
      ∧ BitVec.ofNat 32 (watching.loadVal 0 2 true ⟨0x300000, false, false⟩ 4) ≠ ((withScalar spread 5 9).team.belay true).srd 5 := by
  refine ⟨by decide +kernel, by decide +kernel, fun h => absurd h.1 (by decide), ⟨rfl, opWith (.remote 0 noUnits), ?_, ?_⟩, by decide +kernel,
    by decide +kernel⟩
  · exact List.mem_singleton.mpr rfl
  · exact ⟨by decide +kernel, rfl, 0, noUnits, rfl⟩

/-- The canvas of the issuing crew holds a number of waiting instructions, or a number of entries on its enable stack. -/
def canvasWith (waiting entries : Nat) : State :=
  { quad with crew := { quad.crew with canvas := { Canvas.fresh with
      queue := List.replicate waiting ⟨0x100000, 0, 0, .all⟩, stack := List.replicate entries (1, 3) } } }

theorem test_meets_CanvasAccepts :
    (∃ b len op, Claims.canvasRule (.cnvExpq false 13 58) = some (b, len, op)) ∧ Claims.CanvasReady (canvasWith 1 0)
      ∧ (onTeam base (fun t => { t with mask := 1 })).team.active ≠ [] ∧ base.crew.hasCanvas = false ∧ unmasked.team.active = []
      ∧ 2 ≤ (canvasWith 2 0).crew.canvas.queue.length ∧ quad.team.active ≠ [] ∧ quad.crew.hasCanvas = true
      ∧ ((withScalar (withScalar quad 10 0xFFFFE) 11 0).team.belay true).srd 10 = 0xFFFFE
      ∧ ((withScalar quad 10 0xFFFFF).team.belay true).srd 10 = 0xFFFFF
      ∧ ((withScalar quad 12 0xFFC00000).team.belay true).srd 12 = 0xFFC00000 ∧ (0xFFC00000 : Word).toInt = -4194304
      ∧ ((withScalar quad 13 0x3FFFC0).team.belay true).srd 13 = 0x3FFFC0 ∧ (0x3FFFC1 : Word).toInt = 4194241 ∧ quad.team.namesOk [31] = true
      ∧ ((withScalar quad 14 0xC000).team.belay true).srd 14 = 0xC000 ∧ 0xC000 + 16384 ≤ quad.crew.spadSize ∧ quad.crew.canvas.pend = none
      ∧ (0xC001 : Nat) % 256 ≠ 0 ∧ 0xC100 % 256 = 0 ∧ quad.crew.spadSize < 0xC100 + 16384 := by
  refine ⟨⟨_, _, _, rfl⟩, ⟨by decide +kernel, by decide +kernel, by decide +kernel⟩, by decide +kernel⟩

/-- A delivery is pending on the canvas, with a number of instructions waiting there. -/
def delivering (waiting : Nat) : State :=
  { canvasWith waiting 0 with crew := { (canvasWith waiting 0).crew with canvas := { (canvasWith waiting 0).crew.canvas with pend := some 0x100000, counted := 7 } } }

/-- Room in the queue with a push and a pop that the stack will bear, waiting instructions with a full and an empty stack, and deliveries. -/
theorem test_meets_CanvasReadsAndStack :
    (quad.team.active ≠ [] ∧ (canvasWith 0 7).crew.hasCanvas = true ∧ (canvasWith 0 7).crew.canvas.queue = [] ∧ (canvasWith 0 7).crew.canvas.pend = none)
      ∧ (canvasWith 0 7).crew.canvas.stack.length < 8 ∧ quad.team.namesOk [31] = true
      ∧ 128 * (onTeam quad (fun t => { t with landQuota := 128 })).team.liveStrands ≤ (onTeam quad (fun t => { t with landQuota := 128 })).quotaFree
      ∧ (canvasWith 0 1).crew.canvas.stack = (1, 3) :: [] ∧ 8 ≤ (canvasWith 0 8).crew.canvas.stack.length ∧ quad.crew.canvas.stack = []
      ∧ Claims.CanvasReady (canvasWith 1 7) ∧ (canvasWith 1 7).crew.canvas.depthAhead < 8 ∧ 0 < (canvasWith 1 1).crew.canvas.depthAhead
      ∧ (canvasWith 1 8).crew.canvas.queue ≠ [] ∧ 8 ≤ (canvasWith 1 8).crew.canvas.depthAhead ∧ (canvasWith 1 0).crew.canvas.depthAhead = 0
      ∧ (delivering 0).crew.canvas.pend = some 0x100000 ∧ (delivering 0).crew.canvas.queue = [] ∧ (delivering 1).crew.canvas.queue.length < 2
      ∧ (onTeam base (fun t => { t with mask := 1 })).team.active ≠ [] ∧ base.crew.hasCanvas = false ∧ (unmasked.team.belay true).active = []
      ∧ (quad.team.belay true).active ≠ [] := by
  simp only [Claims.CanvasReady]
  decide +kernel

/-- The canvas of the issuing crew has accepted one instruction of the team. -/
def toExecute (c : Canvas) (op : CanvasOp) : State :=
  { quad with crew := { quad.crew with canvas := { c with queue := [⟨0x100000, 0, 0, op⟩] } } }

/-- Forms on cells, one that raises a flag of the mask (0 times infinity) and one with a mask of 0, a change of the enables, planes, a read with
its operation, a read for the team's registers, and nothing accepted. -/
theorem test_meets_CanvasExecutesInOrder :
    quad.crew.live = true ∧ quad.crew.canvas.regs.length = 16 ∧ quad.crew.canvas.queue = []
      ∧ (toExecute Canvas.fresh (.arith 3 15 1 0)).crew.canvas.queue = [⟨0x100000, 0, 0, .arith 3 15 1 0⟩] ∧ [15].Nodup ∧ (∀ d ∈ [15], d < 16)
      ∧ (onCtx quad (fun c => { c with regs := FMap.set [] 6 15 })).ctx? 1 = some (onCtx quad (fun c => { c with regs := FMap.set [] 6 15 })).ctx
      ∧ ((onCtx quad (fun c => { c with regs := FMap.set [] 6 15 })).ctx.regOn 0 6).toNat % 16 = 15 ∧ (quad.ctx.regOn 0 6).toNat % 16 = 0
      ∧ (Claims.cellRule Canvas.fresh (.mac 0 1 0x7F800000)).map (fun x => Nat.land (x.2 0).flags 15 != 0) = some true
      ∧ Claims.Enabled Canvas.fresh 0 ∧ (Claims.cellRule Canvas.fresh (.blend 0 4 [0, 0, 0])).map (fun x => x.1) = some [0, 1, 2, 3]
      ∧ (Claims.canvasChange { Canvas.fresh with stack := [(1, 3)] } .pop).isSome = true
      ∧ ({ toExecute Canvas.fresh (.rdla 20 3 [(5, 9)]) with ops := [opWith .rdla] } : State).op? 20 = some (opWith .rdla)
      ∧ Claims.canvasGives Canvas.fresh (.rdl 3 [(5, 9)]) ≠ []
      ∧ (quad.crewTeams quad.crew.key).find? (fun t => t.index == 0) = some quad.team := by
  simp only [Claims.Enabled]
  decide +kernel

/-! ### Engines -/

/-- A header at 0x300000 of a block of 2 by 32 .f elements at 0x300100 with rows 128 bytes apart and the tag of .f, a tile region of the
scratchpad, and a format-block record at 0x8000 of two regions of width 1. -/
def tiled : State :=
  let s := ((((spread.putNumber 0x300000 8 0x300100).putNumber 0x300008 2 2).putNumber 0x30000A 2 32).putNumber 0x30000C 4 128).putNumber 0x30001C 2 1
  withScalar (withScalar { s with crew := { s.crew with tiles := [⟨0x1000, 32, 32, 1⟩], spad := [(0x8004, 1), (0x8006, 1)] } } 4 0x1000) 5 0x100000

/-- A computation that succeeds has a value. -/
theorem okE_sound {ε α : Type} {x : Except ε α} (h : okE x = true) : ∃ a, x = .ok a := by
  cases x with
  | ok a => exact ⟨a, rfl⟩
  | error e => cases h

/-- Addresses that translate have these locations. -/
theorem reached_sound {s : State} {xs : List (Nat × Access)} {locs : List Loc} (h : reached s xs = some locs) : s.reach xs = .ok locs := by
  unfold reached at h
  split at h
  · next x e => cases h; exact e
  · cases h

/-- The state in which the tiled state's header has been read, and the header. -/
def tileRead : State × List Byte := (tiled.withTeam (tiled.team.belay true)).readHeader ⟨0x300000, false, false⟩

theorem tiled_header : Claims.HeaderRead (tiled.withTeam (tiled.team.belay true)) 0x300000 tileRead.1 tileRead.2 :=
  ⟨⟨0x300000, false, false⟩, by decide +kernel, reached_sound (by decide +kernel), rfl, by decide +kernel⟩

/-- What CPY.T into the region of the tiled state plans. -/
def tilePlan (out : Bool) : CopyPlan :=
  ⟨(List.range 2).flatMap (fun k => rowUnits ((0x300100 + k * 128) % 2 ^ 64) (0x1000 + k * 128) 128), some (0x1000, 32),
    [(0x300000, if out then Access.write else Access.read)], 0x1000, 1⟩

theorem tiled_plan (out : Bool) : Claims.Planned (tiled.withTeam (tiled.team.belay true)) out 2 8 4 0 tileRead.1 (tilePlan out) := by
  have hva : ((tiled.withTeam (tiled.team.belay true)).team.srd64 8).toNat = 0x300000 := by decide +kernel
  refine ⟨⟨0x1000, 32, 32, 1⟩, tileRead.2, 32, by decide +kernel, by rw [hva]; exact tiled_header, ?_, ?_⟩
  · unfold Claims.TileOk; cases out <;> decide +kernel
  · cases out <;> decide +kernel

/-- The state with the operands of a copy of 256 bytes to the end of the scratchpad, and of four rows of 64 bytes there. -/
def atEnd : State := withScalar (withScalar (withScalar (withScalar (withScalar (withScalar tiled 4 0xFF00) 5 256) 20 64) 21 4) 22 1024) 23 64

theorem atEnd_plans :
    Claims.Planned (atEnd.withTeam (atEnd.team.belay true)) false 0 8 4 5 (atEnd.withTeam (atEnd.team.belay true))
        ⟨rowUnits 0x300000 0xFF00 256, none, [], 0, 0⟩
      ∧ Claims.Planned (atEnd.withTeam (atEnd.team.belay true)) true 1 8 4 20 (atEnd.withTeam (atEnd.team.belay true))
        ⟨(List.range 4).flatMap (fun k => rowUnits ((0x300000 + k * 1024) % 2 ^ 64) (0xFF00 + k * 64) 64), none, [], 0, 0⟩ := by
  constructor
  · refine ⟨rfl, ?_, by decide +kernel⟩
    simp only [Claims.CopyOk]; decide +kernel
  · refine ⟨rfl, ?_, by decide +kernel⟩
    simp only [Claims.Copy2dOk]; decide +kernel

/-- An MMA of the tiled state's record meets its rules, at its issue and after a header's read. -/
theorem tiled_mma (sp : Bool) (h : sp = false) :
    (∃ fb, Claims.MmaOk tileRead.1 (tileRead.1.team.mmaArgs sp 10 11 12 false false 0 0x400) fb)
      ∧ ∃ fb, Claims.MmaOk (tiled.withTeam (tiled.team.belay true)) ((tiled.team.belay true).mmaArgs sp 10 11 12 false false 0 0x400) fb := by
  subst h
  constructor
  · obtain ⟨fb, h⟩ := okE_sound (x := tileRead.1.readBlock tileRead.1.crew ⟨tileRead.1.team.index, .array, tileRead.1.tick⟩
      (tileRead.1.team.mmaArgs false 10 11 12 false false 0 0x400)) (by decide +kernel)
    exact ⟨fb, by decide +kernel, by decide +kernel, by decide +kernel, by decide +kernel, by decide +kernel, h⟩
  · obtain ⟨fb, h⟩ := okE_sound (x := (tiled.withTeam (tiled.team.belay true)).readBlock (tiled.withTeam (tiled.team.belay true)).crew
      ⟨(tiled.withTeam (tiled.team.belay true)).team.index, .array, (tiled.withTeam (tiled.team.belay true)).tick⟩
      ((tiled.team.belay true).mmaArgs false 10 11 12 false false 0 0x400)) (by decide +kernel)
    exact ⟨fb, by decide +kernel, by decide +kernel, by decide +kernel, by decide +kernel, by decide +kernel, h⟩

/-- The tiled state with a header of no rows. -/
def untiled : State := tiled.putNumber 0x300008 2 0

theorem test_meets_CopiesJoinTheirBatch :
    unmasked.team.active = [] ∧ (tiled.team.belay true).active ≠ [] ∧ ((tiled.team.belay true).srd64 8).toNat = 0x300000
      ∧ reaches tileRead.1 (Claims.unitAccesses false (tilePlan false).units ++ (tilePlan false).head) = true
      ∧ reaches tileRead.1 (Claims.unitAccesses true (tilePlan true).units ++ (tilePlan true).head) = true
      ∧ reaches (atEnd.withTeam (atEnd.team.belay true)) (Claims.unitAccesses false (rowUnits 0x300000 0xFF00 256)) = true
      ∧ tileRead.1.copyQueue tileRead.1.home < 64
      ∧ 64 ≤ ({ atEnd with ops := List.replicate 64 (opWith (.copy false [] 0 none .none none)) } : State).copyQueue atEnd.home
      ∧ tiled.team.namesOk [10, 11, 12] = true ∧ misaligned16 [0x300000, 0x1008, 256] = some 0x1008
      ∧ 1048576 < 1048592 ∧ (1048592 : Nat) % 16 = 0 ∧ atEnd.crew.spadSize < 0xFF00 + 272 ∧ (0x300020 : Nat) % 64 ≠ 0
      ∧ untiled.crew.regionAt (untiled.team.srd 4).toNat = some ⟨0x1000, 32, 32, 1⟩ ∧ reached untiled [(0x300000, .read)] = some [⟨0x300000, false, false⟩]
      ∧ headerFault (untiled.readHeader ⟨0x300000, false, false⟩).2 = some 8 := by decide +kernel

/-- The tiled state with a header of twelve scalars from s40 on, the last of them given. -/
def headed (last : Nat) : State :=
  withScalar (withScalar (withScalar (withScalar (withScalar tiled 40 0x300100) 42 0x200002) 43 128) 47 1) 51 last

/-- A key of all wildcards and no reserved bit, a header's address, and one that is no multiple of 64. -/
theorem test_meets_TagsAndHeaders :
    (tiled.team.belay true).active ≠ [] ∧ tiled.crew.regionAt ((tiled.team.belay true).srd 4).toNat = some ⟨0x1000, 32, 32, 1⟩
      ∧ ((withScalar tiled 6 0x1FFFF).team.belay true).srd 6 = 0x1FFFF ∧ (0x1FFFF : Word).toNat < 2 ^ 17 ∧ (0x1FFFF : Word).getLsbD 16 = true
      ∧ tagReserved (0x1FFFF % 2 ^ 16) = true ∧ tagReserved (0x10001 % 2 ^ 16) = false ∧ tagReserved 1 = false
      ∧ (0xFFFF : Word).toNat < 2 ^ 16 ∧ tagReserved 0xFFFF = true ∧ (8 : BitVec 6).toNat % 2 = 0 ∧ (9 : BitVec 6).toNat % 2 = 1
      ∧ reached tileRead.1 [(0x300000, .write)] = some [⟨0x300000, false, false⟩]
      ∧ headerFault ((List.range 12).flatMap (fun k => leBytes 4 (((headed 0).team.belay true).srd (40 + k)).toNat)) = none
      ∧ headerFault ((List.range 12).flatMap (fun k => leBytes 4 (((headed 1).team.belay true).srd (40 + k)).toNat)) = some 44
      ∧ ((tiled.team.belay true).srd64 8).toNat % 64 = 0 ∧ reached tiled [(0x300000, .write)] = some [⟨0x300000, false, false⟩]
      ∧ reached untiled [(0x300000, .read)] = some [⟨0x300000, false, false⟩] ∧ headerFault (untiled.readHeader ⟨0x300000, false, false⟩).2 = some 8
      ∧ (0x300020 : Nat) % 64 ≠ 0 ∧ 2 ^ 17 ≤ (0x20000 : Word).toNat := by
  decide +kernel

/-- A record whose B format is 1 while A's is another, which breaks R201. -/
def unpaired : State := { tiled with crew := { tiled.crew with spad := [(0x8000, 5)] } }

/-- The tiled state's header with a format that ACC.LD does not read, and with rows half as far apart as they are long. -/
def otherFormat : List Byte := ((tiled.putNumber 0x30001C 2 4).readHeader ⟨0x300000, false, false⟩).2
def tooNear : List Byte := ((tiled.putNumber 0x30000C 4 64).readHeader ⟨0x300000, false, false⟩).2

theorem test_meets_MatrixFormsJoinTheirBatch :
    (tiled.team.belay true).active ≠ [] ∧ tiled.team.namesOk [10, 11, 12] = true ∧ tiled.arrayQueue tiled.home < 16
      ∧ 16 ≤ ({ tiled with ops := List.replicate 16 (opWith (.accClr 0 1)) } : State).arrayQueue tiled.home
      ∧ ((withLane tiled 11 0 8).team.mmaArgs false 10 11 12 false true 0 0x400).ao % 256 ≠ 0
      ∧ ((withLane tiled 12 0 8).team.mmaArgs false 10 11 12 false true 0 0x400).bo % 256 ≠ 0
      ∧ okE (unpaired.readBlock unpaired.crew ⟨unpaired.team.index, .array, unpaired.tick⟩ ((unpaired.team.belay true).mmaArgs false 10 11 12 false true 0 0x400)) = false
      ∧ 49152 % 16384 = 0 ∧ 49152 < 16384 * tiled.crew.accSlots ∧ 16384 * tiled.crew.accSlots ≤ 65536 ∧ 49153 % 16384 ≠ 0
      ∧ fieldAt tileRead.2 8 2 ≤ 64 ∧ fieldAt tileRead.2 10 2 ≤ 64 ∧ fieldAt tileRead.2 10 2 * 4 ≤ fieldAt tileRead.2 12 4
      ∧ (fieldAt tileRead.2 28 2 % 32, 4, 0) ∈ [(1, 4, 0), (2, 2, 1), (3, 2, 2)]
      ∧ reaches tileRead.1 (((List.range (fieldAt tileRead.2 8 2)).flatMap (fun i => (List.range (fieldAt tileRead.2 10 2)).map (fun j =>
          ((fieldAt tileRead.2 0 8 + i * fieldAt tileRead.2 12 4 + j * 4) % 2 ^ 64, Access.write)))) ++ [(0x300000, .write)]) = true
      ∧ reaches tileRead.1 (((List.range (fieldAt tileRead.2 8 2)).flatMap (fun i => (List.range (fieldAt tileRead.2 10 2)).map (fun j =>
          ((fieldAt tileRead.2 0 8 + i * fieldAt tileRead.2 12 4 + j * 4) % 2 ^ 64, Access.read)))) ++ [(0x300000, .read)]) = true
      ∧ 64 < fieldAt ((tiled.putNumber 0x300008 2 65).readHeader ⟨0x300000, false, false⟩).2 8 2
      ∧ 16 ≤ ({ tileRead.1 with ops := List.replicate 16 (opWith (.accClr 0 1)) } : State).arrayQueue tileRead.1.home
      ∧ tiled.crew.spadSize < 32 * 2048 + 32 ∧ headerFault (untiled.readHeader ⟨0x300000, false, false⟩).2 = some 8
      ∧ headerFault otherFormat = none ∧ fieldAt otherFormat 28 2 % 32 ∉ [1, 2, 3]
      ∧ headerFault tooNear = none ∧ fieldAt tooNear 12 4 < fieldAt tooNear 10 2 * 4 ∧ fieldAt tooNear 28 2 % 32 = 1 := by decide +kernel

/-- Counts of one input and one output, and of 64 each, with quota for them. -/
theorem test_meets_NetworksJoinTheirBatch :
    tiled.team.namesOk (Claims.netFields 32 4 2) = false ∧ tiled.team.namesOk (Claims.netFields 31 4 2) = true ∧ tiled.team.namesOk (Claims.netFields 31 4 0) = true
      ∧ unmasked.team.active = [] ∧ unmasked.team.namesOk (Claims.netFields 31 4 2) = true
      ∧ (tiled.team.belay true).active ≠ [] ∧ netCounts 0x0101 = some (1, 1) ∧ netCounts 0x4040 = some (64, 64) ∧ netCounts 0x0141 = none
      ∧ (∀ k ∈ Claims.netNames 31 4 2 1 1, k < 128) ∧ tiled.team.namesOk (Claims.netNames 31 4 2 1 1) = true
      ∧ tiled.team.namesOk (Claims.netNames 31 4 2 64 64) = false
      ∧ 128 * 1 * tiled.team.liveStrands ≤ tiled.quotaFree ∧ tiled.quotaFree < 128 * 64 * tiled.team.liveStrands
      ∧ (∀ k ∈ Claims.netNames 31 4 0 1 1, k < 128) ∧ tiled.team.namesOk (Claims.netNames 31 4 0 1 1) = true := by decide +kernel

/-- A texture descriptor at 0x300040 of one texel of format 0 at 0x300100 with one level and no latent image. -/
def textured : State :=
  withPair (((((((spread.putNumber 0x300040 8 0x300100).putNumber 0x300048 2 1).putNumber 0x30004A 2 1).putNumber 0x30004C 4 16).putNumber 0x300051 1 1).putNumber
    0x300054 2 1).putNumber 0x300056 2 1) 8 0x300040

/-- The state with every line of 0x300000 to 0x3000FF and of the texel at hand. -/
def cached : State :=
  { textured with cores := [(0, { CoreState.empty with samp := [0x6000, 0x6001, 0x6002, 0x6080].map (fun n => ⟨n, textured.lineBytes n⟩) })] }

/-- The lanes of SMP.G, and the lines that they need. -/
def smpLanes : List LaneAcc :=
  spread.lanesAt (spread.team.belay true) .read (fun l => addOffset (((spread.team.belay true).srd64 8).toNat + ((spread.team.belay true).rd 1 l).toNat) 0)
def smpNeeds : List (Nat × Nat) := Claims.lineNeeds spread (spread.team.belay true) smpLanes

/-- The state with the same lines at hand, and the one after the descriptor of the textured state has been read. -/
def spreadCached : State := { spread with cores := cached.cores }
def described (s : State) : State := ((s.withTeam (s.team.belay true)).readDescriptor ⟨0x300040, false, false⟩ 0x300040).1.touch [⟨0, 0x300040, .ok ⟨0x300040, false, false⟩⟩]
def descriptor : List Byte := ((textured.withTeam (textured.team.belay true)).readDescriptor ⟨0x300040, false, false⟩ 0x300040).2

/-- The texels of SMP in a state that has read the descriptor, and what its lanes take from the cache. -/
def texelNeeds (s : State) : List TexelNeed := (described s).texels (textureOf descriptor) (Claims.laneSamples (described s) (textureOf descriptor) false 4)
def texelsServed (s : State) : Option (List SampLine) :=
  ((described s).serveLines (Claims.texelLines (described s) (texelNeeds s)) [⟨descKey, descriptor⟩] ((described s).team.gathered.drop 1)).2

theorem test_meets_SamplerReads :
    spread.team.namesOk [31, 1] = true ∧ Claims.AllLocated 4 smpLanes
      ∧ (spread.team.belay true).gathered = [] ∧ (Claims.cachedLines spreadCached smpNeeds).isSome = true ∧ Claims.cachedLines spread smpNeeds = none
      ∧ ((spread.withTeam (spread.team.belay true)).serveLines smpNeeds [] []).2 = none
      ∧ ((spreadCached.withTeam (spread.team.belay true)).serveLines smpNeeds [] []).2.isSome = true
      ∧ Claims.SmpForm textured.team true 28 4 6 2 (.smp true 28 4 6 2) false ∧ unmasked.team.active = []
      ∧ ((textured.team.belay true).srd64 (4 * 2)).toNat = 0x300040 ∧ (textured.team.belay true).active ≠ []
      ∧ textured.translate (textured.crew.coreOf (textured.team.belay true) 0) 0x300040 .read = .ok ⟨0x300040, false, false⟩
      ∧ textureFault descriptor = none ∧ texelsServed textured = none ∧ (texelsServed cached).isSome = true
      ∧ (described cached).team.acting.all (fun l => (Claims.laneTexel (described cached) (textureOf descriptor) false 4
          ((List.zip (texelNeeds cached) (((texelsServed cached).getD []).drop 1)).map (fun x => (x.1.lane, x.2.bytesAt x.1.loc x.1.size))) l).isSome) = true
      ∧ (textureFault (((textured.putNumber 0x300048 2 0).withTeam (textured.team.belay true)).readDescriptor ⟨0x300040, false, false⟩ 0x300040).2).isSome = true
      ∧ ((({ idle with cores := [(0, { CoreState.empty with miss := [(5, 2)] })] } : State).core 0).miss.filter (fun m => m.1 == 5)).map (fun m => m.2) ≠ [] := by
  refine ⟨by decide +kernel, allLocated_sound _ _ (by decide +kernel), by decide +kernel, by decide +kernel, by decide +kernel, by decide +kernel, by decide +kernel,
    ⟨by decide +kernel, by decide +kernel⟩, by decide +kernel⟩

/-- Lanes whose identifier word is all ones, and a table at 0x300000. -/
def nowhere : State :=
  [0, 1, 2, 3].foldl (fun s l => withLane (withLane s 4 l 0xFFFFFFFF) 5 l 0xFFFFFFFF) spread

/-- Lane 0 with primitive 0 of a table of one instance at 0x300000, whose vertices lie at 0x300100. -/
def interpolated : State :=
  ((((((onTeam (withLane (withLane spread 4 0 0) 5 0 0) (fun t => { t with mask := 1 })).putNumber 0x300000 4 1).putNumber 0x300040 8 0x300100).putNumber
    0x300048 8 0x300200).putNumber 0x300050 4 16).putNumber 0x300054 4 1).putNumber 0x300058 4 4

/-- A state with the results that the team awaits written, and what the lanes of ATTRF get there. -/
def belayed (s : State) : State := s.withTeam (s.team.belay true)
def attrGot (s : State) : List (Nat × Got (List Nat)) := (belayed s).attrLanes 8 4 true

/-- Where preparing the reads once changes nothing, the whole preparation changes nothing. -/
theorem prepareAttr_fixed (s : State) (c a : Nat) (p : Bool) (h : s.prepareLoad 0 4 (s.attrReads (s.attrLanes c a p)) = s) :
    s.prepareAttr c a p = s := by
  simp only [State.prepareAttr, show List.range 5 = [0, 1, 2, 3, 4] from rfl, List.foldl_cons, List.foldl_nil, h]

theorem test_meets_AttributesInterpolate :
    nowhere.team.namesOk ((List.range 4).map (fun k => 28 + k) ++ (List.range 4).map (fun k => 4 + k)) = true
      ∧ (unmasked.team.belay true).acting = [] ∧ (nowhere.team.belay true).acting = 0 :: [1, 2, 3]
      ∧ ((nowhere.team.belay true).srd64 8).toNat % 64 = 0 ∧ (((withPair nowhere 8 32).team.belay true).srd64 8).toNat % 64 ≠ 0
      ∧ (belayed interpolated).prepareAttr 8 4 true = belayed interpolated
      ∧ (belayed (withPair interpolated 8 (2 ^ 57))).prepareAttr 8 4 true = belayed (withPair interpolated 8 (2 ^ 57))
      ∧ (attrGot nowhere).all (fun e => okE e.2.res) = true ∧ (attrGot interpolated).all (fun e => okE e.2.res) = true
      ∧ (attrGot (withPair interpolated 8 (2 ^ 57))).all (fun e => match e.2.res with | .error (va, _) => decide (2 ^ 57 ≤ va) | .ok _ => false) = true :=
  ⟨by decide +kernel, by decide +kernel, by decide +kernel, by decide +kernel, by decide +kernel, prepareAttr_fixed _ _ _ _ (by decide +kernel),
    prepareAttr_fixed _ _ _ _ (by decide +kernel), by decide +kernel, by decide +kernel, by decide +kernel⟩

/-! ### Tasks, grace periods, the system and device time -/

/-- The base state with two nodes whose bins hold four and one records: node 0 has room left for none, node 1 for three. -/
def noded : State :=
  onCtx spread (fun c => { c with nodes := [plainNode, { plainNode with recWords := 4 }], bins := [List.replicate 4 rec3, [rec3]] })

/-- The same with three lanes that name node 1 in v1, and with the fourth lane too. -/
def toNode1 : State := [0, 1, 2].foldl (fun s l => withLane s 1 l 1) (onTeam noded (fun t => { t with mask := 7 }))
def toNode1Full : State := [0, 1, 2, 3].foldl (fun s l => withLane s 1 l 1) noded

/-- What their lanes push. -/
def pushed (n : Nat) : List PushRec := List.replicate n ⟨1, [0, 0, 0, 0]⟩

theorem pushNodes_pushed (n : Nat) : ∀ m ∈ pushNodes (pushed (n + 1)), m = 1 := by
  intro m h
  have h2 : m ∈ (pushed (n + 1)).map (fun r => r.node) := by simpa [pushNodes] using h
  simpa [pushed] using h2

/-- The records of three lanes have room, those of four have not but could, and no bin of three records could hold four. -/
theorem test_meets_RecordsEnterTheirBins :
    toNode1.team.namesOk [1, 28] = true ∧ (toNode1.team.belay true).laneRecords toNode1.ctx.nodes 1 28 = some (pushed 3)
      ∧ (toNode1Full.team.belay true).laneRecords toNode1Full.ctx.nodes 1 28 = some (pushed 4) ∧ (unmasked.team.belay true).laneRecords [] 1 28 = some []
      ∧ toNode1.ctx.isCancelled toNode1.crew.job.toNat = false ∧ Claims.RoomFor toNode1.ctx (pushed 3) ∧ pushed 3 ≠ []
      ∧ Claims.NeverFits { noded.ctx with nodes := [plainNode, { plainNode with recWords := 4, cap := 3 }] } (pushed 4) ∧ Claims.CanFit noded.ctx (pushed 4)
      ∧ ({ noded.ctx with jobs := [⟨1, 0, true, true, []⟩] } : Context).isCancelled 1 = true
      ∧ Claims.NodeHas { noded.ctx with nodes := [plainNode, { plainNode with recWords := 4, cancelTrap := true }] } (pushed 4) (fun e => e.cancelTrap)
      ∧ ¬ Claims.NodeHas noded.ctx (pushed 4) (fun e => e.cancelTrap) ∧ Claims.ShortOf noded.ctx (pushed 4) 1
      ∧ (∀ n e, Claims.ShortOf noded.ctx (pushed 4) n → noded.ctx.nodes[n]? = some e → e.fullTrap = false)
      ∧ Claims.ShortOf { noded.ctx with nodes := [plainNode, { plainNode with recWords := 4, fullTrap := true }] } (pushed 4) 1
      ∧ (∀ m, m ∈ pushNodes (pushed 4) → 1 ≤ m) := by
  refine ⟨by decide +kernel, by decide +kernel, by decide +kernel, by decide +kernel, by decide +kernel, ?_, by decide,
    ⟨1, by decide, _, rfl, by decide⟩, ?_, by decide +kernel, ⟨1, by decide, _, rfl, rfl⟩, ?_, ⟨by decide, _, rfl, by decide +kernel⟩, ?_,
    ⟨by decide, _, rfl, by decide +kernel⟩, fun m h => by rw [pushNodes_pushed 3 m h]⟩
  · intro n h; rw [pushNodes_pushed 2 n h]; exact ⟨_, rfl, by decide +kernel⟩
  · intro n h; rw [pushNodes_pushed 3 n h]; exact ⟨_, rfl, by decide⟩
  · rintro ⟨n, h, e, he, hf⟩
    rw [pushNodes_pushed 3 n h] at he
    cases he; cases hf
  · rintro n e ⟨h, -⟩ he
    rw [pushNodes_pushed 3 n h] at he
    cases he; rfl

/-- A host's push of four words of job 3 to node 1. -/
def hostPush : List Byte := [1, 0, 3, 0] ++ List.replicate 28 0

theorem test_meets_HostPushes :
    Claims.PushOk noded.ctx 0 hostPush 1 3 { plainNode with recWords := 4 } ∧ (∀ node job e, ¬ Claims.PushOk noded.ctx 1 hostPush node job e)
      ∧ noded.ctx? 1 = some noded.ctx ∧ noded.ctx.state ≠ .terminated ∧ (noded.ctx.bin 1).length < 4 ∧ noded.ctx.isCancelled 3 = false
      ∧ ({ noded.ctx with jobs := [⟨3, 0, true, true, []⟩] } : Context).isCancelled 3 = true
      ∧ 4 ≤ (({ noded.ctx with bins := [[], List.replicate 4 rec3] } : Context).bin 1).length := by
  refine ⟨⟨rfl, by decide, by decide, by decide, rfl, by decide, by decide⟩, fun node job e h => absurd h.1 (by decide), by decide +kernel⟩

/-- A status word of a job lies on a mapped page, and one on a page that is not present. -/
def quiescing (qbase : Nat) : State := onCtx noded (fun c => { c with qbase := qbase, jobs := [⟨3, 0, false, false, [0, 0]⟩] })

/-- The state at time 1 with a node whose timer is one clock. -/
def timedNode : State :=
  { onCtx noded (fun c => { c with nodes := [plainNode, { plainNode with recWords := 4, timer := 1 }] }) with dev := { noded.dev with clock := 1 } }

theorem test_meets_NodesAndJobs :
    ((withScalar noded 4 1).team.belay true).srd 4 = 1 ∧ 1 < noded.ctx.nodes.length ∧ noded.ctx.nodes.length ≤ 2 ∧ noded.ctx.bin 1 ≠ [] ∧ 1 ∉ noded.ctx.drained
      ∧ (onCtx noded (fun c => { c with bins := [[], []] })).ctx.bin 1 = []
      ∧ ((withScalar noded 4 65535).team.belay true).srd 4 = 65535 ∧ ((withScalar noded 4 65536).team.belay true).srd 4 = 65536
      ∧ noded.ctx.state ≠ .none ∧ noded.ctx? 1 = some noded.ctx ∧ noded.ctx.isCancelled 65535 = false
      ∧ (onCtx noded (fun c => { c with jobs := [⟨65535, 0, true, true, []⟩] })).ctx.isCancelled 65535 = true
      ∧ timedNode.ctx? 1 = some timedNode.ctx ∧ (timedNode.ctx.bin 1).head? = some rec3 ∧ timedNode.ctx.key = 1
      ∧ Nat.max rec3.entered (timedNode.ctx.timers.getD 1 0) + 1 ≤ timedNode.dev.clock ∧ 1 ∉ timedNode.ctx.fired
      ∧ ((quiescing 0x300000).ctx.job 3).due ≠ [] ∧ ((quiescing 0x300000).writeFor (quiescing 0x300000).ctx 0x30000C [0, 0, 1, 0]).2 = true
      ∧ ((quiescing 0x40000000).writeFor (quiescing 0x40000000).ctx 0x4000000C [0, 0, 1, 0]).2 = false := by decide +kernel

/-- The state with a number of cast-off entries on die and in the spill area. -/
def castOffWith (die spilled : Nat) : State :=
  onCtx noded (fun c => { c with castOffs := List.replicate die ⟨0, 0, 0, 1, 0, none⟩ ++ List.replicate spilled ⟨0, 0, 0, 1, 0, some (0, none)⟩ })

/-- The state with a grace period open that the issuing team, which is parked on it, has passed. -/
def gracing : State :=
  onTeam (onCtx quad (fun c => { c with genClosed := 1 })) (fun t => { t with qgen := 1, state := .parked, park := .grace 0 })

theorem test_meets_GracePeriods :
    (onTeam quad (fun t => { t with nest := 254 })).team.nest < 255 ∧ (onTeam quad (fun t => { t with nest := 255 })).team.nest = 255
      ∧ (onTeam quad (fun t => { t with nest := 1 })).team.nest = 1 ∧ 1 < (onTeam quad (fun t => { t with nest := 2 })).team.nest ∧ quad.team.nest = 0
      ∧ (((withScalar noded 7 1).team.belay true).srd (6 + 1)).toNat = 1 ∧ Claims.DeferOk noded ((withPair noded 8 (2 ^ 57 - 1)).team.belay true) 8 1
      ∧ ¬ Claims.QueueFull noded ∧ noded.ctx.castOffs.countP (fun e => e.slot.isNone) < 4096
      ∧ Claims.QueueFull (castOffWith 4096 0) ∧ ¬ Claims.QueueFull (onCtx (castOffWith 4096 0) (fun c => { c with regs := FMap.set [] 8 0x400000 }))
      ∧ 4096 ≤ (onCtx (castOffWith 4096 0) (fun c => { c with regs := FMap.set [] 8 0x400000 })).ctx.castOffs.countP (fun e => e.slot.isNone)
      ∧ (∀ e, noded.ctx.nodes[0]? = some e → e.recWords < 4) ∧ (∃ e, noded.ctx.nodes[1]? = some e ∧ 4 ≤ e.recWords)
      ∧ 2 ^ 57 ≤ (((withPair noded 8 (2 ^ 57)).team.belay true).srd64 8).toNat := by
  refine ⟨by decide +kernel, by decide +kernel, by decide +kernel, by decide +kernel, by decide +kernel, by decide +kernel,
    ⟨⟨_, rfl, by decide⟩, by decide +kernel⟩, ?_, by decide +kernel, ?_, ?_, by decide +kernel, ?_, ⟨_, rfl, by decide⟩, by decide +kernel⟩
  · simp only [Claims.QueueFull]; decide +kernel
  · simp only [Claims.QueueFull]; decide +kernel
  · simp only [Claims.QueueFull]; decide +kernel
  · intro e h; cases h; decide

theorem test_meets_GraceCompletes :
    gracing.ctx? 1 = some gracing.ctx ∧ gracing.ctx.state ≠ .terminated ∧ gracing.ctx.genDone < gracing.ctx.genClosed ∧ gracing.ctx.key = 1 ∧ gracing.ctx.state ≠ .none
      ∧ (∀ x ∈ gracing.allTeams, x.ctx = gracing.ctx.key → x.state ≠ .exited →
        1 ≤ (gracing.effectiveQgen gracing.ctx x - BitVec.ofNat 32 gracing.ctx.genDone).toNat
          ∧ (gracing.effectiveQgen gracing.ctx x - BitVec.ofNat 32 gracing.ctx.genDone).toNat ≤ 2 ^ 31)
      ∧ gracing.team.ctx = 1 ∧ gracing.team.state = .parked ∧ gracing.team.park = .grace gracing.ctx.genDone := by decide +kernel

/-- The context with a register of which a core has not taken the new value. -/
def written : State := onCtx privileged (fun c => { c with oldRegs := [⟨2, 3, 5, []⟩] })

theorem test_meets_SystemRegistersAndHalts :
    privileged.ctx.privileged = true ∧ privileged.team.trap.mode = true ∧ cregOk 3 0x200000 = true ∧ cregOk 4 (2 ^ 63) = false
      ∧ privileged.ctx.oldRegs = [] ∧ written.ctx.oldRegs = [⟨2, 3, 5, []⟩] ∧ written.crew.coreOf written.team 0 ∉ ([] : List Nat)
      ∧ ([⟨5, 3, 7, []⟩, ⟨4, 3, 6, []⟩, ⟨3, 2, 8, []⟩] : List OldReg).filter (fun x => x.idx == 3 && !x.taken.contains 0) ≠ []
      ∧ (3 : BitVec 6).toNat ≠ 7 ∧ (7 : BitVec 6).toNat = 7
      ∧ quad.ctx.key = 1 ∧ quad.ctx.state ≠ .none ∧ quad.team.key = 2 ∧ quad.team.state ≠ .free ∧ quad.team.dropping = none
      ∧ (onTeam quad (fun t => { t with dropping := some 3 })).team.dropping = some 3 ∧ quad.crew? quad.team.crew = some quad.crew := by decide +kernel

/-- A release of 64 bytes that was due at time 0. -/
def release0 : Release := { time := 0, dest := 0x300100, repl := false, msg := List.replicate 64 7, edge := true, late := false }

theorem test_meets_FramesAndDeviceTime :
    (((withPair spread 10 0x300100).team.belay true).srd64 8).toNat = 0x300000 ∧ (((withPair spread 10 0x300100).team.belay true).srd64 (8 + 2)).toNat = 0x300100
      ∧ reached (spread.withTeam (spread.team.belay true)) [(0x300000, .read), (0x300100, .write)] = some [⟨0x300000, false, false⟩, ⟨0x300100, false, false⟩]
      ∧ (onCtx spread (fun c => { c with releases := List.replicate 7 release0 })).ctx.releases.length < 8
      ∧ (spread.withTeam (spread.team.belay true)).remotePending (spread.team.belay true).key = false
      ∧ 8 ≤ (onCtx spread (fun c => { c with releases := List.replicate 8 release0 })).ctx.releases.length
      ∧ (putPending.withTeam (putPending.team.belay true)).remotePending (putPending.team.belay true).key = true
      ∧ spread.ctx.ownsFsync = false ∧ (0x300020 : Nat) % 64 ≠ 0
      ∧ spread.ctx.state = .running ∧ firstRelease [release0] = some release0 ∧ release0.time ≤ spread.dev.dtime
      ∧ firstRelease [{ release0 with time := 5 }] = some { release0 with time := 5 } ∧ spread.dev.dtime < 5
      ∧ (release0.edge && spread.dev.edgeClose) = false
      ∧ ({ spread.dev with time := { spread.dev.time with fsyncRose := some 0 } } : Device).edgeClose = true
      ∧ (timed (fun t => { t with fsyncRose := some 0, fsyncOut := true }) 1000).dev.time.fsyncRose = some 0
      ∧ ({ idle with dev := { idle.dev with dtime := 1000 } } : State).dev.lastReef + 1000 ≤ 1000
      ∧ (timed (fun t => { t with disc := .locked }) 1000000000).dev.ppsDue = true
      ∧ (timed (fun t => { t with ppsOut := true }) 10000000).dev.time.ppsRose + 10000000 ≤ 10000000
      ∧ newEdge (some 0) 1000 = true ∧ newEdge (some 0) 999 = false ∧ newEdge none 0 = true := by decide +kernel

/-- A sync exchange with the source one second ahead and steady, one behind, and sixteen within 100 ns of zero. -/
theorem test_meets_SyncExchanges :
    (timed (fun t => { t with phasePps := true, disc := .acquiring }) 5).dev.time.phasePps = true
      ∧ newEdge (timed (fun t => { t with phasePps := true, disc := .acquiring }) 5).dev.time.ppsInAt 5 = true
      ∧ idle.dev.time.port = 24 ∧ idle.dev.time.domain = 0 ∧ idle.dev.time.phasePps = false
      ∧ Claims.StepsForward { idle.dev.time with offsets := List.replicate 15 1000000000 } 1000000000
      ∧ ¬ Claims.StepsForward { idle.dev.time with offsets := List.replicate 15 (-100) } (-100)
      ∧ steady (Claims.recentOffsets { idle.dev.time with offsets := List.replicate 15 (-100) } (-100)) 0 = true
      ∧ steady (Claims.recentOffsets { idle.dev.time with offsets := List.replicate 15 (-101) } (-101)) 0 = false
      ∧ (3 : Nat) ≠ idle.dev.time.port ∧ (timed (fun t => { t with disc := .locked }) 5).dev.time.lastSync < 5
      ∧ (timed (fun t => { t with disc := .locked }) 5).dev.time.disc = .locked ∧ (timed (fun t => { t with disc := .acquiring }) 5).dev.time.disc = .acquiring
      ∧ (timed (fun t => { t with disc := .holdover }) 10000000000).dev.time.heldSince + 10000000000 ≤ 10000000000 := by
  simp only [Claims.StepsForward]
  decide +kernel

/-! ### Banks, links and events -/

/-- A state with one round of a team, open, and a number of its commands given. -/
def rounded (isOpen : Bool) (given : Nat) (acked : Bool) (fails : List (Nat × Nat)) : State :=
  { withPair (withPair spread 8 0x300000) 10 0x300200 with rounds := [⟨5, 2, 1, 1, isOpen, given, acked, fails⟩] }

/-- A copy of a column to itself that unit 3 has still to serve, and a sum of two columns. -/
def bankCopy : BankCmd := { bankCmd with op := 7, cols := [⟨0x300000, 0x300000, 0x300000, 0x300000⟩] }
def bankSum : BankCmd :=
  { bankCmd with op := 4, cols := [⟨0x300000, 0x300000, 0x300000, 0x300000⟩, ⟨0x300200, 0x300200, 0x300200, 0x300200⟩], parts := List.replicate 16 0 }

theorem test_meets_BankRoundsAndCommands :
    spread.openRound 2 = none ∧ (spread.unacked 2).length < 4
      ∧ (rounded true 63 false []).openRound 2 = some ⟨5, 2, 1, 1, true, 63, false, []⟩
      ∧ (rounded true 64 false []).openRound 2 = some ⟨5, 2, 1, 1, true, 64, false, []⟩
      ∧ ((rounded true 63 false []).team.srd64 8).toNat = 0x300000 ∧ ((rounded true 63 false []).team.srd64 10).toNat = 0x300200
      ∧ reached (rounded true 63 false []) (Claims.bankXs (rounded true 63 false []).team 7 8 512 ++ Claims.bankYs (rounded true 63 false []).team 7 8 512
          ++ Claims.bankRs (rounded true 63 false []).team 7 8) = some [⟨0x300000, false, false⟩, ⟨0x300200, false, false⟩]
      ∧ (spread.bankCmds.filter (fun k => k.unit == spread.dev.unitOf 0x300000)).length < 16
      ∧ (rounded false 1 true []).unacked 2 = [] ∧ (rounded false 1 true [(0, 0x300000)]).unacked 2 = [] ∧ (rounded false 1 false []).unacked 2 ≠ []
      ∧ ((withScalar spread 6 31).team.belay true).srd 6 = 31 ∧ reached spread [(0x300000, .read)] = some [⟨0x300000, false, false⟩]
      ∧ spread.dev.unitOf 0x300000 ∈ spread.dev.bankUnits ∧ (onTeam spread (fun t => { t with closing := true })).team.closing = true ∧ spread.team.closing = false
      ∧ idle.bankChoices 3 = [] ∧ bankCmd.queued + 40000 ≤ 40000
      ∧ ((rounded false 1 false []).rounds.find? (fun k => k.team == 2 && (rounded false 1 false []).ackable k)).isSome = true := by decide +kernel

/-- The last column of a copy and the first of a sum, at the bank of their columns, and a sum that its banks have served. -/
theorem test_meets_BankColumns :
    ({ idle with bankCmds := [bankCopy] } : State).bankChoices 3 = [(bankCopy, some ⟨0x300000, 0x300000, 0x300000, 0x300000⟩)]
      ∧ ({ idle with bankCmds := [bankSum] } : State).bankChoices 3 = [(bankSum, some ⟨0x300000, 0x300000, 0x300000, 0x300000⟩)]
      ∧ ({ idle with bankCmds := [{ bankSum with cols := [] }] } : State).bankChoices 3 = [({ bankSum with cols := [] }, none)]
      ∧ bankCopy.cols.erase ⟨0x300000, 0x300000, 0x300000, 0x300000⟩ = [] ∧ bankCopy.reduces = false ∧ bankSum.reduces = true
      ∧ bankSum.cols.erase ⟨0x300000, 0x300000, 0x300000, 0x300000⟩ ≠ [] ∧ bankCopy.unit = 3
      ∧ ({ idle with bankOld := [(0x300000, ⟨0, 4, 5⟩)] } : State).bankOld ≠ [] := by decide +kernel

theorem test_meets_BankOk :
    Claims.BankOk spread.dev 7 512 0x300000 (some 0x300200) none ⟨0x300000, false, false⟩ ⟨0x300200, false, false⟩ ⟨0x300200, false, false⟩ := by
  refine ⟨by decide, by decide, by decide, by decide, by decide, rfl, by decide, by decide +kernel, ?_, by simp⟩
  intro v hv
  cases hv
  decide +kernel

/-- A context with a window of 64 KiB on this device itself, one of device 9, which is directly linked at port 2, and a grant of 16 semaphores on
each die. -/
def linked : State :=
  let s := onCtx spread (fun c => { c with windows := [⟨63, 0, 0x310000, 65536, true, true⟩, ⟨2, 9, 0, 65536, true, true⟩], grants := [(16, 16), (0, 16)] })
  { s with dev := { s.dev with routes := [(9, 2, true)] } }

/-- The operands of an operation of one unit at the end of a window. -/
def lastUnit (win dev : Nat) : RemoteArgs := { noUnits with units := [⟨0x300000, false, false⟩], todo := [0], win := win, off := 65520, dev := dev, flag := 65532 }

/-- The linked state with an operation of its team. -/
def remoting (kind : Nat) (a : RemoteArgs) : State := { linked with ops := [opWith (.remote kind a)] }

/-- On this device itself, and to another device where its window is usable there, which is open (log entry 70). -/
theorem remoting_ready (kind : Nat) (h : kind = 0 ∨ kind = 1 ∨ kind = 2) :
    Claims.RemoteReady (remoting kind (lastUnit 63 0)) 20 kind (opWith (.remote kind (lastUnit 63 0))) (lastUnit 63 0) ⟨63, 0, 0x310000, 65536, true, true⟩
      ∧ ((remoting kind (lastUnit 2 9)).free 7 20 = false →
        Claims.RemoteReady (remoting kind (lastUnit 2 9)) 20 kind (opWith (.remote kind (lastUnit 2 9))) (lastUnit 2 9) ⟨2, 9, 0, 65536, true, true⟩) := by
  obtain rfl | rfl | rfl := h <;>
    exact ⟨⟨by decide +kernel, rfl, rfl, by decide +kernel, by decide +kernel⟩, fun hf => ⟨by decide +kernel, rfl, rfl,
      by unfold State.windowFor; rw [show (opWith (.remote _ (lastUnit 2 9))).id = 20 from rfl, hf]; decide +kernel, by decide +kernel⟩⟩

theorem test_meets_RemoteCopies :
    (linked.team.belay true).active ≠ [] ∧ unmasked.team.active = []
      ∧ reaches (linked.withTeam (linked.team.belay true)) ((List.range (32 / 16)).map (fun k => ((0x300000 + 16 * k) % 2 ^ 64, Access.read))) = true
      ∧ ((withScalar linked 6 0x100F).team.belay true).srd 6 = 0x100F
      ∧ (linked.semaphores.get (1 * 4096 + 15) - (0 : Word)).toNat < 2 ^ 31 ∧ 2 ^ 31 ≤ (linked.semaphores.get (1 * 4096 + 15) - (1 : Word)).toNat
      ∧ 8192 ≤ (0x2000 : Word).toNat ∧ (0x1010 : Nat) < 8192
      ∧ (lastUnit 63 0).dev = linked.dev.devid.toNat ∧ (lastUnit 2 9).dev ≠ linked.dev.devid.toNat
      ∧ (remoting 1 (lastUnit 63 0)).op? 20 = some (opWith (.remote 1 (lastUnit 63 0))) ∧ (lastUnit 2 9).todo = [0]
      ∧ (∀ u ∈ (lastUnit 2 9).todo, 16 * u + 16 ≤ (List.replicate 16 (7 : Byte)).length)
      ∧ (remoting 0 (lastUnit 5 9)).windowFor (opWith (.remote 0 (lastUnit 5 9))) 0 (lastUnit 5 9) = none
      ∧ (remoting 0 (lastUnit 5 9)).remoteHeld (opWith (.remote 0 (lastUnit 5 9))) (lastUnit 5 9) = false
      ∧ linked.ctx? 1 = some linked.ctx ∧ linked.translateFor linked.ctx 0 0x300000 .write = .ok ⟨0x300000, false, false⟩
      ∧ linked.translateFor linked.ctx 0 0x300000 .atomic = .ok ⟨0x300000, false, false⟩ := by decide +kernel

/-- The window of this device. -/
def ownWindow : Window := ⟨63, 0, 0x310000, 65536, true, true⟩

/-- Each unit can be performed, on this device and as one of another, and the flag of the PSIG then lies in the window. -/
theorem test_meets_RemoteUnits :
    (∃ t, Claims.UnitsDone (fun v u m => ∃ l d, Claims.UnitPut v (opWith (.remote 0 (lastUnit 63 0))) (lastUnit 63 0) ownWindow u l d m) [0]
        (remoting 0 (lastUnit 63 0)) t)
      ∧ (∃ t f, Claims.UnitsDone (fun v u m => ∃ l d, Claims.UnitPut v (opWith (.remote 2 (lastUnit 63 0))) (lastUnit 63 0) ownWindow u l d m) [0]
          (remoting 2 (lastUnit 63 0)) t ∧ t.ownUnit (opWith (.remote 2 (lastUnit 63 0))) ownWindow .atomic 65532 = some f)
      ∧ (∃ t, Claims.UnitsDone (fun v u m => ∃ l d, Claims.UnitPut v (opWith (.remote 0 (lastUnit 2 9))) (lastUnit 2 9) ⟨2, 9, 0, 65536, true, true⟩ u l d m) [0]
          (remoting 0 (lastUnit 2 9)) t)
      ∧ (∃ t, Claims.UnitsDone (fun v u m => ∃ l d, Claims.UnitGot v (opWith (.remote 1 (lastUnit 63 0))) (lastUnit 63 0) ownWindow [] u l d m) [0]
          (remoting 1 (lastUnit 63 0)) t) := by
  refine ⟨⟨_, _, ⟨⟨0x300000, false, false⟩, ⟨0x31FFF0, false, false⟩, _, _, _, rfl, rfl, rfl, rfl, fun _ => ⟨by decide +kernel, rfl⟩, fun h => absurd rfl h⟩, rfl⟩,
    ⟨_, ⟨0x31FFFC, false, false⟩, ⟨_, ⟨⟨0x300000, false, false⟩, ⟨0x31FFF0, false, false⟩, _, _, _, rfl, rfl, rfl, rfl, fun _ => ⟨by decide +kernel, rfl⟩,
      fun h => absurd rfl h⟩, rfl⟩, by decide +kernel⟩,
    ⟨_, _, ⟨⟨0x300000, false, false⟩, ⟨0, false, false⟩, _, _, _, rfl, rfl, rfl, rfl, fun h => absurd h (by decide +kernel), fun _ => rfl⟩, rfl⟩,
    ⟨_, _, ⟨⟨0x300000, false, false⟩, ⟨0x31FFF0, false, false⟩, _, rfl, fun _ => ⟨by decide +kernel, rfl, rfl⟩, fun h => absurd rfl h⟩, rfl⟩⟩

theorem test_meets_RemoteOk :
    Claims.RemoteOk linked.ctx 2 0x300000 65504 32 63 0 65532 ∧ Claims.SemaphoreOk linked.ctx 0x100F ∧ Claims.SemaphoreOk linked.ctx 16
      ∧ ¬ Claims.SemaphoreOk linked.ctx 0x1010 := by
  refine ⟨⟨by decide, by decide, by decide, by decide, ⟨63, 0, 0x310000, 65536, true, true⟩, by decide +kernel, by decide, by decide, by decide⟩,
    ⟨by decide +kernel, by decide +kernel, by decide +kernel⟩, ⟨by decide +kernel, by decide +kernel, by decide +kernel⟩, fun h => ?_⟩
  exact absurd h.2.2 (by decide +kernel)

/-- A ring descriptor at 0x300000 of one chunk of 4 KiB at 0x320000 to 0x330000, with a table of devices 0 and 9 at 0x300080. -/
def ringed : State :=
  ((((((((((linked.putNumber 0x300000 8 0x320000).putNumber 0x300008 8 0x330000).putNumber 0x300010 4 4096).putNumber 0x300014 4 1).putNumber
    0x300018 8 0x300080).putNumber 0x300020 2 16).putNumber 0x300022 1 0).putNumber 0x300023 1 2).putNumber 0x300080 4 2).putNumber 0x300084 4 0).putNumber
    0x300088 4 9

/-- The operands of the ring operation that `ringed` describes. -/
def ringArgs : RingArgs := ⟨0x320000, 0x330000, 4096, 1, 2, 0, 9, 9, 16, 0, false, false, 2, 0⟩

/-- The state with the ring operation under way: what has gone out, and what has been joined. -/
def ringing (done sent : List Nat) (joined : List (Nat × Nat × List Byte)) : State := { linked with ops := [opWith (.ring ringArgs done sent joined)] }

theorem test_meets_RemoteRings :
    ((ringed.team.belay true).srd64 8).toNat = 0x300000 ∧ reached (ringed.withTeam (ringed.team.belay true)) [(0x300000, .read)] = some [⟨0x300000, false, false⟩]
      ∧ ringFault (ringed.engineBytes ringed.home ⟨0x300000, false, false⟩ 64) = none
      ∧ ringFaultTail (ringed.engineBytes ringed.home ⟨0x300000, false, false⟩ 64) = none
      ∧ fieldAt (ringed.engineBytes ringed.home ⟨0x300000, false, false⟩ 64) 24 8 = 0x300080
      ∧ reached ringed (rangeAccesses 0x300080 12 true false) = some [⟨0x300080, false, false⟩] ∧ (ringed.tableWords [⟨0x300080, false, false⟩] 0x300080 3) = [2, 0, 9]
      ∧ tableFault 2 [0, 9] ringed.dev.devid.toNat = none ∧ semaphoresGranted (16, 16) 16 1 = true ∧ (ringed.ctx.window? 2).isSome = true
      ∧ reached ringed (rangeAccesses 0x320000 4096 true false ++ rangeAccesses 0x330000 4096 false true) = some [⟨0x320000, false, false⟩, ⟨0x330000, false, false⟩]
      ∧ ringed.ringOps 0 < 64 ∧ 64 ≤ ({ ringed with ops := List.replicate 64 (opWith (.ring ringArgs [] [] [])) } : State).ringOps 0 ∧ ringed.ctx.ringWindow ringArgs = true ∧ [0, 9].findIdx (fun k => k == ringed.dev.devid.toNat) = ringArgs.pos
      ∧ (ringing [] [0] []).expects 20 0 ringArgs.pos = true ∧ (ringing [] [0] []).expects 20 1 ringArgs.pos = false
      ∧ (ringing [] [0] [(0, ringArgs.pos, [])]).op? 20 = some (opWith (.ring ringArgs [] [0] [(0, ringArgs.pos, [])]))
      ∧ ringArgs.passed [0] [(0, ringArgs.pos, [])] 0 = true ∧ ringArgs.passed [0] [] 0 = false
      ∧ (ringing [] [0] [(0, ringArgs.pos, [])]).addsSemaphores (opWith (.ring ringArgs [] [0] [(0, ringArgs.pos, [])])) = true
      ∧ 0 < ringArgs.started [] ∧ (∀ k < ringArgs.nchunk, k ∈ [0]) := by decide +kernel

/-- The tiled state with one operation of its team. -/
def engaged (w : OpWork) : State := { tiled with ops := [opWith w] }

/-- The operands of an MMA of the tiled state's record, and that record. -/
def tiledMma : MmaArgs := ⟨false, 0, 0, 0, false, true, 0, 0x400⟩
def tiledBlock : FmtBlock := ⟨0, 0, 0, 0, 0, 0, 1, 1, 0, 0, 0, 0, 0, 0, 0, []⟩

/-- A lane of an LDA that has not landed. -/
def ldaLane (val : Option (BitVec 64)) : LdaLane := ⟨3, ⟨0x300000, false, false⟩, 2, false, false, 3, val⟩

theorem test_meets_EngineEvents :
    (engaged .nothing).op? 20 = some (opWith .nothing) ∧ (opWith .nothing).id = 20 ∧ (opWith .nothing).done = false ∧ tiled.crew? 1 = some tiled.crew
      ∧ tiled.team? 2 = some tiled.team ∧ tiled.ctx? 1 = some tiled.ctx ∧ tiled.ctx.state = .running
      ∧ ((engaged .nothing).someUnits (opWith .nothing) [⟨⟨0x300000, false, false⟩, 0x1000⟩]).2 = []
      ∧ ((engaged .nothing).someUnits (opWith .nothing) []).2 = [] ∧ (opWith .nothing).batch = 0
      ∧ (engaged (.follow tiledMma)).arrayQueue 0 < 16 ∧ okE ((engaged (.follow tiledMma)).readBlock tiled.crew ⟨0, .array, 0⟩ tiledMma) = true
      ∧ okE (({ unpaired with ops := [opWith (.follow tiledMma)] } : State).readBlock unpaired.crew ⟨0, .array, 0⟩ tiledMma) = false
      ∧ [ldaLane none].find? (fun x => x.lane == 3) = some (ldaLane none) ∧ [ldaLane (some 9)].find? (fun x => x.lane == 3) = some (ldaLane (some 9))
      ∧ (engaged (.accClr 0 1)).accTurn (opWith (.accClr 0 1)) = true
      ∧ (engaged (.accClr 0 1)).accNow (opWith (.accClr 0 1)) 1 = 1
      ∧ ({ tiled with ops := [opWith (.mma tiledMma tiledBlock 0 0 [] none), { opWith (.accClr 0 1) with id := 21, stamp := 1 }] } : State).accTurn
          { opWith (.accClr 0 1) with id := 21, stamp := 1 } = false
      ∧ (engaged .nothing).arrayReady 0 = [] ∧ (engaged (.net [] [] [3] none)).arrayReady 0 = [opWith (.net [] [] [3] none)]
      ∧ (engaged (.mma tiledMma tiledBlock 0 0 [] none)).arrayReady 0 = [opWith (.mma tiledMma tiledBlock 0 0 [] none)] := by decide +kernel

/-- An outstanding register write whose value is read, and one of a load that may read it later. -/
def returning (src : Option LoadSrc) : RegWrite := ⟨true, 3, 9, true, 0, src⟩

theorem test_meets_MemoryPathEvents :
    (gatedWith (fun t => { t with unchecked := [returning none] })).team.unchecked[0]? = some (returning none)
      ∧ (gatedWith (fun t => { t with unchecked := [returning (some ⟨0, ⟨0x300000, false, false⟩, 0, false, 4, 2, false⟩)] })).team.unchecked[0]?
          = some (returning (some ⟨0, ⟨0x300000, false, false⟩, 0, false, 4, 2, false⟩)) ∧ base.team.state ≠ .free
      ∧ (gatedWith (fun t => { t with state := .parked, park := .waitv ⟨0x80, false, false⟩ 1 false true })).team.park = .waitv ⟨0x80, false, false⟩ 1 false true
      ∧ (gatedWith (fun t => { t with state := .parked })).onCores 1 = true ∧ base.crew.live = true ∧ base.team.crew = base.crew.key
      ∧ base.crew.coreOf base.team 0 = 0 ∧ base.watchedWord 0 2 ⟨0x80, false, false⟩ ≠ 1 ∧ base.watchedWord 0 2 ⟨0x80, false, false⟩ = 0
      ∧ base.ringPassed 0 16 0 = true
      ∧ (gatedWith (fun t => { t with state := .parked, park := .memFault [] })).team.park = .memFault []
      ∧ base.ctx? 1 = some base.ctx ∧ inWindow (base.ctx.regs.get 0).toNat (base.ctx.regs.get 1).toNat 0x300000 = false
      ∧ base.walk base.ctx (dieOf 0) 0x300000 = .ok (0x1F, 2 ^ 30)
      ∧ ({ idle with cores := [(0, { CoreState.empty with gated := false })] } : State).gateable 0 = true ∧ base.gateable 0 = false ∧ (gatedWith (fun t => { t with dropping := some 2 })).team.dropping = some 2
      ∧ [(7 : Byte)].zipIdx.mapM (fun x => (base.hostLoc base.ctx (0x300000 + x.2)).map (fun l => (l, x.1))) = some [(⟨0x300000, false, false⟩, 7)]
      ∧ base.hostLoc base.ctx (0x40000000 + 0) = none := by decide +kernel

/-- A running context with a node and one record of it, its job's mark given. -/
def launchable (n : Node) (cancelled : Bool) : State :=
  onCtx hosted (fun c => { c with loaded := true, nodes := [n], bins := [[rec3]], coreSets := [[0]], served := [[0]], jobs := if cancelled then [⟨3, 0, true, true, []⟩] else [] })

/-- The plans of a node without an operation, of one with an operation that the rig does not have, and of a record of a cancelled job. -/
theorem test_meets_LaunchesAndEnds :
    ((launchable plainNode false).ctx? 1).isSome = true ∧ ((launchable plainNode false).ctx.bin 0).head? = some rec3
      ∧ (match (launchable plainNode false).launchChoice 0 with
         | some (1, 0, .launch _ _ core _) => core == 0
         | _ => false) = true
      ∧ (launchable { plainNode with op := 7 } false).launchChoice 0 = some (1, 0, .noMethod)
      ∧ (launchable plainNode true).launchChoice 0 = some (1, 0, .drop 3)
      ∧ (gatedWith (fun t => { t with state := .exited })).crewDone base.crew = true ∧ base.crew? 1 = some base.crew ∧ base.ctx? base.crew.ctx = some base.ctx
      ∧ base.ctx.state = .running
      ∧ ((gatedWith (fun t => { t with state := .parked, park := .barrier 0 })).firstWaiting 1).isSome = true
      ∧ base.crew.wdPeriod ≤ ({ base.crew with wdCount := 16777216 } : Crew).wdCount
      ∧ (onCtx hosted (fun c => { c with state := .terminated, termRecord := some [7] })).ctx.termRecord = some [7] ∧ idle.stillDraining 1 = false
      ∧ (onCtx hosted (fun c => { c with state := .terminated, qbase := 0x300000, regs := FMap.set [] 1 0x1000000 })).drainGone.firstBad
          (onCtx hosted (fun c => { c with state := .terminated, qbase := 0x300000, regs := FMap.set [] 1 0x1000000 })).ctx 0x300000 4 .write = none
      ∧ (onCtx quad (fun c => { c with regs := FMap.set [] 4 1 })).ctx.wdogLimit ≠ 0
      ∧ (onCtx quad (fun c => { c with regs := FMap.set [] 4 1 })).ctx.wdogLimit ≤ 65536 ∧ quad.team.state = .running ∧ quad.ctx.state = .running
      ∧ (onTeam quad (fun t => { t with wdogDue := some (1, 0) })).team.wdogDue.isSome = true
      ∧ base.team.state = .ready ∧ 2048 ≤ ({ base.team with slotWait := [(3, 2048)] } : Team).waited 3 ∧ 3 ∉ base.team.aged
      ∧ ({ idle with dev := { idle.dev with dtime := 1000 } } : State).dev.lastTrim + 1000 ≤ 1000 ∧ idle.dev.dtime < idle.dev.lastTrim + 1000 := by decide +kernel

/-- A descriptor of context 5: root 0x1000, save area and spill 0x10000, QBASE 0x2000, REEF floor 0 and cap 3. -/
def descriptor5 : List Byte :=
  leBytes 8 0x1000 ++ leBytes 8 0x10000 ++ leBytes 8 0x20000 ++ leBytes 8 0x2000 ++ leBytes 8 0 ++ [12, 1] ++ leBytes 2 5 ++ leBytes 20 0

/-- An image of one node: 1 team of 1 strand, 64 registers, count 1, capacity 4, records of one word. -/
def image1 : List Byte :=
  leBytes 4 0x26040D1A ++ leBytes 2 1 ++ leBytes 2 1 ++ leBytes 8 0 ++ (List.range 3).flatMap (fun _ => leBytes 8 0 ++ leBytes 8 2)
    ++ leBytes 4 128 ++ leBytes 60 0
    ++ (leBytes 8 0x100 ++ leBytes 2 1 ++ leBytes 2 1 ++ leBytes 4 0 ++ [8, 1, 1, 2] ++ leBytes 4 4 ++ leBytes 4 1 ++ leBytes 4 2 ++ leBytes 11 0 ++ [24]
      ++ leBytes 20 0)

theorem test_meets_ContextsComeAndGo :
    idle.dev.stage = 7 ∧ idle.ctx? 5 = none ∧ idle.descriptorOk 5 descriptor5 [] [0, 1] = true ∧ idle.descriptorOk 6 descriptor5 [] [0, 1] = false
      ∧ (hosted.ctx? 1) = some hosted.ctx
      ∧ hosted.ctx.loaded = false ∧ hosted.ctx.state = .running ∧ imageOk image1 = true ∧ basesOk image1 [0x10000, 0x20000, 0x30000, 0x1000, 0x40] = true
      ∧ [imageNode image1 0x10000 0].all Node.ok = true ∧ nodeCores hosted.ctx [] 0 ≠ []
      ∧ hosted.anyBusy hosted.ctx = false ∧ 536870908 + 4 ≤ 2 ^ 29 ∧ noded.anyBusy noded.ctx = true
      ∧ hosted.ctx.preemptAsked = false ∧ (onCtx hosted (fun c => { c with preemptAsked := true })).ctx.preemptAsked = true
      ∧ (onCtx hosted (fun c => { c with state := .halted })).unsettled 1 = false
      ∧ (withOp (.remote 0 noUnits)).unsettled 1 = true ∧ (onCtx hosted (fun c => { c with state := .saved })).ctx.state = .saved
      ∧ (hosted.placeCrews hosted.ctx (fun _ => []) []).isSome = true
      ∧ (onCtx hosted (fun c => { c with state := .terminated })).ctx.termRecord = none := by decide +kernel

/-- A package whose kernel image in SPI NOR failed to verify once, one whose first stage failed twice, one whose kernel did, and one whose
training failed. -/
theorem test_meets_LinksPowerAndBoot :
    (63 : Nat) < 64 ∧ 4194303 < 2 ^ 22 ∧ 2 ^ 40 % 65536 = 0 ∧ (0 : Nat) ∈ idle.dev.linksPresent
      ∧ ({ idle.dev with routes := [(9, 0, true)] } : Device).portTo 9 = some 0 ∧ idle.dev.portTo 9 = none ∧ 9 ≠ idle.dev.devid.toNat
      ∧ idle.dev.injections.length < 16 ∧ 5 ∉ idle.dev.injections ∧ idle.dev.inMemory (32 * 5) = true
      ∧ (List.replicate 64 (1 : Byte)).length = 64 ∧ ({ idle.dev with dtime := 1000 } : Device).lastPower + 1000 ≤ 1000 ∧ idle.dev.dtime < idle.dev.lastPower + 1000
      ∧ ([5, 0, 0, 5, 0] : List Nat).getD 1 0 = 0 ∧ ([5, 0, 0, 5, 0] : List Nat).getD 2 0 = 0 ∧ ([5, 0, 0, 5, 0] : List Nat).getD 4 0 = 0
      ∧ ([5, 2, 0, 0, 0] : List Nat).getD 0 0 ≠ 0 ∧ ([5, 2, 0, 0, 0] : List Nat).getD 1 0 ≠ 0
      ∧ ([0, 0, 1, 2, 0] : List Nat).getD 2 0 ≠ 0 ∧ ([0, 0, 1, 2, 0] : List Nat).getD 3 0 ≠ 0 ∧ ([0, 0, 0, 0, 4] : List Nat).getD 4 0 ≠ 0 := by decide +kernel

theorem test_meets_NonStoringKeepEveryByte :
    Claims.storesNothing (.add false 3 1 2) = true ∧ (match exec (.add false 3 1 2) quad with
      | .next _ => true
      | _ => false) = true := by decide +kernel

/-! ## Single steps: results worked by hand from the rules -/

/-- The state with v1 and v2 of lane 0 given. -/
def two (x y : Nat) : State := withLane (withLane quad 1 0 x) 2 0 y

/-- v3 of lane 0 after an instruction on v1 and v2. -/
def res (i : Instr) (x y : Nat) : Nat := laneOf (ran i (two x y)) 3 0

/-- Wraps, signs, the upper half of a product, and shifts of 32 or more (R95, R96). -/
theorem test_integer :
    res (.add false 3 1 2) 0xFFFFFFFF 7 = 6 ∧ res (.sub false 3 1 2) 3 5 = 0xFFFFFFFE ∧ res (.mul false 3 1 2) 0x10001 0x10001 = 0x20001
      ∧ res (.mulhi false 3 1 2) 0x80000000 0x80000000 = 0x40000000 ∧ res (.mulhi false 3 1 2) 0xFFFFFFFF 1 = 0xFFFFFFFF
      ∧ res (.mulhu false 3 1 2) 0xFFFFFFFF 0xFFFFFFFF = 0xFFFFFFFE ∧ res (.min false 3 1 2) 0x80000000 1 = 0x80000000
      ∧ res (.max false 3 1 2) 0x80000000 1 = 1 ∧ res (.minu false 3 1 2) 0x80000000 1 = 1 ∧ res (.maxu false 3 1 2) 0x80000000 1 = 0x80000000
      ∧ res (.andn false 3 1 2) 0xFF 0x0F = 0xF0 ∧ res (.shl false 3 1 2) 1 31 = 0x80000000 ∧ res (.shl false 3 1 2) 1 32 = 0
      ∧ res (.shl false 3 1 2) 1 256 = 1 ∧ res (.shr false 3 1 2) 0x80000000 31 = 1 ∧ res (.sar false 3 1 2) 0x80000000 255 = 0xFFFFFFFF
      ∧ res (.popc false 3 1) 0xF0F0 0 = 8 ∧ res (.clz false 3 1) 0 0 = 32 ∧ res (.clz false 3 1) 1 0 = 31 := by decide +kernel

/-- The third source of IMAD is the destination as it was (R92, R95). -/
theorem test_imad : laneOf (ran (.imad false 3 1 2) (withLane (two 6 7) 3 0 100)) 3 0 = 142 := by decide +kernel

/-- The carry of a pair goes into its odd register (R97). -/
theorem test_add64 :
    ((ran (.add64 false 4 2 2) (withLane (withLane quad 2 0 0x80000000) 3 0 1)).team.rd64 4 0).toNat = 0x300000000 := by decide +kernel

/-- An immediate is sign-extended, and a shift kind takes its count as it stands (R74, R98). -/
theorem test_immediates :
    res (.addi false 3 1 0x7FF) 5 0 = 4 ∧ res (.andi false 3 1 0x7FE) 0xFFFF0003 0 = 0xFFFF0002 ∧ res (.xori false 3 1 0x400) 0 0 = 0xFFFFFC00
      ∧ res (.sari false 3 1 31) 0x80000000 0 = 0xFFFFFFFF ∧ res (.movi false 3 0x20000) 0 0 = 0xFFFE0000
      ∧ res (.movx false 3 0xDEADBEEF) 0 0 = 0xDEADBEEF := by decide +kernel

/-- Only active lanes are written; an instruction with an empty mask changes no register (R39, R53). -/
theorem test_mask :
    laneOf (ran (.movi false 3 9) quad) 3 3 = 9 ∧ laneOf (ran (.movi false 3 9) quad) 3 4 = 0 ∧ (ran (.movi false 3 9) unmasked).team.lanes = unmasked.team.lanes
      ∧ (ran (.movi false 3 9) unmasked).team.pc = 0x100004 := by decide +kernel

/-- A register outside the allocation of 32 is cause 0x01, with the word as TRAPINFO and TRAPPC at the instruction (R56, R325). -/
theorem test_outside :
    (ran (.movi false 32 0) handled).team.trap.cause = 1 ∧ (ran (.movi false 32 0) handled).team.pc = 0x200040
      ∧ (ran (.movi false 32 0) handled).team.trap.pc = 0x100000 ∧ (ran (.movi false 32 0) handled).team.trap.info = 0x10800000 := by decide +kernel

/-- Rounding to nearest even, signed zeros, infinities and the canonical NaN of an invalid operation (R100, R101). -/
theorem test_float :
    res (.fadd false 3 1 2) 0x3F800000 0x40000000 = 0x40400000 ∧ res (.fadd false 3 1 2) 0x4B800000 0x3F800000 = 0x4B800000
      ∧ res (.fsub false 3 1 2) 0x3F800000 0x3F800000 = 0 ∧ res (.fmul false 3 1 2) 0x7F7FFFFF 0x40000000 = 0x7F800000
      ∧ res (.fsub false 3 1 2) 0x7F800000 0x7F800000 = 0x7FC00000 ∧ res (.fabs false 3 1) 0xFFC00001 0 = 0x7FC00001
      ∧ res (.fneg false 3 1) 0 0 = 0x80000000 ∧ res (.fdiv false 3 1 2) 0x3F800000 0x40400000 = 0x3EAAAAAB
      ∧ laneOf (ran (.ffma false 3 1 2) (withLane (two 0x40000000 0x40400000) 3 0 0x3F800000)) 3 0 = 0x40E00000 := by decide +kernel

/-- Special functions of arguments whose results are exact (R105, R106). -/
theorem test_special_functions :
    res (.rcp false 3 1) 0x40000000 0 = 0x3F000000 ∧ res (.rsq false 3 1) 0x40800000 0 = 0x3F000000 ∧ res (.sqrt false 3 1) 0x41100000 0 = 0x40400000
      ∧ res (.ex2 false 3 1) 0x40400000 0 = 0x41000000 ∧ res (.lg2 false 3 1) 0x41000000 0 = 0x40400000 ∧ res (.sin false 3 1) 0 0 = 0
      ∧ res (.cos false 3 1) 0 0 = 0x3F800000 := by decide +kernel

/-- Packed halves, each rounded by itself (R104). -/
theorem test_packed :
    res (.padd false false 3 1 2) 0x3C004000 0x3C003C00 = 0x40004200 ∧ res (.pmul false true 3 1 2) 0x40003F80 0x40403F80 = 0x40C03F80 := by decide +kernel

/-- Conversions: a signed integer, a half, truncation, and saturation (R107, R108). -/
theorem test_cvt :
    res (.cvt false 10 3 1 0 false 6) 0xFFFFFFFF 0 = 0xBF800000 ∧ res (.cvt false 8 3 1 0 false 10) 0x3FC00000 0 = 0x3E00
      ∧ res (.cvt false 6 3 1 1 false 10) 0xBFC00000 0 = 0xFFFFFFFF ∧ res (.cvt false 4 3 1 1 true 10) 0x43960000 0 = 127 := by decide +kernel

/-- A compare writes the active bits of its predicate (R99, R103); a NaN is unordered. -/
theorem test_compare :
    ((ran (.cmp false 2 1 1 2) (two 0xFFFFFFFF 1)).team.preds.get 1).getLsbD 0 = true ∧ ((ran (.cmp false 6 1 1 2) (two 0xFFFFFFFF 1)).team.preds.get 1).getLsbD 0 = false
      ∧ ((ran (.fcmp false 6 2 1 2) (two 0x7FC00000 0)).team.preds.get 2).getLsbD 0 = true
      ∧ ((ran (.pnot false 3 0) quad).team.preds.get 3) = 0 ∧ ((ran (.por false 3 0 1) quad).team.preds.get 3) = 0xF := by decide +kernel

/-- Movement between lanes, with sources that are not active, and sums over the active lanes (R109 to R112). -/
theorem test_across :
    laneOf (ran (.shfldn false 3 1 4) (withLane quad 1 5 77)) 3 1 = 77 ∧ laneOf (ran (.shflup false 3 1 1) (withLane quad 1 0 9)) 3 0 = 9
      ∧ laneOf (ran (.shflx false 3 1 1) (withLane quad 1 2 8)) 3 3 = 8 ∧ laneOf (ran (.reda false 3 1 0) (withLane (withLane quad 1 2 8) 1 4 100)) 3 0 = 8
      ∧ laneOf (ran (.scana false 3 1 0 true) (withLane (withLane quad 1 0 5) 1 1 6)) 3 2 = 11
      ∧ scalarOf (ran (.bcast false 7 1 2) (withLane quad 1 0 42)) 7 = 42
      ∧ scalarOf (ran (.vall false 5 1) (onTeam quad (fun t => { t with preds := FMap.set [] 1 0xF }))) 5 = 1
      ∧ scalarOf (ran (.ballot false 5 1 0) (onTeam quad (fun t => { t with preds := FMap.set [] 1 0xF5 }))) 5 = 5 := by decide +kernel

/-- Carry and overflow of a scalar sum, no borrow of a difference, and a pair (R115). -/
theorem test_scalar :
    (ran (.sadd false 3 1 2) (withScalar (withScalar quad 1 0xFFFFFFFF) 2 1)).team.flags = ⟨true, false, true, false⟩
      ∧ (ran (.sadd false 3 1 2) (withScalar (withScalar quad 1 0x7FFFFFFF) 2 1)).team.flags = ⟨false, true, false, true⟩
      ∧ (ran (.scmp false 1 2) (withScalar (withScalar quad 1 3) 2 5)).team.flags = ⟨false, true, false, false⟩
      ∧ ((ran (.sadd64 false 4 2 2) (withPair quad 2 0x80000000)).team.srd64 4).toNat = 0x100000000
      ∧ scalarOf (ran (.ssari false 3 1 4) (withScalar quad 1 0x80000000)) 3 = 0xF8000000 := by decide +kernel

/-- A backward branch counts from its own address; a call records the address after it (R12, R119). -/
theorem test_control :
    (ran (.bra false 14 (BitVec.ofInt 21 (-3))) quad).team.pc = 0xFFFF4
      ∧ (ran (.call false 14 2) quad).team.cstack = [⟨0x100004, 0, false⟩] ∧ (ran (.call false 14 2) quad).team.pc = 0x100008
      ∧ (ran (.jmpi false 8) (withPair quad 8 0x12340)).team.pc = 0x12340 ∧ (ran (.callx false 2) targets).team.mask = 0xA
      ∧ (ran (.callx false 2) targets).team.pc = 0x100 := by decide +kernel

/-- An IF with no lane, its ELSE and its ENDIF (R44). -/
theorem test_divergence :
    (ran (.ifMask false 1) quad).team.mask = 0 ∧ (ran (.elseMask false) (ran (.ifMask false 1) quad)).team.mask = 0xF
      ∧ (ran (.endIf false) (ran (.ifMask false 1) quad)).team.mask = 0xF ∧ (ran (.endLoop false) (ran (.loop false) quad)).team.pc = 0x100004 := by decide +kernel

/-- A store waits in its core's buffer, where the core's next load finds it; the load is unchecked until a belay bit (R51, R243). -/
theorem test_memory :
    ((ran (.st false 0 2 3 1 4) (withLane spread 3 1 0x11223344)).core 0).buffered 0x300041 = some 0x33
      ∧ laneOf (ran (.ld false 0 2 5 1 4) (ran (.st false 0 2 3 1 4) (withLane spread 3 1 0x11223344))) 5 1 = 0
      ∧ laneOf (ran (.nop true) (ran (.ld false 0 5 5 1 4) (ran (.st false 0 2 3 1 4) (withLane spread 3 1 0x1122F344)))) 5 1 = 0xFFFFF344
      ∧ (ran (.fence false 4) (ran (.st false 0 2 3 1 4) (withLane spread 3 1 0x11223344))).sliceByte 0x300041 = 0x33 := by decide +kernel

/-- A load at a misaligned address is cause 0x03 with the first such lane and its address (R261, R325). -/
theorem test_misaligned :
    (ran (.ldOffset false 0 2 5 1 4 2) (withPair { handled with ctx := { handled.ctx with root := 0x1000 } } 8 0x300000)).team.trap.cause = 3 := by decide +kernel

/-- A swizzled scratchpad word lies in the bank that R78 works out: 0x0184 under SW 1 is row 3, bank 2. -/
theorem test_swizzle : swizzle 1 0x184 = 3 * 128 + 4 * 2 ∧ swizzle 0 0x184 = 0x184 := by decide

/-- A scratchpad store read back with the same swizzle (R267). -/
theorem test_scratchpad :
    laneOf (ran (.nop true) (ran (.ldp false 1 5 1 2 false) (ran (.stp false 1 3 1 2 false) (withLane (withLane quad 1 0 0x184) 3 0 99)))) 5 0 = 99 := by decide +kernel

/-- A batch has its number modulo 256, and a number that was not closed is cause 0x01 (R68). -/
theorem test_batch :
    scalarOf (ran (.batch false 3) (onTeam quad (fun t => { t with openBatch := 300 }))) 3 = 44
      ∧ (ran (.waitb false 3) handled).team.trap.cause = 1 := by decide +kernel

/-- TRAP leaves TRAPPC behind itself, BKPT at itself, and RTT restores the mask (R70, R327, R329, R348). -/
theorem test_traps :
    (ran (.trap false 0x20 4) (withPair handled 4 0x123456789)).team.trap.pc = 0x100004
      ∧ (ran (.trap false 0x20 4) (withPair handled 4 0x123456789)).team.trap.info = 0x123456789
      ∧ (ran (.trap false 0x20 4) handled).team.pc = 0x200800 ∧ (ran (.bkpt false 5) handled).team.trap.pc = 0x100000
      ∧ (ran (.rtt false) inHandler).team.mask = 3 ∧ (ran (.rtt false) inHandler).team.pc = 0x100040
      ∧ (ran (.halt false) handled).team.trap.cause = 2 ∧ (ran (.halt false) privileged).team.halted = true := by decide +kernel

/-- The canvas accepts an instruction, which waits until it is executed; a crew without a canvas takes cause 0x22 (R127, R148). -/
theorem test_canvas :
    (ran (.cnvClrOnes false 7) quad).crew.canvas.queue.map (fun q => q.op) = [.fill [7] 0xFFFFFFFF]
      ∧ (ran (.canvasExecute 1) (canvasWith 1 0)).crew.canvas.queue = []
      ∧ (ran (.cnvAll false) { handled with crew := base.crew }).team.trap.cause = 0x22
      ∧ (ran (.canvasExecute 1) (ran (.cnvPop false) (canvasWith 0 1))).crew.canvas.en = 1 := by decide +kernel

/-- A reduction of two strands issues in slot A of their partitions and then in slot X of the base partition, a scalar broadcast in slot X
alone, and a copy with an empty mask in slot X (R39, R93, R219). -/
theorem test_slots :
    let t : Team := { quad.team with strands := 2, mask := 0x100000001, part := 1 }
    (t.parts quad.crew 0x20A00000).map (fun p => (p.id, p.slot)) = [(0, 4), (1, 8), (32, 7)]
      ∧ (t.parts quad.crew 0x20800002).map Part.slot = [7] ∧ (t.parts quad.crew 0x50000000).map (fun p => p.slot) = [6]
      ∧ ({ t with mask := 0 }.parts quad.crew 0x50000000).map Part.slot = [7] := by decide +kernel

/-- A releasing store with an empty mask leaves the buffer alone, and with lanes drains what the team stored before (R39, R265). -/
theorem test_empty_mask_release :
    let s : State := ran (.st false 0 2 3 1 4) (withLane spread 3 1 0x11223344)
    ((ran (.st false 1 2 3 1 4) (onTeam s (fun t => { t with mask := 0 }))).core 0).buffered 0x300041 = some 0x33
      ∧ (ran (.st false 1 2 3 1 4) s).sliceByte 0x300041 = 0x33 := by decide +kernel

/-- A tag with wildcards matches a key field by field (R208, R236). -/
theorem test_tag :
    scalarOf (ran (.tagRd false 3 4 true) tiled) 3 = 1 ∧ scalarOf (ran (.tagChk false 3 4 6) (withScalar tiled 6 0x1FFFF)) 3 = 1
      ∧ scalarOf (ran (.tagChk false 3 4 6) (withScalar tiled 6 0x1FFF2)) 3 = 0 := by decide +kernel

/-- A copy of 16 bytes into the scratchpad, performed by its event (R222, R224). -/
theorem test_copy :
    (ran (.copyComplete 3) (ran (.cpy false 8 4 5 false false 0) (withScalar tiled 5 16))).crew.spad.get 0x1001 = 0x01
      ∧ (ran (.cpy false 8 4 5 false false 0) (withScalar tiled 5 16)).crew.spad.get 0x1001 = 0 := by decide +kernel

/-- The record of each active lane behind those of its node's bin (R303, R340). -/
theorem test_records :
    ((ran (.recPush false 1 28) toNode1).ctx.bin 1).length = 4 ∧ (ran (.recPush false 1 28) toNode1Full).team.state = .parked
      ∧ scalarOf (ran (.recTry false 3 1 28) toNode1Full) 3 = 1 := by decide +kernel

/-- Nesting bounds and the open generation (R295, R343). -/
theorem test_grace :
    (ran (.rsecIn false) quad).team.nest = 1 ∧ (ran (.rsecOut false) handled).team.trap.cause = 1
      ∧ (ran (.qpass false) (onCtx quad (fun c => { c with genClosed := 7 }))).team.qgen = 7
      ∧ (ran (.grace false) quad).ctx.genClosed = 1 := by decide +kernel

/-- A word that is no instruction is cause 0x01 with its words as TRAPINFO (R90). -/
theorem test_illegal :
    (ran (.illegalInstruction 0x7E000000 5) handled).team.trap.info = 0x57E000000 := by decide +kernel

/-- A package reset boots, creates and maps; a context is then created by its descriptor (R394, R397). -/
theorem test_boot :
    (ran (.packageReset false [0, 0, 0, 0, 0] 3 ⟨[], [], [], [], 0, false, false, 24⟩) State.reset).dev.stage = 7 ∧ (ran (.packageReset false [0, 0, 0, 0, 4] 3 ⟨[], [], [], [], 0, false, false, 24⟩) State.reset).dev.code = 4
      ∧ ((ran (.contextCreate 5 descriptor5 [] [0, 1]) idle).ctx? 5).isSome = true ∧ ((ran (.contextCreate 6 descriptor5 [] [0, 1]) idle).ctx? 6).isSome = false := by
  decide +kernel

end Sys2Proof.Tests
end

section
/-! What a word of the R format holds in its fields (R72), what a lane instruction answers (R56, R92), and O20 (R97). -/

namespace Sys2Proof

/-! ## The fields of a word of the R format -/

section RFormat

variable {b : Bool} {maj sub : Nat} {d a c : BitVec 7}

/-- No field of an R word reaches into another, so the word's number is the sum of its shifted fields. -/
theorem mkR_toNat (hmaj : maj < 64) (hsub : sub < 16) :
    (mkR b maj sub d.toNat a.toNat c.toNat).toNat
      = b.toNat * 2147483648 + maj * 33554432 + sub * 2097152 + d.toNat * 16384 + a.toNat * 128 + c.toNat := by
  have hb := b.toNat_lt
  rw [mkR, BitVec.toNat_ofNat, Nat.mod_eq_of_lt (by omega)]

theorem mkR_belayField (hmaj : maj < 64) (hsub : sub < 16) :
    bitOf ((mkR b maj sub d.toNat a.toNat c.toNat).toNat / 2147483648) = b := by
  have hq : (mkR b maj sub d.toNat a.toNat c.toNat).toNat / 2147483648 = b.toNat := by
    rw [mkR_toNat hmaj hsub]; omega
  rw [hq]; cases b <;> rfl

theorem mkR_majorField (hmaj : maj < 64) (hsub : sub < 16) :
    (mkR b maj sub d.toNat a.toNat c.toNat).toNat / 33554432 % 64 = maj := by
  rw [mkR_toNat hmaj hsub]; omega

theorem mkR_subField (hmaj : maj < 64) (hsub : sub < 16) :
    (mkR b maj sub d.toNat a.toNat c.toNat).toNat / 2097152 % 16 = sub := by
  rw [mkR_toNat hmaj hsub]; omega

theorem mkR_dField (hmaj : maj < 64) (hsub : sub < 16) :
    (mkR b maj sub d.toNat a.toNat c.toNat).toNat / 16384 % 128 = d.toNat := by
  rw [mkR_toNat hmaj hsub]; omega

theorem mkR_aField (hmaj : maj < 64) (hsub : sub < 16) :
    (mkR b maj sub d.toNat a.toNat c.toNat).toNat / 128 % 128 = a.toNat := by
  rw [mkR_toNat hmaj hsub]; omega

theorem mkR_cField (hmaj : maj < 64) (hsub : sub < 16) :
    (mkR b maj sub d.toNat a.toNat c.toNat).toNat % 128 = c.toNat := by
  rw [mkR_toNat hmaj hsub]; omega

/-- The decoder hands the fields of an R word of major 0x02 to that major's table as they were encoded. -/
theorem decodeRaw_mkR_major02 (hsub : sub < 16) (w1 w2 w3 : Word) :
    decodeRaw (mkR b 2 sub d.toNat a.toNat c.toNat) w1 w2 w3 = decode02 b sub d.toNat a.toNat c.toNat := by
  have hmaj : 2 < 64 := by decide
  simp only [decodeRaw, mkR_belayField hmaj hsub, mkR_majorField hmaj hsub, mkR_subField hmaj hsub,
    mkR_dField hmaj hsub, mkR_aField hmaj hsub, mkR_cField hmaj hsub]

end RFormat

/-- An instruction that breaks an operand rule is refused by the name of that rule. -/
theorem decodeWords_of_violation {w0 w1 w2 w3 : Word} {i : Instr} {r : Reject}
    (hraw : decodeRaw w0 w1 w2 w3 = .ok i) (hviol : i.violation = some r) :
    decodeWords w0 w1 w2 w3 = .error r := by
  simp only [decodeWords, hraw, hviol]

/-! ## The words of ADD64 and SUB64 (R73, R97) -/

section PairWords

variable (b : Bool) (d a c : BitVec 7)

theorem decodeRaw_add64 (w1 w2 w3 : Word) :
    decodeRaw (encodedWord (.add64 b d a c) 0) w1 w2 w3 = .ok (.add64 b d a c) := by
  have hword : encodedWord (.add64 b d a c) 0 = mkR b 2 12 d.toNat a.toNat c.toNat := rfl
  rw [hword, decodeRaw_mkR_major02 (by decide)]
  simp only [decode02, BitVec.ofNat_toNat, BitVec.setWidth_eq]

theorem decodeRaw_sub64 (w1 w2 w3 : Word) :
    decodeRaw (encodedWord (.sub64 b d a c) 0) w1 w2 w3 = .ok (.sub64 b d a c) := by
  have hword : encodedWord (.sub64 b d a c) 0 = mkR b 2 13 d.toNat a.toNat c.toNat := rfl
  rw [hword, decodeRaw_mkR_major02 (by decide)]
  simp only [decode02, BitVec.ofNat_toNat, BitVec.setWidth_eq]

variable {d a c}

theorem violation_add64_of_odd (hodd : d.toNat % 2 = 1 ∨ a.toNat % 2 = 1 ∨ c.toNat % 2 = 1) :
    (Instr.add64 b d a c).violation = some .oddPair := by
  rcases hodd with h | h | h <;> simp [Instr.violation, h]

/-- ADD64 and SUB64 obey one operand rule. -/
theorem violation_sub64 : (Instr.sub64 b d a c).violation = (Instr.add64 b d a c).violation := rfl

end PairWords

end Sys2Proof

namespace Sys2Proof.Machine

/-! ## What a lane instruction answers -/

theorem laneInstr_of_namesOk {i : Instr} {b : Bool} {names : List Nat} {s : State} {body : Team → Team}
    (h : s.team.namesOk names = true) :
    laneInstr i b names s body = .next (s.withTeam ((body (s.team.belay b)).advance 1)) := by
  rw [laneInstr, if_pos h]

theorem laneInstr_of_not_namesOk {i : Instr} {b : Bool} {names : List Nat} {s : State} {body : Team → Team}
    (h : s.team.namesOk names = false) : laneInstr i b names s body = .next (s.illegal i) := by
  rw [laneInstr, if_neg (by simp [h])]

section LaneBin64

variable {i : Instr} {b : Bool} {d a c : BitVec 7} {f : BitVec 64 → BitVec 64 → BitVec 64} {s : State}

/-- A pair form reads its sources after the belay wait and writes the pair D in the active lanes. -/
theorem laneBin64_of_namesOk
    (h : s.team.namesOk [d.toNat, d.toNat + 1, a.toNat, a.toNat + 1, c.toNat, c.toNat + 1] = true) :
    laneBin64 i b d a c f s = .next (s.withTeam (((s.team.belay b).wr64 d.toNat s.team.active
      (fun l => f ((s.team.belay b).rd64 a.toNat l) ((s.team.belay b).rd64 c.toNat l))).advance 1)) := by
  rw [laneBin64, laneInstr_of_namesOk h, Team.belay_active]

theorem laneBin64_of_not_namesOk
    (h : s.team.namesOk [d.toNat, d.toNat + 1, a.toNat, a.toNat + 1, c.toNat, c.toNat + 1] = false) :
    laneBin64 i b d a c f s = .next (s.illegal i) := laneInstr_of_not_namesOk h

end LaneBin64

theorem exec_add64 (b : Bool) (d a c : BitVec 7) (s : State) :
    exec (.add64 b d a c) s = laneBin64 (.add64 b d a c) b d a c (fun x y => x + y) s := rfl

theorem exec_sub64 (b : Bool) (d a c : BitVec 7) (s : State) :
    exec (.sub64 b d a c) s = laneBin64 (.sub64 b d a c) b d a c (fun x y => x - y) s := rfl

theorem exec_illegalInstruction (w0 w1 : Word) (s : State) :
    exec (.illegalInstruction w0 w1) s = .next (s.trapHere 0x01 (wordsInfo w0 w1)) := rfl

/-- Settles O20: both forms are one pair operation on the lanes, and both words are refused by one operand rule. -/
theorem pairSums : Obligations.PairSums := by
  unfold Obligations.PairSums
  intro s b d a c
  refine ⟨fun hok => ?sums, fun hbad => ?outside, fun hodd w1 w2 w3 => ?oddWords, fun w0 w1 => exec_illegalInstruction w0 w1 s⟩
  case sums => exact ⟨laneBin64_of_namesOk hok, laneBin64_of_namesOk hok⟩
  case outside => exact ⟨laneBin64_of_not_namesOk hbad, laneBin64_of_not_namesOk hbad⟩
  case oddWords =>
    have hviol := violation_add64_of_odd b hodd
    exact ⟨decodeWords_of_violation (decodeRaw_add64 b d a c w1 w2 w3) hviol,
      decodeWords_of_violation (decodeRaw_sub64 b d a c w1 w2 w3) ((violation_sub64 b).trans hviol)⟩

end Sys2Proof.Machine
end

section
/-! Privileged mode and the two instructions that it guards, and O15 (R339). -/

namespace Sys2Proof.Machine

theorem State.privileged_iff (s : State) : s.privileged = true ↔ s.ctx.privileged = true ∧ s.team.trap.mode = true := by
  rw [State.privileged, Bool.and_eq_true]

theorem newContext_privileged_iff (ctx : Nat) (d : List Byte) (cregs : List (BitVec 64)) (cores : List Nat)
    (grants : List (Nat × Nat)) : (newContext ctx d cregs cores grants).privileged = true ↔ fieldAt d 41 1 % 2 = 1 := by
  rw [newContext, beq_iff_eq]

theorem exec_ctxwr (b : Bool) (ix c : BitVec 6) (s : State) : exec (.ctxwr b ix c) s = execCtxwr b ix c s := rfl

theorem exec_halt (b : Bool) (s : State) : exec (.halt b) s = execHalt b s := rfl

section OutsidePrivilegedMode

variable {s : State} (h : ¬ s.privileged = true)
include h

theorem exec_ctxwr_of_not_privileged (b : Bool) (ix c : BitVec 6) :
    exec (.ctxwr b ix c) s = .next (s.unprivileged (.ctxwr b ix c)) := by
  rw [exec_ctxwr, execCtxwr, if_pos (by simp [h])]

theorem exec_halt_of_not_privileged (b : Bool) : exec (.halt b) s = .next (s.unprivileged (.halt b)) := by
  rw [exec_halt, execHalt, if_neg h]

end OutsidePrivilegedMode

/-- Settles O15: CTXWR and HALT ask for privileged mode before anything else, which needs a privileged context and trap mode. -/
theorem privilegedInstructions : Obligations.PrivilegedInstructions := by
  unfold Obligations.PrivilegedInstructions
  refine ⟨fun s b ix c houtside => ?guarded, State.privileged_iff, newContext_privileged_iff⟩
  case guarded =>
    have h : ¬ s.privileged = true := mt s.privileged_iff.mp houtside
    exact ⟨exec_ctxwr_of_not_privileged h b ix c, exec_halt_of_not_privileged h b⟩

end Sys2Proof.Machine
end

section
/-! The fields of the words of each format (R72 to R76, R86 to R88): what the decoder reads in a word that the encoder has built,
and the word that the fields read from it build again. -/

namespace Sys2Proof

/-! ## One bit -/

@[simp] theorem bitOf_toNat (b : Bool) : bitOf b.toNat = b := by cases b <;> rfl

@[simp] theorem toNat_bitOf (n : Nat) : (bitOf n).toNat = n % 2 := by
  rcases Nat.mod_two_eq_zero_or_one n with h | h <;> simp [bitOf, h]

/-- The lowest bit of a number decides `bitOf`. -/
theorem bitOf_of_mod {n : Nat} {b : Bool} (h : n % 2 = b.toNat) : bitOf n = b := by
  cases b <;> simp [bitOf, h]

/-- A field of `w` bits that is read back from a number whose low bits it is. -/
theorem ofNat_eq_of_mod {w n : Nat} {x : BitVec w} (h : n % 2 ^ w = x.toNat) : BitVec.ofNat w n = x :=
  BitVec.eq_of_toNat_eq (by rw [BitVec.toNat_ofNat, h])

@[simp] theorem ofNat_toNat_same {w : Nat} (x : BitVec w) : BitVec.ofNat w x.toNat = x :=
  ofNat_eq_of_mod (Nat.mod_eq_of_lt x.isLt)

/-! ## The R format -/

section RFormat

variable {b : Bool} {maj sub d a c : Nat}

/-- An R word whose fields are numbers is that of the registers with these numbers. -/
theorem mkR_eq_mkR_ofNat (hd : d < 128) (ha : a < 128) (hc : c < 128) : mkR b maj sub d a c
    = mkR b maj sub (BitVec.ofNat 7 d).toNat (BitVec.ofNat 7 a).toNat (BitVec.ofNat 7 c).toNat := by
  simp only [BitVec.toNat_ofNat, Nat.reducePow, Nat.mod_eq_of_lt hd, Nat.mod_eq_of_lt ha, Nat.mod_eq_of_lt hc]

variable (hmaj : maj < 64) (hsub : sub < 16) (hd : d < 128) (ha : a < 128) (hc : c < 128)
include hmaj hsub hd ha hc

theorem mkR_belay : bitOf ((mkR b maj sub d a c).toNat / 2147483648) = b := by
  rw [mkR_eq_mkR_ofNat hd ha hc, mkR_belayField hmaj hsub]

theorem mkR_major : (mkR b maj sub d a c).toNat / 33554432 % 64 = maj := by
  rw [mkR_eq_mkR_ofNat hd ha hc, mkR_majorField hmaj hsub]

theorem mkR_sub : (mkR b maj sub d a c).toNat / 2097152 % 16 = sub := by
  rw [mkR_eq_mkR_ofNat hd ha hc, mkR_subField hmaj hsub]

theorem mkR_d : (mkR b maj sub d a c).toNat / 16384 % 128 = d := by
  rw [mkR_eq_mkR_ofNat hd ha hc, mkR_dField hmaj hsub, BitVec.toNat_ofNat, Nat.mod_eq_of_lt hd]

theorem mkR_a : (mkR b maj sub d a c).toNat / 128 % 128 = a := by
  rw [mkR_eq_mkR_ofNat hd ha hc, mkR_aField hmaj hsub, BitVec.toNat_ofNat, Nat.mod_eq_of_lt ha]

theorem mkR_c : (mkR b maj sub d a c).toNat % 128 = c := by
  rw [mkR_eq_mkR_ofNat hd ha hc, mkR_cField hmaj hsub, BitVec.toNat_ofNat, Nat.mod_eq_of_lt hc]

end RFormat

/-- A word is the R word of the fields that are read from it. -/
theorem mkR_of_fields (w : Word) : mkR (bitOf (w.toNat / 2147483648)) (w.toNat / 33554432 % 64) (w.toNat / 2097152 % 16)
    (w.toNat / 16384 % 128) (w.toNat / 128 % 128) (w.toNat % 128) = w :=
  ofNat_eq_of_mod (by rw [toNat_bitOf]; omega)

/-! ## The formats with wider fields -/

section OtherFormats

variable {b : Bool} {maj : Nat}

/-- No field of a word of any format reaches into the major or the belay bit. -/
theorem mkW_toNat {rest : Nat} (hmaj : maj < 64) (hrest : rest < 33554432) :
    (mkW b maj rest).toNat = b.toNat * 2147483648 + maj * 33554432 + rest := by
  have hb := b.toNat_lt
  rw [mkW, BitVec.toNat_ofNat, Nat.mod_eq_of_lt (by omega)]

theorem mkW_belay {rest : Nat} (hmaj : maj < 64) (hrest : rest < 33554432) : bitOf ((mkW b maj rest).toNat / 2147483648) = b :=
  bitOf_of_mod (by have hb := b.toNat_lt; rw [mkW_toNat hmaj hrest]; omega)

theorem mkW_major {rest : Nat} (hmaj : maj < 64) (hrest : rest < 33554432) : (mkW b maj rest).toNat / 33554432 % 64 = maj := by
  rw [mkW_toNat hmaj hrest]; omega

/-- What lies below the major is read from the rest alone, whatever belay bit and major stand above. -/
theorem mkW_rest {rest : Nat} (hmaj : maj < 64) (hrest : rest < 33554432) : (mkW b maj rest).toNat % 33554432 = rest := by
  rw [mkW_toNat hmaj hrest]; omega

/-- A word is that of its belay bit, its major and the 25 bits below. -/
theorem mkW_of_fields (w : Word) : mkW (bitOf (w.toNat / 2147483648)) (w.toNat / 33554432 % 64) (w.toNat % 33554432) = w :=
  ofNat_eq_of_mod (by rw [toNat_bitOf]; omega)

theorem mkR_eq_mkW (sub d a c : Nat) : mkR b maj sub d a c = mkW b maj (sub * 2097152 + d * 16384 + a * 128 + c) := by
  simp only [mkR, mkW, Nat.add_assoc]

theorem mkI_eq_mkW (d a imm : Nat) : mkI b maj d a imm = mkW b maj (d * 262144 + a * 2048 + imm) := by
  simp only [mkI, mkW, Nat.add_assoc]

theorem mkS_eq_mkW (sop d a imm : Nat) : mkS b sop d a imm = mkW b 19 (sop * 4194304 + d * 65536 + a * 1024 + imm) := by
  simp only [mkS, mkW, Nat.add_assoc]

theorem mkM_eq_mkW (q t d a s e : Nat) :
    mkM b maj q t d a s e = mkW b maj (q * 8388608 + t * 1048576 + d * 8192 + a * 64 + s * 2 + e) := by
  simp only [mkM, mkW, Nat.add_assoc]

/-! ### The I format (R72, R74) -/

section IFormat

variable {d a imm : Nat} (hmaj : maj < 64) (hd : d < 128) (ha : a < 128) (hi : imm < 2048)
include hmaj hd ha hi

theorem mkI_belay : bitOf ((mkI b maj d a imm).toNat / 2147483648) = b := by rw [mkI_eq_mkW, mkW_belay hmaj (by omega)]

theorem mkI_major : (mkI b maj d a imm).toNat / 33554432 % 64 = maj := by rw [mkI_eq_mkW, mkW_major hmaj (by omega)]

theorem mkI_d : (mkI b maj d a imm).toNat / 262144 % 128 = d := by rw [mkI_eq_mkW, mkW_toNat hmaj (by omega)]; omega

theorem mkI_a : (mkI b maj d a imm).toNat / 2048 % 128 = a := by rw [mkI_eq_mkW, mkW_toNat hmaj (by omega)]; omega

theorem mkI_imm : (mkI b maj d a imm).toNat % 2048 = imm := by rw [mkI_eq_mkW, mkW_toNat hmaj (by omega)]; omega

end IFormat

/-! ### The scalar-immediate format (R75) -/

section SFormat

variable {sop d a imm : Nat} (hs : sop < 8) (hd : d < 64) (ha : a < 64) (hi : imm < 1024)
include hs hd ha hi

theorem mkS_belay : bitOf ((mkS b sop d a imm).toNat / 2147483648) = b := by rw [mkS_eq_mkW, mkW_belay (by omega) (by omega)]

theorem mkS_major : (mkS b sop d a imm).toNat / 33554432 % 64 = 19 := by rw [mkS_eq_mkW, mkW_major (by omega) (by omega)]

theorem mkS_sop : (mkS b sop d a imm).toNat / 4194304 % 8 = sop := by rw [mkS_eq_mkW, mkW_toNat (by omega) (by omega)]; omega

theorem mkS_d : (mkS b sop d a imm).toNat / 65536 % 64 = d := by rw [mkS_eq_mkW, mkW_toNat (by omega) (by omega)]; omega

theorem mkS_a : (mkS b sop d a imm).toNat / 1024 % 64 = a := by rw [mkS_eq_mkW, mkW_toNat (by omega) (by omega)]; omega

theorem mkS_imm : (mkS b sop d a imm).toNat % 1024 = imm := by rw [mkS_eq_mkW, mkW_toNat (by omega) (by omega)]; omega

end SFormat

/-! ### The M format (R72, R76) -/

section MFormat

variable {q t d a s e : Nat} (hmaj : maj < 64) (hq : q < 4) (ht : t < 8) (hd : d < 128) (ha : a < 128) (hs : s < 32) (he : e < 2)
include hmaj hq ht hd ha hs he

theorem mkM_belay : bitOf ((mkM b maj q t d a s e).toNat / 2147483648) = b := by rw [mkM_eq_mkW, mkW_belay hmaj (by omega)]

theorem mkM_major : (mkM b maj q t d a s e).toNat / 33554432 % 64 = maj := by rw [mkM_eq_mkW, mkW_major hmaj (by omega)]

theorem mkM_q : (mkM b maj q t d a s e).toNat / 8388608 % 4 = q := by rw [mkM_eq_mkW, mkW_toNat hmaj (by omega)]; omega

theorem mkM_t : (mkM b maj q t d a s e).toNat / 1048576 % 8 = t := by rw [mkM_eq_mkW, mkW_toNat hmaj (by omega)]; omega

theorem mkM_d : (mkM b maj q t d a s e).toNat / 8192 % 128 = d := by rw [mkM_eq_mkW, mkW_toNat hmaj (by omega)]; omega

theorem mkM_a : (mkM b maj q t d a s e).toNat / 64 % 128 = a := by rw [mkM_eq_mkW, mkW_toNat hmaj (by omega)]; omega

theorem mkM_s : (mkM b maj q t d a s e).toNat / 2 % 32 = s := by rw [mkM_eq_mkW, mkW_toNat hmaj (by omega)]; omega

theorem mkM_e : (mkM b maj q t d a s e).toNat % 2 = e := by rw [mkM_eq_mkW, mkW_toNat hmaj (by omega)]; omega

end MFormat

end OtherFormats

/-- A word is the I word of the fields that are read from it. -/
theorem mkI_of_fields (w : Word) : mkI (bitOf (w.toNat / 2147483648)) (w.toNat / 33554432 % 64)
    (w.toNat / 262144 % 128) (w.toNat / 2048 % 128) (w.toNat % 2048) = w :=
  ofNat_eq_of_mod (by rw [toNat_bitOf]; omega)

/-- A word of major 0x13 is the scalar-immediate word of the fields that are read from it. -/
theorem mkS_of_fields {w : Word} (hmaj : w.toNat / 33554432 % 64 = 19) : mkS (bitOf (w.toNat / 2147483648))
    (w.toNat / 4194304 % 8) (w.toNat / 65536 % 64) (w.toNat / 1024 % 64) (w.toNat % 1024) = w :=
  ofNat_eq_of_mod (by rw [toNat_bitOf]; omega)

/-- A word is the M word of the fields that are read from it. -/
theorem mkM_of_fields (w : Word) : mkM (bitOf (w.toNat / 2147483648)) (w.toNat / 33554432 % 64) (w.toNat / 8388608 % 4)
    (w.toNat / 1048576 % 8) (w.toNat / 8192 % 128) (w.toNat / 64 % 128) (w.toNat / 2 % 32) (w.toNat % 2) = w :=
  ofNat_eq_of_mod (by rw [toNat_bitOf]; omega)

end Sys2Proof
end

section
/-! Decoding what the encoder builds (R69, R72 to R76), major by major, and O1. -/

namespace Sys2Proof

set_option Elab.async false

/-! ## Fields packed into one field of the R format -/

/-- The low field of two that are packed. -/
theorem ofNat_packed_low {w m : Nat} (x : BitVec w) (k : Nat) (h : m % 2 ^ w = 0) : BitVec.ofNat w (x.toNat + k * m) = x :=
  ofNat_eq_of_mod (by rw [Nat.add_mod, Nat.mul_mod, h, Nat.mul_zero, Nat.zero_mod, Nat.add_zero, Nat.mod_mod, Nat.mod_eq_of_lt x.isLt])

/-- The high field of two that are packed. -/
theorem ofNat_packed_high {v w m : Nat} (x : BitVec v) (y : BitVec w) (h : 2 ^ v = m) :
    BitVec.ofNat w ((x.toNat + y.toNat * m) / m) = y := by
  have hx : x.toNat / m = 0 := Nat.div_eq_of_lt (h ▸ x.isLt)
  have hm : 0 < m := h ▸ Nat.two_pow_pos v
  rw [Nat.add_mul_div_right _ _ hm, hx, Nat.zero_add, ofNat_toNat_same]

/-- A field above another one that is smaller than its place. -/
theorem ofNat_above {w m k : Nat} (x : BitVec w) (h : k < m) : BitVec.ofNat w ((x.toNat * m + k) / m) = x := by
  rw [Nat.add_comm, Nat.add_mul_div_right _ _ (by omega), Nat.div_eq_of_lt h, Nat.zero_add, ofNat_toNat_same]

/-- A field below a constant. -/
theorem ofNat_below {w k : Nat} (x : BitVec w) (h : k % 2 ^ w = 0) : BitVec.ofNat w (x.toNat + k) = x :=
  ofNat_eq_of_mod (by rw [Nat.add_mod, h, Nat.add_zero, Nat.mod_mod, Nat.mod_eq_of_lt x.isLt])

theorem bitOf_eq_true {n : Nat} (h : n % 2 = 1) : bitOf n = true := bitOf_of_mod h

theorem bitOf_eq_false {n : Nat} (h : n % 2 = 0) : bitOf n = false := bitOf_of_mod h

/-! ## The second words (R86 to R88, R269) -/

theorem mkAtom_toNat {op c : Nat} {w nr : Bool} (hop : op < 16) (hc : c < 128) :
    (mkAtom op w nr c).toNat = op * 268435456 + w.toNat * 134217728 + nr.toNat * 67108864 + c := by
  have hw := w.toNat_lt
  have hn := nr.toNat_lt
  rw [mkAtom, BitVec.toNat_ofNat, Nat.mod_eq_of_lt (by omega)]

theorem mkCpy_toNat {dir follow ord sw : Nat} (hdir : dir < 2) (hfollow : follow < 2) (hord : ord < 2) (hsw : sw < 8) :
    (mkCpy dir follow ord sw).toNat = dir * 1073741824 + follow * 536870912 + ord * 134217728 + sw * 16777216 := by
  rw [mkCpy, BitVec.toNat_ofNat, Nat.mod_eq_of_lt (by omega)]

theorem mkPut_toNat {win tc ord dev : Nat} (hwin : win < 64) (htc : tc < 2) (hord : ord < 2) (hdev : dev < 4194304) :
    (mkPut win tc ord dev).toNat = win * 67108864 + tc * 16777216 + ord * 4194304 + dev := by
  rw [mkPut, BitVec.toNat_ofNat, Nat.mod_eq_of_lt (by omega)]

theorem mkMma_toNat {da db : Bool} {kg fbr : Nat} (hkg : kg < 64) (hfbr : fbr < 32768) :
    (mkMma da db kg fbr).toNat = da.toNat * 2147483648 + db.toNat * 1073741824 + kg * 16777216 + fbr * 512 := by
  have ha := da.toNat_lt
  have hb := db.toNat_lt
  rw [mkMma, BitVec.toNat_ofNat, Nat.mod_eq_of_lt (by omega)]

/-! ## The instructions of each major decode -/

/-- The decoder's tables, before the operand rules, give the instruction back from its words. -/
def Decodes (i : Instr) : Prop :=
  decodeRaw (encodedWord i 0) (encodedWord i 1) (encodedWord i 2) (encodedWord i 3) = .ok i

/-- Major 0x01. -/
theorem decodes_major01 :
    (∀ b d a c, Decodes (.add b d a c)) ∧ (∀ b d a c, Decodes (.sub b d a c)) ∧ (∀ b d a c, Decodes (.mul b d a c))
      ∧ (∀ b d a c, Decodes (.mulhi b d a c)) ∧ (∀ b d a c, Decodes (.mulhu b d a c)) ∧ (∀ b d a c, Decodes (.imad b d a c))
      ∧ (∀ b d a c, Decodes (.min b d a c)) ∧ (∀ b d a c, Decodes (.max b d a c)) ∧ (∀ b d a c, Decodes (.minu b d a c))
      ∧ (∀ b d a c, Decodes (.maxu b d a c)) := by
  refine ⟨?_, ?_, ?_, ?_, ?_, ?_, ?_, ?_, ?_, ?_⟩ <;> intros <;>
    simp (disch := omega) only [Decodes, encodedWord, encode, List.getD_cons_zero, decodeRaw,
      mkR_belay, mkR_major, mkR_sub, mkR_d, mkR_a, mkR_c, decode01, ofNat_toNat_same]

/-- Major 0x02. -/
theorem decodes_major02 :
    (∀ b d a c, Decodes (.and b d a c)) ∧ (∀ b d a c, Decodes (.or b d a c)) ∧ (∀ b d a c, Decodes (.xor b d a c))
      ∧ (∀ b d a c, Decodes (.andn b d a c)) ∧ (∀ b d a c, Decodes (.shl b d a c)) ∧ (∀ b d a c, Decodes (.shr b d a c))
      ∧ (∀ b d a c, Decodes (.sar b d a c)) ∧ (∀ b d a c, Decodes (.bfx b d a c)) ∧ (∀ b d a c, Decodes (.bfxs b d a c))
      ∧ (∀ b d a c, Decodes (.bfi b d a c)) ∧ (∀ b d a, Decodes (.popc b d a)) ∧ (∀ b d a, Decodes (.clz b d a))
      ∧ (∀ b d a c, Decodes (.add64 b d a c)) ∧ (∀ b d a c, Decodes (.sub64 b d a c)) := by
  refine ⟨?_, ?_, ?_, ?_, ?_, ?_, ?_, ?_, ?_, ?_, ?_, ?_, ?_, ?_⟩ <;> intros <;>
    simp (disch := omega) only [Decodes, encodedWord, encode, List.getD_cons_zero, decodeRaw,
      mkR_belay, mkR_major, mkR_sub, mkR_d, mkR_a, mkR_c, decode02, if_true, ofNat_toNat_same]

/-- Major 0x0A. -/
theorem decodes_major0A :
    (∀ b cc p a c, Decodes (.cmp b cc p a c)) := by
  intros
  simp (disch := omega) only [Decodes, encodedWord, encode, List.getD_cons_zero, decodeRaw,
      mkR_belay, mkR_major, mkR_sub, mkR_d, mkR_a, mkR_c, if_pos, ofNat_toNat_same]

/-- Major 0x0D. -/
theorem decodes_major0D :
    (∀ b cc p a c, Decodes (.fcmp b cc p a c)) := by
  intros
  simp (disch := omega) only [Decodes, encodedWord, encode, List.getD_cons_zero, decodeRaw,
      mkR_belay, mkR_major, mkR_sub, mkR_d, mkR_a, mkR_c, if_pos, ofNat_toNat_same]

/-- Major 0x0B. -/
theorem decodes_major0B :
    (∀ b d a c, Decodes (.fadd b d a c)) ∧ (∀ b d a c, Decodes (.fsub b d a c)) ∧ (∀ b d a c, Decodes (.fmul b d a c))
      ∧ (∀ b d a c, Decodes (.ffma b d a c)) ∧ (∀ b d a c, Decodes (.fmin b d a c)) ∧ (∀ b d a c, Decodes (.fmax b d a c))
      ∧ (∀ b d a, Decodes (.fabs b d a)) ∧ (∀ b d a, Decodes (.fneg b d a)) := by
  refine ⟨?_, ?_, ?_, ?_, ?_, ?_, ?_, ?_⟩ <;> intros <;>
    simp (disch := omega) only [Decodes, encodedWord, encode, List.getD_cons_zero, decodeRaw,
      mkR_belay, mkR_major, mkR_sub, mkR_d, mkR_a, mkR_c, decode0B, if_true, ofNat_toNat_same]

/-- Major 0x0E. -/
theorem decodes_major0E :
    (∀ b d a, Decodes (.rcp b d a)) ∧ (∀ b d a, Decodes (.rsq b d a)) ∧ (∀ b d a, Decodes (.sqrt b d a))
      ∧ (∀ b d a, Decodes (.ex2 b d a)) ∧ (∀ b d a, Decodes (.lg2 b d a)) ∧ (∀ b d a, Decodes (.sin b d a))
      ∧ (∀ b d a, Decodes (.cos b d a)) ∧ (∀ b d a c, Decodes (.fdiv b d a c)) := by
  refine ⟨?_, ?_, ?_, ?_, ?_, ?_, ?_, ?_⟩ <;> intros <;>
    simp (disch := omega) only [Decodes, encodedWord, encode, List.getD_cons_zero, decodeRaw,
      mkR_belay, mkR_major, mkR_sub, mkR_d, mkR_a, mkR_c, decode0E, if_true, ofNat_toNat_same]

/-- Major 0x10. -/
theorem decodes_major10 :
    (∀ b d a c, Decodes (.shfl b d a c)) ∧ (∀ b d a n, Decodes (.shflup b d a n)) ∧ (∀ b d a n, Decodes (.shfldn b d a n))
      ∧ (∀ b d a n, Decodes (.shflx b d a n)) ∧ (∀ b d a m, Decodes (.bcast b d a m)) ∧ (∀ b d a o, Decodes (.reda b d a o))
      ∧ (∀ b d a o, Decodes (.freda b d a o)) := by
  refine ⟨?_, ?_, ?_, ?_, ?_, ?_, ?_⟩ <;> intros <;>
    simp (disch := omega) only [Decodes, encodedWord, encode, List.getD_cons_zero, decodeRaw,
      mkR_belay, mkR_major, mkR_sub, mkR_d, mkR_a, mkR_c, decode10, if_pos, ofNat_toNat_same]

/-- Major 0x11. -/
theorem decodes_major11 :
    (∀ b d p, Decodes (.vany b d p)) ∧ (∀ b d p, Decodes (.vall b d p)) ∧ (∀ b d p j, Decodes (.ballot b d p j))
      ∧ (∀ b d a c, Decodes (.pand b d a c)) ∧ (∀ b d a c, Decodes (.por b d a c)) ∧ (∀ b d a c, Decodes (.pxor b d a c))
      ∧ (∀ b d a, Decodes (.pnot b d a)) ∧ (∀ b d a, Decodes (.pset b d a)) := by
  refine ⟨?_, ?_, ?_, ?_, ?_, ?_, ?_, ?_⟩ <;> intros <;>
    simp (disch := omega) only [Decodes, encodedWord, encode, List.getD_cons_zero, decodeRaw,
      mkR_belay, mkR_major, mkR_sub, mkR_d, mkR_a, mkR_c, decode11, if_pos, and_true, ofNat_toNat_same]

/-- Major 0x12. -/
theorem decodes_major12 :
    (∀ b d a c, Decodes (.sadd b d a c)) ∧ (∀ b d a c, Decodes (.ssub b d a c)) ∧ (∀ b d a c, Decodes (.smul b d a c))
      ∧ (∀ b d a c, Decodes (.sand b d a c)) ∧ (∀ b d a c, Decodes (.sor b d a c)) ∧ (∀ b d a c, Decodes (.sxor b d a c))
      ∧ (∀ b d a c, Decodes (.sshl b d a c)) ∧ (∀ b d a c, Decodes (.sshr b d a c)) ∧ (∀ b d a c, Decodes (.ssar b d a c))
      ∧ (∀ b a c, Decodes (.scmp b a c)) ∧ (∀ b d a, Decodes (.smov b d a)) ∧ (∀ b d a c, Decodes (.sadd64 b d a c)) := by
  refine ⟨?_, ?_, ?_, ?_, ?_, ?_, ?_, ?_, ?_, ?_, ?_, ?_⟩ <;> intros <;>
    simp (disch := omega) only [Decodes, encodedWord, encode, List.getD_cons_zero, decodeRaw,
      mkR_belay, mkR_major, mkR_sub, mkR_d, mkR_a, mkR_c, decode12, if_pos, true_and, and_true, ofNat_toNat_same]

/-- Major 0x15. -/
theorem decodes_major15 :
    (∀ b d i, Decodes (.sreadLane b d i)) ∧ (∀ b d i, Decodes (.sreadScalar b d i)) ∧ (∀ b i c, Decodes (.swriteLane b i c))
      ∧ (∀ b i c, Decodes (.swriteScalar b i c)) ∧ (∀ b k, Decodes (.wbase b k)) ∧ (∀ b n, Decodes (.tpri b n)) := by
  refine ⟨?_, ?_, ?_, ?_, ?_, ?_⟩ <;> intros <;>
    simp (disch := omega) only [Decodes, encodedWord, encode, List.getD_cons_zero, decodeRaw,
      mkR_belay, mkR_major, mkR_sub, mkR_d, mkR_a, mkR_c, decode15, if_pos, if_true, true_and, and_true, ofNat_toNat_same]

/-- Major 0x18. -/
theorem decodes_major18 :
    (∀ b, Decodes (.ret b)) ∧ (∀ b a, Decodes (.jmpi b a)) ∧ (∀ b a, Decodes (.callx b a)) ∧ (∀ b, Decodes (.exit b))
      ∧ (∀ b, Decodes (.nop b)) ∧ (∀ b n, Decodes (.bar b n)) ∧ (∀ b k n, Decodes (.barC b k n)) ∧ (∀ b n, Decodes (.barX b n))
      ∧ (∀ b k n, Decodes (.barXC b k n)) := by
  refine ⟨?_, ?_, ?_, ?_, ?_, ?_, ?_, ?_, ?_⟩ <;> intros <;>
    simp (disch := omega) only [Decodes, encodedWord, encode, List.getD_cons_zero, decodeRaw,
      mkR_belay, mkR_major, mkR_sub, mkR_d, mkR_a, mkR_c, decode18, if_pos, if_true, true_and, and_true, ofNat_toNat_same]

/-- Major 0x19. -/
theorem decodes_major19 :
    (∀ b p, Decodes (.ifMask b p)) ∧ (∀ b, Decodes (.elseMask b)) ∧ (∀ b, Decodes (.endIf b)) ∧ (∀ b, Decodes (.loop b))
      ∧ (∀ b p, Decodes (.breakMask b p)) ∧ (∀ b p, Decodes (.contMask b p)) ∧ (∀ b, Decodes (.endLoop b)) := by
  refine ⟨?_, ?_, ?_, ?_, ?_, ?_, ?_⟩ <;> intros <;>
    simp (disch := omega) only [Decodes, encodedWord, encode, List.getD_cons_zero, decodeRaw,
      mkR_belay, mkR_major, mkR_sub, mkR_d, mkR_a, mkR_c, decode19, if_pos, if_true, true_and, and_true, ofNat_toNat_same]

/-- Major 0x26. -/
theorem decodes_major26 :
    (∀ b sc, Decodes (.fence b sc)) ∧ (∀ b d, Decodes (.batch b d)) ∧ (∀ b a, Decodes (.waitb b a)) ∧ (∀ b a, Decodes (.commit b a))
      ∧ (∀ b a c, Decodes (.waitv b a c)) ∧ (∀ b sc, Decodes (.fenceSmp b sc)) ∧ (∀ b sc, Decodes (.fenceMx b sc)) := by
  refine ⟨?_, ?_, ?_, ?_, ?_, ?_, ?_⟩ <;> intros <;>
    simp (disch := omega) only [Decodes, encodedWord, encode, List.getD_cons_zero, decodeRaw,
      mkR_belay, mkR_major, mkR_sub, mkR_d, mkR_a, mkR_c, decode26, if_pos, true_and, and_true, ofNat_toNat_same]

/-- Major 0x2A. -/
theorem decodes_major2A :
    (∀ b d a c, Decodes (.smpG b d a c)) := by
  intros
  simp (disch := omega) only [Decodes, encodedWord, encode, List.getD_cons_zero, decodeRaw,
      mkR_belay, mkR_major, mkR_sub, mkR_d, mkR_a, mkR_c, decode2A, if_pos, ofNat_toNat_same]

/-- Major 0x2B. -/
theorem decodes_major2B :
    (∀ b d a c, Decodes (.attrf b d a c)) ∧ (∀ b d a c, Decodes (.attrb b d a c)) := by
  refine ⟨?_, ?_⟩ <;> intros <;>
    simp (disch := omega) only [Decodes, encodedWord, encode, List.getD_cons_zero, decodeRaw,
      mkR_belay, mkR_major, mkR_sub, mkR_d, mkR_a, mkR_c, decode2B, if_pos, ofNat_toNat_same]

/-- Major 0x32. -/
theorem decodes_major32 :
    (∀ b k a c, Decodes (.cnvPush b k a c)) ∧ (∀ b, Decodes (.cnvElse b)) ∧ (∀ b, Decodes (.cnvPop b)) ∧ (∀ b, Decodes (.cnvAll b))
      ∧ (∀ b a, Decodes (.cnvWin b a)) := by
  refine ⟨?_, ?_, ?_, ?_, ?_⟩ <;> intros <;>
    simp (disch := omega) only [Decodes, encodedWord, encode, List.getD_cons_zero, decodeRaw,
      mkR_belay, mkR_major, mkR_sub, mkR_d, mkR_a, mkR_c, decode32, if_pos, if_true, true_and, and_true, ofNat_toNat_same]

/-- Major 0x34. -/
theorem decodes_major34 :
    (∀ b d a c, Decodes (.cnvRdl b d a c)) ∧ (∀ b d a c, Decodes (.cnvWrl b d a c)) ∧ (∀ b d a, Decodes (.cnvLoad b d a))
      ∧ (∀ b d a, Decodes (.cnvStore b d a)) ∧ (∀ b d a c, Decodes (.cnvRdlA b d a c)) := by
  refine ⟨?_, ?_, ?_, ?_, ?_⟩ <;> intros <;>
    simp (disch := omega) only [Decodes, encodedWord, encode, List.getD_cons_zero, decodeRaw,
      mkR_belay, mkR_major, mkR_sub, mkR_d, mkR_a, mkR_c, decode34, if_pos, and_true, ofNat_toNat_same]

/-- Major 0x35. -/
theorem decodes_major35 :
    (∀ b d, Decodes (.cnvXsum b d)) ∧ (∀ b d a m, Decodes (.cnvXmap b d a m)) ∧ (∀ b m, Decodes (.cnvXclr b m))
      ∧ (∀ b, Decodes (.cnvSync b)) ∧ (∀ b a c, Decodes (.cnvOrg b a c)) := by
  refine ⟨?_, ?_, ?_, ?_, ?_⟩ <;> intros <;>
    simp (disch := omega) only [Decodes, encodedWord, encode, List.getD_cons_zero, decodeRaw,
      mkR_belay, mkR_major, mkR_sub, mkR_d, mkR_a, mkR_c, decode35, if_pos, if_true, true_and, and_true, ofNat_toNat_same]

/-- Major 0x39. -/
theorem decodes_major39 :
    (∀ b a, Decodes (.accClr b a)) ∧ (∀ b d a c, Decodes (.accProm b d a c)) ∧ (∀ b d a, Decodes (.accLd b d a)) := by
  refine ⟨?_, ?_, ?_⟩ <;> intros <;>
    simp (disch := omega) only [Decodes, encodedWord, encode, List.getD_cons_zero, decodeRaw,
      mkR_belay, mkR_major, mkR_sub, mkR_d, mkR_a, mkR_c, decode39, if_pos, true_and, and_true, ofNat_toNat_same]

/-- Major 0x3A. -/
theorem decodes_major3A :
    (∀ b d a c, Decodes (.netv b d a c)) ∧ (∀ b d a c, Decodes (.nets b d a c)) := by
  refine ⟨?_, ?_⟩ <;> intros <;>
    simp (disch := omega) only [Decodes, encodedWord, encode, List.getD_cons_zero, decodeRaw,
      mkR_belay, mkR_major, mkR_sub, mkR_d, mkR_a, mkR_c, decode3A, if_pos, ofNat_toNat_same]

/-- Major 0x3B. -/
theorem decodes_major3B :
    (∀ b a c, Decodes (.tagWr b a c)) ∧ (∀ b d a c, Decodes (.tagChk b d a c)) ∧ (∀ b d a, Decodes (.tileHdr b d a)) := by
  refine ⟨?_, ?_, ?_⟩ <;> intros <;>
    simp (disch := omega) only [Decodes, encodedWord, encode, List.getD_cons_zero, decodeRaw,
      mkR_belay, mkR_major, mkR_sub, mkR_d, mkR_a, mkR_c, decode3B, if_pos, true_and, and_true, ofNat_toNat_same]

/-- Major 0x3C. -/
theorem decodes_major3C :
    (∀ b a c, Decodes (.recPush b a c)) ∧ (∀ b d a c, Decodes (.recTry b d a c)) ∧ (∀ b a, Decodes (.nodeDone b a))
      ∧ (∀ b a, Decodes (.cancel b a)) ∧ (∀ b, Decodes (.qpass b)) ∧ (∀ b, Decodes (.rsecIn b)) ∧ (∀ b, Decodes (.rsecOut b))
      ∧ (∀ b, Decodes (.grace b)) ∧ (∀ b a c, Decodes (.defer b a c)) := by
  refine ⟨?_, ?_, ?_, ?_, ?_, ?_, ?_, ?_, ?_⟩ <;> intros <;>
    simp (disch := omega) only [Decodes, encodedWord, encode, List.getD_cons_zero, decodeRaw,
      mkR_belay, mkR_major, mkR_sub, mkR_d, mkR_a, mkR_c, decode3C, if_pos, if_true, true_and, and_true, ofNat_toNat_same]

/-- Major 0x3D. -/
theorem decodes_major3D :
    (∀ b, Decodes (.bankOpen b)) ∧ (∀ b, Decodes (.bankWait b)) ∧ (∀ b d a c, Decodes (.bankErr b d a c))
      ∧ (∀ b a, Decodes (.ringRed b a)) ∧ (∀ b a c, Decodes (.ringWait b a c)) := by
  refine ⟨?_, ?_, ?_, ?_, ?_⟩ <;> intros <;>
    simp (disch := omega) only [Decodes, encodedWord, encode, List.getD_cons_zero, decodeRaw,
      mkR_belay, mkR_major, mkR_sub, mkR_d, mkR_a, mkR_c, decode3D, if_pos, if_true, true_and, and_true, ofNat_toNat_same]

/-- Major 0x3E. -/
theorem decodes_major3E :
    (∀ b k c, Decodes (.trap b k c)) ∧ (∀ b, Decodes (.rtt b)) ∧ (∀ b, Decodes (.halt b)) ∧ (∀ b d i, Decodes (.ctxrd b d i))
      ∧ (∀ b i c, Decodes (.ctxwr b i c)) ∧ (∀ b, Decodes (.wdog b)) := by
  refine ⟨?_, ?_, ?_, ?_, ?_, ?_⟩ <;> intros <;>
    simp (disch := omega) only [Decodes, encodedWord, encode, List.getD_cons_zero, decodeRaw,
      mkR_belay, mkR_major, mkR_sub, mkR_d, mkR_a, mkR_c, decode3E, if_pos, if_true, true_and, and_true, ofNat_toNat_same]

/-- Major 0x30. -/
theorem decodes_major30 :
    (∀ b d a, Decodes (.cnvLin b d a)) ∧ (∀ b d a, Decodes (.cnvQuad b d a)) ∧ (∀ b d a, Decodes (.cnvExpq b d a))
      ∧ (∀ b d a imm, Decodes (.cnvLinK b d a imm)) ∧ (∀ b d a imm, Decodes (.cnvQuadK b d a imm))
      ∧ (∀ b d a imm, Decodes (.cnvExpqK b d a imm)) := by
  refine ⟨?_, ?_, ?_, ?_, ?_, ?_⟩ <;> intros <;>
    simp (disch := omega) only [Decodes, encodedWord, encode, List.getD_cons_zero, decodeRaw,
      mkR_belay, mkR_major, mkR_sub, mkR_d, mkR_a, mkR_c, decode30, List.getD_cons_succ, if_pos, and_true, ofNat_toNat_same]

/-- Major 0x33. -/
theorem decodes_major33 :
    (∀ b d a c, Decodes (.cnvMac b d a c)) ∧ (∀ b d a imm, Decodes (.cnvMacK b d a imm)) := by
  refine ⟨?_, ?_⟩ <;> intros <;>
    simp (disch := omega) only [Decodes, encodedWord, encode, List.getD_cons_zero, decodeRaw,
      mkR_belay, mkR_major, mkR_sub, mkR_d, mkR_a, mkR_c, decode33, List.getD_cons_succ, if_pos, and_true, ofNat_toNat_same]

/-- Major 0x31. -/
theorem decodes_major31 :
    (∀ b d a c, Decodes (.cnvAdd b d a c)) ∧ (∀ b d a c, Decodes (.cnvSub b d a c)) ∧ (∀ b d a c, Decodes (.cnvMul b d a c))
      ∧ (∀ b d a c, Decodes (.cnvFma b d a c)) ∧ (∀ b d a c, Decodes (.cnvMin b d a c)) ∧ (∀ b d a c, Decodes (.cnvMax b d a c))
      ∧ (∀ b d a, Decodes (.cnvMov b d a)) ∧ (∀ b d a, Decodes (.cnvMovScalar b d a)) ∧ (∀ b d a f, Decodes (.cnvSfn b d a f))
      ∧ (∀ b d a c, Decodes (.cnvBlend b d a c)) ∧ (∀ b a c, Decodes (.cnvZtest b a c)) ∧ (∀ b d m, Decodes (.cnvVis b d m))
      ∧ (∀ b d, Decodes (.cnvClr b d)) ∧ (∀ b d, Decodes (.cnvClrOnes b d)) ∧ (∀ b, Decodes (.cnvClrVis b)) := by
  refine ⟨?_, ?_, ?_, ?_, ?_, ?_, ?_, ?_, ?_, ?_, ?_, ?_, ?_, ?_, ?_⟩ <;> intros <;>
    simp (disch := omega) only [Decodes, encodedWord, encode, List.getD_cons_zero, decodeRaw,
      mkR_belay, mkR_major, mkR_sub, mkR_d, mkR_a, mkR_c, decode31, if_pos, if_neg, if_true, true_and, and_true, ofNat_toNat_same]

/-- Major 0x14. -/
theorem decodes_major14 :
    (∀ b d imm, Decodes (.movxS b d imm)) ∧ (∀ b d imm, Decodes (.movx b d imm)) := by
  refine ⟨?_, ?_⟩ <;> intros <;>
    simp (disch := omega) only [Decodes, encodedWord, encode, List.getD_cons_zero, decodeRaw,
      mkR_belay, mkR_major, mkR_sub, mkR_d, mkR_a, mkR_c, decode14, List.getD_cons_succ, if_pos, if_true, and_true, ofNat_toNat_same]

/-- Major 0x0C, each form in both its types (R104). -/
theorem decodes_packed :
    (∀ b bf d a c, Decodes (.padd b bf d a c)) ∧ (∀ b bf d a c, Decodes (.psub b bf d a c))
      ∧ (∀ b bf d a c, Decodes (.pmul b bf d a c)) ∧ (∀ b bf d a c, Decodes (.pfma b bf d a c))
      ∧ (∀ b bf d a c, Decodes (.pmin b bf d a c)) ∧ (∀ b bf d a c, Decodes (.pmax b bf d a c)) := by
  refine ⟨fun b bf d a c => ?_, fun b bf d a c => ?_, fun b bf d a c => ?_, fun b bf d a c => ?_, fun b bf d a c => ?_,
      fun b bf d a c => ?_⟩ <;> cases bf <;>
    simp (disch := omega) only [Decodes, encodedWord, encode, List.getD_cons_zero, decodeRaw,
      mkR_belay, mkR_major, mkR_sub, mkR_d, mkR_a, mkR_c, decode0C, Bool.toNat_true, Bool.toNat_false, bitOf_eq_true, bitOf_eq_false,
          ofNat_toNat_same]

/-- The scans of major 0x10 (R112). -/
theorem decodes_scans :
    (∀ b d a o ex, Decodes (.scana b d a o ex)) ∧ (∀ b d a o ex, Decodes (.fscana b d a o ex)) := by
  refine ⟨fun b d a o ex => ?_, fun b d a o ex => ?_⟩ <;> cases ex <;>
    simp (disch := omega) only [Decodes, encodedWord, encode, List.getD_cons_zero, decodeRaw,
      mkR_belay, mkR_major, mkR_sub, mkR_d, mkR_a, mkR_c, decode10, Bool.toNat_true, Bool.toNat_false, if_pos, bitOf_eq_true,
          bitOf_eq_false, ofNat_packed_low, ofNat_toNat_same]

/-- A form of major 0x26 with a flag. -/
theorem decodes_pref :
    (∀ b l a c, Decodes (.pref b l a c)) := by
  intro b l a c
  cases l <;>
    simp (disch := omega) only [Decodes, encodedWord, encode, List.getD_cons_zero, decodeRaw,
      mkR_belay, mkR_major, mkR_sub, mkR_d, mkR_a, mkR_c, decode26, Bool.toNat_true, Bool.toNat_false, if_pos, bitOf_eq_true,
          bitOf_eq_false, ofNat_toNat_same]

/-- A form of major 0x3B with a flag. -/
theorem decodes_tagRd :
    (∀ b d a r, Decodes (.tagRd b d a r)) := by
  intro b d a r
  cases r <;>
    simp (disch := omega) only [Decodes, encodedWord, encode, List.getD_cons_zero, decodeRaw,
      mkR_belay, mkR_major, mkR_sub, mkR_d, mkR_a, mkR_c, decode3B, Bool.toNat_true, Bool.toNat_false, if_pos, bitOf_eq_true,
          bitOf_eq_false, ofNat_toNat_same]

/-- A form of major 0x3C with a flag. -/
theorem decodes_frameRel :
    (∀ b e a c, Decodes (.frameRel b e a c)) := by
  intro b e a c
  cases e <;>
    simp (disch := omega) only [Decodes, encodedWord, encode, List.getD_cons_zero, decodeRaw,
      mkR_belay, mkR_major, mkR_sub, mkR_d, mkR_a, mkR_c, decode3C, Bool.toNat_true, Bool.toNat_false, if_pos, bitOf_eq_true,
          bitOf_eq_false, ofNat_toNat_same]

/-- A form of major 0x39 with a flag. -/
theorem decodes_accSt :
    (∀ b d a f sat, Decodes (.accSt b d a f sat)) := by
  intro b d a f sat
  cases sat <;>
    simp (disch := omega) only [Decodes, encodedWord, encode, List.getD_cons_zero, decodeRaw,
      mkR_belay, mkR_major, mkR_sub, mkR_d, mkR_a, mkR_c, decode39, Bool.toNat_true, Bool.toNat_false, if_pos, bitOf_eq_true,
          bitOf_eq_false, ofNat_packed_low, ofNat_toNat_same]

/-- A form of major 0x3D with a flag. -/
theorem decodes_bankClose :
    (∀ b w, Decodes (.bankClose b w)) := by
  intro b w
  cases w <;>
    simp (disch := omega) only [Decodes, encodedWord, encode, List.getD_cons_zero, decodeRaw,
      mkR_belay, mkR_major, mkR_sub, mkR_d, mkR_a, mkR_c, decode3D, Bool.toNat_true, Bool.toNat_false, if_pos, true_and, bitOf_eq_true,
          bitOf_eq_false]

/-- The commands of major 0x3D (R364). -/
theorem decodes_bankCommands :
    (∀ b f l a c, Decodes (.bankDot b f l a c)) ∧ (∀ b f l a c, Decodes (.bankAxpy b f l a c))
      ∧ (∀ b f l a c, Decodes (.bankScal b f l a c)) ∧ (∀ b f l a c, Decodes (.bankSum b f l a c))
      ∧ (∀ b f l a c, Decodes (.bankMax b f l a c)) ∧ (∀ b f l a c, Decodes (.bankFill b f l a c))
      ∧ (∀ b f l a c, Decodes (.bankCopy b f l a c)) := by
  refine ⟨fun b f l a c => ?_, fun b f l a c => ?_, fun b f l a c => ?_, fun b f l a c => ?_, fun b f l a c => ?_, fun b f l a c => ?_,
      fun b f l a c => ?_⟩ <;> cases l <;>
    simp (disch := omega) only [Decodes, encodedWord, encode, List.getD_cons_zero, decodeRaw,
      mkR_belay, mkR_major, mkR_sub, mkR_d, mkR_a, mkR_c, decode3D, Bool.toNat_true, Bool.toNat_false, if_pos, bitOf_eq_true,
          bitOf_eq_false, ofNat_packed_low, ofNat_toNat_same]

/-- Major 0x0F (R107). -/
theorem decodes_cvt :
    (∀ b dst d a rnd sat src, Decodes (.cvt b dst d a rnd sat src)) := by
  intro b dst d a rnd sat src
  have hsat := sat.toNat_lt
  have hrnd : BitVec.ofNat 2 ((src.toNat + sat.toNat * 16 + rnd.toNat * 32) / 32) = rnd := ofNat_eq_of_mod (by omega)
  have hsatBit : bitOf ((src.toNat + sat.toNat * 16 + rnd.toNat * 32) / 16) = sat := bitOf_of_mod (by omega)
  have hsrc : BitVec.ofNat 4 (src.toNat + sat.toNat * 16 + rnd.toNat * 32) = src := ofNat_eq_of_mod (by omega)
  simp (disch := omega) only [Decodes, encodedWord, encode, List.getD_cons_zero, decodeRaw,
      mkR_belay, mkR_major, mkR_sub, mkR_d, mkR_a, mkR_c, hrnd, hsatBit, hsrc, ofNat_toNat_same]

/-- SMP and SMP.L of major 0x2A (R278). -/
theorem decodes_samples :
    (∀ b d a n k, Decodes (.smp b d a n k)) ∧ (∀ b d a n k, Decodes (.smpL b d a n k)) := by
  refine ⟨fun b d a n k => ?_, fun b d a n k => ?_⟩ <;>
    simp (disch := omega) only [Decodes, encodedWord, encode, List.getD_cons_zero, decodeRaw,
      mkR_belay, mkR_major, mkR_sub, mkR_d, mkR_a, mkR_c, decode2A, ofNat_packed_low, ofNat_packed_high, ofNat_toNat_same]

/-- CNV.CMP of major 0x31 (R136). -/
theorem decodes_cnvCmp :
    (∀ b d k a c t, Decodes (.cnvCmp b d k a c t)) := by
  intros
  simp (disch := omega) only [Decodes, encodedWord, encode, List.getD_cons_zero, decodeRaw,
      mkR_belay, mkR_major, mkR_sub, mkR_d, mkR_a, mkR_c, decode31, if_pos, ofNat_packed_low, ofNat_packed_high, ofNat_toNat_same]

/-- BKPT of major 0x3E (R349). -/
theorem decodes_bkpt :
    (∀ b k, Decodes (.bkpt b k)) := by
  intro b k
  have hsub : (mkW b 62 (2 * 2097152 + k.toNat)).toNat / 2097152 % 16 = 2 := by rw [mkW_toNat (by omega) (by omega)]; omega
  have hd : (mkW b 62 (2 * 2097152 + k.toNat)).toNat / 16384 % 128 = 0 := by rw [mkW_toNat (by omega) (by omega)]; omega
  have hk : BitVec.ofNat 14 ((mkW b 62 (2 * 2097152 + k.toNat)).toNat / 128 % 128 * 128 + (mkW b 62 (2 * 2097152 + k.toNat)).toNat % 128) = k :=
    ofNat_eq_of_mod (by rw [mkW_toNat (by omega) (by omega)]; omega)
  simp (disch := omega) only [Decodes, encodedWord, encode, List.getD_cons_zero, decodeRaw, mkW_belay, mkW_major, hsub, hd, hk, decode3E,
      if_true]

/-- Majors 0x16 and 0x17 (R74). -/
theorem decodes_branches :
    (∀ b cc disp, Decodes (.bra b cc disp)) ∧ (∀ b cc disp, Decodes (.call b cc disp)) := by
  refine ⟨fun b cc disp => ?_, fun b cc disp => ?_⟩
  case refine_1 =>
    have hcc : BitVec.ofNat 4 ((mkW b 22 (cc.toNat * 2097152 + disp.toNat)).toNat / 2097152 % 16) = cc :=
      ofNat_eq_of_mod (by rw [mkW_toNat (by omega) (by omega)]; omega)
    have hdisp : BitVec.ofNat 21 (mkW b 22 (cc.toNat * 2097152 + disp.toNat)).toNat = disp :=
      ofNat_eq_of_mod (by rw [mkW_toNat (by omega) (by omega)]; omega)
    simp (disch := omega) only [Decodes, encodedWord, encode, List.getD_cons_zero, decodeRaw, mkW_belay, mkW_major, hcc, hdisp]
  case refine_2 =>
    have hcc : BitVec.ofNat 4 ((mkW b 23 (cc.toNat * 2097152 + disp.toNat)).toNat / 2097152 % 16) = cc :=
      ofNat_eq_of_mod (by rw [mkW_toNat (by omega) (by omega)]; omega)
    have hdisp : BitVec.ofNat 21 (mkW b 23 (cc.toNat * 2097152 + disp.toNat)).toNat = disp :=
      ofNat_eq_of_mod (by rw [mkW_toNat (by omega) (by omega)]; omega)
    simp (disch := omega) only [Decodes, encodedWord, encode, List.getD_cons_zero, decodeRaw, mkW_belay, mkW_major, hcc, hdisp]

/-- Majors 0x03 to 0x06 (R74). -/
theorem decodes_immediates :
    (∀ b d a imm, Decodes (.addi b d a imm)) ∧ (∀ b d a imm, Decodes (.andi b d a imm)) ∧ (∀ b d a imm, Decodes (.ori b d a imm))
      ∧ (∀ b d a imm, Decodes (.xori b d a imm)) := by
  refine ⟨?_, ?_, ?_, ?_⟩ <;> intros <;>
    simp (disch := omega) only [Decodes, encodedWord, encode, List.getD_cons_zero, decodeRaw, mkI_belay, mkI_major, mkI_d, mkI_a,
        mkI_imm, decodeI, ofNat_toNat_same]

/-- Major 0x07, whose immediate holds the kind of shift (R75). -/
theorem decodes_shiftImmediates :
    (∀ b d a n, Decodes (.shli b d a n)) ∧ (∀ b d a n, Decodes (.shri b d a n)) ∧ (∀ b d a n, Decodes (.sari b d a n)) := by
  refine ⟨fun b d a n => ?_, fun b d a n => ?_, fun b d a n => ?_⟩
  case refine_1 =>
    have hkind : (n.toNat + 0) / 32 = 0 := by omega
    simp (disch := omega) only [Decodes, encodedWord, encode, List.getD_cons_zero, decodeRaw, mkI_belay, mkI_major, mkI_d, mkI_a,
        mkI_imm, decodeI, hkind, ofNat_below, ofNat_toNat_same]
  case refine_2 =>
    have hkind : (n.toNat + 32) / 32 = 1 := by omega
    simp (disch := omega) only [Decodes, encodedWord, encode, List.getD_cons_zero, decodeRaw, mkI_belay, mkI_major, mkI_d, mkI_a,
        mkI_imm, decodeI, hkind, ofNat_below, ofNat_toNat_same]
  case refine_3 =>
    have hkind : (n.toNat + 64) / 32 = 2 := by omega
    simp (disch := omega) only [Decodes, encodedWord, encode, List.getD_cons_zero, decodeRaw, mkI_belay, mkI_major, mkI_d, mkI_a,
        mkI_imm, decodeI, hkind, ofNat_below, ofNat_toNat_same]

/-- Major 0x08 (R74). -/
theorem decodes_movi :
    (∀ b d imm, Decodes (.movi b d imm)) := by
  intro b d imm
  have hd : (mkW b 8 (d.toNat * 262144 + imm.toNat)).toNat / 262144 % 128 = d.toNat := by rw [mkW_toNat (by omega) (by omega)]; omega
  have himm : BitVec.ofNat 18 ((mkW b 8 (d.toNat * 262144 + imm.toNat)).toNat / 2048 % 128 * 2048
      + (mkW b 8 (d.toNat * 262144 + imm.toNat)).toNat % 2048) = imm :=
    ofNat_eq_of_mod (by rw [mkW_toNat (by omega) (by omega)]; omega)
  simp (disch := omega) only [Decodes, encodedWord, encode, List.getD_cons_zero, decodeRaw, mkW_belay, mkW_major, hd, himm, decodeI,
      ofNat_toNat_same]

/-- Major 0x09 (R99). -/
theorem decodes_cmpi :
    (∀ b cc p a imm, Decodes (.cmpi b cc p a imm)) := by
  intro b cc p a imm
  have hcc : BitVec.ofNat 4 ((cc.toNat * 8 + p.toNat) / 8) = cc := ofNat_eq_of_mod (by omega)
  have hp : BitVec.ofNat 3 (cc.toNat * 8 + p.toNat) = p := ofNat_eq_of_mod (by omega)
  simp (disch := omega) only [Decodes, encodedWord, encode, List.getD_cons_zero, decodeRaw, mkI_belay, mkI_major, mkI_d, mkI_a, mkI_imm,
      decodeI, hcc, hp, ofNat_toNat_same]

/-- Major 0x13 but its shifts and SMOVI (R75). -/
theorem decodes_scalarImmediates :
    (∀ b d a imm, Decodes (.saddi b d a imm)) ∧ (∀ b d a imm, Decodes (.sandi b d a imm)) ∧ (∀ b d a imm, Decodes (.sori b d a imm))
      ∧ (∀ b d a imm, Decodes (.sxori b d a imm)) ∧ (∀ b a imm, Decodes (.scmpi b a imm)) := by
  refine ⟨?_, ?_, ?_, ?_, ?_⟩ <;> intros <;>
    simp (disch := omega) only [Decodes, encodedWord, encode, List.getD_cons_zero, decodeRaw, mkS_belay, mkS_major, mkS_sop, mkS_d,
        mkS_a, mkS_imm, decode13, if_true, ofNat_toNat_same]

/-- The shifts of major 0x13 (R75). -/
theorem decodes_scalarShiftImmediates :
    (∀ b d a n, Decodes (.sshli b d a n)) ∧ (∀ b d a n, Decodes (.sshri b d a n)) ∧ (∀ b d a n, Decodes (.ssari b d a n)) := by
  refine ⟨fun b d a n => ?_, fun b d a n => ?_, fun b d a n => ?_⟩
  case refine_1 =>
    have hkind : (n.toNat + 0) / 32 = 0 := by omega
    simp (disch := omega) only [Decodes, encodedWord, encode, List.getD_cons_zero, decodeRaw, mkS_belay, mkS_major, mkS_sop, mkS_d,
        mkS_a, mkS_imm, decode13, hkind, ofNat_below, ofNat_toNat_same]
  case refine_2 =>
    have hkind : (n.toNat + 32) / 32 = 1 := by omega
    simp (disch := omega) only [Decodes, encodedWord, encode, List.getD_cons_zero, decodeRaw, mkS_belay, mkS_major, mkS_sop, mkS_d,
        mkS_a, mkS_imm, decode13, hkind, ofNat_below, ofNat_toNat_same]
  case refine_3 =>
    have hkind : (n.toNat + 64) / 32 = 2 := by omega
    simp (disch := omega) only [Decodes, encodedWord, encode, List.getD_cons_zero, decodeRaw, mkS_belay, mkS_major, mkS_sop, mkS_d,
        mkS_a, mkS_imm, decode13, hkind, ofNat_below, ofNat_toNat_same]

/-- SMOVI of major 0x13 (R75). -/
theorem decodes_smovi :
    (∀ b d imm, Decodes (.smovi b d imm)) := by
  intro b d imm
  have hsop : (mkW b 19 (5 * 4194304 + d.toNat * 65536 + imm.toNat)).toNat / 4194304 % 8 = 5 := by
    rw [mkW_toNat (by omega) (by omega)]; omega
  have hd : (mkW b 19 (5 * 4194304 + d.toNat * 65536 + imm.toNat)).toNat / 65536 % 64 = d.toNat := by
    rw [mkW_toNat (by omega) (by omega)]; omega
  have himm : BitVec.ofNat 16 ((mkW b 19 (5 * 4194304 + d.toNat * 65536 + imm.toNat)).toNat / 1024 % 64 * 1024
      + (mkW b 19 (5 * 4194304 + d.toNat * 65536 + imm.toNat)).toNat % 1024) = imm :=
    ofNat_eq_of_mod (by rw [mkW_toNat (by omega) (by omega)]; omega)
  simp (disch := omega) only [Decodes, encodedWord, encode, List.getD_cons_zero, decodeRaw, mkW_belay, mkW_major, hsop, hd, himm,
      decode13, ofNat_toNat_same]

/-- Majors 0x20, 0x21 and 0x24 (R76). -/
theorem decodes_accesses :
    (∀ b q t d a s, Decodes (.ld b q t d a s)) ∧ (∀ b q t d a s off, Decodes (.ldOffset b q t d a s off))
      ∧ (∀ b q t d a s, Decodes (.st b q t d a s)) ∧ (∀ b q t d a s off, Decodes (.stOffset b q t d a s off))
      ∧ (∀ b q t d a s, Decodes (.lda b q t d a s)) ∧ (∀ b q t d a s off, Decodes (.ldaOffset b q t d a s off)) := by
  refine ⟨?_, ?_, ?_, ?_, ?_, ?_⟩ <;> intros <;>
    simp (disch := omega) only [Decodes, encodedWord, encode, List.getD_cons_zero, decodeRaw, mkM_belay, mkM_major, mkM_q, mkM_t, mkM_d,
        mkM_a, mkM_s,
      mkM_e, decodeM, List.getD_cons_succ, if_true, if_neg, ofNat_toNat_same]

/-- Majors 0x22 and 0x23 (R264). -/
theorem decodes_scratchpadAccesses :
    (∀ b w d a t r, Decodes (.ldp b w d a t r)) ∧ (∀ b w d a t r off, Decodes (.ldpOffset b w d a t r off))
      ∧ (∀ b w d a t r, Decodes (.stp b w d a t r)) ∧ (∀ b w d a t r off, Decodes (.stpOffset b w d a t r off)) := by
  refine ⟨fun b w d a t r => ?_, fun b w d a t r off => ?_, fun b w d a t r => ?_, fun b w d a t r off => ?_⟩ <;> cases r <;>
    simp (disch := omega) only [Decodes, encodedWord, encode, List.getD_cons_zero, decodeRaw, mkM_belay, mkM_major, mkM_q, mkM_t, mkM_d,
        mkM_a, mkM_s,
      mkM_e, decodeM, List.getD_cons_succ, Bool.toNat_true, Bool.toNat_false, if_pos, if_true, if_neg, true_and, ofNat_above,
          bitOf_eq_true, bitOf_eq_false, ofNat_toNat_same]

/-- Major 0x27 (R76). -/
theorem decodes_scalarAccesses :
    (∀ b q w d s, Decodes (.sld b q w d s)) ∧ (∀ b q w d s off, Decodes (.sldOffset b q w d s off))
      ∧ (∀ b q w d s, Decodes (.sst b q w d s)) ∧ (∀ b q w d s off, Decodes (.sstOffset b q w d s off)) := by
  refine ⟨?_, ?_, ?_, ?_⟩ <;> intros <;>
    simp (disch := omega) only [Decodes, encodedWord, encode, List.getD_cons_zero, decodeRaw, mkM_belay, mkM_major, mkM_q, mkM_t, mkM_d,
        mkM_a, mkM_s,
      mkM_e, decodeM, List.getD_cons_succ, if_pos, if_true, if_neg, true_and, Nat.add_zero, ofNat_below, ofNat_toNat_same]

/-- Major 0x25 (R269). -/
theorem decodes_atom :
    (∀ b q d a s op w nr c, Decodes (.atom b q d a s op w nr c)) := by
  intro b q d a s op w nr c
  have hw := w.toNat_lt
  have hnr := nr.toNat_lt
  have hx : (mkAtom op.toNat w nr c.toNat).toNat = _ := mkAtom_toNat op.isLt c.isLt
  have hop : BitVec.ofNat 4 ((mkAtom op.toNat w nr c.toNat).toNat / 268435456) = op := ofNat_eq_of_mod (by rw [hx]; omega)
  have hwide : bitOf ((mkAtom op.toNat w nr c.toNat).toNat / 134217728) = w := bitOf_of_mod (by rw [hx]; omega)
  have hquiet : bitOf ((mkAtom op.toNat w nr c.toNat).toNat / 67108864) = nr := bitOf_of_mod (by rw [hx]; omega)
  have hc : BitVec.ofNat 7 (mkAtom op.toNat w nr c.toNat).toNat = c := ofNat_eq_of_mod (by rw [hx]; omega)
  have hzero : (mkAtom op.toNat w nr c.toNat).toNat / 128 % 524288 = 0 := by rw [hx]; omega
  simp (disch := omega) only [Decodes, encodedWord, encode, List.getD_cons_zero, decodeRaw, mkM_belay, mkM_major, mkM_q, mkM_t, mkM_d,
      mkM_a, mkM_s,
      mkM_e, List.getD_cons_succ, decodeAtom, hzero, hop, hwide, hquiet, hc, if_true, true_and, ofNat_toNat_same]

/-- The fields of the second word of the copy family (R86). -/
theorem mkCpy_fields {dir ord : Bool} {sw : BitVec 3} {follow x : Nat} (hfollow : follow < 2)
    (hx : (mkCpy dir.toNat follow ord.toNat sw.toNat).toNat = x) :
    x % 16777216 = 0 ∧ x / 1073741824 < 2 ∧ x / 134217728 % 4 < 2 ∧ x / 536870912 % 2 = follow ∧ bitOf (x / 1073741824) = dir
      ∧ bitOf (x / 134217728) = ord ∧ BitVec.ofNat 3 (x / 16777216) = sw := by
  have hdir := dir.toNat_lt
  have hord := ord.toNat_lt
  rw [mkCpy_toNat hdir hfollow hord sw.isLt] at hx
  exact ⟨by omega, by omega, by omega, by omega, bitOf_of_mod (by omega), bitOf_of_mod (by omega), ofNat_eq_of_mod (by omega)⟩

/-- Major 0x28 without FOLLOW (R86). -/
theorem decodes_copies :
    (∀ b d a c dir ord sw, Decodes (.cpy b d a c dir ord sw)) ∧ (∀ b d a c dir ord sw, Decodes (.cpy2d b d a c dir ord sw))
      ∧ (∀ b d a c dir ord sw, Decodes (.cpyT b d a c dir ord sw)) := by
  refine ⟨fun b d a c dir ord sw => ?_, fun b d a c dir ord sw => ?_, fun b d a c dir ord sw => ?_⟩ <;>
    obtain ⟨hzero, hdirOk, hordOk, hfollow, hdir, hord, hsw⟩ := mkCpy_fields (dir := dir) (ord := ord) (sw := sw) Nat.zero_lt_two rfl <;>
    simp (disch := omega) only [Decodes, encodedWord, encode, List.getD_cons_zero, decodeRaw,
      mkR_belay, mkR_major, mkR_sub, mkR_d, mkR_a, mkR_c, List.getD_cons_succ, decodeCpy, if_pos, hzero, hdirOk, hordOk, hfollow, hdir,
          hord, hsw, true_and, and_true, if_true, ofNat_toNat_same]

/-- The fields of the second word of PUT, GET and PSIG (R87). -/
theorem mkPut_fields {win : BitVec 6} {tc ord : Bool} {dev : BitVec 22} {x : Nat}
    (hx : (mkPut win.toNat tc.toNat ord.toNat dev.toNat).toNat = x) :
    (x / 16777216 % 4 < 2 ∧ x / 4194304 % 4 < 2) ∧ BitVec.ofNat 6 (x / 67108864) = win ∧ bitOf (x / 16777216) = tc
      ∧ bitOf (x / 4194304) = ord ∧ BitVec.ofNat 22 x = dev := by
  have htc := tc.toNat_lt
  have hord := ord.toNat_lt
  rw [mkPut_toNat win.isLt htc hord dev.isLt] at hx
  exact ⟨by omega, ofNat_eq_of_mod (by omega), bitOf_of_mod (by omega), bitOf_of_mod (by omega), ofNat_eq_of_mod (by omega)⟩

/-- Major 0x29 (R87). -/
theorem decodes_remoteCopies :
    (∀ b d a c win tc ord dev, Decodes (.put b d a c win tc ord dev))
      ∧ (∀ b d a c win tc ord dev, Decodes (.get b d a c win tc ord dev))
      ∧ (∀ b d a c win tc ord dev, Decodes (.psig b d a c win tc ord dev)) := by
  refine ⟨fun b d a c win tc ord dev => ?_, fun b d a c win tc ord dev => ?_, fun b d a c win tc ord dev => ?_⟩ <;>
    obtain ⟨hok, hwin, htc, hord, hdev⟩ := mkPut_fields (win := win) (tc := tc) (ord := ord) (dev := dev) rfl <;>
    simp (disch := omega) only [Decodes, encodedWord, encode, List.getD_cons_zero, decodeRaw,
      mkR_belay, mkR_major, mkR_sub, mkR_d, mkR_a, mkR_c, List.getD_cons_succ, decodePut, if_pos, hok, hwin, htc, hord, hdev, true_and,
          if_true, ofNat_toNat_same]

/-- The fields of the second word of MMA and MMA.SP (R88). -/
theorem mkMma_fields {da db : Bool} {kg : BitVec 6} {fbr : BitVec 15} {x : Nat} (hx : (mkMma da db kg.toNat fbr.toNat).toNat = x) :
    x % 512 = 0 ∧ bitOf (x / 2147483648) = da ∧ bitOf (x / 1073741824) = db ∧ BitVec.ofNat 6 (x / 16777216) = kg
      ∧ BitVec.ofNat 15 (x / 512) = fbr := by
  have hda := da.toNat_lt
  have hdb := db.toNat_lt
  rw [mkMma_toNat kg.isLt fbr.isLt] at hx
  exact ⟨by omega, bitOf_of_mod (by omega), bitOf_of_mod (by omega), ofNat_eq_of_mod (by omega), ofNat_eq_of_mod (by omega)⟩

/-- Major 0x38 (R88). -/
theorem decodes_mma :
    (∀ b d a c da db kg fbr, Decodes (.mma b d a c da db kg fbr)) ∧ (∀ b d a c da db kg fbr, Decodes (.mmaSp b d a c da db kg fbr)) := by
  refine ⟨fun b d a c da db kg fbr => ?_, fun b d a c da db kg fbr => ?_⟩ <;>
    obtain ⟨hzero, hda, hdb, hkg, hfbr⟩ := mkMma_fields (da := da) (db := db) (kg := kg) (fbr := fbr) rfl <;>
    simp (disch := omega) only [Decodes, encodedWord, encode, List.getD_cons_zero, decodeRaw,
      mkR_belay, mkR_major, mkR_sub, mkR_d, mkR_a, mkR_c, List.getD_cons_succ, decodeMma, hzero, hda, hdb, hkg, hfbr, if_true,
          ofNat_toNat_same]

/-- A copy with FOLLOW, of one of the three kinds of R86, and its MMA (R88). -/
theorem decodes_cpyFollowMma (b b2 kind d a c ord sw sp md ma mc da db kg fbr) (hkind : kind.toNat < 3) :
    Decodes (.cpyFollowMma b b2 kind d a c ord sw sp md ma mc da db kg fbr) := by
  obtain ⟨hzero, hdirOk, hordOk, hfollow, -, hord, hsw⟩ := mkCpy_fields (dir := false) (ord := ord) (sw := sw) Nat.one_lt_two rfl
  obtain ⟨hzero', hda, hdb, hkg, hfbr⟩ := mkMma_fields (da := da) (db := db) (kg := kg) (fbr := fbr) rfl
  have hdir : (mkCpy false.toNat 1 ord.toNat sw.toNat).toNat / 1073741824 = 0 := by
    have hlt := ord.toNat_lt
    rw [Bool.toNat_false, mkCpy_toNat Nat.zero_lt_two Nat.one_lt_two hlt sw.isLt]
    omega
  have hsp := sp.toNat_lt
  have hmd : BitVec.ofNat 7 ((mkR b2 56 sp.toNat md.toNat ma.toNat mc.toNat).toNat / 16384) = md :=
    ofNat_eq_of_mod (mkR_d (by omega) (by omega) md.isLt ma.isLt mc.isLt)
  have hma : BitVec.ofNat 7 ((mkR b2 56 sp.toNat md.toNat ma.toNat mc.toNat).toNat / 128) = ma :=
    ofNat_eq_of_mod (mkR_a (by omega) (by omega) md.isLt ma.isLt mc.isLt)
  have hmc : BitVec.ofNat 7 (mkR b2 56 sp.toNat md.toNat ma.toNat mc.toNat).toNat = mc :=
    ofNat_eq_of_mod (mkR_c (by omega) (by omega) md.isLt ma.isLt mc.isLt)
  have hspBit : bitOf ((mkR b2 56 sp.toNat md.toNat ma.toNat mc.toNat).toNat / 2097152) = sp :=
    bitOf_of_mod (by have hsub := mkR_sub (b := b2) (maj := 56) (by omega) (by omega : sp.toNat < 16) md.isLt ma.isLt mc.isLt; omega)
  rw [Bool.toNat_false] at hzero hdirOk hordOk hfollow hord hsw hdir
  simp (disch := omega) only [Decodes, encodedWord, encode, List.getD_cons_zero, decodeRaw,
      mkR_belay, mkR_major, mkR_sub, mkR_d, mkR_a, mkR_c, List.getD_cons_succ, decodeCpy, if_pos, if_neg, hzero, hordOk, hfollow, hord,
          hsw, hdir, hzero', hda, hdb, hkg, hfbr,
      true_and, and_true, hmd, hma, hmc, hspBit, ofNat_toNat_same]

/-- The kind of a well-formed copy with FOLLOW is one of the three that R86 gives. -/
theorem kind_le_of_wf {b b2 : Bool} {kind : BitVec 2} {d a c : BitVec 6} {ord : Bool} {sw : BitVec 3} {sp : Bool}
    {md ma mc : BitVec 7} {da db : Bool} {kg : BitVec 6} {fbr : BitVec 15}
    (h : (Instr.cpyFollowMma b b2 kind d a c ord sw sp md ma mc da db kg fbr).wf = true) : kind.toNat ≤ 2 := by
  by_contra hkind
  rw [Instr.wf, Instr.violation, if_pos hkind] at h
  split at h <;> exact absurd h Bool.false_ne_true

/-- Every well-formed instruction that has an encoding is given back by the tables of its major. -/
theorem decodes_of_wf (i : Instr) (hword : i.isWord = true) (hwf : i.wf = true) : Decodes i := by
  cases i
  case cpyFollowMma =>
    exact decodes_cpyFollowMma _ _ _ _ _ _ _ _ _ _ _ _ _ _ _ _ (Nat.lt_succ_of_le (kind_le_of_wf hwf))
  all_goals first
    | exact absurd hword Bool.false_ne_true
    | simp only [decodes_major01, decodes_major02, decodes_major0A, decodes_major0D, decodes_major0B, decodes_major0E, decodes_major10,
      decodes_major11, decodes_major12, decodes_major15, decodes_major18, decodes_major19, decodes_major26, decodes_major2A,
      decodes_major2B, decodes_major32, decodes_major34, decodes_major35, decodes_major39, decodes_major3A, decodes_major3B,
      decodes_major3C, decodes_major3D, decodes_major3E, decodes_major30, decodes_major33, decodes_major31, decodes_major14,
      decodes_packed, decodes_scans, decodes_pref, decodes_tagRd, decodes_frameRel, decodes_accSt, decodes_bankClose,
      decodes_bankCommands, decodes_cvt, decodes_samples, decodes_cnvCmp, decodes_bkpt, decodes_branches, decodes_immediates,
      decodes_shiftImmediates, decodes_movi, decodes_cmpi, decodes_scalarImmediates, decodes_scalarShiftImmediates,
      decodes_smovi, decodes_accesses, decodes_scratchpadAccesses, decodes_scalarAccesses, decodes_atom, decodes_copies,
      decodes_remoteCopies, decodes_mma]

/-- A well-formed instruction is what its words decode to. -/
theorem decodeWords_encodedWord {i : Instr} (hword : i.isWord = true) (hwf : i.wf = true) :
    decodeWords (encodedWord i 0) (encodedWord i 1) (encodedWord i 2) (encodedWord i 3) = .ok i := by
  have hraw : decodeRaw (encodedWord i 0) (encodedWord i 1) (encodedWord i 2) (encodedWord i 3) = .ok i := decodes_of_wf i hword hwf
  have hok : i.violation = none := by rwa [Instr.wf, beq_iff_eq] at hwf
  simp only [decodeWords, hraw, hok]

end Sys2Proof
end

section
/-! What the decoder accepts is the encoding of what it gives (R69, R73, R90): the converse of decoding an encoding, table by table,
and O1 and O2. -/

namespace Sys2Proof

set_option Elab.async false

/-- Whatever instruction the decoder answers, its encoding is the given words. -/
def Encodes (r : Except Reject Instr) (ws : List Word) : Prop := ∀ i, r = .ok i → encode i = ws ∧ i.isWord = true

section Encodes

variable {ws : List Word} {r : Reject} {i : Instr} {x y : Except Reject Instr} {p : Prop} [Decidable p]

theorem Encodes.error : Encodes (.error r) ws := fun _ h => nomatch h

theorem Encodes.ok (h : encode i = ws) (hword : i.isWord = true) : Encodes (.ok i) ws := by
  intro j hj
  cases hj
  exact ⟨h, hword⟩

theorem Encodes.ite (hx : p → Encodes x ws) (hy : ¬ p → Encodes y ws) : Encodes (if p then x else y) ws := by
  split
  case isTrue h => exact hx h
  case isFalse h => exact hy h

/-- A table's entry that asks something of the fields. -/
theorem Encodes.guard (h : p → encode i = ws) (hword : i.isWord = true) : Encodes (if p then .ok i else .error r) ws :=
  .ite (fun hp => .ok (h hp) hword) (fun _ => .error)

end Encodes

/-! ## The tables of the R format -/

section Tables

variable {b : Bool} {sub d a c : Nat} (hd : d < 128) (ha : a < 128) (hc : c < 128)
include hd ha hc

theorem decode01_encodes : Encodes (decode01 b sub d a c) [mkR b 0x01 sub d a c] := by
  unfold decode01
  split
  case h_11 => exact .error
  all_goals
    refine .ok ?_ rfl
    simp (disch := omega) only [encode, BitVec.toNat_ofNat, Nat.mod_eq_of_lt]

theorem decode02_encodes : Encodes (decode02 b sub d a c) [mkR b 0x02 sub d a c] := by
  unfold decode02
  split
  case h_11 | h_12 =>
    refine .guard (fun h => ?_) rfl
    simp (disch := omega) only [encode, BitVec.toNat_ofNat, Nat.mod_eq_of_lt, h]
  case h_15 => exact .error
  all_goals
    refine .ok ?_ rfl
    simp (disch := omega) only [encode, BitVec.toNat_ofNat, Nat.mod_eq_of_lt]

theorem decode0B_encodes : Encodes (decode0B b sub d a c) [mkR b 0x0B sub d a c] := by
  unfold decode0B
  split
  case h_7 | h_8 =>
    refine .guard (fun h => ?_) rfl
    simp (disch := omega) only [encode, BitVec.toNat_ofNat, Nat.mod_eq_of_lt, h]
  case h_9 => exact .error
  all_goals
    refine .ok ?_ rfl
    simp (disch := omega) only [encode, BitVec.toNat_ofNat, Nat.mod_eq_of_lt]

theorem decode0E_encodes : Encodes (decode0E b sub d a c) [mkR b 0x0E sub d a c] := by
  unfold decode0E
  split
  case h_8 =>
    refine .ok ?_ rfl
    simp (disch := omega) only [encode, BitVec.toNat_ofNat, Nat.mod_eq_of_lt]
  case h_9 => exact .error
  all_goals
    refine .guard (fun h => ?_) rfl
    simp (disch := omega) only [encode, BitVec.toNat_ofNat, Nat.mod_eq_of_lt, h]

theorem decode10_encodes : Encodes (decode10 b sub d a c) [mkR b 0x10 sub d a c] := by
  unfold decode10
  split
  case h_1 =>
    refine .ok ?_ rfl
    simp (disch := omega) only [encode, BitVec.toNat_ofNat, Nat.mod_eq_of_lt]
  case h_8 | h_9 =>
    refine .guard (fun h => ?_) rfl
    simp (disch := omega) only [encode, BitVec.toNat_ofNat, toNat_bitOf, Nat.mod_eq_of_lt]
    congr 3
    omega
  case h_10 => exact .error
  all_goals
    refine .guard (fun h => ?_) rfl
    simp (disch := omega) only [encode, BitVec.toNat_ofNat, Nat.mod_eq_of_lt]

theorem decode11_encodes : Encodes (decode11 b sub d a c) [mkR b 0x11 sub d a c] := by
  unfold decode11
  split
  case h_9 => exact .error
  all_goals
    refine .guard (fun h => ?_) rfl
    simp (disch := omega) only [encode, BitVec.toNat_ofNat, Nat.mod_eq_of_lt, h]

theorem decode12_encodes : Encodes (decode12 b sub d a c) [mkR b 0x12 sub d a c] := by
  unfold decode12
  split
  case h_13 => exact .error
  all_goals
    refine .guard (fun h => ?_) rfl
    simp (disch := omega) only [encode, BitVec.toNat_ofNat, Nat.mod_eq_of_lt, h]

theorem decode15_encodes : Encodes (decode15 b sub d a c) [mkR b 0x15 sub d a c] := by
  unfold decode15
  split
  case h_7 => exact .error
  all_goals
    refine .guard (fun h => ?_) rfl
    simp (disch := omega) only [encode, BitVec.toNat_ofNat, Nat.mod_eq_of_lt, h]

theorem decode18_encodes : Encodes (decode18 b sub d a c) [mkR b 0x18 sub d a c] := by
  unfold decode18
  split
  case h_10 => exact .error
  all_goals
    refine .guard (fun h => ?_) rfl
    simp (disch := omega) only [encode, BitVec.toNat_ofNat, Nat.mod_eq_of_lt, h]

theorem decode19_encodes : Encodes (decode19 b sub d a c) [mkR b 0x19 sub d a c] := by
  unfold decode19
  split
  case h_8 => exact .error
  all_goals
    refine .guard (fun h => ?_) rfl
    simp (disch := omega) only [encode, BitVec.toNat_ofNat, Nat.mod_eq_of_lt, h]

theorem decode26_encodes : Encodes (decode26 b sub d a c) [mkR b 0x26 sub d a c] := by
  unfold decode26
  split
  case h_6 =>
    refine .guard (fun h => ?_) rfl
    simp (disch := omega) only [encode, BitVec.toNat_ofNat, toNat_bitOf, Nat.mod_eq_of_lt]
  case h_9 => exact .error
  all_goals
    refine .guard (fun h => ?_) rfl
    simp (disch := omega) only [encode, BitVec.toNat_ofNat, Nat.mod_eq_of_lt, h]

theorem decode2A_encodes : Encodes (decode2A b sub d a c) [mkR b 0x2A sub d a c] := by
  unfold decode2A
  split
  case h_3 =>
    refine .guard (fun h => ?_) rfl
    simp (disch := omega) only [encode, BitVec.toNat_ofNat, Nat.mod_eq_of_lt]
  case h_4 => exact .error
  all_goals
    refine .ok ?_ rfl
    simp (disch := omega) only [encode, BitVec.toNat_ofNat, Nat.mod_eq_of_lt]
    congr 3
    omega

theorem decode2B_encodes : Encodes (decode2B b sub d a c) [mkR b 0x2B sub d a c] := by
  unfold decode2B
  split
  case h_3 => exact .error
  all_goals
    refine .guard (fun h => ?_) rfl
    simp (disch := omega) only [encode, BitVec.toNat_ofNat, Nat.mod_eq_of_lt]

theorem decode31_encodes : Encodes (decode31 b sub d a c) [mkR b 0x31 sub d a c] := by
  unfold decode31
  split
  case h_9 =>
    refine .guard (fun h => ?_) rfl
    simp (disch := omega) only [encode, BitVec.toNat_ofNat, Nat.mod_eq_of_lt]
    congr 3 <;> omega
  case h_7 =>
    refine .ite (fun h => .ok ?_ rfl) (fun _ => .guard (fun h => ?_) rfl) <;>
      simp (disch := omega) only [encode, BitVec.toNat_ofNat, Nat.mod_eq_of_lt, h]
  case h_13 =>
    refine .ite (fun h => .ok ?_ rfl) (fun _ => .ite (fun h => .ok ?_ rfl) (fun _ => .guard (fun h => ?_) rfl)) <;>
      simp (disch := omega) only [encode, BitVec.toNat_ofNat, Nat.mod_eq_of_lt, h]
  case h_14 => exact .error
  all_goals
    refine .guard (fun h => ?_) rfl
    simp (disch := omega) only [encode, BitVec.toNat_ofNat, Nat.mod_eq_of_lt, h]

theorem decode32_encodes : Encodes (decode32 b sub d a c) [mkR b 0x32 sub d a c] := by
  unfold decode32
  split
  case h_6 => exact .error
  all_goals
    refine .guard (fun h => ?_) rfl
    simp (disch := omega) only [encode, BitVec.toNat_ofNat, Nat.mod_eq_of_lt, h]

theorem decode34_encodes : Encodes (decode34 b sub d a c) [mkR b 0x34 sub d a c] := by
  unfold decode34
  split
  case h_6 => exact .error
  all_goals
    refine .guard (fun h => ?_) rfl
    simp (disch := omega) only [encode, BitVec.toNat_ofNat, Nat.mod_eq_of_lt, h]

theorem decode35_encodes : Encodes (decode35 b sub d a c) [mkR b 0x35 sub d a c] := by
  unfold decode35
  split
  case h_6 => exact .error
  all_goals
    refine .guard (fun h => ?_) rfl
    simp (disch := omega) only [encode, BitVec.toNat_ofNat, Nat.mod_eq_of_lt, h]

theorem decode39_encodes : Encodes (decode39 b sub d a c) [mkR b 0x39 sub d a c] := by
  unfold decode39
  split
  case h_4 =>
    refine .guard (fun h => ?_) rfl
    simp (disch := omega) only [encode, BitVec.toNat_ofNat, toNat_bitOf, Nat.mod_eq_of_lt]
    congr 3
    omega
  case h_5 => exact .error
  all_goals
    refine .guard (fun h => ?_) rfl
    simp (disch := omega) only [encode, BitVec.toNat_ofNat, Nat.mod_eq_of_lt, h]

theorem decode3A_encodes : Encodes (decode3A b sub d a c) [mkR b 0x3A sub d a c] := by
  unfold decode3A
  split
  case h_3 => exact .error
  all_goals
    refine .guard (fun h => ?_) rfl
    simp (disch := omega) only [encode, BitVec.toNat_ofNat, Nat.mod_eq_of_lt]

theorem decode3B_encodes : Encodes (decode3B b sub d a c) [mkR b 0x3B sub d a c] := by
  unfold decode3B
  split
  case h_1 =>
    refine .guard (fun h => ?_) rfl
    simp (disch := omega) only [encode, BitVec.toNat_ofNat, toNat_bitOf, Nat.mod_eq_of_lt]
  case h_5 => exact .error
  all_goals
    refine .guard (fun h => ?_) rfl
    simp (disch := omega) only [encode, BitVec.toNat_ofNat, Nat.mod_eq_of_lt, h]

theorem decode3C_encodes : Encodes (decode3C b sub d a c) [mkR b 0x3C sub d a c] := by
  unfold decode3C
  split
  case h_10 =>
    refine .guard (fun h => ?_) rfl
    simp (disch := omega) only [encode, BitVec.toNat_ofNat, toNat_bitOf, Nat.mod_eq_of_lt]
  case h_11 => exact .error
  all_goals
    refine .guard (fun h => ?_) rfl
    simp (disch := omega) only [encode, BitVec.toNat_ofNat, Nat.mod_eq_of_lt, h]

theorem decode3D_encodes : Encodes (decode3D b sub d a c) [mkR b 0x3D sub d a c] := by
  unfold decode3D
  split
  case h_1 | h_9 | h_10 | h_11 | h_12 | h_13 =>
    refine .guard (fun h => ?_) rfl
    simp (disch := omega) only [encode, BitVec.toNat_ofNat, toNat_bitOf, Nat.mod_eq_of_lt, h]
  case h_14 => exact .error
  all_goals
    refine .guard (fun h => ?_) rfl
    simp (disch := omega) only [encode, BitVec.toNat_ofNat, toNat_bitOf, Nat.mod_eq_of_lt]
    congr 3
    omega

theorem decode3E_encodes : Encodes (decode3E b sub d a c) [mkR b 0x3E sub d a c] := by
  unfold decode3E
  split
  case h_8 => exact .error
  case h_7 =>
    refine .guard (fun h => ?_) rfl
    simp (disch := omega) only [encode, BitVec.toNat_ofNat, Nat.mod_eq_of_lt, h]
    rw [mkR_eq_mkW]
    congr 2
    omega
  all_goals
    refine .guard (fun h => ?_) rfl
    simp (disch := omega) only [encode, BitVec.toNat_ofNat, Nat.mod_eq_of_lt, h]

theorem decode0C_encodes (hsub : sub < 16) : Encodes (decode0C b sub d a c) [mkR b 0x0C sub d a c] := by
  unfold decode0C
  split
  case h_7 => exact .error
  all_goals
    refine .ok ?_ rfl
    simp (disch := omega) only [encode, BitVec.toNat_ofNat, toNat_bitOf, Nat.mod_eq_of_lt]
    congr 3
    omega

/-! ### The tables whose instructions can have a second word -/

theorem decode14_encodes {w1 : Word} : Encodes (decode14 b sub d a c w1) [mkR b 0x14 sub d a c, w1] := by
  unfold decode14
  split
  case h_3 => exact .error
  all_goals
    refine .guard (fun h => ?_) rfl
    simp (disch := omega) only [encode, BitVec.toNat_ofNat, Nat.mod_eq_of_lt, h]

theorem decode30_encodes {w1 : Word} : Encodes (decode30 b sub d a c w1)
    (if 4 ≤ sub ∧ sub ≤ 6 then [mkR b 0x30 sub d a c, w1] else [mkR b 0x30 sub d a c]) := by
  unfold decode30
  split
  case h_7 => exact .error
  all_goals
    refine .guard (fun h => ?_) rfl
    simp (disch := omega) only [encode, BitVec.toNat_ofNat, Nat.mod_eq_of_lt, h, if_pos, if_neg]

theorem decode33_encodes {w1 : Word} : Encodes (decode33 b sub d a c w1)
    (if sub = 1 then [mkR b 0x33 sub d a c, w1] else [mkR b 0x33 sub d a c]) := by
  unfold decode33
  split
  case h_3 => exact .error
  all_goals
    refine .guard (fun h => ?_) rfl
    simp (disch := omega) only [encode, BitVec.toNat_ofNat, Nat.mod_eq_of_lt, h, if_true, if_neg]

theorem decodePut_encodes {w1 : Word} : Encodes (decodePut b sub d a c w1.toNat) [mkR b 0x29 sub d a c, w1] := by
  unfold decodePut
  refine .ite (fun h => .ite (fun hx => ?_) fun _ => .error) fun _ => .error
  have hw1 : mkPut (w1.toNat / 67108864) (w1.toNat / 16777216 % 2) (w1.toNat / 4194304 % 2) (w1.toNat % 2 ^ 22) = w1 :=
    ofNat_eq_of_mod (by omega)
  split
  case h_4 => exact .error
  all_goals
    refine .ok ?_ rfl
    simp (disch := omega) only [encode, BitVec.toNat_ofNat, toNat_bitOf, Nat.mod_eq_of_lt]
    rw [hw1]

theorem decodeMma_encodes {w1 : Word} : Encodes (decodeMma b sub d a c w1.toNat) [mkR b 0x38 sub d a c, w1] := by
  unfold decodeMma
  refine .ite (fun h => ?_) fun _ => .error
  have hw1 : mkMma (bitOf (w1.toNat / 2147483648)) (bitOf (w1.toNat / 1073741824)) (w1.toNat / 16777216 % 64) (w1.toNat / 512 % 32768)
      = w1 := ofNat_eq_of_mod (by rw [toNat_bitOf, toNat_bitOf]; omega)
  split
  case h_3 => exact .error
  all_goals
    refine .ok ?_ rfl
    simp (disch := omega) only [encode, BitVec.toNat_ofNat, Nat.mod_eq_of_lt]
    exact congrArg (fun w => [_, w]) hw1

theorem decodeCpy_encodes {w1 w2 w3 : Word} : Encodes (decodeCpy b sub d a c w1.toNat w2.toNat w3.toNat)
    (if bitOf (w1.toNat / 536870912) = true then [mkR b 0x28 sub d a c, w1, w2, w3] else [mkR b 0x28 sub d a c, w1]) := by
  unfold decodeCpy
  refine .ite (fun hfields => .ite (fun hcodes => .ite (fun hsingle => ?plain) fun hfollow => .ite (fun hmma => .ok ?follow rfl)
    fun _ => .error) fun _ => .error) fun _ => .ite (fun _ => .error) fun _ => .error
  case plain =>
    have hw1 : mkCpy (w1.toNat / 1073741824) 0 (w1.toNat / 134217728 % 2) (w1.toNat / 16777216 % 2 ^ 3) = w1 :=
      have hhigh : w1.toNat / 134217728 = 8 * (w1.toNat / 1073741824) + w1.toNat / 134217728 % 2 := by omega
      ofNat_eq_of_mod (by omega)
    have hbit : bitOf (w1.toNat / 536870912) = false := bitOf_of_mod hsingle
    rw [hbit, if_neg Bool.false_ne_true]
    split
    case' h_3 hne0 hne1 => have hsub : sub = 2 := by grind
    all_goals
      refine .ok ?_ rfl
      simp (disch := omega) only [encode, BitVec.toNat_ofNat, toNat_bitOf, Nat.mod_eq_of_lt]
      rw [hw1]
    rw [hsub]
  case follow =>
    have hw1 : mkCpy 0 1 (w1.toNat / 134217728 % 2) (w1.toNat / 16777216 % 2 ^ 3) = w1 := ofNat_eq_of_mod (by omega)
    have hw2 : mkR (bitOf (w2.toNat / 2147483648)) 56 (w2.toNat / 2097152 % 2) (w2.toNat / 16384 % 128) (w2.toNat / 128 % 128)
        (w2.toNat % 128) = w2 := ofNat_eq_of_mod (by rw [toNat_bitOf]; omega)
    have hw3 : mkMma (bitOf (w3.toNat / 2147483648)) (bitOf (w3.toNat / 1073741824)) (w3.toNat / 16777216 % 64) (w3.toNat / 512 % 32768)
        = w3 := ofNat_eq_of_mod (by rw [toNat_bitOf, toNat_bitOf]; omega)
    have hbit : bitOf (w1.toNat / 536870912) = true := bitOf_of_mod (by rw [Bool.toNat_true]; omega)
    simp (disch := omega) only [encode, BitVec.toNat_ofNat, toNat_bitOf, Nat.mod_eq_of_lt, hbit, if_true]
    rw [hw1]
    exact congrArg (fun l => _ :: _ :: l) (congrArg₂ (fun u v => [u, v]) hw2 hw3)

end Tables

/-! ## The tables of the other formats -/

/-- The I format (R74). -/
theorem decodeI_encodes {b : Bool} {maj d a imm : Nat} (hmaj : 3 ≤ maj ∧ maj ≤ 9) (hd : d < 128) (ha : a < 128) (hi : imm < 2048) :
    Encodes (decodeI b maj d a imm) [mkI b maj d a imm] := by
  unfold decodeI
  split
  case h_5 =>
    split
    case h_1 =>
      refine .ok ?_ rfl
      simp (disch := omega) only [encode, BitVec.toNat_ofNat, Nat.mod_eq_of_lt, Nat.add_zero]
    case h_4 => exact .error
    all_goals
      refine .ok ?_ rfl
      simp (disch := omega) only [encode, BitVec.toNat_ofNat, Nat.mod_eq_of_lt]
      congr 2
      omega
  case h_6 =>
    refine .ok ?_ rfl
    simp (disch := omega) only [encode, BitVec.toNat_ofNat, Nat.mod_eq_of_lt]
    rw [mkI_eq_mkW, Nat.add_assoc]
  case h_7 =>
    obtain rfl : maj = 9 := by grind
    refine .ok ?_ rfl
    simp (disch := omega) only [encode, BitVec.toNat_ofNat, Nat.mod_eq_of_lt]
    congr 2
    omega
  all_goals
    refine .ok ?_ rfl
    simp (disch := omega) only [encode, BitVec.toNat_ofNat, Nat.mod_eq_of_lt]

/-- Major 0x13 (R75). -/
theorem decode13_encodes {b : Bool} {sop d a imm : Nat} (hd : d < 64) (ha : a < 64) (hi : imm < 1024) :
    Encodes (decode13 b sop d a imm) [mkS b sop d a imm] := by
  unfold decode13
  split
  case h_5 =>
    split
    case h_1 =>
      refine .ok ?_ rfl
      simp (disch := omega) only [encode, BitVec.toNat_ofNat, Nat.mod_eq_of_lt, Nat.add_zero]
    case h_4 => exact .error
    all_goals
      refine .ok ?_ rfl
      simp (disch := omega) only [encode, BitVec.toNat_ofNat, Nat.mod_eq_of_lt]
      congr 2
      omega
  case h_6 =>
    refine .ok ?_ rfl
    simp (disch := omega) only [encode, BitVec.toNat_ofNat, Nat.mod_eq_of_lt]
    rw [mkS_eq_mkW]
    congr 2
    omega
  case h_7 =>
    refine .guard (fun h => ?_) rfl
    simp (disch := omega) only [encode, BitVec.toNat_ofNat, Nat.mod_eq_of_lt, h]
  case h_8 => exact .error
  all_goals
    refine .ok ?_ rfl
    simp (disch := omega) only [encode, BitVec.toNat_ofNat, Nat.mod_eq_of_lt]

/-- The control word of ATOM is built again from its fields where its reserved bits are zero (R269). -/
theorem mkAtom_of_fields {x : Word} (h : x.toNat / 128 % 524288 = 0) : mkAtom (x.toNat / 268435456)
    (bitOf (x.toNat / 134217728)) (bitOf (x.toNat / 67108864)) (x.toNat % 128) = x := by
  have hlow : x.toNat = x.toNat / 67108864 * 67108864 + x.toNat % 128 := by omega
  refine ofNat_eq_of_mod ?_
  simp only [toNat_bitOf]
  omega

/-- The words of an M instruction: the offset word stands where E is 1 (R76). -/
def accessWords (b : Bool) (maj q t d a s e : Nat) (w1 : Word) : List Word :=
  if e = 0 then [mkM b maj q t d a s e] else [mkM b maj q t d a s e, w1]

section MTables

variable {b : Bool} {q t d a s e : Nat} {w1 : Word} {short long : Instr}

/-- A pair of instructions without and with the offset word. -/
theorem Encodes.access {maj : Nat} (he : e < 2) (hshort : encode short = [mkM b maj q t d a s 0]) (hlong : encode long = [mkM b maj q t d a s 1, w1])
    (hword : short.isWord = true) (hword' : long.isWord = true) :
    Encodes (if e = 0 then .ok short else .ok long) (accessWords b maj q t d a s e w1) := by
  refine .ite (fun h => ?_) fun h => ?_
  · rw [accessWords, if_pos h, h]; exact .ok hshort hword
  · rw [accessWords, if_neg h, show e = 1 by omega]; exact .ok hlong hword'

variable (hq : q < 4) (ht : t < 8) (hd : d < 128) (ha : a < 128) (hs : s < 32) (he : e < 2)
include hq ht hd ha hs he

/-- The M format (R72, R76). -/
theorem decodeM_encodes {maj : Nat} (hmaj : maj ∈ [0x20, 0x21, 0x22, 0x23, 0x24, 0x27]) :
    Encodes (decodeM b maj q t d a s e w1) (accessWords b maj q t d a s e w1) := by
  simp only [List.mem_cons, List.not_mem_nil, or_false] at hmaj
  unfold decodeM
  split
  case h_3 | h_4 =>
    refine .ite (fun h => .access he ?_ ?_ rfl rfl) fun _ => .error
    all_goals
      simp (disch := omega) only [encode, BitVec.toNat_ofNat, toNat_bitOf, Nat.mod_eq_of_lt, h]
      congr 2
      omega
  case h_6 =>
    obtain rfl : maj = 0x27 := by grind
    refine .ite (fun h => .ite (fun hload => .access he ?_ ?_ rfl rfl) fun hstore => .access he ?store ?storeOffset rfl rfl) fun _ => .error
    case store | storeOffset =>
      simp (disch := omega) only [encode, BitVec.toNat_ofNat, Nat.mod_eq_of_lt, h]
      congr 2
      omega
    all_goals
      simp (disch := omega) only [encode, BitVec.toNat_ofNat, Nat.mod_eq_of_lt, Nat.add_zero, h]
  all_goals
    refine .access he ?_ ?_ rfl rfl <;>
      simp (disch := omega) only [encode, BitVec.toNat_ofNat, Nat.mod_eq_of_lt]

theorem decodeAtom_encodes : Encodes (decodeAtom b q t d a s e w1.toNat) [mkM b 0x25 q t d a s e, w1] := by
  unfold decodeAtom
  refine .guard (fun h => ?_) rfl
  have hw1 := mkAtom_of_fields h.2.2
  simp (disch := omega) only [encode, BitVec.toNat_ofNat, Nat.mod_eq_of_lt, h]
  exact congrArg (fun w => [_, w]) hw1

end MTables

/-! ## The whole decoder -/

section Whole

variable {w0 w1 w2 w3 : Word} {maj : Nat} (hmaj : w0.toNat / 33554432 % 64 = maj)
include hmaj

/-- Majors 0x14, 0x20 to 0x25, 0x27 to 0x29, 0x30, 0x33 and 0x38 alone have instructions of more than one word (R69). -/
theorem instrLength_eq_one (h : maj ∉ [0x14, 0x20, 0x21, 0x22, 0x23, 0x24, 0x25, 0x27, 0x28, 0x29, 0x30, 0x33, 0x38]) :
    instrLength w0 w1 = 1 := by
  simp only [List.mem_cons, List.not_mem_nil, or_false, not_or] at h
  simp (disch := omega) only [instrLength, followsMma, wordLength, hmaj, beq_iff_eq, Bool.and_eq_true, if_neg]

theorem instrLength_eq_two (h : maj ∈ [0x14, 0x25, 0x29, 0x38]) : instrLength w0 w1 = 2 := by
  simp only [List.mem_cons, List.not_mem_nil, or_false] at h
  simp (disch := omega) only [instrLength, followsMma, wordLength, hmaj, beq_iff_eq, Bool.and_eq_true, if_neg, if_pos]

theorem instrLength_of_access (h : maj ∈ [0x20, 0x21, 0x22, 0x23, 0x24, 0x27]) : instrLength w0 w1 = w0.toNat % 2 + 1 := by
  simp only [List.mem_cons, List.not_mem_nil, or_false] at h
  simp (disch := omega) only [instrLength, followsMma, wordLength, hmaj, beq_iff_eq, Bool.and_eq_true, if_neg, if_pos]

theorem instrLength_of_copy (h : maj = 0x28) : instrLength w0 w1 = if bitOf (w1.toNat / 536870912) = true then 4 else 2 := by
  simp only [instrLength, followsMma, wordLength, hmaj, h, beq_self_eq_true, Bool.true_and, Nat.reduceEqDiff, or_true, true_or, if_true]

theorem instrLength_of_expression (h : maj = 0x30) :
    instrLength w0 w1 = if 4 ≤ w0.toNat / 2097152 % 16 ∧ w0.toNat / 2097152 % 16 ≤ 6 then 2 else 1 := by
  simp [instrLength, followsMma, wordLength, hmaj, h]

theorem instrLength_of_mac (h : maj = 0x33) : instrLength w0 w1 = if w0.toNat / 2097152 % 16 = 1 then 2 else 1 := by
  simp [instrLength, followsMma, wordLength, hmaj, h]

/-- The R word of a major, built again from the fields that are read from it. -/
theorem mkR_of_major : mkR (bitOf (w0.toNat / 2147483648)) maj (w0.toNat / 2097152 % 16) (w0.toNat / 16384 % 128)
    (w0.toNat / 128 % 128) (w0.toNat % 128) = w0 := hmaj ▸ mkR_of_fields w0

variable {r : Except Reject Instr}

/-- A table of one-word instructions of the R format. -/
theorem encodes_of_R (h : maj ∉ [0x14, 0x20, 0x21, 0x22, 0x23, 0x24, 0x25, 0x27, 0x28, 0x29, 0x30, 0x33, 0x38])
    (henc : Encodes r [mkR (bitOf (w0.toNat / 2147483648)) maj (w0.toNat / 2097152 % 16) (w0.toNat / 16384 % 128)
      (w0.toNat / 128 % 128) (w0.toNat % 128)]) : Encodes r ([w0, w1, w2, w3].take (instrLength w0 w1)) := by
  rwa [instrLength_eq_one hmaj h, List.take_succ_cons, List.take_zero, ← mkR_of_major hmaj]

theorem encodes_of_R_two (h : maj ∈ [0x14, 0x25, 0x29, 0x38])
    (henc : Encodes r [mkR (bitOf (w0.toNat / 2147483648)) maj (w0.toNat / 2097152 % 16) (w0.toNat / 16384 % 128)
      (w0.toNat / 128 % 128) (w0.toNat % 128), w1]) : Encodes r ([w0, w1, w2, w3].take (instrLength w0 w1)) := by
  rwa [instrLength_eq_two hmaj h, List.take_succ_cons, List.take_succ_cons, List.take_zero, ← mkR_of_major hmaj]

theorem encodes_of_I (h : maj ∉ [0x14, 0x20, 0x21, 0x22, 0x23, 0x24, 0x25, 0x27, 0x28, 0x29, 0x30, 0x33, 0x38])
    (henc : Encodes r [mkI (bitOf (w0.toNat / 2147483648)) maj (w0.toNat / 262144 % 128) (w0.toNat / 2048 % 128) (w0.toNat % 2048)]) :
    Encodes r ([w0, w1, w2, w3].take (instrLength w0 w1)) := by
  have hw : mkI (bitOf (w0.toNat / 2147483648)) maj (w0.toNat / 262144 % 128) (w0.toNat / 2048 % 128) (w0.toNat % 2048) = w0 :=
    hmaj ▸ mkI_of_fields w0
  rwa [instrLength_eq_one hmaj h, List.take_succ_cons, List.take_zero, ← hw]

theorem encodes_of_M (h : maj ∈ [0x20, 0x21, 0x22, 0x23, 0x24, 0x27])
    (henc : Encodes r (accessWords (bitOf (w0.toNat / 2147483648)) maj (w0.toNat / 8388608 % 4) (w0.toNat / 1048576 % 8)
      (w0.toNat / 8192 % 128) (w0.toNat / 64 % 128) (w0.toNat / 2 % 32) (w0.toNat % 2) w1)) :
    Encodes r ([w0, w1, w2, w3].take (instrLength w0 w1)) := by
  have hw : mkM (bitOf (w0.toNat / 2147483648)) maj (w0.toNat / 8388608 % 4) (w0.toNat / 1048576 % 8) (w0.toNat / 8192 % 128)
      (w0.toNat / 64 % 128) (w0.toNat / 2 % 32) (w0.toNat % 2) = w0 := hmaj ▸ mkM_of_fields w0
  rw [accessWords, hw] at henc
  rw [instrLength_of_access hmaj h]
  rcases Nat.mod_two_eq_zero_or_one w0.toNat with he | he <;> simpa [he] using henc

/-- A branch, whose condition and displacement take all the bits below the major (R74). -/
theorem encodes_of_branch {i : Instr} (h : maj ∉ [0x14, 0x20, 0x21, 0x22, 0x23, 0x24, 0x25, 0x27, 0x28, 0x29, 0x30, 0x33, 0x38])
    (henc : encode i = [mkW (bitOf (w0.toNat / 2147483648)) maj ((BitVec.ofNat 4 (w0.toNat / 2097152 % 16)).toNat * 2097152
      + (BitVec.ofNat 21 w0.toNat).toNat)]) (hword : i.isWord = true) : Encodes (.ok i) ([w0, w1, w2, w3].take (instrLength w0 w1)) := by
  have hw : mkW (bitOf (w0.toNat / 2147483648)) maj (w0.toNat % 33554432) = w0 := hmaj ▸ mkW_of_fields w0
  have hrest : (BitVec.ofNat 4 (w0.toNat / 2097152 % 16)).toNat * 2097152 + (BitVec.ofNat 21 w0.toNat).toNat = w0.toNat % 33554432 := by
    rw [BitVec.toNat_ofNat, BitVec.toNat_ofNat]; omega
  rw [instrLength_eq_one hmaj h, List.take_succ_cons, List.take_zero]
  exact .ok (by rw [henc, hrest, hw]) hword

end Whole

/-- The decoder accepts only the encoding of what it answers, whatever the words. -/
theorem decodeRaw_encodes (w0 w1 w2 w3 : Word) : Encodes (decodeRaw w0 w1 w2 w3) ([w0, w1, w2, w3].take (instrLength w0 w1)) := by
  have hd : w0.toNat / 16384 % 128 < 128 := Nat.mod_lt _ (by omega)
  have ha : w0.toNat / 128 % 128 < 128 := Nat.mod_lt _ (by omega)
  have hc : w0.toNat % 128 < 128 := Nat.mod_lt _ (by omega)
  have hsub : w0.toNat / 2097152 % 16 < 16 := Nat.mod_lt _ (by omega)
  have hiD : w0.toNat / 262144 % 128 < 128 := Nat.mod_lt _ (by omega)
  have hiA : w0.toNat / 2048 % 128 < 128 := Nat.mod_lt _ (by omega)
  have hiM : w0.toNat % 2048 < 2048 := Nat.mod_lt _ (by omega)
  have hq : w0.toNat / 8388608 % 4 < 4 := Nat.mod_lt _ (by omega)
  have ht : w0.toNat / 1048576 % 8 < 8 := Nat.mod_lt _ (by omega)
  have hmD : w0.toNat / 8192 % 128 < 128 := Nat.mod_lt _ (by omega)
  have hmA : w0.toNat / 64 % 128 < 128 := Nat.mod_lt _ (by omega)
  have hs : w0.toNat / 2 % 32 < 32 := Nat.mod_lt _ (by omega)
  have he : w0.toNat % 2 < 2 := Nat.mod_lt _ (by omega)
  unfold decodeRaw
  dsimp only
  split
  case h_1 hmaj => exact encodes_of_R hmaj (by decide) (decode01_encodes hd ha hc)
  case h_2 hmaj => exact encodes_of_R hmaj (by decide) (decode02_encodes hd ha hc)
  case h_3 hmaj => exact encodes_of_I hmaj (by decide) (decodeI_encodes (by decide) hiD hiA hiM)
  case h_4 hmaj => exact encodes_of_I hmaj (by decide) (decodeI_encodes (by decide) hiD hiA hiM)
  case h_5 hmaj => exact encodes_of_I hmaj (by decide) (decodeI_encodes (by decide) hiD hiA hiM)
  case h_6 hmaj => exact encodes_of_I hmaj (by decide) (decodeI_encodes (by decide) hiD hiA hiM)
  case h_7 hmaj => exact encodes_of_I hmaj (by decide) (decodeI_encodes (by decide) hiD hiA hiM)
  case h_8 hmaj => exact encodes_of_I hmaj (by decide) (decodeI_encodes (by decide) hiD hiA hiM)
  case h_9 hmaj => exact encodes_of_I hmaj (by decide) (decodeI_encodes (by decide) hiD hiA hiM)
  case h_10 hmaj =>
    refine encodes_of_R hmaj (by decide) (.guard (fun h => ?_) rfl)
    simp (disch := omega) only [encode, BitVec.toNat_ofNat, Nat.mod_eq_of_lt]
  case h_11 hmaj => exact encodes_of_R hmaj (by decide) (decode0B_encodes hd ha hc)
  case h_12 hmaj => exact encodes_of_R hmaj (by decide) (decode0C_encodes hd ha hc hsub)
  case h_13 hmaj =>
    refine encodes_of_R hmaj (by decide) (.guard (fun h => ?_) rfl)
    simp (disch := omega) only [encode, BitVec.toNat_ofNat, Nat.mod_eq_of_lt]
  case h_14 hmaj => exact encodes_of_R hmaj (by decide) (decode0E_encodes hd ha hc)
  case h_15 hmaj =>
    refine encodes_of_R hmaj (by decide) (.ok ?_ rfl)
    simp (disch := omega) only [encode, BitVec.toNat_ofNat, toNat_bitOf, Nat.mod_eq_of_lt]
    congr 2
    omega
  case h_16 hmaj => exact encodes_of_R hmaj (by decide) (decode10_encodes hd ha hc)
  case h_17 hmaj => exact encodes_of_R hmaj (by decide) (decode11_encodes hd ha hc)
  case h_18 hmaj => exact encodes_of_R hmaj (by decide) (decode12_encodes hd ha hc)
  case h_19 hmaj =>
    rw [instrLength_eq_one hmaj (by decide)]
    have hw : mkS _ _ _ _ _ = w0 := mkS_of_fields hmaj
    have henc := decode13_encodes (b := bitOf (w0.toNat / 2147483648)) (sop := w0.toNat / 4194304 % 8) (Nat.mod_lt (w0.toNat / 65536) (by omega : 64 > 0))
      (Nat.mod_lt (w0.toNat / 1024) (by omega : 64 > 0)) (Nat.mod_lt w0.toNat (by omega : 1024 > 0))
    rwa [hw] at henc
  case h_20 hmaj => exact encodes_of_R_two hmaj (by decide) (decode14_encodes hd ha hc)
  case h_21 hmaj => exact encodes_of_R hmaj (by decide) (decode15_encodes hd ha hc)
  case h_22 hmaj => exact encodes_of_branch hmaj (by decide) rfl rfl
  case h_23 hmaj => exact encodes_of_branch hmaj (by decide) rfl rfl
  case h_24 hmaj => exact encodes_of_R hmaj (by decide) (decode18_encodes hd ha hc)
  case h_25 hmaj => exact encodes_of_R hmaj (by decide) (decode19_encodes hd ha hc)
  case h_26 hmaj => exact encodes_of_M hmaj (by decide) (decodeM_encodes hq ht hmD hmA hs he (by decide))
  case h_27 hmaj => exact encodes_of_M hmaj (by decide) (decodeM_encodes hq ht hmD hmA hs he (by decide))
  case h_28 hmaj => exact encodes_of_M hmaj (by decide) (decodeM_encodes hq ht hmD hmA hs he (by decide))
  case h_29 hmaj => exact encodes_of_M hmaj (by decide) (decodeM_encodes hq ht hmD hmA hs he (by decide))
  case h_30 hmaj => exact encodes_of_M hmaj (by decide) (decodeM_encodes hq ht hmD hmA hs he (by decide))
  case h_31 hmaj =>
    have hw : mkM (bitOf (w0.toNat / 2147483648)) 0x25 _ _ _ _ _ _ = w0 := hmaj ▸ mkM_of_fields w0
    have henc := decodeAtom_encodes (b := bitOf (w0.toNat / 2147483648)) (w1 := w1) hq ht hmD hmA hs he
    rw [hw] at henc
    rwa [instrLength_eq_two hmaj (by decide)]
  case h_32 hmaj => exact encodes_of_R hmaj (by decide) (decode26_encodes hd ha hc)
  case h_33 hmaj => exact encodes_of_M hmaj (by decide) (decodeM_encodes hq ht hmD hmA hs he (by decide))
  case h_34 hmaj =>
    have henc := decodeCpy_encodes (b := bitOf (w0.toNat / 2147483648)) (sub := w0.toNat / 2097152 % 16) (w1 := w1) (w2 := w2) (w3 := w3) hd ha hc
    rw [mkR_of_major hmaj] at henc
    rw [instrLength_of_copy hmaj rfl]
    cases hfollow : bitOf (w1.toNat / 536870912) <;> simpa [hfollow] using henc
  case h_35 hmaj => exact encodes_of_R_two hmaj (by decide) (decodePut_encodes hd ha hc)
  case h_36 hmaj => exact encodes_of_R hmaj (by decide) (decode2A_encodes hd ha hc)
  case h_37 hmaj => exact encodes_of_R hmaj (by decide) (decode2B_encodes hd ha hc)
  case h_38 hmaj =>
    have henc := decode30_encodes (b := bitOf (w0.toNat / 2147483648)) (sub := w0.toNat / 2097152 % 16) (w1 := w1) hd ha hc
    rw [mkR_of_major hmaj] at henc
    rw [instrLength_of_expression hmaj rfl]
    split at henc <;> simpa [*] using henc
  case h_39 hmaj => exact encodes_of_R hmaj (by decide) (decode31_encodes hd ha hc)
  case h_40 hmaj => exact encodes_of_R hmaj (by decide) (decode32_encodes hd ha hc)
  case h_41 hmaj =>
    have henc := decode33_encodes (b := bitOf (w0.toNat / 2147483648)) (sub := w0.toNat / 2097152 % 16) (w1 := w1) hd ha hc
    rw [mkR_of_major hmaj] at henc
    rw [instrLength_of_mac hmaj rfl]
    split at henc <;> simpa [*] using henc
  case h_42 hmaj => exact encodes_of_R hmaj (by decide) (decode34_encodes hd ha hc)
  case h_43 hmaj => exact encodes_of_R hmaj (by decide) (decode35_encodes hd ha hc)
  case h_44 hmaj => exact encodes_of_R_two hmaj (by decide) (decodeMma_encodes hd ha hc)
  case h_45 hmaj => exact encodes_of_R hmaj (by decide) (decode39_encodes hd ha hc)
  case h_46 hmaj => exact encodes_of_R hmaj (by decide) (decode3A_encodes hd ha hc)
  case h_47 hmaj => exact encodes_of_R hmaj (by decide) (decode3B_encodes hd ha hc)
  case h_48 hmaj => exact encodes_of_R hmaj (by decide) (decode3C_encodes hd ha hc)
  case h_49 hmaj => exact encodes_of_R hmaj (by decide) (decode3D_encodes hd ha hc)
  case h_50 hmaj => exact encodes_of_R hmaj (by decide) (decode3E_encodes hd ha hc)
  case h_51 => exact .error

/-- Words that decode are the encoding of a well-formed instruction. -/
theorem encode_of_decodeWords {w0 w1 w2 w3 : Word} {i : Instr} (h : decodeWords w0 w1 w2 w3 = .ok i) :
    i.isWord = true ∧ i.wf = true ∧ encode i = [w0, w1, w2, w3].take (instrLength w0 w1) := by
  unfold decodeWords at h
  split at h
  case h_1 => exact nomatch h
  case h_2 j hraw =>
    split at h
    case h_2 => exact nomatch h
    case h_1 hok =>
      cases h
      obtain ⟨henc, hword⟩ := decodeRaw_encodes w0 w1 w2 w3 i hraw
      exact ⟨hword, by rw [Instr.wf, hok]; rfl, henc⟩

theorem instrLength_le_four (w0 w1 : Word) : instrLength w0 w1 ≤ 4 := by
  unfold instrLength wordLength
  dsimp only
  split_ifs <;> omega

/-- Settles O1: each table gives back what its encoding spells, and what it answers has the length of its encoding. -/
theorem encodedWordsDecode : Obligations.EncodedWordsDecode := by
  unfold Obligations.EncodedWordsDecode
  intro i hword hwf
  have hdec := decodeWords_encodedWord hword hwf
  obtain ⟨-, -, henc⟩ := encode_of_decodeWords hdec
  refine ⟨hdec, ?_⟩
  rw [henc, List.length_take]
  exact Nat.min_eq_left (instrLength_le_four _ _)

/-- Settles O2: every table answers only instructions whose encoding is the word it was given, field for field. -/
theorem decodedWordsReencode : Obligations.DecodedWordsReencode := by
  unfold Obligations.DecodedWordsReencode
  intro w0 w1 w2 w3 i h
  exact encode_of_decodeWords h

end Sys2Proof
end

section
/-! Words that no instruction has (R79, R82, R83, R90): a reserved major, and a SUB that its major does not assign.  And the words
that the rules write out. -/

namespace Sys2Proof

/-! ## A table answers no SUB but those it lists -/

section Unassigned

variable {b : Bool} {sub d a c x y z : Nat} {w1 : Word} {i : Instr}

theorem decode01_unassigned (h : sub ∉ List.range 10) : decode01 b sub d a c ≠ .ok i := by
  unfold decode01
  split <;> simp at h ⊢

theorem decode02_unassigned (h : sub ∉ List.range 14) : decode02 b sub d a c ≠ .ok i := by
  unfold decode02
  split <;> simp at h ⊢

theorem decode0B_unassigned (h : sub ∉ List.range 8) : decode0B b sub d a c ≠ .ok i := by
  unfold decode0B
  split <;> simp at h ⊢

theorem decode0E_unassigned (h : sub ∉ List.range 8) : decode0E b sub d a c ≠ .ok i := by
  unfold decode0E
  split <;> simp at h ⊢

theorem decode10_unassigned (h : sub ∉ List.range 9) : decode10 b sub d a c ≠ .ok i := by
  unfold decode10
  split <;> simp at h ⊢

theorem decode11_unassigned (h : sub ∉ List.range 8) : decode11 b sub d a c ≠ .ok i := by
  unfold decode11
  split <;> simp at h ⊢

theorem decode12_unassigned (h : sub ∉ List.range 12) : decode12 b sub d a c ≠ .ok i := by
  unfold decode12
  split <;> simp at h ⊢

theorem decode14_unassigned (h : sub ∉ List.range 2) : decode14 b sub d a c w1 ≠ .ok i := by
  unfold decode14
  split <;> simp at h ⊢

theorem decode15_unassigned (h : sub ∉ List.range 6) : decode15 b sub d a c ≠ .ok i := by
  unfold decode15
  split <;> simp at h ⊢

theorem decode18_unassigned (h : sub ∉ List.range 9) : decode18 b sub d a c ≠ .ok i := by
  unfold decode18
  split <;> simp at h ⊢

theorem decode19_unassigned (h : sub ∉ List.range 7) : decode19 b sub d a c ≠ .ok i := by
  unfold decode19
  split <;> simp at h ⊢

theorem decode26_unassigned (h : sub ∉ List.range 8) : decode26 b sub d a c ≠ .ok i := by
  unfold decode26
  split <;> simp at h ⊢

theorem decode2A_unassigned (h : sub ∉ List.range 3) : decode2A b sub d a c ≠ .ok i := by
  unfold decode2A
  split <;> simp at h ⊢

theorem decode2B_unassigned (h : sub ∉ List.range 2) : decode2B b sub d a c ≠ .ok i := by
  unfold decode2B
  split <;> simp at h ⊢

theorem decode30_unassigned (h : sub ∉ [0, 1, 2, 4, 5, 6]) : decode30 b sub d a c w1 ≠ .ok i := by
  unfold decode30
  split <;> simp at h ⊢

theorem decode31_unassigned (h : sub ∉ List.range 13) : decode31 b sub d a c ≠ .ok i := by
  unfold decode31
  split <;> simp at h ⊢

theorem decode32_unassigned (h : sub ∉ List.range 5) : decode32 b sub d a c ≠ .ok i := by
  unfold decode32
  split <;> simp at h ⊢

theorem decode33_unassigned (h : sub ∉ List.range 2) : decode33 b sub d a c w1 ≠ .ok i := by
  unfold decode33
  split <;> simp at h ⊢

theorem decode34_unassigned (h : sub ∉ List.range 5) : decode34 b sub d a c ≠ .ok i := by
  unfold decode34
  split <;> simp at h ⊢

theorem decode35_unassigned (h : sub ∉ List.range 5) : decode35 b sub d a c ≠ .ok i := by
  unfold decode35
  split <;> simp at h ⊢

theorem decode39_unassigned (h : sub ∉ List.range 4) : decode39 b sub d a c ≠ .ok i := by
  unfold decode39
  split <;> simp at h ⊢

theorem decode3A_unassigned (h : sub ∉ List.range 2) : decode3A b sub d a c ≠ .ok i := by
  unfold decode3A
  split <;> simp at h ⊢

theorem decode3B_unassigned (h : sub ∉ List.range 4) : decode3B b sub d a c ≠ .ok i := by
  unfold decode3B
  split <;> simp at h ⊢

theorem decode3C_unassigned (h : sub ∉ List.range 10) : decode3C b sub d a c ≠ .ok i := by
  unfold decode3C
  split <;> simp at h ⊢

theorem decode3D_unassigned (h : sub ∉ List.range 13) : decode3D b sub d a c ≠ .ok i := by
  unfold decode3D
  split <;> simp at h ⊢

theorem decode3E_unassigned (h : sub ∉ List.range 7) : decode3E b sub d a c ≠ .ok i := by
  unfold decode3E
  split <;> simp at h ⊢

/-- The packed forms are told apart by the low three bits of SUB, and the top one is an operand (R83). -/
theorem decode0C_unassigned (hlt : sub < 16) (h : sub ∉ [0, 1, 2, 3, 4, 5, 8, 9, 10, 11, 12, 13]) : decode0C b sub d a c ≠ .ok i := by
  have hlow : sub % 8 = 6 ∨ sub % 8 = 7 := by
    simp only [List.mem_cons, List.not_mem_nil, or_false, not_or] at h
    omega
  unfold decode0C
  rcases hlow with hlow | hlow <;> simp [hlow]

theorem decodeCpy_unassigned (h : sub ∉ List.range 3) : decodeCpy b sub d a c x y z ≠ .ok i := by
  rw [List.mem_range] at h
  unfold decodeCpy
  simp [h]

theorem decodePut_unassigned (h : sub ∉ List.range 3) : decodePut b sub d a c x ≠ .ok i := by
  unfold decodePut
  split_ifs
  · split <;> simp at h ⊢
  · nofun
  · nofun

theorem decodeMma_unassigned (h : sub ∉ List.range 2) : decodeMma b sub d a c x ≠ .ok i := by
  unfold decodeMma
  split_ifs
  · split <;> simp at h ⊢
  · nofun

/-! A compare code and a type of CVT are operands, which an operand rule bounds (R90). -/

theorem cmp_violation (hlt : sub < 16) (h : sub ∉ List.range 10) {p : BitVec 3} {u v : BitVec 7} :
    (Instr.cmp b (BitVec.ofNat 4 sub) p u v).violation ≠ none := by
  rw [List.mem_range] at h
  simp [Instr.violation, Nat.mod_eq_of_lt hlt, show ¬ sub ≤ 9 by omega]

theorem fcmp_violation (hlt : sub < 16) (h : sub ∉ List.range 8) {p : BitVec 3} {u v : BitVec 7} :
    (Instr.fcmp b (BitVec.ofNat 4 sub) p u v).violation ≠ none := by
  rw [List.mem_range] at h
  simp [Instr.violation, Nat.mod_eq_of_lt hlt, show ¬ sub ≤ 7 by omega]

theorem cvt_violation (hlt : sub < 16) (h : sub ∉ List.range 13) {u v : BitVec 7} {r : BitVec 2} {s : Bool} {t : BitVec 4} :
    (Instr.cvt b (BitVec.ofNat 4 sub) u v r s t).violation ≠ none := by
  rw [List.mem_range] at h
  simp [Instr.violation, Nat.mod_eq_of_lt hlt, show ¬ sub ≤ 12 by omega]

end Unassigned

/-! ## The words of a reserved major, and of an unassigned SUB -/

section Reserved

variable {w0 w1 w2 w3 : Word}

theorem decodeWords_of_reserved_major
    (h : w0.toNat / 2 ^ 25 % 64 ∈ [0x00, 0x1A, 0x1B, 0x1C, 0x1D, 0x1E, 0x1F, 0x2C, 0x2D, 0x2E, 0x2F, 0x36, 0x37, 0x3F]) :
    decodeWords w0 w1 w2 w3 = .error .illegalMajor := by
  have hraw : decodeRaw w0 w1 w2 w3 = .error .illegalMajor := by
    unfold decodeRaw
    dsimp only
    split
    all_goals first
      | rfl
      | simp_all
  rw [decodeWords, hraw]

/-- A word decodes only where the table of its major answers an instruction that breaks no operand rule. -/
theorem decodeRaw_of_decodeWords {i : Instr} (h : decodeWords w0 w1 w2 w3 = .ok i) :
    decodeRaw w0 w1 w2 w3 = .ok i ∧ i.violation = none := by
  unfold decodeWords at h
  split at h
  case h_1 => exact nomatch h
  case h_2 j hraw =>
    split at h
    case h_1 hok => cases h; exact ⟨hraw, hok⟩
    case h_2 => exact nomatch h


theorem decodeWords_ne_ok_of_unassigned_sub {major : Nat} {subs : List Nat} {i : Instr} (hmem : (major, subs) ∈ [
      (0x01, List.range 10), (0x02, List.range 14), (0x0A, List.range 10), (0x0B, List.range 8),
      (0x0C, [0, 1, 2, 3, 4, 5, 8, 9, 10, 11, 12, 13]), (0x0D, List.range 8), (0x0E, List.range 8), (0x0F, List.range 13),
      (0x10, List.range 9), (0x11, List.range 8), (0x12, List.range 12), (0x14, List.range 2), (0x15, List.range 6),
      (0x18, List.range 9), (0x19, List.range 7), (0x26, List.range 8), (0x28, List.range 3), (0x29, List.range 3),
      (0x2A, List.range 3), (0x2B, List.range 2), (0x30, [0, 1, 2, 4, 5, 6]), (0x31, List.range 13), (0x32, List.range 5),
      (0x33, List.range 2), (0x34, List.range 5), (0x35, List.range 5), (0x38, List.range 2), (0x39, List.range 4),
      (0x3A, List.range 2), (0x3B, List.range 4), (0x3C, List.range 10), (0x3D, List.range 13), (0x3E, List.range 7)])
    (hmaj : w0.toNat / 33554432 % 64 = major) (hsub : w0.toNat / 2097152 % 16 ∉ subs) : decodeWords w0 w1 w2 w3 ≠ .ok i := by
  intro hdec
  obtain ⟨hraw, hok⟩ := decodeRaw_of_decodeWords hdec
  have hlt : w0.toNat / 2097152 % 16 < 16 := Nat.mod_lt _ (by omega)
  simp only [List.mem_cons, List.not_mem_nil, or_false, Prod.mk.injEq] at hmem
  rcases hmem with
    ⟨rfl, rfl⟩ | ⟨rfl, rfl⟩ | ⟨rfl, rfl⟩ | ⟨rfl, rfl⟩ | ⟨rfl, rfl⟩ | ⟨rfl, rfl⟩ | ⟨rfl, rfl⟩ | ⟨rfl, rfl⟩ | ⟨rfl, rfl⟩ | ⟨rfl, rfl⟩ | ⟨rfl, rfl⟩ |
    ⟨rfl, rfl⟩ | ⟨rfl, rfl⟩ | ⟨rfl, rfl⟩ | ⟨rfl, rfl⟩ | ⟨rfl, rfl⟩ | ⟨rfl, rfl⟩ | ⟨rfl, rfl⟩ | ⟨rfl, rfl⟩ | ⟨rfl, rfl⟩ | ⟨rfl, rfl⟩ | ⟨rfl, rfl⟩ |
    ⟨rfl, rfl⟩ | ⟨rfl, rfl⟩ | ⟨rfl, rfl⟩ | ⟨rfl, rfl⟩ | ⟨rfl, rfl⟩ | ⟨rfl, rfl⟩ | ⟨rfl, rfl⟩ | ⟨rfl, rfl⟩ | ⟨rfl, rfl⟩ | ⟨rfl, rfl⟩ | ⟨rfl, rfl⟩
  all_goals
    simp only [decodeRaw, hmaj] at hraw
  · exact decode01_unassigned hsub hraw
  · exact decode02_unassigned hsub hraw
  · split at hraw
    · cases hraw
      exact cmp_violation hlt hsub hok
    · nomatch hraw
  · exact decode0B_unassigned hsub hraw
  · exact decode0C_unassigned hlt hsub hraw
  · split at hraw
    · cases hraw
      exact fcmp_violation hlt hsub hok
    · nomatch hraw
  · exact decode0E_unassigned hsub hraw
  · cases hraw
    exact cvt_violation hlt hsub hok
  · exact decode10_unassigned hsub hraw
  · exact decode11_unassigned hsub hraw
  · exact decode12_unassigned hsub hraw
  · exact decode14_unassigned hsub hraw
  · exact decode15_unassigned hsub hraw
  · exact decode18_unassigned hsub hraw
  · exact decode19_unassigned hsub hraw
  · exact decode26_unassigned hsub hraw
  · exact decodeCpy_unassigned hsub hraw
  · exact decodePut_unassigned hsub hraw
  · exact decode2A_unassigned hsub hraw
  · exact decode2B_unassigned hsub hraw
  · exact decode30_unassigned hsub hraw
  · exact decode31_unassigned hsub hraw
  · exact decode32_unassigned hsub hraw
  · exact decode33_unassigned hsub hraw
  · exact decode34_unassigned hsub hraw
  · exact decode35_unassigned hsub hraw
  · exact decodeMma_unassigned hsub hraw
  · exact decode39_unassigned hsub hraw
  · exact decode3A_unassigned hsub hraw
  · exact decode3B_unassigned hsub hraw
  · exact decode3C_unassigned hsub hraw
  · exact decode3D_unassigned hsub hraw
  · exact decode3E_unassigned hsub hraw

end Reserved

/-- Settles O4: no table answers a SUB but those it lists, and a reserved major has no table. -/
theorem reservedWordsAreIllegal : Obligations.ReservedWordsAreIllegal := by
  unfold Obligations.ReservedWordsAreIllegal
  intro w0 w1 w2 w3
  refine ⟨decodeWords_of_reserved_major, fun major subs hmem hmaj hsub i => ?_⟩
  norm_num only at hmaj hsub
  exact decodeWords_ne_ok_of_unassigned_sub hmem hmaj hsub

/-! ## The words that the rules write out -/

/-- The word that O3 gives for ATOM names a comparand, v4, at an ADD, which has none, and an odd pair (R269, R270, R73). -/
theorem decodeWords_atom_of_unused_comparand : decodeWords 0x4A002087 0x0C000004 0 0 = .error .reservedField := by
  have hraw : decodeRaw 0x4A002087 0x0C000004 0 0 = .ok (.atom false 0 1 2 3 0 true true 4) := rfl
  have hviol : (Instr.atom false 0 1 2 3 0 true true 4).violation = some .reservedField := by decide
  rw [decodeWords, hraw]
  dsimp only
  rw [hviol]

/-- Refutes O3: 0x4A002087 0x0C000004 is no instruction, for its control word has operation 0 (ADD) and a comparand field of 4. -/
theorem not_specWordsDecode : ¬ Obligations.SpecWordsDecode := by
  unfold Obligations.SpecWordsDecode
  rintro ⟨-, -, -, -, -, -, -, -, -, -, -, -, -, -, hatom, -⟩
  rw [decodeWords_atom_of_unused_comparand] at hatom
  nomatch hatom

end Sys2Proof
end

section
/-! A step runs what it has fetched, the event it takes, or the device's own event that is due (R39, R49, R69, R90, R398). -/

namespace Sys2Proof.Machine

/-! ## What a step does with the act that comes next -/

theorem step_of_nextAct {s : State} {a : Act} (h : s.nextAct = some a) : step s = thenElapse (act a s) := by rw [step, h]

theorem step_of_no_act {s : State} (h : s.nextAct = none) : step s = .next s.elapse := by rw [step, h]

/-- An act that is one of the device's own events runs that event. -/
theorem step_of_run {s : State} {a : Act} {o : Out} (h : s.nextAct = some a) (ho : act a s = o) : step s = thenElapse o := by
  rw [step_of_nextAct h, ho]

/-- The event at the head of the inbox is taken from it and run (95_what_each_step_holds.md). -/
theorem step_of_host {s : State} {i : Instr} {rest : List Instr} (h : s.nextAct = some .host) (hin : s.inbox = i :: rest)
    (hout : Instr.fromOutside i = true) : step s = thenElapse (exec i { s with inbox := rest }) := by
  refine step_of_run h ?_
  rw [act, State.takeHost, hin]
  dsimp only
  rw [if_pos hout, runFetched]

/-! ## Issue -/

section Issue

variable {s e : State} {w0 w1 w2 w3 : Word} {len : Nat}

theorem State.fetched_of_no_injection {core pc : Nat} (h : s.dev.injections = []) : s.fetched core pc len = s := if_pos h

/-- An instruction that nothing holds back runs, as what its words decode to. -/
theorem State.issueSelected_of_passes (hb : e.breakpoint = none)
    (hf : e.fetch (e.crew.coreOf e.team 0) e.team.pc.toNat = .words w0 w1 w2 w3 len)
    (hp : (e.passesAtomics w0 w1 && e.passesCanvas w0 w1) = true) :
    e.issueSelected = (e.fetched (e.crew.coreOf e.team 0) e.team.pc.toNat len).decoded w0 w1 w2 w3 := by
  rw [State.issueSelected, hb]
  dsimp only
  rw [hf]
  dsimp only
  rw [if_pos hp]

/-- An instruction that a result which it waits for holds back waits at issue. -/
theorem State.issueSelected_of_held (hb : e.breakpoint = none)
    (hf : e.fetch (e.crew.coreOf e.team 0) e.team.pc.toNat = .words w0 w1 w2 w3 len)
    (hp : (e.passesAtomics w0 w1 && e.passesCanvas w0 w1) = false) : e.issueSelected = .wait e := by
  rw [State.issueSelected, hb]
  dsimp only
  rw [hf]
  dsimp only
  rw [hp, if_neg Bool.false_ne_true]

theorem runFetched_decoded_ok {f : State} {i : Instr} (h : decodeWords w0 w1 w2 w3 = .ok i) :
    runFetched s (f.decoded w0 w1 w2 w3) = exec i f := by rw [State.decoded, h, runFetched]

theorem runFetched_decoded_error {f : State} {r : Reject} (h : decodeWords w0 w1 w2 w3 = .error r) :
    runFetched s (f.decoded w0 w1 w2 w3) = exec (.illegalInstruction w0 w1) f := by rw [State.decoded, h, runFetched, exec]

/-- A step that issues the selected team runs what the team fetches. -/
theorem runsFetched_of_step (h : step s = thenElapse (runFetched s e.issueSelected)) : Claims.RunsFetched s e := by
  intro w0 w1 w2 w3 len f hb hf hfe
  subst hfe
  refine ⟨fun hp => ⟨fun i hi => ?_, fun r hr => ?_, State.fetched_of_no_injection⟩, fun hp => ?_⟩
  · rw [h, State.issueSelected_of_passes hb hf hp, runFetched_decoded_ok hi]
  · rw [h, State.issueSelected_of_passes hb hf hp, runFetched_decoded_error hr]
  · rw [h, State.issueSelected_of_held hb hf hp, runFetched, thenElapse]

theorem State.issue_of_selected {k : Nat} (hk : (s.entering k).team.key = k) (hfree : (s.entering k).team.state ≠ .free) :
    s.issue k = (s.entering k).issueSelected := by
  rw [State.issue]
  exact if_pos ⟨hk, hfree⟩

/-- The last part of an instruction issues it whole. -/
theorem State.issuePart_of_last {k core slot : Nat} {p : Part}
    (hp : (offered (s.partsLeft k)).find? (fun p => p.core == core && p.slot == slot) = some p) (hlast : (s.partsLeft k).length = 1) :
    s.issuePart k core slot = (s.enter k [p] [] true).issueSelected := by
  rw [State.issuePart]
  dsimp only
  rw [hp]
  exact if_pos (Or.inl (Nat.le_of_eq hlast))

/-- A part that leaves others is noted as issued. -/
theorem State.issuePart_of_more {k core slot : Nat} {p : Part}
    (hp : (offered (s.partsLeft k)).find? (fun p => p.core == core && p.slot == slot) = some p) (hmore : 1 < (s.partsLeft k).length)
    (hb : (s.enter k [p] [] true).breakpoint = none) :
    s.issuePart k core slot = .wait (s.enter k [p] ((((s.team? k).map (fun t => t.issued)).getD []) ++ [p.id]) false) := by
  rw [State.issuePart]
  dsimp only
  rw [hp]
  refine if_neg ?_
  rw [hb, not_or]
  exact ⟨Nat.not_le_of_lt hmore, Bool.false_ne_true⟩

end Issue

/-- Settles O5: the act that comes next issues the selected team, or notes a part of its instruction. -/
theorem stepRunsDecoded : Obligations.StepRunsDecoded := by
  unfold Obligations.StepRunsDecoded
  refine ⟨fun s k hact hk hfree => ?_, fun s k core slot p hact hp => ⟨fun hlast => ?_, fun hmore hb => ?_⟩⟩
  · refine runsFetched_of_step ?_
    rw [step_of_nextAct hact, act, State.issue_of_selected hk hfree]
  · refine runsFetched_of_step ?_
    rw [step_of_nextAct hact, act, State.issuePart_of_last hp hlast]
  · rw [step_of_nextAct hact, act, State.issuePart_of_more hp hmore hb, runFetched, thenElapse]

/-- Settles O6: the act that comes next names its event. -/
theorem stepRunsEvents : Obligations.StepRunsEvents := by
  unfold Obligations.StepRunsEvents
  intro s a c d
  refine ⟨fun i rest => step_of_host, step_of_no_act, ?_⟩
  and_intros
  on_goal -2 => rfl
  all_goals
    intros
    exact step_of_run ‹_› rfl

/-- Settles O8: the reset state is a literal, whose fields are read off. -/
theorem resetIsAsStated : Obligations.ResetIsAsStated := by
  unfold Obligations.ResetIsAsStated
  have hcount : State.reset.dev.coresPresent.length = 256 := by simp only [State.reset, Device.initial, List.length_range]
  have hteams : State.reset.allTeams = [] := if_pos rfl
  have hcrews : State.reset.allCrews = [] := if_neg Bool.false_ne_true
  have hctxs : State.reset.allCtxs = [] := if_pos rfl
  exact ⟨rfl, rfl, rfl, rfl, rfl, rfl, rfl, rfl, hcount, hteams, hcrews, hctxs, rfl, rfl, rfl, rfl, rfl, rfl, rfl⟩

/-- Settles O9: an empty list is canonical. -/
theorem resetMemoryCanonical : Obligations.ResetMemoryCanonical := State.reset_wf

end Sys2Proof.Machine
end

section
/-! What a byte reads at its home slice depends on, and trap entry, the end of a context, RTT and the traps on purpose (R31, R90, R325
to R329, R348 to R350). -/

namespace Sys2Proof.Machine

/-! ## What a slice's byte depends on -/

section SameStores

variable {s t : State} (hdev : t.dev = s.dev) (htick : t.tick = s.tick) (hmem : t.mem = s.mem) (hopen : t.openMem = s.openMem)
  (hold : t.bankOld = s.bankOld) (hcmds : t.bankCmds = s.bankCmds)
include hdev htick hmem hopen hold hcmds

/-- A byte reads at its slice as the injections, memory, and what bank rounds have left there say. -/
theorem sliceByte_congr (p : Nat) : t.sliceByte p = s.sliceByte p := by
  have hbyte : t.memByte p = s.memByte p := by rw [State.memByte, State.memByte, hmem, hopen]
  have hfree : t.free = s.free := by funext kind about; rw [State.free, State.free, htick]
  have hround : t.roundWrites = s.roundWrites := by funext round p; rw [State.roundWrites, State.roundWrites, hcmds]
  rw [State.sliceByte, State.sliceByte, hdev, htick, hold, hfree, hround, hbyte]

theorem sameStores_of_fields (hweights : t.weights = s.weights) (hsem : t.semaphores = s.semaphores) (herr : t.bankErr = s.bankErr)
    (hcores : t.cores = s.cores) (hsc : t.scStores = s.scStores) (hatom : t.atomics = s.atomics) : SameStores s t :=
  ⟨sliceByte_congr hdev htick hmem hopen hold hcmds, hweights, hsem, herr, hcores, hsc, hatom⟩

end SameStores

theorem SameStores.refl (s : State) : SameStores s s := ⟨fun _ => rfl, rfl, rfl, rfl, rfl, rfl, rfl⟩

theorem sameStores_withTeam (s : State) (t : Team) : SameStores s (s.withTeam t) :=
  sameStores_of_fields rfl rfl rfl rfl rfl rfl rfl rfl rfl rfl rfl rfl

theorem sameStores_terminate (s : State) (k c : Nat) (r : List Byte) : SameStores s (s.terminate k c r) := by
  apply sameStores_of_fields <;> simp

theorem sameStores_takeTrap (s : State) (c a r : Nat) (i : BitVec 64) (l : Nat) : SameStores s (s.takeTrap c a r i l) := by
  apply sameStores_of_fields <;> simp

/-! ## Trap entry, outside trap mode and in it -/

section Entry

variable {s : State} {cause addr resume lane : Nat} {info : BitVec 64}

theorem State.takeTrap_of_handler (hmode : s.team.trap.mode = false) (hbase : s.creg 3 ≠ 0) :
    s.takeTrap cause addr resume info lane = s.withTeam (s.team.enterTrap cause resume (s.creg 3).toNat info) := by
  rw [State.takeTrap, hmode, if_neg Bool.false_ne_true, if_neg hbase]

theorem State.takeTrap_of_no_handler (hmode : s.team.trap.mode = false) (hbase : s.creg 3 = 0) :
    s.takeTrap cause addr resume info lane = s.terminate s.ctx.key cause (s.trapRecord cause 0 addr lane (leBytes 8 info.toNat)) := by
  rw [State.takeTrap, hmode, if_neg Bool.false_ne_true, if_pos hbase]

theorem State.takeTrap_of_mode (hmode : s.team.trap.mode = true) :
    s.takeTrap cause addr resume info lane = s.doubleFault cause addr info lane := by
  rw [State.takeTrap, if_pos hmode]

end Entry

/-- Settles O11: with a handler, trap entry changes the issuing team only, field by field. -/
theorem trapEntrySavesAndEnters : Obligations.TrapEntrySavesAndEnters := by
  unfold Obligations.TrapEntrySavesAndEnters
  intro s cause addr lane info hmode hbase
  refine ⟨_, State.takeTrap_of_handler hmode hbase, ?_⟩
  simp [Team.enterTrap]

/-! ## The end of a context -/

section Ended

variable {s : State} {cause : Nat} {record : List Byte} (hnone : s.ctx.state ≠ .none) (hended : s.ctx.state ≠ .terminated)
  (hteam : s.team.ctx = s.ctx.key) (hcrew : s.crew.ctx = s.ctx.key)
include hnone hended hteam hcrew

/-- Terminating the issuing context ends it, with its teams and crews, and touches no store (R31). -/
theorem contextEnded_terminate : Claims.ContextEnded s (s.terminate s.ctx.key cause record) cause record := by
  have hfind : s.ctx? s.ctx.key = some s.ctx := if_pos ⟨hnone, rfl⟩
  have hrun : s.terminate s.ctx.key cause record =
      { s with
        ctx := s.ctx.ended cause record, team := Team.vacant, crew := Crew.vacant,
        teams := s.teams.filter (fun t => t.ctx != s.ctx.key), crews := s.crews.filter (fun w => w.ctx != s.ctx.key),
        ops := s.ops.filter (fun o => o.ctx != s.ctx.key || o.outlives) } := by
    rw [State.terminate, hfind]
    dsimp only
    rw [if_neg hended, State.modCtx_self _ hnone rfl]
    simp [hteam, hcrew]
  refine ⟨by rw [hrun], by rw [hrun]; rfl, by rw [hrun]; rfl, fun u hu => ?_, fun w hw => ?_, by rw [hrun], by rw [hrun],
    sameStores_terminate s _ _ _⟩
  · rw [hrun] at hu
    exact bne_iff_ne.mp (List.mem_filter.mp hu).2
  · rw [hrun] at hw
    exact bne_iff_ne.mp (List.mem_filter.mp hw).2

/-- A cause in trap mode ends the context with cause 0x26 and both causes (R328). -/
theorem contextEnded_doubleFault {addr lane : Nat} {info : BitVec 64} :
    Claims.ContextEnded s (s.doubleFault cause addr info lane) 0x26
      (s.trapRecord 0x26 cause addr lane (leBytes 8 s.team.trap.cause.toNat ++ leBytes 8 s.team.trap.pc.toNat
        ++ leBytes 8 s.team.trap.info.toNat ++ leBytes 8 info.toNat)) :=
  contextEnded_terminate hnone hended hteam hcrew

end Ended

/-- Settles O12: without a handler, and in trap mode, trap entry is the end of the context. -/
theorem trapsThatEndTheContext : Obligations.TrapsThatEndTheContext := by
  unfold Obligations.TrapsThatEndTheContext
  refine ⟨fun s cause addr resume lane info hmode hbase hnone hended hteam hcrew => ?_,
    fun s cause addr resume lane info hmode hnone hended hteam hcrew => ?_⟩
  · rw [State.takeTrap_of_no_handler hmode hbase]
    exact contextEnded_terminate hnone hended hteam hcrew
  · rw [State.takeTrap_of_mode hmode]
    exact contextEnded_doubleFault hnone hended hteam hcrew

/-! ## RTT -/

theorem exec_rtt (b : Bool) (s : State) : exec (.rtt b) s = .next ((s.withTeam (s.team.belay b)).returnFromTrap (.rtt b)) := rfl

section Return

variable {s : State} {i : Instr}

theorem State.returnFromTrap_of_not_mode (hmode : s.team.trap.mode = false) : s.returnFromTrap i = s.illegal i := if_pos hmode

theorem State.returnFromTrap_of_unbalanced (hmode : s.team.trap.mode = true)
    (hdepth : s.team.mstack.length ≠ s.team.trap.savedMDepth ∨ s.team.cstack.length ≠ s.team.trap.savedCDepth) :
    s.returnFromTrap i = s.doubleFault 0x01 s.team.pc.toNat (wordsInfo (encodedWord i 0) 0) 0 := by
  rw [State.returnFromTrap, hmode, if_neg (by decide), if_pos hdepth]

theorem State.returnFromTrap_of_balanced (hmode : s.team.trap.mode = true) (hm : s.team.mstack.length = s.team.trap.savedMDepth)
    (hc : s.team.cstack.length = s.team.trap.savedCDepth) : s.returnFromTrap i = s.withTeam s.team.leaveTrap := by
  rw [State.returnFromTrap, hmode, if_neg (by decide), if_neg (by simp [hm, hc])]

end Return

/-- Settles O13: what RTT does turns on trap mode and on the two depths, which its belay wait leaves as they are. -/
theorem rttReturnsOrTraps : Obligations.RttReturnsOrTraps := by
  unfold Obligations.RttReturnsOrTraps
  refine ⟨fun s b hmode hm hc => ?balanced, fun s b => ⟨fun hmode => ?outside, fun hmode hdepth hnone hended hteam hcrew t ht => ?unbalanced⟩⟩
  case balanced =>
    refine ⟨(s.team.belay b).leaveTrap, ?_, ?_⟩
    · rw [exec_rtt, State.returnFromTrap_of_balanced (by simpa using hmode) (by simpa using hm) (by simpa using hc)]
      rfl
    · simp [Team.leaveTrap]
  case outside =>
    rw [exec_rtt, State.returnFromTrap_of_not_mode (by simpa using hmode)]
  case unbalanced =>
    subst ht
    refine ⟨_, exec_rtt b s, ?_⟩
    rw [State.returnFromTrap_of_unbalanced (by simpa using hmode) (by simpa using hdepth)]
    exact contextEnded_doubleFault (s := s.withTeam (s.team.belay b)) (cause := 0x01) (lane := 0)
      (addr := (s.withTeam (s.team.belay b)).team.pc.toNat) (info := wordsInfo (encodedWord (.rtt b) 0) 0)
      hnone hended (by simpa using hteam) hcrew

/-! ## The traps on purpose -/

section Purpose

variable {s : State} (hmode : s.team.trap.mode = false) (hbase : s.creg 3 ≠ 0)
include hmode hbase

theorem exec_trap_of_handler (b : Bool) (k : BitVec 7) (c : BitVec 6) : exec (.trap b k c) s =
    .next (s.withTeam (s.team.enterTrap k.toNat (s.team.pc.toNat + 4) (s.creg 3).toNat ((s.team.belay b).srd64 c.toNat))) := by
  rw [exec, execTrap, State.takeTrap_of_handler hmode hbase]

theorem State.trapHere_of_handler (cause : Nat) (info : BitVec 64) (lane : Nat) :
    s.trapHere cause info lane = s.withTeam (s.team.enterTrap cause s.team.pc.toNat (s.creg 3).toNat info) :=
  State.takeTrap_of_handler hmode hbase

end Purpose

/-- Settles O14: each of the three takes its cause, with a handler installed. -/
theorem trapsOnPurposeEnter : Obligations.TrapsOnPurposeEnter := by
  unfold Obligations.TrapsOnPurposeEnter
  intro s b k c code w0 w1 hmode hbase
  refine ⟨exec_trap_of_handler hmode hbase b k c, ?_, ?_⟩
  · rw [exec, execBkpt, State.trapHere_of_handler hmode hbase]
  · rw [exec, execIllegalInstruction, State.trapHere_of_handler hmode hbase, wordsInfo]

end Sys2Proof.Machine
end

section
/-! Lane instructions, predicates and scalars: each form of a table is one shape of instruction, and what a shape leaves reads back
(R53, R56, R92 to R116). -/

namespace Sys2Proof.Machine

/-! ## The tables of lane results -/

section WritesLanes

variable {i : Instr} {r : Claims.LaneRule}

/-- A lane instruction of one word whose body is the rule's write has the rule's effect. -/
theorem writesLanes_of_laneInstr
    (h : ∀ s, exec i s = laneInstr i r.belay r.names s (fun t => t.wr r.dest t.active (r.value t))) (hlen : r.len = 1) :
    Claims.WritesLanes i r := by
  refine fun s => ⟨fun hbad => ?_, fun hok => ?_⟩
  · rw [h, laneInstr_of_not_namesOk hbad]
  · rw [h, laneInstr_of_namesOk hok, hlen, Team.belay_active]

theorem writesLanes_movx (b : Bool) (d : BitVec 7) (imm : BitVec 32) :
    Claims.WritesLanes (.movx b d imm) ⟨b, [d.toNat], d.toNat, 2, fun _ _ => imm⟩ := by
  refine fun s => ⟨fun hbad => ?_, fun hok => ?_⟩
  · rw [exec, execMovx, if_neg (by simpa using hbad)]
  · rw [exec, execMovx, if_pos hok]

/-! A shift count of five bits is below 32 (R96). -/

theorem shiftLeft_of_five (x : Word) (n : BitVec 5) : shiftLeft x n.toNat = x <<< n.toNat := if_neg (Nat.not_le_of_lt n.isLt)

theorem shiftRight_of_five (x : Word) (n : BitVec 5) : shiftRight x n.toNat = x >>> n.toNat := if_neg (Nat.not_le_of_lt n.isLt)

theorem shiftArith_of_five (x : Word) (n : BitVec 5) : shiftArith x n.toNat = x.sshiftRight n.toNat := by
  rw [shiftArith, if_neg (Nat.not_le_of_lt n.isLt)]

theorem writesLanes_of_integerRule (h : Claims.integerRule i = some r) : Claims.WritesLanes i r := by
  unfold Claims.integerRule at h
  split at h
  case h_27 b d a n =>
    cases h
    refine writesLanes_of_laneInstr (fun s => ?_) rfl
    simp only [exec, execShli, laneUn, shiftLeft_of_five]
  case h_28 b d a n =>
    cases h
    refine writesLanes_of_laneInstr (fun s => ?_) rfl
    simp only [exec, execShri, laneUn, shiftRight_of_five]
  case h_29 b d a n =>
    cases h
    refine writesLanes_of_laneInstr (fun s => ?_) rfl
    simp only [exec, execSari, laneUn, shiftArith_of_five]
  case h_31 => cases h; exact writesLanes_movx _ _ _
  case h_32 => nomatch h
  all_goals
    cases h
    exact writesLanes_of_laneInstr (fun _ => rfl) rfl

/-- CVT to a type of 32 bits or fewer names one destination register. -/
theorem writesLanes_cvt {b : Bool} {dst : BitVec 4} {d a : BitVec 7} {rnd : BitVec 2} {sat : Bool} {src : BitVec 4}
    (hdst : ¬ (dst = 3 ∨ dst = 7)) (hr : r = ⟨b, d.toNat :: cvtNames src.toNat a.toNat, d.toNat, 1, fun t l => BitVec.ofNat 32
      (cvt (CvtType.ofCode dst.toNat) (CvtType.ofCode src.toNat) sat (Rnd.ofCode rnd.toNat) (t.cvtSource src.toNat a.toNat l))⟩) :
    Claims.WritesLanes (.cvt b dst d a rnd sat src) r := by
  subst hr
  have hnames : cvtNames dst.toNat d.toNat = [d.toNat] := by
    refine if_neg (mt (Or.imp (fun h => ?_) (fun h => ?_)) hdst) <;> exact BitVec.eq_of_toNat_eq h
  refine writesLanes_of_laneInstr (fun s => ?_) rfl
  rw [exec, execCvt, hnames]
  simp only [if_neg hdst, List.cons_append, List.nil_append]

theorem writesLanes_of_floatRule (h : Claims.floatRule i = some r) : Claims.WritesLanes i r := by
  unfold Claims.floatRule at h
  split at h
  case h_23 =>
    split at h
    · nomatch h
    · cases h
      exact writesLanes_cvt ‹_› rfl
  case h_24 => nomatch h
  all_goals
    cases h
    exact writesLanes_of_laneInstr (fun _ => rfl) rfl

theorem writesLanes_of_acrossRule (h : Claims.acrossRule i = some r) : Claims.WritesLanes i r := by
  unfold Claims.acrossRule at h
  split at h
  case h_5 b d a m =>
    split at h
    · next hm => subst hm; cases h; exact writesLanes_of_laneInstr (fun _ => rfl) rfl
    split at h
    · next hm => subst hm; cases h; exact writesLanes_of_laneInstr (fun _ => rfl) rfl
    · nomatch h
  case h_10 => nomatch h
  all_goals
    cases h
    exact writesLanes_of_laneInstr (fun _ => rfl) rfl

end WritesLanes

/-- Settles O16: each form of the table is one lane instruction. -/
theorem integerLaneResults : Obligations.IntegerLaneResults := fun _ _ => writesLanes_of_integerRule

/-- CVT to a 64-bit type is a lane instruction that writes a pair. -/
theorem exec_cvt_wide {s : State} {b : Bool} {d a : BitVec 7} {dst src : BitVec 4} {rnd : BitVec 2} {sat : Bool}
    (hdst : dst = 3 ∨ dst = 7) (hok : s.team.namesOk ([d.toNat, d.toNat + 1] ++ cvtNames src.toNat a.toNat) = true) :
    exec (.cvt b dst d a rnd sat src) s = .next (s.withTeam (((s.team.belay b).wr64 d.toNat s.team.active
      (Claims.cvtWide dst a rnd sat src (s.team.belay b))).advance 1)) := by
  have hnames : cvtNames dst.toNat d.toNat = [d.toNat, d.toNat + 1] := if_pos (hdst.imp (fun h => by rw [h]; rfl) (fun h => by rw [h]; rfl))
  rw [exec, execCvt, hnames, laneInstr_of_namesOk hok]
  simp only [if_pos hdst, Team.belay_active]
  rfl

/-- Settles O17: the floating-point forms are lane instructions, and CVT to a pair is one too. -/
theorem floatLaneResults : Obligations.FloatLaneResults :=
  ⟨fun _ _ => writesLanes_of_floatRule, fun _ _ _ _ _ _ _ _ => exec_cvt_wide⟩

/-- Settles O18: the forms across lanes are lane instructions. -/
theorem acrossLaneResults : Obligations.AcrossLaneResults := fun _ _ => writesLanes_of_acrossRule

/-! ## What a lane instruction leaves reads back -/

section ReadBack

variable {t : Team} {n : Nat} {ls : List Nat} {f : Nat → Word}

/-- The keys of a lane register's lanes are distinct. -/
theorem laneKey_injective (n a b : Nat) (h : n * 1024 + a = n * 1024 + b) : a = b := Nat.add_left_cancel h

theorem Team.wr_rd_same {l : Nat} (hl : l ∈ ls) : (t.wr n ls f).rd n l = f l := by
  have hfind : (ls.find? (fun k => t.phys n * 1024 + l == t.phys n * 1024 + k)).getD 0 = l := by
    cases hf : ls.find? (fun k => t.phys n * 1024 + l == t.phys n * 1024 + k) with
    | none => exact absurd (List.find?_eq_none.mp hf l hl) (by simp)
    | some k =>
      have hkey := List.find?_some hf
      exact (laneKey_injective _ _ _ (beq_iff_eq.mp hkey)).symm
  have hget := FMap.get_foldl_set t.lanes ls (fun l => t.phys n * 1024 + l) f (laneKey_injective (t.phys n)) (t.phys n * 1024 + l)
  rw [if_pos ⟨l, hl, rfl⟩, hfind] at hget
  exact hget

theorem Team.wr_lanes_of_ne {k : Nat} (hk : ∀ l ∈ ls, k ≠ t.phys n * 1024 + l) : (t.wr n ls f).lanes.get k = t.lanes.get k := by
  have hget := FMap.get_foldl_set t.lanes ls (fun l => t.phys n * 1024 + l) f (laneKey_injective (t.phys n)) k
  rw [if_neg (by simpa using hk)] at hget
  exact hget

theorem Team.sameSystem_wr (t : Team) (n : Nat) (ls : List Nat) (f : Nat → Word) (len : Nat) :
    Team.SameSystem t ((t.wr n ls f).advance len) := by simp [Team.SameSystem, Team.wr, Team.advance]

end ReadBack

/-- Settles O19: a lane instruction is one write of lanes, and such a write reads back. -/
theorem laneResultsReadBack : Obligations.LaneResultsReadBack := by
  unfold Obligations.LaneResultsReadBack
  intro i r s hrule hok
  have hwrites : Claims.WritesLanes i r :=
    hrule.elim writesLanes_of_integerRule (fun h => h.elim writesLanes_of_floatRule writesLanes_of_acrossRule)
  refine ⟨_, (hwrites s).2 hok, fun l hl => Team.wr_rd_same hl, fun k hk => Team.wr_lanes_of_ne (by simpa using hk), ?_,
    Team.sameSystem_wr _ _ _ _ _, ?_, sameStores_withTeam _ _⟩
  · simp [Team.wr]
  · simp [Team.wr]

/-! ## Compares and predicates -/

section Predicates

variable {i : Instr} {r : Claims.PredRule} {s : State}

/-- Each form of the table is one lane instruction that writes a predicate; one that names no lane register is never refused. -/
theorem exec_of_predRule (h : Claims.predRule i = some r) :
    exec i s = laneInstr i r.belay r.names s (fun t => t.pwr r.dest t.active (r.value t)) := by
  unfold Claims.predRule at h
  split at h
  case h_9 => nomatch h
  all_goals
    cases h
    rfl

theorem exec_of_predRule_of_namesOk (h : Claims.predRule i = some r) (hok : s.team.namesOk r.names = true) :
    exec i s = .next (s.withTeam (((s.team.belay r.belay).pwr r.dest s.team.active (r.value (s.team.belay r.belay))).advance 1)) := by
  rw [exec_of_predRule h, laneInstr_of_namesOk hok, Team.belay_active]

end Predicates

/-- Settles O21: the compares and predicate operations are lane instructions that write a predicate. -/
theorem predicateResults : Obligations.PredicateResults := by
  unfold Obligations.PredicateResults
  intro i r s h
  exact ⟨fun hbad => by rw [exec_of_predRule h, laneInstr_of_not_namesOk hbad], exec_of_predRule_of_namesOk h⟩

section PredicateBits

/-- One bit of a predicate is set or cleared. -/
def putBit (f : Nat → Bool) (m : Mask) (l : Nat) : Mask := if f l then m ||| BitVec.twoPow 1024 l else m &&& ~~~ BitVec.twoPow 1024 l

theorem putBit_getLsbD (f : Nat → Bool) (m : Mask) {l : Nat} (hl : l < 1024) (k : Nat) :
    (putBit f m l).getLsbD k = if k = l then f l else m.getLsbD k := by
  unfold putBit
  by_cases hk : k = l
  · subst hk
    cases hf : f k <;> simp [hl]
  · have hne : ¬ l = k := fun h => hk h.symm
    cases hf : f l
    · by_cases hlt : k < 1024
      · simp [hk, hlt]
      · simp [hk, BitVec.getLsbD_of_ge _ _ (Nat.le_of_not_lt hlt)]
    · simp [hk, hne]

theorem foldl_putBit_getLsbD (f : Nat → Bool) (ls : List Nat) (hlt : ∀ l ∈ ls, l < 1024) (m : Mask) (k : Nat) :
    (ls.foldl (putBit f) m).getLsbD k = if k ∈ ls then f k else m.getLsbD k := by
  induction ls generalizing m with
  | nil => simp
  | cons a ls ih =>
    rw [List.foldl_cons, ih (fun l hl => hlt l (List.mem_cons_of_mem _ hl)), putBit_getLsbD f m (hlt a List.mem_cons_self)]
    by_cases hk : k ∈ ls
    · simp [hk]
    · by_cases hka : k = a
      · simp [hka]
      · simp [hk, hka]

theorem Team.lt_of_mem_active {t : Team} {l : Nat} (h : l ∈ t.active) : l < 1024 := by
  have hbit : t.mask.getLsbD l = true := (List.mem_filter.mp h).2
  exact Nat.lt_of_not_le fun hge => by simp [BitVec.getLsbD_of_ge _ _ hge] at hbit

variable (t : Team) (n : Nat) (ls : List Nat) (f : Nat → Bool)

theorem Team.pwr_preds_same : (t.pwr n ls f).preds.get n = ls.foldl (putBit f) (t.preds.get n) := FMap.get_set_self _ _ _

theorem Team.pwr_preds_of_ne {k : Nat} (hk : k ≠ n) : (t.pwr n ls f).preds.get k = t.preds.get k := FMap.get_set_ne _ _ hk

theorem Team.sameSystem_pwr (len : Nat) : Team.SameSystem t ((t.pwr n ls f).advance len) := by
  simp [Team.SameSystem, Team.pwr, Team.advance]

end PredicateBits

/-- Settles O22: the bits of the active lanes are put one after another, and no other bit is touched. -/
theorem predicateBitsReadBack : Obligations.PredicateBitsReadBack := by
  unfold Obligations.PredicateBitsReadBack
  intro i r s h hok
  refine ⟨_, exec_of_predRule_of_namesOk h hok, fun l => ?_, fun n hn => ?_, by simp, Team.sameSystem_pwr _ _ _ _ _,
    sameStores_withTeam _ _⟩
  · rw [Team.advance_preds, Team.pwr_preds_same, foldl_putBit_getLsbD _ _ (fun _ => Team.lt_of_mem_active), Team.belay_preds]
  · rw [Team.advance_preds, Team.pwr_preds_of_ne _ _ _ _ hn, Team.belay_preds]

/-! ## Scalars -/

section Scalars

variable {i : Instr} {r : Claims.ScalarRule} {s : State}

theorem truncate_zeroExtend_word (x : Word) : (x.zeroExtend 64).truncate 32 = x := by simp

/-- A rule of one scalar writes its 32-bit result and its flags. -/
theorem exec_of_narrow {d : Nat} {v : Team → Word} (hd : r.dest = some d) (hw : r.wide = false)
    (hv : ∀ t, r.value t = (v t).zeroExtend 64)
    (h : exec i s = teamInstr r.belay r.len s (fun t => { t.swr d (v t) with flags := (r.flags t).getD t.flags })) :
    exec i s = .next (s.withTeam ((r.apply (s.team.belay r.belay)).advance r.len)) := by
  rw [h, teamInstr, Claims.ScalarRule.apply, hd, hw, hv]
  dsimp only
  rw [if_neg Bool.false_ne_true, truncate_zeroExtend_word]
  rfl

theorem exec_of_scalarRule (h : Claims.scalarRule i = some r) :
    exec i s = .next (s.withTeam ((r.apply (s.team.belay r.belay)).advance r.len)) := by
  unfold Claims.scalarRule at h
  split at h
  case h_3 | h_4 | h_6 => cases h; rfl
  case h_18 b d a n =>
    cases h
    refine exec_of_narrow rfl rfl (fun _ => rfl) ?_
    simp only [exec, execSshli, scalarImm, shiftLeft_of_five]
    rfl
  case h_19 b d a n =>
    cases h
    refine exec_of_narrow rfl rfl (fun _ => rfl) ?_
    simp only [exec, execSshri, scalarImm, shiftRight_of_five]
    rfl
  case h_20 b d a n =>
    cases h
    refine exec_of_narrow rfl rfl (fun _ => rfl) ?_
    simp only [exec, execSsari, scalarImm, shiftArith_of_five]
    rfl
  case h_26 => nomatch h
  all_goals
    cases h
    exact exec_of_narrow rfl rfl (fun _ => rfl) rfl

/-- BCAST mode 2 writes the lowest active lane's value to its scalar, or 0. -/
theorem exec_bcast_scalar (b : Bool) (d a : BitVec 7) (hok : s.team.namesOk [a.toNat] = true) :
    exec (.bcast b d a 2) s = .next (s.withTeam (((s.team.belay b).swr d.toNat
      (if s.team.active = [] then 0 else (s.team.belay b).rd a.toNat (Claims.lowest s.team))).advance 1)) := by
  rw [exec, execBcast, if_neg (by decide), if_neg (by decide), laneInstr_of_namesOk hok, Team.belay_active, Claims.lowest]
  cases s.team.active <;> rfl

end Scalars

/-- Settles O23: each scalar form acts once, and writes what its rule gives. -/
theorem scalarResults : Obligations.ScalarResults :=
  ⟨fun _ _ _ => exec_of_scalarRule, fun _ b d a => exec_bcast_scalar b d a⟩

end Sys2Proof.Machine
end

section
/-! Control transfer, CALLX, structured divergence and the settings of a team: each branch of a meaning, with what the belay wait
leaves as it was already (R40, R44, R46, R48, R56, R71, R118 to R121, R354). -/

namespace Sys2Proof.Machine

/-! ## Settings -/

theorem exec_wbase_of_limit {s : State} {b : Bool} {k : BitVec 7} (h : if s.team.alloc < 128 then k = 0 else k.toNat ≤ (s.team.alloc - 128) / 32) :
    exec (.wbase b k) s = .next (s.withTeam ({ s.team.belay b with winBase := k.toNat }.advance 1)) := if_pos h

theorem exec_wbase_of_no_limit {s : State} {b : Bool} {k : BitVec 7}
    (h : ¬ if s.team.alloc < 128 then k = 0 else k.toNat ≤ (s.team.alloc - 128) / 32) :
    exec (.wbase b k) s = .next (s.illegal (.wbase b k)) := if_neg h

/-- Settles O26: TPRI and WDOG act once per team, and WBASE asks for its limit first. -/
theorem teamSettings : Obligations.TeamSettings := by
  unfold Obligations.TeamSettings
  refine fun s b n k => ⟨rfl, rfl, fun h => exec_wbase_of_limit ?_, fun h => exec_wbase_of_no_limit ?_⟩
  · rcases h with ⟨hsmall, hk⟩ | ⟨hlarge, hk⟩
    · rwa [if_pos hsmall]
    · rwa [if_neg (Nat.not_lt_of_le hlarge)]
  · rcases h with ⟨hsmall, hk⟩ | ⟨hlarge, hk⟩
    · rwa [if_pos hsmall]
    · rwa [if_neg (Nat.not_lt_of_le hlarge), Nat.not_le]

/-! ## Transfers of control -/

section Transfers

variable {s : State} {b : Bool} {cc : BitVec 4} {disp : BitVec 21}

@[simp] theorem Team.belay_branchTarget (t : Team) : (t.belay b).branchTarget disp = t.branchTarget disp := by simp [Team.branchTarget]

theorem targetOutside_eq_false {x : Int} (h0 : 0 ≤ x) (h1 : x < 2 ^ 57) : targetOutside x = false := by
  simp only [targetOutside, Bool.or_eq_false_iff, decide_eq_false_iff_not]
  omega

theorem targetOutside_eq_true {x : Int} (h : x < 0 ∨ 2 ^ 57 ≤ x) : targetOutside x = true := by
  simpa only [targetOutside, Bool.or_eq_true, decide_eq_true_eq] using h

theorem transferCause_eq_none {x : Nat} (h0 : x % 4 = 0) (h1 : x < 2 ^ 57) : transferCause x = none := by
  rw [transferCause, if_neg (not_not.mpr h0), if_neg (Nat.not_le_of_lt h1)]

theorem transferCause_of_misaligned {x : Nat} (h : x % 4 ≠ 0) : transferCause x = some 0x03 := if_pos h

theorem transferCause_of_outside {x : Nat} (h0 : x % 4 = 0) (h1 : 2 ^ 57 ≤ x) : transferCause x = some 0x05 := by
  rw [transferCause, if_neg (not_not.mpr h0), if_pos h1]

section Taken

variable (hcc : s.team.flags.holds cc = true)
include hcc

theorem exec_bra_inside (hin : targetOutside (s.team.branchTarget disp) = false) :
    exec (.bra b cc disp) s = .next (s.withTeam ((s.team.belay b).jump (s.team.branchTarget disp).toNat)) := by
  rw [exec, execBra]
  simp [hcc, hin]

theorem exec_bra_outside (hout : targetOutside (s.team.branchTarget disp) = true) :
    exec (.bra b cc disp) s = .next (s.vaTrap 0x05 0 ((s.team.branchTarget disp).emod (2 ^ 57)).toNat) := by
  rw [exec, execBra]
  simp [hcc, hout]

theorem exec_call_inside (hin : targetOutside (s.team.branchTarget disp) = false) (hroom : s.team.cstack.length < 32) :
    exec (.call b cc disp) s = .next (s.withTeam ({ s.team.belay b with
      cstack := ⟨s.team.pc.toNat + 4, s.team.mstack.length, false⟩ :: s.team.cstack }.jump (s.team.branchTarget disp).toNat)) := by
  rw [exec, execCall]
  simp [hcc, hin, Nat.not_le_of_lt hroom]

theorem exec_call_full (hin : targetOutside (s.team.branchTarget disp) = false) (hfull : 32 ≤ s.team.cstack.length) :
    exec (.call b cc disp) s = .next (s.trapHere 0x21 0) := by
  rw [exec, execCall]
  simp [hcc, hin, hfull]

theorem exec_call_outside (hout : targetOutside (s.team.branchTarget disp) = true) :
    exec (.call b cc disp) s = .next (s.vaTrap 0x05 0 ((s.team.branchTarget disp).emod (2 ^ 57)).toNat) := by
  rw [exec, execCall]
  simp [hcc, hout]

end Taken

/-- A branch or call that is not taken goes on. -/
theorem exec_bra_call_not_taken (hcc : s.team.flags.holds cc = false) :
    exec (.bra b cc disp) s = .next (s.withTeam ((s.team.belay b).advance 1))
      ∧ exec (.call b cc disp) s = .next (s.withTeam ((s.team.belay b).advance 1)) := by
  rw [exec, execBra, exec, execCall]
  simp [hcc]

theorem exec_jmpi_of_cause {a : BitVec 6} {c : Nat} (h : transferCause ((s.team.belay b).srd64 a.toNat).toNat = some c) :
    exec (.jmpi b a) s = .next (s.vaTrap c 0 ((s.team.belay b).srd64 a.toNat).toNat) := by
  simp only [exec, execJmpi, h]

theorem exec_jmpi_of_target {a : BitVec 6} (h : transferCause ((s.team.belay b).srd64 a.toNat).toNat = none) :
    exec (.jmpi b a) s = .next (s.withTeam ((s.team.belay b).jump ((s.team.belay b).srd64 a.toNat).toNat)) := by
  simp only [exec, execJmpi, h]

theorem exec_ret_of_no_frame (h : s.team.cstack = []) : exec (.ret b) s = .next (s.illegal (.ret b)) := by
  simp only [exec, execRet, Team.belay_cstack, h]

section Frame

variable {f : Frame} {rest : List Frame} (hframe : s.team.cstack = f :: rest)
include hframe

theorem exec_ret_away (haway : s.team.mstack.length ≠ f.base) : exec (.ret b) s = .next (s.illegal (.ret b)) := by
  simp only [exec, execRet, Team.belay_cstack, Team.belay_mstack, hframe, if_pos haway]

/-- RET on a frame of CALL at its recorded depth returns. -/
theorem exec_ret_of_call (hcall : f.callx = false) (hbase : s.team.mstack.length = f.base) (hret : transferCause f.ret = none) :
    exec (.ret b) s = .next (s.withTeam ({ s.team.belay b with cstack := rest }.jump f.ret)) := by
  simp only [exec, execRet, Team.belay_cstack, Team.belay_mstack, hframe, if_neg (not_not.mpr hbase), hcall,
    if_neg Bool.false_ne_true, hret]

section Callx

variable (hcall : f.callx = true) (hbase : s.team.mstack.length = f.base) {saved pending : Mask} {reg : Nat} {below : List MaskEntry}
  (htop : s.team.mstack = .callxE saved pending reg :: below)
include hcall hbase htop

/-- RET on a CALLX frame with no pending lane ends the CALLX (R48). -/
theorem exec_ret_of_callx_end (hnone : pending.lanesOf s.team.width = []) :
    exec (.ret b) s = .next (s.withTeam ({ s.team.belay b with mask := saved, mstack := below, cstack := rest }.jump f.ret)) := by
  have hdepth : (MaskEntry.callxE saved pending reg :: below).length = f.base := htop ▸ hbase
  simp only [exec, execRet, Team.belay_cstack, Team.belay_mstack, Team.belay_width, hframe, htop, if_neg (not_not.mpr hdepth), hcall,
    if_true, if_pos hnone]

/-- RET on a CALLX frame with pending lanes dispatches the lowest of their targets (R48). -/
theorem exec_ret_of_callx_next (hsome : pending.lanesOf s.team.width ≠ [])
    (htarget : transferCause ((s.team.belay b).pick pending reg).target = none) :
    exec (.ret b) s = .next (s.withTeam ({ s.team.belay b with
      mstack := .callxE saved (pending &&& ~~~((s.team.belay b).pick pending reg).group) reg :: below,
      mask := ((s.team.belay b).pick pending reg).group }.jump ((s.team.belay b).pick pending reg).target)) := by
  have hdepth : (MaskEntry.callxE saved pending reg :: below).length = f.base := htop ▸ hbase
  simp only [exec, execRet, Team.belay_cstack, Team.belay_mstack, Team.belay_width, hframe, htop, if_neg (not_not.mpr hdepth), hcall,
    if_true, if_neg hsome, htarget]

end Callx

end Frame

end Transfers

/-- Settles O25: each transfer's branch by its condition, its target and its stacks. -/
theorem transfersOfControl : Obligations.TransfersOfControl := by
  unfold Obligations.TransfersOfControl
  refine ⟨fun s b cc disp a => ⟨fun hcc h0 h1 => ?taken, exec_bra_call_not_taken, fun h0 h1 => ?jmpi, fun f rest hf hc hb h0 h1 => ?ret, rfl⟩,
    fun s b cc disp a => ⟨fun hcc hout => ?outside, fun hcc h0 h1 hfull => ?full, fun h => ?misaligned, fun h0 h1 => ?high,
      exec_ret_of_no_frame, fun f rest => exec_ret_away⟩⟩
  case taken =>
    have hin := targetOutside_eq_false h0 h1
    exact ⟨exec_bra_inside hcc hin, exec_call_inside hcc hin⟩
  case jmpi => exact exec_jmpi_of_target (transferCause_eq_none h0 h1)
  case ret => exact exec_ret_of_call hf hc hb (transferCause_eq_none h0 h1)
  case outside =>
    have hout := targetOutside_eq_true hout
    exact ⟨exec_bra_outside hcc hout, exec_call_outside hcc hout⟩
  case full => exact exec_call_full hcc (targetOutside_eq_false h0 h1) hfull
  case misaligned => exact exec_jmpi_of_cause (transferCause_of_misaligned h)
  case high => exact exec_jmpi_of_cause (transferCause_of_outside h0 h1)

/-! ## CALLX -/

section Callx

variable {s : State} {b : Bool} {a : BitVec 7} (hok : s.team.namesOk [a.toNat, a.toNat + 1] = true)
include hok

theorem exec_callx_of_empty (hempty : s.team.active = []) :
    exec (.callx b a) s = .next (s.withTeam ((s.team.belay b).advance 1)) := by
  rw [exec, execCallx]
  simp [hok, hempty]

theorem exec_callx_dispatches {t : Team} {p : Dispatched} (ht : t = s.team.belay b) (hp : p = t.pick t.mask (t.phys a.toNat))
    (hactive : s.team.active ≠ []) (haligned : ∀ l ∈ s.team.active, t.laneTarget (t.phys a.toNat) l % 4 = 0)
    (hm : s.team.mstack.length < 64) (hc : s.team.cstack.length < 32) (htarget : transferCause p.target = none) :
    exec (.callx b a) s = .next (s.withTeam ({ t with
      mstack := .callxE t.mask (t.mask &&& ~~~p.group) (t.phys a.toNat) :: t.mstack
      cstack := ⟨t.pc.toNat + 4, t.mstack.length + 1, true⟩ :: t.cstack
      mask := p.group }.jump p.target)) := by
  subst ht hp
  have hfind : s.team.active.find? (fun l => (s.team.belay b).laneTarget (s.team.phys a.toNat) l % 4 != 0) = none := by
    simpa using haligned
  simp only [Team.belay_mask, Team.belay_phys] at htarget
  simp only [exec, execCallx, Team.belay_namesOk, hok, Bool.not_true, if_neg Bool.false_ne_true, Team.belay_active, if_neg hactive,
    Team.belay_phys, Team.belay_mask, Team.belay_mstack, Team.belay_cstack, Team.belay_pc, hfind, if_neg (Nat.not_le_of_lt hm),
    if_neg (Nat.not_le_of_lt hc), htarget]

end Callx

/-- Settles O28: CALLX and RET go where DISPATCH picks. -/
theorem callxDispatches : Obligations.CallxDispatches := by
  unfold Obligations.CallxDispatches
  refine fun s b a => ⟨exec_callx_of_empty, fun t p ht hp hok hactive haligned hm hc h0 h1 => ?_,
    fun f rest saved pending reg below hf hcall hbase htop => ⟨exec_ret_of_callx_end hf hcall hbase htop, fun hsome p hp h0 h1 => ?_⟩⟩
  · exact exec_callx_dispatches hok ht hp hactive haligned hm hc (transferCause_eq_none h0 h1)
  · subst hp
    exact exec_ret_of_callx_next hf hcall hbase htop hsome (transferCause_eq_none h0 h1)

/-! ## Structured divergence -/

section Divergence

variable {s : State} {b : Bool} {p : BitVec 3}

theorem exec_if_loop_of_room (h : s.team.mstack.length < 64) :
    exec (.ifMask b p) s = .next (s.withTeam ({ s.team.belay b with
        mstack := .ifE s.team.mask (s.team.mask &&& s.team.prd p.toNat) false :: s.team.mstack
        mask := s.team.mask &&& s.team.prd p.toNat }.advance 1))
      ∧ exec (.loop b) s = .next (s.withTeam ({ s.team.belay b with
        mstack := .loopE s.team.mask 0 (s.team.pc.toNat + 4) :: s.team.mstack }.advance 1)) := by
  simp only [exec, execIfMask, execLoop, Team.belay_mstack, if_neg (Nat.not_le_of_lt h), Team.belay_mask, Team.belay_prd, Team.belay_pc,
    and_self]

theorem exec_if_loop_of_full (h : 64 ≤ s.team.mstack.length) :
    exec (.ifMask b p) s = .next (s.trapHere 0x12 0) ∧ exec (.loop b) s = .next (s.trapHere 0x12 0) := by
  simp only [exec, execIfMask, execLoop, Team.belay_mstack, if_pos h, and_self]

section IfEntry

variable {saved thenM : Mask} {e : Bool} {below : List MaskEntry}

theorem exec_else_of_first_arm (htop : s.team.mstack = .ifE saved thenM false :: below) (h : s.team.mstack.length ≠ s.team.depthBase) :
    exec (.elseMask b) s = .next (s.withTeam ({ s.team.belay b with
      mstack := .ifE saved thenM true :: below, mask := saved &&& ~~~thenM }.advance 1)) := by
  rw [htop] at h
  simp only [exec, execElseMask, Team.belay_mstack, htop, Team.belay_depthBase, if_neg h]

theorem exec_else_of_second_arm (htop : s.team.mstack = .ifE saved thenM true :: below) :
    exec (.elseMask b) s = .next (s.illegal (.elseMask b)) := by
  simp only [exec, execElseMask, Team.belay_mstack, htop]

theorem exec_endIf_of_if (htop : s.team.mstack = .ifE saved thenM e :: below) (h : s.team.mstack.length ≠ s.team.depthBase) :
    exec (.endIf b) s = .next (s.withTeam ({ s.team.belay b with mstack := below, mask := saved }.advance 1)) := by
  rw [htop] at h
  simp only [exec, execEndIf, Team.belay_mstack, htop, Team.belay_depthBase, if_neg h]

theorem exec_endLoop_of_if (htop : s.team.mstack = .ifE saved thenM e :: below) :
    exec (.endLoop b) s = .next (s.illegal (.endLoop b)) := by
  simp only [exec, execEndLoop, Team.belay_mstack, htop]

end IfEntry

section LoopEntry

variable {saved cont : Mask} {start : Nat} {below : List MaskEntry} (htop : s.team.mstack = .loopE saved cont start :: below)
include htop

theorem exec_else_endIf_of_loop : exec (.elseMask b) s = .next (s.illegal (.elseMask b)) ∧ exec (.endIf b) s = .next (s.illegal (.endIf b)) := by
  simp only [exec, execElseMask, execEndIf, Team.belay_mstack, htop, and_self]

theorem exec_endLoop_next_pass (h : s.team.mstack.length ≠ s.team.depthBase) (hlanes : s.team.mask ||| cont ≠ 0) :
    exec (.endLoop b) s = .next (s.withTeam ({ s.team.belay b with
      mstack := .loopE saved 0 start :: below, mask := s.team.mask ||| cont }.jump start)) := by
  rw [htop] at h
  simp only [exec, execEndLoop, Team.belay_mstack, htop, Team.belay_depthBase, if_neg h, Team.belay_mask, if_pos hlanes]

theorem exec_endLoop_ends (h : s.team.mstack.length ≠ s.team.depthBase) (hlanes : s.team.mask ||| cont = 0) :
    exec (.endLoop b) s = .next (s.withTeam ({ s.team.belay b with mstack := below, mask := saved }.advance 1)) := by
  rw [htop] at h
  simp only [exec, execEndLoop, Team.belay_mstack, htop, Team.belay_depthBase, if_neg h, Team.belay_mask, if_neg (not_not.mpr hlanes)]

end LoopEntry

/-- At the base of the function the three forms that close or turn an entry are no instructions. -/
theorem exec_close_at_base (h : s.team.mstack = [] ∨ s.team.mstack.length = s.team.depthBase) :
    exec (.elseMask b) s = .next (s.illegal (.elseMask b)) ∧ exec (.endIf b) s = .next (s.illegal (.endIf b))
      ∧ exec (.endLoop b) s = .next (s.illegal (.endLoop b)) := by
  simp only [exec, execElseMask, execEndIf, execEndLoop, Team.belay_mstack, Team.belay_depthBase]
  rcases h with h | h
  · simp [h]
  · refine ⟨?_, ?_, ?_⟩ <;> split <;> simp [h]

@[simp] theorem Team.belay_above (t : Team) : (t.belay b).above = t.mstack.length - t.depthBase := by simp [Team.above]

section Leave

variable {gone : Mask} (hgone : gone = s.team.mask &&& s.team.prd p.toNat)
include hgone

theorem exec_break_of_loop {st : List MaskEntry}
    (h : leaveLanes gone false (s.team.mstack.length - s.team.depthBase) s.team.mstack = some st) :
    exec (.breakMask b p) s = .next (s.withTeam ({ s.team.belay b with mstack := st, mask := s.team.mask &&& ~~~gone }.advance 1)) := by
  subst hgone
  simp only [exec, execBreakMask, Team.belay_mask, Team.belay_prd, Team.belay_above, Team.belay_mstack, h]

theorem exec_cont_of_loop {st : List MaskEntry}
    (h : leaveLanes gone true (s.team.mstack.length - s.team.depthBase) s.team.mstack = some st) :
    exec (.contMask b p) s = .next (s.withTeam ({ s.team.belay b with mstack := st, mask := s.team.mask &&& ~~~gone }.advance 1)) := by
  subst hgone
  simp only [exec, execContMask, Team.belay_mask, Team.belay_prd, Team.belay_above, Team.belay_mstack, h]

theorem exec_break_of_no_loop (h : leaveLanes gone false (s.team.mstack.length - s.team.depthBase) s.team.mstack = none) :
    exec (.breakMask b p) s = .next (s.illegal (.breakMask b p)) := by
  subst hgone
  simp only [exec, execBreakMask, Team.belay_mask, Team.belay_prd, Team.belay_above, Team.belay_mstack, h]

theorem exec_cont_of_no_loop (h : leaveLanes gone true (s.team.mstack.length - s.team.depthBase) s.team.mstack = none) :
    exec (.contMask b p) s = .next (s.illegal (.contMask b p)) := by
  subst hgone
  simp only [exec, execContMask, Team.belay_mask, Team.belay_prd, Team.belay_above, Team.belay_mstack, h]

end Leave

end Divergence

/-- Settles O27: each form by the entry on top of the mask stack and the base of its function. -/
theorem structuredDivergence : Obligations.StructuredDivergence := by
  unfold Obligations.StructuredDivergence
  refine ⟨fun s b p => ⟨exec_if_loop_of_room, fun _ _ _ => exec_else_of_first_arm, fun _ _ _ _ => exec_endIf_of_if,
      fun _ => exec_break_of_loop rfl, fun _ => exec_cont_of_loop rfl,
      fun _ _ _ _ htop hbase => ⟨exec_endLoop_next_pass htop hbase, exec_endLoop_ends htop hbase⟩⟩,
    fun s b p => ⟨exec_if_loop_of_full, exec_close_at_base, fun _ _ _ => exec_else_of_second_arm,
      fun _ _ _ _ => exec_else_endIf_of_loop, fun _ _ _ _ => exec_endLoop_of_if, exec_break_of_no_loop rfl, exec_cont_of_no_loop rfl⟩⟩

end Sys2Proof.Machine
end

section
/-! SREAD and SWRITE: the content of a special register, the register writes that it becomes, and the checks of SWRITE (R5, R51, R58 to
R60, R117). -/

namespace Sys2Proof.Machine

/-! ## Register writes one after another -/

section Writes

variable {w : Nat} {α : Type} (key : α → Nat) (val : α → BitVec w)

/-- A key that some of the writes have, all of them with one value, holds that value. -/
theorem FMap.get_foldl_set_of_value {k : Nat} {v : BitVec w} (ws : List α) (m : FMap w) (hval : ∀ x ∈ ws, key x = k → val x = v)
    (hsome : m.get k = v ∨ ∃ x ∈ ws, key x = k) : (ws.foldl (fun m x => m.set (key x) (val x)) m).get k = v := by
  induction ws generalizing m with
  | nil => exact hsome.resolve_right (by simp)
  | cons a ws ih =>
    refine ih _ (fun x hx => hval x (List.mem_cons_of_mem _ hx)) ?_
    rw [FMap.get_set]
    by_cases hk : k = key a
    · exact .inl (by rw [if_pos hk, hval a List.mem_cons_self hk.symm])
    · rcases hsome with h | ⟨x, hx, hxk⟩
      · exact .inl (by rw [if_neg hk, h])
      · rcases List.mem_cons.mp hx with rfl | hx
        · exact absurd hxk.symm hk
        · exact .inr ⟨x, hx, hxk⟩

/-- A key that no write has keeps its value. -/
theorem FMap.get_foldl_set_of_ne {k : Nat} (ws : List α) (m : FMap w) (hne : ∀ x ∈ ws, key x ≠ k) :
    (ws.foldl (fun m x => m.set (key x) (val x)) m).get k = m.get k :=
  FMap.get_foldl_set_of_value key val ws m (fun x hx h => absurd h (hne x hx)) (.inl rfl)

end Writes

theorem Team.foldl_land_lanes (ws : List RegWrite) (h : ∀ x ∈ ws, x.scalar = false) (t : Team) :
    ws.foldl Team.land t = { t with lanes := ws.foldl (fun m x => m.set x.key x.val) t.lanes } := by
  induction ws generalizing t with
  | nil => rfl
  | cons a ws ih =>
    have ha : t.land a = { t with lanes := t.lanes.set a.key a.val } := by
      rw [Team.land, h a List.mem_cons_self, if_neg Bool.false_ne_true]
    rw [List.foldl_cons, ih (fun x hx => h x (List.mem_cons_of_mem _ hx)), ha]
    rfl

theorem Team.foldl_land_scalars (ws : List RegWrite) (h : ∀ x ∈ ws, x.scalar = true) (t : Team) :
    ws.foldl Team.land t = { t with scalars := ws.foldl (fun m x => m.set x.key x.val) t.scalars } := by
  induction ws generalizing t with
  | nil => rfl
  | cons a ws ih =>
    have ha : t.land a = { t with scalars := t.scalars.set a.key a.val } := by
      rw [Team.land, h a List.mem_cons_self, if_pos rfl]
    rw [List.foldl_cons, ih (fun x hx => h x (List.mem_cons_of_mem _ hx)), ha]
    rfl

/-! ## What SREAD reads and writes -/

theorem special_eq (s : State) (t : Team) (i l : Nat) : s.special t i l = Claims.specialRegister s t i l := rfl

theorem wideSpecial_iff (i : Nat) : wideSpecial i ↔ Claims.isWide i = true := by
  simp only [wideSpecial, Claims.isWide, Bool.or_eq_true, beq_iff_eq, or_assoc]

theorem isTime_iff (i : Nat) : Claims.isTime i = true ↔ i = 0x07 ∨ i = 0x08 := by
  simp only [Claims.isTime, Bool.or_eq_true, beq_iff_eq]

theorem isWide_of_isTime {i : Nat} (h : Claims.isTime i = true) : Claims.isWide i = true := by
  rcases (isTime_iff i).mp h with rfl | rfl <;> rfl

theorem specialWaits_iff (s : State) (i : Nat) : s.specialWaits i = true ↔ ¬ Claims.canRead s i := by
  simp only [State.specialWaits, Claims.canRead, Bool.and_eq_true, beq_iff_eq, Bool.not_eq_true', List.isEmpty_eq_false_iff, and_assoc]
  tauto

/-- The two halves of a value, or its low half, as register writes. -/
theorem mem_specialWrites {i : Nat} {sc : Bool} {k k2 : Nat} {v : BitVec 64} {x : RegWrite} :
    x ∈ specialWrites i sc k k2 v ↔ x = ⟨sc, k, v.truncate 32, false, 0, none⟩
      ∨ wideSpecial i ∧ x = ⟨sc, k2, (v >>> 32).truncate 32, false, 0, none⟩ := by
  unfold specialWrites
  split <;> simp [*]

theorem specialWrites_of_time {i : Nat} {sc : Bool} {k k2 : Nat} {v : BitVec 64} (h : wideSpecial i) :
    specialWrites i sc k k2 v = Claims.timeWrites sc k k2 v := if_pos h

/-! ### Into lane registers -/

section Lanes

/-- An even register's successor is the next one of the register image. -/
theorem Team.phys_succ {t : Team} {d : Nat} (hok : t.namesOk [d, d + 1] = true) (heven : d % 2 = 0) (hlt : d < 128) :
    t.phys (d + 1) = t.phys d + 1 := by
  simp only [Team.namesOk, List.all_cons, List.all_nil, Bool.and_true, Bool.and_eq_true] at hok
  obtain ⟨h0, h1⟩ := hok
  have htrap : (112 ≤ d + 1 ∧ d + 1 < 128) ↔ (112 ≤ d ∧ d < 128) := by omega
  have hlast : 128 ≤ d + 1 ↔ 128 ≤ d := by omega
  simp only [Team.phys, Team.laneReg, htrap, hlast] at h0 h1 ⊢
  split_ifs at h0 h1 ⊢ <;> simp_all <;> omega

variable {s : State} {t : Team} {d i : Nat}

/-- The register writes of SREAD into a lane register. -/
def laneSpecialWrites (s : State) (t : Team) (d i : Nat) : List RegWrite :=
  t.active.flatMap (fun l => specialWrites i false (t.phys d * 1024 + l) (t.phys (d + 1) * 1024 + l) (s.special t i l))

theorem mem_laneSpecialWrites {x : RegWrite} : x ∈ laneSpecialWrites s t d i ↔ ∃ l ∈ t.active,
    x = ⟨false, t.phys d * 1024 + l, (s.special t i l).truncate 32, false, 0, none⟩
      ∨ wideSpecial i ∧ x = ⟨false, t.phys (d + 1) * 1024 + l, (s.special t i l >>> 32).truncate 32, false, 0, none⟩ := by
  simp only [laneSpecialWrites, List.mem_flatMap, mem_specialWrites]

theorem laneSpecialWrites_scalar : ∀ x ∈ laneSpecialWrites s t d i, x.scalar = false := by
  intro x hx
  obtain ⟨l, -, rfl | ⟨-, rfl⟩⟩ := mem_laneSpecialWrites.mp hx <;> rfl

variable (hsucc : wideSpecial i → t.phys (d + 1) = t.phys d + 1)
include hsucc

/-- Each active lane's register holds the low half of its content. -/
theorem laneSpecialWrites_low {l : Nat} (hl : l ∈ t.active) (m : FMap 32) :
    ((laneSpecialWrites s t d i).foldl (fun m x => m.set x.key x.val) m).get (t.phys d * 1024 + l) = (s.special t i l).truncate 32 := by
  refine FMap.get_foldl_set_of_value _ _ _ _ (fun x hx hk => ?_) (.inr ⟨_, mem_laneSpecialWrites.mpr ⟨l, hl, .inl rfl⟩, rfl⟩)
  have hlt := Team.lt_of_mem_active hl
  obtain ⟨l', hl', rfl | ⟨hw, rfl⟩⟩ := mem_laneSpecialWrites.mp hx
  · rw [Nat.add_left_cancel hk]
  · have := Team.lt_of_mem_active hl'
    have := hsucc hw
    dsimp only at hk
    omega

/-- Of a wide register, the next one holds the high half. -/
theorem laneSpecialWrites_high (hw : wideSpecial i) {l : Nat} (hl : l ∈ t.active) (m : FMap 32) :
    ((laneSpecialWrites s t d i).foldl (fun m x => m.set x.key x.val) m).get (t.phys (d + 1) * 1024 + l)
      = (s.special t i l >>> 32).truncate 32 := by
  refine FMap.get_foldl_set_of_value _ _ _ _ (fun x hx hk => ?_) (.inr ⟨_, mem_laneSpecialWrites.mpr ⟨l, hl, .inr ⟨hw, rfl⟩⟩, rfl⟩)
  have hlt := Team.lt_of_mem_active hl
  have hnext := hsucc hw
  obtain ⟨l', hl', rfl | ⟨-, rfl⟩⟩ := mem_laneSpecialWrites.mp hx
  · have := Team.lt_of_mem_active hl'
    dsimp only at hk
    omega
  · rw [Nat.add_left_cancel hk]

omit hsucc in
theorem laneSpecialWrites_other {k : Nat} (hlow : ∀ l ∈ t.active, k ≠ t.phys d * 1024 + l)
    (hhigh : wideSpecial i → ∀ l ∈ t.active, k ≠ t.phys (d + 1) * 1024 + l) (m : FMap 32) :
    ((laneSpecialWrites s t d i).foldl (fun m x => m.set x.key x.val) m).get k = m.get k := by
  refine FMap.get_foldl_set_of_ne _ _ _ _ (fun x hx => ?_)
  obtain ⟨l, hl, rfl | ⟨hw, rfl⟩⟩ := mem_laneSpecialWrites.mp hx
  · exact (hlow l hl).symm
  · exact (hhigh hw l hl).symm

end Lanes

section SreadLane

variable {s : State} {b : Bool} {d : BitVec 7} {ix : BitVec 6}
  (hok : s.team.namesOk (if Claims.isWide ix.toNat then [d.toNat, d.toNat + 1] else [d.toNat]) = true)
include hok

theorem exec_sreadLane_of_waits (hread : ¬ Claims.canRead s ix.toNat) : exec (.sreadLane b d ix) s = .next s.waits := by
  simp only [← wideSpecial_iff] at hok
  rw [exec, execSreadLane]
  dsimp only
  rw [if_pos hok, if_pos ((specialWaits_iff s _).mpr hread)]

theorem exec_sreadLane_of_canRead (hread : Claims.canRead s ix.toNat) : exec (.sreadLane b d ix) s =
    .next (s.withTeam (((s.team.belay b).readSpecial ix.toNat (laneSpecialWrites s (s.team.belay b) d.toNat ix.toNat)).advance 1)) := by
  simp only [← wideSpecial_iff] at hok
  rw [exec, execSreadLane]
  dsimp only
  rw [if_pos hok, if_neg (mt (specialWaits_iff s _).mp (not_not.mpr hread))]
  rfl

end SreadLane

/-! ### Into a scalar -/

section SreadScalar

variable {s : State} {t : Team} {b : Bool} {e ix : BitVec 6}

theorem exec_sreadScalar_of_waits (hread : ¬ Claims.canRead s ix.toNat) : exec (.sreadScalar b e ix) s = .next s.waits := by
  rw [exec, execSreadScalar, if_pos ((specialWaits_iff s _).mpr hread)]

/-- The content that a scalar SREAD gives (R59). -/
theorem scalarSpecial_eq (t : Team) : (match t.active with
      | [] => if variesByLane ix.toNat then 0 else s.special t ix.toNat 0
      | l :: _ => s.special t ix.toNat l)
    = if t.active = [] ∧ (ix = 0x00 ∨ ix = 0x01 ∨ ix = 0x10) then 0 else Claims.specialRegister s t ix.toNat (Claims.lowest t) := by
  have hvaries : variesByLane ix.toNat = true ↔ ix = 0x00 ∨ ix = 0x01 ∨ ix = 0x10 := by
    simp only [variesByLane, Bool.or_eq_true, beq_iff_eq, or_assoc, ← BitVec.toNat_inj]
    rfl
  cases hact : t.active with
  | nil => simp only [hvaries, true_and, Claims.lowest, hact, List.headD_nil, special_eq]
  | cons l rest => simp only [reduceCtorEq, false_and, if_false, Claims.lowest, hact, List.headD_cons, special_eq]

theorem exec_sreadScalar_of_canRead {v : BitVec 64} (hread : Claims.canRead s ix.toNat) (ht : t = s.team.belay b)
    (hv : v = if t.active = [] ∧ (ix = 0x00 ∨ ix = 0x01 ∨ ix = 0x10) then 0
      else Claims.specialRegister s t ix.toNat (Claims.lowest t)) :
    exec (.sreadScalar b e ix) s = .next (s.withTeam
      ((t.readSpecial ix.toNat (specialWrites ix.toNat true (t.scalarReg e.toNat) (t.scalarReg (e.toNat + 1)) v)).advance 1)) := by
  subst ht
  rw [exec, execSreadScalar, if_neg (mt (specialWaits_iff s _).mp (not_not.mpr hread))]
  exact congrArg (fun v => Host.Outcome.next (s.withTeam (((s.team.belay b).readSpecial ix.toNat
    (specialWrites ix.toNat true ((s.team.belay b).scalarReg e.toNat) ((s.team.belay b).scalarReg (e.toNat + 1)) v)).advance 1)))
    ((scalarSpecial_eq (s.team.belay b)).trans hv.symm)

/-- The two scalars of a pair are different ones. -/
theorem Team.scalarReg_succ_ne (t : Team) (n : Nat) : t.scalarReg (n + 1) ≠ t.scalarReg n := by
  unfold Team.scalarReg
  split_ifs <;> omega

variable {i k k2 : Nat} {v : BitVec 64} (m : FMap 32)

theorem specialWrites_scalar : ∀ x ∈ specialWrites i true k k2 v, x.scalar = true := by
  intro x hx
  rcases mem_specialWrites.mp hx with rfl | ⟨-, rfl⟩ <;> rfl

theorem specialWrites_low (hne : k2 ≠ k) :
    ((specialWrites i true k k2 v).foldl (fun m x => m.set x.key x.val) m).get k = v.truncate 32 := by
  refine FMap.get_foldl_set_of_value _ _ _ _ (fun x hx hk => ?_) (.inr ⟨_, mem_specialWrites.mpr (.inl rfl), rfl⟩)
  rcases mem_specialWrites.mp hx with rfl | ⟨-, rfl⟩
  · rfl
  · exact absurd hk hne

theorem specialWrites_high (hw : wideSpecial i) (hne : k2 ≠ k) :
    ((specialWrites i true k k2 v).foldl (fun m x => m.set x.key x.val) m).get k2 = (v >>> 32).truncate 32 := by
  refine FMap.get_foldl_set_of_value _ _ _ _ (fun x hx hk => ?_) (.inr ⟨_, mem_specialWrites.mpr (.inr ⟨hw, rfl⟩), rfl⟩)
  rcases mem_specialWrites.mp hx with rfl | ⟨-, rfl⟩
  · exact absurd hk.symm hne
  · rfl

theorem specialWrites_other {j : Nat} (hlow : j ≠ k) (hhigh : wideSpecial i → j ≠ k2) :
    ((specialWrites i true k k2 v).foldl (fun m x => m.set x.key x.val) m).get j = m.get j := by
  refine FMap.get_foldl_set_of_ne _ _ _ _ (fun x hx => ?_)
  rcases mem_specialWrites.mp hx with rfl | ⟨hw, rfl⟩
  · exact hlow.symm
  · exact (hhigh hw).symm

end SreadScalar

/-- CLOCK and DTIME are read unchecked, every other special register at once (R51). -/
theorem Team.readSpecial_of_time {t : Team} {i : Nat} {ws : List RegWrite} (h : Claims.isTime i = true) :
    t.readSpecial i ws = { t with unchecked := t.unchecked ++ ws } := if_pos ((isTime_iff i).mp h)

theorem Team.readSpecial_of_not_time {t : Team} {i : Nat} {ws : List RegWrite} (h : Claims.isTime i = false) :
    t.readSpecial i ws = ws.foldl Team.land t := if_neg (by rw [← isTime_iff, h]; exact Bool.false_ne_true)

/-- SREAD into lane registers changes those, or the outstanding writes, and the team goes on. -/
theorem Team.readSpecial_lanes_frame (t : Team) (i : Nat) {ws : List RegWrite} (h : ∀ x ∈ ws, x.scalar = false) :
    (t.readSpecial i ws).advance 1 = { t.advance 1 with
      lanes := (t.readSpecial i ws).lanes, unchecked := (t.readSpecial i ws).unchecked } := by
  cases htime : Claims.isTime i
  · rw [Team.readSpecial_of_not_time htime, Team.foldl_land_lanes ws h]; rfl
  · rw [Team.readSpecial_of_time htime]; rfl

theorem Team.readSpecial_scalars_frame (t : Team) (i : Nat) {ws : List RegWrite} (h : ∀ x ∈ ws, x.scalar = true) :
    (t.readSpecial i ws).advance 1 = { t.advance 1 with
      scalars := (t.readSpecial i ws).scalars, unchecked := (t.readSpecial i ws).unchecked } := by
  cases htime : Claims.isTime i
  · rw [Team.readSpecial_of_not_time htime, Team.foldl_land_scalars ws h]; rfl
  · rw [Team.readSpecial_of_time htime]; rfl

/-- What the lanes and the outstanding writes hold after SREAD into lane registers. -/
theorem laneSpecial_reads {s : State} {t : Team} {d i : Nat} {names : List Nat} (hsucc : wideSpecial i → t.phys (d + 1) = t.phys d + 1)
    (hnames : names = if Claims.isWide i then [d, d + 1] else [d]) :
    (Claims.isTime i = false → (t.readSpecial i (laneSpecialWrites s t d i)).unchecked = t.unchecked
      ∧ (∀ l ∈ t.active, (t.readSpecial i (laneSpecialWrites s t d i)).lanes.get (t.phys d * 1024 + l)
            = (Claims.specialRegister s t i l).truncate 32
          ∧ (Claims.isWide i = true → (t.readSpecial i (laneSpecialWrites s t d i)).lanes.get (t.phys (d + 1) * 1024 + l)
            = (Claims.specialRegister s t i l >>> 32).truncate 32))
      ∧ (∀ k, (∀ l ∈ t.active, ∀ n ∈ names, k ≠ t.phys n * 1024 + l) →
          (t.readSpecial i (laneSpecialWrites s t d i)).lanes.get k = t.lanes.get k))
    ∧ (Claims.isTime i = true → (t.readSpecial i (laneSpecialWrites s t d i)).lanes = t.lanes
      ∧ (t.readSpecial i (laneSpecialWrites s t d i)).unchecked = t.unchecked ++ t.active.flatMap (fun l =>
          Claims.timeWrites false (t.phys d * 1024 + l) (t.phys (d + 1) * 1024 + l) (Claims.specialRegister s t i l))) := by
  refine ⟨fun htime => ?_, fun htime => ?_⟩
  · rw [Team.readSpecial_of_not_time htime, Team.foldl_land_lanes _ laneSpecialWrites_scalar]
    refine ⟨rfl, fun l hl => ⟨laneSpecialWrites_low hsucc hl _, fun hw => laneSpecialWrites_high hsucc ((wideSpecial_iff _).mpr hw) hl _⟩,
      fun k hk => laneSpecialWrites_other (fun l hl => hk l hl d ?_) (fun hw l hl => hk l hl (d + 1) ?_) _⟩
    · rw [hnames]; split <;> simp
    · rw [hnames, if_pos ((wideSpecial_iff _).mp hw)]; simp
  · rw [Team.readSpecial_of_time htime]
    refine ⟨rfl, ?_⟩
    simp only [laneSpecialWrites, specialWrites_of_time ((wideSpecial_iff i).mpr (isWide_of_isTime htime)), special_eq]

/-- What the scalars and the outstanding writes hold after SREAD into a scalar. -/
theorem scalarSpecial_reads {t : Team} {e i : Nat} {v : BitVec 64} {ws : List RegWrite}
    (hws : ws = specialWrites i true (t.scalarReg e) (t.scalarReg (e + 1)) v) :
    (Claims.isTime i = false → (t.readSpecial i ws).unchecked = t.unchecked
      ∧ (t.readSpecial i ws).scalars.get (t.scalarReg e) = v.truncate 32
      ∧ (Claims.isWide i = true → (t.readSpecial i ws).scalars.get (t.scalarReg (e + 1)) = (v >>> 32).truncate 32)
      ∧ (∀ k, k ≠ t.scalarReg e → (Claims.isWide i = true → k ≠ t.scalarReg (e + 1)) →
          (t.readSpecial i ws).scalars.get k = t.scalars.get k))
    ∧ (Claims.isTime i = true → (t.readSpecial i ws).scalars = t.scalars
      ∧ (t.readSpecial i ws).unchecked = t.unchecked ++ Claims.timeWrites true (t.scalarReg e) (t.scalarReg (e + 1)) v) := by
  subst hws
  have hne := t.scalarReg_succ_ne e
  refine ⟨fun htime => ?_, fun htime => ?_⟩
  · rw [Team.readSpecial_of_not_time htime, Team.foldl_land_scalars _ specialWrites_scalar]
    exact ⟨rfl, specialWrites_low _ hne, fun hw => specialWrites_high _ ((wideSpecial_iff _).mpr hw) hne,
      fun k hlow hhigh => specialWrites_other _ hlow (fun hw => hhigh ((wideSpecial_iff _).mp hw))⟩
  · rw [Team.readSpecial_of_time htime, specialWrites_of_time ((wideSpecial_iff i).mpr (isWide_of_isTime htime))]
    exact ⟨rfl, rfl⟩

/-! ## SWRITE -/

section Swrite

variable {s : State} {i : Instr} {lane : Nat} {w : BitVec 64}

theorem State.writeTrapPc_of_target (h0 : w.toNat < 2 ^ 57) (h1 : w.toNat % 4 = 0) : s.writeTrapPc i lane w =
    .next (s.withTeam ({ s.team with trap := { s.team.trap with pc := w.truncate 57, pcWritten := true } }.advance 1)) := by
  rw [State.writeTrapPc, if_neg (Nat.not_le_of_lt h0), if_neg (not_not.mpr h1)]

theorem State.writeTrapPc_of_misaligned (h0 : w.toNat < 2 ^ 57) (h1 : w.toNat % 4 ≠ 0) :
    s.writeTrapPc i lane w = .next (s.vaTrap 0x03 lane w.toNat) := by
  rw [State.writeTrapPc, if_neg (Nat.not_le_of_lt h0), if_pos h1]

theorem State.writeTrapPc_of_reserved (h0 : 2 ^ 57 ≤ w.toNat) : s.writeTrapPc i lane w = .next (s.illegal i) := if_pos h0

variable {f : Nat → Word}

theorem State.writeNetstat_of_ok (h : ∀ l ∈ s.team.active, f l &&& 0xFFFF00FE = 0) :
    s.writeNetstat i f = .next (s.withTeam ((s.team.clearNetstat s.team.active f).advance 1)) := by
  refine if_pos (List.all_eq_true.mpr fun l hl => ?_)
  rw [netstatOk, beq_iff_eq]
  exact h l hl

theorem State.writeNetstat_of_reserved (h : ∃ l ∈ s.team.active, f l &&& 0xFFFF00FE ≠ 0) : s.writeNetstat i f = .next (s.illegal i) := by
  obtain ⟨l, hl, hne⟩ := h
  refine if_neg (fun hall => hne ?_)
  have hok := List.all_eq_true.mp hall l hl
  rwa [netstatOk, beq_iff_eq] at hok

theorem Team.clearNetstat_get (t : Team) (ls : List Nat) (l : Nat) :
    (t.clearNetstat ls f).netstat.get l = if l ∈ ls ∧ (f l).getLsbD 0 = true then 0 else t.netstat.get l := by
  unfold Team.clearNetstat
  dsimp only
  generalize t.netstat = m
  induction ls generalizing m with
  | nil => simp
  | cons a ls ih =>
    rw [List.foldl_cons, ih]
    by_cases ha : (f a).getLsbD 0 = true
    · rw [if_pos ha, FMap.get_set]
      by_cases hl : l = a
      · subst hl; simp [ha]
      · simp [hl]
    · rw [if_neg ha]
      by_cases hl : l = a
      · subst hl; simp only [ha, and_false, if_false, Bool.false_eq_true]
      · simp [hl]

end Swrite

/-- SWRITE of TRAPPC writes it from its scalar pair, or from the lowest active lane's pair. -/
theorem exec_swrite_trapPc {s : State} {b : Bool} {c : BitVec 6} {v : BitVec 7} {t : Team} {w : BitVec 64} {i : Instr} {lane : Nat}
    (ht : t = s.team.belay b) (h : (i = .swriteScalar b 0x0E c ∧ lane = 0 ∧ w = t.srd64 c.toNat)
      ∨ (i = .swriteLane b 0x0E v ∧ s.team.namesOk [v.toNat, v.toNat + 1] = true ∧ t.active.head? = some lane ∧ w = t.rd64 v.toNat lane)) :
    exec i s = (s.withTeam t).writeTrapPc i lane w := by
  subst ht
  rcases h with ⟨rfl, rfl, rfl⟩ | ⟨rfl, hok, hhead, rfl⟩
  · rfl
  · rw [exec, execSwriteLane]
    obtain ⟨rest, hact⟩ := List.head?_eq_some_iff.mp hhead
    simp [wideSpecial, hok, hact]

theorem exec_swriteLane_trapPc_of_empty {s : State} {b : Bool} {v : BitVec 7} {t : Team} (ht : t = s.team.belay b)
    (hok : s.team.namesOk [v.toNat, v.toNat + 1] = true) (hempty : t.active = []) :
    exec (.swriteLane b 0x0E v) s = .next (s.withTeam (t.advance 1)) := by
  subst ht
  rw [exec, execSwriteLane]
  simp [wideSpecial, hok, hempty]

theorem exec_swrite_netstat {s : State} {b : Bool} {c : BitVec 6} {v : BitVec 7} {t : Team} {w : Nat → Word} {i : Instr}
    (ht : t = s.team.belay b) (h : (i = .swriteScalar b 0x10 c ∧ w = fun _ => t.srd c.toNat)
      ∨ (i = .swriteLane b 0x10 v ∧ s.team.namesOk [v.toNat] = true ∧ w = t.rd v.toNat)) :
    exec i s = (s.withTeam t).writeNetstat i w := by
  subst ht
  rcases h with ⟨rfl, rfl⟩ | ⟨rfl, hok, rfl⟩
  · rfl
  · rw [exec, execSwriteLane]
    simp [wideSpecial, hok]

/-- Settles O24: SREAD is its register writes, landed or outstanding, and SWRITE its checks in their order. -/
theorem specialRegisters : Obligations.SpecialRegisters := by
  unfold Obligations.SpecialRegisters
  refine ⟨fun s b d e ix t ht _ => ⟨fun names hnames hok heven => ⟨fun hread => ?lanes, ?lanesWait⟩,
      fun v hv hread => ?scalar, exec_sreadScalar_of_waits⟩,
    fun s b c v t ht => ⟨fun w i lane hi => ⟨fun h0 h1 => ?_, fun h0 h1 => ?_, fun h0 => ?_⟩,
      exec_swriteLane_trapPc_of_empty ht, fun w i hi => ⟨fun hzero => ?netstat, fun hset => ?_⟩⟩⟩
  case lanesWait => subst hnames; exact exec_sreadLane_of_waits hok
  case lanes =>
    have hsucc : wideSpecial ix.toNat → t.phys (d.toNat + 1) = t.phys d.toNat + 1 := fun hw => by
      have hwide := (wideSpecial_iff _).mp hw
      rw [hnames, if_pos hwide] at hok
      rw [ht, Team.belay_phys, Team.belay_phys]
      exact Team.phys_succ hok (heven hwide) d.isLt
    have hreads := laneSpecial_reads (s := s) hsucc hnames
    have hexec := exec_sreadLane_of_canRead (b := b) (hnames ▸ hok) hread
    rw [← ht] at hexec
    exact ⟨_, hexec, Team.readSpecial_lanes_frame _ _ laneSpecialWrites_scalar, hreads.1, hreads.2⟩
  case scalar =>
    have hreads := scalarSpecial_reads (t := t) (e := e.toNat) (i := ix.toNat) (v := v) rfl
    exact ⟨_, exec_sreadScalar_of_canRead hread ht hv, Team.readSpecial_scalars_frame _ _ specialWrites_scalar, hreads.1, hreads.2⟩
  case netstat =>
    exact ⟨_, (exec_swrite_netstat ht hi).trans (State.writeNetstat_of_ok hzero), rfl, Team.clearNetstat_get t t.active⟩
  · exact (exec_swrite_trapPc ht hi).trans (State.writeTrapPc_of_target h0 h1)
  · exact (exec_swrite_trapPc ht hi).trans (State.writeTrapPc_of_misaligned h0 h1)
  · exact (exec_swrite_trapPc ht hi).trans (State.writeTrapPc_of_reserved h0)
  · exact (exec_swrite_netstat ht hi).trans (State.writeNetstat_of_reserved hset)

end Sys2Proof.Machine
end

section
/-! What the accesses of the issuing team that are performed before it goes on (R241, R262, R273) leave as it was: every record of the
package but the issuing team, the teams, memory, and what is on its way there.  Then the crew barriers and EXIT. -/

namespace Sys2Proof.Machine

/-! ## What the memory path leaves unchanged -/

/-- Crews, contexts, weight stores, semaphores, bank rounds, and the other records that no access to memory touches, are as they were. -/
structure SamePackage (s t : State) : Prop where
  crew : t.crew = s.crew
  ctx : t.ctx = s.ctx
  crews : t.crews = s.crews
  ctxs : t.ctxs = s.ctxs
  bankOld : t.bankOld = s.bankOld
  weights : t.weights = s.weights
  semaphores : t.semaphores = s.semaphores
  bankErr : t.bankErr = s.bankErr
  rounds : t.rounds = s.rounds
  bankCmds : t.bankCmds = s.bankCmds
  shoots : t.shoots = s.shoots
  staging : t.staging = s.staging
  slotsBusy : t.slotsBusy = s.slotsBusy
  inbox : t.inbox = s.inbox
  nextKey : t.nextKey = s.nextKey
  tick : t.tick = s.tick

section SamePackage

variable {s t u : State}

theorem SamePackage.refl (s : State) : SamePackage s s := by constructor <;> rfl

theorem SamePackage.trans (h : SamePackage s t) (h' : SamePackage t u) : SamePackage s u := by
  constructor
  · exact h'.crew.trans h.crew
  · exact h'.ctx.trans h.ctx
  · exact h'.crews.trans h.crews
  · exact h'.ctxs.trans h.ctxs
  · exact h'.bankOld.trans h.bankOld
  · exact h'.weights.trans h.weights
  · exact h'.semaphores.trans h.semaphores
  · exact h'.bankErr.trans h.bankErr
  · exact h'.rounds.trans h.rounds
  · exact h'.bankCmds.trans h.bankCmds
  · exact h'.shoots.trans h.shoots
  · exact h'.staging.trans h.staging
  · exact h'.slotsBusy.trans h.slotsBusy
  · exact h'.inbox.trans h.inbox
  · exact h'.nextKey.trans h.nextKey
  · exact h'.tick.trans h.tick

theorem SamePackage.foldl {α : Type} {f : State → α → State} (h : ∀ s a, SamePackage s (f s a)) (l : List α) (s : State) :
    SamePackage s (l.foldl f s) := by
  induction l generalizing s with
  | nil => exact .refl s
  | cons a l ih => exact (h s a).trans (ih _)

end SamePackage

section Operations

variable (s : State)

theorem samePackage_withTeam (t : Team) : SamePackage s (s.withTeam t) := by constructor <;> rfl

theorem samePackage_modTeam (k : Nat) (f : Team → Team) : SamePackage s (s.modTeam k f) := by constructor <;> simp

theorem samePackage_perform (b : StoreByte) : SamePackage s (s.perform b) := by constructor <;> simp

theorem samePackage_drainWith (k : Nat) (p : StoreByte → Bool) : SamePackage s (s.drainWith k p) := by constructor <;> simp

theorem samePackage_drainLine (k l : Nat) : SamePackage s (s.drainLine k l) := by constructor <;> simp

theorem samePackage_drainAll (k : Nat) : SamePackage s (s.drainAll k) := by constructor <;> simp

theorem samePackage_seeBytes (k : Nat) (ts : List Nat) (p : StoreByte → Bool) : SamePackage s (s.seeBytes k ts p) := by
  constructor <;> simp

theorem samePackage_performScFor (p : StoreByte → Bool) : SamePackage s (s.performScFor p) := by constructor <;> simp

theorem samePackage_performSc : SamePackage s s.performSc := by constructor <;> simp

theorem samePackage_settleScOf (k : Nat) : SamePackage s (s.settleScOf k) := samePackage_performScFor s _

theorem samePackage_settleSc : SamePackage s s.settleSc := samePackage_settleScOf s _

theorem samePackage_drainTeam : SamePackage s s.drainTeam := .foldl (fun s k => samePackage_drainWith s k _) _ s

theorem samePackage_drainSeen : SamePackage s s.drainSeen := .foldl (fun s k => samePackage_drainWith s k _) _ s

theorem samePackage_reported (p n : Nat) : SamePackage s (s.reported p n) := by constructor <;> simp

theorem samePackage_bufferStore (k : Nat) (l : Loc) (n v : Nat) : SamePackage s (s.bufferStore k l n v) := by constructor <;> simp

theorem samePackage_beforeLoad (sc : Bool) (k : Nat) (l : Loc) (n : Nat) : SamePackage s (s.beforeLoad sc k l n) := by constructor <;> simp

theorem samePackage_afterLoad (t o k : Nat) (l : Loc) (n m : Nat) : SamePackage s (s.afterLoad t o k l n m) := by constructor <;> simp

theorem samePackage_touch (ls : List LaneAcc) : SamePackage s (s.touch ls) := by constructor <;> simp

theorem samePackage_drainFor (k : Nat) (l : List Loc) : SamePackage s (s.drainFor k l) := by constructor <;> simp

theorem samePackage_writeFrom (t k : Nat) (l : Loc) (n v : Nat) : SamePackage s (s.writeFrom t k l n v) := by constructor <;> simp

theorem samePackage_atomicAt (x : AtomLane) : SamePackage s (s.atomicAt x) := by
  unfold State.atomicAt
  dsimp only
  refine .trans ?_ (samePackage_modTeam _ _ _)
  have hstored := fun new =>
    (samePackage_drainWith s x.core (fun b => decide (x.addr ≤ b.addr) && decide (b.addr < x.addr + x.size))).trans
      ((samePackage_reported _ x.addr x.size).trans (.foldl samePackage_perform (storeBytes x.team x.core ⟨x.addr, x.repl, false⟩ x.size new) _))
  split
  · exact (hstored _).trans (samePackage_seeBytes _ _ _ _)
  · exact hstored _

theorem samePackage_runAtomics (k : Nat) : SamePackage s (s.runAtomics k) :=
  (SamePackage.foldl samePackage_atomicAt _ s).trans (by constructor <;> rfl)

theorem samePackage_settleOver (l : List (Nat × Nat)) : SamePackage s (s.settleOver l) := by
  unfold State.settleOver
  dsimp only
  split
  · exact (samePackage_performScFor s _).trans (samePackage_runAtomics _ _)
  · exact samePackage_performScFor s _

theorem samePackage_landValue (o : AsyncOp) (l : LdaLane) (v : BitVec 64) : SamePackage s (s.landValue o l v) := by constructor <;> rfl

theorem samePackage_engineSaw (t c p a n : Nat) : SamePackage s (s.engineSaw t c p a n) :=
  (samePackage_modTeam s _ _).trans (samePackage_reported _ _ _)

theorem samePackage_landRead (o : AsyncOp) (l : LdaLane) : SamePackage s (s.landRead o l) := by
  unfold State.landRead
  dsimp only
  refine .trans ?_ (samePackage_afterLoad _ _ _ _ _ _ _)
  have hland := fun v => samePackage_landValue s o l v
  have hsaw : ∀ (v : BitVec 64) (c : Bool) (p a n : Nat), SamePackage s
      (if c = true then (s.landValue o l v).engineSaw o.team o.stamp p a n else s.landValue o l v) := by
    intro v c p a n
    split
    · exact (hland v).trans (samePackage_engineSaw _ _ _ _ _ _)
    · exact hland v
  split
  · exact (hsaw _ _ _ _ _).trans (samePackage_modTeam _ _ _)
  · exact hsaw _ _ _ _ _

theorem samePackage_landLane (o : AsyncOp) (l : LdaLane) : SamePackage s (s.landLane o l) := by
  unfold State.landLane
  split
  · exact samePackage_landValue s o l _
  · exact samePackage_landRead s o l

theorem samePackage_landTeam : SamePackage s s.landTeam :=
  .foldl (fun s (x : AsyncOp × LdaLane) => samePackage_landLane s x.1 x.2) _ s

theorem samePackage_loadsBack : SamePackage s s.loadsBack :=
  (samePackage_runAtomics s _).trans ((samePackage_landTeam _).trans (samePackage_withTeam _ _))

theorem samePackage_publish : SamePackage s s.publish := .foldl (fun s k => samePackage_seeBytes s k _ _) _ s

theorem samePackage_release : SamePackage s s.release :=
  (samePackage_loadsBack s).trans ((samePackage_settleSc _).trans (samePackage_drainTeam _))

theorem samePackage_fenceDev : SamePackage s s.fenceDev :=
  (samePackage_loadsBack s).trans ((samePackage_settleSc _).trans (samePackage_drainSeen _))

theorem samePackage_fenceCore : SamePackage s s.fenceCore :=
  (samePackage_loadsBack s).trans ((samePackage_settleSc _).trans (samePackage_publish _))

theorem samePackage_fenceCrew : SamePackage s s.fenceCrew := by
  unfold State.fenceCrew
  split
  · exact samePackage_fenceDev s
  · exact samePackage_fenceCore s

theorem samePackage_prepareLoad (q : BitVec 2) (n : Nat) (ok : List (Nat × Nat × Loc)) : SamePackage s (s.prepareLoad q n ok) := by
  refine .trans (t := (if q = 2 then s.performSc else s).settleOver (spansOf n ok)) (.trans ?_ (samePackage_settleOver _ _))
    (.foldl (fun s x => samePackage_beforeLoad s _ _ _ _) _ _)
  split
  · exact samePackage_performSc s
  · exact .refl s

theorem samePackage_concludeLoad (q : BitVec 2) (n : Nat) (ok : List (Nat × Nat × Loc)) : SamePackage s (s.concludeLoad q n ok) :=
  (SamePackage.foldl (fun s _ => samePackage_afterLoad s _ _ _ _ _ _) _ s).trans (samePackage_withTeam _ _)

theorem samePackage_concludeNow (k : Nat) (l : Loc) (n : Nat) : SamePackage s (s.concludeNow k l n) :=
  (samePackage_afterLoad s _ _ _ _ _ _).trans (samePackage_withTeam _ _)

theorem samePackage_prepareStore (q : BitVec 2) (spans : List (Nat × Nat)) : SamePackage s (s.prepareStore q spans) := by
  unfold State.prepareStore
  dsimp only
  refine .trans (.trans ?_ (samePackage_settleOver _ _)) (samePackage_withTeam _ _)
  split_ifs
  · exact (samePackage_performSc s).trans (samePackage_release _)
  · exact samePackage_release s
  · exact .refl s

end Operations

/-! ## Crew barriers -/

section Barriers

variable {i : Instr} {b counted x : Bool} {n k : Nat} {s : State}

/-- A present round of another form makes a barrier no instruction (R30). -/
theorem barrier_of_other_form {r : Round} (hr : s.crew.rounds.find? (fun r => r.n == n) = some r)
    (hform : r.counted ≠ counted ∨ r.x ≠ x ∨ r.k ≠ k) : barrier i b counted x n k s = .next (s.illegal i) := by
  have hne : (r.counted != counted || r.x != x || r.k != k) = true := by simpa [or_assoc] using hform
  unfold barrier
  dsimp only [State.withTeam]
  rw [hr]
  exact if_pos hne

/-- Outside the delivery of a canvas, a team arrives at a barrier that has no round, or one of its form. -/
theorem barrier_of_own_form (hpend : s.crew.canvas.pend = none)
    (hform : ∀ r, s.crew.rounds.find? (fun r => r.n == n) = some r → r.counted = counted ∧ r.x = x ∧ r.k = k) :
    barrier i b counted x n k s = .next (Claims.barrierArrival (s.withTeam (s.team.belay b)) n counted x k) := by
  have hdelivery : (s.withTeam (s.team.belay b)).delivery = none := by
    unfold State.delivery
    dsimp only [State.withTeam]
    rw [hpend]
  have hown : ∀ r, s.crew.rounds.find? (fun r => r.n == n) = some r → (r.counted != counted || r.x != x || r.k != k) = false := by
    intro r hr
    obtain ⟨h1, h2, h3⟩ := hform r hr
    simp [h1, h2, h3]
  unfold barrier Claims.barrierArrival Claims.arriveAt
  cases hr : s.crew.rounds.find? (fun r => r.n == n) with
  | none =>
    simp only [State.withTeam_crew, (samePackage_fenceCrew _).crew, hr, hdelivery]
    rw [if_neg Bool.false_ne_true]
    split <;> rfl
  | some r =>
    simp only [State.withTeam_crew, (samePackage_fenceCrew _).crew, hr, hdelivery, hown r hr]
    rw [if_neg Bool.false_ne_true]
    split <;> rfl

end Barriers

/-- Settles O29: the four forms are one barrier, which asks for a round of its own form. -/
theorem crewBarriersArrive : Obligations.CrewBarriersArrive := by
  unfold Obligations.CrewBarriersArrive
  intro s b n k hpend form hform
  have hexec : exec form.1 s = barrier form.1 b form.2.1 form.2.2.1 n.toNat form.2.2.2 s := by
    simp only [List.mem_cons, List.not_mem_nil, or_false] at hform
    rcases hform with rfl | rfl | rfl | rfl <;> rfl
  rw [hexec]
  exact ⟨barrier_of_own_form hpend, fun r => barrier_of_other_form⟩

/-! ## EXIT -/

/-- Settles O30: EXIT is taken apart as its meaning stands. -/
theorem exitEndsTeam : Obligations.ExitEndsTeam := by
  unfold Obligations.ExitEndsTeam
  intro s b
  refine ⟨fun hempty => ?_, fun hactive => ?_⟩
  · rw [exec, execExit]
    simp only [Team.belay_active, if_pos hempty]
  · rw [exec, execExit]
    simp only [Team.belay_active, if_neg hactive, Team.belay_key, Team.belay_crew]
    rfl

end Sys2Proof.Machine
end

section
/-! Loads (R241, R252, R260 to R264, R268): the checks that come first, then the lanes, then what is left of them. -/

namespace Sys2Proof.Machine

/-! ## The checks before the lanes act -/

section Precheck

variable {n : Nat} {ls : List LaneAcc}

theorem precheck_of_misaligned {x : LaneAcc} (h : ls.find? (fun x => x.va % n != 0) = some x) : precheck n ls = some (0x03, x.lane, x.va) := by
  rw [precheck, h]

theorem find?_misaligned_eq_none (h : ∀ y ∈ ls, y.va % n = 0) : ls.find? (fun x => x.va % n != 0) = none := by
  simpa using h

theorem find?_outside_eq_none (h : ∀ y ∈ ls, y.va < 2 ^ 57) : ls.find? (fun x => decide (2 ^ 57 ≤ x.va)) = none := by
  simpa using h

theorem precheck_of_outside {x : LaneAcc} (haligned : ∀ y ∈ ls, y.va % n = 0)
    (h : ls.find? (fun x => decide (2 ^ 57 ≤ x.va)) = some x) : precheck n ls = some (0x05, x.lane, x.va) := by
  rw [precheck, find?_misaligned_eq_none haligned]
  dsimp only
  rw [h]

/-- A lane that would write the weight store. -/
def LaneAcc.forbidden (x : LaneAcc) : Bool :=
  match x.res with
  | .error 0x07 => true
  | _ => false

theorem LaneAcc.forbidden_iff (x : LaneAcc) : x.forbidden = true ↔ x.res = .error 0x07 := by
  unfold LaneAcc.forbidden
  split
  · next h => simp [h]
  · next h => simpa using h

theorem precheck_of_inside (haligned : ∀ y ∈ ls, y.va % n = 0) (hinside : ∀ y ∈ ls, y.va < 2 ^ 57) :
    precheck n ls = (ls.find? LaneAcc.forbidden).map (fun x => (0x07, x.lane, x.va)) := by
  rw [precheck, find?_misaligned_eq_none haligned]
  dsimp only
  rw [find?_outside_eq_none hinside]
  change (match ls.find? LaneAcc.forbidden with
    | some x => some (0x07, x.lane, x.va)
    | none => none) = _
  cases ls.find? LaneAcc.forbidden <;> rfl

theorem precheck_eq_none (haligned : ∀ y ∈ ls, y.va % n = 0) (hinside : ∀ y ∈ ls, y.va < 2 ^ 57) (hres : ∀ y ∈ ls, y.res ≠ .error 0x07) :
    precheck n ls = none := by
  have hnone : ls.find? LaneAcc.forbidden = none :=
    List.find?_eq_none.mpr fun y hy => mt (LaneAcc.forbidden_iff y).mp (hres y hy)
  rw [precheck_of_inside haligned hinside, hnone, Option.map_none]

theorem precheck_of_forbidden {before after : List LaneAcc} {x : LaneAcc} (hls : ls = before ++ x :: after)
    (hchecked : ∀ y ∈ ls, y.va % n = 0 ∧ y.va < 2 ^ 57) (hbefore : ∀ y ∈ before, y.res ≠ .error 0x07) (hx : x.res = .error 0x07) :
    precheck n ls = some (0x07, x.lane, x.va) := by
  have hfind : ls.find? LaneAcc.forbidden = some x := by
    rw [hls, List.find?_append, List.find?_eq_none.mpr fun y hy => mt (LaneAcc.forbidden_iff y).mp (hbefore y hy), Option.none_or,
      List.find?_cons_of_pos ((LaneAcc.forbidden_iff x).mpr hx)]
  rw [precheck_of_inside (fun y hy => (hchecked y hy).1) (fun y hy => (hchecked y hy).2), hfind, Option.map_some]

theorem precheck_of_allLocated (h : Claims.AllLocated n ls) : precheck n ls = none := by
  refine precheck_eq_none (fun y hy => (h y hy).1) (fun y hy => (h y hy).2.1) (fun y hy => ?_)
  obtain ⟨-, -, l, hl⟩ := h y hy
  rw [hl]
  nofun

theorem unlocated_of_allLocated {acc : Access} (h : Claims.AllLocated n ls) : unlocated acc ls = [] := by
  refine List.filterMap_eq_nil_iff.mpr fun y hy => ?_
  obtain ⟨-, -, l, hl⟩ := h y hy
  rw [hl]

end Precheck

/-! ## Lanes that load -/

section Conclude

variable (s : State) (q : BitVec 2) (n : Nat) (ok : List (Nat × Nat × Loc))

/-- The lanes of a load change no team but by what the load orders. -/
@[simp] theorem State.concludeLoad_team : (s.concludeLoad q n ok).team = s.afterLanes q n ok s.team := by
  rw [State.concludeLoad, State.withTeam]
  dsimp only
  rw [State.foldl_keeps _ (·.team) (fun s x => State.afterLoad_team s _ _ _ _ _ _)]

@[simp] theorem State.concludeLoad_mem : (s.concludeLoad q n ok).mem = s.mem :=
  State.foldl_keeps _ (·.mem) (fun s _ => State.afterLoad_mem s _ _ _ _ _ _) _ s

@[simp] theorem State.concludeLoad_scStores : (s.concludeLoad q n ok).scStores = s.scStores :=
  State.foldl_keeps _ (·.scStores) (fun s _ => State.afterLoad_scStores s _ _ _ _ _ _) _ s

end Conclude

theorem State.finishAccess_nil (s : State) (len : Nat) : s.finishAccess len [] = s.withTeam (s.team.advance len) := rfl

/-- The state after the lanes of a load that translate: what the others do follows. -/
def loadedState (s0 : State) (q : BitVec 2) (ty : BitVec 3) (d : BitVec 7) (ls : List LaneAcc) : State :=
  ((s0.concludeLoad q (typeSize ty.toNat) (located ls)).touch ls).withTeam
    { (s0.concludeLoad q (typeSize ty.toNat) (located ls)).team with
      unchecked := (s0.concludeLoad q (typeSize ty.toNat) (located ls)).team.unchecked ++ s0.loadWrites q ty.toNat d.toNat (located ls) }

section LoadGlobal

variable {s : State} {i : Instr} {b : Bool} {q : BitVec 2} {ty : BitVec 3} {d a : BitVec 7} {base len : Nat} {off : Int} {t : Team}
  {ls : List LaneAcc} (hok : s.team.namesOk (accessNames ty.toNat d.toNat a.toNat) = true) (ht : t = s.team.belay b)
include hok ht

theorem loadGlobal_of_empty (hempty : t.acting = []) : loadGlobal i b q ty d a base off len s = .next (s.withTeam (t.advance len)) := by
  subst ht
  rw [loadGlobal, hok]
  simp only [Bool.not_true, Bool.false_eq_true, if_false, hempty, if_true]

variable (hls : ls = s.lanesAt t .read (t.laneAddr base a.toNat off)) (hactive : t.acting ≠ [])
include hls hactive

theorem loadGlobal_of_check {c l va : Nat} (h : precheck (typeSize ty.toNat) ls = some (c, l, va)) :
    loadGlobal i b q ty d a base off len s = .next (s.vaTrap c l va) := by
  subst ht hls
  rw [loadGlobal, hok]
  simp only [Bool.not_true, Bool.false_eq_true, if_false, if_neg hactive, h]

theorem loadGlobal_of_checked (h : precheck (typeSize ty.toNat) ls = none) : loadGlobal i b q ty d a base off len s =
    .next ((loadedState ((s.withTeam t).prepareLoad q (typeSize ty.toNat) (located ls)) q ty d ls).finishAccess len (unlocated .read ls)) := by
  subst ht hls
  rw [loadGlobal, hok]
  simp only [Bool.not_true, Bool.false_eq_true, if_false, if_neg hactive, h]
  rfl

end LoadGlobal

section Loaded

variable (s0 : State) (q : BitVec 2) (ty : BitVec 3) (d : BitVec 7) (ls : List LaneAcc)

theorem samePackage_loadedState : SamePackage s0 (loadedState s0 q ty d ls) :=
  (samePackage_concludeLoad s0 _ _ _).trans ((samePackage_touch _ _).trans (samePackage_withTeam _ _))

theorem loadedState_team : (loadedState s0 q ty d ls).team = { s0.afterLanes q (typeSize ty.toNat) (located ls) s0.team with
    unchecked := (s0.afterLanes q (typeSize ty.toNat) (located ls) s0.team).unchecked
      ++ Claims.loadedWrites s0 s0.team q ty.toNat d.toNat (located ls) } := by
  simp only [loadedState, State.withTeam_team, State.concludeLoad_team]
  rfl

theorem loadedState_mem : (loadedState s0 q ty d ls).mem = s0.mem := by simp [loadedState]

theorem loadedState_scStores : (loadedState s0 q ty d ls).scStores = s0.scStores := by simp [loadedState]

end Loaded

/-- Both forms of LD are one load with its own offset and length. -/
theorem exec_ldForms {s : State} {b : Bool} {q : BitVec 2} {ty : BitVec 3} {d a : BitVec 7} {e : BitVec 5} {off : Word} {f : Claims.Form}
    (hf : f ∈ Claims.ldForms b q ty d a e off) : exec f.1 s = loadGlobal f.1 b q ty d a (2 * e.toNat) f.2.1 f.2.2 s := by
  simp only [Claims.ldForms, List.mem_cons, List.not_mem_nil, or_false] at hf
  rcases hf with rfl | rfl <;> rfl

/-! ## Scalar loads -/

theorem exec_sldForms {s : State} {b : Bool} {q w : BitVec 2} {d : BitVec 6} {e : BitVec 5} {off : Word} {f : Claims.Form}
    (hf : f ∈ Claims.sldForms b q w d e off) : exec f.1 s = loadScalar b q w d (2 * e.toNat) f.2.1 f.2.2 s := by
  simp only [Claims.sldForms, List.mem_cons, List.not_mem_nil, or_false] at hf
  rcases hf with rfl | rfl <;> rfl

/-- An aligned scalar load that translates. -/
theorem loadScalar_of_located {s : State} {b : Bool} {q w : BitVec 2} {d : BitVec 6} {base len va size : Nat} {off : Int} {l : Loc} {t : Team}
    {s0 s1 : State} {v : BitVec 64} (ht : t = s.team.belay b) (hva : va = t.scalarAddr base off) (hsize : size = if w = 1 then 8 else 4)
    (haligned : va % size = 0) (hinside : va < 2 ^ 57) (hl : s.translate (s.crew.coreOf t 0) va .read = .ok l)
    (hs0 : s0 = (s.withTeam t).prepareLoad q size [(0, va, l)]) (hs1 : s1 = s0.concludeLoad q size [(0, va, l)])
    (hv : v = BitVec.ofNat 64 (s0.loadValAt (s0.laneMoment q size (0, va, l)) (s.crew.coreOf t 0) t.key (q != 0) l size)) :
    loadScalar b q w d base off len s = .next ((s1.touch [⟨0, va, .ok l⟩]).withTeam ({ s1.team with
      unchecked := s1.team.unchecked ++ scalarWrites s1.team w d.toNat v s0.tick
        (loadSrc s0 q.toNat 0 (s.crew.coreOf t 0) l (if w = 1 then 3 else 2)) }.advance len)) := by
  have hacc : s.scalarAcc t .read va = ⟨0, va, .ok l⟩ := by rw [State.scalarAcc, hl]
  have hcheck : precheck size [⟨0, va, .ok l⟩] = none :=
    precheck_of_allLocated (fun x hx => by rw [List.mem_singleton.mp hx]; exact ⟨haligned, hinside, l, rfl⟩)
  subst ht
  rw [loadScalar, ← hva, ← hsize, hacc]
  simp only [hcheck]
  rw [← hs0, ← hs1, ← hv]

/-- Settles O31: the checks pass, the lanes read, and none is left. -/
theorem loadsComplete : Obligations.LoadsComplete := by
  unfold Obligations.LoadsComplete
  intro s b q w ty d a d6 e off t ht
  refine ⟨fun f hf ls s0 u hls hok => ⟨fun hempty => ?empty, fun hactive hall hs0 hu => ?lanes⟩,
    fun f hf va size l s0 v u hva hsize haligned hinside hl hs0 hu hv => ?scalar, fun s0 n x => if_pos rfl⟩
  case empty => rw [exec_ldForms hf, loadGlobal_of_empty hok ht hempty]
  case lanes =>
    subst hs0 hu
    have hsame := (samePackage_withTeam s t).trans ((samePackage_prepareLoad (s.withTeam t) q (typeSize ty.toNat) (located ls)).trans
      (samePackage_loadedState _ q ty d ls))
    have hexec := (exec_ldForms (s := s) hf).trans (loadGlobal_of_checked hok ht hls hactive (precheck_of_allLocated hall))
    rw [unlocated_of_allLocated hall, State.finishAccess_nil, loadedState_team] at hexec
    exact ⟨_, hexec, rfl, loadedState_mem _ q ty d ls, hsame.crew, hsame.ctx, loadedState_scStores _ q ty d ls, hsame.weights⟩
  case scalar =>
    have hsame := (samePackage_withTeam s t).trans ((samePackage_prepareLoad (s.withTeam t) q size [(0, va, l)]).trans
      ((samePackage_concludeLoad _ q size [(0, va, l)]).trans (samePackage_touch _ [⟨0, va, .ok l⟩])))
    rw [← hs0] at hsame
    have hexec := (exec_sldForms (s := s) hf).trans (loadScalar_of_located ht hva hsize haligned hinside hl hs0 rfl hv)
    rw [State.concludeLoad_team, ← hu] at hexec
    exact ⟨_, hexec, by simp, hsame.crew, hsame.ctx, hsame.weights, rfl⟩

end Sys2Proof.Machine
end

section
/-! Stores (R241, R243, R244, R246, R252, R260 to R263, R265, R268). -/

namespace Sys2Proof.Machine

/-! ## The stores of a core -/

theorem assoc?_assocPut_self {α : Type} (l : List (Nat × α)) (k : Nat) (v : α) : assoc? (assocPut l k v) k = some v := by
  induction l with
  | nil => simp [assocPut, assoc?]
  | cons x l ih =>
    obtain ⟨j, w⟩ := x
    by_cases h : j = k
    · simp [assocPut, assoc?, h]
    · simp [assocPut, assoc?, h, ih]

theorem assoc?_assocPut_of_ne {α : Type} (l : List (Nat × α)) {j k : Nat} (v : α) (h : j ≠ k) : assoc? (assocPut l k v) j = assoc? l j := by
  induction l with
  | nil => simp [assocPut, assoc?, h.symm]
  | cons x l ih =>
    obtain ⟨i, w⟩ := x
    by_cases hik : i = k
    · subst hik
      simp [assocPut, assoc?, h.symm]
    · simp [assocPut, assoc?, hik, ih]

theorem State.core_modCore_self (s : State) (k : Nat) (f : CoreState → CoreState) : (s.modCore k f).core k = f (s.core k) := by
  rw [State.modCore, State.core]
  dsimp only
  rw [assoc?_assocPut_self]
  rfl

theorem State.core_modCore_of_ne (s : State) {j k : Nat} (f : CoreState → CoreState) (h : j ≠ k) : (s.modCore k f).core j = s.core j := by
  rw [State.modCore, State.core]
  dsimp only
  rw [assoc?_assocPut_of_ne _ _ h]
  rfl

/-- What a change of a core's stores leaves as it was there, it leaves so on every core. -/
theorem State.core_modCore_keeps {α : Type} (g : CoreState → α) (s : State) (k : Nat) {f : CoreState → CoreState} (h : g (f (s.core k)) = g (s.core k))
    (j : Nat) : g ((s.modCore k f).core j) = g (s.core j) := by
  by_cases hjk : j = k
  · rw [hjk, State.core_modCore_self, h]
  · rw [State.core_modCore_of_ne s f hjk]

/-- States whose cores list the same stores have the same cores. -/
theorem State.core_congr {s t : State} (h : t.cores = s.cores) (k : Nat) : t.core k = s.core k := by rw [State.core, State.core, h]

/-! ## Translations do not touch the buffers -/

@[simp] theorem State.core_withTeam (s : State) (t : Team) (k : Nat) : (s.withTeam t).core k = s.core k := rfl

theorem State.fillTlb_wcb (s : State) (c : Context) (k va j : Nat) : ((s.fillTlb c k va).core j).wcb = (s.core j).wcb := by
  unfold State.fillTlb
  split
  · rfl
  · split
    · rw [State.core_congr (State.walked_cores s _ _ _)]
    · refine (State.core_modCore_keeps CoreState.wcb _ _ ?_ _).trans (congrArg _ (State.core_congr (State.fillDieTlb_cores s _ _ _) j))
      dsimp only

@[simp] theorem State.touch_wcb (s : State) (ls : List LaneAcc) (j : Nat) : ((s.touch ls).core j).wcb = (s.core j).wcb :=
  State.foldl_keeps _ (fun s => (State.core s j).wcb) (fun s _ => State.fillTlb_wcb s _ _ _ j) ls s

/-! ## The lanes of a store -/

/-- Both forms of ST are one store with its own offset and length. -/
theorem exec_stForms {s : State} {b : Bool} {q : BitVec 2} {ty : BitVec 3} {d a : BitVec 7} {e : BitVec 5} {off : Word} {f : Claims.Form}
    (hf : f ∈ Claims.stForms b q ty d a e off) : exec f.1 s = storeGlobal f.1 b q ty d a (2 * e.toNat) f.2.1 f.2.2 s := by
  simp only [Claims.stForms, List.mem_cons, List.not_mem_nil, or_false] at hf
  rcases hf with rfl | rfl <;> rfl

section StoreGlobal

variable {s : State} {i : Instr} {b : Bool} {q : BitVec 2} {ty : BitVec 3} {d a : BitVec 7} {base len : Nat} {off : Int} {t : Team}
  {ls : List LaneAcc} (hok : s.team.namesOk (accessNames ty.toNat d.toNat a.toNat) = true) (ht : t = s.team.belay b)
include hok ht

theorem storeGlobal_of_empty (hempty : t.acting = []) : storeGlobal i b q ty d a base off len s = .next (s.withTeam (t.advance len)) := by
  subst ht
  rw [storeGlobal, hok]
  simp only [Bool.not_true, Bool.false_eq_true, if_false, hempty, if_true]

variable (hls : ls = s.lanesAt t .write (t.laneAddr base a.toNat off)) (hactive : t.acting ≠ [])
include hls hactive

theorem storeGlobal_of_check {c l va : Nat} (h : precheck (typeSize ty.toNat) ls = some (c, l, va)) :
    storeGlobal i b q ty d a base off len s = .next (s.vaTrap c l va) := by
  subst ht hls
  rw [storeGlobal, hok]
  simp only [Bool.not_true, Bool.false_eq_true, if_false, if_neg hactive, h]

variable {s0 : State} (hs0 : s0 = (s.withTeam t).prepareStore q (spansOf (typeSize ty.toNat) (located ls)))
  (h : precheck (typeSize ty.toNat) ls = none)
include hs0 h

theorem storeGlobal_of_room (hroom : q = 2 ∨ s0.noRoom (located ls) = false) : storeGlobal i b q ty d a base off len s =
    .next (((s0.storeLanes (q == 2) t ty.toNat d.toNat (located ls)).touch ls).finishAccess len (unlocated .write ls)) := by
  have hgo : (q != 2 && s0.noRoom (located ls)) = false := by
    rcases hroom with rfl | hroom
    · rfl
    · rw [hroom, Bool.and_false]
  subst ht hls
  rw [storeGlobal, hok]
  simp only [Bool.not_true, Bool.false_eq_true, if_false, if_neg hactive, h, ← hs0, hgo]

theorem storeGlobal_of_noRoom (hq : q ≠ 2) (hroom : s0.noRoom (located ls) = true) :
    storeGlobal i b q ty d a base off len s = .next s0.waits := by
  have hstop : (q != 2 && s0.noRoom (located ls)) = true := by rw [hroom, Bool.and_true, bne_iff_ne]; exact hq
  subst ht hls
  rw [storeGlobal, hok]
  simp only [Bool.not_true, Bool.false_eq_true, if_false, if_neg hactive, h, ← hs0, hstop, if_true]

end StoreGlobal

/-! ## Scalar stores -/

theorem exec_sstForms {s : State} {b : Bool} {q w : BitVec 2} {d : BitVec 6} {e : BitVec 5} {off : Word} {f : Claims.Form}
    (hf : f ∈ Claims.sstForms b q w d e off) : exec f.1 s = storeScalar b q w d (2 * e.toNat) f.2.1 f.2.2 s := by
  simp only [Claims.sstForms, List.mem_cons, List.not_mem_nil, or_false] at hf
  rcases hf with rfl | rfl <;> rfl

/-- The buffered stores to the bytes of an .sc store of the issuing team, on its own core and the team's own on the partner's, drain. -/
def State.drainUnder (s : State) (t : Nat) (core : Nat) (l : Loc) (size : Nat) : State :=
  s.teamCores.foldl (fun s k =>
    s.drainWith k (fun b => decide (l.pa ≤ b.addr) && decide (b.addr < l.pa + size) && (k == core || b.of t))) s

@[simp] theorem State.drainUnder_team (s : State) (t core : Nat) (l : Loc) (size : Nat) : (s.drainUnder t core l size).team = s.team :=
  State.foldl_keeps _ (·.team) (fun s k => State.drainWith_team s k _) _ s

@[simp] theorem State.drainUnder_scStores (s : State) (t core : Nat) (l : Loc) (size : Nat) : (s.drainUnder t core l size).scStores = s.scStores :=
  State.foldl_keeps _ (·.scStores) (fun s k => State.drainWith_scStores s k _) _ s

section StoreScalar

variable {s : State} {b : Bool} {q w : BitVec 2} {d : BitVec 6} {base len va size v : Nat} {off : Int} {l : Loc} {t : Team}
  {s0 : State} (ht : t = s.team.belay b) (hva : va = t.scalarAddr base off) (hsize : size = if w = 1 then 8 else 4)
  (haligned : va % size = 0) (hinside : va < 2 ^ 57) (hl : s.translate (s.crew.coreOf t 0) va .write = .ok l)
  (hs0 : s0 = (s.withTeam t).prepareStore q (l.span size))

include hl in
theorem scalarAcc_of_located : s.scalarAcc t .write va = ⟨0, va, .ok l⟩ := by rw [State.scalarAcc, hl]

include haligned hinside in
theorem precheck_scalar : precheck size [⟨0, va, .ok l⟩] = none :=
  precheck_of_allLocated (fun x hx => by rw [List.mem_singleton.mp hx]; exact ⟨haligned, hinside, l, rfl⟩)

include ht hva hsize haligned hinside hl hs0

theorem storeScalar_of_noRoom (hq : q ≠ 2) (hroom : s0.noRoom [(0, va, l)] = true) :
    storeScalar b q w d base off len s = .next s0.waits := by
  have hstop : (q != 2 && s0.noRoom [(0, va, l)]) = true := by rw [hroom, Bool.and_true, bne_iff_ne]; exact hq
  subst ht
  rw [storeScalar, ← hva, ← hsize, scalarAcc_of_located hl]
  simp only [precheck_scalar haligned hinside, ← hs0, hstop, if_true]

variable (hv : v = if w = 1 then (t.srd64 d.toNat).toNat else (t.srd d.toNat).toNat)
include hv

theorem storeScalar_of_sc (hq : q = 2) : storeScalar b q w d base off len s =
    let s1 := { s0.drainUnder t.key (s.crew.coreOf t 0) l size with
      scStores := (s0.drainUnder t.key (s.crew.coreOf t 0) l size).scStores ++ storeBytes t.key (s.crew.coreOf t 0) l size v }
    .next ((s1.touch [⟨0, va, .ok l⟩]).withTeam ((s1.touch [⟨0, va, .ok l⟩]).team.advance len)) := by
  subst ht hq
  rw [storeScalar, ← hva, ← hsize, scalarAcc_of_located hl]
  simp only [precheck_scalar haligned hinside, ← hs0, bne_self_eq_false, Bool.false_and, Bool.false_eq_true, if_false, if_true, ← hv]
  rfl

theorem storeScalar_of_room (hq : q ≠ 2) (hroom : s0.noRoom [(0, va, l)] = false) : storeScalar b q w d base off len s =
    .next (((s0.bufferStore (s.crew.coreOf t 0) l size v).touch [⟨0, va, .ok l⟩]).withTeam
      (((s0.bufferStore (s.crew.coreOf t 0) l size v).touch [⟨0, va, .ok l⟩]).team.advance len)) := by
  subst ht
  rw [storeScalar, ← hva, ← hsize, scalarAcc_of_located hl]
  simp only [precheck_scalar haligned hinside, ← hs0, hroom, Bool.and_false, Bool.false_eq_true, if_false, if_neg hq, ← hv]

end StoreScalar

/-- Settles O32: the checks pass, and the lanes' bytes go on their way where there is room for them. -/
theorem storesComplete : Obligations.StoresComplete := by
  unfold Obligations.StoresComplete
  intro s b q w ty d a d6 e off t ht
  refine ⟨fun f hf ls s0 hls hok => ⟨fun hempty => ?empty, fun hactive hall hs0 =>
      ⟨fun hroom s1 hs1 => ?room, fun hq hroom => ?noRoom⟩⟩,
    fun f hf va size l s0 v hva hsize haligned hinside hl hs0 hv => ⟨fun hq => ?sc, fun hq hroom => ?plain, fun hq hroom => ?full⟩⟩
  case empty => rw [exec_stForms hf, storeGlobal_of_empty hok ht hempty]
  case room =>
    rw [exec_stForms hf, storeGlobal_of_room hok ht hls hactive hs0 (precheck_of_allLocated hall) hroom, unlocated_of_allLocated hall,
      State.finishAccess_nil, ← hs1]
  case noRoom => rw [exec_stForms hf, storeGlobal_of_noRoom hok ht hls hactive hs0 (precheck_of_allLocated hall) hq hroom]
  case sc =>
    have hexec := (exec_sstForms (s := s) hf).trans (storeScalar_of_sc ht hva hsize haligned hinside hl hs0 hv hq)
    exact ⟨_, hexec, by simp, by simp⟩
  case plain =>
    have hexec := (exec_sstForms (s := s) hf).trans (storeScalar_of_room ht hva hsize haligned hinside hl hs0 hv hq hroom)
    exact ⟨_, hexec, by simp, by simp, by simp⟩
  case full => rw [exec_sstForms hf, storeScalar_of_noRoom ht hva hsize haligned hinside hl hs0 hq hroom]

end Sys2Proof.Machine
end

section
/-! What an access leaves of the course of its team (its place in the program, its mask and stacks) and of the reports, and the accesses whose
lanes fault (R252, R253, R261, R264, R265). -/

namespace Sys2Proof.Machine

/-! ## The course of a team -/

/-- A team without what its accesses to memory change: lane registers, scalars, outstanding writes, and the order of its accesses. -/
def Team.course (t : Team) : Team := { t with lanes := [], scalars := [], unchecked := [], floor := 0, seen := [], acqBatches := [] }

namespace Team

@[simp] theorem course_land (t : Team) (w : RegWrite) : (t.land w).course = t.course := by
  unfold land
  split <;> rfl

@[simp] theorem course_foldl_land (ws : List RegWrite) (t : Team) : (ws.foldl land t).course = t.course := by
  induction ws generalizing t with
  | nil => rfl
  | cons w ws ih => rw [List.foldl_cons, ih, course_land]

@[simp] theorem course_withUnchecked (t : Team) (ws : List RegWrite) : ({ t with unchecked := ws } : Team).course = t.course := rfl

@[simp] theorem course_belay (t : Team) (b : Bool) : (t.belay b).course = t.course := by
  cases b
  · rfl
  · exact course_foldl_land t.unchecked t

@[simp] theorem course_flushLoads (t : Team) : t.flushLoads.course = t.course := course_foldl_land (t.unchecked.filter (fun w => w.mem)) t

@[simp] theorem course_raiseFloor (t : Team) (k : Nat) : (t.raiseFloor k).course = t.course := rfl

@[simp] theorem course_saw (t : Team) (a n i k : Nat) : (t.saw a n i k).course = t.course := rfl

@[simp] theorem course_fixLoads (t : Team) (plain : Bool) (spans : List (Nat × Nat)) : (t.fixLoads plain spans).course = t.course := rfl

@[simp] theorem course_fixBefore (t : Team) (k : Nat) (spans : List (Nat × Nat)) : (t.fixBefore k spans).course = t.course := rfl

@[simp] theorem course_acquiredIn (t : Team) (b k : Nat) : (t.acquiredIn b k).course = t.course := rfl

@[simp] theorem course_receive (t : Team) (x : AtomLane) (old : Nat) : (t.receive x old).course = t.course := by
  unfold receive
  split
  · rfl
  · dsimp only
    split <;> simp

theorem course_foldl {α : Type} {f : Team → α → Team} (h : ∀ t a, (f t a).course = t.course) (l : List α) (t : Team) :
    (l.foldl f t).course = t.course := by
  induction l generalizing t with
  | nil => rfl
  | cons a l ih => rw [List.foldl_cons, ih, h]

section SameCourse

variable {t u : Team} (h : u.course = t.course)
include h

theorem pc_of_course : u.pc = t.pc := (congrArg Team.pc h :)

theorem width_of_course : u.width = t.width := (congrArg Team.width h :)

theorem declined_of_course : u.declined = t.declined := (congrArg Team.declined h :)

theorem mask_of_course : u.mask = t.mask := (congrArg Team.mask h :)

theorem preds_of_course : u.preds = t.preds := (congrArg Team.preds h :)

end SameCourse

end Team

@[simp] theorem State.afterLanes_course (s : State) (q : BitVec 2) (n : Nat) (ok : List (Nat × Nat × Loc)) (t : Team) :
    (s.afterLanes q n ok t).course = t.course := by
  unfold State.afterLanes
  split
  · rfl
  · dsimp only
    split
    · exact Team.course_foldl (fun t x => Team.course_saw t _ _ _ _) _ t
    · rw [Team.course_fixLoads, Team.course_foldl (fun t x => Team.course_raiseFloor t _),
        Team.course_foldl (fun t x => Team.course_saw t _ _ _ _)]

/-- The issuing team keeps its course, and nothing is reported. -/
structure SameCourse (s t : State) : Prop where
  course : t.team.course = s.team.course
  reports : t.dev.reports = s.dev.reports

section SameCourse

variable {s t u : State}

theorem SameCourse.refl (s : State) : SameCourse s s := ⟨rfl, rfl⟩

theorem SameCourse.trans (h : SameCourse s t) (h' : SameCourse t u) : SameCourse s u :=
  ⟨h'.course.trans h.course, h'.reports.trans h.reports⟩

theorem SameCourse.foldl {α : Type} {f : State → α → State} (h : ∀ s a, SameCourse s (f s a)) (l : List α) (s : State) :
    SameCourse s (l.foldl f s) := by
  induction l generalizing s with
  | nil => exact .refl s
  | cons a l ih => exact (h s a).trans (ih _)

theorem SameCourse.of_eq (hteam : t.team = s.team) (hdev : t.dev = s.dev) : SameCourse s t := ⟨by rw [hteam], by rw [hdev]⟩

end SameCourse

section Operations

variable (s : State)

theorem sameCourse_withTeam {t : Team} (h : t.course = s.team.course) : SameCourse s (s.withTeam t) := ⟨h, rfl⟩

theorem sameCourse_modTeam (k : Nat) {f : Team → Team} (h : ∀ t, (f t).course = t.course) : SameCourse s (s.modTeam k f) := by
  unfold State.modTeam
  split
  · exact ⟨h _, rfl⟩
  · exact ⟨rfl, rfl⟩

theorem sameCourse_reported (p n : Nat) : SameCourse s (s.reported p n) := by
  unfold State.reported
  dsimp only
  split <;> exact ⟨rfl, rfl⟩

theorem sameCourse_drainWith (k : Nat) (p : StoreByte → Bool) : SameCourse s (s.drainWith k p) := .of_eq (by simp) (by simp)

theorem sameCourse_perform (b : StoreByte) : SameCourse s (s.perform b) := .of_eq (by simp) (by simp)

theorem sameCourse_seeBytes (k : Nat) (ts : List Nat) (p : StoreByte → Bool) : SameCourse s (s.seeBytes k ts p) := .of_eq (by simp) (by simp)

theorem sameCourse_performScFor (p : StoreByte → Bool) : SameCourse s (s.performScFor p) := .of_eq (by simp) (by simp)

theorem sameCourse_performSc : SameCourse s s.performSc := .of_eq (by simp) (by simp)

theorem sameCourse_atomicAt (x : AtomLane) : SameCourse s (s.atomicAt x) := by
  have hmod (s : State) (old : Nat) :
      SameCourse s (s.modTeam x.team (fun t => (if x.acq then t.raiseFloor s.tick else t).receive x old)) := by
    refine sameCourse_modTeam s _ fun t => ?_
    split <;> simp
  have hstored (bs : List StoreByte) := (sameCourse_drainWith s x.core
    (fun b => decide (x.addr ≤ b.addr) && decide (b.addr < x.addr + x.size))).trans
      ((sameCourse_reported _ x.addr x.size).trans (.foldl sameCourse_perform bs _))
  unfold State.atomicAt
  dsimp only
  refine .trans ?_ (hmod _ _)
  split
  · exact (hstored _).trans (sameCourse_seeBytes _ _ _ _)
  · exact hstored _

theorem sameCourse_runAtomics (k : Nat) : SameCourse s (s.runAtomics k) :=
  (SameCourse.foldl sameCourse_atomicAt _ s).trans ⟨rfl, rfl⟩

theorem sameCourse_settleOver (spans : List (Nat × Nat)) : SameCourse s (s.settleOver spans) := by
  unfold State.settleOver
  dsimp only
  split
  · exact (sameCourse_performScFor s _).trans (sameCourse_runAtomics _ _)
  · exact sameCourse_performScFor s _

theorem sameCourse_beforeLoad (sc : Bool) (k : Nat) (l : Loc) (n : Nat) : SameCourse s (s.beforeLoad sc k l n) := .of_eq (by simp) (by simp)

theorem sameCourse_afterLoad (t o k : Nat) (l : Loc) (n m : Nat) : SameCourse s (s.afterLoad t o k l n m) := by
  unfold State.afterLoad
  split
  · exact .refl s
  · dsimp only
    refine .trans ?_ (sameCourse_reported _ _ _)
    split <;> exact .of_eq (by simp) (by simp)

theorem sameCourse_prepareLoad (q : BitVec 2) (n : Nat) (ok : List (Nat × Nat × Loc)) : SameCourse s (s.prepareLoad q n ok) := by
  unfold State.prepareLoad
  refine .trans ?_ (.foldl (fun s x => sameCourse_beforeLoad s _ _ _ _) ok _)
  split
  · exact (sameCourse_performSc s).trans (sameCourse_settleOver _ _)
  · exact sameCourse_settleOver _ _

theorem sameCourse_concludeLoad (q : BitVec 2) (n : Nat) (ok : List (Nat × Nat × Loc)) : SameCourse s (s.concludeLoad q n ok) :=
  (SameCourse.foldl (fun s _ => sameCourse_afterLoad s _ _ _ _ _ _) ok s).trans (sameCourse_withTeam _ (State.afterLanes_course _ _ _ _ _))

theorem sameCourse_walked (c : Context) (die va : Nat) : SameCourse s (s.walked c die va) := by
  unfold State.walked
  split
  · exact .refl s
  · exact .foldl (fun s p => sameCourse_reported s p 8) _ s

theorem sameCourse_fillDieTlb (c : Context) (die va : Nat) : SameCourse s (s.fillDieTlb c die va) := by
  unfold State.fillDieTlb
  split
  · exact sameCourse_walked s _ _ _
  · exact (sameCourse_walked s c die va).trans ⟨rfl, rfl⟩

theorem sameCourse_fillTlb (c : Context) (k va : Nat) : SameCourse s (s.fillTlb c k va) := by
  unfold State.fillTlb
  split
  · exact .refl s
  · split
    · exact sameCourse_walked s _ _ _
    · exact (sameCourse_fillDieTlb s c (dieOf k) va).trans (.of_eq (by simp) (by simp))

theorem sameCourse_touch (ls : List LaneAcc) : SameCourse s (s.touch ls) := .foldl (fun s _ => sameCourse_fillTlb s _ _ _) ls s

theorem sameCourse_loadedState (q : BitVec 2) (ty : BitVec 3) (d : BitVec 7) (ls : List LaneAcc) : SameCourse s (loadedState s q ty d ls) :=
  (sameCourse_concludeLoad s q (typeSize ty.toNat) (located ls)).trans ((sameCourse_touch _ ls).trans
    ⟨by simp [loadedState], rfl⟩)

end Operations

/-! ## Lanes that do not translate -/

/-- The state in which the lanes that are left have become the replay mask of the issuing team. -/
def State.leftOver (s : State) (rest : List FaultLane) : State :=
  s.withTeam { s.team with replay := some (Mask.ofFn s.team.width (fun l => rest.any (fun f => f.lane == l))) }

theorem State.finishAccess_of_forbidden {s : State} {len : Nat} {rest : List FaultLane} {x : FaultLane}
    (h : rest.find? (fun f => f.cause == 0x05) = some x) : s.finishAccess len rest = (s.leftOver rest).vaTrap 0x05 x.lane x.va := by
  have hne : rest ≠ [] := by rintro rfl; simp at h
  rw [State.finishAccess, if_neg hne]
  dsimp only
  rw [h]
  rfl

theorem State.finishAccess_of_unmapped {s : State} {len : Nat} {rest : List FaultLane} (hne : rest ≠ [])
    (h : ∀ x ∈ rest, x.cause = 0x04 ∨ x.cause = 0x06) : s.finishAccess len rest = (s.leftOver rest).parkFault rest := by
  have hnone : rest.find? (fun f => f.cause == 0x05) = none := by
    refine List.find?_eq_none.mpr fun x hx => ?_
    rcases h x hx with h | h <;> simp [h]
  rw [State.finishAccess, if_neg hne]
  dsimp only
  rw [hnone]
  rfl

theorem State.parkFault_of_not_declined {s : State} (rest : List FaultLane) (h : s.team.declined = none) : s.parkFault rest =
    { s with team := { s.team with state := .parked, park := .memFault rest, declined := none }
             dev := s.dev.report (fun r => { r with service := r.service ++ [s.serviceRecord rest] }) } := by
  rw [State.parkFault, h]
  rfl

/-! ## Accesses that fault before any lane acts -/

theorem lanesAt_of_empty {s : State} {t : Team} {acc : Access} {addr : Nat → Nat} (h : t.acting = []) : s.lanesAt t acc addr = [] := by
  rw [State.lanesAt, h, List.map_nil]

/-- A load or a store whose lanes fail a check traps. -/
theorem exec_of_check {s : State} {b : Bool} {q : BitVec 2} {ty : BitVec 3} {d a : BitVec 7} {e : BitVec 5} {off : Word} {t : Team} {acc : Access}
    {f : Claims.Form} {ls : List LaneAcc} {c l va : Nat} (hok : s.team.namesOk (accessNames ty.toNat d.toNat a.toNat) = true)
    (ht : t = s.team.belay b)
    (hf : (f ∈ Claims.ldForms b q ty d a e off ∧ acc = Access.read) ∨ (f ∈ Claims.stForms b q ty d a e off ∧ acc = Access.write))
    (hls : ls = s.lanesAt t acc (t.laneAddr (2 * e.toNat) a.toNat f.2.1)) (hne : ls ≠ [])
    (h : precheck (typeSize ty.toNat) ls = some (c, l, va)) : exec f.1 s = .next (s.vaTrap c l va) := by
  have hactive : t.acting ≠ [] := fun hempty => hne (hls.trans (lanesAt_of_empty hempty))
  rcases hf with ⟨hf, rfl⟩ | ⟨hf, rfl⟩
  · rw [exec_ldForms hf, loadGlobal_of_check hok ht hls hactive h]
  · rw [exec_stForms hf, storeGlobal_of_check hok ht hls hactive h]

/-- Settles O34: the first check that fails decides; where all pass, what is left of the lanes does. -/
theorem accessesThatFault : Obligations.AccessesThatFault := by
  unfold Obligations.AccessesThatFault
  intro s b q ty d a e off t n ht hn hok
  subst hn
  refine ⟨fun f acc hf ls hls => ⟨fun x hx => ?misaligned, fun x haligned hx => ?outside,
      fun before x after hsplit hchecked hbefore hx => ?forbidden⟩,
    fun f hf ls s0 u rest hls hrest hs0 hu hchecked hne => ?lanes⟩
  case misaligned =>
    have hnil : ls ≠ [] := by rintro rfl; simp at hx
    exact exec_of_check hok ht hf hls hnil (precheck_of_misaligned hx)
  case outside =>
    have hnil : ls ≠ [] := by rintro rfl; simp at hx
    exact exec_of_check hok ht hf hls hnil (precheck_of_outside haligned hx)
  case forbidden =>
    have hnil : ls ≠ [] := by rw [hsplit]; exact List.append_ne_nil_of_right_ne_nil _ (List.cons_ne_nil _ _)
    exact exec_of_check hok ht hf hls hnil (precheck_of_forbidden hsplit hchecked hbefore hx)
  case lanes =>
    have hactive : t.acting ≠ [] := fun hempty => hne (by rw [hrest, hls, lanesAt_of_empty hempty]; rfl)
    have hnone := precheck_eq_none (fun y hy => (hchecked y hy).1) (fun y hy => (hchecked y hy).2.1) (fun y hy => (hchecked y hy).2.2)
    have hexec := (exec_ldForms (s := s) hf).trans (loadGlobal_of_checked hok ht hls hactive hnone)
    have hcourse : SameCourse s (loadedState s0 q ty d ls) := by
      refine .trans ((sameCourse_withTeam s (t := t) (by rw [ht, Team.course_belay])).trans ?_) (sameCourse_loadedState s0 q ty d ls)
      rw [hs0]
      exact sameCourse_prepareLoad _ _ _ _
    rw [← hs0, ← hrest] at hexec
    have hteam := loadedState_team s0 q ty d ls
    rw [← hu] at hteam
    refine ⟨fun hcauses hdeclined => ?parks, fun x hx => ?traps⟩
    case parks =>
      have hkeeps : ((loadedState s0 q ty d ls).leftOver rest).team.declined = none :=
        (Team.declined_of_course hcourse.course).trans hdeclined
      rw [State.finishAccess_of_unmapped hne hcauses, State.parkFault_of_not_declined rest hkeeps] at hexec
      refine ⟨_, hexec, rfl, rfl, (Team.pc_of_course hcourse.course :), ?_, congrArg Team.unchecked hteam, loadedState_mem s0 q ty d ls, ?_⟩
      · rw [← Team.width_of_course hcourse.course]
        rfl
      · rw [← hcourse.reports]
        exact List.length_append
    case traps =>
      rw [State.finishAccess_of_forbidden hx] at hexec
      refine ⟨_, hexec, ?_, (Team.pc_of_course hcourse.course :), congrArg Team.unchecked hteam, loadedState_mem s0 q ty d ls⟩
      rw [← Team.width_of_course hcourse.course]
      rfl

end Sys2Proof.Machine
end

section
/-! What every step keeps of memory: its canonical form (16).  One lemma per operation that no law of the model states it for. -/

namespace Sys2Proof.Machine

/-! ## The operations of memory that write -/

/-- A fold keeps what each of its steps keeps. -/
theorem foldl_memWf {α : Type} {f : State → α → State} (l : List α) (hf : ∀ s a, s.mem.wf = true → (f s a).mem.wf = true) :
    ∀ s : State, s.mem.wf = true → (l.foldl f s).mem.wf = true :=
  fun _ h => State.Canonical.foldl hf l h

section Writes

variable {s : State} (h : s.mem.wf = true)
include h

@[simp] theorem State.setMem_wf (p : Nat) (v : Byte) : (s.setMem p v).mem.wf = true := State.Canonical.setMem h p v

@[simp] theorem State.putByte_wf (p : Nat) (v : Byte) : (s.putByte p v).mem.wf = true := State.Canonical.putByte h p v

@[simp] theorem State.perform_wf (b : StoreByte) : (s.perform b).mem.wf = true := State.Canonical.perform h b

@[simp] theorem State.writeThrough_wf (l : Loc) (n v : Nat) : (s.writeThrough l n v).mem.wf = true := State.Canonical.writeThrough h l n v

@[simp] theorem State.drainLine_wf (k l : Nat) : (s.drainLine k l).mem.wf = true := State.Canonical.drainLine h k l

@[simp] theorem State.drainAll_wf (k : Nat) : (s.drainAll k).mem.wf = true := State.Canonical.drainAll h k

@[simp] theorem State.drainWith_wf (k : Nat) (p : StoreByte → Bool) : (s.drainWith k p).mem.wf = true := State.Canonical.drainWith h k p

@[simp] theorem State.drainTeam_wf : s.drainTeam.mem.wf = true := State.Canonical.drainTeam h

@[simp] theorem State.drainSeen_wf : s.drainSeen.mem.wf = true := State.Canonical.drainSeen h

@[simp] theorem State.bufferStore_wf (k : Nat) (l : Loc) (n v : Nat) : (s.bufferStore k l n v).mem.wf = true :=
  State.Canonical.bufferStore h k l n v

@[simp] theorem State.writeFrom_wf (t k : Nat) (l : Loc) (n v : Nat) : (s.writeFrom t k l n v).mem.wf = true :=
  State.Canonical.writeFrom h t k l n v

@[simp] theorem State.performScFor_wf (p : StoreByte → Bool) : (s.performScFor p).mem.wf = true := State.Canonical.performScFor h p

@[simp] theorem State.performSc_wf : s.performSc.mem.wf = true := State.Canonical.performSc h

@[simp] theorem State.settleScOf_wf (k : Nat) : (s.settleScOf k).mem.wf = true := State.Canonical.settleScOf h k

@[simp] theorem State.settleSc_wf : s.settleSc.mem.wf = true := State.Canonical.settleSc h

@[simp] theorem State.atomicAt_wf (x : AtomLane) : (s.atomicAt x).mem.wf = true := State.Canonical.atomicAt h x

@[simp] theorem State.runAtomics_wf (k : Nat) : (s.runAtomics k).mem.wf = true := State.Canonical.runAtomics h k

@[simp] theorem State.settleOver_wf (l : List (Nat × Nat)) : (s.settleOver l).mem.wf = true := State.Canonical.settleOver h l

@[simp] theorem State.landLane_wf (o : AsyncOp) (l : LdaLane) : (s.landLane o l).mem.wf = true := State.Canonical.landLane h o l

@[simp] theorem State.landTeam_wf : s.landTeam.mem.wf = true := State.Canonical.landTeam h

@[simp] theorem State.loadsBack_wf : s.loadsBack.mem.wf = true := State.Canonical.loadsBack h

@[simp] theorem State.release_wf : s.release.mem.wf = true := State.Canonical.release h

@[simp] theorem State.publish_wf : s.publish.mem.wf = true := State.Canonical.publish h

@[simp] theorem State.fenceCore_wf : s.fenceCore.mem.wf = true := State.Canonical.fenceCore h

@[simp] theorem State.fenceDev_wf : s.fenceDev.mem.wf = true := State.Canonical.fenceDev h

@[simp] theorem State.drainFor_wf (k : Nat) (l : List Loc) : (s.drainFor k l).mem.wf = true := State.Canonical.drainFor h k l

end Writes

@[simp] theorem State.stash_mem (s : State) : s.stash.mem = s.mem := rfl

@[simp] theorem State.select_mem (s : State) (k : Nat) : (s.select k).mem = s.mem := by
  unfold State.select
  dsimp only
  repeat' split
  all_goals simp

@[simp] theorem State.roomFor_mem (s : State) (t : Team) : (s.roomFor t).mem = s.mem := by
  unfold State.roomFor
  dsimp only
  repeat' split
  all_goals simp

@[simp] theorem State.makeRoom_mem (s : State) (k : Nat) : (s.makeRoom k).mem = s.mem := by
  unfold State.makeRoom
  split
  · rfl
  · split <;> simp

@[simp] theorem State.ungate_mem (s : State) : s.ungate.mem = s.mem := rfl

@[simp] theorem State.forget_mem (s : State) : s.forget.mem = s.mem := by
  unfold State.forget
  dsimp only
  split <;> rfl

@[simp] theorem State.fetched_mem (s : State) (core pc len : Nat) : (s.fetched core pc len).mem = s.mem := by
  unfold State.fetched
  split
  · rfl
  · exact State.foldl_keeps _ (·.mem) (fun s k => by split <;> simp) _ s

@[simp] theorem State.engineSaw_mem (s : State) (team step p a n : Nat) : (s.engineSaw team step p a n).mem = s.mem := by
  unfold State.engineSaw
  simp

@[simp] theorem State.beforeLoad_wf {s : State} (h : s.mem.wf = true) (sc : Bool) (core : Nat) (l : Loc) (n : Nat) :
    (s.beforeLoad sc core l n).mem.wf = true := by
  unfold State.beforeLoad
  split
  · exact h
  · refine foldl_memWf _ (fun s k h => by simp [h]) _ ?_
    split <;> simp [h]

@[simp] theorem State.landValue_mem (s : State) (o : AsyncOp) (l : LdaLane) (v : BitVec 64) : (s.landValue o l v).mem = s.mem := rfl

@[simp] theorem State.landRead_mem (s : State) (o : AsyncOp) (l : LdaLane) : (s.landRead o l).mem = s.mem := by
  unfold State.landRead
  dsimp only
  repeat' split
  all_goals simp

@[simp] theorem State.releaseOf_wf {s : State} (h : s.mem.wf = true) (team before : Nat) (w : Crew) :
    (s.releaseOf team before w).mem.wf = true := by
  refine foldl_memWf _ (fun s k h => by simp [h]) _ (State.settleScOf_wf ?_ _)
  rw [State.modTeam_mem]
  exact foldl_memWf _ (fun s x h => by simp [h]) _ (State.runAtomics_wf h team)

@[simp] theorem State.prepareLoad_wf {s : State} (h : s.mem.wf = true) (q : BitVec 2) (n : Nat) (ok : List (Nat × Nat × Loc)) :
    (s.prepareLoad q n ok).mem.wf = true := by
  refine foldl_memWf _ (fun s x h => by simp [h]) _ (State.settleOver_wf ?_ _)
  split <;> simp [h]

@[simp] theorem State.concludeNow_mem (s : State) (core : Nat) (l : Loc) (n : Nat) : (s.concludeNow core l n).mem = s.mem := by
  unfold State.concludeNow
  simp

@[simp] theorem State.storeLanes_wf {s : State} (h : s.mem.wf = true) (sc : Bool) (t : Team) (ty d : Nat) (ok : List (Nat × Nat × Loc)) :
    (s.storeLanes sc t ty d ok).mem.wf = true := by
  unfold State.storeLanes
  dsimp only
  split
  · exact foldl_memWf _ (fun s x h => foldl_memWf _ (fun s k h => by simp [h]) _ h) _ h
  · exact foldl_memWf _ (fun s x h => by simp [h]) _ h

@[simp] theorem State.prepareStore_wf {s : State} (h : s.mem.wf = true) (q : BitVec 2) (spans : List (Nat × Nat)) :
    (s.prepareStore q spans).mem.wf = true := by
  unfold State.prepareStore
  rw [State.withTeam_mem]
  refine State.settleOver_wf ?_ _
  split
  · simp [h]
  · split <;> simp [h]

@[simp] theorem State.noticeWrites_mem (s : State) : s.noticeWrites.mem = s.mem := by
  unfold State.noticeWrites
  split <;> simp

@[simp] theorem State.wakeOn_mem (s : State) (team core : Nat) (l : Loc) : (s.wakeOn team core l).mem = s.mem := by
  unfold State.wakeOn
  simp

@[simp] theorem State.notifyTeam_mem (s : State) (core line team : Nat) : (s.notifyTeam core line team).mem = s.mem := by
  unfold State.notifyTeam
  split
  · rfl
  · split
    · rfl
    · split
      · split
        · rfl
        · split <;> simp
      · split <;> simp
      · rfl

@[simp] theorem State.shootdown_wf {s : State} (h : s.mem.wf = true) (ctx : Nat) : (s.shootdown ctx).mem.wf = true := by
  unfold State.shootdown
  refine foldl_memWf _ (fun s k h => by simp [h]) _ (foldl_memWf _ (fun s t h => by simp [h]) _ ?_)
  split <;> simp [h]

@[simp] theorem State.mapHidden_mem (s : State) (f : Hidden → Hidden) : (s.mapHidden f).mem = s.mem := rfl

@[simp] theorem State.sawPad_mem (s : State) (ps : List Nat) : (s.sawPad ps).mem = s.mem := by
  unfold State.sawPad
  split <;> simp

@[simp] theorem State.afterOps_mem (s : State) (k : Nat) : (s.afterOps k).mem = s.mem := by
  unfold State.afterOps
  split <;> simp

@[simp] theorem State.modOp_mem (s : State) (id : Nat) (f : AsyncOp → AsyncOp) : (s.modOp id f).mem = s.mem := rfl

@[simp] theorem State.addOp_mem (s : State) (work : OpWork) (quota : Nat) (acq : Bool) : (s.addOp work quota acq).mem = s.mem := rfl

@[simp] theorem State.finishOp_mem (s : State) (o : AsyncOp) (landed : List RegWrite) (cause : Option (Nat × BitVec 64)) :
    (s.finishOp o landed cause).mem = s.mem := by
  unfold State.finishOp
  split <;> simp

@[simp] theorem State.discardBatch_mem (s : State) (k : Nat) (p : Nat → Bool) : (s.discardBatch k p).mem = s.mem := rfl

@[simp] theorem State.clearCause_mem (s : State) (o : AsyncOp) (c : Nat) : (s.clearCause o c).mem = s.mem := rfl

@[simp] theorem State.observe_mem (s : State) (n : Nat) (commit : Bool) : (s.observe n commit).mem = s.mem := by
  unfold State.observe
  dsimp only
  repeat' split
  all_goals simp

@[simp] theorem State.commitBatch_mem (s : State) (n : Nat) : (s.commitBatch n).mem = s.mem := rfl

@[simp] theorem State.ldaSc_mem (s : State) (batch n : Nat) (ok : List (Nat × Nat × Loc)) : (s.ldaSc batch n ok).mem = s.mem :=
  State.foldl_keeps _ (·.mem) (fun s _ => State.afterLoad_mem s _ _ _ _ _ _) ok s

@[simp] theorem State.readDone_mem (s : State) (c : Context) (va n : Nat) : (s.readDone c va n).mem = s.mem := by
  unfold State.readDone
  split
  · rfl
  · exact State.foldl_keeps _ (·.mem) (fun s i => by split <;> simp) _ s

@[simp] theorem State.deviceFault_mem (s : State) (ck va cause : Nat) (acc : Access) (die unit : Nat) :
    (s.deviceFault ck va cause acc die unit).mem = s.mem := by
  unfold State.deviceFault
  split
  · rfl
  · split <;> simp

@[simp] theorem State.deviceDone_mem (s : State) (c : Context) (die va n : Nat) : (s.deviceDone c die va n).mem = s.mem := by
  unfold State.deviceDone
  simp

@[simp] theorem State.cannotMap_mem (s : State) (ck va : Nat) : (s.cannotMap ck va).mem = s.mem := by
  unfold State.cannotMap
  split
  · rfl
  · split
    · rfl
    · dsimp only
      split <;> simp

@[simp] theorem State.takeRig_mem (s : State) (ck : Nat) : (s.takeRig ck).mem = s.mem := by
  unfold State.takeRig
  split
  · rfl
  · split
    · rfl
    · split <;> simp

@[simp] theorem State.takeRegs_mem (s : State) (ck core : Nat) : (s.takeRegs ck core).mem = s.mem := by
  unfold State.takeRegs
  simp

@[simp] theorem State.withdraw_mem (s : State) (t : Team) : (s.withdraw t).mem = s.mem := by
  unfold State.withdraw
  split <;> simp

@[simp] theorem State.countJobs_mem (s : State) : s.countJobs.mem = s.mem := rfl

@[simp] theorem State.cancelJob_mem (s : State) (ck j : Nat) : (s.cancelJob ck j).mem = s.mem := by
  unfold State.cancelJob
  dsimp only
  repeat' split
  all_goals simp

@[simp] theorem State.pushRecords_wf {s : State} (h : s.mem.wf = true) (recs : List PushRec) : (s.pushRecords recs).mem.wf = true := by
  unfold State.pushRecords
  simp [h]

@[simp] theorem State.trapParked_mem (s : State) (k cause : Nat) (info : BitVec 64) : (s.trapParked k cause info).mem = s.mem := by
  unfold State.trapParked
  simp

@[simp] theorem State.decideAgain_wf {s : State} (h : s.mem.wf = true) (k : Nat) : (s.decideAgain k).mem.wf = true := by
  unfold State.decideAgain
  split
  · exact h
  · split
    · split
      · split <;> simp [h]
      · exact h
    · exact h

@[simp] theorem State.retryPush_wf {s : State} (h : s.mem.wf = true) (k : Nat) : (s.retryPush k).mem.wf = true := by
  unfold State.retryPush
  split
  · exact h
  · split
    · split <;> simp [h]
    · exact h

@[simp] theorem State.retryPushes_wf {s : State} (h : s.mem.wf = true) (ck : Nat) : (s.retryPushes ck).mem.wf = true :=
  foldl_memWf _ (fun _ k h => State.retryPush_wf h k) _ h

@[simp] theorem State.drainGone_wf {s : State} (h : s.mem.wf = true) : s.drainGone.mem.wf = true := by
  refine foldl_memWf _ (fun _ k h => State.drainAll_wf h k) _ ?_
  split <;> simp [h]

@[simp] theorem State.quiesce_mem (s : State) : s.quiesce.mem = s.mem := rfl

@[simp] theorem State.quiesceHere_mem (s : State) : s.quiesceHere.mem = s.mem := rfl

@[simp] theorem State.closeGeneration_mem (s : State) : s.closeGeneration.mem = s.mem := rfl

@[simp] theorem State.spillEntry_mem (s : State) (ck i : Nat) : (s.spillEntry ck i).mem = s.mem := by
  unfold State.spillEntry
  split
  · rfl
  · dsimp only
    split <;> simp

@[simp] theorem State.spillCastOffs_mem (s : State) (ck : Nat) : (s.spillCastOffs ck).mem = s.mem :=
  State.foldl_keeps _ (·.mem) (fun s i => State.spillEntry_mem s ck i) _ s

@[simp] theorem State.fenceCrew_wf {s : State} (h : s.mem.wf = true) : s.fenceCrew.mem.wf = true := by
  unfold State.fenceCrew
  split <;> simp [h]

@[simp] theorem State.shareStores_mem (s : State) (w : Crew) (teams : List Nat) : (s.shareStores w teams).mem = s.mem :=
  State.foldl_keeps _ (·.mem) (fun s k => State.seeBytes_mem s k _ _) _ s

@[simp] theorem State.completeRound_mem (s : State) (w : Crew) (r : Round) : (s.completeRound w r).mem = s.mem := by
  unfold State.completeRound
  simp

@[simp] theorem State.completeBarriers_mem (s : State) (k : Nat) : (s.completeBarriers k).mem = s.mem := by
  unfold State.completeBarriers
  split
  · rfl
  · exact State.foldl_keeps _ (·.mem) (fun s r => by split <;> simp) _ s

@[simp] theorem State.fenceAt_wf {s : State} (h : s.mem.wf = true) (sc : Nat) : (s.fenceAt sc).mem.wf = true := by
  unfold State.fenceAt
  rw [State.orderAfter_mem]
  split
  · simp [h]
  · split <;> simp [h]

@[simp] theorem State.dropSampler_mem (s : State) (t : Team) (sc : Nat) (w : Crew) : (s.dropSampler t sc w).mem = s.mem := rfl

@[simp] theorem State.stopDrop_mem (s : State) (t : Team) : (s.stopDrop t).mem = s.mem := by
  unfold State.stopDrop
  split
  · rw [State.modTeam_mem]
    split <;> simp
  · rfl

@[simp] theorem State.opSaw_mem (s : State) (o : AsyncOp) (locs : List Loc) (n : Nat) : (s.opSaw o locs n).mem = s.mem :=
  State.foldl_keeps _ (·.mem) (fun s _ => State.engineSaw_mem s _ _ _ _ _) _ s

@[simp] theorem State.regionTrap_mem (s : State) : s.regionTrap.mem = s.mem := by
  unfold State.regionTrap
  simp

/-- An access of an engine that a page stops changes no memory. -/
theorem State.mem_of_reach_stop {s t : State} {xs : List (Nat × Access)} (h : s.reach xs = .stop t) : t.mem = s.mem := by
  unfold State.reach at h
  dsimp only at h
  split at h
  · obtain rfl := Reached.stop.inj h
    simp
  · split at h
    · obtain rfl := Reached.stop.inj h
      simp
    · split at h
      · nomatch h
      · obtain rfl := Reached.stop.inj h
        simp

@[simp] theorem State.issueCopy_wf {s : State} (h : s.mem.wf = true) (dir rel : Bool) (sw len : Nat) (p : CopyPlan) (follow : Option MmaArgs) :
    (s.issueCopy dir rel sw len p follow).mem.wf = true := by
  unfold State.issueCopy
  dsimp only
  split
  next hreach => rw [State.mem_of_reach_stop hreach, h]
  next locs _ =>
    split
    · simp [h]
    · rw [State.withTeam_mem, State.touchUnits_mem, State.addOp_mem]
      split <;> simp [h]

@[simp] theorem State.writeTag_wf {s : State} (h : s.mem.wf = true) (o : AsyncOp) (w : Crew) (tag : TagWrite) :
    (s.writeTag o w tag).mem.wf = true := by
  unfold State.writeTag
  split <;> simp [h]

@[simp] theorem State.copyIn_wf {s : State} (h : s.mem.wf = true) (o : AsyncOp) (w : Crew) (index : Nat) (units : List CopyUnit) (sw : Nat)
    (tile : Option (Nat × Nat)) (seen : Bool) : (s.copyIn o w index units sw tile seen).mem.wf = true := by
  unfold State.copyIn
  simp [h]

@[simp] theorem State.copyOut_wf {s : State} (h : s.mem.wf = true) (o : AsyncOp) (w : Crew) (index : Nat) (units : List CopyUnit) (sw : Nat)
    (tile : Option (Nat × Nat)) : (s.copyOut o w index units sw tile).mem.wf = true :=
  foldl_memWf _ (fun _ _ h => State.writeThrough_wf h _ _ _) _ h

@[simp] theorem State.endCopy_wf {s : State} (h : s.mem.wf = true) (o : AsyncOp) (w : Crew) (tag : TagWrite) (follow : Option MmaArgs) :
    (s.endCopy o w tag follow).mem.wf = true := by
  unfold State.endCopy
  dsimp only
  split <;> simp [h]

@[simp] theorem State.bankTrap_mem (s : State) (reason va : Nat) : (s.bankTrap reason va).mem = s.mem := by
  unfold State.bankTrap
  simp

@[simp] theorem State.bankWait_mem (s : State) : s.bankWait.mem = s.mem := by
  unfold State.bankWait
  dsimp only
  repeat' split
  all_goals simp

@[simp] theorem State.bankByte_wf {s : State} (h : s.mem.wf = true) (round size p : Nat) (v : Byte) : (s.bankByte round size p v).mem.wf = true :=
  FMap.wf_set p v h

@[simp] theorem State.bankWrite_wf {s : State} (h : s.mem.wf = true) (round size p : Nat) (bytes : List Byte) :
    (s.bankWrite round size p bytes).mem.wf = true :=
  foldl_memWf _ (fun _ _ h => State.bankByte_wf h _ _ _ _) _ h

@[simp] theorem State.writeColumn_wf {s : State} (h : s.mem.wf = true) (c : BankCmd) (p : Nat) (els : List Nat) :
    (s.writeColumn c p els).mem.wf = true := State.bankWrite_wf h _ _ _ _

@[simp] theorem State.readColumn_mem (s : State) (c : BankCmd) (p va : Nat) : (s.readColumn c p va).1.mem = s.mem := by
  unfold State.readColumn
  dsimp only
  split <;> simp

@[simp] theorem State.readFirst_mem (s : State) (c : BankCmd) (q : BankCol) : (s.readFirst c q).1.mem = s.mem := by
  unfold State.readFirst
  split <;> simp

@[simp] theorem State.reduceColumn_mem (s : State) (c : BankCmd) (parts : List Nat) (q : BankCol) :
    (s.reduceColumn c parts q).1.mem = s.mem := by
  unfold State.reduceColumn
  dsimp only
  split <;> simp

@[simp] theorem State.reduce_wf {s : State} (h : s.mem.wf = true) (c : BankCmd) : (s.reduce c).mem.wf = true := by
  unfold State.reduce
  dsimp only
  repeat' split
  all_goals simp [h]

@[simp] theorem State.updateColumn_wf {s : State} (h : s.mem.wf = true) (c : BankCmd) (q : BankCol) : (s.updateColumn c q).mem.wf = true := by
  unfold State.updateColumn
  dsimp only
  split
  · refine State.writeColumn_wf ?_ _ _ _
    split <;> simp [h]
  · simp [h]
  · simp [h]
  · simp [h]

@[simp] theorem State.bankDone_mem (s : State) (c : BankCmd) : (s.bankDone c).mem = s.mem := rfl

@[simp] theorem State.serveColumn_wf {s : State} (h : s.mem.wf = true) (c : BankCmd) (q : BankCol) : (s.serveColumn c q).mem.wf = true := by
  unfold State.serveColumn
  dsimp only
  split <;> split <;> simp [h]

@[simp] theorem State.bankWake_mem (s : State) (k : Nat) : (s.bankWake k).mem = s.mem := by
  unfold State.bankWake
  split <;> simp

@[simp] theorem State.closeWrites_mem (s : State) (team round : Nat) : (s.closeWrites team round).mem = s.mem := by
  unfold State.closeWrites
  dsimp only
  rw [State.foldl_keeps _ (·.mem) State.mark_mem]
  exact State.foldl_keeps (fun s (e : Nat × BankOld) => s.keep ⟨none, [team], e.1, e.2.old, 0, s.tick⟩) (·.mem) (fun s _ => rfl) _ s

@[simp] theorem State.canvasStep_mem (s : State) (crew : Nat) : (s.canvasStep crew).mem = s.mem := by
  unfold State.canvasStep
  dsimp only
  repeat' split
  all_goals simp

@[simp] theorem State.accept_mem (s : State) (len : Nat) (op : CanvasOp) : (s.accept len op).mem = s.mem := rfl

@[simp] theorem State.withCanvas_mem (s : State) (c : Canvas) : (s.withCanvas c).mem = s.mem := rfl

@[simp] theorem State.stackTrap_mem (s : State) (full : Bool) : (s.stackTrap full).mem = s.mem := by
  unfold State.stackTrap
  simp

@[simp] theorem State.endFailed_mem (s : State) (o : AsyncOp) : (s.endFailed o).mem = s.mem := by
  unfold State.endFailed
  simp



@[simp] theorem State.sendTo_mem (s : State) (dev kind addr : Nat) (bytes : List Byte) : (s.sendTo dev kind addr bytes).mem = s.mem := rfl

theorem State.putUnit_wf {s t : State} (h : s.mem.wf = true) {o : AsyncOp} {a : RemoteArgs} {w : Window} {u : Nat}
    (ht : s.putUnit o a w u = some t) : t.mem.wf = true := by
  unfold State.putUnit at ht
  dsimp only at ht
  split at ht
  · obtain ⟨d, -, rfl⟩ := Option.map_eq_some_iff.mp ht
    simp [h]
  · obtain rfl := Option.some.inj ht
    simp [h]

theorem State.getUnit_wf {s t : State} (h : s.mem.wf = true) {o : AsyncOp} {a : RemoteArgs} {w : Window} {given : List Byte} {u : Nat}
    (ht : s.getUnit o a w given u = some t) : t.mem.wf = true := by
  unfold State.getUnit at ht
  dsimp only at ht
  split at ht
  · obtain ⟨d, -, rfl⟩ := Option.map_eq_some_iff.mp ht
    simp [h]
  · obtain rfl := Option.some.inj ht
    simp [h]

theorem State.moveUnit_wf {s t : State} (h : s.mem.wf = true) {o : AsyncOp} {kind : Nat} {a : RemoteArgs} {w : Window} {given : Nat → List Byte}
    {u : Nat} (ht : s.moveUnit o kind a w given u = some t) : t.mem.wf = true := by
  unfold State.moveUnit at ht
  split at ht
  · exact State.getUnit_wf h ht
  · exact State.putUnit_wf h ht

theorem State.moveUnits_wf {s t : State} (h : s.mem.wf = true) {o : AsyncOp} {kind : Nat} {a : RemoteArgs} {w : Window}
    {given : Nat → List Byte} (us : List Nat) (ht : s.moveUnits o kind a w given us = some t) : t.mem.wf = true := by
  have hfold : ∀ r : Option State, (∀ s, r = some s → s.mem.wf = true) →
      us.foldl (fun r u => r.bind (fun s => s.moveUnit o kind a w given u)) r = some t → t.mem.wf = true := by
    clear ht h
    induction us with
    | nil => exact fun r hr ht => hr t ht
    | cons u us ih =>
      refine fun r hr ht => ih _ (fun s1 hs1 => ?_) ht
      obtain ⟨s0, hs0, hs1⟩ := Option.bind_eq_some_iff.mp hs1
      exact State.moveUnit_wf (hr s0 hs0) hs1
  exact hfold (some s) (fun s' hs' => Option.some.inj hs' ▸ h) ht

@[simp] theorem State.failUnits_wf {s : State} (h : s.mem.wf = true) (o : AsyncOp) (kind : Nat) (a : RemoteArgs) (given : Nat → List Byte) :
    (s.failUnits o kind a given).mem.wf = true := by
  unfold State.failUnits
  split
  · exact h
  next w _ =>
    split
    · exact h
    · refine foldl_memWf _ (fun s u h => ?_) _ h
      cases hmove : s.moveUnit o kind a w given u with
      | none => exact h
      | some s' => exact State.moveUnit_wf h hmove

@[simp] theorem State.failRemote_wf {s : State} (h : s.mem.wf = true) (o : AsyncOp) (kind : Nat) (a : RemoteArgs) :
    (s.failRemote o kind a).mem.wf = true := by
  unfold State.failRemote
  simp [h]

@[simp] theorem State.remoteStep_wf {s : State} (h : s.mem.wf = true) (op u : Nat) : (s.remoteStep op u).mem.wf = true := by
  unfold State.remoteStep
  split
  · exact h
  · split
    · split
      · exact h
      · split
        · simp [h]
        next hmove =>
          obtain ⟨w, -, hmove⟩ := Option.bind_eq_some_iff.mp hmove
          have hs1 := State.moveUnit_wf h hmove
          exact hs1
    · exact h

@[simp] theorem State.addOne_wf {s : State} (h : s.mem.wf = true) (l : Loc) : (s.addOne l).mem.wf = true := by
  unfold State.addOne
  simp [h]

@[simp] theorem State.remotePut_wf {s : State} (h : s.mem.wf = true) (c : Context) (va : Nat) (bytes : List Byte) :
    (s.remotePut c va bytes).mem.wf = true :=
  foldl_memWf _ (fun s u h => by dsimp only; split <;> simp [h]) _ h

@[simp] theorem State.modTime_mem (s : State) (f : TimeState → TimeState) : (s.modTime f).mem = s.mem := rfl

@[simp] theorem State.stepTime_mem (s : State) (source : Nat) : (s.stepTime source).mem = s.mem := rfl

@[simp] theorem State.takeOffset_mem (s : State) (offset : Int) : (s.takeOffset offset).mem = s.mem := by
  unfold State.takeOffset
  dsimp only
  repeat' split
  all_goals simp

@[simp] theorem State.passSync_mem (s : State) : s.passSync.mem = s.mem := by
  unfold State.passSync
  split <;> simp

@[simp] theorem State.ppsResumes_mem (s : State) : s.ppsResumes.mem = s.mem := rfl

@[simp] theorem State.inputEdge_mem (s : State) (pin : Nat) : (s.inputEdge pin).mem = s.mem := rfl

@[simp] theorem State.tagsRead_mem (s : State) (c : Context) (e : Node) (rs : List Rec) : (s.tagsRead c e rs).mem = s.mem := by
  unfold State.tagsRead
  split
  · rfl
  · exact State.foldl_keeps _ (·.mem) (fun s r => State.foldl_keeps _ (·.mem) (fun s o => State.readDone_mem s _ _ _) _ s) _ s

@[simp] theorem State.convert_mem (s : State) (c : Context) (n : Nat) (e : Node) (r : Rec) (cs : List (Nat × RigEntry)) :
    (s.convert c n e r cs).mem = s.mem := by
  unfold State.convert
  split <;> simp

@[simp] theorem State.writeFor_wf {s : State} (h : s.mem.wf = true) (c : Context) (va : Nat) (bytes : List Byte) (unit : Nat) :
    (s.writeFor c va bytes unit).1.mem.wf = true := by
  unfold State.writeFor
  split
  · split <;> simp [h]
  · exact foldl_memWf _ (fun s i h => by split <;> simp [h]) _ (by simp [h])

@[simp] theorem State.noMethod_wf {s : State} (h : s.mem.wf = true) (c : Context) (n : Nat) (e : Node) (r : Rec) :
    (s.noMethod c n e r).mem.wf = true := by
  have hwrite (s : State) (h : s.mem.wf = true) (va : Nat) (bytes : List Byte) (unit : Nat) {s' : State} {b : Bool}
      (heq : s.writeFor c va bytes unit = (s', b)) : s'.mem.wf = true := by
    simpa [heq] using State.writeFor_wf h c va bytes unit
  unfold State.noMethod
  dsimp only
  split
  next s1 heq => exact hwrite s h _ _ _ heq
  next s1 heq =>
    have h1 := hwrite s h _ _ _ heq
    split
    · simp [h1]
    · split
      next s2 heq => exact hwrite s1 h1 _ _ _ heq
      next s2 heq =>
        have h2 := hwrite s1 h1 _ _ _ heq
        split <;> simp [h2]

@[simp] theorem State.spillBin_mem (s : State) (ck : Nat) (out : Bool) : (s.spillBin ck out).mem = s.mem := by
  unfold State.spillBin
  split
  · rfl
  · dsimp only
    split
    · split <;> simp
    · split
      · rw [State.foldl_keeps _ (·.mem) (fun s i => by split <;> simp)]
        simp
      · simp

@[simp] theorem State.takeStore_mem (s : State) (core : Nat) : (s.takeStore core).mem = s.mem := rfl

@[simp] theorem State.launch_mem (s : State) (c : Context) (n : Nat) (e : Node) (entry : Nat) (taken : List Nat) (core : Nat) (p : Placed) :
    (s.launch c n e entry taken core p).mem = s.mem := by
  unfold State.launch
  dsimp only
  rw [State.foldl_keeps _ (·.mem) (fun s k => State.takeStore_mem s k)]
  simp

@[simp] theorem State.dropCrew_mem (s : State) (k : Nat) : (s.dropCrew k).mem = s.mem := rfl

@[simp] theorem State.trim_mem (s : State) (ck n : Nat) : (s.trim ck n).mem = s.mem := by
  unfold State.trim
  simp

@[simp] theorem State.issueArray_mem (s : State) (len : Nat) (work : OpWork) : (s.issueArray len work).mem = s.mem := by
  unfold State.issueArray
  split <;> simp

@[simp] theorem State.issueFollow_mem (s : State) (op : Nat) : (s.issueFollow op).mem = s.mem := by
  unfold State.issueFollow
  split
  · rfl
  · split
    · split
      · rfl
      · split <;> simp
    · rfl

@[simp] theorem State.issueFollows_mem (s : State) (ctx : Nat) : (s.issueFollows ctx).mem = s.mem :=
  State.foldl_keeps _ (·.mem) State.issueFollow_mem _ s

@[simp] theorem State.foldNow_mem (s : State) (o : AsyncOp) (w : Crew) (m : MmaArgs) (fb : FmtBlock) (g : Nat) (acc : FMap 26) (left now : Plane) :
    (s.foldNow o w m fb g acc left now).mem = s.mem := by
  unfold State.foldNow
  dsimp only
  repeat' split
  all_goals simp

@[simp] theorem State.foldStep_mem (s : State) (o : AsyncOp) (w : Crew) (m : MmaArgs) (fb : FmtBlock) (g : Nat) (acc : FMap 26) (left : Plane) :
    (s.foldStep o w m fb g acc left).mem = s.mem := by
  unfold State.foldStep
  simp

@[simp] theorem State.haltMma_mem (s : State) (o : AsyncOp) : (s.haltMma o).mem = s.mem := by
  unfold State.haltMma
  repeat' split
  all_goals simp

@[simp] theorem State.mmaStep_mem (s : State) (o : AsyncOp) (w : Crew) (index : Nat) (m : MmaArgs) (fb : FmtBlock) (g n : Nat) (acc : FMap 26)
    (fold : Option Plane) : (s.mmaStep o w index m fb g n acc fold).mem = s.mem := by
  unfold State.mmaStep
  dsimp only
  repeat' split
  all_goals simp

@[simp] theorem State.issueBlock_wf {s : State} (h : s.mem.wf = true) (elems : List (Nat × Nat)) (locs : List Loc) (size : Nat)
    (work : List (Nat × Loc) → OpWork) : (s.issueBlock elems locs size work).mem.wf = true := by
  unfold State.issueBlock
  split <;> simp [h]

@[simp] theorem State.readTable_mem (s : State) (locs : List Loc) (va n : Nat) : (s.readTable locs va n).mem = s.mem := by
  unfold State.readTable
  split <;> simp

@[simp] theorem State.ringDone_mem (s : State) (o : AsyncOp) (a : RingArgs) (vas : List Nat) : (s.ringDone o a vas).mem = s.mem := by
  unfold State.ringDone
  split
  · rfl
  · exact State.foldl_keeps _ (·.mem) (fun s v => State.deviceDone_mem s _ _ _ _) _ s

@[simp] theorem State.sendSegment_mem (s : State) (a : RingArgs) (chunk seg : Nat) (bytes : List Byte) :
    (s.sendSegment a chunk seg bytes).mem = s.mem := rfl

@[simp] theorem State.failRing_wf {s : State} (h : s.mem.wf = true) (o : AsyncOp) (a : RingArgs) (done sent : List Nat)
    (joined : List (Nat × Nat × List Byte)) : (s.failRing o a done sent joined).mem.wf = true := by
  unfold State.failRing
  rw [State.endFailed_mem]
  exact foldl_memWf _ (fun s k h => foldl_memWf _ (fun s u h => by split <;> simp [h]) _ h) _ h

@[simp] theorem State.failOp_wf {s : State} (h : s.mem.wf = true) (o : AsyncOp) : (s.failOp o).mem.wf = true := by
  unfold State.failOp
  split <;> simp [h]

@[simp] theorem State.ringSend_mem (s : State) (op chunk : Nat) : (s.ringSend op chunk).mem = s.mem := by
  unfold State.ringSend
  dsimp only
  repeat' split
  all_goals simp

@[simp] theorem State.ringJoin_mem (s : State) (op chunk seg : Nat) : (s.ringJoin op chunk seg).mem = s.mem := by
  unfold State.ringJoin
  dsimp only
  repeat' split
  all_goals simp

@[simp] theorem State.failOps_wf {s : State} (h : s.mem.wf = true) (p : AsyncOp → Bool) : (s.failOps p).mem.wf = true :=
  foldl_memWf _ (fun _ o h => State.failOp_wf h o) _ h

@[simp] theorem State.removeCtx_mem (s : State) (c : Context) : (s.removeCtx c).mem = s.mem := rfl

@[simp] theorem State.hostByte_wf {s : State} (h : s.mem.wf = true) (l : Loc) (v : Byte) : (s.hostByte l v).mem.wf = true := by
  unfold State.hostByte
  split <;> simp [h]

@[simp] theorem State.loadBytes_wf {s : State} (h : s.mem.wf = true) (c : Context) (va : Nat) (bytes : List Byte) :
    (s.loadBytes c va bytes).mem.wf = true :=
  foldl_memWf _ (fun s x h => by split <;> simp [h]) _ h

@[simp] theorem State.refuseWeights_mem (s : State) : s.refuseWeights.mem = s.mem := rfl

@[simp] theorem State.ungateCtx_mem (s : State) (ctx : Nat) : (s.ungateCtx ctx).mem = s.mem := by
  unfold State.ungateCtx
  exact State.foldl_keeps _ (·.mem) (fun s k => State.modCore_mem s k _) _ s

@[simp] theorem State.endEmptyCopies_wf {s : State} (h : s.mem.wf = true) (ctx : Nat) : (s.endEmptyCopies ctx).mem.wf = true := by
  refine foldl_memWf _ (fun s o h => ?_) _ h
  split
  · split <;> simp [h]
  · exact h

@[simp] theorem State.mapTeams_mem (s : State) (ctx : Nat) (f : Team → Team) : (s.mapTeams ctx f).mem = s.mem := rfl

@[simp] theorem State.enterAgain_mem (s : State) (k : Nat) : (s.enterAgain k).mem = s.mem := by
  unfold State.enterAgain
  simp

@[simp] theorem State.reexamine_wf {s : State} (h : s.mem.wf = true) (k : Nat) : (s.reexamine k).mem.wf = true := by
  unfold State.reexamine
  dsimp only
  repeat' split
  all_goals simp [h]

@[simp] theorem State.readNets_mem (s : State) (ptrs : List Nat) : (s.readNets ptrs).mem = s.mem := by
  unfold State.readNets
  split
  · rfl
  · exact State.foldl_keeps _ (·.mem) (fun s ptr => by split <;> simp) _ s

@[simp] theorem State.readLayer_mem (s : State) (core : Nat) (l : NetLayer) (g : Nat) : (s.readLayer core l g).mem = s.mem := by
  unfold State.readLayer
  dsimp only
  repeat' split
  all_goals simp

@[simp] theorem State.issueNet_mem (s : State) (lanes : List NetLane) (ni no : Nat) (regs : List Nat) (need : Nat) :
    (s.issueNet lanes ni no regs need).mem = s.mem := by
  unfold State.issueNet
  rw [State.withTeam_mem, State.modOp_mem, State.addOp_mem, State.readNets_mem]

@[simp] theorem State.netStep_mem (s : State) (o : AsyncOp) (todo : List NetLane) (nets : List (Nat × List NetLayer)) (regs : List Nat)
    (tile : Option NetTile) : (s.netStep o todo nets regs tile).mem = s.mem := by
  unfold State.netStep
  dsimp only
  repeat' split
  all_goals simp

@[simp] theorem State.askLine_mem (s : State) (core line : Nat) : (s.askLine core line).mem = s.mem := rfl

@[simp] theorem State.tookLines_mem (s : State) : s.tookLines.mem = s.mem := rfl

@[simp] theorem State.textureTrap_mem (s : State) (off : Nat) : (s.textureTrap off).mem = s.mem := by
  unfold State.textureTrap
  simp

@[simp] theorem State.prepareAttr_wf {s : State} (h : s.mem.wf = true) (c a : Nat) (perAttr : Bool) : (s.prepareAttr c a perAttr).mem.wf = true :=
  foldl_memWf _ (fun _ _ h => State.prepareLoad_wf h _ _ _) _ h

@[simp] theorem State.serve_mem (s : State) (k : Nat) (ps : List Part) : (s.serve k ps).mem = s.mem := by
  unfold State.serve
  rw [State.foldl_keeps _ (·.mem) (fun s p => State.modCore_mem s _ _), State.modTeam_mem]

@[simp] theorem State.enter_mem (s : State) (k : Nat) (ps : List Part) (issued : List Nat) (now : Bool) :
    (s.enter k ps issued now).mem = s.mem := by
  unfold State.enter
  rw [State.foldl_keeps _ (·.mem) (fun s k => by split <;> simp)]
  simp

@[simp] theorem State.entering_mem (s : State) (k : Nat) : (s.entering k).mem = s.mem := by
  unfold State.entering
  simp

@[simp] theorem State.breakTrap_mem (s : State) (slot : Nat) : (s.breakTrap slot).mem = s.mem := by
  unfold State.breakTrap
  dsimp only
  repeat' split
  all_goals simp

@[simp] theorem State.fetchFault_mem (s : State) (cause va : Nat) : (s.fetchFault cause va).mem = s.mem := by
  unfold State.fetchFault
  split <;> simp

@[simp] theorem State.pass_mem (s : State) (k : Nat) : (s.pass k).mem = s.mem := by
  unfold State.pass
  simp

@[simp] theorem State.countWaits_mem (s : State) : s.countWaits.mem = s.mem :=
  State.foldl_keeps _ (·.mem) (fun s k => State.modTeam_mem s k _) _ s

@[simp] theorem State.newClock_mem (s : State) : s.newClock.mem = s.mem := rfl

@[simp] theorem State.settle_mem (s : State) : s.settle.mem = s.mem := by
  unfold State.settle
  simp

@[simp] theorem State.elapse_mem (s : State) : s.elapse.mem = s.mem := by
  unfold State.elapse
  dsimp only
  repeat' split
  all_goals simp

end Sys2Proof.Machine
end

section
/-! Every instruction and event answers a next state, whose memory is in its canonical form where the present one's is (R90, 16); one lemma
per form.  The canonical form is asked for under a condition `c`, so that one proof serves states with and without it. -/

namespace Sys2Proof.Machine

/-- An outcome is a next state, and under a condition its memory is in the canonical form. -/
def Goes (c : Prop) (o : Out) : Prop := ∃ t, o = .next t ∧ (c → t.mem.wf = true)

@[simp] theorem goes_next {c : Prop} {t : State} : Goes c (.next t) ↔ (c → t.mem.wf = true) :=
  ⟨fun ⟨_, ht, h⟩ => by rw [Host.Outcome.next.inj ht]; exact h, fun h => ⟨t, rfl, h⟩⟩

theorem goes_ite {c p : Prop} [Decidable p] {a b : Out} (ha : p → Goes c a) (hb : ¬p → Goes c b) : Goes c (if p then a else b) := by
  split
  next hp => exact ha hp
  next hp => exact hb hp

@[simp] theorem State.readHeader_wf {s : State} (h : s.mem.wf = true) (l : Loc) : (s.readHeader l).1.mem.wf = true := by
  unfold State.readHeader
  dsimp only
  rw [State.withTeam_mem, State.afterLoad_mem]
  exact State.drainFor_wf (State.beforeLoad_wf (State.settleOver_wf h _) _ _ _ _) _ _

@[simp] theorem State.readDescriptor_wf {s : State} (h : s.mem.wf = true) (l : Loc) (va : Nat) : (s.readDescriptor l va).1.mem.wf = true := by
  unfold State.readDescriptor
  dsimp only
  split <;> simp [h]

/-- The state after a write of the device for a context. -/
theorem State.wf_of_writeFor {s t : State} (h : s.mem.wf = true) {k : Context} {va unit : Nat} {bytes : List Byte} {b : Bool}
    (ht : s.writeFor k va bytes unit = (t, b)) : t.mem.wf = true := by
  simpa [ht] using State.writeFor_wf h k va bytes unit

theorem State.mem_of_delivery {s t : State} (ht : s.delivery = some t) : t.mem = s.mem := by
  unfold State.delivery at ht
  split at ht
  · nomatch ht
  · obtain rfl := Option.some.inj ht
    simp

theorem State.mem_of_slotFault {s t : State} {off : Nat} (ht : s.slotFault off = some t) : t.mem = s.mem := by
  unfold State.slotFault at ht
  split at ht
  · obtain rfl := Option.some.inj ht
    simp
  · split at ht
    · obtain rfl := Option.some.inj ht
      simp
    · nomatch ht

theorem State.mem_of_mmaCheck {s t : State} {m : MmaArgs} (ht : s.mmaCheck m = .error t) : t.mem = s.mem := by
  unfold State.mmaCheck at ht
  dsimp only at ht
  split at ht
  · obtain rfl := Except.error.inj ht
    simp
  · split at ht
    · obtain rfl := Except.error.inj ht
      simp
    · split at ht
      next hslot =>
        obtain rfl := Except.error.inj ht
        exact State.mem_of_slotFault hslot
      · split at ht
        · obtain rfl := Except.error.inj ht
          simp
        · split at ht
          · obtain rfl := Except.error.inj ht
            simp
          · nomatch ht

theorem State.mem_of_remoteFault {s t : State} {i : Instr} {l off n win dev : Nat} {flag : Option Nat}
    (ht : s.remoteFault i l off n win dev flag = some t) : t.mem = s.mem := by
  unfold State.remoteFault at ht
  split at ht
  · obtain rfl := Option.some.inj ht
    simp
  · split at ht
    · obtain rfl := Option.some.inj ht
      simp
    · split at ht
      · obtain rfl := Option.some.inj ht
        simp
      · split at ht
        · obtain rfl := Option.some.inj ht
          simp
        · split at ht
          · obtain rfl := Option.some.inj ht
            simp
          · nomatch ht

theorem State.mem_of_cpyPlan {s t : State} {i : Instr} {d a k : Nat} (ht : s.cpyPlan i d a k = .error t) : t.mem = s.mem := by
  unfold State.cpyPlan at ht
  dsimp only at ht
  split at ht
  · obtain rfl := Except.error.inj ht
    simp
  · split at ht
    · obtain rfl := Except.error.inj ht
      simp
    · split at ht
      · obtain rfl := Except.error.inj ht
        simp
      · nomatch ht

theorem State.mem_of_cpy2dPlan {s t : State} {i : Instr} {dir : Bool} {d a k : Nat} (ht : s.cpy2dPlan i dir d a k = .error t) :
    t.mem = s.mem := by
  unfold State.cpy2dPlan at ht
  dsimp only at ht
  split at ht
  · obtain rfl := Except.error.inj ht
    simp
  · split at ht
    · obtain rfl := Except.error.inj ht
      simp
    · split at ht
      · obtain rfl := Except.error.inj ht
        simp
      · nomatch ht

/-- The state that an answer of a plan holds. -/
def planState {α : Type} : Except State (State × α) → State
  | .error t => t
  | .ok (t, _) => t

theorem State.cpyTPlan_wf {s : State} (h : s.mem.wf = true) (dir : Bool) (d a : Nat) : (planState (s.cpyTPlan dir d a)).mem.wf = true := by
  unfold State.cpyTPlan
  dsimp only
  split
  · simp [planState, h]
  · split
    · simp [planState, h]
    · split
      next hreach => simp [planState, State.mem_of_reach_stop hreach, h]
      · split
        · simp [planState, h]
        · split
          · split <;> simp [planState, h]
          · split <;> simp [planState, h]

theorem State.followPlan_wf {s : State} (h : s.mem.wf = true) (i : Instr) (kind d a k : Nat) :
    (planState (s.followPlan i kind d a k)).mem.wf = true := by
  unfold State.followPlan
  split
  · cases hplan : s.cpyPlan i d a k with
    | error t => simp [planState, Except.map, State.mem_of_cpyPlan hplan, h]
    | ok p => simp [planState, Except.map, h]
  · cases hplan : s.cpy2dPlan i false d a k with
    | error t => simp [planState, Except.map, State.mem_of_cpy2dPlan hplan, h]
    | ok p => simp [planState, Except.map, h]
  · exact State.cpyTPlan_wf h _ _ _

theorem State.moveRest_wf {s t : State} (h : s.mem.wf = true) {o : AsyncOp} {kind : Nat} {a : RemoteArgs} {given : Nat → List Byte} {w : Window}
    (ht : s.moveRest o kind a given = some (t, w)) : t.mem.wf = true := by
  unfold State.moveRest at ht
  split at ht
  · nomatch ht
  · obtain ⟨t', ht', hpair⟩ := Option.map_eq_some_iff.mp ht
    obtain ⟨rfl, rfl⟩ := Prod.mk.inj hpair
    exact State.moveUnits_wf h _ ht'

theorem State.serveLines_mem (s : State) (needs : List (Nat × Nat)) (got old : List SampLine) : (s.serveLines needs got old).1.mem = s.mem := by
  induction needs generalizing s got old with
  | nil => rfl
  | cons n rest ih =>
    cases old with
    | nil =>
      unfold State.serveLines
      dsimp only
      split
      · rw [ih, State.modCore_mem]
      · simp
    | cons g more =>
      unfold State.serveLines
      dsimp only
      split
      · exact ih s _ _
      · split
        · rw [ih, State.modCore_mem]
        · simp

theorem State.placeCrew_mem {s t : State} {k : Context} {w : Crew} {ts : List Team} (ht : s.placeCrew k w ts = some t) : t.mem = s.mem := by
  obtain ⟨p, -, rfl⟩ := Option.map_eq_some_iff.mp ht
  exact State.foldl_keeps (fun (s : State) k => s.modCore k (fun q => { q with l1 := [], samp := [], miss := [], gated := false })) (·.mem)
    (fun s k => State.modCore_mem s k _) _ s

theorem State.placeCrews_mem {s t : State} {k : Context} {teamsOf : Nat → List Team} (ws : List Crew)
    (ht : s.placeCrews k teamsOf ws = some t) : t.mem = s.mem := by
  induction ws generalizing s with
  | nil => rw [Option.some.inj ht]
  | cons w rest ih =>
    unfold State.placeCrews at ht
    split at ht
    · nomatch ht
    next hplace => rw [ih ht, State.placeCrew_mem hplace]

section Forms

variable {c : Prop} {s : State} (h : c → s.mem.wf = true)
include h

/-- A pending delivery of the canvas, or what comes where there is none. -/
theorem goes_delivery {o : Out} (ho : Goes c o) : Goes c (match s.delivery with | some s' => .next s' | none => o) := by
  split
  next hdue => simpa [State.mem_of_delivery hdue] using h
  · exact ho

theorem goes_engineForm {t : Team} {len : Nat} {body : State → Out} (hbody : ∀ s, (c → s.mem.wf = true) → Goes c (body s)) :
    Goes c (engineForm s t len body) := by
  unfold engineForm
  split
  · simpa using h
  · exact hbody _ h

theorem goes_accForm {b : Bool} {body : State → Out} (hbody : ∀ s, (c → s.mem.wf = true) → Goes c (body s)) :
    Goes c (accForm b s body) := goes_engineForm h hbody

theorem goes_withHeader {va : Nat} {body : State → Loc → List Byte → Out} (hbody : ∀ s l b, (c → s.mem.wf = true) → Goes c (body s l b)) :
    Goes c (withHeader s va body) := by
  unfold withHeader
  split
  · simpa using h
  · split
    next hreach => simpa [State.mem_of_reach_stop hreach] using h
    next locs _ =>
      have hread : c → (s.readHeader (locs.headD ⟨0, false, false⟩)).1.mem.wf = true := fun hc => State.readHeader_wf (h hc) _
      dsimp only
      split
      · simpa using hread
      · exact hbody _ _ _ hread

theorem goes_canvasForm {t : Team} {len : Nat} {waits : Bool} {body : State → Out} (hbody : ∀ s, (c → s.mem.wf = true) → Goes c (body s)) :
    Goes c (canvasForm s t len waits body) := by
  unfold canvasForm
  split
  · simpa using h
  · split
    · simpa using h
    · split
      · simpa using h
      · exact hbody _ h

@[simp] theorem goes_canvasPlain {b : Bool} {len : Nat} {op : Team → CanvasOp} : Goes c (canvasPlain b len s op) :=
  goes_canvasForm h fun s h => by simpa using h

theorem goes_regionForm {b : Bool} {a : Nat} {body : State → Nat → Out} (hbody : ∀ s k, (c → s.mem.wf = true) → Goes c (body s k)) :
    Goes c (regionForm b a s body) := by
  unfold regionForm
  refine goes_canvasForm h fun s h => ?_
  split
  · simpa using h
  · split
    · simpa using h
    · split
      · simpa using h
      · exact hbody _ _ h

@[simp] theorem goes_execCoreClockGate {core : Nat} : Goes c (execCoreClockGate core s) := by
  unfold execCoreClockGate
  split <;> simp +contextual [h]

@[simp] theorem goes_laneInstr {i : Instr} {b : Bool} {names : List Nat} {body : Team → Team} : Goes c (laneInstr i b names s body) := by
  unfold laneInstr
  split <;> simp +contextual [h]

@[simp] theorem goes_teamInstr {b : Bool} {len : Nat} {body : Team → Team} : Goes c (teamInstr b len s body) := by
  unfold teamInstr
  simp +contextual [h]

@[simp] theorem goes_laneBin {i : Instr} {b : Bool} {d a c' : BitVec 7} {f : Word → Word → Word} : Goes c (laneBin i b d a c' f s) := by
  unfold laneBin
  simp +contextual [h]

@[simp] theorem goes_laneAcc {i : Instr} {b : Bool} {d a c' : BitVec 7} {f : Word → Word → Word → Word} : Goes c (laneAcc i b d a c' f s) := by
  unfold laneAcc
  simp +contextual [h]

@[simp] theorem goes_laneUn {i : Instr} {b : Bool} {d a : BitVec 7} {f : Word → Word} : Goes c (laneUn i b d a f s) := by
  unfold laneUn
  simp +contextual [h]

@[simp] theorem goes_laneBin64 {i : Instr} {b : Bool} {d a c' : BitVec 7} {f : BitVec 64 → BitVec 64 → BitVec 64} :
    Goes c (laneBin64 i b d a c' f s) := by
  unfold laneBin64
  simp +contextual [h]

@[simp] theorem goes_laneCmp {i : Instr} {b : Bool} {p : BitVec 3} {names : List Nat} {f : Team → Nat → Bool} : Goes c (laneCmp i b p names f s) := by
  unfold laneCmp
  simp +contextual [h]

@[simp] theorem goes_scalarBin {b : Bool} {d a c' : BitVec 6} {f : Word → Word → Word} : Goes c (scalarBin b d a c' f s) := by
  unfold scalarBin
  simp +contextual [h]

@[simp] theorem goes_scalarImm {b : Bool} {d a : BitVec 6} {f : Word → Word} : Goes c (scalarImm b d a f s) := by
  unfold scalarImm
  simp +contextual [h]

@[simp] theorem goes_loadGlobal {i : Instr} {b : Bool} {q : BitVec 2} {ty : BitVec 3} {d a : BitVec 7} {base : Nat} {off : Int} {len : Nat} :
    Goes c (loadGlobal i b q ty d a base off len s) := by
  unfold loadGlobal
  dsimp only
  repeat' split
  all_goals simp +contextual [h]

@[simp] theorem goes_storeGlobal {i : Instr} {b : Bool} {q : BitVec 2} {ty : BitVec 3} {d a : BitVec 7} {base : Nat} {off : Int} {len : Nat} :
    Goes c (storeGlobal i b q ty d a base off len s) := by
  unfold storeGlobal
  split
  · simpa using h
  · dsimp only
    split
    · simpa using h
    · split
      · simpa using h
      · have hs0 (hc : c) (spans : List (Nat × Nat)) : ((s.withTeam (s.team.belay b)).prepareStore q spans).mem.wf = true :=
          State.prepareStore_wf (s := s.withTeam (s.team.belay b)) (h hc) _ _
        split
        · rw [goes_next, State.waits_mem]
          exact fun hc => hs0 hc _
        · rw [goes_next, State.finishAccess_mem, State.touch_mem]
          exact fun hc => State.storeLanes_wf (hs0 hc _) _ _ _ _ _

@[simp] theorem goes_loadScalar {b : Bool} {q w : BitVec 2} {d : BitVec 6} {base : Nat} {off : Int} {len : Nat} :
    Goes c (loadScalar b q w d base off len s) := by
  unfold loadScalar
  dsimp only
  repeat' split
  all_goals simp +contextual [h]

omit h in
theorem State.drainUnder_wf {s : State} (h : s.mem.wf = true) (t core : Nat) (l : Loc) (size : Nat) : (s.drainUnder t core l size).mem.wf = true :=
  foldl_memWf _ (fun s k h => by simp [h]) _ h

@[simp] theorem goes_storeScalar {b : Bool} {q w : BitVec 2} {d : BitVec 6} {base : Nat} {off : Int} {len : Nat} :
    Goes c (storeScalar b q w d base off len s) := by
  unfold storeScalar
  dsimp only
  split
  · simpa using h
  · split
    · simpa using h
    · refine goes_ite (fun _ => ?_) fun _ => ?_
      · rw [goes_next, State.waits_mem]
        exact fun hc => State.prepareStore_wf (s := s.withTeam (s.team.belay b)) (h hc) _ _
      · rw [goes_next, State.withTeam_mem, State.touch_mem]
        intro hc
        by_cases hq : q = 2
        · rw [if_pos hq]
          exact State.drainUnder_wf (State.prepareStore_wf (s := s.withTeam (s.team.belay b)) (h hc) _ _) _ _ _ _
        · rw [if_neg hq]
          exact State.bufferStore_wf (State.prepareStore_wf (s := s.withTeam (s.team.belay b)) (h hc) _ _) _ _ _ _

@[simp] theorem goes_execPref {b l : Bool} {a : BitVec 7} {c' : BitVec 6} : Goes c (execPref b l a c' s) := by
  unfold execPref
  split
  · simpa using h
  · dsimp only
    rw [goes_next, State.withTeam_mem, State.touch_mem]
    split
    · exact fun hc => foldl_memWf _ (fun s x h => by simp [h]) _ (h hc)
    · exact h

@[simp] theorem goes_execWaitv {b : Bool} {a c' : BitVec 6} : Goes c (execWaitv b a c' s) := by
  unfold execWaitv
  dsimp only
  repeat' split
  all_goals simp +contextual [h]

@[simp] theorem goes_execLoadReturn {team k : Nat} : Goes c (execLoadReturn team k s) := by
  unfold execLoadReturn
  dsimp only
  repeat' split
  all_goals simp +contextual [h]

@[simp] theorem goes_execWaitvPoll {team : Nat} : Goes c (execWaitvPoll team s) := by
  unfold execWaitvPoll
  dsimp only
  repeat' split
  all_goals simp +contextual [h]

@[simp] theorem goes_execFaultResolved {team : Nat} : Goes c (execFaultResolved team s) := by
  unfold execFaultResolved
  simp +contextual [h]

@[simp] theorem goes_execFaultDeclined {answer : Decline} : Goes c (execFaultDeclined answer s) := by
  unfold execFaultDeclined
  simp +contextual [h]

@[simp] theorem goes_execTlbShootdown {ctx pa : Nat} {entry : BitVec 64} {page : List (BitVec 8)} :
    Goes c (execTlbShootdown ctx pa entry page s) := by
  unfold execTlbShootdown
  simp only [goes_next]
  exact fun hc => State.writeThrough_wf (by split <;> simp [h hc]) _ _ _

@[simp] theorem goes_execPageWalk {core ctx va : Nat} : Goes c (execPageWalk core ctx va s) := by
  unfold execPageWalk
  split <;> simp +contextual [h]

/-- The state in which the lanes of an ATOM can act. -/
def State.prepareAtom (s : State) (t : Team) (q : BitVec 2) (n : Nat) (ls : List LaneAcc) : State :=
  let s1 := s.withTeam t
  let s1 := if q = 3 then s1.performSc.release else if q = 2 then s1.release else s1
  let s1 := s1.settleOver (spansOf n (located ls))
  let s1 := (located ls).foldl (fun s x => s.beforeLoad true (s.crew.coreOf t (x.1 / 32)) x.2.2 n) s1
  (s1.withTeam (s1.team.fixLoads true (spansOf n (located ls)))).touch ls

omit h in
theorem State.prepareAtom_wf {s : State} (h : s.mem.wf = true) (t : Team) (q : BitVec 2) (n : Nat) (ls : List LaneAcc) :
    (s.prepareAtom t q n ls).mem.wf = true := by
  unfold State.prepareAtom
  dsimp only
  rw [State.touch_mem, State.withTeam_mem]
  refine foldl_memWf _ (fun s x h => by simp [h]) _ (State.settleOver_wf ?_ _)
  split
  · simp [h]
  · split <;> simp [h]

/-- The lanes of an ATOM that has passed its checks. -/
def State.atomLanes (s : State) (t : Team) (q : BitVec 2) (n op d k : Nat) (w nr : Bool) (ls : List LaneAcc) : State :=
  let s1 := s.prepareAtom t q n ls
  let lanes := (located ls).map (fun x => t.atomicLane s.tick (s.crew.coreOf t (x.1 / 32)) op w nr (q == 1 || q == 3) d k x.1 x.2.2)
  let rest := unlocated .atomic ls
  if rest = [] ∧ q ≠ 3 then { s1 with atomics := s1.atomics ++ lanes }.finishAccess 2 []
  else (lanes.foldl (fun s x => s.atomicAt x) s1).finishAccess 2 rest

omit h in
theorem State.atomLanes_wf {s : State} (h : s.mem.wf = true) (t : Team) (q : BitVec 2) (n op d k : Nat) (w nr : Bool) (ls : List LaneAcc) :
    (s.atomLanes t q n op d k w nr ls).mem.wf = true := by
  unfold State.atomLanes
  dsimp only
  split
  · rw [State.finishAccess_mem]
    exact State.prepareAtom_wf h t q n ls
  · rw [State.finishAccess_mem]
    exact foldl_memWf _ (fun s x h => by simp [h]) _ (State.prepareAtom_wf h t q n ls)

omit h in
theorem execAtom_eq (b : Bool) (q : BitVec 2) (d a : BitVec 7) (s' : BitVec 5) (op : BitVec 4) (w nr : Bool) (k : BitVec 7) (s : State) :
    execAtom b q d a s' op w nr k s =
      if !s.team.namesOk (atomicNames op.toNat w d.toNat a.toNat k.toNat) then .next (s.illegal (.atom b q d a s' op w nr k))
      else
        if (s.team.belay b).acting = [] then .next (s.withTeam ((s.team.belay b).advance 2)) else
        match precheck (if w then 8 else 4) (s.lanesAt (s.team.belay b) .atomic ((s.team.belay b).laneAddr (2 * s'.toNat) a.toNat 0)) with
        | some (c, l, va) => .next (s.vaTrap c l va)
        | none => .next (s.atomLanes (s.team.belay b) q (if w then 8 else 4) op.toNat d.toNat k.toNat w nr
            (s.lanesAt (s.team.belay b) .atomic ((s.team.belay b).laneAddr (2 * s'.toNat) a.toNat 0))) := by
  unfold execAtom State.atomLanes
  dsimp only
  rw [apply_ite Host.Outcome.next]
  rfl

@[simp] theorem goes_execAtom {b : Bool} {q : BitVec 2} {d a : BitVec 7} {s' : BitVec 5} {op : BitVec 4} {w nr : Bool} {c' : BitVec 7} :
    Goes c (execAtom b q d a s' op w nr c' s) := by
  rw [execAtom_eq]
  split
  · simpa using h
  · split
    · simpa using h
    · split
      · simpa using h
      · exact goes_next.mpr fun hc => State.atomLanes_wf (h hc) _ _ _ _ _ _ _ _ _

@[simp] theorem goes_execAtomicExecute {team : Nat} : Goes c (execAtomicExecute team s) := by
  unfold execAtomicExecute
  dsimp only
  split
  · simpa using h
  · exact goes_next.mpr fun hc => foldl_memWf _ (fun s x h => by simp [h]) _ (h hc)

@[simp] theorem goes_loadPad {b : Bool} {sw d a ty : Nat} {off : Word} {len : Nat} : Goes c (loadPad b sw d a ty off len s) := by
  unfold loadPad
  dsimp only
  split <;> simp +contextual [h]

@[simp] theorem goes_storePad {b : Bool} {sw d a ty : Nat} {off : Word} {len : Nat} : Goes c (storePad b sw d a ty off len s) := by
  unfold storePad
  dsimp only
  split <;> simp +contextual [h]

@[simp] theorem goes_loadImage {b : Bool} {d a : Nat} {off : Word} {len : Nat} : Goes c (loadImage b d a off len s) := by
  unfold loadImage
  dsimp only
  split <;> simp +contextual [h]

@[simp] theorem goes_storeImage {b : Bool} {d a : Nat} {off : Word} {len : Nat} : Goes c (storeImage b d a off len s) := by
  unfold storeImage
  dsimp only
  split <;> simp +contextual [h]

@[simp] theorem goes_execLdp {b : Bool} {w : BitVec 3} {d a : BitVec 7} {t : BitVec 3} {r : Bool} : Goes c (execLdp b w d a t r s) := by
  unfold execLdp
  repeat' split
  all_goals simp +contextual [h]

@[simp] theorem goes_execLdpOffset {b : Bool} {w : BitVec 3} {d a : BitVec 7} {t : BitVec 3} {r : Bool} {off : BitVec 32} :
    Goes c (execLdpOffset b w d a t r off s) := by
  unfold execLdpOffset
  repeat' split
  all_goals simp +contextual [h]

@[simp] theorem goes_execStp {b : Bool} {w : BitVec 3} {d a : BitVec 7} {t : BitVec 3} {r : Bool} : Goes c (execStp b w d a t r s) := by
  unfold execStp
  repeat' split
  all_goals simp +contextual [h]

@[simp] theorem goes_execStpOffset {b : Bool} {w : BitVec 3} {d a : BitVec 7} {t : BitVec 3} {r : Bool} {off : BitVec 32} :
    Goes c (execStpOffset b w d a t r off s) := by
  unfold execStpOffset
  repeat' split
  all_goals simp +contextual [h]

@[simp] theorem goes_execBatch {b : Bool} {d : BitVec 6} : Goes c (execBatch b d s) := by
  unfold execBatch
  dsimp only
  repeat' split
  all_goals simp +contextual [h]

@[simp] theorem goes_execWaitb {b : Bool} {a : BitVec 6} : Goes c (execWaitb b a s) := by
  unfold execWaitb
  dsimp only
  repeat' split
  all_goals simp +contextual [h]

@[simp] theorem goes_execCommit {b : Bool} {a : BitVec 6} : Goes c (execCommit b a s) := by
  unfold execCommit
  dsimp only
  repeat' split
  all_goals simp +contextual [h]

@[simp] theorem goes_loadAsync {i : Instr} {b : Bool} {q : BitVec 2} {ty : BitVec 3} {d a : BitVec 7} {base : Nat} {off : Int} {len : Nat} :
    Goes c (loadAsync i b q ty d a base off len s) := by
  unfold loadAsync
  dsimp only
  repeat' split
  all_goals simp +contextual [h]

@[simp] theorem goes_execLdaLand {op lane : Nat} : Goes c (execLdaLand op lane s) := by
  unfold execLdaLand
  repeat' split
  all_goals simp +contextual [h]

@[simp] theorem goes_execHalt {b : Bool} : Goes c (execHalt b s) := by
  unfold execHalt
  split <;> simp +contextual [h]

@[simp] theorem goes_execCtxwr {b : Bool} {i c' : BitVec 6} : Goes c (execCtxwr b i c' s) := by
  unfold execCtxwr
  dsimp only
  repeat' split
  all_goals simp +contextual [h]

@[simp] theorem goes_execDebugBreakpointSet {ctx slot : Nat} {addr : Option (BitVec 57)} : Goes c (execDebugBreakpointSet ctx slot addr s) := by
  unfold execDebugBreakpointSet
  split <;> simp +contextual [h]

@[simp] theorem goes_execTeamWatchdogExpiry {team : Nat} : Goes c (execTeamWatchdogExpiry team s) := by
  unfold execTeamWatchdogExpiry
  dsimp only
  repeat' split
  all_goals simp +contextual [h]

@[simp] theorem goes_execIssuePriorityAgeing {team slot : Nat} : Goes c (execIssuePriorityAgeing team slot s) := by
  unfold execIssuePriorityAgeing
  simp +contextual [h]

@[simp] theorem goes_execWbase {b : Bool} {k : BitVec 7} : Goes c (execWbase b k s) := by
  unfold execWbase
  repeat' split
  all_goals simp +contextual [h]

@[simp] theorem goes_execQuiescenceReport {ctx job : Nat} : Goes c (execQuiescenceReport ctx job s) := by
  unfold execQuiescenceReport
  split
  · simpa using h
  · dsimp only
    split
    · simpa using h
    · split
      next hwrite => exact goes_next.mpr fun hc => State.wf_of_writeFor (h hc) hwrite
      next hwrite => exact goes_next.mpr fun hc => by simpa using State.wf_of_writeFor (h hc) hwrite

@[simp] theorem goes_execRecPush {b : Bool} {a c' : BitVec 7} : Goes c (execRecPush b a c' s) := by
  unfold execRecPush
  dsimp only
  repeat' split
  all_goals simp +contextual [h]

@[simp] theorem goes_execRecTry {b : Bool} {d : BitVec 6} {a c' : BitVec 7} : Goes c (execRecTry b d a c' s) := by
  unfold execRecTry
  dsimp only
  repeat' split
  all_goals simp +contextual [h]

@[simp] theorem goes_execNodeDone {b : Bool} {a : BitVec 6} : Goes c (execNodeDone b a s) := by
  unfold execNodeDone
  dsimp only
  repeat' split
  all_goals simp +contextual [h]

@[simp] theorem goes_execCancel {b : Bool} {a : BitVec 6} : Goes c (execCancel b a s) := by
  unfold execCancel
  dsimp only
  split <;> simp +contextual [h]

@[simp] theorem goes_execHostCancel {ctx job : Nat} : Goes c (execHostCancel ctx job s) := by
  unfold execHostCancel
  split <;> simp +contextual [h]

@[simp] theorem goes_execCancelDrop {ctx job node : Nat} : Goes c (execCancelDrop ctx job node s) := by
  unfold execCancelDrop
  repeat' split
  all_goals simp +contextual [h]

@[simp] theorem goes_execPush {ctx off : Nat} {bytes : List (BitVec 8)} : Goes c (execPush ctx off bytes s) := by
  unfold execPush
  dsimp only
  repeat' split
  all_goals simp +contextual [h]

@[simp] theorem goes_execLaunchTimer {ctx node : Nat} : Goes c (execLaunchTimer ctx node s) := by
  unfold execLaunchTimer
  simp +contextual [h]

@[simp] theorem goes_execTerminationRecord {ctx : Nat} : Goes c (execTerminationRecord ctx s) := by
  unfold execTerminationRecord
  split
  · simpa using h
  · split
    · simpa using h
    · split
      · simpa using h
      · dsimp only
        split
        · simp +contextual [h]
        · exact goes_next.mpr fun hc => by
            rw [State.modCtx_mem]
            exact foldl_memWf _ (fun s j h => State.writeFor_wf h _ _ _ _) _ (State.drainGone_wf (h hc))

@[simp] theorem goes_execQpass {b : Bool} : Goes c (execQpass b s) := by
  unfold execQpass
  dsimp only
  split <;> simp +contextual [h]

@[simp] theorem goes_execRsecIn {b : Bool} : Goes c (execRsecIn b s) := by
  unfold execRsecIn
  split <;> simp +contextual [h]

@[simp] theorem goes_execRsecOut {b : Bool} : Goes c (execRsecOut b s) := by
  unfold execRsecOut
  dsimp only
  repeat' split
  all_goals simp +contextual [h]

@[simp] theorem goes_execGrace {b : Bool} : Goes c (execGrace b s) := by
  unfold execGrace
  split <;> simp +contextual [h]

@[simp] theorem goes_execDefer {b : Bool} {a c' : BitVec 6} : Goes c (execDefer b a c' s) := by
  unfold execDefer
  dsimp only
  repeat' split
  all_goals simp +contextual [h]

@[simp] theorem goes_execGraceComplete {ctx : Nat} : Goes c (execGraceComplete ctx s) := by
  unfold execGraceComplete
  repeat' split
  all_goals simp +contextual [h]

@[simp] theorem goes_execCvt {b : Bool} {dst : BitVec 4} {d a : BitVec 7} {rnd : BitVec 2} {sat : Bool} {src : BitVec 4} :
    Goes c (execCvt b dst d a rnd sat src s) := by
  unfold execCvt
  simp +contextual [h]

@[simp] theorem goes_shuffle {i : Instr} {b : Bool} {d a : BitVec 7} {names : List Nat} {src : Team → Nat → Nat} :
    Goes c (shuffle i b d a names src s) := by
  unfold shuffle
  simp +contextual [h]

@[simp] theorem goes_execShflup {b : Bool} {d a : BitVec 7} {n : BitVec 5} : Goes c (execShflup b d a n s) := by
  unfold execShflup
  simp +contextual [h]

@[simp] theorem goes_execShfldn {b : Bool} {d a : BitVec 7} {n : BitVec 5} : Goes c (execShfldn b d a n s) := by
  unfold execShfldn
  simp +contextual [h]

@[simp] theorem goes_execBcast {b : Bool} {d a : BitVec 7} {m : BitVec 2} : Goes c (execBcast b d a m s) := by
  unfold execBcast
  repeat' split
  all_goals simp +contextual [h]

@[simp] theorem goes_scan {i : Instr} {b : Bool} {d a : BitVec 7} {op : (Word → Word → Word) × Word} {ex : Bool} : Goes c (scan i b d a op ex s) := by
  unfold scan
  simp +contextual [h]

@[simp] theorem goes_execVany {b : Bool} {d : BitVec 6} {p : BitVec 3} : Goes c (execVany b d p s) := by
  unfold execVany
  simp +contextual [h]

@[simp] theorem goes_execVall {b : Bool} {d : BitVec 6} {p : BitVec 3} : Goes c (execVall b d p s) := by
  unfold execVall
  simp +contextual [h]

@[simp] theorem goes_execBallot {b : Bool} {d : BitVec 6} {p : BitVec 3} {j : BitVec 5} : Goes c (execBallot b d p j s) := by
  unfold execBallot
  simp +contextual [h]

@[simp] theorem goes_predOp {b : Bool} {d : BitVec 3} {f : Team → Nat → Bool} : Goes c (predOp b d f s) := by
  unfold predOp
  simp +contextual [h]

@[simp] theorem goes_barrier {i : Instr} {b counted x : Bool} {n k : Nat} : Goes c (barrier i b counted x n k s) := by
  unfold barrier
  dsimp only
  refine goes_ite (fun _ => by simpa using h) fun _ =>
    goes_delivery (s := s.withTeam (s.team.belay b)) h (goes_next.mpr fun hc => ?_)
  have hfence : (s.withTeam (s.team.belay b)).fenceCrew.mem.wf = true := State.fenceCrew_wf (s := s.withTeam (s.team.belay b)) (h hc)
  rw [State.completeBarriers_mem]
  split
  · rw [State.quiesce_mem]
    exact hfence
  · exact hfence

@[simp] theorem goes_execExit {b : Bool} : Goes c (execExit b s) := by
  unfold execExit
  dsimp only
  split <;> simp +contextual [h]

@[simp] theorem goes_execBarrierWatchdogExpiry {crew : Nat} : Goes c (execBarrierWatchdogExpiry crew s) := by
  unfold execBarrierWatchdogExpiry
  repeat' split
  all_goals simp +contextual [h]

@[simp] theorem goes_execFence {b : Bool} {sc : BitVec 3} : Goes c (execFence b sc s) := by
  unfold execFence
  dsimp only
  repeat' split
  all_goals simp +contextual [h]

@[simp] theorem goes_execFenceMx {b : Bool} {sc : BitVec 3} : Goes c (execFenceMx b sc s) := by
  unfold execFenceMx
  dsimp only
  repeat' split
  all_goals simp +contextual [h]

@[simp] theorem goes_execFenceSmp {b : Bool} {sc : BitVec 3} : Goes c (execFenceSmp b sc s) := by
  unfold execFenceSmp
  dsimp only
  repeat' split
  all_goals simp +contextual [h]

@[simp] theorem goes_execDebugHalt {team : Nat} : Goes c (execDebugHalt team s) := by
  unfold execDebugHalt
  split <;> simp +contextual [h]

@[simp] theorem goes_execSamplerDropComplete {team : Nat} : Goes c (execSamplerDropComplete team s) := by
  unfold execSamplerDropComplete
  repeat' split
  all_goals simp +contextual [h]

@[simp] theorem goes_execSreadLane {b : Bool} {d : BitVec 7} {i : BitVec 6} : Goes c (execSreadLane b d i s) := by
  unfold execSreadLane
  dsimp only
  repeat' split
  all_goals simp +contextual [h]

@[simp] theorem goes_execSreadScalar {b : Bool} {d i : BitVec 6} : Goes c (execSreadScalar b d i s) := by
  unfold execSreadScalar
  split <;> simp +contextual [h]

@[simp] theorem goes_State.writeNetstat {i : Instr} {f : Nat → Word} : Goes c (State.writeNetstat s i f) := by
  unfold State.writeNetstat
  split <;> simp +contextual [h]

@[simp] theorem goes_State.writeTrapPc {i : Instr} {lane : Nat} {v : BitVec 64} : Goes c (State.writeTrapPc s i lane v) := by
  unfold State.writeTrapPc
  repeat' split
  all_goals simp +contextual [h]

@[simp] theorem goes_execSwriteLane {b : Bool} {i : BitVec 6} {c' : BitVec 7} : Goes c (execSwriteLane b i c' s) := by
  unfold execSwriteLane
  dsimp only
  repeat' split
  all_goals simp +contextual [h]

@[simp] theorem goes_execSwriteScalar {b : Bool} {i c' : BitVec 6} : Goes c (execSwriteScalar b i c' s) := by
  unfold execSwriteScalar
  split <;> simp +contextual [h]

@[simp] theorem goes_execTagRd {b : Bool} {d a : BitVec 6} {r : Bool} : Goes c (execTagRd b d a r s) := by
  refine goes_engineForm h fun s h => ?_
  split
  · split <;> simpa using h
  · exact goes_withHeader h fun s l b h => by simpa using h

@[simp] theorem goes_execTagWr {b : Bool} {a c' : BitVec 6} : Goes c (execTagWr b a c' s) := by
  refine goes_engineForm h fun s h => ?_
  dsimp only
  split
  · simpa using h
  · split
    · split
      · simpa using h
      · split <;> simpa using h
    · refine goes_withHeader h fun s l b h => ?_
      split
      · simpa using h
      · split
        next hreach => simpa [State.mem_of_reach_stop hreach] using h
        · rw [goes_next, State.withTeam_mem]
          exact fun hc => State.writeFrom_wf (State.fenceDev_wf (h hc)) _ _ _ _ _

@[simp] theorem goes_execTagChk {b : Bool} {d a c' : BitVec 6} : Goes c (execTagChk b d a c' s) := by
  refine goes_engineForm h fun s h => ?_
  dsimp only
  split
  · simpa using h
  · split
    · split <;> simpa using h
    · exact goes_withHeader h fun s l b h => by simpa using h

@[simp] theorem goes_execTileHdr {b : Bool} {d a : BitVec 6} : Goes c (execTileHdr b d a s) := by
  refine goes_engineForm h fun s h => ?_
  dsimp only
  split
  · simpa using h
  · split
    · simpa using h
    · split
      · simpa using h
      · split
        next hreach => simpa [State.mem_of_reach_stop hreach] using h
        · rw [goes_next, State.withTeam_mem]
          exact fun hc => State.writeFrom_wf (State.release_wf (h hc)) _ _ _ _ _

@[simp] theorem goes_execCpy {b : Bool} {d a c' : BitVec 6} {dir ord : Bool} {sw : BitVec 3} : Goes c (execCpy b d a c' dir ord sw s) := by
  refine goes_engineForm h fun s h => ?_
  split
  next hplan => simpa [State.mem_of_cpyPlan hplan] using h
  · simp +contextual [h]

@[simp] theorem goes_execCpy2d {b : Bool} {d a c' : BitVec 6} {dir ord : Bool} {sw : BitVec 3} : Goes c (execCpy2d b d a c' dir ord sw s) := by
  refine goes_engineForm h fun s h => ?_
  split
  next hplan => simpa [State.mem_of_cpy2dPlan hplan] using h
  · simp +contextual [h]

@[simp] theorem goes_execCpyT {b : Bool} {d a c' : BitVec 6} {dir ord : Bool} {sw : BitVec 3} : Goes c (execCpyT b d a c' dir ord sw s) := by
  refine goes_engineForm h fun s h => ?_
  have hplan : c → (planState (s.cpyTPlan dir d.toNat a.toNat)).mem.wf = true := fun hc => State.cpyTPlan_wf (h hc) _ _ _
  split
  next heq => simpa [heq, planState] using hplan
  next s1 p heq =>
    have h1 : c → s1.mem.wf = true := by simpa [heq, planState] using hplan
    simp +contextual [h1]

@[simp] theorem goes_execCopyComplete {op : Nat} : Goes c (execCopyComplete op s) := by
  unfold execCopyComplete
  split
  · simpa using h
  · split
    · split
      · simpa using h
      · refine goes_next.mpr fun hc => ?_
        dsimp only
        split <;> split <;> simp [h hc]
    · simpa using h

@[simp] theorem goes_execBankOpen {b : Bool} : Goes c (execBankOpen b s) := by
  unfold execBankOpen
  dsimp only
  repeat' split
  all_goals simp +contextual [h]

@[simp] theorem goes_execBankClose {b w : Bool} : Goes c (execBankClose b w s) := by
  unfold execBankClose
  dsimp only
  repeat' split
  all_goals simp +contextual [h]

@[simp] theorem goes_bankCommand {op : Nat} {b : Bool} {f : BitVec 2} {l : Bool} {a c' : BitVec 6} : Goes c (bankCommand op b f l a c' s) := by
  unfold bankCommand
  dsimp only
  split
  · simpa using h
  · split
    · simpa using h
    · split
      next hreach => simpa [State.mem_of_reach_stop hreach] using h
      · split
        · simpa using h
        · split
          · simpa using h
          · exact goes_next.mpr fun hc => by simp [h hc]

@[simp] theorem goes_execBankErr {b : Bool} {d a c' : BitVec 6} : Goes c (execBankErr b d a c' s) := by
  unfold execBankErr
  dsimp only
  split
  · simpa using h
  · split
    next hreach => simpa [State.mem_of_reach_stop hreach] using h
    · split
      · simpa using h
      · split <;> simpa using h

@[simp] theorem goes_execBankCommandFinish {unit : Nat} : Goes c (execBankCommandFinish unit s) := by
  unfold execBankCommandFinish
  dsimp only
  split <;> simp +contextual [h]

@[simp] theorem goes_execBankRoundAck {team : Nat} : Goes c (execBankRoundAck team s) := by
  unfold execBankRoundAck
  split <;> simp +contextual [h]

@[simp] theorem goes_execBankAgeing {unit : Nat} : Goes c (execBankAgeing unit s) := by
  unfold execBankAgeing
  simp +contextual [h]

@[simp] theorem goes_execCnvZtest {b : Bool} {a : BitVec 4} {c' : BitVec 6} : Goes c (execCnvZtest b a c' s) := by
  unfold execCnvZtest
  dsimp only
  split
  · exact goes_canvasForm h fun _ _ => by simpa using h
  · exact goes_canvasForm h fun s h => by simpa using h

@[simp] theorem goes_execCnvPush {b : Bool} {k : BitVec 3} {a : BitVec 4} {c' : BitVec 6} : Goes c (execCnvPush b k a c' s) := by
  unfold execCnvPush
  split
  · exact goes_canvasForm h fun s h => by simpa using h
  · exact goes_canvasPlain h

@[simp] theorem goes_execCnvElse {b : Bool} : Goes c (execCnvElse b s) := by
  unfold execCnvElse
  split
  · exact goes_canvasForm h fun s h => by simpa using h
  · exact goes_canvasPlain h

@[simp] theorem goes_execCnvPop {b : Bool} : Goes c (execCnvPop b s) := by
  unfold execCnvPop
  split
  · exact goes_canvasForm h fun s h => by simpa using h
  · exact goes_canvasPlain h

@[simp] theorem goes_execCnvRdl {b : Bool} {d : BitVec 7} {a : BitVec 4} {c' : BitVec 6} : Goes c (execCnvRdl b d a c' s) := by
  unfold execCnvRdl
  split
  · simpa using h
  · exact goes_canvasForm h fun s h => goes_delivery h (by simpa using h)

@[simp] theorem goes_execCnvWrl {b : Bool} {d : BitVec 4} {a : BitVec 7} {c' : BitVec 6} : Goes c (execCnvWrl b d a c' s) := by
  unfold execCnvWrl
  split <;> simp +contextual [h]

@[simp] theorem goes_execCnvLoad {b : Bool} {d : BitVec 4} {a : BitVec 6} : Goes c (execCnvLoad b d a s) :=
  goes_regionForm h fun s k h => by simpa using h

@[simp] theorem goes_execCnvStore {b : Bool} {d : BitVec 4} {a : BitVec 6} : Goes c (execCnvStore b d a s) :=
  goes_regionForm h fun s k h => goes_delivery h (by simpa using h)

@[simp] theorem goes_execCnvRdlA {b : Bool} {d : BitVec 7} {a : BitVec 4} {c' : BitVec 6} : Goes c (execCnvRdlA b d a c' s) := by
  unfold execCnvRdlA
  split
  · simpa using h
  · refine goes_canvasForm h fun s h => ?_
    dsimp only
    split
    · simpa using h
    · split
      · simpa using h
      · exact goes_delivery h (by simpa using h)

@[simp] theorem goes_execCnvXmap {b : Bool} {d : BitVec 7} {a : BitVec 6} {m : BitVec 5} : Goes c (execCnvXmap b d a m s) := by
  unfold execCnvXmap
  split <;> simp +contextual [h]

@[simp] theorem goes_execCnvSync {b : Bool} : Goes c (execCnvSync b s) :=
  goes_canvasForm h fun s h => goes_delivery h (by simpa using h)

@[simp] theorem goes_execCnvOrg {b : Bool} {a c' : BitVec 6} : Goes c (execCnvOrg b a c' s) := by
  unfold execCnvOrg
  dsimp only
  split
  · exact goes_canvasForm h fun s h => by simpa using h
  · exact goes_canvasForm h fun _ _ => by simpa using h

@[simp] theorem goes_remoteCopy {i : Instr} {kind : Nat} {b : Bool} {d a c' win : BitVec 6} {tc ord : Bool} {dev : BitVec 22} :
    Goes c (remoteCopy i kind b d a c' win tc ord dev s) := by
  refine goes_engineForm h fun s h => ?_
  dsimp only
  split
  next hfault => simpa [State.mem_of_remoteFault hfault] using h
  · split
    next hreach => simpa [State.mem_of_reach_stop hreach] using h
    · refine goes_next.mpr fun hc => ?_
      rw [State.withTeam_mem, State.touchUnits_mem, State.addOp_mem]
      split <;> simp [h hc]

@[simp] theorem goes_execPutComplete {op : Nat} : Goes c (execPutComplete op s) := by
  unfold execPutComplete
  split
  · simpa using h
  · split
    · split
      · simpa using h
      · split
        next hmove => exact goes_next.mpr fun hc => by simpa using State.moveRest_wf (h hc) hmove
        · simp +contextual [h]
    · simpa using h

@[simp] theorem goes_execPsigComplete {op : Nat} : Goes c (execPsigComplete op s) := by
  unfold execPsigComplete
  split
  · simpa using h
  · split
    · split
      · simpa using h
      · split
        · simp +contextual [h]
        next hmove =>
          split
          · split
            · exact goes_next.mpr fun hc => by simp [State.moveRest_wf (h hc) hmove]
            · simp +contextual [h]
          · exact goes_next.mpr fun hc => by simpa using State.moveRest_wf (h hc) hmove
    · simpa using h

@[simp] theorem goes_execGetComplete {op : Nat} {bytes : List (BitVec 8)} : Goes c (execGetComplete op bytes s) := by
  unfold execGetComplete
  split
  · simpa using h
  · split
    · split
      · simpa using h
      · dsimp only
        split
        next hmove => exact goes_next.mpr fun hc => by simpa using State.moveRest_wf (h hc) hmove
        · simp +contextual [h]
    · simpa using h

@[simp] theorem goes_execRemoteAccess {ctx kind va : Nat} {bytes : List (BitVec 8)} : Goes c (execRemoteAccess ctx kind va bytes s) := by
  unfold execRemoteAccess
  repeat' split
  all_goals simp +contextual [h]

@[simp] theorem goes_execWindowRegister {ctx win dev base size : Nat} {allowPut allowGet : Bool} :
    Goes c (execWindowRegister ctx win dev base size allowPut allowGet s) := by
  unfold execWindowRegister
  split <;> simp +contextual [h]

@[simp] theorem goes_execRouteTableWrite {dev port : Nat} {direct : Bool} : Goes c (execRouteTableWrite dev port direct s) := by
  unfold execRouteTableWrite
  split <;> simp +contextual [h]

@[simp] theorem goes_execForwardedFlit {_port dest : Nat} {flit : List (BitVec 8)} : Goes c (execForwardedFlit _port dest flit s) := by
  unfold execForwardedFlit
  repeat' split
  all_goals simp +contextual [h]

@[simp] theorem goes_execFrameRel {b e : Bool} {a c' : BitVec 6} : Goes c (execFrameRel b e a c' s) := by
  unfold execFrameRel
  dsimp only
  split
  · simpa using h
  · split
    · simpa using h
    · split
      · simpa using h
      · split
        next hreach => simpa [State.mem_of_reach_stop hreach] using h
        · split
          · simpa using h
          · exact goes_next.mpr fun hc => State.readHeader_wf (by simp [h hc]) _

@[simp] theorem goes_execReefGovernorTick  : Goes c (execReefGovernorTick s) := by
  unfold execReefGovernorTick
  split <;> simp +contextual [h]

@[simp] theorem goes_execFrameRelease {ctx : Nat} : Goes c (execFrameRelease ctx s) := by
  unfold execFrameRelease
  dsimp only
  repeat' split
  all_goals simp +contextual [h]

@[simp] theorem goes_execFsyncPulseEnd  : Goes c (execFsyncPulseEnd s) := by
  unfold execFsyncPulseEnd
  repeat' split
  all_goals simp +contextual [h]

@[simp] theorem goes_execSyncMessage {m : SyncExchange} : Goes c (execSyncMessage m s) := by
  unfold execSyncMessage
  dsimp only
  repeat' split
  all_goals simp +contextual [h]

@[simp] theorem goes_execSyncTimeout  : Goes c (execSyncTimeout s) := by
  unfold execSyncTimeout
  repeat' split
  all_goals simp +contextual [h]

@[simp] theorem goes_execHoldoverTimeout  : Goes c (execHoldoverTimeout s) := by
  unfold execHoldoverTimeout
  split <;> simp +contextual [h]

@[simp] theorem goes_execPpsOutputEdge  : Goes c (execPpsOutputEdge s) := by
  unfold execPpsOutputEdge
  split <;> simp +contextual [h]

@[simp] theorem goes_execPpsPulseEnd  : Goes c (execPpsPulseEnd s) := by
  unfold execPpsPulseEnd
  split <;> simp +contextual [h]

@[simp] theorem goes_execPpsInputEdge  : Goes c (execPpsInputEdge s) := by
  unfold execPpsInputEdge
  dsimp only
  repeat' split
  all_goals simp +contextual [h]

@[simp] theorem goes_execFsyncInputEdge  : Goes c (execFsyncInputEdge s) := by
  unfold execFsyncInputEdge
  split <;> simp +contextual [h]

@[simp] theorem goes_execNodeLaunch {core ctx node : Nat} : Goes c (execNodeLaunch core ctx node s) := by
  unfold execNodeLaunch
  split
  · split
    · split
      · simpa using h
      · split <;> exact goes_next.mpr fun hc => State.retryPushes_wf (by simp [h hc]) _
    · simpa using h
  · simpa using h

@[simp] theorem goes_execCrewEnd {crew : Nat} : Goes c (execCrewEnd crew s) := by
  unfold execCrewEnd
  repeat' split
  all_goals simp +contextual [h]

@[simp] theorem goes_execTrimGovernorTick : Goes c (execTrimGovernorTick s) := by
  unfold execTrimGovernorTick
  split
  · simpa using h
  · exact goes_next.mpr fun hc => foldl_memWf _ (fun s x h => by simp [h]) _ (h hc)

@[simp] theorem goes_multiply {i : Instr} {b sp : Bool} {d a c' : BitVec 7} {da db : Bool} {kg fbr : Nat} :
    Goes c (multiply i b sp d a c' da db kg fbr s) := by
  unfold multiply
  split
  · simpa using h
  · refine goes_engineForm h fun s h => ?_
    dsimp only
    split
    next hcheck => simpa [State.mem_of_mmaCheck hcheck] using h
    · simp +contextual [h]

@[simp] theorem goes_execCpyFollowMma {b b2 : Bool} {kind : BitVec 2} {d a c' : BitVec 6} {ord : Bool} {sw : BitVec 3} {sp : Bool}
    {md ma mc : BitVec 7} {da db : Bool} {kg : BitVec 6} {fbr : BitVec 15} :
    Goes c (execCpyFollowMma b b2 kind d a c' ord sw sp md ma mc da db kg fbr s) := by
  unfold execCpyFollowMma
  extract_lets i
  split
  · simpa using h
  · refine goes_engineForm h fun s h => ?_
    have hplan : c → (planState (s.followPlan i kind.toNat d.toNat a.toNat c'.toNat)).mem.wf = true :=
      fun hc => State.followPlan_wf (h hc) _ _ _ _ _
    split
    next heq => simpa [heq, planState] using hplan
    next s1 p heq =>
      have h1 : c → s1.mem.wf = true := by simpa [heq, planState] using hplan
      dsimp only
      split
      next hcheck => simpa [State.mem_of_mmaCheck hcheck] using h1
      · simp +contextual [h1]

@[simp] theorem goes_execFollowMmaIssue {op : Nat} : Goes c (execFollowMmaIssue op s) := by
  unfold execFollowMmaIssue
  repeat' split
  all_goals simp +contextual [h]

@[simp] theorem goes_execAccClr {b : Bool} {a : BitVec 6} : Goes c (execAccClr b a s) := by
  refine goes_accForm h fun s h => ?_
  dsimp only
  split
  next hslot => simpa [State.mem_of_slotFault hslot] using h
  · simp +contextual [h]

@[simp] theorem goes_execAccProm {b : Bool} {d a c' : BitVec 6} : Goes c (execAccProm b d a c' s) := by
  refine goes_accForm h fun s h => ?_
  dsimp only
  split
  next hslot => simpa [State.mem_of_slotFault hslot] using h
  · split
    next hslot => simpa [State.mem_of_slotFault hslot] using h
    · simp +contextual [h]

@[simp] theorem goes_execAccLd {b : Bool} {d a : BitVec 6} : Goes c (execAccLd b d a s) := by
  refine goes_accForm h fun s h => ?_
  dsimp only
  split
  next hslot => simpa [State.mem_of_slotFault hslot] using h
  · refine goes_withHeader h fun s l b h => ?_
    split
    · simpa using h
    · split
      · simpa using h
      · split
        next hreach => simpa [State.mem_of_reach_stop hreach] using h
        · simp +contextual [h]

@[simp] theorem goes_execAccSt {b : Bool} {d a : BitVec 6} {f : BitVec 3} {sat : Bool} : Goes c (execAccSt b d a f sat s) := by
  refine goes_accForm h fun s h => ?_
  dsimp only
  split
  next hslot => simpa [State.mem_of_slotFault hslot] using h
  · refine goes_withHeader h fun s l b h => ?_
    split
    · simpa using h
    · split
      next hreach => simpa [State.mem_of_reach_stop hreach] using h
      · simp +contextual [h]

@[simp] theorem goes_execAccComplete {op : Nat} : Goes c (execAccComplete op s) := by
  unfold execAccComplete
  split
  · simpa using h
  · split
    · simpa using h
    · split
      · simpa using h
      · split
        · dsimp only
          split <;> simpa using h
        · dsimp only
          split <;> simpa using h
        · dsimp only
          split <;> exact goes_next.mpr fun hc => by simp [h hc]
        · dsimp only
          split
          · rw [goes_next, State.finishOp_mem]
            exact fun hc => State.writeTag_wf (foldl_memWf _ (fun s e h => by simp [h]) _ (h hc)) _ _ _
          · simpa using h
        · simpa using h

@[simp] theorem goes_execRingRed {b : Bool} {a : BitVec 6} : Goes c (execRingRed b a s) := by
  unfold execRingRed
  dsimp only
  refine goes_ite (fun _ => by simpa using h) fun _ => ?_
  split
  next hreach => simpa [State.mem_of_reach_stop hreach] using h
  · split
    next hreach =>
      rw [goes_next, State.mem_of_reach_stop hreach]
      exact fun hc => by simp [h hc]
    · split
      next hreach =>
        rw [goes_next, State.mem_of_reach_stop hreach]
        exact fun hc => by simp [h hc]
      · have hs2 (hc : c) {s1 : State} (h1 : s1.mem.wf = true) (home : Nat) (tl : List Loc) (ring n : Nat) :
            (if tl = [] then s1.drainFor home tl else (s1.drainFor home tl).readTable tl ring n).mem.wf = true := by
          split <;> simp [h1]
        split
        · rw [goes_next, State.trapHere_mem]
          exact fun hc => hs2 hc (by simp [h hc]) _ _ _ _
        · refine goes_ite (fun _ => ?_) fun _ => ?_
          · rw [goes_next, State.vaTrap_mem]
            exact fun hc => hs2 hc (by simp [h hc]) _ _ _ _
          · split
            next hreach =>
              rw [goes_next, State.mem_of_reach_stop hreach]
              exact fun hc => hs2 hc (by simp [h hc]) _ _ _ _
            · refine goes_ite (fun _ => by simpa using h) fun _ => ?_
              split
              · simpa using h
              · refine goes_ite (fun _ => ?_) fun _ => ?_
                · rw [goes_next, State.withTeam_mem, State.addOp_mem]
                  exact fun hc => State.release_wf (hs2 hc (by simp [h hc]) _ _ _ _)
                · rw [goes_next]
                  refine fun hc => State.failOp_wf ?_ _
                  rw [State.withTeam_mem, State.addOp_mem]
                  exact State.release_wf (hs2 hc (by simp [h hc]) _ _ _ _)

@[simp] theorem goes_execPartialSegment {op chunk seg : Nat} {bytes : List (BitVec 8)} : Goes c (execPartialSegment op chunk seg bytes s) := by
  unfold execPartialSegment
  split <;> simp +contextual [h]

@[simp] theorem goes_execRingChunkWritten {op chunk : Nat} {bytes : List (BitVec 8)} : Goes c (execRingChunkWritten op chunk bytes s) := by
  unfold execRingChunkWritten
  split
  · simpa using h
  next o _ =>
    split
    next a _ sent joined _ =>
      split
      · simpa using h
      · split
        · simpa using h
        next places _ =>
          have hwritten (hc : c) : (places.zipIdx.foldl (fun s x =>
              match x.1 with
              | some l => s.writeThrough l 16 (ofLeBytes (s.ringUnit o a joined chunk bytes x.2))
              | none => s) (s.ringDone o a (a.dstUnits chunk))).mem.wf = true :=
            foldl_memWf _ (fun s x h => by split <;> simp [h]) _ (by simpa using h hc)
          dsimp only
          rw [goes_next, State.modOp_mem]
          intro hc
          split <;> exact hwritten hc
    · simpa using h

@[simp] theorem goes_execRingComplete {op : Nat} : Goes c (execRingComplete op s) := by
  unfold execRingComplete
  repeat' split
  all_goals simp +contextual [h]

@[simp] theorem goes_execWindowRevoke {ctx win : Nat} : Goes c (execWindowRevoke ctx win s) := by
  unfold execWindowRevoke
  simp +contextual [h]

@[simp] theorem goes_execRingWait {b : Bool} {a c' : BitVec 6} : Goes c (execRingWait b a c' s) := by
  unfold execRingWait
  dsimp only
  repeat' split
  all_goals simp +contextual [h]

@[simp] theorem goes_execContextCreate {ctx : Nat} {desc : List (BitVec 8)} {cregs : List (BitVec 64)} {cores : List Nat} :
    Goes c (execContextCreate ctx desc cregs cores s) := by
  unfold execContextCreate
  split <;> simp +contextual [h]

@[simp] theorem goes_execContextDestroy {ctx : Nat} : Goes c (execContextDestroy ctx s) := by
  unfold execContextDestroy
  repeat' split
  all_goals simp +contextual [h]

@[simp] theorem goes_execRigImageLoad {ctx : Nat} {image : List (BitVec 8)} {bases : List Nat} {csets : List (List Nat)} :
    Goes c (execRigImageLoad ctx image bases csets s) := by
  unfold execRigImageLoad
  split
  · simpa using h
  · dsimp only
    split
    · simpa using h
    · rw [goes_next, State.takeRig_mem]
      simp only [State.modCtx_mem]
      exact fun hc => State.loadBytes_wf (foldl_memWf _ (fun s k h => by simp [h]) _ (h hc)) _ _ _

@[simp] theorem goes_execWeightStoreWrite {ctx off : Nat} {bytes : List (BitVec 8)} : Goes c (execWeightStoreWrite ctx off bytes s) := by
  unfold execWeightStoreWrite
  split
  · simpa using h
  · split
    · simpa using h
    · split
      · simpa using h
      · exact goes_next.mpr fun hc => foldl_memWf _ (fun s x h => by simp [h]) _ (h hc)

@[simp] theorem goes_execPreemptionRequest {ctx : Nat} : Goes c (execPreemptionRequest ctx s) := by
  unfold execPreemptionRequest
  repeat' split
  all_goals simp +contextual [h]

@[simp] theorem goes_execPreemptionHalt {ctx : Nat} : Goes c (execPreemptionHalt ctx s) := by
  unfold execPreemptionHalt
  split
  · simpa using h
  · split
    · simpa using h
    · dsimp only
      rw [goes_next, State.modCtx_mem]
      intro hc
      refine foldl_memWf _ (fun s t h => by simp [h]) _ ?_
      refine foldl_memWf _ (fun s o h => by simp [h]) _ ?_
      exact foldl_memWf _ (fun s k h => by simp [h]) _ (h hc)

@[simp] theorem goes_execContextResume {ctx : Nat} : Goes c (execContextResume ctx s) := by
  unfold execContextResume
  simp +contextual [h]

@[simp] theorem goes_execContextSave {ctx : Nat} : Goes c (execContextSave ctx s) := by
  unfold execContextSave
  split
  · simpa using h
  · split
    · simpa using h
    · split
      · simpa using h
      · dsimp only
        rw [goes_next, State.modCtx_mem]
        simp only [State.openRange_mem, State.mapTeams_mem]
        exact fun hc => State.performSc_wf (foldl_memWf _ (fun s k h => by simp [h]) _ (State.endEmptyCopies_wf (h hc) ctx))

@[simp] theorem goes_execContextRestore {ctx : Nat} : Goes c (execContextRestore ctx s) := by
  unfold execContextRestore
  split
  · simpa using h
  · split
    · simpa using h
    · dsimp only
      split
      · simpa using h
      next hplaced =>
        refine goes_next.mpr fun hc => State.retryPushes_wf (foldl_memWf _ (fun s k h => by simp [h]) _ ?_) ctx
        rw [State.issueFollows_mem]
        refine foldl_memWf _ (fun s k h => by simp [h]) _ ?_
        rw [State.placeCrews_mem _ hplaced]
        simpa using h hc

@[simp] theorem goes_execBra {b : Bool} {cc : BitVec 4} {disp : BitVec 21} : Goes c (execBra b cc disp s) := by
  unfold execBra
  dsimp only
  repeat' split
  all_goals simp +contextual [h]

@[simp] theorem goes_execCall {b : Bool} {cc : BitVec 4} {disp : BitVec 21} : Goes c (execCall b cc disp s) := by
  unfold execCall
  dsimp only
  repeat' split
  all_goals simp +contextual [h]

@[simp] theorem goes_execJmpi {b : Bool} {a : BitVec 6} : Goes c (execJmpi b a s) := by
  unfold execJmpi
  dsimp only
  split <;> simp +contextual [h]

@[simp] theorem goes_execCallx {b : Bool} {a : BitVec 7} : Goes c (execCallx b a s) := by
  unfold execCallx
  dsimp only
  repeat' split
  all_goals simp +contextual [h]

@[simp] theorem goes_execRet {b : Bool} : Goes c (execRet b s) := by
  unfold execRet
  dsimp only
  repeat' split
  all_goals simp +contextual [h]

@[simp] theorem goes_execIfMask {b : Bool} {p : BitVec 3} : Goes c (execIfMask b p s) := by
  unfold execIfMask
  dsimp only
  split <;> simp +contextual [h]

@[simp] theorem goes_execElseMask {b : Bool} : Goes c (execElseMask b s) := by
  unfold execElseMask
  dsimp only
  repeat' split
  all_goals simp +contextual [h]

@[simp] theorem goes_execEndIf {b : Bool} : Goes c (execEndIf b s) := by
  unfold execEndIf
  dsimp only
  repeat' split
  all_goals simp +contextual [h]

@[simp] theorem goes_execLoop {b : Bool} : Goes c (execLoop b s) := by
  unfold execLoop
  dsimp only
  split <;> simp +contextual [h]

@[simp] theorem goes_execBreakMask {b : Bool} {p : BitVec 3} : Goes c (execBreakMask b p s) := by
  unfold execBreakMask
  dsimp only
  split <;> simp +contextual [h]

@[simp] theorem goes_execContMask {b : Bool} {p : BitVec 3} : Goes c (execContMask b p s) := by
  unfold execContMask
  dsimp only
  split <;> simp +contextual [h]

@[simp] theorem goes_execEndLoop {b : Bool} : Goes c (execEndLoop b s) := by
  unfold execEndLoop
  dsimp only
  repeat' split
  all_goals simp +contextual [h]

@[simp] theorem goes_execInjectionArm {col : Nat} : Goes c (execInjectionArm col s) := by
  unfold execInjectionArm
  split <;> simp +contextual [h]

@[simp] theorem goes_execAttestationReport {nonce : List (BitVec 8)} : Goes c (execAttestationReport nonce s) := by
  unfold execAttestationReport
  split <;> simp +contextual [h]

@[simp] theorem goes_execPowerCapSet {watts : Nat} : Goes c (execPowerCapSet watts s) := by
  unfold execPowerCapSet
  split <;> simp +contextual [h]

@[simp] theorem goes_execPowerArbiterTick {draw : Nat} : Goes c (execPowerArbiterTick draw s) := by
  unfold execPowerArbiterTick
  split <;> simp +contextual [h]

omit h in
theorem goes_execPackageReset {bootsel : Bool} {codes : List Nat} {devid : Nat} {found : BootFinds} :
    Goes c (execPackageReset bootsel codes devid found s) := goes_next.mpr fun _ => State.reset_wf

@[simp] theorem goes_execMin {b : Bool} {d a c' : BitVec 7} : Goes c (execMin b d a c' s) := by
  unfold execMin
  simp +contextual [h]

@[simp] theorem goes_execMax {b : Bool} {d a c' : BitVec 7} : Goes c (execMax b d a c' s) := by
  unfold execMax
  simp +contextual [h]

@[simp] theorem goes_execMinu {b : Bool} {d a c' : BitVec 7} : Goes c (execMinu b d a c' s) := by
  unfold execMinu
  simp +contextual [h]

@[simp] theorem goes_execMaxu {b : Bool} {d a c' : BitVec 7} : Goes c (execMaxu b d a c' s) := by
  unfold execMaxu
  simp +contextual [h]

@[simp] theorem goes_laneNet {i : Instr} {b : Bool} {d a c' first : Nat} {ptr : Team → Nat → Nat} :
    Goes c (laneNet i b d a c' first ptr s) := by
  refine goes_ite (fun _ => by simpa using h) fun _ => goes_engineForm h fun s h => ?_
  dsimp only
  split
  · simpa using h
  · refine goes_ite (fun _ => by simpa using h) fun _ => goes_ite (fun _ => ?_) fun _ => ?_ <;> simpa using h

@[simp] theorem goes_execMatrixArrayGroup {core : Nat} : Goes c (execMatrixArrayGroup core s) := by
  unfold execMatrixArrayGroup
  dsimp only
  repeat' split
  all_goals simp +contextual [h]

@[simp] theorem goes_execSamplerFill {core line : Nat} : Goes c (execSamplerFill core line s) := by
  unfold execSamplerFill
  dsimp only
  split
  · simpa using h
  · refine goes_next.mpr fun hc => foldl_memWf _ (fun s k h => by simp [h]) _ ?_
    rw [State.modCore_mem]
    split <;> simp [h hc]

@[simp] theorem goes_execSmpG {b : Bool} {d a : BitVec 7} {c' : BitVec 6} : Goes c (execSmpG b d a c' s) := by
  unfold execSmpG
  split
  · simpa using h
  · dsimp only
    split
    · simpa using h
    · have hlines := State.serveLines_mem (s.withTeam (s.team.belay b))
      split
      next heq =>
        rw [goes_next, ← show _ = _ from congrArg (fun r => r.1.mem) heq, hlines]
        exact h
      next heq =>
        rw [goes_next, State.finishAccess_mem, State.withTeam_mem, State.touch_mem, State.tookLines_mem,
          ← show _ = _ from congrArg (fun r => r.1.mem) heq, hlines]
        exact h

@[simp] theorem goes_sampleLanes {lod : Bool} {d a n : Nat} {tx : Texture} {desc : SampLine} : Goes c (sampleLanes lod d a n tx desc s) := by
  unfold sampleLanes
  dsimp only
  have hlines := State.serveLines_mem s
  split
  next heq =>
    rw [goes_next, ← show _ = _ from congrArg (fun r => r.1.mem) heq, hlines]
    exact h
  next heq =>
    rw [goes_next, State.finishAccess_mem, State.withTeam_mem]
    simp only [State.tookLines_mem]
    rw [← show _ = _ from congrArg (fun r => r.1.mem) heq, hlines]
    exact h

@[simp] theorem goes_sampleForm {i : Instr} {b lod : Bool} {d a n k : Nat} : Goes c (sampleForm i b lod d a n k s) := by
  refine goes_ite (fun _ => by simpa using h) fun _ => goes_ite (fun _ => by simpa using h) fun _ => ?_
  dsimp only
  split
  · exact goes_sampleLanes (s := s.withTeam (s.team.belay b)) h
  · refine goes_ite (fun _ => by simpa using h) fun _ => ?_
    split
    · simpa using h
    · split
      · simpa using h
      next l _ =>
        have hread (hc : c) (va : Nat) : ((s.withTeam (s.team.belay b)).readDescriptor l va).1.mem.wf = true :=
          State.readDescriptor_wf (s := s.withTeam (s.team.belay b)) (h hc) l va
        split
        · rw [goes_next, State.textureTrap_mem]
          exact fun hc => hread hc _
        · refine goes_sampleLanes ?_
          rw [State.touch_mem]
          exact fun hc => hread hc _

@[simp] theorem goes_attrForm {i : Instr} {b : Bool} {d a c' outs : Nat} {perAttr : Bool} : Goes c (attrForm i b d a c' outs perAttr s) := by
  unfold attrForm
  refine goes_ite (fun _ => by simpa using h) fun _ => ?_
  dsimp only
  split
  · simpa using h
  · refine goes_ite (fun _ => by simpa using h) fun _ => ?_
    have hprepared (hc : c) : ((s.withTeam (s.team.belay b)).prepareAttr c' a perAttr).mem.wf = true :=
      State.prepareAttr_wf (s := s.withTeam (s.team.belay b)) (h hc) _ _ _
    split
    · rw [goes_next, State.vaTrap_mem]
      exact hprepared
    · rw [goes_next, State.finishAccess_mem, State.withTeam_mem, State.foldl_keeps _ (·.mem) (fun s x => State.fillTlb_mem s _ _ _),
        State.concludeLoad_mem]
      exact hprepared

@[simp] theorem goes_execSadd {b : Bool} {d a c' : BitVec 6} : Goes c (execSadd b d a c' s) := by
  unfold execSadd
  simp +contextual [h]

@[simp] theorem goes_execSsub {b : Bool} {d a c' : BitVec 6} : Goes c (execSsub b d a c' s) := by
  unfold execSsub
  simp +contextual [h]

@[simp] theorem goes_execSadd64 {b : Bool} {d a c' : BitVec 6} : Goes c (execSadd64 b d a c' s) := by
  unfold execSadd64
  simp +contextual [h]

@[simp] theorem goes_execMovx {b : Bool} {d : BitVec 7} {imm : BitVec 32} : Goes c (execMovx b d imm s) := by
  unfold execMovx
  split <;> simp +contextual [h]

end Forms

end Sys2Proof.Machine
end

section
/-! Every instruction and event but a host write answers a next state, and a step keeps memory in its canonical form (16, R90). -/

namespace Sys2Proof.Machine

/-- Every instruction and event goes on, but a host write to memory. -/
theorem goes_exec {c : Prop} {s : State} (h : c → s.mem.wf = true) {i : Instr} (hi : ∀ ctx va bytes, i ≠ .hostMemoryWrite ctx va bytes) :
    Goes c (exec i s) := by
  cases i
  case hostMemoryWrite => exact absurd rfl (hi _ _ _)
  all_goals simp only [exec]
  case add | sub | mul | mulhi | mulhu | and | or | xor | andn | shl | shr | sar | bfx | bfxs | fadd | fsub | fmul | fmin | fmax | padd |
      psub | pmul | pmin | pmax | fdiv => exact goes_laneBin h
  case imad | bfi | ffma | pfma => exact goes_laneAcc h
  case popc | clz | addi | andi | ori | xori | shli | shri | sari | fabs | fneg | rcp | rsq | sqrt | ex2 | lg2 | sin | cos => exact goes_laneUn h
  case add64 | sub64 => exact goes_laneBin64 h
  case movi | reda | freda => exact goes_laneInstr h
  case cmpi | cmp | fcmp | pset => exact goes_laneCmp h
  case shfl | shflx => exact goes_shuffle h
  case scana | fscana => exact goes_scan h
  case pand | por | pxor | pnot => exact goes_predOp h
  case smul | sand | sor | sxor | sshl | sshr | ssar => exact goes_scalarBin h
  case scmp | smov | saddi | smovi | scmpi | movxS | tpri | nop | ctxrd | wdog => exact goes_teamInstr h
  case sandi | sori | sxori | sshli | sshri | ssari => exact goes_scalarImm h
  case bar | barC | barX | barXC => exact goes_barrier h
  case ld | ldOffset => exact goes_loadGlobal h
  case st | stOffset => exact goes_storeGlobal h
  case lda | ldaOffset => exact goes_loadAsync h
  case sld | sldOffset => exact goes_loadScalar h
  case sst | sstOffset => exact goes_storeScalar h
  case put | get | psig => exact goes_remoteCopy h
  case smp | smpL => exact goes_sampleForm h
  case attrf | attrb => exact goes_attrForm h
  case cnvLin | cnvQuad | cnvExpq | cnvLinK | cnvQuadK | cnvExpqK | cnvAdd | cnvSub | cnvMul | cnvFma | cnvMin | cnvMax | cnvMov |
      cnvMovScalar | cnvSfn | cnvCmp | cnvBlend | cnvVis | cnvClr | cnvClrOnes | cnvClrVis | cnvAll | cnvWin | cnvMac | cnvMacK | cnvXsum |
      cnvXclr => exact goes_canvasPlain h
  case mma | mmaSp => exact goes_multiply h
  case netv | nets => exact goes_laneNet h
  case bankDot | bankAxpy | bankScal | bankSum | bankMax | bankFill | bankCopy => exact goes_bankCommand h
  case bankWait | trap | rtt | bkpt | registerWrite | terminateOnRequest | teamResume | writeCombiningDrain | canvasExecute | bankRefresh |
      weightStoreRefreshSlot | linkFailure | coolantLoss | illegalInstruction | ctxwrPropagated | scStorePerformed | flitCrcFailure |
      linkRetrain => exact goes_next.mpr fun hc => by simp [h hc]
  case waitTableNotify =>
    exact goes_next.mpr fun hc => foldl_memWf _ (fun s k h => by simp [h]) _ (h hc)
  case min => exact goes_execMin h
  case max => exact goes_execMax h
  case minu => exact goes_execMinu h
  case maxu => exact goes_execMaxu h
  case cvt => exact goes_execCvt h
  case shflup => exact goes_execShflup h
  case shfldn => exact goes_execShfldn h
  case bcast => exact goes_execBcast h
  case vany => exact goes_execVany h
  case vall => exact goes_execVall h
  case ballot => exact goes_execBallot h
  case sadd => exact goes_execSadd h
  case ssub => exact goes_execSsub h
  case sadd64 => exact goes_execSadd64 h
  case movx => exact goes_execMovx h
  case sreadLane => exact goes_execSreadLane h
  case sreadScalar => exact goes_execSreadScalar h
  case swriteLane => exact goes_execSwriteLane h
  case swriteScalar => exact goes_execSwriteScalar h
  case wbase => exact goes_execWbase h
  case bra => exact goes_execBra h
  case call => exact goes_execCall h
  case ret => exact goes_execRet h
  case jmpi => exact goes_execJmpi h
  case callx => exact goes_execCallx h
  case exit => exact goes_execExit h
  case ifMask => exact goes_execIfMask h
  case elseMask => exact goes_execElseMask h
  case endIf => exact goes_execEndIf h
  case loop => exact goes_execLoop h
  case breakMask => exact goes_execBreakMask h
  case contMask => exact goes_execContMask h
  case endLoop => exact goes_execEndLoop h
  case ldp => exact goes_execLdp h
  case ldpOffset => exact goes_execLdpOffset h
  case stp => exact goes_execStp h
  case stpOffset => exact goes_execStpOffset h
  case atom => exact goes_execAtom h
  case fence => exact goes_execFence h
  case batch => exact goes_execBatch h
  case waitb => exact goes_execWaitb h
  case commit => exact goes_execCommit h
  case waitv => exact goes_execWaitv h
  case pref => exact goes_execPref h
  case fenceSmp => exact goes_execFenceSmp h
  case fenceMx => exact goes_execFenceMx h
  case cpy => exact goes_execCpy h
  case cpy2d => exact goes_execCpy2d h
  case cpyT => exact goes_execCpyT h
  case cpyFollowMma => exact goes_execCpyFollowMma h
  case smpG => exact goes_execSmpG h
  case cnvZtest => exact goes_execCnvZtest h
  case cnvPush => exact goes_execCnvPush h
  case cnvElse => exact goes_execCnvElse h
  case cnvPop => exact goes_execCnvPop h
  case cnvRdl => exact goes_execCnvRdl h
  case cnvWrl => exact goes_execCnvWrl h
  case cnvLoad => exact goes_execCnvLoad h
  case cnvStore => exact goes_execCnvStore h
  case cnvRdlA => exact goes_execCnvRdlA h
  case cnvXmap => exact goes_execCnvXmap h
  case cnvSync => exact goes_execCnvSync h
  case cnvOrg => exact goes_execCnvOrg h
  case accClr => exact goes_execAccClr h
  case accProm => exact goes_execAccProm h
  case accLd => exact goes_execAccLd h
  case accSt => exact goes_execAccSt h
  case tagRd => exact goes_execTagRd h
  case tagWr => exact goes_execTagWr h
  case tagChk => exact goes_execTagChk h
  case tileHdr => exact goes_execTileHdr h
  case recPush => exact goes_execRecPush h
  case recTry => exact goes_execRecTry h
  case nodeDone => exact goes_execNodeDone h
  case cancel => exact goes_execCancel h
  case qpass => exact goes_execQpass h
  case rsecIn => exact goes_execRsecIn h
  case rsecOut => exact goes_execRsecOut h
  case grace => exact goes_execGrace h
  case defer => exact goes_execDefer h
  case frameRel => exact goes_execFrameRel h
  case bankOpen => exact goes_execBankOpen h
  case bankClose => exact goes_execBankClose h
  case bankErr => exact goes_execBankErr h
  case ringRed => exact goes_execRingRed h
  case ringWait => exact goes_execRingWait h
  case halt => exact goes_execHalt h
  case ctxwr => exact goes_execCtxwr h
  case push => exact goes_execPush h
  case nodeLaunch => exact goes_execNodeLaunch h
  case launchTimer => exact goes_execLaunchTimer h
  case crewEnd => exact goes_execCrewEnd h
  case quiescenceReport => exact goes_execQuiescenceReport h
  case barrierWatchdogExpiry => exact goes_execBarrierWatchdogExpiry h
  case terminationRecord => exact goes_execTerminationRecord h
  case teamWatchdogExpiry => exact goes_execTeamWatchdogExpiry h
  case issuePriorityAgeing => exact goes_execIssuePriorityAgeing h
  case preemptionRequest => exact goes_execPreemptionRequest h
  case preemptionHalt => exact goes_execPreemptionHalt h
  case contextSave => exact goes_execContextSave h
  case contextRestore => exact goes_execContextRestore h
  case contextResume => exact goes_execContextResume h
  case contextCreate => exact goes_execContextCreate h
  case contextDestroy => exact goes_execContextDestroy h
  case rigImageLoad => exact goes_execRigImageLoad h
  case weightStoreWrite => exact goes_execWeightStoreWrite h
  case windowRegister => exact goes_execWindowRegister h
  case windowRevoke => exact goes_execWindowRevoke h
  case hostCancel => exact goes_execHostCancel h
  case faultResolved => exact goes_execFaultResolved h
  case faultDeclined => exact goes_execFaultDeclined h
  case tlbShootdown => exact goes_execTlbShootdown h
  case pageWalk => exact goes_execPageWalk h
  case debugBreakpointSet => exact goes_execDebugBreakpointSet h
  case debugHalt => exact goes_execDebugHalt h
  case loadReturn => exact goes_execLoadReturn h
  case atomicExecute => exact goes_execAtomicExecute h
  case samplerFill => exact goes_execSamplerFill h
  case waitvPoll => exact goes_execWaitvPoll h
  case coreClockGate => exact goes_execCoreClockGate h
  case matrixArrayGroup => exact goes_execMatrixArrayGroup h
  case accComplete => exact goes_execAccComplete h
  case copyComplete => exact goes_execCopyComplete h
  case followMmaIssue => exact goes_execFollowMmaIssue h
  case ldaLand => exact goes_execLdaLand h
  case putComplete => exact goes_execPutComplete h
  case getComplete => exact goes_execGetComplete h
  case psigComplete => exact goes_execPsigComplete h
  case remoteAccess => exact goes_execRemoteAccess h
  case ringChunkWritten => exact goes_execRingChunkWritten h
  case ringComplete => exact goes_execRingComplete h
  case bankCommandFinish => exact goes_execBankCommandFinish h
  case bankRoundAck => exact goes_execBankRoundAck h
  case bankAgeing => exact goes_execBankAgeing h
  case graceComplete => exact goes_execGraceComplete h
  case trimGovernorTick => exact goes_execTrimGovernorTick h
  case reefGovernorTick => exact goes_execReefGovernorTick h
  case frameRelease => exact goes_execFrameRelease h
  case fsyncPulseEnd => exact goes_execFsyncPulseEnd h
  case ppsOutputEdge => exact goes_execPpsOutputEdge h
  case ppsPulseEnd => exact goes_execPpsPulseEnd h
  case ppsInputEdge => exact goes_execPpsInputEdge h
  case fsyncInputEdge => exact goes_execFsyncInputEdge h
  case syncMessage => exact goes_execSyncMessage h
  case syncTimeout => exact goes_execSyncTimeout h
  case holdoverTimeout => exact goes_execHoldoverTimeout h
  case routeTableWrite => exact goes_execRouteTableWrite h
  case injectionArm => exact goes_execInjectionArm h
  case attestationReport => exact goes_execAttestationReport h
  case powerCapSet => exact goes_execPowerCapSet h
  case powerArbiterTick => exact goes_execPowerArbiterTick h
  case packageReset => exact goes_execPackageReset
  case samplerDropComplete => exact goes_execSamplerDropComplete h
  case cancelDrop => exact goes_execCancelDrop h
  case partialSegment => exact goes_execPartialSegment h
  case forwardedFlit => exact goes_execForwardedFlit h

/-- HOST_MEMORY_WRITE goes on, or stops with the fault noMemory. -/
theorem goes_hostMemoryWrite {c : Prop} {s : State} (h : c → s.mem.wf = true) (ctx va : Nat) (bytes : List (BitVec 8)) :
    Goes c (exec (.hostMemoryWrite ctx va bytes) s) ∨ ∃ a, exec (.hostMemoryWrite ctx va bytes) s = .fault (.noMemory a) := by
  simp only [exec, execHostMemoryWrite]
  split
  · exact .inl (goes_next.mpr h)
  · split
    · exact .inr ⟨_, rfl⟩
    · refine .inl (goes_ite (fun _ => by simpa using h) fun _ => goes_next.mpr fun hc => ?_)
      exact foldl_memWf _ (fun s w h => by simp [h]) _ (h hc)

/-- Settles O7: every form's own lemma gives its next state, and the host write finds its locations or stops. -/
theorem everyInstructionAnswers : Obligations.EveryInstructionAnswers := by
  unfold Obligations.EveryInstructionAnswers
  intro i s
  have hnone : False → s.mem.wf = true := False.elim
  by_cases hi : ∃ ctx va bytes, i = .hostMemoryWrite ctx va bytes
  · obtain ⟨ctx, va, bytes, rfl⟩ := hi
    rcases goes_hostMemoryWrite hnone ctx va bytes with ⟨t, ht, -⟩ | hstop
    · exact .inl ⟨t, ht⟩
    · exact .inr ⟨⟨ctx, va, bytes, rfl⟩, hstop⟩
  · obtain ⟨t, ht, -⟩ := goes_exec hnone (i := i) fun ctx va bytes heq => hi ⟨ctx, va, bytes, heq⟩
    exact .inl ⟨t, ht⟩

/-! ## A step -/

theorem wf_of_goes {o : Out} {t : State} (h : Goes True o) (ht : o = .next t) : t.mem.wf = true := by
  obtain ⟨u, hu, hwf⟩ := h
  rw [Host.Outcome.next.inj (ht.symm.trans hu)]
  exact hwf trivial

theorem exec_keeps_wf {s t : State} {i : Instr} (h : s.mem.wf = true) (ht : exec i s = .next t) : t.mem.wf = true := by
  by_cases hi : ∃ ctx va bytes, i = .hostMemoryWrite ctx va bytes
  · obtain ⟨ctx, va, bytes, rfl⟩ := hi
    rcases goes_hostMemoryWrite (fun _ => h) ctx va bytes with hgoes | ⟨a, hstop⟩
    · exact wf_of_goes hgoes ht
    · nomatch ht.symm.trans hstop
  · exact wf_of_goes (goes_exec (fun _ => h) fun ctx va bytes heq => hi ⟨ctx, va, bytes, heq⟩) ht

/-- The memory of what a team has fetched is in its canonical form. -/
def Issued.Wf : Issued → Prop
  | .illegal _ _ s => s.mem.wf = true
  | .wait s => s.mem.wf = true
  | .run _ s => s.mem.wf = true
  | .nothing => True

theorem runFetched_keeps_wf {s t : State} {x : Issued} (h : s.mem.wf = true) (hx : x.Wf) (ht : runFetched s x = .next t) : t.mem.wf = true := by
  cases x with
  | illegal w0 w1 e => exact exec_keeps_wf (i := .illegalInstruction w0 w1) hx ht
  | wait e => exact Host.Outcome.next.inj ht ▸ hx
  | run i e => exact exec_keeps_wf hx ht
  | nothing => exact Host.Outcome.next.inj ht ▸ h

theorem State.takeHost_wf {s : State} (h : s.mem.wf = true) : s.takeHost.Wf := by
  unfold State.takeHost
  split
  · trivial
  · split <;> exact h

theorem State.issueSelected_wf {s : State} (h : s.mem.wf = true) : s.issueSelected.Wf := by
  unfold State.issueSelected
  split
  · simpa [Issued.Wf] using h
  · split
    · simpa [Issued.Wf] using h
    · split
      · unfold State.decoded
        split <;> simpa [Issued.Wf] using h
      · exact h

theorem State.issue_wf {s : State} (h : s.mem.wf = true) (k : Nat) : (s.issue k).Wf := by
  unfold State.issue
  dsimp only
  split
  · exact State.issueSelected_wf (by simpa using h)
  · trivial

theorem State.issuePart_wf {s : State} (h : s.mem.wf = true) (k core slot : Nat) : (s.issuePart k core slot).Wf := by
  unfold State.issuePart
  dsimp only
  split
  · trivial
  · split
    · exact State.issueSelected_wf (by simpa using h)
    · simpa [Issued.Wf] using h

/-- The device's own acts go on. -/
theorem goes_run {c : Prop} {s : State} (h : c → s.mem.wf = true) (a : Act) : Goes c (a.run s) := by
  cases a
  case request ctx r => cases r with
    | destroy => exact goes_execContextDestroy h
    | save => exact goes_execContextSave h
    | restore => exact goes_execContextRestore h
  case host | issue | part | drain | canvas | remoteUnit | ctxwr | scStore | takeRegs | retry | spillBin | cannotMap | shootdown |
      ringSend | ringJoin => exact goes_next.mpr fun hc => by simp [h hc]
  case launchTimer => exact goes_execLaunchTimer h
  case nodeLaunch => exact goes_execNodeLaunch h
  case crewEnd => exact goes_execCrewEnd h
  case quiescenceReport => exact goes_execQuiescenceReport h
  case barrierWatchdog => exact goes_execBarrierWatchdogExpiry h
  case terminationRecord => exact goes_execTerminationRecord h
  case teamWatchdog => exact goes_execTeamWatchdogExpiry h
  case ageing => exact goes_execIssuePriorityAgeing h
  case halt => exact goes_execPreemptionHalt h
  case loadReturn => exact goes_execLoadReturn h
  case atomic => exact goes_execAtomicExecute h
  case samplerFill => exact goes_execSamplerFill h
  case notify => exact goes_next.mpr fun hc => foldl_memWf _ (fun s k h => by simp [h]) _ (h hc)
  case poll => exact goes_execWaitvPoll h
  case gate => exact goes_execCoreClockGate h
  case array => exact goes_execMatrixArrayGroup h
  case acc => exact goes_execAccComplete h
  case copy => exact goes_execCopyComplete h
  case follow => exact goes_execFollowMmaIssue h
  case land => exact goes_execLdaLand h
  case put => exact goes_execPutComplete h
  case get => exact goes_execGetComplete h
  case psig => exact goes_execPsigComplete h
  case ring => exact goes_execRingComplete h
  case bankFinish => exact goes_execBankCommandFinish h
  case bankAck => exact goes_execBankRoundAck h
  case bankAgeing => exact goes_execBankAgeing h
  case grace => exact goes_execGraceComplete h
  case trim => exact goes_execTrimGovernorTick h
  case reef => exact goes_execReefGovernorTick h
  case power => exact goes_execPowerArbiterTick h
  case release => exact goes_execFrameRelease h
  case fsyncEnd => exact goes_execFsyncPulseEnd h
  case ppsEdge => exact goes_execPpsOutputEdge h
  case ppsEnd => exact goes_execPpsPulseEnd h
  case holdover => exact goes_execHoldoverTimeout h
  case samplerDrop => exact goes_execSamplerDropComplete h
  case cancelDrop => exact goes_execCancelDrop h

theorem act_keeps_wf {s t : State} {a : Act} (h : s.mem.wf = true) (ht : act a s = .next t) : t.mem.wf = true := by
  unfold act at ht
  split at ht
  · exact runFetched_keeps_wf h (State.takeHost_wf h) ht
  · exact runFetched_keeps_wf h (State.issue_wf h _) ht
  · exact runFetched_keeps_wf h (State.issuePart_wf h _ _ _) ht
  · exact wf_of_goes (goes_run (fun _ => h) _) ht

/-- Settles O10: what comes next keeps the canonical form, and so does the time that passes. -/
theorem stepKeepsMemoryCanonical : Obligations.StepKeepsMemoryCanonical := by
  unfold Obligations.StepKeepsMemoryCanonical
  intro s t h ht
  unfold step at ht
  split at ht
  next a _ =>
    cases hact : act a s with
    | next u =>
      rw [hact, thenElapse] at ht
      exact Host.Outcome.next.inj ht ▸ (congrArg FMap.wf (State.elapse_mem u)).trans (act_keeps_wf h hact)
    | fault f => rw [hact] at ht; nomatch ht
    | refused r => rw [hact] at ht; nomatch ht
  next => exact Host.Outcome.next.inj ht ▸ (congrArg FMap.wf (State.elapse_mem s)).trans h

end Sys2Proof.Machine
end

section
/-! The instructions that store nothing leave what the package stores as it was: memory and what a read at a home slice depends on, the
weight stores, the semaphores, the cores, and the stores and atomics on their way. -/

namespace Sys2Proof.Machine

/-! ## What the package stores -/

/-- What the package stores, and what a read at a home slice depends on. -/
structure Stored where
  dev : Device
  tick : Nat
  mem : FMap 8
  openMem : List OpenRange
  bankOld : List (Nat × BankOld)
  bankCmds : List BankCmd
  weights : FMap 8
  semaphores : FMap 32
  bankErr : FMap 64
  cores : List (Nat × CoreState)
  scStores : List StoreByte
  atomics : List AtomLane

def State.stored (s : State) : Stored :=
  ⟨s.dev, s.tick, s.mem, s.openMem, s.bankOld, s.bankCmds, s.weights, s.semaphores, s.bankErr, s.cores, s.scStores, s.atomics⟩

theorem sameStores_of_stored {s t : State} (h : t.stored = s.stored) : SameStores s t ∧ t.mem = s.mem ∧ t.dev = s.dev := by
  unfold State.stored at h
  injection h with hdev htick hmem hopen hold hcmds hweights hsem herr hcores hsc hatom
  exact ⟨sameStores_of_fields hdev htick hmem hopen hold hcmds hweights hsem herr hcores hsc hatom, hmem, hdev⟩

namespace State

@[simp] theorem stored_withTeam (s : State) (t : Team) : (s.withTeam t).stored = s.stored := rfl

@[simp] theorem stored_waits (s : State) : s.waits.stored = s.stored := rfl

@[simp] theorem stored_takeTrap (s : State) (c a r : Nat) (i : BitVec 64) (l : Nat) : (s.takeTrap c a r i l).stored = s.stored := by
  simp [stored]

@[simp] theorem stored_trapHere (s : State) (c : Nat) (i : BitVec 64) (l : Nat) : (s.trapHere c i l).stored = s.stored :=
  stored_takeTrap s _ _ _ _ _

@[simp] theorem stored_illegal (s : State) (i : Instr) : (s.illegal i).stored = s.stored := stored_takeTrap s _ _ _ _ _

@[simp] theorem stored_vaTrap (s : State) (c l v : Nat) : (s.vaTrap c l v).stored = s.stored := stored_takeTrap s _ _ _ _ _

@[simp] theorem stored_returnFromTrap (s : State) (i : Instr) : (s.returnFromTrap i).stored = s.stored := by
  unfold returnFromTrap
  split
  · exact stored_illegal s i
  · split
    · simp [stored]
    · rfl

@[simp] theorem stored_quiesceHere (s : State) : s.quiesceHere.stored = s.stored := rfl

@[simp] theorem stored_sawPad (s : State) (ps : List Nat) : (s.sawPad ps).stored = s.stored := by
  unfold sawPad
  split <;> rfl

end State

/-! ## Outcomes that leave it -/

/-- An outcome whose next state, if it is one, stores what the present one does. -/
def Stays (s : State) (o : Out) : Prop := ∀ t, o = .next t → t.stored = s.stored

@[simp] theorem stays_next {s t : State} : Stays s (.next t) ↔ t.stored = s.stored :=
  ⟨fun h => h t rfl, fun h _ ht => Host.Outcome.next.inj ht ▸ h⟩

theorem stays_ite {s : State} {p : Prop} [Decidable p] {a b : Out} (ha : Stays s a) (hb : Stays s b) : Stays s (if p then a else b) := by
  split
  · exact ha
  · exact hb

theorem stays_laneInstr {i : Instr} {b : Bool} {names : List Nat} {s : State} {body : Team → Team} : Stays s (laneInstr i b names s body) := by
  unfold laneInstr
  split <;> simp

theorem stays_teamInstr {b : Bool} {len : Nat} {s : State} {body : Team → Team} : Stays s (teamInstr b len s body) := by simp [teamInstr]

theorem stays_laneBin {i : Instr} {b : Bool} {d a c : BitVec 7} {f : Word → Word → Word} {s : State} : Stays s (laneBin i b d a c f s) :=
  stays_laneInstr

theorem stays_laneAcc {i : Instr} {b : Bool} {d a c : BitVec 7} {f : Word → Word → Word → Word} {s : State} :
    Stays s (laneAcc i b d a c f s) := stays_laneInstr

theorem stays_laneUn {i : Instr} {b : Bool} {d a : BitVec 7} {f : Word → Word} {s : State} : Stays s (laneUn i b d a f s) := stays_laneInstr

theorem stays_laneBin64 {i : Instr} {b : Bool} {d a c : BitVec 7} {f : BitVec 64 → BitVec 64 → BitVec 64} {s : State} :
    Stays s (laneBin64 i b d a c f s) := stays_laneInstr

theorem stays_laneCmp {i : Instr} {b : Bool} {p : BitVec 3} {names : List Nat} {f : Team → Nat → Bool} {s : State} :
    Stays s (laneCmp i b p names f s) := stays_laneInstr

theorem stays_shuffle {i : Instr} {b : Bool} {d a : BitVec 7} {names : List Nat} {src : Team → Nat → Nat} {s : State} :
    Stays s (shuffle i b d a names src s) := stays_laneInstr

theorem stays_scan {i : Instr} {b : Bool} {d a : BitVec 7} {op : (Word → Word → Word) × Word} {ex : Bool} {s : State} :
    Stays s (scan i b d a op ex s) := stays_laneInstr

theorem stays_predOp {b : Bool} {d : BitVec 3} {f : Team → Nat → Bool} {s : State} : Stays s (predOp b d f s) := stays_teamInstr

theorem stays_scalarBin {b : Bool} {d a c : BitVec 6} {f : Word → Word → Word} {s : State} : Stays s (scalarBin b d a c f s) :=
  stays_teamInstr

theorem stays_scalarImm {b : Bool} {d a : BitVec 6} {f : Word → Word} {s : State} : Stays s (scalarImm b d a f s) := stays_teamInstr

theorem stays_writeTrapPc {s : State} {i : Instr} {lane : Nat} {v : BitVec 64} : Stays s (s.writeTrapPc i lane v) := by
  unfold State.writeTrapPc
  repeat' split
  all_goals simp

theorem stays_writeNetstat {s : State} {i : Instr} {f : Nat → Word} : Stays s (s.writeNetstat i f) := by
  unfold State.writeNetstat
  split <;> simp

theorem stays_loadPad {b : Bool} {sw d a ty : Nat} {off : Word} {len : Nat} {s : State} : Stays s (loadPad b sw d a ty off len s) := by
  unfold loadPad
  dsimp only
  split <;> simp

theorem stays_storePad {b : Bool} {sw d a ty : Nat} {off : Word} {len : Nat} {s : State} : Stays s (storePad b sw d a ty off len s) := by
  unfold storePad
  dsimp only
  split <;> simp [State.stored]

theorem stays_loadImage {b : Bool} {d a : Nat} {off : Word} {len : Nat} {s : State} : Stays s (loadImage b d a off len s) := by
  unfold loadImage
  dsimp only
  split <;> simp

theorem stays_storeImage {b : Bool} {d a : Nat} {off : Word} {len : Nat} {s : State} : Stays s (storeImage b d a off len s) := by
  unfold storeImage
  dsimp only
  split <;> simp

theorem stays_execMovx {b : Bool} {d : BitVec 7} {imm : BitVec 32} {s : State} : Stays s (execMovx b d imm s) := by
  unfold execMovx
  split <;> simp

theorem stays_execSreadLane {b : Bool} {d : BitVec 7} {i : BitVec 6} {s : State} : Stays s (execSreadLane b d i s) := by
  unfold execSreadLane
  dsimp only
  repeat' split
  all_goals simp

theorem stays_execSreadScalar {b : Bool} {d i : BitVec 6} {s : State} : Stays s (execSreadScalar b d i s) := by
  unfold execSreadScalar
  split <;> simp

theorem stays_execSwriteLane {b : Bool} {i : BitVec 6} {c : BitVec 7} {s : State} : Stays s (execSwriteLane b i c s) := by
  unfold execSwriteLane
  dsimp only
  refine stays_ite (stays_ite ?_ stays_writeNetstat) (by simp)
  split
  · simp
  · exact stays_writeTrapPc

theorem stays_execSwriteScalar {b : Bool} {i c : BitVec 6} {s : State} : Stays s (execSwriteScalar b i c s) := by
  unfold execSwriteScalar
  split
  · exact stays_writeTrapPc
  · exact stays_writeNetstat

theorem stays_execWbase {b : Bool} {k : BitVec 7} {s : State} : Stays s (execWbase b k s) := by
  unfold execWbase
  refine stays_ite stays_teamInstr ?_
  simp

theorem stays_execBcast {b : Bool} {d a : BitVec 7} {m : BitVec 2} {s : State} : Stays s (execBcast b d a m s) := by
  unfold execBcast
  exact stays_ite stays_laneInstr (stays_ite stays_laneInstr stays_laneInstr)

theorem stays_execLdp {b : Bool} {w : BitVec 3} {d a : BitVec 7} {t : BitVec 3} {r : Bool} {s : State} : Stays s (execLdp b w d a t r s) := by
  unfold execLdp
  exact stays_ite (by simp) (stays_ite stays_loadImage stays_loadPad)

theorem stays_execLdpOffset {b : Bool} {w : BitVec 3} {d a : BitVec 7} {t : BitVec 3} {r : Bool} {off : BitVec 32} {s : State} :
    Stays s (execLdpOffset b w d a t r off s) := by
  unfold execLdpOffset
  exact stays_ite (by simp) (stays_ite stays_loadImage stays_loadPad)

theorem stays_execStp {b : Bool} {w : BitVec 3} {d a : BitVec 7} {t : BitVec 3} {r : Bool} {s : State} : Stays s (execStp b w d a t r s) := by
  unfold execStp
  exact stays_ite (by simp) (stays_ite stays_storeImage stays_storePad)

theorem stays_execStpOffset {b : Bool} {w : BitVec 3} {d a : BitVec 7} {t : BitVec 3} {r : Bool} {off : BitVec 32} {s : State} :
    Stays s (execStpOffset b w d a t r off s) := by
  unfold execStpOffset
  exact stays_ite (by simp) (stays_ite stays_storeImage stays_storePad)

theorem stays_execNodeDone {b : Bool} {a : BitVec 6} {s : State} : Stays s (execNodeDone b a s) := by
  unfold execNodeDone
  dsimp only
  repeat' split
  all_goals simp [State.stored]

theorem stays_execQpass {b : Bool} {s : State} : Stays s (execQpass b s) := by
  unfold execQpass
  dsimp only
  split <;> simp

theorem stays_execRsecIn {b : Bool} {s : State} : Stays s (execRsecIn b s) := by
  unfold execRsecIn
  exact stays_ite (by simp) stays_teamInstr

theorem stays_execRsecOut {b : Bool} {s : State} : Stays s (execRsecOut b s) := by
  unfold execRsecOut
  dsimp only
  repeat' split
  all_goals simp

theorem stays_execBra {b : Bool} {cc : BitVec 4} {disp : BitVec 21} {s : State} : Stays s (execBra b cc disp s) := by
  unfold execBra
  dsimp only
  repeat' split
  all_goals simp

theorem stays_execCall {b : Bool} {cc : BitVec 4} {disp : BitVec 21} {s : State} : Stays s (execCall b cc disp s) := by
  unfold execCall
  dsimp only
  repeat' split
  all_goals simp

theorem stays_execRet {b : Bool} {s : State} : Stays s (execRet b s) := by
  unfold execRet
  dsimp only
  repeat' split
  all_goals simp

theorem stays_execJmpi {b : Bool} {a : BitVec 6} {s : State} : Stays s (execJmpi b a s) := by
  unfold execJmpi
  dsimp only
  split <;> simp

theorem stays_execCallx {b : Bool} {a : BitVec 7} {s : State} : Stays s (execCallx b a s) := by
  unfold execCallx
  dsimp only
  repeat' split
  all_goals simp

theorem stays_execIfMask {b : Bool} {p : BitVec 3} {s : State} : Stays s (execIfMask b p s) := by
  unfold execIfMask
  dsimp only
  split <;> simp

theorem stays_execElseMask {b : Bool} {s : State} : Stays s (execElseMask b s) := by
  unfold execElseMask
  dsimp only
  repeat' split
  all_goals simp

theorem stays_execEndIf {b : Bool} {s : State} : Stays s (execEndIf b s) := by
  unfold execEndIf
  dsimp only
  repeat' split
  all_goals simp

theorem stays_execLoop {b : Bool} {s : State} : Stays s (execLoop b s) := by
  unfold execLoop
  dsimp only
  split <;> simp

theorem stays_execBreakMask {b : Bool} {p : BitVec 3} {s : State} : Stays s (execBreakMask b p s) := by
  unfold execBreakMask
  dsimp only
  split <;> simp

theorem stays_execContMask {b : Bool} {p : BitVec 3} {s : State} : Stays s (execContMask b p s) := by
  unfold execContMask
  dsimp only
  split <;> simp

theorem stays_execEndLoop {b : Bool} {s : State} : Stays s (execEndLoop b s) := by
  unfold execEndLoop
  dsimp only
  repeat' split
  all_goals simp

/-- No form of the table stores. -/
theorem stays_exec {i : Instr} (s : State) (hi : Claims.storesNothing i = true) : Stays s (exec i s) := by
  cases i
  all_goals simp only [exec]
  case add | sub | mul | mulhi | mulhu | and | or | xor | andn | shl | shr | sar | bfx | bfxs | fadd | fsub | fmul | fmin | fmax | padd | psub |
      pmul | pmin | pmax | fdiv | min | max | minu | maxu => exact stays_laneBin
  case imad | bfi | ffma | pfma => exact stays_laneAcc
  case popc | clz | addi | andi | ori | xori | shli | shri | sari | fabs | fneg | rcp | rsq | sqrt | ex2 | lg2 | sin | cos => exact stays_laneUn
  case add64 | sub64 => exact stays_laneBin64
  case cmpi | cmp | fcmp | pset => exact stays_laneCmp
  case shfl | shflx | shflup | shfldn => exact stays_shuffle
  case scana | fscana => exact stays_scan
  case movi | reda | freda | cvt => exact stays_laneInstr
  case pand | por | pxor | pnot => exact stays_predOp
  case smul | sand | sor | sxor | sshl | sshr | ssar => exact stays_scalarBin
  case sandi | sori | sxori | sshli | sshri | ssari => exact stays_scalarImm
  case vany | vall | ballot | sadd | ssub | scmp | smov | saddi | smovi | scmpi | movxS | tpri | nop | ctxrd | wdog | sadd64 => exact stays_teamInstr
  case trap | rtt | bkpt | illegalInstruction => simp [execTrap, execRtt, execBkpt, execIllegalInstruction]
  case movx => exact stays_execMovx
  case sreadScalar => exact stays_execSreadScalar
  case rsecIn => exact stays_execRsecIn
  case wbase => exact stays_execWbase
  case bcast => exact stays_execBcast
  case ldp => exact stays_execLdp
  case ldpOffset => exact stays_execLdpOffset
  case stp => exact stays_execStp
  case stpOffset => exact stays_execStpOffset
  case sreadLane => exact stays_execSreadLane
  case swriteLane => exact stays_execSwriteLane
  case swriteScalar => exact stays_execSwriteScalar
  case nodeDone => exact stays_execNodeDone
  case qpass => exact stays_execQpass
  case rsecOut => exact stays_execRsecOut
  case bra => exact stays_execBra
  case call => exact stays_execCall
  case ret => exact stays_execRet
  case jmpi => exact stays_execJmpi
  case callx => exact stays_execCallx
  case ifMask => exact stays_execIfMask
  case elseMask => exact stays_execElseMask
  case endIf => exact stays_execEndIf
  case loop => exact stays_execLoop
  case breakMask => exact stays_execBreakMask
  case contMask => exact stays_execContMask
  case endLoop => exact stays_execEndLoop
  all_goals exact nomatch hi

/-- Settles O60, form by form: each gives the lanes, the team, the scratchpad or the drained marks another value, or takes a trap. -/
theorem nonStoringKeepEveryByte : Obligations.NonStoringKeepEveryByte := by
  unfold Obligations.NonStoringKeepEveryByte
  intro i s t hi ht
  refine sameStores_of_stored (stays_exec s hi t ht)

end Sys2Proof.Machine
end

section
/-! LDP and STP of the scratchpad and of the register image (R63, R64, R196, R261, R262, R267). -/

namespace Sys2Proof.Machine

variable {s : State} {t : Team} {b : Bool} {sw d a ty : Nat} {off : Word} {len : Nat}

theorem loadPad_of_checked (ht : t = s.team.belay b) (hok : spadCheck (typeSize ty) s.crew.spadSize (t.spadAddr a off) t.active = none) :
    loadPad b sw d a ty off len s =
      .next ((s.sawPad (t.active.flatMap (fun l => s.crew.bytesAt sw (typeSize ty) (t.spadAddr a off l)))).withTeam
        ({ t with unchecked := t.unchecked ++ t.active.flatMap (fun l =>
          laneWrites (t.phys d) l ty (extendLoad ty (ofLeBytes (s.spadRead s.crew ⟨t.index, .lanes, s.tick⟩
            (s.crew.mapAt sw (t.spadAddr a off l)) (t.spadAddr a off l) (typeSize ty)))) s.tick none) }.advance len)) := by
  have hindex : t.index = s.team.index := ht ▸ Team.belay_index s.team b
  subst ht
  simp only [loadPad, hok, State.laneReader, hindex]

theorem storePad_of_checked (ht : t = s.team.belay b) (hok : spadCheck (typeSize ty) s.crew.spadSize (t.spadAddr a off) t.active = none) :
    storePad b sw d a ty off len s = .next ({ s with
      team := t.advance len
      crew := t.active.foldl (fun (c : Crew) l => c.write (decide (1 < s.crew.nteams) || s.enginesBusy s.crew) t.index none s.tick
        (c.mapAt sw (t.spadAddr a off l)) (t.spadAddr a off l) (leBytes (typeSize ty) (t.storeData ty d l))) s.crew } : State) := by
  subst ht
  simp only [storePad, hok]

theorem loadImage_of_checked (ht : t = s.team.belay b) (hok : spadCheck 4 (t.imageW + 1188) (t.spadAddr a off) t.active = none) :
    loadImage b d a off len s = .next (s.withTeam ({ t with
      unchecked := t.unchecked ++ t.active.map (fun l =>
        (⟨false, t.phys d * 1024 + l, t.imageRead (t.spadAddr a off l), true, s.tick, none⟩ : RegWrite)) }.advance len)) := by
  subst ht
  simp only [loadImage, hok]

theorem storeImage_of_checked (ht : t = s.team.belay b) (hok : spadCheck 4 (t.imageW + 1188) (t.spadAddr a off) t.active = none) :
    storeImage b d a off len s = .next (s.withTeam (((t.active.map (fun l => (t.spadAddr a off l, t.rd d l))).foldl
      (fun u x => u.imageWrite x.1 x.2) t).advance len)) := by
  subst ht
  simp only [storeImage, hok]

end Sys2Proof.Machine

namespace Sys2Proof.Machine

/-- Settles O35: each form is one of the four accesses, with its offset and its length. -/
theorem scratchpadAccesses : Obligations.ScratchpadAccesses := by
  unfold Obligations.ScratchpadAccesses
  intro s b w ty d a off t ht hnames f hf o ho
  have hok : (!s.team.namesOk (accessNames ty.toNat d.toNat a.toNat)) = false := by rw [hnames]; rfl
  simp only [List.mem_cons, List.not_mem_nil, or_false] at hf
  rcases hf with rfl | rfl
  · obtain rfl : o = 0 := ho
    refine ⟨fun hpad => ⟨fun i hi => ?_, fun i hi => ?_⟩, fun himage => ⟨fun i hi => ?_, fun i hi => ?_⟩⟩ <;>
      obtain rfl := List.mem_singleton.mp hi <;> simp only [exec, execLdp, execStp, hok, Bool.false_eq_true, if_false, if_true]
    · exact loadPad_of_checked ht hpad
    · exact storePad_of_checked ht hpad
    · exact loadImage_of_checked ht himage
    · exact storeImage_of_checked ht himage
  · obtain rfl : o = off := ho
    refine ⟨fun hpad => ⟨fun i hi => ?_, fun i hi => ?_⟩, fun himage => ⟨fun i hi => ?_, fun i hi => ?_⟩⟩ <;>
      obtain rfl := List.mem_singleton.mp hi <;> simp only [exec, execLdpOffset, execStpOffset, hok, Bool.false_eq_true, if_false, if_true]
    · exact loadPad_of_checked ht hpad
    · exact storePad_of_checked ht hpad
    · exact loadImage_of_checked ht himage
    · exact storeImage_of_checked ht himage

end Sys2Proof.Machine
end

section
/-! ATOM and the execution of its lanes (R260 to R263, R269 to R271, R285). -/

namespace Sys2Proof.Machine

/-! ## Where no .sc store is pending -/

@[simp] theorem State.atomicAt_scStores (s : State) (x : AtomLane) : (s.atomicAt x).scStores = s.scStores := by
  unfold State.atomicAt
  dsimp only
  split <;> simp

@[simp] theorem State.runAtomics_scStores (s : State) (k : Nat) : (s.runAtomics k).scStores = s.scStores :=
  State.foldl_keeps State.atomicAt (·.scStores) State.atomicAt_scStores _ s

@[simp] theorem State.landValue_scStores (s : State) (o : AsyncOp) (l : LdaLane) (v : BitVec 64) : (s.landValue o l v).scStores = s.scStores := rfl

@[simp] theorem State.engineSaw_scStores (s : State) (k o a r n : Nat) : (s.engineSaw k o a r n).scStores = s.scStores := by
  simp [State.engineSaw]

@[simp] theorem State.landLane_scStores (s : State) (o : AsyncOp) (l : LdaLane) : (s.landLane o l).scStores = s.scStores := by
  unfold State.landLane
  split
  · rfl
  · rw [State.landRead]
    simp only [State.afterLoad_scStores, apply_ite State.scStores, State.modTeam_scStores, State.engineSaw_scStores, State.landValue_scStores, ite_self]

theorem State.performScFor_of_empty {s : State} (h : s.scStores = []) (p : StoreByte → Bool) : s.performScFor p = s := by
  simp [State.performScFor, h]

theorem State.settleOver_scStores {s : State} (h : s.scStores = []) (spans : List (Nat × Nat)) : (s.settleOver spans).scStores = [] := by
  unfold State.settleOver
  rw [State.performScFor_of_empty h]
  dsimp only
  split <;> simp [h]

theorem State.release_scStores {s : State} (h : s.scStores = []) : s.release.scStores = [] := by
  have hland : s.loadsBack.scStores = [] :=
    (State.foldl_keeps _ (·.scStores) (fun s (x : AsyncOp × LdaLane) => State.landLane_scStores s x.1 x.2) _ _).trans
      ((State.runAtomics_scStores s _).trans h)
  rw [State.release, State.settleSc, State.settleScOf, State.performScFor_of_empty hland]
  simpa using hland

theorem atomicPoint_scStores (s : State) (t : Team) (n : Nat) (ls : List LaneAcc) : (Claims.atomicPoint s t 3 n ls).scStores = [] := by
  have hsettled : ((s.withTeam t).performSc.release.settleOver (spansOf n (located ls))).scStores = [] :=
    State.settleOver_scStores (State.release_scStores rfl) _
  rw [Claims.atomicPoint]
  simp only [State.touch_scStores, State.withTeam_scStores, if_true]
  exact (State.foldl_keeps _ (·.scStores) (fun s (x : Nat × Nat × Loc) => State.beforeLoad_scStores s _ _ _ _) _ _).trans hsettled

/-! ## ATOM -/

section Atom

variable {s : State} {b : Bool} {q : BitVec 2} {d a c : BitVec 7} {e : BitVec 5} {op : BitVec 4} {w nr : Bool} {t : Team} {ls : List LaneAcc}
  {n : Nat} (hok : s.team.namesOk (atomicNames op.toNat w d.toNat a.toNat c.toNat) = true) (ht : t = s.team.belay b)
include hok ht

theorem execAtom_of_empty (hempty : t.acting = []) : execAtom b q d a e op w nr c s = .next (s.withTeam (t.advance 2)) := by
  subst ht
  rw [execAtom]
  simp only [hok, hempty, Bool.not_true, Bool.false_eq_true, if_false, if_true]

variable (hn : n = if w then 8 else 4) (hls : ls = s.lanesAt t .atomic (t.laneAddr (2 * e.toNat) a.toNat 0))
  (hacting : t.acting ≠ []) (hloc : Claims.AllLocated n ls)
include hn hls hacting hloc

/-- The lanes of an ATOM that all translate, at the point where they take effect. -/
theorem execAtom_of_located {p : State} (hp : p = Claims.atomicPoint s t q n ls) {lanes : List AtomLane}
    (hlanes : lanes = (located ls).map (fun x =>
      t.atomicLane s.tick (s.crew.coreOf t (x.1 / 32)) op.toNat w nr (q == 1 || q == 3) d.toNat c.toNat x.1 x.2.2)) :
    execAtom b q d a e op w nr c s =
      if q ≠ 3 then .next ({ p with atomics := p.atomics ++ lanes, team := p.team.advance 2 })
      else .next ((lanes.foldl State.atomicAt p).withTeam ((lanes.foldl State.atomicAt p).team.advance 2)) := by
  have hcheck := precheck_of_allLocated hloc
  have hrest : unlocated .atomic ls = [] := unlocated_of_allLocated hloc
  subst ht hn hls hp hlanes
  rw [execAtom]
  simp only [hok, hacting, hcheck, hrest, Bool.not_true, Bool.false_eq_true, if_false, true_and, State.finishAccess_nil]
  rfl

end Atom

/-! ## Their execution -/

theorem nextAtomics_of_seen {l : List AtomLane} {seen : List Nat} (h : ∀ y ∈ l, y.addr / 8 ∈ seen) (k : Nat) : nextAtomics l seen k = [] := by
  induction l generalizing k with
  | nil => rfl
  | cons x l ih =>
    rw [nextAtomics, if_pos (h x List.mem_cons_self)]
    exact ih (fun y hy => h y (List.mem_cons_of_mem _ hy)) _

theorem AtomLane.together_self (x : AtomLane) : x.together x = true := by simp [AtomLane.together]

theorem AtomLane.addr_of_together {x y : AtomLane} (h : x.together y = true) : y.addr = x.addr := by
  simp only [AtomLane.together, Bool.and_eq_true, beq_iff_eq] at h
  exact h.2.symm

/-- Queued lanes of one ATOM that name one address execute together. -/
theorem execAtomicExecute_of_together {s : State} {team : Nat} {x : AtomLane} {rest : List AtomLane}
    (hmine : s.atomics.filter (fun y => y.team == team) = x :: rest) (hrest : ∀ y ∈ rest, x.together y = true) :
    execAtomicExecute team s = .next ((x :: rest).foldl State.atomicAt { s with atomics := s.atomics.filter (fun y => !x.together y) }) := by
  have hnext : nextAtomics (x :: rest) [] 0 = [0] := by
    rw [nextAtomics, if_neg (List.not_mem_nil)]
    rw [nextAtomics_of_seen fun y hy => by rw [AtomLane.addr_of_together (hrest y hy)]; exact List.mem_cons_self]
  have hall : (x :: rest).filter x.together = x :: rest :=
    List.filter_eq_self.mpr fun y hy => (List.mem_cons.mp hy).elim (fun h => h ▸ AtomLane.together_self x) (hrest y)
  simp only [execAtomicExecute, hmine, hnext, List.length_singleton, Nat.mod_one, List.getD_cons_zero, List.getElem?_cons_zero, hall]

theorem execAtomicExecute_of_none {s : State} {team : Nat} (hmine : s.atomics.filter (fun y => y.team == team) = []) :
    execAtomicExecute team s = .next s := by
  simp only [execAtomicExecute, hmine, List.getElem?_nil]

/-- Settles O37: at its issue the lanes queue at one point of the order, or execute there; later they execute as the slice says. -/
theorem atomicsExecute : Obligations.AtomicsExecute := by
  unfold Obligations.AtomicsExecute
  refine ⟨fun s b q d a c e op w nr t ls n lanes p ht hn hls hp hlanes hok => ⟨fun hempty => execAtom_of_empty hok ht hempty,
    fun hacting hloc => ?_⟩, fun s team x s1 s2 s3 old hmine h1 hold h2 h3 => ?_,
    fun s team x rest hmine hrest => execAtomicExecute_of_together hmine hrest, fun s team hmine => execAtomicExecute_of_none hmine⟩
  · have hexec := execAtom_of_located hok ht hn hls hacting hloc hp hlanes (nr := nr)
    refine ⟨fun hq => hexec.trans (if_pos hq), fun hq => ⟨?_, hexec.trans (if_neg (not_not.mpr hq))⟩⟩
    subst hp hq
    exact atomicPoint_scStores s t n ls
  · subst h3 h2 hold h1
    exact execAtomicExecute_of_together (rest := []) hmine nofun

end Sys2Proof.Machine
end

section
/-! LDA, BATCH, WAITB and COMMIT (R57, R67, R68, R252, R266, R275). -/

namespace Sys2Proof.Machine

/-! ## LDA -/

/-- Both forms of LDA are one load with its own offset and length. -/
theorem exec_ldaForms {s : State} {b : Bool} {q : BitVec 2} {ty : BitVec 3} {d a : BitVec 7} {e : BitVec 5} {off : Word} {f : Claims.Form}
    (hf : f ∈ Claims.ldaForms b q ty d a e off) : exec f.1 s = loadAsync f.1 b q ty d a (2 * e.toNat) f.2.1 f.2.2 s := by
  simp only [Claims.ldaForms, List.mem_cons, List.not_mem_nil, or_false] at hf
  rcases hf with rfl | rfl <;> rfl

theorem Team.replay_of_course {t u : Team} (h : u.course = t.course) : u.replay = t.replay := (congrArg Team.replay h :)

theorem Team.acting_of_no_replay {t : Team} (h : t.replay = none) : t.acting = t.active := by rw [Team.acting, h]

section LoadAsync

variable {s : State} {i : Instr} {b : Bool} {q : BitVec 2} {ty : BitVec 3} {d a : BitVec 7} {base len : Nat} {off : Int} {t : Team}
  {ls : List LaneAcc} (hok : s.team.namesOk (accessNames ty.toNat d.toNat a.toNat) = true) (ht : t = s.team.belay b)
include hok ht

theorem loadAsync_of_empty (hempty : t.acting = []) : loadAsync i b q ty d a base off len s = .next (s.withTeam (t.advance len)) := by
  subst ht
  rw [loadAsync]
  simp only [hok, hempty, Bool.not_true, Bool.false_eq_true, if_false, if_true]

/-- An LDA of no replay whose lanes all translate and whose quota is free joins the open batch. -/
theorem loadAsync_of_located {s0 : State} (hls : ls = s.lanesAt t .read (t.laneAddr base a.toNat off))
    (hloc : Claims.AllLocated (typeSize ty.toNat) ls)
    (hs0 : s0 = (s.withTeam t).prepareLoad q (typeSize ty.toNat) (located ls)) (hreplay : s.team.replay = none) (hactive : s.team.active ≠ [])
    (hquota : s0.team.ldaQuota ty.toNat ≤ s0.quotaFree) {s1 s2 : State}
    (hs2 : s2 = s0.addOp (.lda ((located ls).map (s0.ldaLane q ty.toNat d.toNat)) false) (s0.team.ldaQuota ty.toNat))
    (hs1 : s1 = (if q = 2 then s2.ldaSc s0.team.openBatch (typeSize ty.toNat) (located ls) else s2).touch ls) :
    loadAsync i b q ty d a base off len s = .next (s1.withTeam (s1.team.advance len)) := by
  have hcheck := precheck_of_allLocated hloc
  have hrest : unlocated .read ls = [] := unlocated_of_allLocated hloc
  have hcourse := (sameCourse_prepareLoad (s.withTeam t) q (typeSize ty.toNat) (located ls)).course
  rw [← hs0] at hcourse
  have hreplay0 : s0.team.replay = none :=
    (Team.replay_of_course hcourse).trans (ht ▸ (Team.belay_replay s.team b).trans hreplay)
  have hacting : t.acting ≠ [] := by
    rw [ht, Team.belay_acting, Team.acting_of_no_replay hreplay]
    exact hactive
  have hnone : s0.replayedOp s0.team = none := by rw [State.replayedOp, hreplay0]; rfl
  have hfree : ¬ s0.quotaFree < s0.team.ldaQuota ty.toNat := Nat.not_lt.mpr hquota
  subst ht hls
  rw [loadAsync]
  simp only [hok, hacting, hcheck, hrest, Bool.not_true, Bool.false_eq_true, if_false, ← hs0, hnone, hfree, ne_eq, not_true, decide_false, ← hs2,
    ← hs1, State.finishAccess_nil]

end LoadAsync

/-! ## BATCH -/

@[simp] theorem State.discardBatch_team (s : State) (k : Nat) (p : Nat → Bool) : (s.discardBatch k p).team = s.team := rfl

theorem execBatch_of_room {s : State} {b : Bool} {d : BitVec 6} {u : Team} (hu : u = s.team.belay b)
    (hroom : s.team.openBatch < 128 ∨ s.batchDone u (s.team.openBatch - 128) = true) :
    ∃ s', execBatch b d s = .next s' ∧ s'.team = ({ (u.swr d.toNat (BitVec.ofNat 32 (s.team.openBatch % 256))) with
      openBatch := s.team.openBatch + 1, closedAny := true
      committed := s.team.committed.filter (fun k => decide (s.team.openBatch < k + 128)) } : Team).advance 1 ∧ s'.mem = s.mem := by
  have hgo : ¬ (128 ≤ s.team.openBatch ∧ (!s.batchDone u (s.team.openBatch - 128)) = true) := by
    rintro ⟨hle, hdone⟩
    rcases hroom with hlt | htrue
    · omega
    · rw [htrue] at hdone
      nomatch hdone
  subst hu
  rw [execBatch]
  simp only [Team.belay_openBatch, Team.belay_committed, Team.belay_key, if_neg hgo]
  split
  · exact ⟨_, rfl, rfl, rfl⟩
  · exact ⟨_, rfl, rfl, rfl⟩

/-! ## WAITB and COMMIT -/

/-- No operation of a team up to a batch has a cause to raise. -/
def State.NoCause (s : State) (k n : Nat) : Prop := ∀ o ∈ s.ops, o.team = k → o.batch ≤ n → o.cause = none

theorem State.dueOp_eq_none {s : State} {k n : Nat} {commit : Bool} (h : s.NoCause k n) : s.dueOp k n commit = none := by
  unfold State.dueOp
  dsimp only
  rw [List.filter_eq_nil_iff.mpr]
  · rfl
  intro o ho
  obtain ⟨hmem, hteam⟩ := List.mem_filter.mp ho
  by_cases hbatch : o.batch ≤ n
  · simp [h o hmem (by simpa using hteam) hbatch]
  · simp [hbatch]

@[simp] theorem State.mapHidden_team (s : State) (f : Hidden → Hidden) : (s.mapHidden f).team = s.team := rfl

@[simp] theorem State.mapHidden_ops (s : State) (f : Hidden → Hidden) : (s.mapHidden f).ops = s.ops := rfl

theorem Team.foldl_raiseFloor_keeps {α : Type} (g : Team → α) (hg : ∀ t k, g (Team.raiseFloor t k) = g t) (l : List Nat) (t : Team) :
    g (l.foldl Team.raiseFloor t) = g t := by
  induction l generalizing t with
  | nil => rfl
  | cons k l ih => rw [List.foldl_cons, ih, hg]

@[simp] theorem Team.observeBatch_key (t : Team) (n : Nat) : (t.observeBatch n).key = t.key :=
  Team.foldl_raiseFloor_keeps Team.key (fun _ _ => rfl) _ t

@[simp] theorem Team.observeBatch_pc (t : Team) (n : Nat) : (t.observeBatch n).pc = t.pc :=
  Team.foldl_raiseFloor_keeps Team.pc (fun _ _ => rfl) _ t

@[simp] theorem Team.observeBatch_committed (t : Team) (n : Nat) : (t.observeBatch n).committed = t.committed :=
  Team.foldl_raiseFloor_keeps Team.committed (fun _ _ => rfl) _ t

@[simp] theorem Team.observeBatch_lanes (t : Team) (n : Nat) : (t.observeBatch n).lanes = t.lanes :=
  Team.foldl_raiseFloor_keeps Team.lanes (fun _ _ => rfl) _ t

@[simp] theorem Team.observeBatch_scalars (t : Team) (n : Nat) : (t.observeBatch n).scalars = t.scalars :=
  Team.foldl_raiseFloor_keeps Team.scalars (fun _ _ => rfl) _ t

/-- A WAITB or COMMIT with nothing to raise goes on. -/
theorem State.observe_of_noCause {s : State} {n : Nat} {commit : Bool} (h : s.NoCause s.team.key n) :
    (s.observe n commit).team = (s.team.observeBatch n).advance 1 ∧ (s.observe n commit).ops = s.ops ∧ (s.observe n commit).mem = s.mem := by
  have hdue : ∀ f : Hidden → Hidden, ((s.mapHidden f).withTeam (s.team.observeBatch n)).dueOp (s.team.observeBatch n).key n commit = none :=
    fun f => State.dueOp_eq_none fun o ho hteam => h o ho (hteam.trans (Team.observeBatch_key s.team n))
  unfold State.observe
  dsimp only [State.mapHidden_team, State.withTeam_team]
  rw [hdue]
  exact ⟨rfl, rfl, rfl⟩

section NamedBatch

variable {s : State} {b : Bool} {a : BitVec 6} {u : Team} (hu : u = s.team.belay b)
include hu

theorem execWaitb_of_unnamed (hnamed : u.namedBatch (u.srd a.toNat).toNat = none) : execWaitb b a s = .next (s.illegal (.waitb b a)) := by
  subst hu
  simp only [execWaitb, hnamed]

theorem execCommit_of_unnamed (hnamed : u.namedBatch (u.srd a.toNat).toNat = none) : execCommit b a s = .next (s.illegal (.commit b a)) := by
  subst hu
  simp only [execCommit, hnamed]

variable {n : Nat} (hnamed : u.namedBatch (u.srd a.toNat).toNat = some (Int.ofNat n))
include hnamed

theorem execWaitb_of_done (hdone : s.batchDone u n = true) : execWaitb b a s = .next ((s.withTeam u).observe n false) := by
  subst hu
  simp only [execWaitb, hnamed, hdone, if_true]

theorem execWaitb_of_not_done (hdone : s.batchDone u n = false) :
    execWaitb b a s = .next (s.withTeam { u with state := .parked, park := .waitb n }) := by
  subst hu
  simp only [execWaitb, hnamed, hdone, Bool.false_eq_true, if_false]

theorem execCommit_of_not_done (hdone : s.batchDone u n = false) :
    execCommit b a s = .next (s.withTeam { u with state := .parked, park := .commit n }) := by
  subst hu
  simp only [execCommit, hnamed, hdone, Bool.false_eq_true, if_false]

theorem execCommit_of_committed (hdone : s.batchDone u n = true) (hin : n ∈ s.team.committed) :
    execCommit b a s = .next ((s.withTeam u).observe n true) := by
  subst hu
  simp only [execCommit, hnamed, hdone, if_true, Team.belay_committed, hin]

theorem execCommit_of_not_committed (hdone : s.batchDone u n = true) (hin : n ∉ s.team.committed) :
    execCommit b a s = .next (((s.withTeam u).commitBatch n).observe n true) := by
  subst hu
  simp only [execCommit, hnamed, hdone, if_true, Team.belay_committed, hin, if_false]

end NamedBatch

/-! ## The data of a COMMIT -/

theorem Team.foldl_land_keeps {α : Type} (g : Team → α) (hg : ∀ t w, g (Team.land t w) = g t) (l : List RegWrite) (t : Team) :
    g (l.foldl Team.land t) = g t := by
  induction l generalizing t with
  | nil => rfl
  | cons w l ih => rw [List.foldl_cons, ih, hg]

section CommitBatch

variable (s : State) (n : Nat)

/-- The data that a COMMIT of a batch writes. -/
def State.landedIn (s : State) (n : Nat) : List RegWrite :=
  (s.ops.filter (fun o => o.team == s.team.key && o.batch == n)).flatMap (fun o => o.landed)

/-- COMMIT writes the landed data of the operations of its batch, in their order. -/
theorem State.commitBatch_team : ∃ netstat, (s.commitBatch n).team =
    { (s.landedIn n).foldl Team.land s.team with netstat := netstat, committed := n :: s.team.committed } := by
  have hmine : (s.opsOf s.team.key).filter (fun o => o.batch == n) = s.ops.filter (fun o => o.team == s.team.key && o.batch == n) := by
    rw [State.opsOf, List.filter_filter]
    exact List.filter_congr fun o _ => Bool.and_comm _ _
  have hland : (s.ops.filter (fun o => o.team == s.team.key && o.batch == n)).foldl (fun t o => o.landed.foldl Team.land t) s.team =
      (s.landedIn n).foldl Team.land s.team := (List.foldl_flatMap ..).symm
  have hcommitted : ((s.landedIn n).foldl Team.land s.team).committed = s.team.committed :=
    Team.foldl_land_keeps Team.committed Team.land_committed _ _
  unfold State.commitBatch
  dsimp only
  rw [hmine, hland, hcommitted]
  exact ⟨_, rfl⟩

/-- An operation that a COMMIT leaves is one of before, and one of its batch has given its data and its quota. -/
theorem State.of_mem_commitBatch_ops {s : State} {n : Nat} {o : AsyncOp} (h : o ∈ (s.commitBatch n).ops) :
    ∃ x ∈ s.ops, o.team = x.team ∧ o.batch = x.batch ∧ o.cause = x.cause
      ∧ (o.team = s.team.key → o.batch = n → o.landed = [] ∧ o.quota = 0) := by
  obtain ⟨x, hx, rfl⟩ := List.mem_map.mp (List.mem_filter.mp h).1
  refine ⟨x, hx, ?_⟩
  split
  · exact ⟨rfl, rfl, rfl, fun _ _ => ⟨rfl, rfl⟩⟩
  next hother => exact ⟨rfl, rfl, rfl, fun hteam hbatch => absurd ⟨hteam, hbatch⟩ hother⟩

theorem State.commitBatch_key : (s.commitBatch n).team.key = s.team.key := by
  obtain ⟨netstat, hteam⟩ := s.commitBatch_team n
  rw [hteam]
  exact Team.foldl_land_keeps Team.key Team.land_key _ _

theorem State.commitBatch_noCause {s : State} {n : Nat} (h : s.NoCause s.team.key n) :
    (s.commitBatch n).NoCause (s.commitBatch n).team.key n := by
  rw [State.commitBatch_key]
  intro o ho hteam hbatch
  obtain ⟨x, hx, hxteam, hxbatch, hcause, -⟩ := State.of_mem_commitBatch_ops ho
  rw [hcause]
  exact h x hx (hxteam ▸ hteam) (hxbatch ▸ hbatch)

end CommitBatch

/-- Settles O36: LDA adds its operation, BATCH closes the batch, WAITB and COMMIT of a completed batch raise nothing where nothing is due. -/
theorem batchesAndLandings : Obligations.BatchesAndLandings := by
  unfold Obligations.BatchesAndLandings
  intro s b q ty d a d6 e off u hu
  refine ⟨fun f hf ls s0 hls hok => ⟨fun hempty => (exec_ldaForms hf).trans (loadAsync_of_empty hok hu hempty),
    fun hloc hs0 hreplay hactive hquota s1 s2 hs2 hs1 => (exec_ldaForms hf).trans ?_⟩, fun hroom => execBatch_of_room hu hroom,
    fun n hnamed => ⟨fun hdone => ?_, fun hdone => ⟨execWaitb_of_not_done hu hnamed hdone, execCommit_of_not_done hu hnamed hdone⟩⟩,
    fun hnamed => ⟨execWaitb_of_unnamed hu hnamed, execCommit_of_unnamed hu hnamed⟩⟩
  · have hcrew : s0.crew = s.crew := by rw [hs0]; exact (samePackage_prepareLoad _ _ _ _).crew
    rw [← hcrew] at hs2
    exact loadAsync_of_located hok hu hls hloc hs0 hreplay hactive hquota hs2 hs1
  · refine ⟨execWaitb_of_done hu hnamed hdone, execCommit_of_committed hu hnamed hdone, execCommit_of_not_committed hu hnamed hdone,
      fun hcause => ?_⟩
    have hkey : u.key = s.team.key := hu ▸ Team.belay_key s.team b
    have hpc : u.pc = s.team.pc := hu ▸ Team.belay_pc s.team b
    have hcommitted : u.committed = s.team.committed := hu ▸ Team.belay_committed s.team b
    have hnone : (s.withTeam u).NoCause (s.withTeam u).team.key n := fun o ho hteam => hcause o ho (hteam.trans hkey)
    have hwait (commit : Bool) := State.observe_of_noCause (commit := commit) hnone
    refine ⟨⟨_, execWaitb_of_done hu hnamed hdone, hwait false⟩, ?_⟩
    by_cases hin : n ∈ s.team.committed
    · obtain ⟨hteam, -, hmem⟩ := hwait true
      refine ⟨_, execCommit_of_committed hu hnamed hdone hin, hmem, ?_, fun _ => hteam, fun hout => absurd hin hout⟩
      rw [hteam, Team.advance]
      simp [hpc]
    · obtain ⟨hteam, hops, hmem⟩ := State.observe_of_noCause (commit := true) (State.commitBatch_noCause hnone)
      obtain ⟨netstat, hlanded⟩ := (s.withTeam u).commitBatch_team n
      refine ⟨_, execCommit_of_not_committed hu hnamed hdone hin, hmem, ?_, fun hin' => absurd hin' hin, fun _ => ⟨?_, ?_, ?_⟩⟩
      · rw [hteam, hlanded]
        have hland : (((s.withTeam u).landedIn n).foldl Team.land u).pc = u.pc := Team.foldl_land_keeps Team.pc Team.land_pc _ _
        simp [Team.advance, hland, hpc]
      · rw [hteam, hlanded]
        simp [Team.advance]
      · rw [hops]
        intro o ho hteam hbatch
        obtain ⟨-, -, -, -, -, hgiven⟩ := State.of_mem_commitBatch_ops ho
        exact hgiven (hteam.trans hkey.symm) hbatch
      · intro done hdata
        have heq : (s.withTeam u).landedIn n = done := by rw [hdata, ← hkey]; rfl
        rw [hteam, hlanded, heq]
        simp [Team.advance]

end Sys2Proof.Machine
end

section
/-! The canvas at issue: what its forms check, and what it accepts (R126 to R129, R134, R136, R137, R140, R144, R147, R148, R160 to R164). -/

namespace Sys2Proof.Machine

/-! ## The checks of a canvas form -/

section CanvasForm

variable {s : State} {t : Team} {len : Nat} {waits : Bool} {body : State → Out}

theorem canvasForm_of_empty (hempty : t.active = []) : canvasForm s t len waits body = .next (s.withTeam (t.advance len)) := if_pos hempty

variable (hactive : t.active ≠ [])
include hactive

theorem canvasForm_of_no_canvas (hno : s.crew.hasCanvas = false) : canvasForm s t len waits body = .next (s.trapHere 0x22 0) := by
  rw [canvasForm, if_neg hactive, if_pos hno]

variable (hcanvas : s.crew.hasCanvas = true)
include hcanvas

theorem canvasForm_of_waits (hwaits : waits = true) : canvasForm s t len waits body = .next (s.withTeam t).waits := by
  rw [canvasForm, if_neg hactive, if_neg (by rw [hcanvas]; decide), if_pos hwaits]

theorem canvasForm_of_ready (hwaits : waits = false) : canvasForm s t len waits body = body (s.withTeam t) := by
  rw [canvasForm, if_neg hactive, if_neg (by rw [hcanvas]; decide), if_neg (by rw [hwaits]; decide)]

end CanvasForm

theorem State.canvasFull_of_room {s : State} (h : s.crew.canvas.queue.length < 2) : s.canvasFull = false :=
  decide_eq_false (Nat.not_le.mpr h)

theorem State.canvasFull_of_full {s : State} (h : 2 ≤ s.crew.canvas.queue.length) : s.canvasFull = true := decide_eq_true h

theorem State.canvasBusy_of_ne_nil {s : State} (h : s.crew.canvas.queue ≠ []) : s.canvasBusy = true := by
  rw [State.canvasBusy, List.isEmpty_eq_false_iff.mpr h]
  rfl

theorem State.canvasBusy_of_nil {s : State} (h : s.crew.canvas.queue = []) : s.canvasBusy = false := by
  rw [State.canvasBusy, h]
  rfl

/-- A pending delivery is taken in the place of an instruction (R128). -/
def State.deliverOr (s : State) (o : Out) : Out :=
  match s.delivery with
  | some s' => .next s'
  | none => o

theorem State.deliverOr_of_none {s : State} (h : s.crew.canvas.pend = none) (o : Out) : s.deliverOr o = o := by
  rw [State.deliverOr, State.delivery, h]

/-- The delivery of an address: cause 0x08 with it and the count of cells, up to 127. -/
def State.delivered (s : State) (addr : Nat) : State :=
  (s.withCanvas { s.crew.canvas with pend := none, counted := 0 }).trapHere 0x08
    (BitVec.ofNat 64 (addr % 2 ^ 57 + Nat.min ((List.range 4096).countP (fun i => s.crew.canvas.counted.getLsbD i)) 127 * 2 ^ 57))

theorem State.deliverOr_of_some {s : State} {addr : Nat} (h : s.crew.canvas.pend = some addr) (o : Out) :
    s.deliverOr o = .next (s.delivered addr) := by
  rw [State.deliverOr, State.delivery, h]
  rfl

/-! ## The forms with no further check -/

theorem exec_of_canvasRule {i : Instr} {b : Bool} {len : Nat} {op : Team → CanvasOp} (h : Claims.canvasRule i = some (b, len, op)) (s : State) :
    exec i s = canvasPlain b len s op := by
  unfold Claims.canvasRule at h
  split at h
  case h_27 => nomatch h
  all_goals
    obtain ⟨rfl, rfl, rfl⟩ : _ ∧ _ ∧ _ := by simpa only [Option.some.injEq, Prod.mk.injEq] using h
    rfl

section CanvasPlain

variable {s : State} {b : Bool} {len : Nat} {op : Team → CanvasOp} {u : Team} (hu : u = s.team.belay b)
include hu

theorem canvasPlain_of_empty (hempty : u.active = []) : canvasPlain b len s op = .next (s.withTeam (u.advance len)) := by
  subst hu
  exact canvasForm_of_empty hempty

variable (hactive : u.active ≠ [])
include hactive

theorem canvasPlain_of_no_canvas (hno : s.crew.hasCanvas = false) : canvasPlain b len s op = .next (s.trapHere 0x22 0) := by
  subst hu
  exact canvasForm_of_no_canvas hactive hno

theorem canvasPlain_of_full (hcanvas : s.crew.hasCanvas = true) (hfull : 2 ≤ s.crew.canvas.queue.length) :
    canvasPlain b len s op = .next (s.withTeam u).waits := by
  subst hu
  exact canvasForm_of_waits hactive hcanvas (State.canvasFull_of_full hfull)

theorem canvasPlain_of_room (hcanvas : s.crew.hasCanvas = true) (hroom : s.crew.canvas.queue.length < 2) :
    canvasPlain b len s op = .next ((s.withTeam u).accept len (op u)) := by
  subst hu
  exact canvasForm_of_ready hactive hcanvas (State.canvasFull_of_room hroom)

end CanvasPlain

/-! ## CNV.ZTEST, CNV.ORG, CNV.LOAD, CNV.STORE and CNV.WRL -/

/-- An origin's coordinate is in range (R131). -/
def originOk (v : Int) : Bool := decide (-4194304 ≤ v) && decide (v ≤ 4194240)

theorem originOk_iff {v : Int} : originOk v = true ↔ -4194304 ≤ v ∧ v ≤ 4194240 := by
  simp [originOk]

theorem exec_cnvLoad (s : State) (b : Bool) (d : BitVec 4) (a : BitVec 6) :
    exec (.cnvLoad b d a) s = regionForm b a.toNat s (fun s off => .next (s.accept 1 (.load d.toNat off))) := rfl

theorem exec_cnvStore (s : State) (b : Bool) (d : BitVec 4) (a : BitVec 6) :
    exec (.cnvStore b d a) s = regionForm b a.toNat s (fun s off => s.deliverOr (.next (s.accept 1 (.store d.toNat off 0)))) := rfl

section Checked

variable {s : State} {b : Bool} {u : Team} (hu : u = s.team.belay b)
include hu

theorem execCnvZtest_eq {a : BitVec 4} {c : BitVec 6} : execCnvZtest b a c s =
    if 0xFFFFF ≤ (u.srd c.toNat).toNat ∨ 0xFFFFF ≤ (u.srd (c.toNat + 1)).toNat then
      canvasForm s u 1 false (fun _ => .next (s.illegal (.cnvZtest b a c)))
    else canvasForm s u 1 s.canvasFull
      (fun s => .next (s.accept 1 (.ztest a.toNat (u.srd c.toNat).toNat (u.srd (c.toNat + 1)).toNat))) := by
  subst hu
  rfl

theorem execCnvOrg_eq {a c : BitVec 6} : execCnvOrg b a c s =
    if originOk (u.srd a.toNat).toInt && originOk (u.srd c.toNat).toInt then
      canvasForm s u 1 s.canvasFull (fun s => .next (s.accept 1 (.org (u.srd a.toNat).toInt (u.srd c.toNat).toInt)))
    else canvasForm s u 1 false (fun _ => .next (s.illegal (.cnvOrg b a c))) := by
  subst hu
  rfl

theorem execCnvZtest_form {a : BitVec 4} {c : BitVec 6} : ∃ waits body, execCnvZtest b a c s = canvasForm s u 1 waits body := by
  rw [execCnvZtest_eq hu]
  split
  · exact ⟨_, _, rfl⟩
  · exact ⟨_, _, rfl⟩

theorem execCnvOrg_form {a c : BitVec 6} : ∃ waits body, execCnvOrg b a c s = canvasForm s u 1 waits body := by
  rw [execCnvOrg_eq hu]
  split
  · exact ⟨_, _, rfl⟩
  · exact ⟨_, _, rfl⟩

section Region

variable {a : Nat} {body : State → Nat → Out}

theorem regionForm_form : ∃ waits body', regionForm b a s body = canvasForm s u 1 waits body' := by
  subst hu
  rw [regionForm]
  exact ⟨_, _, rfl⟩

variable (hactive : u.active ≠ [])
include hactive

variable (hcanvas : s.crew.hasCanvas = true)
include hcanvas

theorem regionForm_of_misaligned (h : (u.srd a).toNat % 256 ≠ 0) :
    regionForm b a s body = .next ((s.withTeam u).vaTrap 0x03 0 (u.srd a).toNat) := by
  subst hu
  rw [regionForm]
  exact (canvasForm_of_ready hactive hcanvas rfl :).trans (if_pos h)

variable (haligned : (u.srd a).toNat % 256 = 0)
include haligned

theorem regionForm_of_outside (h : s.crew.spadSize < (u.srd a).toNat + 16384) :
    regionForm b a s body = .next ((s.withTeam u).vaTrap 0x05 0 (u.srd a).toNat) := by
  subst hu
  rw [regionForm]
  exact (canvasForm_of_ready hactive hcanvas rfl :).trans ((if_neg (not_not.mpr haligned)).trans (if_pos h))

theorem regionForm_of_inside (h : (u.srd a).toNat + 16384 ≤ s.crew.spadSize) (hroom : s.crew.canvas.queue.length < 2) :
    regionForm b a s body = body (s.withTeam u) (u.srd a).toNat := by
  have hfull : (s.withTeam u).canvasFull = false := State.canvasFull_of_room hroom
  subst hu
  rw [regionForm]
  refine (canvasForm_of_ready hactive hcanvas rfl :).trans ((if_neg (not_not.mpr haligned)).trans ((if_neg (Nat.not_lt.mpr h)).trans ?_))
  exact if_neg (by rw [hfull]; decide)

end Region

end Checked

theorem execCnvWrl_of_namesOk {s : State} {b : Bool} {d : BitVec 4} {a : BitVec 7} {c : BitVec 6} (hok : s.team.namesOk [a.toNat] = true) :
    execCnvWrl b d a c s = canvasPlain b 1 s (fun t =>
      .wrl d.toNat (t.active.map (fun l => (segmentCell (t.srd c.toNat).toNat l, t.rd a.toNat l)))) := by
  rw [execCnvWrl, hok]
  exact if_neg (by decide)

/-- Settles O39: the checks of each form in their order, and what the canvas accepts. -/
theorem canvasAccepts : Obligations.CanvasAccepts := by
  unfold Obligations.CanvasAccepts
  intro s i b len op d a4 a7 a c u r hu hr
  have hact : u.active = s.team.active := hu ▸ Team.belay_active s.team b
  subst hr
  refine ⟨fun hrule => ⟨?_, ?_, ?_, ?_⟩, ?_, fun hok => ⟨?_, ?_, ?_, ?_⟩, fun ⟨hactive, hcanvas, hroom⟩ => ⟨?_, ?_, ?_⟩,
    fun hactive hcanvas => ⟨?_, ?_, ?_⟩⟩
  · exact fun ⟨hactive, hcanvas, hroom⟩ => (exec_of_canvasRule hrule s).trans (canvasPlain_of_room hu (hact ▸ hactive) hcanvas hroom)
  · exact fun hactive hno => (exec_of_canvasRule hrule s).trans (canvasPlain_of_no_canvas hu (hact ▸ hactive) hno)
  · exact fun hempty => (exec_of_canvasRule hrule s).trans (canvasPlain_of_empty hu (hact ▸ hempty))
  · exact fun hactive hcanvas hfull => (exec_of_canvasRule hrule s).trans (canvasPlain_of_full hu (hact ▸ hactive) hcanvas hfull)
  · intro i hi
    obtain ⟨waits, body, hexec⟩ : ∃ waits body, exec i s = canvasForm s u 1 waits body := by
      simp only [List.mem_cons, List.not_mem_nil, or_false] at hi
      rcases hi with rfl | rfl | rfl | rfl
      · exact execCnvZtest_form hu
      · exact execCnvOrg_form hu
      · exact exec_cnvLoad s b d a ▸ regionForm_form hu
      · exact exec_cnvStore s b d a ▸ regionForm_form hu
    rw [hexec, ← hact]
    exact ⟨canvasForm_of_no_canvas, canvasForm_of_empty⟩
  · exact fun hactive hno => (execCnvWrl_of_namesOk hok).trans (canvasPlain_of_no_canvas hu (hact ▸ hactive) hno)
  · exact fun hempty => (execCnvWrl_of_namesOk hok).trans (canvasPlain_of_empty hu (hact ▸ hempty))
  · exact fun hactive hcanvas hfull => (execCnvWrl_of_namesOk hok).trans (canvasPlain_of_full hu (hact ▸ hactive) hcanvas hfull)
  · intro ⟨hactive, hcanvas, hroom⟩
    rw [← hact]
    exact (execCnvWrl_of_namesOk hok).trans (canvasPlain_of_room hu (hact ▸ hactive) hcanvas hroom)
  · intro hinst hprim
    have hgood : ¬(0xFFFFF ≤ (u.srd c.toNat).toNat ∨ 0xFFFFF ≤ (u.srd (c.toNat + 1)).toNat) :=
      fun h => h.elim (Nat.not_le.mpr hinst) (Nat.not_le.mpr hprim)
    exact (execCnvZtest_eq hu).trans ((if_neg hgood).trans (canvasForm_of_ready (hact ▸ hactive) hcanvas (State.canvasFull_of_room hroom)))
  · intro hx0 hx1 hy0 hy1
    have hgood : (originOk (u.srd a.toNat).toInt && originOk (u.srd c.toNat).toInt) = true :=
      Bool.and_eq_true_iff.mpr ⟨originOk_iff.mpr ⟨hx0, hx1⟩, originOk_iff.mpr ⟨hy0, hy1⟩⟩
    exact (execCnvOrg_eq hu).trans ((if_pos hgood).trans (canvasForm_of_ready (hact ▸ hactive) hcanvas (State.canvasFull_of_room hroom)))
  · intro haligned hinside
    refine ⟨(exec_cnvLoad s b d a).trans (regionForm_of_inside hu (hact ▸ hactive) hcanvas haligned hinside hroom), fun hpend => ?_⟩
    exact (exec_cnvStore s b d a).trans ((regionForm_of_inside hu (hact ▸ hactive) hcanvas haligned hinside hroom).trans
      (State.deliverOr_of_none (s := s.withTeam u) hpend _))
  · exact fun hbad => (execCnvZtest_eq hu).trans ((if_pos hbad).trans (canvasForm_of_ready (hact ▸ hactive) hcanvas rfl))
  · intro hbad
    have hout : ¬(originOk (u.srd a.toNat).toInt && originOk (u.srd c.toNat).toInt) = true := by
      rw [Bool.and_eq_true, originOk_iff, originOk_iff]
      omega
    exact (execCnvOrg_eq hu).trans ((if_neg hout).trans (canvasForm_of_ready (hact ▸ hactive) hcanvas rfl))
  · intro i hi
    have hregion : ∃ body, exec i s = regionForm b a.toNat s body := by
      simp only [List.mem_cons, List.not_mem_nil, or_false] at hi
      rcases hi with rfl | rfl
      · exact ⟨_, exec_cnvLoad s b d a⟩
      · exact ⟨_, exec_cnvStore s b d a⟩
    obtain ⟨body, hexec⟩ := hregion
    rw [hexec]
    exact ⟨regionForm_of_misaligned hu (hact ▸ hactive) hcanvas, regionForm_of_outside hu (hact ▸ hactive) hcanvas⟩

end Sys2Proof.Machine
end

section
/-! The reads of the canvas, its enable stack and CNV.SYNC at issue (R127 to R129, R134, R136, R137, R140, R160, R161, R163). -/

namespace Sys2Proof.Machine

/-! ## Each form by its checks -/

section Reads

variable {s : State} {b : Bool} {d : BitVec 7} {a4 : BitVec 4} {a c : BitVec 6} {m : BitVec 5} (hok : s.team.namesOk [d.toNat] = true)
include hok

/-- The cells that the active lanes of a team read, with the registers that receive them (R140). -/
def Team.readCells (t : Team) (d c : Nat) : List (Nat × Nat) :=
  t.active.map (fun l => (segmentCell (t.srd c).toNat l, t.phys d * 1024 + l))

theorem exec_cnvXmap : exec (.cnvXmap b d a m) s = canvasPlain b 1 s (fun t => .xmap m.toNat (t.active.map (fun l =>
    ((32 * ((t.srd a.toNat).toNat + l / 32) + l % 32) % 128, t.phys d.toNat * 1024 + l)))) := by
  rw [exec, execCnvXmap, hok]
  exact if_neg (by decide)

theorem exec_cnvRdl : exec (.cnvRdl b d a4 c) s = canvasForm s (s.team.belay b) 1 s.canvasFull (fun s =>
    s.deliverOr (.next (s.accept 1 (.rdl a4.toNat (s.team.readCells d.toNat c.toNat))))) := by
  rw [exec, execCnvRdl, hok]
  exact if_neg (by decide)

theorem exec_cnvRdlA : exec (.cnvRdlA b d a4 c) s = canvasForm s (s.team.belay b) 1 false (fun s =>
    if s.quotaFree < 128 * s.team.liveStrands then .next (s.trapHere 0x20 (quotaInfo (128 * s.team.liveStrands) s.quotaFree))
    else if s.canvasFull then .next s.waits
    else s.deliverOr (.next ((s.addOp .rdla (128 * s.team.liveStrands)).accept 1
      (.rdla s.nextKey a4.toNat (s.team.readCells d.toNat c.toNat))))) := by
  rw [exec, execCnvRdlA, hok]
  exact if_neg (by decide)

end Reads

theorem exec_cnvXsum (s : State) (b : Bool) (d : BitVec 6) : exec (.cnvXsum b d) s = canvasPlain b 1 s (fun t => .xsum (t.scalarReg d.toNat)) := rfl

theorem exec_cnvSync (s : State) (b : Bool) : exec (.cnvSync b) s = canvasForm s (s.team.belay b) 1 s.canvasBusy (fun s =>
    s.deliverOr (.next ((s.mapHidden (fun h => h.observe s.team.index (fun d => d == 0))).withTeam (s.team.advance 1)))) := rfl

section Stack

variable {s : State} {b : Bool} {k : BitVec 3} {a : BitVec 4} {c : BitVec 6}

theorem exec_cnvPush_of_room (h : s.crew.canvas.depthAhead < 8) :
    exec (.cnvPush b k a c) s = canvasPlain b 1 s (fun t => .push k.toNat a.toNat (t.srd c.toNat).toNat) := by
  rw [exec, execCnvPush, if_neg (Nat.not_le.mpr h)]

theorem exec_cnvPush_of_full (h : 8 ≤ s.crew.canvas.depthAhead) :
    exec (.cnvPush b k a c) s = canvasForm s (s.team.belay b) 1 s.canvasBusy (fun s => .next (s.stackTrap true)) := by
  rw [exec, execCnvPush, if_pos h]

/-- CNV.ELSE and CNV.POP, with what they do to the enables. -/
def entryForms (b : Bool) : List (Instr × CanvasOp) := [(.cnvElse b, .els), (.cnvPop b, .pop)]

theorem exec_entryForms_of_entry {f : Instr × CanvasOp} (hf : f ∈ entryForms b) (h : 0 < s.crew.canvas.depthAhead) :
    exec f.1 s = canvasPlain b 1 s (fun _ => f.2) := by
  simp only [entryForms, List.mem_cons, List.not_mem_nil, or_false] at hf
  rcases hf with rfl | rfl
  · exact if_neg (Nat.ne_of_gt h)
  · exact if_neg (Nat.ne_of_gt h)

theorem exec_entryForms_of_empty {f : Instr × CanvasOp} (hf : f ∈ entryForms b) (h : s.crew.canvas.depthAhead = 0) :
    exec f.1 s = canvasForm s (s.team.belay b) 1 s.canvasBusy (fun s => .next (s.stackTrap false)) := by
  simp only [entryForms, List.mem_cons, List.not_mem_nil, or_false] at hf
  rcases hf with rfl | rfl
  · exact if_pos h
  · exact if_pos h

theorem cnvElse_mem_entryForms : (Instr.cnvElse b, CanvasOp.els) ∈ entryForms b := List.mem_cons_self

theorem cnvPop_mem_entryForms : (Instr.cnvPop b, CanvasOp.pop) ∈ entryForms b := List.mem_cons_of_mem _ List.mem_cons_self

end Stack

theorem Canvas.depthAhead_of_idle {c : Canvas} (h : c.queue = []) : c.depthAhead = c.stack.length := by
  rw [Canvas.depthAhead, h]
  rfl

/-- Each of these forms makes the checks of a canvas form first. -/
theorem exec_stackForm {s : State} {b : Bool} {k : BitVec 3} {a4 : BitVec 4} {c d6 : BitVec 6} {i : Instr}
    (hi : i ∈ [Instr.cnvXsum b d6, .cnvPush b k a4 c, .cnvElse b, .cnvPop b, .cnvSync b]) :
    ∃ waits body, exec i s = canvasForm s (s.team.belay b) 1 waits body := by
  have hentry {f : Instr × CanvasOp} (hf : f ∈ entryForms b) : ∃ waits body, exec f.1 s = canvasForm s (s.team.belay b) 1 waits body :=
    (Nat.eq_zero_or_pos s.crew.canvas.depthAhead).elim (fun h => ⟨_, _, exec_entryForms_of_empty hf h⟩)
      (fun h => ⟨_, _, exec_entryForms_of_entry hf h⟩)
  simp only [List.mem_cons, List.not_mem_nil, or_false] at hi
  rcases hi with rfl | rfl | rfl | rfl | rfl
  · exact ⟨_, _, exec_cnvXsum s b d6⟩
  · exact (Nat.lt_or_ge s.crew.canvas.depthAhead 8).elim (fun h => ⟨_, _, exec_cnvPush_of_room h⟩) (fun h => ⟨_, _, exec_cnvPush_of_full h⟩)
  · exact hentry cnvElse_mem_entryForms
  · exact hentry cnvPop_mem_entryForms
  · exact ⟨_, _, exec_cnvSync s b⟩

theorem exec_readForm {s : State} {b : Bool} {d : BitVec 7} {a4 : BitVec 4} {a c : BitVec 6} {m : BitVec 5} {i : Instr}
    (hok : s.team.namesOk [d.toNat] = true) (hi : i ∈ [Instr.cnvXmap b d a m, .cnvRdl b d a4 c, .cnvRdlA b d a4 c]) :
    ∃ waits body, exec i s = canvasForm s (s.team.belay b) 1 waits body := by
  simp only [List.mem_cons, List.not_mem_nil, or_false] at hi
  rcases hi with rfl | rfl | rfl
  · exact ⟨_, _, exec_cnvXmap hok⟩
  · exact ⟨_, _, exec_cnvRdl hok⟩
  · exact ⟨_, _, exec_cnvRdlA hok⟩

/-! ## The clauses -/

section Clauses

variable {s : State} {b : Bool} {d7 : BitVec 7} {a4 : BitVec 4} {c : BitVec 6} {u : Team} (hu : u = s.team.belay b) (hactive : u.active ≠ [])
  (hcanvas : s.crew.hasCanvas = true)
include hu hactive hcanvas

theorem exec_cnvRdl_of_room (hok : s.team.namesOk [d7.toNat] = true) (hroom : s.crew.canvas.queue.length < 2) : exec (.cnvRdl b d7 a4 c) s =
    (s.withTeam u).deliverOr (.next ((s.withTeam u).accept 1 (.rdl a4.toNat (u.readCells d7.toNat c.toNat)))) := by
  subst hu
  exact (exec_cnvRdl hok).trans (canvasForm_of_ready hactive hcanvas (State.canvasFull_of_room hroom))

theorem exec_cnvRdlA_of_room (hok : s.team.namesOk [d7.toNat] = true) (hroom : s.crew.canvas.queue.length < 2)
    (hquota : 128 * u.liveStrands ≤ (s.withTeam u).quotaFree) : exec (.cnvRdlA b d7 a4 c) s =
    (s.withTeam u).deliverOr (.next (((s.withTeam u).addOp .rdla (128 * u.liveStrands)).accept 1
      (.rdla s.nextKey a4.toNat (u.readCells d7.toNat c.toNat)))) := by
  have hfull : (s.withTeam u).canvasFull = false := State.canvasFull_of_room hroom
  subst hu
  refine (exec_cnvRdlA hok).trans ((canvasForm_of_ready hactive hcanvas rfl).trans ?_)
  exact (if_neg (Nat.not_lt.mpr hquota)).trans (if_neg (by rw [hfull]; decide))

theorem exec_cnvSync_of_idle (hidle : s.crew.canvas.queue = []) : exec (.cnvSync b) s = (s.withTeam u).deliverOr
    (.next (((s.withTeam u).mapHidden (fun h => h.observe u.index (fun d => d == 0))).withTeam (u.advance 1))) := by
  subst hu
  exact (exec_cnvSync s b).trans (canvasForm_of_ready hactive hcanvas (State.canvasBusy_of_nil hidle))

end Clauses

/-- Settles O40: each form's checks in their order, then a pending delivery, then what the canvas accepts. -/
theorem canvasReadsAndStack : Obligations.CanvasReadsAndStack := by
  unfold Obligations.CanvasReadsAndStack
  intro s b d4 a4 d7 k m a c d6 u r depth hu hr hdepth
  have hact : u.active = s.team.active := hu ▸ Team.belay_active s.team b
  subst hr hdepth
  refine ⟨fun ⟨hactive, hcanvas, hroom⟩ => ?_, fun hactive hcanvas hqueue => ?_, fun hactive hcanvas hfull => ?_,
    fun ⟨hactive, hcanvas, hidle, hpend⟩ => ?_, fun addr t hactive hcanvas hpend ht => ?_, fun i hi => ?_, fun hok i hi => ?_⟩
  · rw [← hact] at hactive
    refine ⟨fun hok cells hcells => ⟨(exec_cnvXmap hok).trans (canvasPlain_of_room hu hactive hcanvas hroom), fun hpend => ⟨?_, fun hquota => ?_⟩⟩,
      (exec_cnvXsum s b d6).trans (canvasPlain_of_room hu hactive hcanvas hroom),
      fun h => (exec_cnvPush_of_room h).trans (canvasPlain_of_room hu hactive hcanvas hroom),
      fun h => ⟨(exec_entryForms_of_entry cnvElse_mem_entryForms h).trans (canvasPlain_of_room hu hactive hcanvas hroom),
        (exec_entryForms_of_entry cnvPop_mem_entryForms h).trans (canvasPlain_of_room hu hactive hcanvas hroom)⟩⟩
    · subst hcells
      exact (exec_cnvRdl_of_room hu hactive hcanvas hok hroom).trans (State.deliverOr_of_none (s := s.withTeam u) hpend _)
    · subst hcells
      exact (exec_cnvRdlA_of_room hu hactive hcanvas hok hroom hquota).trans (State.deliverOr_of_none (s := s.withTeam u) hpend _)
  · have hbusy := State.canvasBusy_of_ne_nil hqueue
    subst hu
    exact ⟨(exec_cnvSync s b).trans (canvasForm_of_waits hactive hcanvas hbusy),
      fun h => (exec_cnvPush_of_full h).trans (canvasForm_of_waits hactive hcanvas hbusy),
      fun h => ⟨(exec_entryForms_of_empty cnvElse_mem_entryForms h).trans (canvasForm_of_waits hactive hcanvas hbusy),
        (exec_entryForms_of_empty cnvPop_mem_entryForms h).trans (canvasForm_of_waits hactive hcanvas hbusy)⟩⟩
  · refine ⟨(exec_cnvXsum s b d6).trans (canvasPlain_of_full hu hactive hcanvas hfull),
      fun hok => ⟨(exec_cnvXmap hok).trans (canvasPlain_of_full hu hactive hcanvas hfull), ?_⟩⟩
    subst hu
    exact (exec_cnvRdl hok).trans (canvasForm_of_waits hactive hcanvas (State.canvasFull_of_full hfull))
  · rw [← hact] at hactive
    refine ⟨⟨_, (exec_cnvSync_of_idle hu hactive hcanvas hidle).trans (State.deliverOr_of_none (s := s.withTeam u) hpend _), rfl, rfl, rfl, rfl⟩,
      fun t ht => ?_⟩
    have hbusy := State.canvasBusy_of_nil hidle
    have hahead := Canvas.depthAhead_of_idle hidle
    subst ht hu
    refine ⟨fun h => (exec_cnvPush_of_full (hahead ▸ h)).trans (canvasForm_of_ready hactive hcanvas hbusy), fun h => ?_⟩
    have hzero : s.crew.canvas.depthAhead = 0 := by rw [hahead, h]; rfl
    exact ⟨(exec_entryForms_of_empty cnvElse_mem_entryForms hzero).trans (canvasForm_of_ready hactive hcanvas hbusy),
      (exec_entryForms_of_empty cnvPop_mem_entryForms hzero).trans (canvasForm_of_ready hactive hcanvas hbusy)⟩
  · have hdeliver (o : Out) : (s.withTeam u).deliverOr o = .next t := ht ▸ State.deliverOr_of_some (s := s.withTeam u) hpend o
    refine ⟨fun hidle => (exec_cnvSync_of_idle hu hactive hcanvas hidle).trans (hdeliver _), fun hroom => ⟨fun hok =>
      ⟨(exec_cnvRdl_of_room hu hactive hcanvas hok hroom).trans (hdeliver _),
        fun hquota => (exec_cnvRdlA_of_room hu hactive hcanvas hok hroom hquota).trans (hdeliver _)⟩, fun haligned hinside => ?_⟩⟩
    exact (exec_cnvStore s b d4 a).trans ((regionForm_of_inside hu hactive hcanvas haligned hinside hroom).trans (hdeliver _))
  · obtain ⟨waits, body, hexec⟩ := exec_stackForm (s := s) hi
    rw [hexec, ← hu]
    exact ⟨canvasForm_of_empty, canvasForm_of_no_canvas⟩
  · obtain ⟨waits, body, hexec⟩ := exec_readForm hok hi
    rw [hexec, ← hu]
    exact ⟨canvasForm_of_empty, canvasForm_of_no_canvas⟩

end Sys2Proof.Machine
end

section
/-! The canvas executes the oldest instruction that it has accepted (R126 to R131, R135, R136, R138, R140 to R144, R151 to R164). -/

namespace Sys2Proof.Machine

/-! ## Planes -/

/-- The sum of the powers of the indices below `n` that a predicate picks. -/
def bitSum (f : Nat → Bool) (n : Nat) : Nat := (List.range n).foldl (fun acc i => if f i then acc + 2 ^ i else acc) 0

theorem bitSum_succ (f : Nat → Bool) (n : Nat) : bitSum f (n + 1) = if f n then bitSum f n + 2 ^ n else bitSum f n := by
  rw [bitSum, List.range_succ, List.foldl_append]
  rfl

theorem bitSum_lt (f : Nat → Bool) (n : Nat) : bitSum f n < 2 ^ n := by
  induction n with
  | zero => exact Nat.one_pos
  | succ n ih =>
    rw [bitSum_succ, Nat.pow_succ]
    split <;> omega

theorem testBit_bitSum (f : Nat → Bool) (n j : Nat) : (bitSum f n).testBit j = (decide (j < n) && f j) := by
  induction n with
  | zero => exact Nat.zero_testBit j
  | succ n ih =>
    rcases Nat.lt_trichotomy j n with hlt | rfl | hgt
    · have hsame : (bitSum f (n + 1)).testBit j = (bitSum f n).testBit j := by
        rw [bitSum_succ]
        split
        · rw [Nat.add_comm, Nat.testBit_two_pow_add_gt hlt]
        · rfl
      rw [hsame, ih, decide_eq_true hlt, decide_eq_true (Nat.lt_succ_of_lt hlt)]
    · have hclear : (bitSum f j).testBit j = false := Nat.testBit_lt_two_pow (bitSum_lt f j)
      rw [bitSum_succ, decide_eq_true (Nat.lt_succ_self j), Bool.true_and]
      split
      next hf => rw [Nat.add_comm, Nat.testBit_two_pow_add_eq, hclear, hf]; rfl
      next hf => rw [hclear, Bool.eq_false_of_not_eq_true hf]
    · have hbound := Nat.lt_of_lt_of_le (bitSum_lt f (n + 1)) (Nat.pow_le_pow_right (Nat.succ_pos 1) (Nat.succ_le_of_lt hgt))
      rw [Nat.testBit_lt_two_pow hbound, decide_eq_false (by omega), Bool.false_and]

theorem Plane.getLsbD_ofFn (f : Nat → Bool) (i : Nat) : (Plane.ofFn f).getLsbD i = (decide (i < 4096) && f i) := by
  have hbit := testBit_bitSum f 4096 i
  rw [Plane.ofFn, BitVec.getLsbD_ofNat]
  change (decide (i < 4096) && (bitSum f 4096).testBit i) = _
  rw [hbit, ← Bool.and_assoc, Bool.and_self]

theorem Plane.mem_cells {p : Plane} {i : Nat} : i ∈ Plane.cells p ↔ i < 4096 ∧ p.getLsbD i = true := by
  rw [Plane.cells, List.mem_filter, List.mem_range]

theorem Canvas.mem_cells_en {c : Canvas} {i : Nat} : i ∈ Plane.cells c.en ↔ Claims.Enabled c i := Plane.mem_cells

/-- The cells of a plane that set a flag of a mask, as a plane. -/
theorem raisedPlane_cells (p : Plane) (f : Nat → CellOut) (mask : Nat) :
    raisedPlane ((Plane.cells p).map (fun i => (i, f i))) mask =
      Plane.ofFn (fun i => p.getLsbD i && !decide (Nat.land (f i).flags mask = 0)) := by
  rw [raisedPlane, Plane.ofFn, Plane.cells, List.foldl_map, List.foldl_filter]
  congr 2
  funext acc i
  cases p.getLsbD i
  · rfl
  · simp

theorem land_two_pow_eq_zero_iff (x n : Nat) : Nat.land x (2 ^ n) = 0 ↔ x.testBit n = false := by
  have h : Nat.land x (2 ^ n) = x &&& 2 ^ n := rfl
  rw [h, Nat.and_two_pow]
  cases x.testBit n <;> simp

/-! ## Registers of cells -/

theorem Canvas.cell_setCells_of_ne (c : Canvas) {r d : Nat} (h : r ≠ d) (cells : List (Nat × Word)) (i : Nat) :
    (c.setCells d cells).cell r i = c.cell r i := by
  simp [Canvas.cell, Canvas.setCells, List.getD_eq_getElem?_getD, List.getElem?_set_ne (Ne.symm h)]

/-- The cells of a list receive their words, and the others keep theirs. -/
theorem Canvas.cell_setCells_self (c : Canvas) {d : Nat} (hd : d < c.regs.length) (cells : List Nat) (g : Nat → Word) (i : Nat) :
    (c.setCells d (cells.map (fun i => (i, g i)))).cell d i = if i ∈ cells then g i else c.cell d i := by
  have hreg : (c.setCells d (cells.map (fun i => (i, g i)))).cell d i = FMap.get (cells.foldl (fun m i => m.set i (g i)) (c.regs.getD d [])) i := by
    simp [Canvas.cell, Canvas.setCells, List.getD_eq_getElem?_getD, List.getElem?_set_self hd, List.foldl_map]
  rw [hreg]
  clear hreg
  unfold Canvas.cell
  generalize c.regs.getD d [] = m
  induction cells generalizing m with
  | nil => rfl
  | cons k cells ih =>
    rw [List.foldl_cons, ih, FMap.get_set]
    by_cases hmem : i ∈ cells
    · rw [if_pos hmem, if_pos (List.mem_cons_of_mem k hmem)]
    · by_cases hk : i = k
      · rw [if_neg hmem, if_pos hk, if_pos (hk ▸ List.mem_cons_self), hk]
      · rw [if_neg hmem, if_neg hk, if_neg (fun h => (List.mem_cons.mp h).elim hk hmem)]

/-- What writing cell registers leaves. -/
theorem Canvas.setCells_eq (c : Canvas) (d : Nat) (cells : List (Nat × Word)) : ∃ regs, regs.length = c.regs.length
    ∧ c.setCells d cells = { c with regs := regs } := ⟨_, List.length_set, rfl⟩

/-- The writes of a list of words to a list of registers, cell by cell. -/
def Canvas.writeAll (c : Canvas) (ps : List (Nat × Nat)) (cells : List Nat) (g : Nat → Nat → Word) : Canvas :=
  ps.foldl (fun c e => c.setCells e.2 (cells.map (fun i => (i, g e.1 i)))) c

theorem Canvas.writeAll_eq (ps : List (Nat × Nat)) (cells : List Nat) (g : Nat → Nat → Word) (c : Canvas) :
    ∃ regs, regs.length = c.regs.length ∧ c.writeAll ps cells g = { c with regs := regs } := by
  induction ps generalizing c with
  | nil => exact ⟨c.regs, rfl, rfl⟩
  | cons p ps ih =>
    obtain ⟨regs, hlen, heq⟩ := ih (c.setCells p.2 (cells.map (fun i => (i, g p.1 i))))
    exact ⟨regs, hlen.trans List.length_set, heq⟩

theorem Canvas.cell_writeAll_of_not_mem {ps : List (Nat × Nat)} {r : Nat} (hr : r ∉ ps.map Prod.snd) (cells : List Nat) (g : Nat → Nat → Word)
    (c : Canvas) (i : Nat) : (c.writeAll ps cells g).cell r i = c.cell r i := by
  induction ps generalizing c with
  | nil => rfl
  | cons p ps ih =>
    obtain ⟨hp, hrest⟩ := not_or.mp (List.mem_cons.not.mp hr)
    exact (ih hrest _).trans (Canvas.cell_setCells_of_ne c hp _ i)

theorem Canvas.cell_writeAll_of_mem {ps : List (Nat × Nat)} {k d : Nat} (hmem : (k, d) ∈ ps) (hnodup : (ps.map Prod.snd).Nodup)
    (cells : List Nat) (g : Nat → Nat → Word) (c : Canvas) (hlen : ∀ p ∈ ps, p.2 < c.regs.length) (i : Nat) :
    (c.writeAll ps cells g).cell d i = if i ∈ cells then g k i else c.cell d i := by
  induction ps generalizing c with
  | nil => nomatch hmem
  | cons p ps ih =>
    obtain ⟨hout, hrest⟩ := List.nodup_cons.mp hnodup
    rcases List.mem_cons.mp hmem with rfl | hin
    · exact (Canvas.cell_writeAll_of_not_mem hout cells g _ i).trans
        (Canvas.cell_setCells_self c (hlen _ List.mem_cons_self) cells (g k) i)
    · have hne : d ≠ p.2 := fun h => hout (List.mem_map.mpr ⟨(k, d), hin, h⟩)
      have hkeep := Canvas.cell_setCells_of_ne c hne (cells.map (fun i => (i, g p.1 i))) i
      refine (ih hin hrest _ fun q hq => ?_).trans (by rw [hkeep])
      rw [show (c.setCells p.2 _).regs.length = c.regs.length from List.length_set]
      exact hlen q (List.mem_cons_of_mem p hq)

/-! ## A form that acts on cells -/

section Each

variable (c : Canvas) (addr mask : Nat) (ds : List Nat) (f : Nat → CellOut)

theorem Canvas.writeOut_eq : c.writeOut ds ((Plane.cells c.en).map (fun i => (i, f i))) =
    c.writeAll (List.zip (List.range ds.length) ds) (Plane.cells c.en) (fun k i => (f i).words.getD k 0) := by
  rw [Canvas.writeOut, Canvas.writeAll]
  simp only [List.map_map, Function.comp_def]

/-- The cells that raise a flag of a mask. -/
def Canvas.hits (c : Canvas) (f : Nat → CellOut) (mask : Nat) : Plane :=
  Plane.ofFn (fun i => c.en.getLsbD i && !decide (Nat.land (f i).flags mask = 0))

theorem Canvas.getLsbD_hits (i : Nat) : (c.hits f mask).getLsbD i = true ↔ Claims.Enabled c i ∧ Nat.land (f i).flags mask ≠ 0 := by
  rw [Canvas.hits, Plane.getLsbD_ofFn, Claims.Enabled]
  simp [and_assoc]

/-- What an instruction that acts on cells leaves of the canvas. -/
theorem Canvas.each_eq : ∃ regs counted, c.each addr mask ds f = { c with
    regs := regs
    flags := (List.range 5).map (fun n => c.flags.getD n 0 ||| c.hits f (2 ^ n))
    pend := if c.hits f mask = 0 then c.pend else some (c.pend.getD addr)
    counted := counted } := by
  obtain ⟨regs, -, hregs⟩ := Canvas.writeAll_eq (List.zip (List.range ds.length) ds) (Plane.cells c.en) (fun k i => (f i).words.getD k 0) c
  simp only [Canvas.each, Canvas.writeOut_eq, hregs, Canvas.raise, raisedPlane_cells]
  exact ⟨regs, _, rfl⟩

theorem Canvas.cell_each (r i : Nat) : (c.each addr mask ds f).cell r i =
    (c.writeAll (List.zip (List.range ds.length) ds) (Plane.cells c.en) (fun k i => (f i).words.getD k 0)).cell r i := by
  rw [← Canvas.writeOut_eq]
  rfl

theorem zip_range_map_snd : (List.zip (List.range ds.length) ds).map Prod.snd = ds :=
  List.map_snd_zip (by rw [List.length_range])

theorem mem_zip_range {k : Nat} (hk : k < ds.length) : (k, ds.getD k 0) ∈ List.zip (List.range ds.length) ds := by
  refine List.mem_iff_getElem.mpr ⟨k, by simpa using hk, ?_⟩
  simp [List.getD_eq_getElem?_getD, hk]

/-- Enabled cells receive the words and flags that the function gives them. -/
theorem cellsWritten_each (hregs : c.regs.length = 16) (hnodup : ds.Nodup) (hds : ∀ d ∈ ds, d < 16) :
    Claims.CellsWritten c (c.each addr mask ds f) ds f := by
  have hsnd := zip_range_map_snd ds
  obtain ⟨regs, counted, heach⟩ := Canvas.each_eq c addr mask ds f
  refine ⟨fun k hk i => ?_, fun r i hr => ?_, fun n hn i => ?_, ?_⟩
  · have hcell := Canvas.cell_writeAll_of_mem (mem_zip_range ds hk) (hsnd.symm ▸ hnodup) (Plane.cells c.en)
      (fun k i => (f i).words.getD k 0) c (fun p hp => hregs ▸ hds p.2 (hsnd ▸ List.mem_map_of_mem hp)) i
    rw [Canvas.cell_each, hcell]
    exact ⟨fun hen => if_pos (Canvas.mem_cells_en.mpr hen), fun hen => if_neg (mt Canvas.mem_cells_en.mp hen)⟩
  · rw [Canvas.cell_each]
    exact Canvas.cell_writeAll_of_not_mem (hsnd.symm ▸ hr) _ _ c i
  · have hflag : (c.each addr mask ds f).flags.getD n 0 = c.flags.getD n 0 ||| c.hits f (2 ^ n) := by
      rw [heach]
      simp [List.getD_eq_getElem?_getD, hn]
    rw [hflag, BitVec.getLsbD_or, Bool.or_eq_true, Canvas.getLsbD_hits, ne_eq, land_two_pow_eq_zero_iff, Bool.not_eq_false]
  · rw [heach]
    exact ⟨rfl, rfl, rfl, rfl⟩

theorem Canvas.hits_eq_zero_iff : c.hits f mask = 0 ↔ ∀ i, Claims.Enabled c i → Nat.land (f i).flags mask = 0 := by
  constructor
  · intro hzero i hen
    by_contra hland
    have hbit := (Canvas.getLsbD_hits c mask f i).mpr ⟨hen, hland⟩
    rw [hzero] at hbit
    simp at hbit
  · intro hall
    refine BitVec.eq_of_getLsbD_eq fun i _ => ?_
    have hbit : ¬(c.hits f mask).getLsbD i = true := fun h =>
      ((Canvas.getLsbD_hits c mask f i).mp h).2 (hall i ((Canvas.getLsbD_hits c mask f i).mp h).1)
    simpa using hbit

end Each

/-! ## What the canvas performs -/

/-- A form that changes the canvas alone. -/
def CanvasOp.plain : CanvasOp → Bool
  | .load _ _ => false
  | .store _ _ _ => false
  | .rdla _ _ _ => false
  | .rdl _ _ => false
  | .xsum _ => false
  | .xmap _ _ => false
  | _ => true

theorem perform_of_cellRule {c : Canvas} {op : CanvasOp} {ds : List Nat} {f : Nat → CellOut} (h : Claims.cellRule c op = some (ds, f))
    (addr mask : Nat) : op.plain = true ∧ c.perform addr mask op = c.each addr mask ds f := by
  unfold Claims.cellRule at h
  split at h
  case h_11 => nomatch h
  all_goals
    obtain ⟨rfl, rfl⟩ : _ ∧ _ := by simpa only [Option.some.injEq, Prod.mk.injEq] using h
    exact ⟨rfl, rfl⟩

theorem perform_of_canvasChange {c c' : Canvas} {op : CanvasOp} (h : Claims.canvasChange c op = some c') (addr mask : Nat) :
    op.plain = true ∧ c.perform addr mask op = c' := by
  unfold Claims.canvasChange at h
  split at h
  case h_4 | h_5 =>
    obtain ⟨e, he, rfl⟩ := Option.map_eq_some_iff.mp h
    obtain ⟨rest, hstack⟩ := List.head?_eq_some_iff.mp he
    exact ⟨rfl, by simp only [Canvas.perform, hstack, List.tail_cons]⟩
  case h_9 => nomatch h
  all_goals
    obtain rfl := Option.some.inj h
    exact ⟨rfl, rfl⟩

/-- Register writes are given to the team of an index in a crew. -/
def State.giveTo (s : State) (crew team : Nat) (ws : List RegWrite) : State :=
  match ws, (s.crewTeams crew).find? (fun t => t.index == team) with
  | r :: rs, some t => s.modTeam t.key (fun t => (r :: rs).foldl Team.land t)
  | _, _ => s

theorem State.giveTo_of_some {s : State} {crew team : Nat} {ws : List RegWrite} {t : Team}
    (ht : (s.crewTeams crew).find? (fun t => t.index == team) = some t) (hws : ws ≠ []) :
    s.giveTo crew team ws = s.modTeam t.key (fun t => ws.foldl Team.land t) := by
  cases ws with
  | nil => exact absurd rfl hws
  | cons r rs => simp only [State.giveTo, ht]

section Step

variable {s : State} {q : CanvasInstr} {rest : List CanvasInstr} {c : Canvas} {mask : Nat} (hlive : s.crew.live = true)
include hlive

theorem State.crew?_self : s.crew? s.crew.key = some s.crew := if_pos ⟨hlive, rfl⟩

theorem State.canvasStep_of_idle (hq : s.crew.canvas.queue = []) : s.canvasStep s.crew.key = s := by
  rw [State.canvasStep, State.crew?_self hlive]
  simp only [hq]

variable (hq : s.crew.canvas.queue = q :: rest) (hc : c = { s.crew.canvas with queue := rest })
include hq hc

theorem State.canvasStep_of_plain (hmask : mask = ((s.ctx? s.crew.ctx).map (fun k => (k.regOn s.crew.core 6).toNat % 16)).getD 0)
    (hop : q.op.plain = true) : s.canvasStep s.crew.key = s.withCanvas (c.perform q.addr mask q.op) := by
  subst hc hmask
  rw [State.canvasStep, State.crew?_self hlive]
  simp only [hq, State.modCrew_self _ hlive rfl]
  cases h : q.op
  case load | store | rdla | rdl | xsum | xmap =>
    rw [h] at hop
    nomatch hop
  all_goals rfl

theorem State.canvasStep_of_load {d off : Nat} (hop : q.op = .load d off) :
    s.canvasStep s.crew.key = s.withCanvas (c.setCells d (s.regionWords s.crew q off)) := by
  subst hc
  rw [State.canvasStep, State.crew?_self hlive]
  simp only [hq, hop, State.modCrew_self _ hlive rfl]
  exact State.modCrew_self _ hlive rfl

theorem State.canvasStep_of_store {d off n : Nat} (hop : q.op = .store d off n) : s.canvasStep s.crew.key = { s with
    crew := (List.range 4096).foldl (fun (w : Crew) i =>
      w.write true q.team (some 0) s.tick (.tile off 64) (off + 4 * i) (leBytes 4 (c.cell d i).toNat)) { s.crew with canvas := c } } := by
  subst hc
  rw [State.canvasStep, State.crew?_self hlive]
  simp only [hq, hop, State.modCrew_self _ hlive rfl]
  exact State.modCrew_self _ hlive rfl

theorem State.canvasStep_of_rdla {op a : Nat} {cells : List (Nat × Nat)} {o : AsyncOp} (hop : q.op = .rdla op a cells) (ho : s.op? op = some o) :
    s.canvasStep s.crew.key = (s.withCanvas c).finishOp o (cells.map (fun e => ⟨false, e.2, c.cell a e.1, false, 0, none⟩)) none := by
  have ho' : (s.withCanvas c).op? op = some o := ho
  subst hc
  rw [State.canvasStep, State.crew?_self hlive]
  simp only [hq, hop, State.modCrew_self _ hlive rfl]
  split
  next hnone => nomatch ho'.symm.trans hnone
  next o' hsome =>
    obtain rfl : o = o' := Option.some.inj (ho'.symm.trans hsome)
    rfl

theorem State.canvasStep_of_gives {t : Team} (hgives : Claims.canvasGives c q.op ≠ [])
    (ht : (s.crewTeams s.crew.key).find? (fun t => t.index == q.team) = some t) :
    s.canvasStep s.crew.key = (s.withCanvas c).modTeam t.key (fun t => (Claims.canvasGives c q.op).foldl Team.land t) := by
  have hteam : ((s.withCanvas c).crewTeams s.crew.key).find? (fun t => t.index == q.team) = some t := ht
  refine Eq.trans ?_ (State.giveTo_of_some hteam hgives)
  subst hc
  rw [State.canvasStep, State.crew?_self hlive]
  simp only [hq, State.modCrew_self _ hlive rfl]
  cases hop : q.op
  case rdl | xsum | xmap => rfl
  all_goals exact absurd (by rw [hop]; rfl) hgives

end Step

/-- Settles O41: the canvas takes the oldest instruction and changes cells, enables, scratchpad, operation or registers as it says. -/
theorem canvasExecutesInOrder : Obligations.CanvasExecutesInOrder := by
  unfold Obligations.CanvasExecutesInOrder
  intro s q rest c mask hlive hregs hq hc hmask
  refine ⟨fun ds f hrule hnodup hds => ?_, fun c' hchange => ?_, fun d off hop => ?_, fun d off n hop => ?_, fun op a cells o hop ho => ?_,
    fun t hgives ht => ?_, fun t htlive hidle => ?_⟩
  · obtain ⟨hplain, hperform⟩ := perform_of_cellRule hrule q.addr mask
    obtain ⟨regs, counted, heach⟩ := Canvas.each_eq c q.addr mask ds f
    have hstep := (State.canvasStep_of_plain hlive hq hc hmask hplain).trans (congrArg s.withCanvas hperform)
    have hpend : (c.each q.addr mask ds f).pend = if c.hits f mask = 0 then c.pend else some (c.pend.getD q.addr) := by rw [heach]
    refine ⟨_, congrArg Host.Outcome.next hstep, cellsWritten_each c _ _ ds f (by rw [hc]; exact hregs) hnodup hds, ?_,
      fun ⟨i, hen, hland⟩ => ?_,
      fun hall => ?_, rfl, rfl, rfl, sameStores_of_fields rfl rfl rfl rfl rfl rfl rfl rfl rfl rfl rfl rfl⟩
    · exact (congrArg Canvas.queue heach).trans (by rw [hc])
    · exact hpend.trans (if_neg fun hzero => hland ((Canvas.hits_eq_zero_iff c mask f).mp hzero i hen))
    · exact hpend.trans (if_pos ((Canvas.hits_eq_zero_iff c mask f).mpr hall))
  · obtain ⟨hplain, hperform⟩ := perform_of_canvasChange hchange q.addr mask
    exact congrArg Host.Outcome.next ((State.canvasStep_of_plain hlive hq hc hmask hplain).trans (congrArg s.withCanvas hperform))
  · rw [exec, execCanvasExecute, State.canvasStep_of_load hlive hq hc hop, State.regionWords]
  · exact congrArg Host.Outcome.next (State.canvasStep_of_store hlive hq hc hop)
  · exact congrArg Host.Outcome.next (State.canvasStep_of_rdla hlive hq hc hop ho)
  · exact congrArg Host.Outcome.next (State.canvasStep_of_gives hlive hq hc hgives ht)
  · exact congrArg Host.Outcome.next (State.canvasStep_of_idle htlive hidle)

end Sys2Proof.Machine
end

section
/-! Records and bins: what a push comes to, REC.PUSH, REC.TRY and the host's PUSH area (R17, R304, R307 to R310, R340). -/

namespace Sys2Proof.Machine

/-! ## The clock in a release -/

@[simp] theorem State.reported_clock (s : State) (p n : Nat) : (s.reported p n).dev.clock = s.dev.clock := by
  unfold State.reported
  dsimp only
  split <;> rfl

@[simp] theorem State.fillL1_clock (s : State) (core team : Nat) (l : Loc) : (s.fillL1 core team l).dev.clock = s.dev.clock := by
  unfold State.fillL1
  split <;> simp

@[simp] theorem State.afterLoad_clock (s : State) (team ord core : Nat) (l : Loc) (n m : Nat) :
    (s.afterLoad team ord core l n m).dev.clock = s.dev.clock := by
  unfold State.afterLoad
  split
  · rfl
  · dsimp only
    rw [State.reported_clock]
    split <;> simp

@[simp] theorem State.atomicAt_clock (s : State) (x : AtomLane) : (s.atomicAt x).dev.clock = s.dev.clock := by
  unfold State.atomicAt
  dsimp only
  split <;> simp

@[simp] theorem State.engineSaw_clock (s : State) (k o a r n : Nat) : (s.engineSaw k o a r n).dev.clock = s.dev.clock := by
  simp [State.engineSaw]

@[simp] theorem State.landLane_clock (s : State) (o : AsyncOp) (l : LdaLane) : (s.landLane o l).dev.clock = s.dev.clock := by
  unfold State.landLane
  split
  · rfl
  · unfold State.landRead
    simp only [State.afterLoad_clock]
    repeat' split
    all_goals simp [State.landValue]

@[simp] theorem State.release_clock (s : State) : s.release.dev.clock = s.dev.clock := by
  have hland : s.loadsBack.dev.clock = s.dev.clock :=
    (State.foldl_keeps _ (·.dev.clock) (fun s (x : AsyncOp × LdaLane) => State.landLane_clock s x.1 x.2) _ _).trans
      (State.foldl_keeps State.atomicAt (·.dev.clock) State.atomicAt_clock _ s)
  rw [State.release, State.settleSc, State.settleScOf, State.drainTeam_dev, State.performScFor_dev, hland]

/-! ## Bins -/

theorem Context.enter_nodes (c : Context) (n : Nat) (r : Rec) : (c.enter n r).nodes = c.nodes := rfl

theorem Context.bin_modBin (c : Context) (n : Nat) (f : List Rec → List Rec) {m : Nat} (hm : m < c.nodes.length) :
    (c.modBin n f).bin m = if m = n then f (c.bin m) else c.bin m := by
  simp [Context.bin, Context.modBin, List.getD_eq_getElem?_getD, hm]

theorem Context.bin_enter (c : Context) (n : Nat) (r : Rec) {m : Nat} (hm : m < c.nodes.length) :
    (c.enter n r).bin m = if m = n then c.bin m ++ [r] else c.bin m := Context.bin_modBin c n _ hm

/-- The records of a push enter behind those of their nodes' bins, in order. -/
theorem Context.bin_enterAll (job : BitVec 16) (clock : Nat) (recs : List PushRec) (c : Context) {n : Nat} (hn : n < c.nodes.length) :
    (c.enterAll job clock recs).bin n = c.bin n ++ (recs.filter (fun r => r.node == n)).map (Claims.binRecord job clock) := by
  induction recs generalizing c with
  | nil => exact (List.append_nil _).symm
  | cons r recs ih =>
    have hrest := ih (c.enter r.node (Claims.binRecord job clock r)) hn
    rw [Context.bin_enter _ _ _ hn] at hrest
    refine Eq.trans hrest ?_
    by_cases h : n = r.node
    · rw [if_pos h, List.filter_cons_of_pos (by simp [h]), List.map_cons, List.append_assoc]
      rfl
    · rw [if_neg h, List.filter_cons_of_neg (by simp [Ne.symm h])]

/-! ## What a push comes to -/

section Decide

variable {c : Context} {job : BitVec 16} {recs : List PushRec}

/-- The records that a bin can hold, none where there is no node. -/
def Context.capOf (c : Context) (n : Nat) : Nat := (c.nodes[n]?.map (fun e => e.cap)).getD 0

theorem Context.capOf_of_node {n : Nat} {e : Node} (he : c.nodes[n]? = some e) : c.capOf n = e.cap := by rw [Context.capOf, he]; rfl

/-- Some bin can never hold the records that a push has for it. -/
def Context.tooMany (c : Context) (recs : List PushRec) : Bool :=
  (pushNodes recs).any (fun n => decide (c.capOf n < recs.countP (fun r => r.node == n)))

/-- The nodes whose bins lack room. -/
def Context.short (c : Context) (recs : List PushRec) : List Nat :=
  (pushNodes recs).filter (fun n => decide (c.capOf n < (c.bin n).length + recs.countP (fun r => r.node == n)))

theorem Context.decidePush_of_tooMany (h : c.tooMany recs = true) : c.decidePush job recs = .bad := if_pos h

theorem Context.tooMany_of_neverFits (h : Claims.NeverFits c recs) : c.tooMany recs = true := by
  obtain ⟨n, hn, e, he, hcap⟩ := h
  exact List.any_eq_true.mpr ⟨n, hn, decide_eq_true (Context.capOf_of_node he ▸ hcap)⟩

theorem Context.not_tooMany_of_canFit (h : Claims.CanFit c recs) : ¬ c.tooMany recs = true := by
  intro hmany
  obtain ⟨n, hn, hcap⟩ := List.any_eq_true.mp hmany
  obtain ⟨e, he, hfit⟩ := h n hn
  have hcap := of_decide_eq_true hcap
  rw [Context.capOf_of_node he] at hcap
  omega

theorem Context.canFit_of_roomFor (h : Claims.RoomFor c recs) : Claims.CanFit c recs := fun n hn =>
  let ⟨e, he, hfit⟩ := h n hn
  ⟨e, he, by omega⟩

/-- Some node that a push names has a flag. -/
theorem Context.any_flag_iff {f : Node → Bool} : (pushNodes recs).any (fun n => (c.nodes[n]?.map f).getD false) = true ↔ Claims.NodeHas c recs f := by
  rw [List.any_eq_true, Claims.NodeHas]
  refine exists_congr fun n => and_congr_right fun _ => ?_
  cases c.nodes[n]? <;> simp

section Fits

variable (hfit : Claims.CanFit c recs)
include hfit

theorem Context.decidePush_of_cancelled (hcancel : c.isCancelled job.toNat = true) :
    c.decidePush job recs = if (pushNodes recs).any (fun n => (c.nodes[n]?.map (fun e => e.cancelTrap)).getD false) then .cancelTrap
      else .cancelled :=
  (if_neg (Context.not_tooMany_of_canFit hfit)).trans (if_pos hcancel)

theorem Context.decidePush_of_cancelTrap (hcancel : c.isCancelled job.toNat = true) (h : Claims.NodeHas c recs (fun e => e.cancelTrap)) :
    c.decidePush job recs = .cancelTrap :=
  (Context.decidePush_of_cancelled hfit hcancel).trans (if_pos (Context.any_flag_iff.mpr h))

theorem Context.decidePush_of_no_cancelTrap (hcancel : c.isCancelled job.toNat = true) (h : ¬ Claims.NodeHas c recs (fun e => e.cancelTrap)) :
    c.decidePush job recs = .cancelled :=
  (Context.decidePush_of_cancelled hfit hcancel).trans (if_neg (mt Context.any_flag_iff.mp h))

theorem Context.mem_short {n : Nat} : n ∈ c.short recs ↔ Claims.ShortOf c recs n := by
  rw [Context.short, List.mem_filter, Claims.ShortOf]
  refine and_congr_right fun hn => ?_
  obtain ⟨e, he, -⟩ := hfit n hn
  rw [decide_eq_true_iff, Context.capOf_of_node he]
  exact ⟨fun h => ⟨e, he, h⟩, fun ⟨x, hx, h⟩ => Option.some.inj (he.symm.trans hx) ▸ h⟩

variable (hlive : c.isCancelled job.toNat = false)
include hlive

theorem Context.decidePush_of_short (hshort : c.short recs ≠ []) : c.decidePush job recs =
    match (c.short recs).filter (fun n => (c.nodes[n]?.map (fun e => e.fullTrap)).getD false) with
    | [] => .full
    | n :: rest => .fullTrap (rest.foldl Nat.min n) :=
  (if_neg (Context.not_tooMany_of_canFit hfit)).trans ((if_neg (by rw [hlive]; decide)).trans (if_neg hshort))

end Fits

theorem Context.decidePush_of_roomFor (hroom : Claims.RoomFor c recs) (hlive : c.isCancelled job.toNat = false) :
    c.decidePush job recs = .enters := by
  have hfit := Context.canFit_of_roomFor hroom
  have hnil : c.short recs = [] := List.filter_eq_nil_iff.mpr fun n hn => by
    obtain ⟨e, he, hle⟩ := hroom n hn
    rw [decide_eq_true_iff, Context.capOf_of_node he]
    omega
  exact (if_neg (Context.not_tooMany_of_canFit hfit)).trans ((if_neg (by rw [hlive]; decide)).trans (if_pos hnil))

end Decide

theorem ne_nil_of_mem_pushNodes {recs : List PushRec} {n : Nat} (hn : n ∈ pushNodes recs) : recs ≠ [] := by
  rintro rfl
  nomatch hn

/-- The least of a list, from a start. -/
theorem foldl_min_eq {n : Nat} (rest : List Nat) {m : Nat} (hn : n ∈ m :: rest) (hmin : ∀ k ∈ m :: rest, n ≤ k) : rest.foldl Nat.min m = n := by
  induction rest generalizing m with
  | nil => exact (List.mem_singleton.mp hn).symm
  | cons k rest ih =>
    have hm : n ≤ m := hmin m List.mem_cons_self
    have hk : n ≤ k := hmin k (List.mem_cons_of_mem _ List.mem_cons_self)
    refine ih (m := Nat.min m k) ?_ fun x hx => ?_
    · rcases List.mem_cons.mp hn with rfl | hn
      · exact List.mem_cons.mpr (.inl (Nat.min_eq_left hk).symm)
      · rcases List.mem_cons.mp hn with rfl | hn
        · exact List.mem_cons.mpr (.inl (Nat.min_eq_right hm).symm)
        · exact List.mem_cons_of_mem _ hn
    · rcases List.mem_cons.mp hx with rfl | hx
      · exact Nat.le_min.mpr ⟨hm, hk⟩
      · exact hmin x (List.mem_cons_of_mem _ (List.mem_cons_of_mem _ hx))

/-! ## REC.PUSH and REC.TRY -/

section Push

variable {s : State} {b : Bool} {d : BitVec 6} {a c : BitVec 7} {u : Team} {recs : List PushRec} (hu : u = s.team.belay b)
  (hok : s.team.namesOk [a.toNat, c.toNat] = true) (hrecs : u.laneRecords s.ctx.nodes a.toNat c.toNat = some recs)

/-- What REC.PUSH does with its records (R309). -/
def State.pushFate (s : State) (u : Team) (b : Bool) (a c : BitVec 7) (recs : List PushRec) : PushFate → State
  | .bad => s.illegal (.recPush b a c)
  | .cancelTrap => s.trapHere 0x10 (s.crew.job.zeroExtend 64)
  | .cancelled => s.withTeam (u.advance 1)
  | .enters => ((s.withTeam u).pushRecords recs).withTeam (((s.withTeam u).pushRecords recs).team.advance 1)
  | .fullTrap n => s.trapHere 0x0F (BitVec.ofNat 64 (n % 65536))
  | .full => s.withTeam { u with state := .parked, park := .fullBin recs }

/-- What REC.TRY does with its records (R309, R340). -/
def State.tryFate (s : State) (u : Team) (b : Bool) (d : BitVec 6) (a c : BitVec 7) (recs : List PushRec) : PushFate → State
  | .bad => s.illegal (.recTry b d a c)
  | .cancelTrap => s.withTeam ((u.tryStatus d.toNat 2).advance 1)
  | .cancelled => s.withTeam ((u.tryStatus d.toNat 2).advance 1)
  | .enters => ((s.withTeam u).pushRecords recs).withTeam ((((s.withTeam u).pushRecords recs).team.tryStatus d.toNat 0).advance 1)
  | .fullTrap _ => s.withTeam ((u.tryStatus d.toNat 1).advance 1)
  | .full => s.withTeam ((u.tryStatus d.toNat 1).advance 1)

include hu hok hrecs

theorem execRecPush_of_none (hnone : recs = []) : execRecPush b a c s = .next (s.withTeam (u.advance 1)) := by
  subst hu
  rw [execRecPush]
  simp only [Team.belay_namesOk, hok, hrecs, hnone, Bool.not_true, Bool.false_eq_true, if_false, if_true]

theorem execRecTry_of_none (hnone : recs = []) : execRecTry b d a c s = .next (s.withTeam ((u.tryStatus d.toNat 0).advance 1)) := by
  subst hu
  rw [execRecTry]
  simp only [Team.belay_namesOk, hok, hrecs, hnone, Bool.not_true, Bool.false_eq_true, if_false, if_true]

variable (hsome : recs ≠ [])
include hsome

theorem execRecPush_of_fate {fate : PushFate} (hfate : s.ctx.decidePush s.crew.job recs = fate) :
    execRecPush b a c s = .next (s.pushFate u b a c recs fate) := by
  subst hu
  rw [execRecPush]
  simp only [Team.belay_namesOk, hok, hrecs, hsome, hfate, Bool.not_true, Bool.false_eq_true, if_false]
  cases fate <;> rfl

theorem execRecTry_of_fate {fate : PushFate} (hfate : s.ctx.decidePush s.crew.job recs = fate) :
    execRecTry b d a c s = .next (s.tryFate u b d a c recs fate) := by
  subst hu
  rw [execRecTry]
  simp only [Team.belay_namesOk, hok, hrecs, hsome, hfate, Bool.not_true, Bool.false_eq_true, if_false]
  cases fate <;> rfl

end Push

/-- A release leaves the bins, the job and the clock with which a push enters. -/
theorem State.pushRecords_of_release (s : State) (u : Team) (recs : List PushRec) :
    (s.withTeam u).pushRecords recs =
      { (s.withTeam u).release with ctx := s.ctx.enterAll s.crew.job s.dev.clock recs } := by
  have hsame := samePackage_release (s.withTeam u)
  rw [State.pushRecords]
  simp only [hsame.ctx, hsame.crew, State.release_clock, State.withTeam_ctx, State.withTeam_crew, State.withTeam_dev]

/-- The nodes of a push whose bins lack room and that have the .full-trap flag. -/
theorem Context.mem_short_fullTrap {c : Context} {recs : List PushRec} (hfit : Claims.CanFit c recs) {n : Nat} :
    n ∈ (c.short recs).filter (fun n => (c.nodes[n]?.map (fun e => e.fullTrap)).getD false) ↔
      Claims.ShortOf c recs n ∧ ∃ e, c.nodes[n]? = some e ∧ e.fullTrap = true := by
  rw [List.mem_filter, Context.mem_short hfit]
  refine and_congr_right fun _ => ?_
  cases c.nodes[n]? <;> simp

section Short

variable {c : Context} {job : BitVec 16} {recs : List PushRec} (hfit : Claims.CanFit c recs) (hlive : c.isCancelled job.toNat = false)
include hfit hlive

theorem Context.decidePush_of_full (hshort : ∃ n, Claims.ShortOf c recs n)
    (hno : ∀ n e, Claims.ShortOf c recs n → c.nodes[n]? = some e → e.fullTrap = false) : c.decidePush job recs = .full := by
  obtain ⟨n, hn⟩ := hshort
  have hnil : (c.short recs).filter (fun n => (c.nodes[n]?.map (fun e => e.fullTrap)).getD false) = [] := by
    refine List.eq_nil_iff_forall_not_mem.mpr fun m hm => ?_
    obtain ⟨hshort, e, he, htrap⟩ := (Context.mem_short_fullTrap hfit).mp hm
    rw [hno m e hshort he] at htrap
    nomatch htrap
  rw [Context.decidePush_of_short hfit hlive (List.ne_nil_of_mem ((Context.mem_short hfit).mpr hn)), hnil]

theorem Context.decidePush_of_fullTrap {n : Nat} {e : Node} (hn : Claims.ShortOf c recs n) (he : c.nodes[n]? = some e) (htrap : e.fullTrap = true)
    (hmin : ∀ m f, Claims.ShortOf c recs m → c.nodes[m]? = some f → f.fullTrap = true → n ≤ m) : c.decidePush job recs = .fullTrap n := by
  have hmem := (Context.mem_short_fullTrap hfit).mpr ⟨hn, e, he, htrap⟩
  have hle : ∀ m ∈ (c.short recs).filter (fun n => (c.nodes[n]?.map (fun e => e.fullTrap)).getD false), n ≤ m := fun m hm =>
    let ⟨hshort, f, hf, hft⟩ := (Context.mem_short_fullTrap hfit).mp hm
    hmin m f hshort hf hft
  rw [Context.decidePush_of_short hfit hlive (List.ne_nil_of_mem ((Context.mem_short hfit).mpr hn))]
  revert hmem hle
  generalize (c.short recs).filter (fun n => (c.nodes[n]?.map (fun e => e.fullTrap)).getD false) = l
  cases l with
  | nil => exact fun hmem => nomatch hmem
  | cons m rest => exact fun hmem hle => congrArg PushFate.fullTrap (foldl_min_eq rest hmem hle)

/-- A push that finds a bin too full parks or takes cause 0x0F. -/
theorem Context.decidePush_short (hshort : ∃ n, Claims.ShortOf c recs n) :
    c.decidePush job recs = .full ∨ ∃ n, c.decidePush job recs = .fullTrap n := by
  obtain ⟨n, hn⟩ := hshort
  rw [Context.decidePush_of_short hfit hlive (List.ne_nil_of_mem ((Context.mem_short hfit).mpr hn))]
  generalize (c.short recs).filter (fun n => (c.nodes[n]?.map (fun e => e.fullTrap)).getD false) = l
  cases l with
  | nil => exact .inl rfl
  | cons m rest => exact .inr ⟨_, rfl⟩

end Short

/-! ## The host's PUSH area -/

section HostPush

variable {s : State} {ctx off : Nat} {bytes : List Byte} {k : Context} (hk : s.ctx? ctx = some k)
include hk

theorem execPush_of_terminated (h : k.state = .terminated) :
    execPush ctx off bytes s = .next (s.modCtx ctx (fun x => { x with dropped := x.dropped + 1 })) := by
  rw [execPush, hk]
  exact if_pos h

variable (hstate : k.state ≠ .terminated)
include hstate

theorem execPush_of_ok {node job : Nat} {e : Node} (hpush : Claims.PushOk k off bytes node job e) : execPush ctx off bytes s =
    if k.isCancelled job then .next (s.modCtx ctx (fun x => { x with dropped := x.dropped + 1 }))
    else if e.cap ≤ (k.bin node).length then .next (s.modCtx ctx (fun x => { x with refused := x.refused + 1 }))
    else .next (s.modCtx ctx (fun x => x.enter node
      { job := BitVec.ofNat 16 job, words := (List.range e.recWords).map (fun i => BitVec.ofNat 32 (ofLeBytes ((bytes.drop (16 + 4 * i)).take 4))),
        entered := s.dev.clock, castOff := false, handle := none, converted := false })) := by
  obtain ⟨hoff, rfl, rfl, hjob, hnode, hlen, hzero⟩ := hpush
  rw [execPush, hk]
  simp only [if_neg hstate, hnode]
  exact if_neg (by simp [hoff, hlen, hjob, hzero])

theorem execPush_of_not_ok (hpush : ∀ node job e, ¬ Claims.PushOk k off bytes node job e) :
    execPush ctx off bytes s = .next (s.modCtx ctx (fun x => { x with refused := x.refused + 1 })) := by
  rw [execPush, hk]
  simp only [if_neg hstate]
  cases hnode : k.nodes[ofLeBytes (bytes.take 2)]? with
  | none => rfl
  | some e =>
    refine if_pos ?_
    by_contra hgood
    simp only [not_or, not_not, ne_eq] at hgood
    obtain ⟨hoff, hlen, hjob, hzero⟩ := hgood
    exact hpush _ _ e ⟨hoff, rfl, rfl, hjob, hnode, hlen, hzero⟩

end HostPush

/-- Settles O48: the decision of a push clause by clause, what it leaves, and the host's pushes. -/
theorem recordsEnterTheirBins : Obligations.RecordsEnterTheirBins := by
  unfold Obligations.RecordsEnterTheirBins
  intro s b d a c u r recs hu hr
  have hsome (h : ∃ n, Claims.ShortOf s.ctx recs n) : recs ≠ [] :=
    let ⟨_, hn, _⟩ := h
    ne_nil_of_mem_pushNodes hn
  refine ⟨fun hok hrecs => ⟨execRecPush_of_none hu hok hrecs, fun hlive hroom hsome => ?_, execRecTry_of_none hu hok hrecs, fun hnever => ?_,
    fun hfit hcancel => ⟨fun htrap => ?_, fun htrap => ?_, fun hsome => ?_⟩, fun hfit hlive hshort => ⟨fun hno => ?_, ?_, ?_⟩⟩,
    fun k job clock n hn => Context.bin_enterAll job clock recs k hn, fun ctx off bytes k hk => ⟨fun h => execPush_of_terminated hk h,
      fun hstate => ⟨fun node job e hpush => ?_, fun hpush => execPush_of_not_ok hk hstate hpush⟩⟩, fun ctx off bytes => rfl⟩
  · have hfate := Context.decidePush_of_roomFor hroom hlive
    have hpush := State.pushRecords_of_release s u recs
    have hsame := samePackage_release (s.withTeam u)
    rw [← hr] at hpush hsame
    refine ⟨⟨_, execRecPush_of_fate hu hok hrecs hsome hfate, ?_⟩, ⟨_, execRecTry_of_fate hu hok hrecs hsome hfate, ?_⟩⟩
    · simp only [State.pushFate, hpush]
      exact ⟨rfl, hsame.crew, rfl, rfl⟩
    · simp only [State.tryFate, hpush]
      exact ⟨rfl, hsame.crew, rfl, rfl⟩
  · obtain ⟨n, hn, -⟩ := id hnever
    have hsome : recs ≠ [] := ne_nil_of_mem_pushNodes hn
    have hfate : s.ctx.decidePush s.crew.job recs = .bad := Context.decidePush_of_tooMany (Context.tooMany_of_neverFits hnever)
    exact ⟨execRecPush_of_fate hu hok hrecs hsome hfate, execRecTry_of_fate hu hok hrecs hsome hfate⟩
  · obtain ⟨n, hn, -⟩ := id htrap
    exact execRecPush_of_fate hu hok hrecs (ne_nil_of_mem_pushNodes hn) (Context.decidePush_of_cancelTrap hfit hcancel htrap)
  · by_cases hsome : recs = []
    · exact execRecPush_of_none hu hok hrecs hsome
    · exact execRecPush_of_fate hu hok hrecs hsome (Context.decidePush_of_no_cancelTrap hfit hcancel htrap)
  · by_cases htrap : Claims.NodeHas s.ctx recs (fun e => e.cancelTrap)
    · exact execRecTry_of_fate hu hok hrecs hsome (Context.decidePush_of_cancelTrap hfit hcancel htrap)
    · exact execRecTry_of_fate hu hok hrecs hsome (Context.decidePush_of_no_cancelTrap hfit hcancel htrap)
  · exact execRecPush_of_fate hu hok hrecs (hsome hshort) (Context.decidePush_of_full hfit hlive hshort hno)
  · exact fun n e hn he htrap hmin => execRecPush_of_fate hu hok hrecs (hsome hshort) (Context.decidePush_of_fullTrap hfit hlive hn he htrap hmin)
  · rcases Context.decidePush_short hfit hlive hshort with hfate | ⟨n, hfate⟩
    · exact execRecTry_of_fate hu hok hrecs (hsome hshort) hfate
    · exact execRecTry_of_fate hu hok hrecs (hsome hshort) hfate
  · have hexec := execPush_of_ok hk hstate hpush
    refine ⟨fun hcancel => hexec.trans (if_pos hcancel), fun hlive hfull => hexec.trans ?_, fun hlive hroom => hexec.trans ?_⟩
    · exact (if_neg (by rw [hlive]; decide)).trans (if_pos hfull)
    · exact (if_neg (by rw [hlive]; decide)).trans (if_neg (Nat.not_le.mpr hroom))

end Sys2Proof.Machine
end

section
/-! CPY, CPY2D, CPY.T and a copy with FOLLOW at issue (R86, R88, R206, R207, R209, R219 to R224, R228). -/

namespace Sys2Proof.Machine

/-! ## Engine forms, headers and operations -/

section EngineForm

variable {s : State} {t : Team} {len : Nat} {body : State → Out}

theorem engineForm_of_empty (h : t.active = []) : engineForm s t len body = .next (s.withTeam (t.advance len)) := if_pos h

theorem engineForm_of_active (h : t.active ≠ []) : engineForm s t len body = body (s.withTeam t) := if_neg h

end EngineForm

section WithHeader

variable {s s1 : State} {va : Nat} {body : State → Loc → List Byte → Out} {l : Loc} {h : List Byte}

theorem withHeader_of_misaligned (hva : va % 64 ≠ 0) : withHeader s va body = .next (s.vaTrap 0x03 0 va) := if_pos hva

variable (hva : va % 64 = 0) (hreach : s.reach [(va, .read)] = .ok [l]) (hread : s.readHeader l = (s1, h))
include hva hreach hread

theorem withHeader_of_fault {off : Nat} (hfault : headerFault h = some off) : withHeader s va body = .next (s1.trapHere 0x24 (malformed 2 off)) := by
  simp only [withHeader, hva, ne_eq, not_true, if_false, hreach, List.headD_cons, hread, hfault]

theorem withHeader_of_good (hgood : headerFault h = none) : withHeader s va body = body s1 l h := by
  simp only [withHeader, hva, ne_eq, not_true, if_false, hreach, List.headD_cons, hread, hgood]

end WithHeader

/-- An operation that joins the open batch, whose pages are then used, and the team that goes on. -/
theorem joins_touchUnits (r : State) (work : OpWork) (quota len : Nat) (acq : Bool) (vas : List Nat) :
    Claims.Joins r (((r.addOp work quota acq).touchUnits vas).withTeam (((r.addOp work quota acq).touchUnits vas).team.advance len))
      work quota len acq := by
  unfold Claims.Joins
  simp only [State.withTeam_ops, State.withTeam_team, State.withTeam_crew, State.withTeam_ctx, State.withTeam_mem, State.withTeam_nextKey,
    State.withTeam_weights, State.withTeam_scStores, State.withTeam_teams, State.touchUnits_ops, State.touchUnits_team, State.touchUnits_crew,
    State.touchUnits_ctx, State.touchUnits_mem, State.touchUnits_nextKey, State.touchUnits_weights, State.touchUnits_scStores,
    State.touchUnits_teams]
  exact ⟨rfl, rfl, rfl, rfl, rfl, rfl, rfl, rfl, rfl⟩

/-! ## The operand checks of copies -/

section Plans

variable {s : State} {i : Instr}

theorem misaligned16_eq_none {vs : List Nat} (h : ∀ v ∈ vs, v % 16 = 0) : misaligned16 vs = none :=
  List.find?_eq_none.mpr fun v hv => by simp [h v hv]

theorem State.cpyPlan_of_misaligned {d a c v : Nat}
    (h : misaligned16 [(s.team.srd64 d).toNat, (s.team.srd a).toNat, (s.team.srd c).toNat] = some v) :
    s.cpyPlan i d a c = .error (s.vaTrap 0x03 0 v) := by
  simp only [State.cpyPlan, h]

section Aligned

variable {d a c : Nat} (hga : (s.team.srd64 d).toNat % 16 = 0) (hso : (s.team.srd a).toNat % 16 = 0) (hn : (s.team.srd c).toNat % 16 = 0)
include hga hso hn

theorem State.cpyPlan_of_aligned : s.cpyPlan i d a c =
    if 1048576 < (s.team.srd c).toNat then .error (s.illegal i)
    else if s.crew.spadSize < (s.team.srd a).toNat + (s.team.srd c).toNat then .error (s.vaTrap 0x05 0 (s.team.srd a).toNat)
    else .ok (.plain (rowUnits (s.team.srd64 d).toNat (s.team.srd a).toNat (s.team.srd c).toNat)) := by
  have hnone : misaligned16 [(s.team.srd64 d).toNat, (s.team.srd a).toNat, (s.team.srd c).toNat] = none :=
    misaligned16_eq_none fun v hv => by
      simp only [List.mem_cons, List.not_mem_nil, or_false] at hv
      rcases hv with rfl | rfl | rfl <;> assumption
  simp only [State.cpyPlan, hnone]

end Aligned

theorem State.cpyPlan_of_planned {out : Bool} {d a c : Nat} {r1 : State} {p : CopyPlan} (h : Claims.Planned s out 0 d a c r1 p) :
    s.cpyPlan i d a c = .ok p ∧ r1 = s := by
  obtain ⟨hr1, ⟨hga, hso, hn, hlen, hsize⟩, hp⟩ := h
  refine ⟨?_, hr1⟩
  rw [State.cpyPlan_of_aligned hga hso hn, if_neg (Nat.not_lt.mpr hlen), if_neg (Nat.not_lt.mpr hsize), hp]
  rfl

theorem State.cpy2dPlan_of_planned {out : Bool} {d a c : Nat} {r1 : State} {p : CopyPlan} (h : Claims.Planned s out 1 d a c r1 p) :
    s.cpy2dPlan i out d a c = .ok p ∧ r1 = s := by
  obtain ⟨hr1, ⟨hga, hso, hlen, hgs, hss, hrows, hmax, htotal, hin, hout, hsize⟩, hp⟩ := h
  have hnone : misaligned16 [(s.team.srd64 d).toNat, (s.team.srd a).toNat, (s.team.srd c).toNat, (s.team.srd (c + 2)).toNat,
      (s.team.srd (c + 3)).toNat] = none :=
    misaligned16_eq_none fun v hv => by
      simp only [List.mem_cons, List.not_mem_nil, or_false] at hv
      rcases hv with rfl | rfl | rfl | rfl | rfl <;> assumption
  have hsizes : ¬(4096 < (s.team.srd (c + 1)).toNat ∨ 65536 < (s.team.srd c).toNat
      ∨ 1048576 < (s.team.srd c).toNat * (s.team.srd (c + 1)).toNat ∨ (out = false ∧ (s.team.srd (c + 3)).toNat < (s.team.srd c).toNat)
      ∨ (out = true ∧ (s.team.srd (c + 2)).toNat < (s.team.srd c).toNat)) := by
    rintro (h | h | h | ⟨ho, h⟩ | ⟨ho, h⟩)
    · exact absurd hrows (Nat.not_le.mpr h)
    · exact absurd hmax (Nat.not_le.mpr h)
    · exact absurd htotal (Nat.not_le.mpr h)
    · exact absurd (hin ho) (Nat.not_le.mpr h)
    · exact absurd (hout ho) (Nat.not_le.mpr h)
  have hfit : ¬(0 < (s.team.srd (c + 1)).toNat ∧ s.crew.spadSize < (s.team.srd a).toNat
      + ((s.team.srd (c + 1)).toNat - 1) * (s.team.srd (c + 3)).toNat + (s.team.srd c).toNat) :=
    fun ⟨hpos, hlt⟩ => hsize.elim (fun hzero => absurd hzero (Nat.ne_of_gt hpos)) (fun hle => absurd hle (Nat.not_le.mpr hlt))
  refine ⟨?_, hr1⟩
  simp only [State.cpy2dPlan, hnone, if_neg hsizes, if_neg hfit, hp]
  rfl

theorem State.cpyTPlan_of_misaligned {out : Bool} {d a : Nat} (h : (s.team.srd64 d).toNat % 64 ≠ 0) :
    s.cpyTPlan out d a = .error (s.vaTrap 0x03 0 (s.team.srd64 d).toNat) := if_pos h

section Header

variable {out : Bool} {d a : Nat} {e : Tile} {l : Loc} {r1 : State} {h : List Byte} (hva : (s.team.srd64 d).toNat % 64 = 0)
  (he : s.crew.regionAt (s.team.srd a).toNat = some e) (hreach : s.reach [((s.team.srd64 d).toNat, .read)] = .ok [l])
  (hread : s.readHeader l = (r1, h))
include hva he hreach hread

theorem State.cpyTPlan_of_fault {off : Nat} (hfault : headerFault h = some off) :
    s.cpyTPlan out d a = .error (r1.trapHere 0x24 (malformed 2 off)) := by
  simp only [State.cpyTPlan, hva, ne_eq, not_true, if_false, he, hreach, List.headD_cons, hread, hfault]

end Header

theorem State.cpyTPlan_of_planned {out : Bool} {k d a c : Nat} {r1 : State} {p : CopyPlan} (h : Claims.Planned s out (k + 2) d a c r1 p) :
    s.cpyTPlan out d a = .ok (r1, p) := by
  obtain ⟨e, h, w, he, ⟨l, hva, hreach, hread, hgood⟩, ⟨hbits, hwhole, hwidth, hrows⟩, hp⟩ := h
  have hfits : ¬(fieldAt h 10 2 * w % 128 ≠ 0 ∨ 4 * e.width < fieldAt h 10 2 * w / 8 ∨ e.rows < fieldAt h 8 2) := by omega
  simp only [State.cpyTPlan, hva, ne_eq, not_true, if_false, he, hreach, List.headD_cons, hread, hgood, hbits]
  rw [if_neg hfits, hp]
  rfl

theorem State.followPlan_of_planned {kind d a c : Nat} {r1 : State} {p : CopyPlan} (h : Claims.Planned s false kind d a c r1 p) :
    s.followPlan i kind d a c = .ok (r1, p) := by
  match kind, h with
  | 0, h =>
    obtain ⟨hplan, hr1⟩ := State.cpyPlan_of_planned (i := i) h
    rw [State.followPlan, hplan, hr1]
    rfl
  | 1, h =>
    obtain ⟨hplan, hr1⟩ := State.cpy2dPlan_of_planned (i := i) h
    rw [State.followPlan, hplan, hr1]
    rfl
  | k + 2, h =>
    have hplan := State.cpyTPlan_of_planned h
    rw [← hplan]
    rfl

end Plans

/-! ## The issue of a checked copy -/

section Issue

variable {r q : State} {out rel : Bool} {sw len : Nat} {p : CopyPlan} {follow : Option MmaArgs} {locs : List Loc}
  (hreach : r.reach (Claims.unitAccesses out p.units ++ p.head) = .ok locs)
include hreach

theorem State.issueCopy_of_full (hfull : 64 ≤ r.copyQueue r.home) : r.issueCopy out rel sw len p follow = r.waits := by
  have hreach' : r.reach (p.units.map (fun u => (u.1, if out then Access.write else .read)) ++ p.head) = .ok locs := hreach
  simp only [State.issueCopy, hreach', if_pos hfull]

theorem State.joins_issueCopy (hroom : r.copyQueue r.home < 64)
    (hq : q = r.settleOver ((Claims.placedUnits p.units locs).flatMap (fun x => x.loc.span 16))) :
    Claims.Joins (if out && rel then q.fenceDev else q) (r.issueCopy out rel sw len p follow)
      (.copy out (Claims.placedUnits p.units locs) sw p.tile (Claims.tagMoved out p locs) follow) 0 len (!out && rel) := by
  have hreach' : r.reach (p.units.map (fun u => (u.1, if out then Access.write else .read)) ++ p.head) = .ok locs := hreach
  simp only [State.issueCopy, hreach', if_neg (Nat.not_le.mpr hroom)]
  subst hq
  exact joins_touchUnits _ _ _ _ _ _

end Issue

/-! ## The forms -/

section Forms

variable {s : State} {b dir ord : Bool} {d a c : BitVec 6} {sw : BitVec 3}

/-- CPY, CPY2D and CPY.T by their numbers. -/
def copyForms (b : Bool) (d a c : BitVec 6) (dir ord : Bool) (sw : BitVec 3) : List (Nat × Instr) :=
  [(0, .cpy b d a c dir ord sw), (1, .cpy2d b d a c dir ord sw), (2, .cpyT b d a c dir ord sw)]

theorem exec_copyForms_of_empty {i : Instr} (hempty : (s.team.belay b).active = [])
    (hi : i ∈ [Instr.cpy b d a c dir ord sw, .cpy2d b d a c dir ord sw, .cpyT b d a c dir ord sw]) :
    exec i s = .next (s.withTeam ((s.team.belay b).advance 2)) := by
  simp only [List.mem_cons, List.not_mem_nil, or_false] at hi
  rcases hi with rfl | rfl | rfl
  · rw [exec, execCpy, engineForm_of_empty hempty]
  · rw [exec, execCpy2d, engineForm_of_empty hempty]
  · rw [exec, execCpyT, engineForm_of_empty hempty]

/-- A copy whose operands meet their rules issues. -/
theorem exec_copyForms_of_planned {k : Nat} {i : Instr} (hactive : (s.team.belay b).active ≠ []) (hi : (k, i) ∈ copyForms b d a c dir ord sw)
    {r1 : State} {p : CopyPlan} (hplan : Claims.Planned (s.withTeam (s.team.belay b)) dir k d.toNat a.toNat c.toNat r1 p) :
    exec i s = .next (r1.issueCopy dir ord (if k = 2 then 0 else sw.toNat) 2 p none) := by
  simp only [copyForms, List.mem_cons, List.not_mem_nil, or_false, Prod.mk.injEq] at hi
  rcases hi with ⟨rfl, rfl⟩ | ⟨rfl, rfl⟩ | ⟨rfl, rfl⟩
  · obtain ⟨hok, hr1⟩ := State.cpyPlan_of_planned (i := .cpy b d a c dir ord sw) hplan
    rw [exec, execCpy, engineForm_of_active hactive]
    simp only [hok, hr1]
    rfl
  · obtain ⟨hok, hr1⟩ := State.cpy2dPlan_of_planned (i := .cpy2d b d a c dir ord sw) hplan
    rw [exec, execCpy2d, engineForm_of_active hactive]
    simp only [hok, hr1]
    rfl
  · have hok := State.cpyTPlan_of_planned hplan
    rw [exec, execCpyT, engineForm_of_active hactive]
    simp only [hok]
    rfl

theorem exec_cpy_of_error (hactive : (s.team.belay b).active ≠ []) {t : State}
    (hplan : (s.withTeam (s.team.belay b)).cpyPlan (.cpy b d a c dir ord sw) d.toNat a.toNat c.toNat = .error t) :
    exec (.cpy b d a c dir ord sw) s = .next t := by
  rw [exec, execCpy, engineForm_of_active hactive]
  simp only [hplan]

theorem exec_cpyT_of_error (hactive : (s.team.belay b).active ≠ []) {t : State}
    (hplan : (s.withTeam (s.team.belay b)).cpyTPlan dir d.toNat a.toNat = .error t) : exec (.cpyT b d a c dir ord sw) s = .next t := by
  rw [exec, execCpyT, engineForm_of_active hactive]
  simp only [hplan]

end Forms

/-! ## A copy with FOLLOW -/

theorem State.slotFault_eq_none {s : State} {a : Nat} (haligned : a % 16384 = 0) (hinside : a < 16384 * s.crew.accSlots) : s.slotFault a = none := by
  simp only [State.slotFault, haligned, ne_eq, not_true, if_false, if_neg (Nat.not_le.mpr hinside)]

theorem State.mmaCheck_of_ok {s : State} {m : MmaArgs} {fb : FmtBlock} (h : Claims.MmaOk s m fb) : s.mmaCheck m = .ok fb := by
  obtain ⟨hao, hbo, hacc, hslot, hrec, hblock⟩ := h
  simp only [State.mmaCheck, hao, hbo, ne_eq, not_true, if_false, State.slotFault_eq_none hacc hslot, if_neg (Nat.not_lt.mpr hrec), hblock]

section Follow

variable {s : State} {b b2 : Bool} {kind : BitVec 2} {d a c : BitVec 6} {ord : Bool} {sw : BitVec 3} {sp : Bool} {md ma mc : BitVec 7}
  {da db : Bool} {kg : BitVec 6} {fbr : BitVec 15} (hok : s.team.namesOk [md.toNat, ma.toNat, mc.toNat] = true)
include hok

theorem execCpyFollowMma_of_empty (hempty : (s.team.belay (b || b2)).active = []) :
    execCpyFollowMma b b2 kind d a c ord sw sp md ma mc da db kg fbr s = .next (s.withTeam ((s.team.belay (b || b2)).advance 4)) := by
  rw [execCpyFollowMma]
  simp only [hok, Bool.not_true, Bool.false_eq_true, if_false]
  exact engineForm_of_empty hempty

theorem execCpyFollowMma_of_planned (hactive : (s.team.belay (b || b2)).active ≠ []) {r1 : State} {p : CopyPlan} {m : MmaArgs} {fb : FmtBlock}
    (hplan : Claims.Planned (s.withTeam (s.team.belay (b || b2))) false kind.toNat d.toNat a.toNat c.toNat r1 p)
    (hm : m = r1.team.mmaArgs sp md.toNat ma.toNat mc.toNat da db kg.toNat fbr.toNat) (hmma : Claims.MmaOk r1 m fb) :
    execCpyFollowMma b b2 kind d a c ord sw sp md ma mc da db kg fbr s = .next (r1.issueCopy false ord sw.toNat 4 p (some m)) := by
  have hcheck := State.mmaCheck_of_ok hmma
  subst hm
  rw [execCpyFollowMma]
  simp only [hok, Bool.not_true, Bool.false_eq_true, if_false]
  rw [engineForm_of_active hactive]
  simp only [State.followPlan_of_planned hplan, hcheck]

end Follow

/-- Settles O42: the operand checks give the plan, and the issue of a checked copy joins the open batch. -/
theorem copiesJoinTheirBatch : Obligations.CopiesJoinTheirBatch := by
  unfold Obligations.CopiesJoinTheirBatch
  intro s b b2 kind d a c dir ord sw sp md ma mc da db kg fbr u r ga so n hu hr hga hso hn
  subst hr hga hso hn
  refine ⟨fun hempty i hi => ?_, fun hactive k i hi r1 p locs q hplan hreach hq => ?_, fun v r2 i hv hr2 hi hok => ⟨fun hempty => ?_,
    fun hactive r1 p m fb locs q hplan hm hmma hreach hq => ?_⟩, fun hactive => ⟨fun v hmis => ?_, fun hga hso hn => ⟨fun hlong => ?_,
      fun hlen hout => ?_⟩, fun hmis => ?_, fun e l r1 h off hva he hreach hread hfault => ?_⟩⟩
  · subst hu
    exact exec_copyForms_of_empty hempty hi
  · subst hu
    have hexec := exec_copyForms_of_planned hactive hi hplan
    exact ⟨fun hroom => ⟨_, hexec, State.joins_issueCopy hreach hroom hq⟩,
      fun hfull => hexec.trans (congrArg Host.Outcome.next (State.issueCopy_of_full hreach hfull))⟩
  · subst hi hr2 hv
    exact execCpyFollowMma_of_empty hok hempty
  · subst hi hr2 hv
    have hexec := execCpyFollowMma_of_planned (ord := ord) (sw := sw) hok hactive hplan hm hmma
    exact ⟨fun hroom => ⟨_, hexec, State.joins_issueCopy hreach hroom hq⟩,
      fun hfull => hexec.trans (congrArg Host.Outcome.next (State.issueCopy_of_full hreach hfull))⟩
  · subst hu
    exact exec_cpy_of_error hactive (State.cpyPlan_of_misaligned (s := s.withTeam (s.team.belay b)) hmis)
  · subst hu
    exact exec_cpy_of_error hactive ((State.cpyPlan_of_aligned (s := s.withTeam (s.team.belay b)) hga hso hn).trans (if_pos hlong))
  · subst hu
    exact exec_cpy_of_error hactive ((State.cpyPlan_of_aligned (s := s.withTeam (s.team.belay b)) hga hso hn).trans
      ((if_neg (Nat.not_lt.mpr hlen)).trans (if_pos hout)))
  · subst hu
    exact exec_cpyT_of_error hactive (State.cpyTPlan_of_misaligned (s := s.withTeam (s.team.belay b)) hmis)
  · subst hu
    exact exec_cpyT_of_error hactive (State.cpyTPlan_of_fault (s := s.withTeam (s.team.belay b)) hva he hreach hread hfault)

end Sys2Proof.Machine
end

section
/-! TAG.RD, TAG.WR, TAG.CHK and TILE.HDR (R58, R207 to R209, R219, R235 to R237). -/

namespace Sys2Proof.Machine

/-! ## The word of a tag -/

section Word

variable {v : Word} {a : Nat}

theorem tagOperandBad_of_region (hv : v.toNat < 2 ^ 17) (hbit : v.getLsbD 16 = true) : tagOperandBad v a = false := by
  rw [tagOperandBad, decide_eq_false (Nat.not_le.mpr hv), hbit]
  rfl

theorem getLsbD_of_header (hv : v.toNat < 2 ^ 16) : v.getLsbD 16 = false := Nat.testBit_lt_two_pow hv

theorem tagOperandBad_of_header (hv : v.toNat < 2 ^ 16) (ha : a % 2 = 0) : tagOperandBad v a = false := by
  rw [tagOperandBad, decide_eq_false (by omega), getLsbD_of_header hv, ha]
  rfl

theorem tagOperandBad_of_bad (h : 2 ^ 17 ≤ v.toNat ∨ (v.toNat < 2 ^ 16 ∧ a % 2 = 1)) : tagOperandBad v a = true := by
  rcases h with hv | ⟨hv, ha⟩
  · rw [tagOperandBad, decide_eq_true hv, Bool.true_or]
  · rw [tagOperandBad, getLsbD_of_header hv, ha]
    simp

theorem truncate_tag : (v.truncate 16 : BitVec 16) = BitVec.ofNat 16 v.toNat := by
  apply BitVec.eq_of_toNat_eq
  simp

theorem toNat_tag : (v.truncate 16 : BitVec 16).toNat = v.toNat % 2 ^ 16 := BitVec.toNat_setWidth ..

end Word

/-! ## The forms by their checks -/

section Forms

variable {s : State} {b : Bool} {d a c : BitVec 6} {u : Team} (hu : u = s.team.belay b)
include hu

theorem exec_tagForms_of_empty {i : Instr} (hempty : u.active = [])
    (hi : i ∈ [Instr.tagRd b d a true, .tagRd b d a false, .tagWr b a c, .tagChk b d a c, .tileHdr b d a]) :
    exec i s = .next (s.withTeam (u.advance 1)) := by
  subst hu
  simp only [List.mem_cons, List.not_mem_nil, or_false] at hi
  rcases hi with rfl | rfl | rfl | rfl | rfl
  · rw [exec, execTagRd, engineForm_of_empty hempty]
  · rw [exec, execTagRd, engineForm_of_empty hempty]
  · rw [exec, execTagWr, engineForm_of_empty hempty]
  · rw [exec, execTagChk, engineForm_of_empty hempty]
  · rw [exec, execTileHdr, engineForm_of_empty hempty]

variable (hactive : u.active ≠ [])
include hactive

/-! ### TAG.RD -/

theorem execTagRd_of_region {e : Tile} (he : s.crew.regionAt (u.srd a.toNat).toNat = some e) :
    execTagRd b d a true s = .next (s.withTeam ((u.swr d.toNat (e.tag.zeroExtend 32)).advance 1)) := by
  subst hu
  rw [execTagRd, engineForm_of_active hactive]
  simp only [if_true, State.withTeam_crew, State.withTeam_team, he]
  rfl

theorem execTagRd_of_header : execTagRd b d a false s = withHeader (s.withTeam u) (u.srd64 a.toNat).toNat (fun s _ h =>
    .next (s.withTeam ((s.team.swr d.toNat (BitVec.ofNat 32 (fieldAt h 28 2))).advance 1))) := by
  subst hu
  exact (engineForm_of_active hactive).trans (if_neg Bool.false_ne_true)

/-! ### TAG.WR and TAG.CHK -/

theorem exec_tagWr_of_bad (hbad : tagOperandBad (u.srd c.toNat) a.toNat = true) :
    execTagWr b a c s = .next ((s.withTeam u).illegal (.tagWr b a c)) := by
  subst hu
  exact (engineForm_of_active hactive).trans (if_pos hbad)

theorem exec_tagChk_of_bad (hbad : tagOperandBad (u.srd c.toNat) a.toNat = true) :
    execTagChk b d a c s = .next ((s.withTeam u).illegal (.tagChk b d a c)) := by
  subst hu
  exact (engineForm_of_active hactive).trans (if_pos hbad)

variable (hgood : tagOperandBad (u.srd c.toNat) a.toNat = false)
include hgood

theorem execTagWr_of_region (hbit : (u.srd c.toNat).getLsbD 16 = true) {e : Tile} (he : s.crew.regionAt (u.srd a.toNat).toNat = some e) :
    execTagWr b a c s = if tagReserved ((u.srd c.toNat).toNat % 2 ^ 16) then .next ((s.withTeam u).trapHere 0x24 (malformed 4 0))
      else .next { s with team := u.advance 1, crew := s.crew.setTag e.base (BitVec.ofNat 16 (u.srd c.toNat).toNat) } := by
  subst hu
  rw [execTagWr, engineForm_of_active hactive]
  simp only [State.withTeam_crew, State.withTeam_team, hgood, Bool.false_eq_true, if_false, hbit, if_true, he, truncate_tag, BitVec.toNat_ofNat]
  rfl

theorem execTagChk_of_region (hbit : (u.srd c.toNat).getLsbD 16 = true) {e : Tile} (he : s.crew.regionAt (u.srd a.toNat).toNat = some e)
    {w : Word} (hw : w = if tagMatches ((u.srd c.toNat).toNat % 65536) e.tag.toNat then 1 else 0) :
    execTagChk b d a c s = .next (s.withTeam ({ u.swr d.toNat w with flags := ⟨w == 0, false, false, false⟩ }.advance 1)) := by
  subst hu
  rw [execTagChk, engineForm_of_active hactive]
  dsimp only [State.withTeam_crew, State.withTeam_team]
  simp only [hgood, Bool.false_eq_true, if_false, hbit, if_true, he, ← hw]
  rfl

variable (hbit : (u.srd c.toNat).getLsbD 16 = false)
include hbit

theorem execTagWr_of_header : ∃ body, execTagWr b a c s = withHeader (s.withTeam u) (u.srd64 a.toNat).toNat body := by
  subst hu
  rw [execTagWr, engineForm_of_active hactive]
  simp only [State.withTeam_team, hgood, Bool.false_eq_true, if_false, hbit]
  exact ⟨_, rfl⟩

theorem execTagChk_of_header : ∃ body, execTagChk b d a c s = withHeader (s.withTeam u) (u.srd64 a.toNat).toNat body := by
  subst hu
  rw [execTagChk, engineForm_of_active hactive]
  simp only [State.withTeam_team, hgood, Bool.false_eq_true, if_false, hbit]
  exact ⟨_, rfl⟩

variable {r1 : State} {h : List Byte} (hhead : Claims.HeaderRead (s.withTeam u) (u.srd64 a.toNat).toNat r1 h)
include hhead

theorem execTagWr_of_reserved (hres : tagReserved ((u.srd c.toNat).toNat % 2 ^ 16) = true) :
    execTagWr b a c s = .next (r1.trapHere 0x24 (malformed 4 0)) := by
  obtain ⟨l, hva, hreach, hread, hfault⟩ := hhead
  subst hu
  rw [execTagWr, engineForm_of_active hactive]
  simp only [State.withTeam_team, hgood, Bool.false_eq_true, if_false, hbit]
  rw [withHeader_of_good hva hreach hread hfault]
  exact if_pos (by rw [toNat_tag]; exact hres)

theorem execTagWr_of_reached (hres : tagReserved ((u.srd c.toNat).toNat % 2 ^ 16) = false) {l2 : Loc}
    (hreach2 : r1.reach [((u.srd64 a.toNat).toNat, .write)] = .ok [l2]) {r2 : State}
    (hr2 : r2 = r1.fenceDev.writeFrom r1.team.key r1.home (l2.plus 28) 4 ((u.srd c.toNat).toNat % 2 ^ 16)) :
    execTagWr b a c s = .next (r2.withTeam (r2.team.advance 1)) := by
  obtain ⟨l, hva, hreach, hread, hfault⟩ := hhead
  subst hu hr2
  rw [execTagWr, engineForm_of_active hactive]
  simp only [State.withTeam_team, hgood, Bool.false_eq_true, if_false, hbit]
  rw [withHeader_of_good hva hreach hread hfault]
  simp only [toNat_tag, hres, Bool.false_eq_true, if_false, hreach2, List.headD_cons]

theorem execTagChk_of_read {w : Word} (hw : w = if tagMatches ((u.srd c.toNat).toNat % 65536) (fieldAt h 28 2) then 1 else 0) :
    execTagChk b d a c s = .next (r1.withTeam ({ r1.team.swr d.toNat w with flags := ⟨w == 0, false, false, false⟩ }.advance 1)) := by
  obtain ⟨l, hva, hreach, hread, hfault⟩ := hhead
  subst hu
  rw [execTagChk, engineForm_of_active hactive]
  dsimp only [State.withTeam_team]
  simp only [hgood, Bool.false_eq_true, if_false, hbit]
  rw [withHeader_of_good hva hreach hread hfault, ← hw]
  rfl

end Forms

/-! ### TILE.HDR -/

section TileHdr

variable {s : State} {b : Bool} {d a : BitVec 6} {u : Team} (hu : u = s.team.belay b) (hactive : u.active ≠ [])
include hu hactive

theorem execTileHdr_of_misaligned (hva : (u.srd64 d.toNat).toNat % 64 ≠ 0) :
    execTileHdr b d a s = .next ((s.withTeam u).vaTrap 0x03 0 (u.srd64 d.toNat).toNat) := by
  subst hu
  exact (engineForm_of_active hactive).trans (if_pos hva)

variable (hva : (u.srd64 d.toNat).toNat % 64 = 0) {h : List Byte} (hh : h = (List.range 12).flatMap (fun k => leBytes 4 (u.srd (a.toNat + k)).toNat))
include hva hh

theorem execTileHdr_of_fault {off : Nat} (hfault : headerFault h = some off) :
    execTileHdr b d a s = .next ((s.withTeam u).trapHere 0x24 (malformed 2 off)) := by
  subst hu hh
  rw [execTileHdr, engineForm_of_active hactive]
  simp only [State.withTeam_team, hva, ne_eq, not_true, if_false, hfault]

variable (hgood : headerFault h = none)
include hgood

theorem execTileHdr_of_reserved (hres : tagReserved (fieldAt h 28 2) = true) :
    execTileHdr b d a s = .next ((s.withTeam u).trapHere 0x24 (malformed 2 28)) := by
  subst hu hh
  rw [execTileHdr, engineForm_of_active hactive]
  simp only [State.withTeam_team, hva, ne_eq, not_true, if_false, hgood, hres, if_true]

theorem execTileHdr_of_reached (hres : tagReserved (fieldAt h 28 2) = false) {l : Loc}
    (hreach : (s.withTeam u).reach [((u.srd64 d.toNat).toNat, .write)] = .ok [l]) {r2 : State}
    (hr2 : r2 = (s.withTeam u).release.writeFrom (s.withTeam u).team.key (s.withTeam u).home l 48 (ofLeBytes h)) :
    execTileHdr b d a s = .next (r2.withTeam (r2.team.advance 1)) := by
  subst hu hh hr2
  rw [execTileHdr, engineForm_of_active hactive]
  simp only [State.withTeam_team, hva, ne_eq, not_true, if_false, hgood, hres, Bool.false_eq_true, hreach, List.headD_cons]

end TileHdr

/-- Settles O43: each form's checks in their order, and what a region or a header that passes them gives. -/
theorem tagsAndHeaders : Obligations.TagsAndHeaders := by
  unfold Obligations.TagsAndHeaders
  intro s b d a c u r v va vd hu hr hv hva hvd
  subst hr hv hva hvd
  refine ⟨fun hempty i hi => exec_tagForms_of_empty hu hempty hi,
    fun hactive e he => ⟨execTagRd_of_region hu hactive he, fun hsmall hbit => ?_⟩,
    fun hactive r1 h hhead => ⟨?_, fun hsmall heven => ?_⟩, fun hactive h hh hva => ?_,
    fun hactive => ⟨fun hmis => ⟨?_, fun hsmall heven => ?_⟩, ?_, fun l r1 h off hva hreach hread hfault => ?_, fun hbad => ?_⟩⟩
  · have hgood := tagOperandBad_of_region (a := a.toNat) hsmall hbit
    have hwr := execTagWr_of_region hu hactive hgood hbit he
    exact ⟨fun hres => hwr.trans (if_neg (by rw [hres]; decide)), fun hres => hwr.trans (if_pos hres),
      fun w hw => execTagChk_of_region hu hactive hgood hbit he hw⟩
  · obtain ⟨l, hva, hreach, hread, hfault⟩ := hhead
    exact (execTagRd_of_header hu hactive).trans (withHeader_of_good hva hreach hread hfault)
  · have hgood := tagOperandBad_of_header hsmall heven
    have hbit := getLsbD_of_header hsmall
    have hmod : (u.srd c.toNat).toNat % 2 ^ 16 = (u.srd c.toNat).toNat := Nat.mod_eq_of_lt hsmall
    have hkey : (u.srd c.toNat).toNat % 65536 = (u.srd c.toNat).toNat := hmod
    refine ⟨fun l2 r2 hres hreach2 hr2 => ?_, fun hres => ?_, fun w hw => ?_⟩
    · exact execTagWr_of_reached hu hactive hgood hbit hhead (by rw [hmod]; exact hres) hreach2 (by rw [hmod]; exact hr2)
    · exact execTagWr_of_reserved hu hactive hgood hbit hhead (by rw [hmod]; exact hres)
    · exact execTagChk_of_read hu hactive hgood hbit hhead (by rw [hkey]; exact hw)
  · rw [exec]
    exact ⟨fun l r2 hgood hres hreach hr2 => execTileHdr_of_reached hu hactive hva hh hgood hres hreach hr2,
      fun off hfault => execTileHdr_of_fault hu hactive hva hh hfault,
      fun hgood hres => execTileHdr_of_reserved hu hactive hva hh hgood hres⟩
  · exact (execTagRd_of_header hu hactive).trans (withHeader_of_misaligned hmis)
  · have hgood := tagOperandBad_of_header hsmall heven
    have hbit := getLsbD_of_header hsmall
    obtain ⟨body, hwr⟩ := execTagWr_of_header hu hactive hgood hbit
    obtain ⟨body', hchk⟩ := execTagChk_of_header (d := d) hu hactive hgood hbit
    exact ⟨hwr.trans (withHeader_of_misaligned hmis), hchk.trans (withHeader_of_misaligned hmis)⟩
  · rw [exec]
    exact execTileHdr_of_misaligned hu hactive
  · exact (execTagRd_of_header hu hactive).trans (withHeader_of_fault hva hreach hread hfault)
  · exact ⟨exec_tagWr_of_bad hu hactive (tagOperandBad_of_bad hbad), exec_tagChk_of_bad hu hactive (tagOperandBad_of_bad hbad)⟩

end Sys2Proof.Machine
end

section
/-! MMA, MMA.SP and the ACC forms at issue (R88, R199, R201 to R204, R207, R219, R220, R228, R231 to R233). -/

namespace Sys2Proof.Machine

/-! ## The queue of the array -/

@[simp] theorem State.atomicAt_ops (s : State) (x : AtomLane) : (s.atomicAt x).ops = s.ops := by
  unfold State.atomicAt
  dsimp only
  split <;> simp

@[simp] theorem State.runAtomics_ops (s : State) (k : Nat) : (s.runAtomics k).ops = s.ops :=
  State.foldl_keeps State.atomicAt (·.ops) State.atomicAt_ops _ s

@[simp] theorem State.settleOver_ops (s : State) (spans : List (Nat × Nat)) : (s.settleOver spans).ops = s.ops := by
  unfold State.settleOver
  dsimp only
  split <;> simp

theorem State.arrayQueue_congr {s t : State} (hops : t.ops = s.ops) (hctx : t.ctx = s.ctx) (hctxs : t.ctxs = s.ctxs) (core : Nat) :
    t.arrayQueue core = s.arrayQueue core := by
  have hon (ck : Nat) : t.onCores ck = s.onCores ck := by rw [State.onCores, State.onCores, State.ctx?, State.ctx?, hctx, hctxs]
  rw [State.arrayQueue, State.arrayQueue, hops]
  simp only [hon]

section IssueArray

variable {r : State} {len : Nat} {work : OpWork}

theorem State.issueArray_of_full (h : 16 ≤ r.arrayQueue r.home) : r.issueArray len work = r.waits := if_pos h

theorem State.joins_issueArray (h : r.arrayQueue r.home < 16) : Claims.Joins r (r.issueArray len work) work 0 len := by
  rw [State.issueArray, if_neg (Nat.not_le.mpr h)]
  exact ⟨rfl, rfl, rfl, rfl, rfl, rfl, rfl, rfl, rfl⟩

/-- An issue at the array waits, or joins the open batch. -/
theorem exec_of_issueArray {s : State} {i : Instr} (hexec : exec i s = .next (r.issueArray len work)) :
    (r.arrayQueue r.home < 16 → ∃ t, exec i s = .next t ∧ Claims.Joins r t work 0 len)
      ∧ (16 ≤ r.arrayQueue r.home → exec i s = .next r.waits) :=
  ⟨fun h => ⟨_, hexec, State.joins_issueArray h⟩, fun h => hexec.trans (congrArg Host.Outcome.next (State.issueArray_of_full h))⟩

end IssueArray

section IssueBlock

variable {r : State} {elems : List (Nat × Nat)} {locs : List Loc} {size : Nat} {work : List (Nat × Loc) → OpWork}

theorem State.issueBlock_of_full (h : 16 ≤ r.arrayQueue r.home) : r.issueBlock elems locs size work = r.waits := if_pos h

theorem State.joins_issueBlock (h : r.arrayQueue r.home < 16) :
    Claims.Joins (r.settleOver ((List.zip elems locs).flatMap (fun e => e.2.span size))) (r.issueBlock elems locs size work)
      (work ((List.zip elems locs).map (fun e => (e.1.1, e.2)))) 0 1 := by
  have hspans : ((List.zip elems locs).map (fun x => (x.1.1, x.2))).flatMap (fun e => e.2.span size) =
      (List.zip elems locs).flatMap (fun e => e.2.span size) := List.flatMap_map ..
  rw [State.issueBlock, if_neg (Nat.not_le.mpr h), hspans]
  have hsame := samePackage_settleOver r ((List.zip elems locs).flatMap (fun e => e.2.span size))
  have hops := r.settleOver_ops ((List.zip elems locs).flatMap (fun e => e.2.span size))
  revert hsame hops
  generalize r.settleOver ((List.zip elems locs).flatMap (fun e => e.2.span size)) = q
  intro hsame hops
  have hhome : (q.touchUnits (elems.map (fun e => e.2))).home = r.home := by rw [State.home, State.home, State.touchUnits_crew, hsame.crew]
  have hroom : (q.touchUnits (elems.map (fun e => e.2))).arrayQueue (q.touchUnits (elems.map (fun e => e.2))).home < 16 := by
    rw [hhome, State.arrayQueue_congr (s := r) (by simp [hops]) (by simp [hsame.ctx]) (by simp [hsame.ctxs])]
    exact h
  obtain ⟨hto, htt, htc, htx, htm, htk, htw, hts, htts⟩ := State.joins_issueArray (len := 1)
    (work := work ((List.zip elems locs).map (fun e => (e.1.1, e.2)))) hroom
  unfold Claims.Joins
  simp only [hto, htt, htc, htx, htm, htk, htw, hts, htts, State.touchUnits_ops, State.touchUnits_team, State.touchUnits_crew,
    State.touchUnits_ctx, State.touchUnits_mem, State.touchUnits_nextKey, State.touchUnits_weights, State.touchUnits_scStores,
    State.touchUnits_teams, Claims.issuedOp, State.touchUnits_tick, State.home, and_self]

/-- An issue of a block waits, or joins the open batch. -/
theorem exec_of_issueBlock {s : State} {i : Instr} (hexec : exec i s = .next (r.issueBlock elems locs size work)) :
    (16 ≤ r.arrayQueue r.home → exec i s = .next r.waits)
      ∧ (r.arrayQueue r.home < 16 → ∃ t, exec i s = .next t
        ∧ Claims.Joins (r.settleOver ((List.zip elems locs).flatMap (fun e => e.2.span size))) t
          (work ((List.zip elems locs).map (fun e => (e.1.1, e.2)))) 0 1) :=
  ⟨fun h => hexec.trans (congrArg Host.Outcome.next (State.issueBlock_of_full h)), fun h => ⟨_, hexec, State.joins_issueBlock h⟩⟩

end IssueBlock

/-! ## The operands of an MMA -/

theorem State.slotFault_of_misaligned {s : State} {x : Nat} (h : x % 16384 ≠ 0) : s.slotFault x = some (s.vaTrap 0x03 0 x) := if_pos h

theorem State.slotFault_of_outside {s : State} {x : Nat} (haligned : x % 16384 = 0) (h : 16384 * s.crew.accSlots ≤ x) :
    s.slotFault x = some (s.vaTrap 0x05 0 x) := (if_neg (not_not.mpr haligned)).trans (if_pos h)

section MmaCheck

variable {s : State} {m : MmaArgs}

theorem State.mmaCheck_of_ao (h : m.ao % 256 ≠ 0) : s.mmaCheck m = .error (s.vaTrap 0x03 (s.team.active.headD 0) m.ao) := if_pos h

variable (hao : m.ao % 256 = 0)
include hao

theorem State.mmaCheck_of_bo (h : m.bo % 256 ≠ 0) : s.mmaCheck m = .error (s.vaTrap 0x03 (s.team.active.headD 0) m.bo) :=
  (if_neg (not_not.mpr hao)).trans (if_pos h)

variable (hbo : m.bo % 256 = 0)
include hbo

theorem State.mmaCheck_of_slot {t : State} (h : s.slotFault m.acc = some t) : s.mmaCheck m = .error t := by
  simp only [State.mmaCheck, hao, hbo, ne_eq, not_true, if_false, h]

variable (hacc : m.acc % 16384 = 0) (hslot : m.acc < 16384 * s.crew.accSlots)
include hacc hslot

theorem State.mmaCheck_of_record (h : s.crew.spadSize < 32 * m.fbr + 32) :
    s.mmaCheck m = .error (s.vaTrap 0x05 (s.team.active.headD 0) (32 * m.fbr)) := by
  simp only [State.mmaCheck, hao, hbo, ne_eq, not_true, if_false, State.slotFault_eq_none hacc hslot, if_pos h]

theorem State.mmaCheck_of_block (hrec : 32 * m.fbr + 32 ≤ s.crew.spadSize) {info : BitVec 64}
    (h : s.readBlock s.crew ⟨s.team.index, .array, s.tick⟩ m = .error info) : s.mmaCheck m = .error (s.trapHere 0x24 info) := by
  simp only [State.mmaCheck, hao, hbo, ne_eq, not_true, if_false, State.slotFault_eq_none hacc hslot, if_neg (Nat.not_lt.mpr hrec), h]

end MmaCheck

section Multiply

variable {s : State} {b sp : Bool} {d a c : BitVec 7} {da db : Bool} {kg : BitVec 6} {fbr : BitVec 15} {u : Team} {i : Instr}

/-- MMA and MMA.SP. -/
def mmaForms (b : Bool) (d a c : BitVec 7) (da db : Bool) (kg : BitVec 6) (fbr : BitVec 15) : List (Bool × Instr) :=
  [(false, .mma b d a c da db kg fbr), (true, .mmaSp b d a c da db kg fbr)]

theorem exec_mmaForms (hi : (sp, i) ∈ mmaForms b d a c da db kg fbr) (s : State) :
    exec i s = multiply i b sp d a c da db kg.toNat fbr.toNat s := by
  simp only [mmaForms, List.mem_cons, List.not_mem_nil, or_false, Prod.mk.injEq] at hi
  rcases hi with ⟨rfl, rfl⟩ | ⟨rfl, rfl⟩
  · rfl
  · rfl

variable (hu : u = s.team.belay b) (hok : s.team.namesOk [d.toNat, a.toNat, c.toNat] = true)
include hu hok

theorem multiply_of_empty (hempty : u.active = []) : multiply i b sp d a c da db kg.toNat fbr.toNat s = .next (s.withTeam (u.advance 2)) := by
  subst hu
  rw [multiply]
  simp only [hok, Bool.not_true, Bool.false_eq_true, if_false]
  exact engineForm_of_empty hempty

variable (hactive : u.active ≠ []) {m : MmaArgs} (hm : m = u.mmaArgs sp d.toNat a.toNat c.toNat da db kg.toNat fbr.toNat)
include hactive hm

theorem multiply_of_error {t : State} (h : (s.withTeam u).mmaCheck m = .error t) :
    multiply i b sp d a c da db kg.toNat fbr.toNat s = .next t := by
  subst hu hm
  rw [multiply]
  simp only [hok, Bool.not_true, Bool.false_eq_true, if_false]
  rw [engineForm_of_active hactive]
  simp only [State.withTeam_team, h]

theorem multiply_of_ok {fb : FmtBlock} (h : (s.withTeam u).mmaCheck m = .ok fb) :
    multiply i b sp d a c da db kg.toNat fbr.toNat s = .next ((s.withTeam u).issueArray 2 (.mma m fb 0 0 [] none)) := by
  subst hu hm
  rw [multiply]
  simp only [hok, Bool.not_true, Bool.false_eq_true, if_false]
  rw [engineForm_of_active hactive]
  simp only [State.withTeam_team, h]

end Multiply

/-! ## The ACC forms -/

section Acc

variable {s : State} {b : Bool} {d a c : BitVec 6} {f : BitVec 3} {sat : Bool} {u : Team} (hu : u = s.team.belay b)
include hu

theorem exec_accForms_of_empty (hempty : u.active = []) {i : Instr}
    (hi : i ∈ [Instr.accClr b a, .accProm b d a c, .accLd b d a, .accSt b d a f sat]) :
    exec i s = .next (s.withTeam (u.advance 1)) := by
  subst hu
  simp only [List.mem_cons, List.not_mem_nil, or_false] at hi
  rcases hi with rfl | rfl | rfl | rfl
  · rw [exec, execAccClr, accForm, engineForm_of_empty hempty]
  · rw [exec, execAccProm, accForm, engineForm_of_empty hempty]
  · rw [exec, execAccLd, accForm, engineForm_of_empty hempty]
  · rw [exec, execAccSt, accForm, engineForm_of_empty hempty]

variable (hactive : u.active ≠ [])
include hactive

theorem execAccClr_of_fault {t : State} (h : (s.withTeam u).slotFault (u.srd a.toNat).toNat = some t) : execAccClr b a s = .next t := by
  subst hu
  rw [execAccClr, accForm, engineForm_of_active hactive]
  simp only [State.withTeam_team, h]

theorem execAccClr_of_ok (h : (s.withTeam u).slotFault (u.srd a.toNat).toNat = none) :
    execAccClr b a s = .next ((s.withTeam u).issueArray 1 (.accClr (u.srd a.toNat).toNat (BitVec.allOnes 4096))) := by
  subst hu
  rw [execAccClr, accForm, engineForm_of_active hactive]
  simp only [State.withTeam_team, h]

/-- The forms whose first operand is a slot check it first. -/
theorem exec_slotForms_of_fault {t : State} (h : (s.withTeam u).slotFault (u.srd d.toNat).toNat = some t) {i : Instr}
    (hi : i ∈ [Instr.accProm b d a c, .accLd b d a, .accSt b d a f sat]) : exec i s = .next t := by
  subst hu
  simp only [List.mem_cons, List.not_mem_nil, or_false] at hi
  rcases hi with rfl | rfl | rfl
  · rw [exec, execAccProm, accForm, engineForm_of_active hactive]
    simp only [State.withTeam_team, h]
  · rw [exec, execAccLd, accForm, engineForm_of_active hactive]
    simp only [State.withTeam_team, h]
  · rw [exec, execAccSt, accForm, engineForm_of_active hactive]
    simp only [State.withTeam_team, h]

variable (hslot : (s.withTeam u).slotFault (u.srd d.toNat).toNat = none)
include hslot

theorem execAccProm_of_fault {t : State} (h : (s.withTeam u).slotFault (u.srd a.toNat).toNat = some t) : execAccProm b d a c s = .next t := by
  subst hu
  rw [execAccProm, accForm, engineForm_of_active hactive]
  simp only [State.withTeam_team, hslot, h]

theorem execAccProm_of_ok (h : (s.withTeam u).slotFault (u.srd a.toNat).toNat = none) : execAccProm b d a c s =
    .next ((s.withTeam u).issueArray 1 (.accProm (u.srd d.toNat).toNat (u.srd a.toNat).toNat (u.srd c.toNat) (BitVec.allOnes 4096))) := by
  subst hu
  rw [execAccProm, accForm, engineForm_of_active hactive]
  simp only [State.withTeam_team, hslot, h]

/-- ACC.LD and ACC.ST read the header after they have checked their slot. -/
theorem exec_blockForms {i : Instr} (hi : i ∈ [Instr.accLd b d a, .accSt b d a f sat]) :
    ∃ body, exec i s = withHeader (s.withTeam u) (u.srd64 a.toNat).toNat body := by
  subst hu
  simp only [List.mem_cons, List.not_mem_nil, or_false] at hi
  rcases hi with rfl | rfl
  · rw [exec, execAccLd, accForm, engineForm_of_active hactive]
    simp only [State.withTeam_team, hslot]
    exact ⟨_, rfl⟩
  · rw [exec, execAccSt, accForm, engineForm_of_active hactive]
    simp only [State.withTeam_team, hslot]
    exact ⟨_, rfl⟩

variable {r1 : State} {h : List Byte} (hhead : Claims.HeaderRead (s.withTeam u) (u.srd64 a.toNat).toNat r1 h)
include hhead

theorem execAccLd_of_unread (hfmt : accLdFmt (fieldAt h 28 2) = none) : execAccLd b d a s =
    .next (r1.trapHere 0x24 (malformed 2 (if 64 < fieldAt h 8 2 ∨ 64 < fieldAt h 10 2 then 8 else 28))) := by
  obtain ⟨l, hva, hreach, hread, hfault⟩ := hhead
  subst hu
  rw [execAccLd, accForm, engineForm_of_active hactive]
  simp only [State.withTeam_team, hslot]
  rw [withHeader_of_good hva hreach hread hfault]
  simp only [hfmt]

theorem execAccLd_of_blockFault {size fmt off : Nat} (hfmt : accLdFmt (fieldAt h 28 2) = some (size, fmt))
    (hblock : blockHeaderFault h size = some off) :
    execAccLd b d a s = .next (r1.trapHere 0x24 (malformed 2 off)) := by
  obtain ⟨l, hva, hreach, hread, hfault⟩ := hhead
  subst hu
  rw [execAccLd, accForm, engineForm_of_active hactive]
  simp only [State.withTeam_team, hslot]
  rw [withHeader_of_good hva hreach hread hfault]
  simp only [hfmt, hblock]

theorem execAccLd_of_reached {size fmt : Nat} (hfmt : accLdFmt (fieldAt h 28 2) = some (size, fmt)) (hblock : blockHeaderFault h size = none)
    {locs : List Loc} (hlocs : r1.reach ((blockElems h size).map (fun e => (e.2, Access.read)) ++ [((u.srd64 a.toNat).toNat, .read)]) = .ok locs) :
    execAccLd b d a s =
      .next (r1.issueBlock (blockElems h size) locs size (fun placed => .accLd (u.srd d.toNat).toNat placed fmt (BitVec.allOnes 4096))) := by
  obtain ⟨l, hva, hreach, hread, hfault⟩ := hhead
  subst hu
  rw [execAccLd, accForm, engineForm_of_active hactive]
  simp only [State.withTeam_team, hslot]
  rw [withHeader_of_good hva hreach hread hfault]
  simp only [hfmt, hblock, hlocs]

theorem execAccSt_of_blockFault {off : Nat} (hblock : blockHeaderFault h (accStSize f.toNat) = some off) :
    execAccSt b d a f sat s = .next (r1.trapHere 0x24 (malformed 2 off)) := by
  obtain ⟨l, hva, hreach, hread, hfault⟩ := hhead
  subst hu
  rw [execAccSt, accForm, engineForm_of_active hactive]
  simp only [State.withTeam_team, hslot]
  rw [withHeader_of_good hva hreach hread hfault]
  simp only [hblock]

theorem execAccSt_of_reached (hblock : blockHeaderFault h (accStSize f.toNat) = none) {locs : List Loc}
    (hlocs : r1.reach ((blockElems h (accStSize f.toNat)).map (fun e => (e.2, Access.write)) ++ [((u.srd64 a.toNat).toNat, .write)]) = .ok locs) :
    execAccSt b d a f sat s = .next (r1.issueBlock (blockElems h (accStSize f.toNat)) locs (accStSize f.toNat) (fun placed =>
      .accSt (u.srd d.toNat).toNat placed f.toNat sat
        (.header ((locs.getLast?.getD ⟨0, false, false⟩).plus 28) (BitVec.ofNat 16 (f.toNat + 1))) []
        (BitVec.allOnes 4096))) := by
  obtain ⟨l, hva, hreach, hread, hfault⟩ := hhead
  subst hu
  rw [execAccSt, accForm, engineForm_of_active hactive]
  simp only [State.withTeam_team, hslot]
  rw [withHeader_of_good hva hreach hread hfault]
  simp only [hblock, hlocs, accStTag]

end Acc

theorem accLdFmt_of_mem {tag size fmt : Nat} (h : (tag % 32, size, fmt) ∈ [(1, 4, 0), (2, 2, 1), (3, 2, 2)]) : accLdFmt tag = some (size, fmt) := by
  simp only [List.mem_cons, List.not_mem_nil, or_false, Prod.mk.injEq] at h
  rcases h with ⟨htag, rfl, rfl⟩ | ⟨htag, rfl, rfl⟩ | ⟨htag, rfl, rfl⟩ <;> simp only [accLdFmt, htag]

theorem accLdFmt_of_not_mem {tag : Nat} (h : tag % 32 ∉ [1, 2, 3]) : accLdFmt tag = none := by
  simp only [List.mem_cons, List.not_mem_nil, or_false, not_or] at h
  obtain ⟨h1, h2, h3⟩ := h
  unfold accLdFmt
  split
  next heq => exact absurd heq h1
  next heq => exact absurd heq h2
  next heq => exact absurd heq h3
  · rfl

section BlockHeader

variable {h : List Byte} {size : Nat}

theorem blockHeaderFault_of_large (hlarge : 64 < fieldAt h 8 2 ∨ 64 < fieldAt h 10 2) : blockHeaderFault h size = some 8 := if_pos hlarge

variable (hrows : fieldAt h 8 2 ≤ 64) (hcols : fieldAt h 10 2 ≤ 64)
include hrows hcols

theorem blockHeaderFault_of_overlap (hstride : fieldAt h 12 4 < fieldAt h 10 2 * size) : blockHeaderFault h size = some 12 :=
  (if_neg (by omega)).trans (if_pos hstride)

theorem blockHeaderFault_eq_none (hstride : fieldAt h 10 2 * size ≤ fieldAt h 12 4) : blockHeaderFault h size = none :=
  (if_neg (by omega)).trans (if_neg (Nat.not_lt.mpr hstride))

end BlockHeader

/-- Settles O44: the operand checks in their order, and the issue at the array. -/
theorem matrixFormsJoinTheirBatch : Obligations.MatrixFormsJoinTheirBatch := by
  unfold Obligations.MatrixFormsJoinTheirBatch
  intro s b da db d a c kg fbr d6 a6 c6 f sat u r hu hr
  subst hr
  refine ⟨fun sp i m hi hok hm => ?_, fun hempty i hi => exec_accForms_of_empty hu hempty hi, fun hactive x y hx hy => ?_,
    fun hactive x va r1 h hx hxa hxi hva => ?_⟩
  · rw [exec_mmaForms hi]
    refine ⟨multiply_of_empty hu hok, fun hactive => ⟨fun fb hmma => ?_, fun hao => ?_, fun hao hbo => ?_, fun hao hbo => ⟨fun hacc => ?_,
      fun hacc hout => ?_, fun hacc hslot => ⟨fun hrec => ?_, fun hrec info hinfo => ?_⟩⟩⟩⟩
    · have hexec := multiply_of_ok (i := i) hu hok hactive hm (State.mmaCheck_of_ok hmma)
      rw [← exec_mmaForms hi] at hexec ⊢
      exact exec_of_issueArray hexec
    · exact multiply_of_error hu hok hactive hm (State.mmaCheck_of_ao hao)
    · exact multiply_of_error hu hok hactive hm (State.mmaCheck_of_bo hao hbo)
    · exact multiply_of_error hu hok hactive hm (State.mmaCheck_of_slot hao hbo (State.slotFault_of_misaligned hacc))
    · exact multiply_of_error hu hok hactive hm (State.mmaCheck_of_slot hao hbo (State.slotFault_of_outside hacc hout))
    · exact multiply_of_error hu hok hactive hm (State.mmaCheck_of_record hao hbo hacc hslot hrec)
    · exact multiply_of_error hu hok hactive hm (State.mmaCheck_of_block (s := s.withTeam u) hao hbo hacc hslot hrec hinfo)
  · subst hx hy
    refine ⟨fun hya hyi => ?_, fun hxa hxi => ⟨fun hya => ?_, fun hya hyo => ?_⟩, fun hya => ?_, fun hya hyo => ?_,
      fun i hi => ⟨fun hxa => ?_, fun hxa hxo => ?_⟩⟩
    · have hy := State.slotFault_eq_none (s := s.withTeam u) hya hyi
      obtain ⟨hjoin, hwait⟩ := exec_of_issueArray (i := .accClr b a6) (execAccClr_of_ok hu hactive hy)
      exact ⟨hjoin, hwait, fun hxa hxi => exec_of_issueArray (i := .accProm b d6 a6 c6)
        (execAccProm_of_ok hu hactive (State.slotFault_eq_none (s := s.withTeam u) hxa hxi) hy)⟩
    · exact execAccProm_of_fault hu hactive (State.slotFault_eq_none (s := s.withTeam u) hxa hxi) (State.slotFault_of_misaligned hya)
    · exact execAccProm_of_fault hu hactive (State.slotFault_eq_none (s := s.withTeam u) hxa hxi) (State.slotFault_of_outside hya hyo)
    · exact execAccClr_of_fault hu hactive (State.slotFault_of_misaligned hya)
    · exact execAccClr_of_fault hu hactive (State.slotFault_of_outside hya hyo)
    · exact exec_slotForms_of_fault hu hactive (State.slotFault_of_misaligned hxa) hi
    · exact exec_slotForms_of_fault hu hactive (State.slotFault_of_outside hxa hxo) hi
  · subst hx hva
    have hslot := State.slotFault_eq_none (s := s.withTeam u) hxa hxi
    refine ⟨fun i hi => ?_, fun hhead => ⟨fun size fmt elems locs hrows hcols hstride helems => ⟨fun hfmt hlocs => ?_, fun hsize hlocs => ?_⟩,
      fun hrows hcols => ⟨fun hfmt => ?_, fun t ht htag hstride => ?_, fun hstride => ?_⟩, fun hlarge => ⟨?_, ?_⟩⟩⟩
    · obtain ⟨body, hexec⟩ := exec_blockForms hu hactive hslot hi
      exact ⟨fun hmis => hexec.trans (withHeader_of_misaligned hmis),
        fun l off hva hreach hread hfault => hexec.trans (withHeader_of_fault hva hreach hread hfault)⟩
    · subst helems
      exact exec_of_issueBlock (i := .accLd b d6 a6) (execAccLd_of_reached hu hactive hslot hhead (accLdFmt_of_mem hfmt)
        (blockHeaderFault_eq_none hrows hcols hstride) hlocs)
    · subst helems hsize
      exact exec_of_issueBlock (i := .accSt b d6 a6 f sat) (execAccSt_of_reached hu hactive hslot hhead
        (blockHeaderFault_eq_none hrows hcols hstride) hlocs)
    · refine (execAccLd_of_unread hu hactive hslot hhead (accLdFmt_of_not_mem hfmt)).trans ?_
      rw [if_neg (by omega)]
    · have hfmt : ∃ fmt, accLdFmt (fieldAt h 28 2) = some (t.2, fmt) := by
        simp only [List.mem_cons, List.not_mem_nil, or_false] at ht
        rcases ht with rfl | rfl | rfl
        · exact ⟨0, accLdFmt_of_mem (by simp [htag])⟩
        · exact ⟨1, accLdFmt_of_mem (by simp [htag])⟩
        · exact ⟨2, accLdFmt_of_mem (by simp [htag])⟩
      obtain ⟨fmt, hfmt⟩ := hfmt
      exact execAccLd_of_blockFault hu hactive hslot hhead hfmt (blockHeaderFault_of_overlap hrows hcols hstride)
    · exact execAccSt_of_blockFault hu hactive hslot hhead (blockHeaderFault_of_overlap hrows hcols hstride)
    · cases hfmt : accLdFmt (fieldAt h 28 2) with
      | none =>
        refine (execAccLd_of_unread hu hactive hslot hhead hfmt).trans ?_
        rw [if_pos hlarge]
      | some p => exact execAccLd_of_blockFault hu hactive hslot hhead hfmt (blockHeaderFault_of_large hlarge)
    · exact execAccSt_of_blockFault hu hactive hslot hhead (blockHeaderFault_of_large hlarge)

end Sys2Proof.Machine
end

section
/-! NETV and NETS at issue (R90, R170 to R175, R219, R234). -/

namespace Sys2Proof.Machine

/-! ## Reading headers changes no operation -/

section ReadNets

/-- What the reads of a network's header and descriptors leave as it is. -/
theorem State.readNets_keeps {α : Type} (field : State → α) (hfield : ∀ (s : State) c ls n, field (s.hasRead c ls n) = field s) (s : State)
    (ptrs : List Nat) : field (s.readNets ptrs) = field s := by
  unfold State.readNets
  split
  · rfl
  · refine State.foldl_keeps _ field (fun s ptr => ?_) ptrs s
    dsimp only
    split
    · rfl
    · exact hfield ..

@[simp] theorem State.readNets_team (s : State) (ptrs : List Nat) : (s.readNets ptrs).team = s.team :=
  State.readNets_keeps (·.team) State.hasRead_team s ptrs

@[simp] theorem State.readNets_crew (s : State) (ptrs : List Nat) : (s.readNets ptrs).crew = s.crew :=
  State.readNets_keeps (·.crew) State.hasRead_crew s ptrs

@[simp] theorem State.readNets_ctx (s : State) (ptrs : List Nat) : (s.readNets ptrs).ctx = s.ctx :=
  State.readNets_keeps (·.ctx) State.hasRead_ctx s ptrs

@[simp] theorem State.readNets_ops (s : State) (ptrs : List Nat) : (s.readNets ptrs).ops = s.ops :=
  State.readNets_keeps (·.ops) State.hasRead_ops s ptrs

@[simp] theorem State.readNets_nextKey (s : State) (ptrs : List Nat) : (s.readNets ptrs).nextKey = s.nextKey :=
  State.readNets_keeps (·.nextKey) State.hasRead_nextKey s ptrs

end ReadNets

/-! ## The networks of the lanes -/

/-- The table of the networks that are found, by pointer, gives each listed pointer its network. -/
theorem assoc?_found {β : Type} (f : Nat → Option β) (p : Nat) (ps : List Nat) :
    assoc? (ps.filterMap (fun p => (f p).map (fun n => (p, n)))) p = if p ∈ ps then f p else none := by
  induction ps with
  | nil => rfl
  | cons q qs ih =>
    by_cases hq : q = p
    · subst hq
      cases hf : f q with
      | some n => simp [hf, assoc?]
      | none => simpa [hf] using ih
    · cases hf : f q <;> simp [hf, assoc?, hq, ih, Ne.symm hq]

section IssueNet

variable (r : State) (lanes : List NetLane) (d ni no : Nat)

/-- The lanes' networks, as the issue finds them. -/
def State.netTable : List (Nat × List NetLayer) :=
  ((lanes.map (fun l => l.ptr)).eraseDups).filterMap (fun p => (r.network p ni no).map (fun n => (p, n)))

theorem State.netTable_eq {l : NetLane} (hl : l ∈ lanes) : assoc? (r.netTable lanes ni no) l.ptr = r.network l.ptr ni no :=
  (assoc?_found (fun p => r.network p ni no) l.ptr _).trans (if_pos (List.mem_eraseDups.mpr (List.mem_map_of_mem hl)))

/-- The lanes whose network is found, in the order of their tiles. -/
def State.netWaiting : List NetLane :=
  (lanes.map (fun l => l.ptr)).eraseDups.flatMap (fun p => lanes.filter (fun l => l.ptr == p && (r.network p ni no).isSome))

/-- The lanes that fault at issue. -/
def State.netFaulted : List NetLane := lanes.filter (fun l => (r.network l.ptr ni no).isNone)

/-- The operation that a NETV or NETS adds to the open batch. -/
def State.netOp : AsyncOp where
  id := r.nextKey
  team := r.team.key
  crew := r.team.crew
  ctx := r.team.ctx
  core := (r.readNets (lanes.map (fun l => l.ptr)).eraseDups).home
  batch := r.team.openBatch
  pc := r.team.pc.toNat
  work := .net (r.netWaiting lanes ni no) (r.netTable lanes ni no) ((List.range no).map (fun k => r.team.phys (d + k))) none
  landed := (r.netFaulted lanes ni no).flatMap (fun l => ((List.range no).map (fun k => r.team.phys (d + k))).map (fun x =>
    ⟨false, x * 1024 + l.lane, BitVec.ofNat 32 (poison32 0x0A), false, 0, none⟩))
  quota := 128 * no * r.team.liveStrands
  done := (r.netWaiting lanes ni no).isEmpty
  cause := if (r.netFaulted lanes ni no).isEmpty then none else some (0x0A, 0)
  net := true
  faulted := (r.netFaulted lanes ni no).map (fun l => l.lane)
  stamp := (r.readNets (lanes.map (fun l => l.ptr)).eraseDups).tick
  acq := false

theorem State.issueNet_good : (lanes.map (fun l => l.ptr)).eraseDups.flatMap (fun p => lanes.filter (fun l => l.ptr == p
    && (assoc? (r.netTable lanes ni no) p).isSome)) = r.netWaiting lanes ni no := by
  unfold State.netWaiting
  congr 1
  funext p
  refine List.filter_congr fun l hl => ?_
  by_cases hp : l.ptr = p
  · rw [← hp, r.netTable_eq lanes ni no hl]
  · rw [beq_false_of_ne hp, Bool.false_and, Bool.false_and]

theorem State.issueNet_bad : lanes.filter (fun l => (assoc? (r.netTable lanes ni no) l.ptr).isNone) = r.netFaulted lanes ni no :=
  List.filter_congr fun l hl => by rw [r.netTable_eq lanes ni no hl]

theorem State.netWaiting_eq_nil : r.netWaiting lanes ni no = [] ↔ ∀ l ∈ lanes, r.network l.ptr ni no = none := by
  unfold State.netWaiting
  simp only [List.flatMap_eq_nil_iff, List.mem_eraseDups, List.mem_map, List.filter_eq_nil_iff, forall_exists_index, and_imp]
  refine ⟨fun h l hl => ?_, fun h p l hl hp x hx => ?_⟩
  · simpa using h l.ptr l hl rfl l hl
  · subst hp
    simp [h l hl]

/-- What an issued NETV or NETS adds, and what it leaves as it is. -/
theorem State.issueNet_fields {t : State} (ht : t = r.issueNet lanes ni no ((List.range no).map (fun k => r.team.phys (d + k)))
      (128 * no * r.team.liveStrands)) :
    t.ops = r.ops.map (fun o => if o.id = r.nextKey then { o with
        net := true, done := (r.netWaiting lanes ni no).isEmpty, faulted := (r.netFaulted lanes ni no).map (fun l => l.lane)
        cause := if (r.netFaulted lanes ni no).isEmpty then none else some (0x0A, 0)
        landed := (r.netFaulted lanes ni no).flatMap (fun l => ((List.range no).map (fun k => r.team.phys (d + k))).map (fun x =>
          ⟨false, x * 1024 + l.lane, BitVec.ofNat 32 (poison32 0x0A), false, 0, none⟩)) } else o) ++ [r.netOp lanes d ni no]
      ∧ t.team = r.team.advance 1 ∧ t.crew = r.crew ∧ t.ctx = r.ctx ∧ t.mem = r.mem := by
  subst ht
  unfold State.issueNet
  simp only [← State.netTable.eq_1, State.issueNet_good, State.issueNet_bad]
  simp only [State.withTeam_ops, State.withTeam_team, State.withTeam_crew, State.withTeam_ctx, State.withTeam_mem, State.modOp,
    State.addOp, State.readNets_ops, State.readNets_team, State.readNets_crew, State.readNets_ctx, State.readNets_mem, State.readNets_nextKey,
    List.map_append, List.map_cons, List.map_nil, if_true, State.netOp, and_self]

theorem State.netIssued_issueNet :
    Claims.NetIssued r (r.issueNet lanes ni no ((List.range no).map (fun k => r.team.phys (d + k))) (128 * no * r.team.liveStrands))
      lanes d ni no := by
  obtain ⟨hops, hteam, hcrew, hctx, hmem⟩ := r.issueNet_fields lanes d ni no rfl
  refine ⟨r.netOp lanes d ni no, ?_, rfl, ?_, hteam, hcrew, hctx, hmem, rfl, rfl, rfl, rfl, rfl, ?_, ?_, ?_, _, _, rfl, rfl, ?_⟩
  · rw [hops]
    exact List.mem_append_right _ (List.mem_singleton.mpr rfl)
  · rw [hops, List.length_append, List.length_map, List.length_singleton]
  · exact List.isEmpty_iff.trans (r.netWaiting_eq_nil lanes ni no)
  · simp only [State.netOp, List.isEmpty_iff, List.map_eq_nil_iff]
  · simp only [State.netOp, State.netFaulted, List.flatMap_map, List.map_map]
    rfl
  · intro l hl
    obtain ⟨p, -, hp⟩ := List.mem_flatMap.mp hl
    exact r.netTable_eq lanes ni no (List.mem_of_mem_filter hp)

end IssueNet

/-! ## The forms -/

section LaneNet

variable {i : Instr} {b : Bool} {d a c first : Nat} {ptr : Team → Nat → Nat} {s : State} {u : Team} {r : State}
  (hu : u = s.team.belay b) (hr : r = s.withTeam u)

theorem laneNet_of_badField (hfields : s.team.namesOk (Claims.netFields d a first) = false) :
    laneNet i b d a c first ptr s = .next (s.illegal i) := by
  rw [Claims.netFields] at hfields
  rw [laneNet, hfields]
  rfl

variable (hfields : s.team.namesOk (Claims.netFields d a first) = true)
include hu hfields

theorem laneNet_of_empty (hempty : u.active = []) : laneNet i b d a c first ptr s = .next (s.withTeam (u.advance 1)) := by
  rw [Claims.netFields] at hfields
  rw [laneNet, hfields, ← hu, Bool.not_true, if_neg Bool.false_ne_true]
  exact engineForm_of_empty hempty

variable (hactive : u.active ≠ [])
include hr hactive

theorem laneNet_of_noCounts (hcounts : netCounts (u.srd c) = none) : laneNet i b d a c first ptr s = .next (r.illegal i) := by
  subst hr
  rw [Claims.netFields] at hfields
  rw [laneNet, hfields, ← hu, Bool.not_true, if_neg Bool.false_ne_true]
  refine (engineForm_of_active hactive).trans ?_
  simp only [State.withTeam_team, hcounts]

variable {ni no : Nat} (hcounts : netCounts (u.srd c) = some (ni, no))
include hcounts

theorem laneNet_of_counts : laneNet i b d a c first ptr s =
    if (Claims.netNames d a first ni no).any (fun n => decide (127 < n)) || !u.namesOk (Claims.netNames d a first ni no) then .next (r.illegal i)
    else if r.quotaFree < 128 * no * u.liveStrands then
      .next (r.trapHere 0x20 (quotaInfo (128 * no * u.liveStrands) r.quotaFree))
    else .next (r.issueNet (Claims.netLanes u a first ni (ptr u)) ni no ((List.range no).map (fun k => u.phys (d + k)))
      (128 * no * u.liveStrands)) := by
  subst hr
  rw [Claims.netFields] at hfields
  rw [laneNet, hfields, ← hu, Bool.not_true, if_neg Bool.false_ne_true]
  refine (engineForm_of_active hactive).trans ?_
  simp only [State.withTeam_team, hcounts]
  rfl

theorem laneNet_of_badName (hbad : (∃ k ∈ Claims.netNames d a first ni no, 127 < k) ∨ u.namesOk (Claims.netNames d a first ni no) = false) :
    laneNet i b d a c first ptr s = .next (r.illegal i) := by
  rw [laneNet_of_counts hu hr hfields hactive hcounts, if_pos]
  rw [Bool.or_eq_true, List.any_eq_true, Bool.not_eq_true']
  exact hbad.imp_left fun ⟨k, hk, hlt⟩ => ⟨k, hk, decide_eq_true hlt⟩

variable (hsmall : ∀ k ∈ Claims.netNames d a first ni no, k < 128) (hnames : u.namesOk (Claims.netNames d a first ni no) = true)
include hsmall hnames

theorem laneNet_of_names : laneNet i b d a c first ptr s =
    if r.quotaFree < 128 * no * u.liveStrands then .next (r.trapHere 0x20 (quotaInfo (128 * no * u.liveStrands) r.quotaFree))
    else .next (r.issueNet (Claims.netLanes u a first ni (ptr u)) ni no ((List.range no).map (fun k => u.phys (d + k)))
      (128 * no * u.liveStrands)) := by
  rw [laneNet_of_counts hu hr hfields hactive hcounts, if_neg]
  rw [Bool.or_eq_true, List.any_eq_true, Bool.not_eq_true', hnames]
  rintro (⟨k, hk, hlt⟩ | h)
  · exact absurd (hsmall k hk) (Nat.not_lt.mpr (Nat.le_of_lt_succ (Nat.succ_lt_succ (of_decide_eq_true hlt))))
  · exact Bool.noConfusion h

end LaneNet

/-- NETV and NETS are one form, each with the place and the meaning of its pointer. -/
theorem exec_netForms {s : State} {b : Bool} {d a : BitVec 7} {c : BitVec 6} {u : Team} {i : Instr} {first word : Nat} {ptr : Nat → Nat}
    (hi : (i = .netv b d a c ∧ first = 2 ∧ word = c.toNat ∧ ptr = (fun l => (u.rd64 a.toNat l).toNat))
      ∨ (i = .nets b d a c ∧ first = 0 ∧ word = c.toNat + 2 ∧ ptr = (fun _ => (u.srd64 c.toNat).toNat))) :
    ∃ p : Team → Nat → Nat, p u = ptr ∧ exec i s = laneNet i b d.toNat a.toNat word first p s := by
  rcases hi with ⟨rfl, rfl, rfl, rfl⟩ | ⟨rfl, rfl, rfl, rfl⟩
  · exact ⟨fun t l => (t.rd64 a.toNat l).toNat, rfl, rfl⟩
  · exact ⟨fun t _ => (t.srd64 c.toNat).toNat, rfl, rfl⟩

/-- Settles O45: the checks in their order, and the issue of the lanes' networks. -/
theorem networksJoinTheirBatch : Obligations.NetworksJoinTheirBatch := by
  unfold Obligations.NetworksJoinTheirBatch
  intro s b d a c u r hu hr i first word ptr hi
  obtain ⟨p, rfl, hexec⟩ := exec_netForms (s := s) hi
  rw [hexec]
  refine ⟨laneNet_of_badField, fun hfields => ⟨laneNet_of_empty hu hfields, laneNet_of_noCounts hu hr hfields, fun ni no hactive hcounts =>
    ⟨laneNet_of_badName hu hr hfields hactive hcounts, fun hsmall hnames => ⟨fun hquota => ?_, fun hquota => ?_⟩⟩⟩⟩
  · rw [laneNet_of_names hu hr hfields hactive hcounts hsmall hnames, if_neg (Nat.not_lt.mpr hquota)]
    subst hr
    exact ⟨_, rfl, State.netIssued_issueNet (s.withTeam u) _ d.toNat ni no⟩
  · rw [laneNet_of_names hu hr hfields hactive hcounts hsmall hnames, if_pos hquota]

end Sys2Proof.Machine
end

section
/-! SMP.G, SMP, SMP.L and the fills of the sampler cache (R238, R239, R258, R259, R278, R279). -/

namespace Sys2Proof.Machine

/-! ## The sampler cache -/

/-- A line of a core's sampler cache. -/
def CoreState.line? (k : CoreState) (n : Nat) : Option SampLine := k.samp.find? (fun g => g.line == n)

/-- Use of a line changes the order of a set, and so no line's bytes. -/
@[simp] theorem CoreState.useLine_line? (k : CoreState) (line n : Nat) : (k.useLine line).line? n = k.line? n := by
  unfold CoreState.useLine
  split
  next g hg =>
    have hline : g.line = line := by simpa using List.find?_some hg
    rw [CoreState.line?, CoreState.line?, List.find?_append, List.find?_filter]
    by_cases hn : line = n
    · subst hn
      rw [hg, List.find?_eq_none.mpr (fun x _ => by simp), Option.none_or]
      simp [hline]
    · rw [List.find?_cons_of_neg (by simp [hline, hn]), List.find?_nil, Option.or_none]
      congr 1
      funext x
      by_cases hx : x.line = n
      · simp [hx, Ne.symm hn]
      · simp [hx]
  next => rfl

@[simp] theorem CoreState.useLine_miss (k : CoreState) (line : Nat) : (k.useLine line).miss = k.miss := by
  unfold CoreState.useLine
  split <;> rfl

/-- The cores' samplers hold the same lines, and the machine is otherwise the same to an instruction of the sampler. -/
structure SameLines (s t : State) : Prop where
  find (c n : Nat) : (t.core c).line? n = (s.core c).line? n
  team : t.team = s.team
  crew : t.crew = s.crew
  ctx : t.ctx = s.ctx
  mem : t.mem = s.mem

theorem SameLines.refl (s : State) : SameLines s s := ⟨fun _ _ => rfl, rfl, rfl, rfl, rfl⟩

theorem SameLines.trans {s t u : State} (h : SameLines s t) (h' : SameLines t u) : SameLines s u :=
  ⟨fun c n => (h'.find c n).trans (h.find c n), h'.team.trans h.team, h'.crew.trans h.crew, h'.ctx.trans h.ctx, h'.mem.trans h.mem⟩

theorem sameLines_useLine (s : State) (core line : Nat) : SameLines s (s.modCore core (fun k => k.useLine line)) where
  find c n := s.core_modCore_keeps (fun k => k.line? n) core (CoreState.useLine_line? ..) c
  team := rfl
  crew := rfl
  ctx := rfl
  mem := rfl

/-- The lines that a list of needs takes from the cores' caches, each under its key. -/
def servedLines (needs : List (Nat × Nat)) (got : List SampLine) : List SampLine :=
  (List.zip needs got).map (fun x => ⟨gatherKey x.1.1 x.1.2, x.2.bytes⟩)

theorem cachedLines_cons (s : State) (n : Nat × Nat) (rest : List (Nat × Nat)) : Claims.cachedLines s (n :: rest) =
    ((s.core n.1).line? n.2).bind (fun g => (Claims.cachedLines s rest).map (fun gs => g :: gs)) := by
  simp only [Claims.cachedLines, List.mapM_cons, CoreState.line?, Option.bind_eq_bind, Option.pure_def, Option.map_eq_bind]
  rfl

theorem SameLines.cachedLines {s t : State} (h : SameLines s t) (needs : List (Nat × Nat)) :
    Claims.cachedLines t needs = Claims.cachedLines s needs := by
  induction needs with
  | nil => rfl
  | cons n rest ih => rw [cachedLines_cons, cachedLines_cons, ih, h.find]

section ServeLines

variable (s : State) (n : Nat × Nat) (rest : List (Nat × Nat)) (acc : List SampLine)

theorem State.serveLines_of_cached {x : SampLine} (h : (s.core n.1).line? n.2 = some x) : s.serveLines (n :: rest) acc [] =
    (s.modCore n.1 (fun k => k.useLine n.2)).serveLines rest (acc ++ [⟨gatherKey n.1 n.2, x.bytes⟩]) [] := by
  rw [CoreState.line?] at h
  simp only [State.serveLines, h]

theorem State.serveLines_of_missing (h : (s.core n.1).line? n.2 = none) : s.serveLines (n :: rest) acc [] =
    ((s.askLine n.1 n.2).withTeam { s.team with gathered := acc ++ [⟨gatherKey n.1 n.2, []⟩] }, none) := by
  rw [CoreState.line?] at h
  simp only [State.serveLines, h]

end ServeLines

/-- With every line in its core's cache, and none taken before, the instruction takes them all. -/
theorem State.serveLines_of_cachedLines {s : State} {needs : List (Nat × Nat)} {got : List SampLine} (acc : List SampLine)
    (h : Claims.cachedLines s needs = some got) :
    ∃ t, s.serveLines needs acc [] = (t, some (acc ++ servedLines needs got)) ∧ SameLines s t := by
  induction needs generalizing s got acc with
  | nil =>
    cases h
    exact ⟨s, by simp [State.serveLines, servedLines], .refl s⟩
  | cons n rest ih =>
    rw [cachedLines_cons] at h
    obtain ⟨g, hg, hrest⟩ := Option.bind_eq_some_iff.mp h
    obtain ⟨gs, hgs, rfl⟩ := Option.map_eq_some_iff.mp hrest
    have huse := sameLines_useLine s n.1 n.2
    rw [← huse.cachedLines] at hgs
    obtain ⟨t, ht, hsame⟩ := ih (acc ++ [⟨gatherKey n.1 n.2, g.bytes⟩]) hgs
    refine ⟨t, ?_, huse.trans hsame⟩
    rw [State.serveLines_of_cached s n rest acc hg, ht, List.append_assoc]
    rfl

@[simp] theorem State.askLine_team (s : State) (core line : Nat) : (s.askLine core line).team = s.team := rfl

theorem State.mem_miss_askLine (s : State) (core line : Nat) : (line, s.team.key) ∈ ((s.askLine core line).core core).miss := by
  rw [State.askLine, State.core_modCore_self]
  split
  next h => exact h
  next => exact List.mem_append_right _ (List.mem_singleton.mpr rfl)

/-- With a line that no core's cache has, the first such line is asked for. -/
theorem State.serveLines_of_uncached {s : State} {needs : List (Nat × Nat)} (acc : List SampLine) (h : Claims.cachedLines s needs = none) :
    ∃ t, s.serveLines needs acc [] = (t, none) ∧ t.team.pc = s.team.pc ∧ t.mem = s.mem ∧ t.crew = s.crew
      ∧ ∃ x ∈ needs, (s.core x.1).line? x.2 = none ∧ (x.2, s.team.key) ∈ (t.core x.1).miss := by
  induction needs generalizing s acc with
  | nil => cases h
  | cons n rest ih =>
    cases hn : (s.core n.1).line? n.2 with
    | none =>
      exact ⟨_, State.serveLines_of_missing s n rest acc hn, rfl, rfl, rfl, n, List.mem_cons_self, hn, State.mem_miss_askLine s n.1 n.2⟩
    | some g =>
      have huse := sameLines_useLine s n.1 n.2
      rw [cachedLines_cons, hn, Option.bind_some, Option.map_eq_none_iff, ← huse.cachedLines] at h
      obtain ⟨t, ht, hpc, hmem, hcrew, x, hx, hnone, hmiss⟩ := ih (acc ++ [⟨gatherKey n.1 n.2, g.bytes⟩]) h
      exact ⟨t, (State.serveLines_of_cached s n rest acc hn).trans ht, hpc, hmem, hcrew, x, List.mem_cons_of_mem _ hx,
        (huse.find ..).symm.trans hnone, hmiss⟩

/-- Lines that are all served change nothing but the order of the caches. -/
theorem State.serveLines_of_served {s t : State} {needs : List (Nat × Nat)} {acc old got : List SampLine}
    (h : s.serveLines needs acc old = (t, some got)) : SameLines s t := by
  fun_induction State.serveLines s needs acc old with
  | case1 =>
    cases h
    exact .refl _
  | case2 s n rest acc key g more hg ih => exact ih h
  | case3 s n rest acc key g more hg x hx ih => exact (sameLines_useLine s n.1 n.2).trans (ih h)
  | case4 => cases h
  | case5 s n rest acc key x hx ih => exact (sameLines_useLine s n.1 n.2).trans (ih h)
  | case6 => cases h

/-- A lane's word comes from the bytes of its line, under whatever key they stand. -/
theorem gatheredWords_servedLines {ls : List LaneAcc} {needs : List (Nat × Nat)} {got : List SampLine}
    (hlen : needs.length = (located ls).length) :
    Claims.gatheredWords ls (servedLines needs got) = Claims.gatheredWords ls got := by
  rw [Claims.gatheredWords, Claims.gatheredWords, servedLines]
  generalize located ls = as at hlen
  induction as generalizing needs got with
  | nil => rfl
  | cons a as ih =>
    cases needs with
    | nil => exact absurd hlen (by simp)
    | cons n needs =>
      cases got with
      | nil => rfl
      | cons g got =>
        simp only [List.zip_cons_cons, List.map_cons, SampLine.bytesAt, List.cons.injEq, true_and]
        exact ih (Nat.succ.inj hlen)

/-! ## SMP.G -/

section SmpG

variable {s : State} {b : Bool} {d a : BitVec 7} {c : BitVec 6} {u : Team} {ls : List LaneAcc} {needs : List (Nat × Nat)}
  (hu : u = s.team.belay b) (hls : ls = s.lanesAt u .read (fun l => addOffset ((u.srd64 c.toNat).toNat + (u.rd a.toNat l).toNat) 0))
  (hnames : s.team.namesOk [d.toNat, a.toNat] = true) (hall : Claims.AllLocated 4 ls) (hneeds : needs = Claims.lineNeeds s u ls)
include hu hls hnames hall hneeds

theorem exec_smpG_of_waiting {s1 : State} (h : (s.withTeam u).serveLines needs [] u.gathered = (s1, none)) :
    exec (.smpG b d a c) s = .next s1 := by
  subst hu hneeds
  rw [exec, execSmpG, hnames]
  simp only [Bool.not_true, Bool.false_eq_true, if_false, ← hls, precheck_of_allLocated hall]
  rw [Claims.lineNeeds] at h
  simp only [State.withTeam_team, State.withTeam_crew, h]

theorem exec_smpG_of_served {s1 : State} {got : List SampLine} {vals : List (Nat × Word)}
    (h : (s.withTeam u).serveLines needs [] u.gathered = (s1, some got)) (hvals : vals = Claims.gatheredWords ls got) :
    ∃ t, exec (.smpG b d a c) s = .next t
      ∧ t.team = ({ s1.team with gathered := [] }.wr d.toNat (vals.map (fun (v : Nat × Word) => v.1)) (fun l => (assoc? vals l).getD 0)).advance 1
      ∧ t.mem = s.mem ∧ t.crew = s.crew ∧ t.ctx = s.ctx := by
  have hsame := State.serveLines_of_served h
  subst hu hneeds hvals
  refine ⟨((s1.tookLines.touch ls).withTeam
    ((s1.tookLines.touch ls).team.wr d.toNat ((Claims.gatheredWords ls got).map (fun (v : Nat × Word) => v.1))
    (fun l => (assoc? (Claims.gatheredWords ls got) l).getD 0))).finishAccess 1 [], ?_, ?_, ?_, ?_, ?_⟩
  · rw [exec, execSmpG, hnames]
    simp only [Bool.not_true, Bool.false_eq_true, if_false, ← hls, precheck_of_allLocated hall]
    rw [Claims.lineNeeds] at h
    simp only [State.withTeam_team, State.withTeam_crew, h]
    rw [unlocated_of_allLocated hall, Claims.gatheredWords]
  · rw [State.finishAccess_nil, State.withTeam_team, State.withTeam_team, State.touch_team]
    rfl
  · exact (State.touch_mem ..).trans hsame.mem
  · exact (State.touch_crew ..).trans hsame.crew
  · exact (State.touch_ctx ..).trans hsame.ctx

variable (hnone : u.gathered = [])
include hnone

theorem exec_smpG_of_cached {got : List SampLine} {vals : List (Nat × Word)} (h : Claims.cachedLines s needs = some got)
    (hvals : vals = Claims.gatheredWords ls got) :
    ∃ t, exec (.smpG b d a c) s = .next t
      ∧ t.team = (u.wr d.toNat (vals.map (fun (v : Nat × Word) => v.1)) (fun l => (assoc? vals l).getD 0)).advance 1
      ∧ t.mem = s.mem ∧ t.crew = s.crew ∧ t.ctx = s.ctx := by
  obtain ⟨s1, hserve, hsame⟩ := State.serveLines_of_cachedLines (s := s.withTeam u) [] h
  rw [List.nil_append] at hserve
  have hlen : needs.length = (located ls).length := by rw [hneeds, Claims.lineNeeds, List.length_map]
  obtain ⟨t, hexec, hteam, hrest⟩ := exec_smpG_of_served hu hls hnames hall hneeds
    (by rw [hnone]; exact hserve) (hvals.trans (gatheredWords_servedLines hlen).symm)
  refine ⟨t, hexec, ?_, hrest⟩
  have hclear : { s1.team with gathered := [] } = u := by
    rw [hsame.team, State.withTeam_team, ← hnone]
  rw [hteam, hclear]

theorem exec_smpG_of_uncached (h : Claims.cachedLines s needs = none) :
    ∃ t, exec (.smpG b d a c) s = .next t ∧ t.team.pc = s.team.pc ∧ t.mem = s.mem ∧ t.crew = s.crew
      ∧ ∃ x ∈ needs, (s.core x.1).samp.find? (fun g => g.line == x.2) = none ∧ (x.2, s.team.key) ∈ (t.core x.1).miss := by
  obtain ⟨t, hserve, hpc, hmem, hcrew, x, hx, hfind, hmiss⟩ := State.serveLines_of_uncached (s := s.withTeam u) [] h
  refine ⟨t, exec_smpG_of_waiting hu hls hnames hall hneeds (by rw [hnone]; exact hserve), hpc.trans ?_, hmem, hcrew, x, hx, hfind, ?_⟩
  · exact hu ▸ Team.belay_pc s.team b
  · have hkey : u.key = s.team.key := hu ▸ Team.belay_key s.team b
    exact hkey ▸ hmiss

end SmpG

/-! ## SMP and SMP.L -/

theorem assoc?_map {α β : Type} (f : α → β) (xs : List (Nat × α)) (k : Nat) :
    assoc? (xs.map (fun e => (e.1, f e.2))) k = (assoc? xs k).map f := by
  induction xs with
  | nil => rfl
  | cons x xs ih =>
    simp only [List.map_cons, assoc?, ih]
    split <;> rfl

section SampleLanes

variable (r : State) (tx : Texture) (lod : Bool) (a : Nat)

/-- The fates of the acting lanes (R258). -/
def State.fates : List (Nat × LaneFate) := r.team.acting.map (fun l => (l, r.laneFate r.team tx lod a l))

/-- The lanes that fault. -/
def State.texelFaults : List FaultLane := (r.fates tx lod a).filterMap (fun f => match f.2 with | .fault g => some g | _ => none)

/-- What the lanes get, from the bytes of the texels. -/
def State.texelResults (texels : List (Nat × List Byte)) : List (Nat × List Nat × Bool) :=
  r.team.acting.filterMap (fun l => (Claims.laneTexel r tx lod a texels l).map (fun x => (l, x)))

/-- The samples of the lanes that read, by their fates. -/
def State.fateSamples : List (LaneSample × Bool) :=
  (r.fates tx lod a).filterMap (fun f => match f.2 with | .sample x b => some (x, b) | _ => none)

/-- What the lanes get, by their fates. -/
def State.fateResults (texels : List (Nat × List Byte)) : List (Nat × List Nat × Bool) :=
  (r.fates tx lod a).filterMap (fun f => match f.2 with
    | .nan => some (f.1, [0x7FC00000, 0x7FC00000, 0x7FC00000, 0x7FC00000], false)
    | .sample x b => some (f.1, sampleValue tx x ((texels.filter (fun e => e.1 == f.1)).map (fun e => e.2)), b)
    | .fault _ => none)

/-- The bytes of the texels in the lines that were served, the descriptor's first. -/
def texelsIn (needs : List TexelNeed) (got : List SampLine) : List (Nat × List Byte) :=
  joinParts ((List.zip needs (got.drop 1)).map (fun x => (x.1, x.2.bytesAt x.1.loc x.1.size)))

/-- The team with the channels of the lanes in four registers, and in P whether the latent image served. -/
def Team.sampled (t : Team) (d n : Nat) (done : List (Nat × List Nat × Bool)) : Team :=
  let t1 := (List.range 4).foldl (fun (t : Team) k =>
    t.wr (d + k) (done.map (fun e => e.1)) (fun l => BitVec.ofNat 32 (((assoc? done l).map (fun e => e.1.getD k 0)).getD 0))) t
  if n = 0 then t1 else t1.pwr n (done.map (fun e => e.1)) (fun l => ((assoc? done l).map (fun e => e.2)).getD false)

theorem Team.sampled_eq (t : Team) (d n : Nat) (done : List (Nat × List Nat × Bool)) : t.sampled d n done =
    (if n = 0 then Claims.writeLists t d 4 (done.map (fun e => (e.1, e.2.1)))
      else (Claims.writeLists t d 4 (done.map (fun e => (e.1, e.2.1)))).pwr n (done.map (fun e => e.1))
        (fun l => ((assoc? done l).map (fun e => e.2)).getD false)) := by
  simp only [Team.sampled, Claims.writeLists, List.map_map, assoc?_map, Option.map_map]
  rfl

/-- An instruction of the sampler goes on when its lines are all served. -/
def afterLines (p : State × Option (List SampLine)) (k : State → List SampLine → Out) : Out :=
  match p with
  | (s1, none) => .next s1
  | (s1, some got) => k s1 got

/-- The pages of the lanes that fell back, which are reported (R258). -/
def State.fallbackPages (done : List (Nat × List Nat × Bool)) : List Nat :=
  ((done.filter (fun e => e.2.2)).flatMap (fun e => r.missingPages r.team tx lod a e.1)).eraseDups

theorem sampleLanes_eq (d n : Nat) (desc : SampLine) : sampleLanes lod d a n tx desc r =
    afterLines (r.serveLines (Claims.texelLines r (r.texels tx (r.fateSamples tx lod a))) [desc] (r.team.gathered.drop 1)) (fun s1 got =>
      let done := r.fateResults tx lod a (texelsIn (r.texels tx (r.fateSamples tx lod a)) got)
      .next ((({ s1.tookLines with dev := s1.tookLines.dev.report (fun x =>
        { x with residency := x.residency ++ (r.fallbackPages tx lod a done).map (fun p => (s1.tookLines.ctx.key, p)) }) } : State).withTeam
          (s1.tookLines.team.sampled d n done)).finishAccess 1 (r.texelFaults tx lod a))) := rfl

theorem State.fateSamples_eq : r.fateSamples tx lod a = Claims.laneSamples r tx lod a := by
  rw [State.fateSamples, State.fates, Claims.laneSamples, List.filterMap_map]
  rfl

theorem State.fateResults_eq (texels : List (Nat × List Byte)) : r.fateResults tx lod a texels = r.texelResults tx lod a texels := by
  rw [State.fateResults, State.fates, State.texelResults, List.filterMap_map]
  refine List.filterMap_congr fun l _ => ?_
  simp only [Function.comp, Claims.laneTexel]
  cases r.laneFate r.team tx lod a l <;> rfl

theorem State.texelFaults_eq_nil {texels : List (Nat × List Byte)}
    (h : ∀ l ∈ r.team.acting, (Claims.laneTexel r tx lod a texels l).isSome = true) : r.texelFaults tx lod a = [] := by
  rw [State.texelFaults, State.fates, List.filterMap_map]
  refine List.filterMap_eq_nil_iff.mpr fun l hl => ?_
  have hsome := h l hl
  rw [Claims.laneTexel] at hsome
  simp only [Function.comp]
  cases hfate : r.laneFate r.team tx lod a l with
  | fault => simp [hfate] at hsome
  | _ => rfl

/-- What SMP and SMP.L answer once the descriptor is read. -/
theorem samples_sampleLanes (d n : Nat) (desc : SampLine) {old : List SampLine} (hold : r.team.gathered.drop 1 = old) :
    Claims.Samples r tx desc old lod d a n (sampleLanes lod d a n tx desc r) := by
  intro needs hneeds
  subst hold hneeds
  rw [sampleLanes_eq, State.fateSamples_eq]
  refine ⟨fun s1 h => by rw [h, afterLines], fun s1 got texels done h htexels hall hdone => ?_⟩
  have hsame := State.serveLines_of_served h
  have hresults : r.fateResults tx lod a (texelsIn (r.texels tx (Claims.laneSamples r tx lod a)) got) = done := by
    rw [texelsIn, ← htexels, State.fateResults_eq, hdone, State.texelResults]
  rw [h, afterLines, hresults, State.texelFaults_eq_nil r tx lod a hall]
  refine ⟨_, rfl, hsame.mem, hsame.crew, hsame.ctx, ?_⟩
  rintro v rfl
  rw [← Team.sampled_eq]
  rfl

end SampleLanes

theorem State.walkFrom_withTeam (s : State) (t : Team) (die va : Nat) (levels : List (Nat × Nat × Nat)) (table : Nat) :
    (s.withTeam t).walkFrom die va levels table = s.walkFrom die va levels table := by
  have hslice (p : Nat) : (s.withTeam t).sliceByte p = s.sliceByte p := rfl
  have hdev : (s.withTeam t).dev = s.dev := rfl
  induction levels generalizing table with
  | nil => rfl
  | cons x rest ih => simp only [State.walkFrom, hslice, hdev, ih]

/-- The belay wait moves no team to another core, and so changes no translation. -/
theorem State.translate_belay (s : State) (b : Bool) (core va : Nat) (acc : Access) :
    (s.withTeam (s.team.belay b)).translate core va acc = s.translate core va acc := by
  have hcreg (k : Nat) : (s.withTeam (s.team.belay b)).creg k = s.creg k := by
    rw [State.creg, State.creg, Crew.coreOf, Crew.coreOf, State.withTeam_team, Team.belay_part]
    rfl
  have hleaf (c : Context) (held : Option TlbEntry) :
      (s.withTeam (s.team.belay b)).leafBeside c (dieOf core) va held = s.leafBeside c (dieOf core) va held := by
    have hwalk : (s.withTeam (s.team.belay b)).walk c (dieOf core) va = s.walk c (dieOf core) va := State.walkFrom_withTeam ..
    unfold State.leafBeside
    rw [hwalk]
    rfl
  rw [State.translate, State.translate, hcreg, hcreg, hcreg, State.translateWith, State.translateWith, hleaf]
  rfl

section SmpForms

variable {s : State} {b : Bool} {d a : BitVec 7} {n : BitVec 3} {k : BitVec 4} {i : Instr} {lod : Bool} {u : Team}

/-- SMP and SMP.L are one form. -/
theorem exec_smpForms (hi : Claims.SmpForm s.team b d a n k i lod) : exec i s = sampleForm i b lod d.toNat a.toNat n.toNat k.toNat s := by
  obtain ⟨hmem, -⟩ := hi
  simp only [List.mem_cons, List.not_mem_nil, or_false, Prod.mk.injEq] at hmem
  rcases hmem with ⟨rfl, rfl⟩ | ⟨rfl, rfl⟩ <;> rfl

variable (hu : u = s.team.belay b) (hi : Claims.SmpForm s.team b d a n k i lod)
include hu hi

theorem exec_smpForms_of_empty (hempty : u.active = []) : exec i s = .next (s.withTeam (u.advance 1)) := by
  rw [exec_smpForms hi, sampleForm, hi.2, Bool.not_true, if_neg Bool.false_ne_true, ← hu]
  exact if_pos hempty

variable (hactive : u.active ≠ [])
include hactive

theorem exec_smpForms_of_gathered {g : SampLine} {old : List SampLine} (hgathered : u.gathered = g :: old) :
    exec i s = sampleLanes lod d.toNat a.toNat n.toNat (textureOf g.bytes) g (s.withTeam u) := by
  rw [exec_smpForms hi, sampleForm, hi.2, Bool.not_true, if_neg Bool.false_ne_true, ← hu]
  simp only [if_neg hactive, State.withTeam_team, hgathered]

variable (hnone : u.gathered = []) {va : Nat} (hva : va = (u.srd64 (4 * k.toNat)).toNat) (haligned : va % 64 = 0) (hinside : va < 2 ^ 57)
  {l : Loc} (hl : s.translate (s.crew.coreOf u 0) va .read = .ok l) {r1 : State} {h : List Byte}
  (hread : (s.withTeam u).readDescriptor l va = (r1, h))
include hnone hva haligned hinside hl hread

theorem exec_smpForms_of_read : exec i s = match textureFault h with
    | some off => .next (r1.textureTrap off)
    | none => sampleLanes lod d.toNat a.toNat n.toNat (textureOf h) ⟨descKey, h⟩ (r1.touch [⟨0, va, .ok l⟩]) := by
  have hacc : (s.withTeam u).scalarAcc u .read va = ⟨0, va, .ok l⟩ := by
    rw [State.scalarAcc, State.withTeam_crew, hu, State.translate_belay, ← hu, hl]
  have hcheck : precheck 64 [⟨0, va, .ok l⟩] = none :=
    precheck_of_allLocated (fun x hx => by rw [List.mem_singleton.mp hx]; exact ⟨haligned, hinside, l, rfl⟩)
  rw [exec_smpForms hi, sampleForm, hi.2, Bool.not_true, if_neg Bool.false_ne_true, ← hu]
  simp only [if_neg hactive, State.withTeam_team, hnone, ← hva, haligned, ne_eq, not_true, if_false, hacc, hcheck, hread] <;> rfl

end SmpForms

/-! ## SAMPLER_FILL -/

section ModTeam

variable {f : Team → Team} (hkey : ∀ t, (f t).key = t.key) (hstate : ∀ t, (f t).state = t.state)
include hkey hstate

theorem State.team?_modTeam (s : State) (j k : Nat) : (s.modTeam k f).team? j = (s.team? j).map (fun t => if j = k then f t else t) := by
  have hfind : (s.teams.map (fun t => if t.key = k then f t else t)).find? (fun t => t.key == j) =
      (s.teams.find? (fun t => t.key == j)).map (fun t => if j = k then f t else t) := by
    rw [List.find?_map]
    have hpred : ((fun t : Team => t.key == j) ∘ fun t => if t.key = k then f t else t) = fun t => t.key == j := by
      funext t
      simp only [Function.comp]
      split
      · rw [hkey]
      · rfl
    rw [hpred]
    refine Option.map_congr fun t ht => ?_
    rw [beq_iff_eq.mp (List.find?_some (p := fun t : Team => t.key == j) ht)]
  unfold State.modTeam
  split
  next hself =>
    by_cases hj : s.team.key = j
    · have hjk : j = k := hj.symm.trans hself.2
      simp [State.team?, hkey, hstate, hself.1, hj, hjk]
    · have hjk : j ≠ k := fun h => hj (hself.2.trans h.symm)
      simp [State.team?, hkey, hstate, hj, hjk]
  next hself =>
    by_cases hj : s.team.state ≠ .free ∧ s.team.key = j
    · have hjk : j ≠ k := fun h => hself ⟨hj.1, hj.2.trans h⟩
      simp only [State.team?, if_pos hj, Option.map_some, if_neg hjk]
    · simp only [State.team?, if_neg hj]
      exact hfind

end ModTeam

section Deliver

variable (key : Nat) {bytes : List Byte}

theorem Team.deliver_gathered (t : Team) : (t.deliver key bytes).gathered =
    t.gathered.map (fun g => if g.line = key ∧ g.bytes = [] then ⟨key, bytes⟩ else g) := by
  refine List.map_congr_left fun g _ => ?_
  split
  next h => rw [← h.1]
  next => rfl

/-- A line that has arrived is there for good. -/
theorem Team.deliver_deliver (hbytes : bytes ≠ []) (t : Team) : (t.deliver key bytes).deliver key bytes = t.deliver key bytes := by
  have hgathered : ((t.deliver key bytes).deliver key bytes).gathered = (t.deliver key bytes).gathered := by
    rw [Team.deliver_gathered, Team.deliver_gathered, List.map_map]
    refine List.map_congr_left fun g _ => ?_
    simp only [Function.comp]
    split <;> simp_all
  exact congrArg (fun gs => { t with gathered := gs }) hgathered

theorem State.team?_foldl_deliver (hbytes : bytes ≠ []) (who : List Nat) (s : State) (j : Nat) :
    (who.foldl (fun (s : State) k => s.modTeam k (fun t => t.deliver key bytes)) s).team? j =
      (s.team? j).map (fun t => if j ∈ who then t.deliver key bytes else t) := by
  induction who generalizing s with
  | nil => simp
  | cons k who ih =>
    rw [List.foldl_cons, ih, State.team?_modTeam (f := fun t => t.deliver key bytes) (fun _ => rfl) (fun _ => rfl), Option.map_map]
    refine Option.map_congr fun t _ => ?_
    by_cases hjk : j = k <;> by_cases hmem : j ∈ who <;> simp [hjk, hmem, Team.deliver_deliver key hbytes]

end Deliver

section Fill

/-- A core whose sampler has installed a line that it no longer misses. -/
def CoreState.filled (k : CoreState) (line : Nat) (bytes : List Byte) : CoreState :=
  ({ k with miss := k.miss.filter (fun m => m.1 != line) }).installLine ⟨line, bytes⟩

theorem CoreState.mem_samp_filled (k : CoreState) (line : Nat) (bytes : List Byte) : (⟨line, bytes⟩ : SampLine) ∈ (k.filled line bytes).samp :=
  List.mem_append_right _ (List.mem_singleton.mpr rfl)

theorem CoreState.ne_of_mem_miss_filled {k : CoreState} {line : Nat} {bytes : List Byte} {m : Nat × Nat} (h : m ∈ (k.filled line bytes).miss) :
    m.1 ≠ line := by
  have hm : m ∈ k.miss.filter (fun m => m.1 != line) := h
  simpa using (List.mem_filter.mp hm).2

theorem State.lineBytes_ne_nil (s : State) (line : Nat) : s.lineBytes line ≠ [] := by simp [State.lineBytes]

/-- The read of a line of device memory may meet an armed injection (R398). -/
def State.readLine (s : State) (line : Nat) : State := if line < 2 ^ 33 then s.reported (line * 128) 128 else s

theorem State.readLine_keeps {α : Type} (field : State → α) (h : ∀ (s : State) p n, field (s.reported p n) = field s) (s : State) (line : Nat) :
    field (s.readLine line) = field s := by
  unfold State.readLine
  split
  · exact h ..
  · rfl

/-- The state after a fill. -/
def State.filled (s : State) (core line : Nat) (who : List Nat) (bytes : List Byte) : State :=
  who.foldl (fun (s : State) k => s.modTeam k (fun t => t.deliver (gatherKey core line) bytes))
    ((s.readLine line).modCore core (fun k => k.filled line bytes))

variable {s : State} {core line : Nat} {who : List Nat} (hwho : who = ((s.core core).miss.filter (fun m => m.1 == line)).map (fun m => m.2))
  (hne : who ≠ [])
include hwho hne

theorem exec_samplerFill_of_asked : exec (.samplerFill core line) s = .next (s.filled core line who (s.lineBytes line)) := by
  subst hwho
  rw [exec, execSamplerFill, if_neg hne]
  rfl

omit hwho hne

theorem State.filled_core (s : State) (core line : Nat) (who : List Nat) (bytes : List Byte) :
    (s.filled core line who bytes).core core = (s.core core).filled line bytes := by
  rw [State.filled, State.core_congr (State.foldl_keeps _ (·.cores) (fun _ _ => State.modTeam_cores ..) _ _), State.core_modCore_self,
    State.core_congr (State.readLine_keeps (·.cores) State.reported_cores s line)]

theorem State.filled_mem (s : State) (core line : Nat) (who : List Nat) (bytes : List Byte) : (s.filled core line who bytes).mem = s.mem := by
  rw [State.filled, State.foldl_keeps _ (·.mem) (fun _ _ => State.modTeam_mem ..)]
  exact State.readLine_keeps (·.mem) State.reported_mem s line

theorem State.filled_team? (s : State) (core line : Nat) (who : List Nat) {bytes : List Byte} (hbytes : bytes ≠ []) (j : Nat) :
    (s.filled core line who bytes).team? j = (s.team? j).map (fun t => if j ∈ who then t.deliver (gatherKey core line) bytes else t) := by
  rw [State.filled, State.team?_foldl_deliver _ hbytes]
  have hteam : ((s.readLine line).modCore core (fun k => k.filled line bytes)).team? j = s.team? j := by
    rw [State.team?, State.team?]
    have h1 : ((s.readLine line).modCore core (fun k => k.filled line bytes)).team = s.team :=
      State.readLine_keeps (·.team) State.reported_team s line
    have h2 : ((s.readLine line).modCore core (fun k => k.filled line bytes)).teams = s.teams :=
      State.readLine_keeps (·.teams) State.reported_teams s line
    rw [h1, h2]
  rw [hteam]

end Fill

/-- Settles O46: the lines are served one after another, and the lanes take their words and texels from them. -/
theorem samplerReads : Obligations.SamplerReads := by
  unfold Obligations.SamplerReads
  intro s b d a c n k u r hu hr
  subst hr
  refine ⟨fun ls needs hls hnames hall hneeds => ⟨fun got vals hnone => exec_smpG_of_cached hu hls hnames hall hneeds hnone,
      exec_smpG_of_uncached hu hls hnames hall hneeds, fun s1 => exec_smpG_of_waiting hu hls hnames hall hneeds,
      fun s1 got vals => exec_smpG_of_served hu hls hnames hall hneeds⟩,
    fun i lod hi => ⟨exec_smpForms_of_empty hu hi, fun g old hactive hgathered => ?_,
      fun va l r1 h hactive hnone hva haligned hinside hl hread => ⟨fun hgood => ?_, fun off hfault => ?_⟩⟩, fun core line who hwho hne => ?_⟩
  · rw [exec_smpForms_of_gathered hu hi hactive hgathered]
    refine samples_sampleLanes _ _ _ _ _ _ _ ?_
    rw [State.withTeam_team, hgathered]
    rfl
  · rw [exec_smpForms_of_read hu hi hactive hnone hva haligned hinside hl hread, hgood]
    refine samples_sampleLanes _ _ _ _ _ _ _ ?_
    rw [State.touch_team]
  · rw [exec_smpForms_of_read hu hi hactive hnone hva haligned hinside hl hread, hfault]
  · refine ⟨_, exec_samplerFill_of_asked hwho hne, ?_, ?_, State.filled_mem .., fun j hj y x hy hx => ?_⟩
    · rw [State.filled_core]
      exact CoreState.mem_samp_filled ..
    · rw [State.filled_core]
      exact fun m hm => CoreState.ne_of_mem_miss_filled hm
    · rw [State.filled_team? s core line who (State.lineBytes_ne_nil s line), hy, Option.map_some, if_pos hj] at hx
      rw [← Option.some.inj hx, Team.deliver_gathered]

end Sys2Proof.Machine
end

section
/-! ATTRF and ATTRB (R165 to R168, R252, R261). -/

namespace Sys2Proof.Machine

/-! ## Preparation -/

theorem samePackage_prepareAttr (s : State) (c a : Nat) (perAttr : Bool) : SamePackage s (s.prepareAttr c a perAttr) :=
  .foldl (fun s _ => samePackage_prepareLoad s ..) _ s

/-! ## The lanes' results -/

/-- The lanes that have results. -/
def attrGood (got : List (Nat × Got (List Nat))) : List (Nat × List Nat) :=
  got.filterMap (fun e => match e.2.res with | .ok xs => some (e.1, xs) | .error _ => none)

/-- The lanes of which a read fails. -/
def attrFaults (got : List (Nat × Got (List Nat))) : List FaultLane :=
  got.filterMap (fun e => match e.2.res with
    | .ok _ => none
    | .error (va, k) => some (⟨e.1, va, k, 0⟩ : FaultLane))

/-- The state after the reads of the lanes. -/
def State.attrRead (s0 : State) (got : List (Nat × Got (List Nat))) : State :=
  (s0.attrReads got).foldl (fun s x => s.fillTlb s.ctx (s.crew.coreOf s.team (x.1 / 32)) x.2.1) (s0.concludeLoad 0 4 (s0.attrReads got))

/-- What an ATTR form answers, once its lanes' results are known. -/
def attrAnswer (s0 : State) (d outs : Nat) (got : List (Nat × Got (List Nat))) : Out :=
  match (attrFaults got).find? (fun f => decide (2 ^ 57 ≤ f.va)) with
  | some f => .next (s0.vaTrap 0x05 f.lane f.va)
  | none => .next (((s0.attrRead got).withTeam (Claims.writeLists (s0.attrRead got).team d outs (attrGood got))).finishAccess 1 (attrFaults got))

section Results

variable {got : List (Nat × Got (List Nat))}

theorem attrGood_of_all {res : List (Nat × List Nat)} (h : got.map (fun e => (e.1, e.2.res)) = res.map (fun e => (e.1, Except.ok e.2))) :
    attrGood got = res ∧ attrFaults got = [] := by
  induction got generalizing res with
  | nil => cases res with
    | nil => exact ⟨rfl, rfl⟩
    | cons => cases h
  | cons e got ih => cases res with
    | nil => cases h
    | cons x res =>
      simp only [List.map_cons, List.cons.injEq, Prod.mk.injEq] at h
      obtain ⟨⟨hlane, hres⟩, htail⟩ := h
      obtain ⟨hgood, hfaults⟩ := ih htail
      simp only [attrGood, attrFaults] at hgood hfaults ⊢
      simp only [List.filterMap_cons, hres, hlane, hgood, hfaults, and_self]

theorem attrFaults_find?_of_beyond {l va k : Nat} (h : (got.filterMap (fun e => match e.2.res with
      | .error (va, k) => if 2 ^ 57 ≤ va then some (e.1, va, k) else none
      | .ok _ => none)).head? = some (l, va, k)) :
    (attrFaults got).find? (fun f => decide (2 ^ 57 ≤ f.va)) = some ⟨l, va, k, 0⟩ := by
  induction got with
  | nil => cases h
  | cons e got ih =>
    rw [attrFaults] at ih ⊢
    cases hres : e.2.res with
    | ok => simp only [List.filterMap_cons, hres] at h ⊢; exact ih h
    | error x =>
      by_cases hva : 2 ^ 57 ≤ x.1
      · simp only [List.filterMap_cons, hres, if_pos hva, List.head?_cons, Option.some.injEq, Prod.mk.injEq] at h
        obtain ⟨rfl, rfl, rfl⟩ := h
        simp only [List.filterMap_cons, hres, List.find?_cons, decide_eq_true hva]
      · simp only [List.filterMap_cons, hres, if_neg hva] at h ⊢
        simp only [List.find?_cons, decide_eq_false hva]
        exact ih h

end Results

section Read

variable (s0 : State) (got : List (Nat × Got (List Nat)))

theorem State.attrRead_keeps {α : Type} (field : State → α) (hfill : ∀ (s : State) c k va, field (s.fillTlb c k va) = field s) :
    field (s0.attrRead got) = field (s0.concludeLoad 0 4 (s0.attrReads got)) :=
  State.foldl_keeps _ field (fun s (_ : Nat × Nat × Loc) => hfill s _ _ _) _ _

theorem State.attrRead_mem : (s0.attrRead got).mem = s0.mem :=
  (s0.attrRead_keeps got (·.mem) State.fillTlb_mem).trans (State.concludeLoad_mem ..)

theorem State.attrRead_team : (s0.attrRead got).team = s0.team := by
  refine (s0.attrRead_keeps got (·.team) State.fillTlb_team).trans ?_
  rw [State.concludeLoad, State.withTeam_team, State.afterLanes, if_pos rfl]
  exact State.foldl_keeps _ (·.team) (fun s (x : Nat × Nat × Loc) => State.afterLoad_team ..) _ s0

theorem State.attrRead_crew : (s0.attrRead got).crew = s0.crew :=
  (s0.attrRead_keeps got (·.crew) State.fillTlb_crew).trans (samePackage_concludeLoad ..).crew

theorem State.attrRead_ctx : (s0.attrRead got).ctx = s0.ctx :=
  (s0.attrRead_keeps got (·.ctx) State.fillTlb_ctx).trans (samePackage_concludeLoad ..).ctx

end Read

/-! ## The forms -/

section AttrForm

variable {s : State} {i : Instr} {b : Bool} {d a c outs : Nat} {perAttr : Bool} {u : Team} (hu : u = s.team.belay b)
  (hnames : s.team.namesOk ((List.range outs).map (fun k => d + k) ++ (List.range 4).map (fun k => a + k)) = true)
include hu hnames

theorem attrForm_of_empty (hempty : u.acting = []) : attrForm i b d a c outs perAttr s = .next (s.withTeam (u.advance 1)) := by
  rw [attrForm, hnames, Bool.not_true, if_neg Bool.false_ne_true, ← hu]
  simp only [hempty]

theorem attrForm_of_misaligned {l : Nat} {rest : List Nat} (hacting : u.acting = l :: rest) (htable : (u.srd64 c).toNat % 64 ≠ 0) :
    attrForm i b d a c outs perAttr s = .next ((s.withTeam u).vaTrap 0x03 l (u.srd64 c).toNat) := by
  rw [attrForm, hnames, Bool.not_true, if_neg Bool.false_ne_true, ← hu]
  simp only [hacting, if_pos htable]

variable (hacting : u.acting ≠ []) (htable : (u.srd64 c).toNat % 64 = 0) {s0 : State} (hs0 : s0 = (s.withTeam u).prepareAttr c a perAttr)
include hacting htable hs0

theorem attrForm_of_aligned : attrForm i b d a c outs perAttr s = attrAnswer s0 d outs (s0.attrLanes c a perAttr) := by
  rw [attrForm, hnames, Bool.not_true, if_neg Bool.false_ne_true, ← hu]
  obtain ⟨l, rest, hlanes⟩ := List.exists_cons_of_ne_nil hacting
  simp only [hlanes, if_neg (not_not.mpr htable), ← hs0]
  rfl

theorem attrForm_of_results {res : List (Nat × List Nat)}
    (hres : (s0.attrLanes c a perAttr).map (fun e => (e.1, e.2.res)) = res.map (fun e => (e.1, Except.ok e.2))) :
    ∃ t, attrForm i b d a c outs perAttr s = .next t ∧ t.team = (Claims.writeLists s0.team d outs res).advance 1
      ∧ t.mem = s0.mem ∧ t.crew = s.crew ∧ t.ctx = s.ctx := by
  obtain ⟨hgood, hfaults⟩ := attrGood_of_all hres
  have hsame := hs0 ▸ samePackage_prepareAttr (s.withTeam u) c a perAttr
  rw [attrForm_of_aligned hu hnames hacting htable hs0, attrAnswer, hfaults, hgood, State.attrRead_team]
  exact ⟨_, rfl, rfl, State.attrRead_mem .., (State.attrRead_crew ..).trans hsame.crew, (State.attrRead_ctx ..).trans hsame.ctx⟩

theorem attrForm_of_beyond {l va k : Nat}
    (h : (attrFaults (s0.attrLanes c a perAttr)).find? (fun f => decide (2 ^ 57 ≤ f.va)) = some ⟨l, va, k, 0⟩) :
    attrForm i b d a c outs perAttr s = .next (s0.vaTrap 0x05 l va) := by
  rw [attrForm_of_aligned hu hnames hacting htable hs0, attrAnswer, h]

end AttrForm

/-- ATTRF and ATTRB are one form, with four results or three. -/
theorem exec_attrForms {s : State} {b : Bool} {d a : BitVec 7} {c : BitVec 6} {i : Instr} {outs : Nat} {perAttr : Bool}
    (hi : (i, outs, perAttr) ∈ [(Instr.attrf b d a c, 4, true), (Instr.attrb b d a c, 3, false)]) :
    exec i s = attrForm i b d.toNat a.toNat c.toNat outs perAttr s := by
  simp only [List.mem_cons, List.not_mem_nil, or_false, Prod.mk.injEq] at hi
  rcases hi with ⟨rfl, rfl, rfl⟩ | ⟨rfl, rfl, rfl⟩ <;> rfl

theorem State.attrLane_of_noPrimitive (r : State) (core table px py : Nat) (g : Option Nat) :
    r.attrLane core table (BitVec.allOnes 64) px py g = ⟨[], .ok (List.replicate (if g.isSome then 4 else 3) 0)⟩ := by
  rw [State.attrLane]
  exact if_pos rfl

/-- Settles O47: the checks in their order, then the results of the lanes. -/
theorem attributesInterpolate : Obligations.AttributesInterpolate := by
  unfold Obligations.AttributesInterpolate
  intro s b d a c u r hu hr
  subst hr
  refine ⟨fun i outs perAttr hi hnames => ?_, State.attrLane_of_noPrimitive (s.withTeam u)⟩
  rw [exec_attrForms hi]
  exact ⟨attrForm_of_empty hu hnames, fun l rest => attrForm_of_misaligned hu hnames, fun hacting htable s0 hs0 =>
    ⟨fun res => attrForm_of_results hu hnames hacting htable hs0,
      fun l va k h => attrForm_of_beyond hu hnames hacting htable hs0 (attrFaults_find?_of_beyond h)⟩⟩

end Sys2Proof.Machine
end

section
/-! NODE.DONE, CANCEL, the host's and the device's events of jobs, and the quiescence report (R305, R306, R311, R312, R316, R341, R342). -/

namespace Sys2Proof.Machine

/-! ## The issuing context -/

theorem State.ctx?_self {s : State} (h : s.ctx.state ≠ .none) : s.ctx? s.ctx.key = some s.ctx := if_pos ⟨h, rfl⟩

/-- Where the issuing context is the one with a key, that key finds it. -/
theorem State.ctx?_eq_self {s : State} {ctx : Nat} {k : Context} (hfind : s.ctx? ctx = some k) (hkey : s.ctx.key = ctx)
    (hstate : s.ctx.state ≠ .none) : k = s.ctx := by
  subst hkey
  rw [State.ctx?_self hstate] at hfind
  exact (Option.some.inj hfind).symm

/-! ## Nodes -/

section NodeDone

variable {s : State} {b : Bool} {a : BitVec 6} {u : Team} {v : Nat} (hu : u = s.team.belay b) (hv : v = (u.srd a.toNat).toNat)
include hu hv

theorem exec_nodeDone_of_beyond (h : s.ctx.nodes.length ≤ v) : exec (.nodeDone b a) s = .next (s.illegal (.nodeDone b a)) := by
  subst hu hv
  rw [exec, execNodeDone]
  exact if_pos h

theorem exec_nodeDone_of_node (h : v < s.ctx.nodes.length) : exec (.nodeDone b a) s =
    if s.ctx.bin v = [] ∨ v ∈ s.ctx.drained then .next (s.withTeam (u.advance 1))
    else .next { s with team := u.advance 1, ctx := { s.ctx with drained := v :: s.ctx.drained } } := by
  subst hu hv
  rw [exec, execNodeDone]
  exact if_neg (Nat.not_le.mpr h)

end NodeDone

/-! ## Cancelled jobs -/

section CancelJob

variable {s : State} {ctx j : Nat} {k : Context} (hctx : s.ctx? ctx = some k)
include hctx

theorem State.cancelJob_of_marked (h : k.isCancelled j = true ∨ k.state = .terminated) : s.cancelJob ctx j = s := by
  simp only [State.cancelJob, hctx, if_pos h]

theorem State.cancelJob_of_unmarked (hmark : k.isCancelled j = false) (hstate : k.state ≠ .terminated) :
    s.cancelJob ctx j = s.modCtx ctx (fun c => Claims.marked s c j) := by
  have h : ¬(k.isCancelled j = true ∨ k.state = .terminated) := by simp [hmark, hstate]
  simp only [State.cancelJob, hctx, if_neg h]
  rfl

end CancelJob

section Cancel

variable {s : State} {b : Bool} {a : BitVec 6} {u : Team} {v : Nat} (hu : u = s.team.belay b) (hv : v = (u.srd a.toNat).toNat)
include hu hv

theorem exec_cancel_of_outside (h : v = 0 ∨ 65536 ≤ v) : exec (.cancel b a) s = .next (s.illegal (.cancel b a)) := by
  subst hu hv
  rw [exec, execCancel]
  exact if_pos h

theorem exec_cancel_of_job (hpos : 0 < v) (hlt : v < 65536) : exec (.cancel b a) s = .next ((s.withTeam (u.advance 1)).cancelJob s.ctx.key v) := by
  subst hu hv
  rw [exec, execCancel]
  exact if_neg (by omega)

end Cancel

theorem exec_hostCancel_of_job {s : State} {ctx job : Nat} (hpos : 0 < job) (hlt : job < 65536) :
    exec (.hostCancel ctx job) s = .next (s.cancelJob ctx job) := by
  rw [exec, execHostCancel]
  exact if_neg (by omega)

/-- The records of a job leave a bin, and an empty bin loses its mark. -/
theorem Context.dropJob_eq (c : Context) (n job : Nat) : c.dropJob n job =
    { (c.modBin n (fun l => l.filter (fun r => r.job.toNat != job || r.castOff))) with
      drained := if (c.bin n).filter (fun r => r.job.toNat != job || r.castOff) = [] ∨ c.nodes.length ≤ n then
        c.drained.filter (fun i => i != n) else c.drained } := by
  have hempty : (c.modBin n (fun l => l.filter (fun r => r.job.toNat != job || r.castOff))).bin n = [] ↔
      ((c.bin n).filter (fun r => r.job.toNat != job || r.castOff) = [] ∨ c.nodes.length ≤ n) := by
    by_cases hn : n < c.nodes.length
    · rw [Context.bin_modBin c n _ hn, if_pos rfl, or_iff_left (Nat.not_le.mpr hn)]
    · refine iff_of_true ?_ (.inr (Nat.not_lt.mp hn))
      simp [Context.bin, Context.modBin, Nat.not_lt.mp hn]
  rw [Context.dropJob]
  simp only [hempty]
  split <;> rfl

theorem JobState.nextStatus_eq (e : JobState) : e.nextStatus = if e.cancelled = true ∧ 1 ∉ e.due then 1 else 0 := by
  simp [JobState.nextStatus]

/-! ## Reports -/

section Report

variable {s s1 : State} {ctx job : Nat} {k : Context} {w status : Nat} {rest : List Nat} (hctx : s.ctx? ctx = some k)
  (hdue : (k.job job).due = status :: rest) (hw : w = statusWord ((k.job job).epoch + 1) status 0)
include hctx hdue hw

theorem exec_quiescenceReport_of_unwritten (hwrite : s.writeFor k (k.qbase + 4 * job) (leBytes 4 w) = (s1, false)) :
    exec (.quiescenceReport ctx job) s = .next s1 := by
  rw [exec, execQuiescenceReport]
  simp only [hctx, hdue, ← hw, hwrite]

theorem exec_quiescenceReport_of_written (hwrite : s.writeFor k (k.qbase + 4 * job) (leBytes 4 w) = (s1, true)) {e : JobState}
    (he : e = { k.job job with epoch := (k.job job).epoch + 1, cancelled := (k.job job).cancelled && status != 1, due := rest }) :
    exec (.quiescenceReport ctx job) s = .next (s1.modCtx ctx (fun c =>
      if job = 0 ∨ c.state = .terminated then c.putJob e
      else State.deviceRecord (c.putJob e) s1.dev.clock c.quietNode 0 false [BitVec.ofNat 32 job, BitVec.ofNat 32 w])) := by
  rw [exec, execQuiescenceReport]
  simp only [hctx, hdue, ← hw, hwrite, ← he]
  rfl

end Report

/-- Settles O49: each instruction and event by its rule. -/
theorem nodesAndJobs : Obligations.NodesAndJobs := by
  unfold Obligations.NodesAndJobs
  intro s b a u v hu hv
  refine ⟨fun hnode hbin hdrained => ?_, fun hnode h => ?_, exec_nodeDone_of_beyond hu hv,
    fun hpos hlt hnone => ⟨fun h => ?_, fun hmark hstate => ?_⟩,
    fun h => ?_, fun ctx job k hctx hpos hlt => ⟨fun hmark hstate => ?_, fun h => ?_⟩, fun ctx job node k hctx hmark => ?_,
    fun ctx node k e r hctx he hr htimer hwait hfired hkey hnone => ?_,
    fun ctx job k w s1 status rest e hctx hdue hw he => ⟨fun hwrite => ?_, exec_quiescenceReport_of_unwritten hctx hdue hw⟩,
    JobState.nextStatus_eq⟩
  · rw [exec_nodeDone_of_node hu hv hnode, if_neg (not_or.mpr ⟨hbin, hdrained⟩)]
  · rw [exec_nodeDone_of_node hu hv hnode, if_pos h]
  · have hself : (s.withTeam (u.advance 1)).ctx? s.ctx.key = some s.ctx := State.ctx?_self hnone
    rw [exec_cancel_of_job hu hv hpos hlt, State.cancelJob_of_marked hself h]
  · have hself : (s.withTeam (u.advance 1)).ctx? s.ctx.key = some s.ctx := State.ctx?_self hnone
    rw [exec_cancel_of_job hu hv hpos hlt, State.cancelJob_of_unmarked hself hmark hstate,
      State.modCtx_self (s := s.withTeam (u.advance 1)) (k := s.ctx.key) _ hnone rfl]
    rfl
  · exact exec_cancel_of_outside hu hv h
  · rw [exec_hostCancel_of_job hpos hlt, State.cancelJob_of_unmarked hctx hmark hstate]
  · rw [exec_hostCancel_of_job hpos hlt, State.cancelJob_of_marked hctx h]
  · rw [exec, execCancelDrop]
    simp only [hctx, hmark, Bool.not_true, Bool.false_eq_true, if_false, Context.dropJob_eq]
  · have hk := State.ctx?_eq_self hctx hkey hnone
    subst hk
    rw [exec, execLaunchTimer, State.modCtx_self _ hnone hkey]
    simp only [he, hr, if_pos (⟨htimer, hwait, hfired⟩ : _ ∧ _ ∧ _)]
  · exact exec_quiescenceReport_of_written hctx hdue hw hwrite he

end Sys2Proof.Machine
end

section
/-! QPASS, RSEC.IN, RSEC.OUT, GRACE, DEFER and the completion of a generation (R295 to R299, R402). -/

namespace Sys2Proof.Machine

/-! ## Quiescent points -/

theorem State.loadsOut_eq_false_iff (s : State) (t : Team) : s.loadsOut t (s.tick + 1) = false ↔ Claims.LoadsReturned s t := by
  simp only [State.loadsOut, Claims.LoadsReturned, Bool.or_eq_false_iff, List.any_eq_false, Bool.and_eq_true, decide_eq_true_eq, beq_iff_eq,
    Nat.lt_succ_iff, not_and, Nat.not_le]
  refine and_congr Iff.rfl (forall₂_congr fun o _ => ?_)
  rw [and_imp]
  refine forall₂_congr fun _ _ => ?_
  split
  next x rest more hw => exact iff_of_false (fun h => h rfl) (fun h => h x rest more hw)
  next hw => exact iff_of_true Bool.false_ne_true (fun x rest more h => hw x rest more h)

theorem passed_passPoint (s : State) (t : Team) : Claims.Passed s t (s.passPoint s.ctx t) := by
  refine ⟨fun h => ?_, fun h => ?_⟩
  · rw [State.passPoint, (s.loadsOut_eq_false_iff t).mpr h]
    rfl
  · rw [State.passPoint, if_pos (Bool.not_eq_false _ ▸ mt (s.loadsOut_eq_false_iff t).mp h)]

section Points

variable {s : State} {b : Bool} {u : Team} (hu : u = s.team.belay b)
include hu

theorem exec_rsecIn_of_lt (h : s.team.nest < 255) :
    exec (.rsecIn b) s = .next (s.withTeam ({ u.raiseFloor s.tick with nest := u.nest + 1 }.advance 1)) := by
  subst hu
  rw [exec, execRsecIn, if_neg (Nat.ne_of_lt h), teamInstr]

theorem exec_rsecOut_of_pos (h : s.team.nest ≠ 0) : exec (.rsecOut b) s =
    if s.team.nest - 1 = 0 then .next (s.withTeam ({ u with nest := u.nest - 1 }.advance 1)).quiesceHere
    else .next (s.withTeam ({ u with nest := u.nest - 1 }.advance 1)) := by
  subst hu
  rw [exec, execRsecOut, if_neg h, ← Team.belay_nest s.team b]
  rfl

theorem exec_qpass_of_section (h : 0 < s.team.nest) : exec (.qpass b) s = .next (s.withTeam (u.advance 1)) := by
  subst hu
  have hnest : ((s.team.belay b).advance 1).nest ≠ 0 := by
    rw [Team.advance_nest, Team.belay_nest]
    exact Nat.ne_of_gt h
  rw [exec, execQpass]
  exact if_neg hnest

theorem exec_qpass_of_outside (h : s.team.nest = 0) : exec (.qpass b) s = .next (s.withTeam (u.advance 1)).quiesceHere := by
  subst hu
  have hnest : ((s.team.belay b).advance 1).nest = 0 := by rw [Team.advance_nest, Team.belay_nest, h]
  rw [exec, execQpass]
  exact if_pos hnest

end Points

/-- A quiescent point at which a team goes on changes only the team. -/
theorem State.quiesceHere_eq (s : State) (t : Team) :
    ∃ v, (s.withTeam t).quiesceHere = s.withTeam v ∧ Claims.Passed s (t.raiseFloor s.tick) v :=
  ⟨_, rfl, passed_passPoint s (t.raiseFloor s.tick)⟩

/-! ## The cast-off queue -/

theorem samePackage_fenced {s r : State} {u : Team} (hr : r = (s.withTeam u).fenceDev.orderAfter) : SamePackage (s.withTeam u) r := by
  subst hr
  exact (samePackage_fenceDev _).trans (samePackage_withTeam _ _)

/-- A fenced state in which an entry is queued, the generation is closed, and the team goes on. -/
def State.castOff (r : State) (entry : CastOff) : State :=
  { r with team := r.team.advance 1, ctx := { r.ctx with genClosed := r.ctx.genClosed + 1, castOffs := r.ctx.castOffs ++ [entry] } }

section Defer

variable {s : State} {b : Bool} {a c : BitVec 6} {u : Team} {n : Nat} (hu : u = s.team.belay b) (hn : n = (u.srd (c.toNat + 1)).toNat)

theorem State.castOffFull_iff (s : State) : s.castOffFull = true ↔ Claims.QueueFull s := by
  simp [State.castOffFull, Claims.QueueFull, dieFull]

theorem newSlot_of_room {q : List CastOff} (h : q.countP (fun e => e.slot.isNone) < 4096) : newSlot q = none := by
  rw [newSlot, dieFull, decide_eq_false (Nat.not_le.mpr h)]
  rfl

theorem newSlot_isSome {q : List CastOff} (h : 4096 ≤ q.countP (fun e => e.slot.isNone)) : (newSlot q).isSome = true := by
  rw [newSlot, dieFull, decide_eq_true h]
  rfl

include hu hn

theorem exec_defer_of_badNode (h : ∀ e, s.ctx.nodes[n]? = some e → e.recWords < 4) :
    exec (.defer b a c) s = .next (s.illegal (.defer b a c)) := by
  subst hu hn
  rw [exec, execDefer]
  refine if_pos ?_
  cases hnode : s.ctx.nodes[((s.team.belay b).srd (c.toNat + 1)).toNat]? with
  | none => rfl
  | some e => exact decide_eq_false (Nat.not_le.mpr (h e hnode))

variable (hnode : ∃ e, s.ctx.nodes[n]? = some e ∧ 4 ≤ e.recWords)
include hnode

theorem exec_defer_of_node {r : State} (hr : r = (s.withTeam u).fenceDev.orderAfter) : exec (.defer b a c) s =
    if 2 ^ 57 ≤ (u.srd64 a.toNat).toNat then .next (s.vaTrap 0x05 0 (u.srd64 a.toNat).toNat)
    else if s.castOffFull then .next (s.trapHere 0x14 0)
    else .next (if (newSlot r.ctx.castOffs).isSome then
        (r.castOff ⟨r.ctx.genClosed, u.srd64 a.toNat, u.srd c.toNat, n, r.crew.job, newSlot r.ctx.castOffs⟩).spillCastOffs r.ctx.key
      else r.castOff ⟨r.ctx.genClosed, u.srd64 a.toNat, u.srd c.toNat, n, r.crew.job, newSlot r.ctx.castOffs⟩) := by
  subst hu hn
  obtain ⟨e, he, hwords⟩ := hnode
  have hgood : ¬((s.ctx.nodes[((s.team.belay b).srd (c.toNat + 1)).toNat]?.map (fun n => decide (4 ≤ n.recWords))).getD false) = false := by
    simp [he, hwords]
  rw [exec, execDefer]
  dsimp only
  rw [if_neg hgood, ← hr]
  rfl

theorem exec_defer_of_beyond (haddr : 2 ^ 57 ≤ (u.srd64 a.toNat).toNat) :
    exec (.defer b a c) s = .next (s.vaTrap 0x05 0 (u.srd64 a.toNat).toNat) := by
  rw [exec_defer_of_node hu hn hnode rfl, if_pos haddr]

variable (haddr : (u.srd64 a.toNat).toNat < 2 ^ 57)
include haddr

theorem exec_defer_of_full (hfull : Claims.QueueFull s) : exec (.defer b a c) s = .next (s.trapHere 0x14 0) := by
  rw [exec_defer_of_node hu hn hnode rfl, if_neg (Nat.not_le.mpr haddr), if_pos ((State.castOffFull_iff s).mpr hfull)]

theorem exec_defer_of_room (hroom : ¬ Claims.QueueFull s) {r : State} {entry : CastOff} (hr : r = (s.withTeam u).fenceDev.orderAfter)
    (hentry : entry = ⟨s.ctx.genClosed, u.srd64 a.toNat, u.srd c.toNat, n, s.crew.job, newSlot s.ctx.castOffs⟩) :
    exec (.defer b a c) s = .next (if entry.slot.isSome then (r.castOff entry).spillCastOffs r.ctx.key else r.castOff entry) := by
  have hsame := samePackage_fenced hr
  have hctx : r.ctx = s.ctx := hsame.ctx
  have hcrew : r.crew = s.crew := hsame.crew
  have hslot : entry.slot = newSlot s.ctx.castOffs := hentry ▸ rfl
  rw [exec_defer_of_node hu hn hnode hr, if_neg (Nat.not_le.mpr haddr), if_neg (mt (State.castOffFull_iff s).mp hroom), hctx, hcrew,
    ← hentry, hslot]

end Defer

/-! ## Completion -/

/-- A team as the completion of generation `g` of a context leaves it. -/
def Team.afterGrace (t : Team) (tick ctx g : Nat) (closed : BitVec 32) : Team :=
  let t := t.raiseFloor tick
  match t.park with
  | .grace k => if t.ctx = ctx ∧ t.state = TeamState.parked ∧ k = g then { t.wake with qgen := closed } else t
  | _ => t

theorem Team.afterGrace_of_parked {t : Team} {tick ctx g : Nat} (closed : BitVec 32) (hctx : t.ctx = ctx) (hstate : t.state = .parked)
    (hpark : t.park = .grace g) : t.afterGrace tick ctx g closed = { (t.raiseFloor tick).wake with qgen := closed } := by
  simp only [Team.afterGrace, Team.raiseFloor_park, hpark, Team.raiseFloor_ctx, Team.raiseFloor_state, hctx, hstate, and_self, if_true]

theorem State.graceDue_of_passed {s : State} {k : Context} (hopen : k.genDone < k.genClosed)
    (hpassed : ∀ x ∈ s.allTeams, x.ctx = k.key → x.state ≠ .exited → 1 ≤ (s.effectiveQgen k x - BitVec.ofNat 32 k.genDone).toNat
      ∧ (s.effectiveQgen k x - BitVec.ofNat 32 k.genDone).toNat ≤ 2 ^ 31) : s.graceDue k = true := by
  simp only [State.graceDue, Bool.and_eq_true, decide_eq_true_eq, List.all_eq_true, List.mem_filter, beq_iff_eq, bne_iff_ne, and_imp]
  exact ⟨hopen, hpassed⟩

/-- A context after its oldest closed generation has completed, where `k` is the context as it was found. -/
def State.completed (s : State) (k c : Context) : Context :=
  { (((k.castOffs.map s.foundEntry).filter (fun e => decide (e.gen ≤ k.genDone))).foldl (fun (c : Context) (e : CastOff) =>
      State.deviceRecord c s.dev.clock e.node e.job true (castOffWords e)) c) with
    genDone := k.genDone + 1, castOffs := (k.castOffs.map s.foundEntry).filter (fun e => decide (k.genDone < e.gen)) }

/-- Every L1 of the package is dropped. -/
def State.withoutL1 (s : State) : State := { s with cores := s.cores.map (fun (e : Nat × CoreState) => (e.1, { e.2 with l1 := [] })) }

/-- The state after the oldest closed generation of a context has completed. -/
def State.afterGrace (s : State) (ctx : Nat) (k : Context) : State :=
  let s1 := s.withoutL1.modCtx ctx (s.completed k)
  let wake := fun (t : Team) => t.afterGrace s.tick ctx k.genDone (BitVec.ofNat 32 k.genClosed)
  { s1 with team := wake s1.team, teams := s1.teams.map wake }

theorem exec_graceComplete_of_due {s : State} {ctx : Nat} {k : Context} (hctx : s.ctx? ctx = some k) (hstate : k.state ≠ .terminated)
    (hdue : s.graceDue k = true) : exec (.graceComplete ctx) s = .next (s.afterGrace ctx k) := by
  have hgo : ¬(k.state = .terminated ∨ (!s.graceDue k) = true) := by simp [hstate, hdue]
  rw [exec, execGraceComplete]
  simp only [hctx, if_neg hgo]
  rfl

section AfterGrace

variable {s : State} {ctx : Nat} {k : Context}

theorem State.afterGrace_cores : ∀ x ∈ (s.afterGrace ctx k).cores, x.2.l1 = [] := by
  intro x hx
  have hcores : (s.afterGrace ctx k).cores = s.cores.map (fun (e : Nat × CoreState) => (e.1, { e.2 with l1 := [] })) := State.modCtx_cores ..
  rw [hcores] at hx
  obtain ⟨e, -, rfl⟩ := List.mem_map.mp hx
  rfl

theorem State.afterGrace_mem : (s.afterGrace ctx k).mem = s.mem := State.modCtx_mem ..

theorem State.afterGrace_ctx (hkey : s.ctx.key = ctx) (hstate : s.ctx.state ≠ .none) : (s.afterGrace ctx k).ctx = s.completed k s.ctx :=
  congrArg State.ctx (State.modCtx_self (s := s.withoutL1) (s.completed k) hstate hkey)

theorem State.afterGrace_team : (s.afterGrace ctx k).team = s.team.afterGrace s.tick ctx k.genDone (BitVec.ofNat 32 k.genClosed) :=
  congrArg (fun t : Team => t.afterGrace s.tick ctx k.genDone (BitVec.ofNat 32 k.genClosed)) (State.modCtx_team ..)

theorem State.afterGrace_teams : (s.afterGrace ctx k).teams =
    s.teams.map (fun t => t.afterGrace s.tick ctx k.genDone (BitVec.ofNat 32 k.genClosed)) :=
  congrArg (List.map (fun t : Team => t.afterGrace s.tick ctx k.genDone (BitVec.ofNat 32 k.genClosed))) (State.modCtx_teams ..)

end AfterGrace

/-- Settles O50: each instruction's branches, and the completion of a generation. -/
theorem gracePeriods : Obligations.GracePeriods := by
  unfold Obligations.GracePeriods
  intro s b a c u r hu hr
  refine ⟨exec_rsecIn_of_lt hu, fun h => ?_, fun h => ?_, fun h => ?_, fun h => ?_, fun h => ?_,
    fun h => ⟨exec_qpass_of_section hu h, ?_⟩, fun h => ?_, fun n hn => ⟨fun ⟨hnode, haddr⟩ hroom => ?_, fun ⟨hnode, haddr⟩ hfull => ?_,
      exec_defer_of_badNode hu hn, fun hnode haddr => ?_⟩, fun ctx k hctx hstate hopen hpassed => ?_⟩
  · rw [exec, execRsecIn, if_pos h]
  · rw [exec_rsecOut_of_pos hu (by omega), if_neg (by omega)]
  · have hnest : u.nest - 1 = 0 := by rw [hu, Team.belay_nest, h]
    obtain ⟨v, hv, hpassed⟩ := s.quiesceHere_eq ({ u with nest := 0 }.advance 1)
    refine ⟨v, ?_, hpassed⟩
    rw [exec_rsecOut_of_pos hu (by omega), if_pos (by omega), hnest, hv]
  · rw [exec, execRsecOut, if_pos h]
  · obtain ⟨v, hv, hpassed⟩ := s.quiesceHere_eq (u.advance 1)
    exact ⟨v, by rw [exec_qpass_of_outside hu h, hv], hpassed⟩
  · rw [exec, execGrace, if_pos h]
  · have hsame := samePackage_fenced hr
    have hctx : r.ctx = s.ctx := hsame.ctx
    have hcrew : r.crew = s.crew := hsame.crew
    refine ⟨(r.withTeam { r.team with state := .parked, park := .grace r.ctx.genClosed }).closeGeneration, ?_, ?_, ?_, hcrew, rfl⟩
    · rw [exec, execGrace, if_neg (Nat.not_lt.mpr (Nat.le_of_eq h)), ← hu, ← hr]
    · rw [← hctx]
      rfl
    · rw [← hctx]
      rfl
  · have hsame := samePackage_fenced hr
    have hctx : r.ctx = s.ctx := hsame.ctx
    have hcrew : r.crew = s.crew := hsame.crew
    refine ⟨_, _, exec_defer_of_room hu hn hnode haddr hroom hr rfl, rfl, fun hdie => ?_, fun hdie => ?_⟩
    · rw [newSlot_of_room hdie]
      refine ⟨rfl, rfl, hcrew, rfl, ?_⟩
      rw [← hctx]
      rfl
    · rw [if_pos (newSlot_isSome hdie)]
      rfl
  · exact exec_defer_of_full hu hn hnode haddr hfull
  · exact exec_defer_of_beyond hu hn hnode haddr
  · refine ⟨s.afterGrace ctx k, exec_graceComplete_of_due hctx hstate (State.graceDue_of_passed hopen hpassed), State.afterGrace_cores,
      State.afterGrace_mem, fun hkey hnone => ?_, fun x hx hxctx hxstate hpark => ?_, fun htctx htstate hpark => ?_⟩
    · have hk := State.ctx?_eq_self hctx hkey hnone
      subst hk
      rw [State.afterGrace_ctx hkey hnone]
      exact ⟨rfl, rfl, rfl⟩
    · rw [State.afterGrace_teams]
      exact List.mem_map.mpr ⟨x, hx, Team.afterGrace_of_parked _ hxctx hxstate hpark⟩
    · rw [State.afterGrace_team, Team.afterGrace_of_parked _ htctx htstate hpark]

end Sys2Proof.Machine
end

section
/-! CTXRD, CTXWR, HALT and the events of debugger and kernel (R61, R210, R333, R349, R351 to R353). -/

namespace Sys2Proof.Machine

/-! ## Context registers -/

section RegOn

variable {c : Context} {core i : Nat}

theorem Context.regOn_of_taken (h : ∀ x ∈ c.oldRegs, x.idx = i → core ∈ x.taken) : c.regOn core i = c.regs.get i := by
  have hnone : c.oldRegs.filter (fun r => r.idx == i && !r.taken.contains core) = [] := by
    refine List.filter_eq_nil_iff.mpr fun x hx => ?_
    simpa using h x hx
  rw [Context.regOn, hnone]
  rfl

theorem Context.regOn_of_old {x : OldReg} (h : (c.oldRegs.filter (fun r => r.idx == i && !r.taken.contains core)).getLast? = some x) :
    c.regOn core i = x.old := by
  rw [Context.regOn, h]

end RegOn

section Ctxwr

variable {s : State} {b : Bool} {ix c : BitVec 6} {u : Team} (hu : u = s.team.belay b) (hpriv : s.privileged = true)
include hu hpriv

theorem exec_ctxwr_of_reserved (hbad : cregOk ix.toNat (u.srd64 c.toNat) = false) : exec (.ctxwr b ix c) s = .next (s.illegal (.ctxwr b ix c)) := by
  subst hu
  rw [exec, execCtxwr]
  simp only [hpriv, hbad, Bool.not_true, Bool.not_false, Bool.false_eq_true, if_true, if_false]

/-- A released state in which a context register has its new value, and the team goes on. -/
def State.wroteReg (r : State) (key ix : Nat) (v : BitVec 64) (todo : Option Nat) : State :=
  { r with
    team := r.team.advance 1
    ctx := { r.ctx with regs := r.ctx.regs.set ix v, oldRegs := ⟨key, ix, r.ctx.regs.get ix, []⟩ :: r.ctx.oldRegs, rigTodo := todo } }

theorem exec_ctxwr_of_ok {r : State} (hr : r = (s.withTeam u).release) (hok : cregOk ix.toNat (u.srd64 c.toNat) = true) :
    exec (.ctxwr b ix c) s = .next (if ix = 7 then
        (r.wroteReg u.key ix.toNat (u.srd64 c.toNat) (some (u.srd64 c.toNat).toNat)).takeRig r.ctx.key
      else r.wroteReg u.key ix.toNat (u.srd64 c.toNat) r.ctx.rigTodo) := by
  subst hu
  rw [exec, execCtxwr]
  simp only [hpriv, hok, Bool.not_true, Bool.false_eq_true, if_false, ← hr]
  split <;> rfl

end Ctxwr

/-! ## The debugger -/

/-- A drop of sampler lines that was under way stops, and the team is as it was but for that. -/
theorem State.stopDrop_of_dropping {s : State} {w : Crew} {sc : Nat} (hfree : s.team.state ≠ .free) (hdrop : s.team.dropping = some sc)
    (hcrew : s.crew? s.team.crew = some w) :
    ∃ t, s.stopDrop s.team = t ∧ t.team.dropping = none ∧ (t.team.key = s.team.key ∧ t.team.state ≠ .free ∧ t.team.pc = s.team.pc)
      ∧ t.mem = s.mem := by
  refine ⟨_, rfl, ?_⟩
  simp only [State.stopDrop, hdrop, hcrew]
  split
  · rw [State.modTeam_self (s := s.dropSampler s.team sc w) (k := s.team.key) _ hfree rfl]
    exact ⟨rfl, ⟨rfl, hfree, rfl⟩, rfl⟩
  · rw [State.modTeam_self _ hfree rfl]
    exact ⟨rfl, ⟨rfl, hfree, rfl⟩, rfl⟩

theorem ne_seven_iff (ix : BitVec 6) : ix ≠ 7 ↔ ix.toNat ≠ 7 := not_congr BitVec.toNat_inj.symm

/-- Settles O51: each instruction and event by its rule. -/
theorem systemRegistersAndHalts : Obligations.SystemRegistersAndHalts := by
  unfold Obligations.SystemRegistersAndHalts
  intro s b d ix c u r hu hr
  refine ⟨⟨s.creg ix.toNat, ?_, Context.regOn_of_taken, fun x => Context.regOn_of_old⟩, fun hctx hmode => ?_,
    fun ctx hkey hnone => ⟨?_, fun slot x hslot => ⟨?_, ?_⟩⟩, fun k hkey hfree => ⟨?_, fun hdrop => ?_, fun w sc hdrop hcrew => ?_⟩⟩
  · rw [exec, execCtxrd, teamInstr, hu]
  · have hpriv : s.privileged = true := by rw [State.privileged, hctx, hmode, Bool.and_true]
    have hsame : SamePackage (s.withTeam u) r := hr ▸ samePackage_release _
    have hrctx : r.ctx = s.ctx := hsame.ctx
    refine ⟨fun hok => ⟨_, exec_ctxwr_of_ok hu hpriv hr hok, fun hne => ?_, fun heq => ?_⟩, exec_ctxwr_of_reserved hu hpriv, ?_⟩
    · rw [if_neg ((ne_seven_iff ix).mpr hne), ← hrctx]
      exact ⟨rfl, hsame.crew, rfl, rfl, rfl⟩
    · rw [if_pos (BitVec.toNat_inj.mp heq), heq]
      rfl
    · have hid : (u.advance 1).teamid = s.team.teamid := by simp [hu, Team.teamid]
      rw [exec, execHalt, if_pos hpriv, ← hu]
      dsimp only
      rw [hid]
      rfl
  · rw [exec, execCtxwrPropagated, State.modCtx_self _ hnone hkey]
  · rw [exec, execDebugBreakpointSet, if_neg (Nat.not_le.mpr hslot), State.modCtx_self _ hnone hkey]
  · rw [exec, execDebugBreakpointSet, if_neg (Nat.not_le.mpr hslot), State.modCtx_self _ hnone hkey]
  · rw [exec, execTeamResume, State.modTeam_self _ hfree hkey]
  · have hteam : s.team? k = some s.team := if_pos ⟨hfree, hkey⟩
    rw [exec, execDebugHalt, hteam]
    simp only [State.stopDrop, hdrop, State.modTeam_self _ hfree hkey]
  · have hteam : s.team? k = some s.team := if_pos ⟨hfree, hkey⟩
    obtain ⟨t, hstop, hdropping, hkept, hmem⟩ := State.stopDrop_of_dropping hfree hdrop hcrew
    refine ⟨(s.stopDrop s.team).modTeam k (fun t => { t with halted := true }), ?_, ?_⟩
    · rw [exec, execDebugHalt, hteam]
    · rw [hstop, State.modTeam_self _ hkept.2.1 (hkept.1.trans hkey)]
      exact ⟨rfl, hdropping, hkept.2.2, hmem⟩

end Sys2Proof.Machine
end

section
/-! An edge of PPS in that steps device time (R376 to R378). -/

namespace Sys2Proof.Machine

/-- A package whose discipline acquires by the edges of PPS in: the time of day is one second ahead, and fifteen edges have said so. -/
def edgeBeforeStep : State :=
  State.reset.modTime (fun t => { t with
    phasePps := true, seconds := 1, disc := .acquiring, offsets := List.replicate 15 1000000000, ppsInAt := none })

/-- At a step the time of the last edge of PPS in keeps its distance (R377). -/
theorem State.takeOffset_ppsInAt_of_step {s : State} {offset : Int} (hstep : Claims.StepsForward s.dev.time offset) :
    (s.takeOffset offset).dev.time.ppsInAt = s.dev.time.ppsInAt.map (fun r => r + (((s.dev.dtime : Int) + offset).toNat - s.dev.dtime)) := by
  obtain ⟨hstepped, hdisc, hsteady, hahead⟩ := hstep
  rw [Claims.recentOffsets] at hsteady
  simp only [State.takeOffset, hstepped, hsteady, Bool.not_false, Bool.true_and, Bool.and_true, bne_iff_ne, hdisc, ne_eq, not_false_eq_true,
    hahead, and_self, if_true]
  rfl

theorem edgeBeforeStep_steps : Claims.StepsForward { edgeBeforeStep.dev.time with ppsInAt := some 0 } edgeBeforeStep.dev.ppsOffset := by
  refine ⟨rfl, ?_, ?_, ?_⟩ <;> decide

/-- The edge of PPS in that steps device time by a second is noted a second later than it came. -/
theorem exec_ppsInputEdge_edgeBeforeStep : ∃ t, exec .ppsInputEdge edgeBeforeStep = .next t ∧ t.dev.time.ppsInAt = some 1000000000 := by
  refine ⟨_, rfl, ?_⟩
  exact State.takeOffset_ppsInAt_of_step (s := (edgeBeforeStep.modTime (fun t => { t with ppsInAt := some 0 })).inputEdge 0)
    edgeBeforeStep_steps

/-- Refutes O52: an edge of PPS in that is the phase source and steps device time is noted at its time after the step, and not at the device
time at which it came: with one second still to step at DTIME 0, it is noted at 1,000,000,000. -/
theorem not_framesAndDeviceTime : ¬ Obligations.FramesAndDeviceTime := by
  unfold Obligations.FramesAndDeviceTime
  intro h
  obtain ⟨t, hexec, htime⟩ := exec_ppsInputEdge_edgeBeforeStep
  obtain ⟨-, -, -, -, -, -, -, -, hedge, -⟩ := h edgeBeforeStep false false 0 0 _ _ _ _ rfl rfl rfl rfl
  obtain ⟨t', hexec', -, htime'⟩ := hedge rfl
  cases hexec.symm.trans hexec'
  exact absurd (htime.symm.trans htime') (by decide)

end Sys2Proof.Machine
end

section
/-! Bank rounds: BANK.OPEN, BANK.CLOSE, BANK.WAIT, BANK.ERR and the issue of a command (R356, R359, R362, R365, R368). -/

namespace Sys2Proof.Machine

/-! ## Opening and closing -/

section Rounds

variable {s : State} {b : Bool} {u : Team} {r : State} (hu : u = s.team.belay b) (hr : r = s.withTeam u)
include hu hr

theorem exec_bankOpen_of_none (hopen : r.openRound u.key = none) (hroom : (r.unacked u.key).length < 4) :
    exec (.bankOpen b) s = .next { r with
      nextKey := s.nextKey + 1, rounds := s.rounds ++ [⟨s.nextKey, u.key, u.crew, u.ctx, true, 0, false, []⟩], team := u.advance 1 } := by
  rw [exec, execBankOpen, ← hu, ← hr]
  subst hr
  simp only [State.withTeam_team, hopen, Option.isSome_none, Bool.false_eq_true, if_false]
  exact if_neg (Nat.not_le.mpr hroom)

theorem exec_bankOpen_of_some {q : BankRound} (hopen : r.openRound u.key = some q) : exec (.bankOpen b) s = .next (r.bankTrap 2 0) := by
  rw [exec, execBankOpen, ← hu, ← hr]
  subst hr
  simp only [State.withTeam_team, hopen, Option.isSome_some, if_true]

theorem exec_bankClose_of_some {w : Bool} {q : BankRound} (hopen : r.openRound u.key = some q) : exec (.bankClose b w) s =
    if w then .next ({ r with rounds := closeRound u.key s.rounds, team := { u with closing := true } } : State).bankWait
    else .next { r with rounds := closeRound u.key s.rounds, team := u.advance 1 } := by
  rw [exec, execBankClose, ← hu, ← hr]
  subst hr
  simp only [State.withTeam_team, hopen]
  rfl

theorem exec_bankClose_of_none {w : Bool} (hopen : r.openRound u.key = none) : exec (.bankClose b w) s =
    if w && s.team.closing then .next r.bankWait else .next (r.bankTrap 1 0) := by
  have hclosing : u.closing = s.team.closing := hu ▸ Team.belay_closing s.team b
  rw [exec, execBankClose, ← hu, ← hr, ← hclosing]
  subst hr
  simp only [State.withTeam_team, hopen]
  rfl

theorem exec_bankWait : exec (.bankWait b) s = .next r.bankWait := by
  rw [exec, execBankWait, ← hu, ← hr]

theorem exec_bankErr_of_reached {d a c : BitVec 6} {v va key : Nat} {loc : Loc} (hv : v = (u.srd c.toNat).toNat)
    (hva : va = (u.srd64 a.toNat).toNat) (hlt : v < 32) (hreach : r.reach [(va, .read)] = .ok [loc]) (hws : loc.ws = false)
    (hunit : s.dev.unitOf loc.pa ∈ s.dev.bankUnits) (hkey : key = 16 * s.dev.unitOf loc.pa + v % 16) :
    exec (.bankErr b d a c) s = .next { r with
      team := (u.swr64 d.toNat (s.bankErr.get key)).advance 1, bankErr := if 16 ≤ v then s.bankErr.set key 0 else s.bankErr } := by
  rw [exec, execBankErr, ← hu, ← hr]
  subst hr hv hva hkey
  simp only [State.withTeam_team, if_neg (Nat.not_le.mpr hlt), hreach, List.headD_cons, hws, Bool.false_eq_true, if_false]
  exact if_neg (not_not.mpr hunit)

end Rounds

section Wait

variable {s : State} {u : Team}

theorem State.bankWait_of_unacked (h : (s.withTeam u).unacked u.key ≠ []) :
    (s.withTeam u).bankWait = s.withTeam { u with state := .parked, park := .bankWait } := if_pos h

variable (hacked : (s.withTeam u).unacked u.key = []) {seen : List BankRound} (hseen : seen = s.rounds.filter (fun q => q.team == u.key && q.acked))
include hacked hseen

theorem State.bankWait_of_acked : (s.withTeam u).bankWait =
    if (seen.map (fun q => q.fails.length)).sum = 0 then
      { s.withTeam u with rounds := s.rounds.filter (fun q => !(q.team == u.key && q.acked)), team := (u.raiseFloor s.tick).advance 1 }
    else ({ s.withTeam u with rounds := s.rounds.filter (fun q => !(q.team == u.key && q.acked)), team := u.raiseFloor s.tick } : State).trapHere 0x0D
      (BitVec.ofNat 64 (Nat.min (seen.map (fun q => q.fails.length)).sum 127 * 2 ^ 57 + Machine.firstFail seen % 2 ^ 57)) := by
  subst hseen
  rw [State.bankWait, State.withTeam_team, if_neg (not_not.mpr hacked)]
  rfl

end Wait

/-- No round has a failing column exactly where their failing columns are none in number. -/
theorem sum_fails_eq_zero_iff (seen : List BankRound) : (seen.map (fun q => q.fails.length)).sum = 0 ↔ ∀ q ∈ seen, q.fails = [] := by
  simp [List.sum_eq_zero_iff]

/-! ## Commands -/

/-- The seven commands are one instruction with an operation. -/
theorem exec_bankCommands {b : Bool} {f : BitVec 2} {l : Bool} {a c : BitVec 6} {i : Instr} {op : Nat}
    (hi : (i, op) ∈ Claims.bankCommands b f l a c) (s : State) : exec i s = bankCommand op b f l a c s := by
  simp only [Claims.bankCommands, List.mem_cons, List.not_mem_nil, or_false, Prod.mk.injEq] at hi
  rcases hi with ⟨rfl, rfl⟩ | ⟨rfl, rfl⟩ | ⟨rfl, rfl⟩ | ⟨rfl, rfl⟩ | ⟨rfl, rfl⟩ | ⟨rfl, rfl⟩ | ⟨rfl, rfl⟩ <;> rfl

theorem mem_ops_of_bankCommands {b : Bool} {f : BitVec 2} {l : Bool} {a c : BitVec 6} {i : Instr} {op : Nat}
    (hi : (i, op) ∈ Claims.bankCommands b f l a c) : op ∈ [1, 2, 3, 4, 5, 6, 7] := List.mem_map_of_mem (f := Prod.snd) hi

/-- The first fault of a command's operands, in the order of R365. -/
def bankFault (d : Device) (op n x : Nat) (y r : Option Nat) (lx ly lr : Loc) : Option (Nat × Nat) :=
  (d.rangeFault x lx n (op == 3 || op == 6)).or
    ((y.bind (fun v => d.secondFault (op == 7) v lx ly n (op == 2 || op == 7))).or ((r.bind (fun v => resultFault v lr)).or (lengthFault n)))

/-- An instruction goes on where its ranges have translated (R252). -/
def afterReach (x : Reached) (k : List Loc → Out) : Out :=
  match x with
  | .stop s' => .next s'
  | .ok locs => k locs

/-- A command joins its unit's queue and its round, its pages used. -/
def State.queueCmd (r : State) (vas : List Nat) (k : BankCmd) : State :=
  let s := r.touchUnits vas
  { s with
    bankCmds := s.bankCmds ++ [k]
    rounds := s.rounds.map (fun q => if q.id = k.round then { q with given := q.given + 1 } else q)
    team := s.team.advance 1 }

theorem State.queueCmd_fields (r : State) (vas : List Nat) (k : BankCmd) : (r.queueCmd vas k).team = r.team.advance 1
    ∧ (r.queueCmd vas k).mem = r.mem ∧ (r.queueCmd vas k).crew = r.crew ∧ (r.queueCmd vas k).ctx = r.ctx
    ∧ (r.queueCmd vas k).rounds = r.rounds.map (fun q => if q.id = k.round then { q with given := q.given + 1 } else q)
    ∧ (r.queueCmd vas k).bankCmds = r.bankCmds ++ [k] := by
  simp only [State.queueCmd, State.touchUnits_team, State.touchUnits_mem, State.touchUnits_crew, State.touchUnits_ctx, State.touchUnits_rounds,
    State.touchUnits_bankCmds, and_self]

/-- The command that an instruction gives to its unit. -/
def bankCmdOf (r : State) (op : Nat) (f : BitVec 2) (l : Bool) (a n : Nat) (u : Team) (q : BankRound) (lx ly lr : Loc) : BankCmd :=
  { round := q.id, number := q.given, unit := r.dev.unitOf lx.pa, op := op, fmt := f.toNat,
    cols := bankCols l n lx ly (Claims.bankX u a) ((Claims.bankY u op a).getD (Claims.bankX u a)), held := [],
    parts := List.replicate 16 (if op = 5 then 0xFF800000 else 0), factor := u.srd (a + (bankForm op).factor),
    result := (Claims.bankR u op a).map (fun _ => lr), queued := r.dev.clock, stamp := r.tick, aged := false }

/-- What a command answers once its ranges have translated. -/
def bankReached (op : Nat) (f : BitVec 2) (l : Bool) (a n : Nat) (u : Team) (q : BankRound) (r : State) (locs : List Loc) : Out :=
  let xs := Claims.bankXs u op a n
  let ys := Claims.bankYs u op a n
  let rs := Claims.bankRs u op a
  let lx := locs.headD ⟨0, false, false⟩
  let ly := if (Claims.bankY u op a).isSome then locs.getD xs.length ⟨0, false, false⟩ else lx
  let lr := locs.getD (xs.length + ys.length) ⟨0, false, false⟩
  match bankFault r.dev op n (Claims.bankX u a) (Claims.bankY u op a) (Claims.bankR u op a) lx ly lr with
  | some (reason, va) => .next (r.bankTrap reason va)
  | none =>
    if 16 ≤ (r.bankCmds.filter (fun k => k.unit == r.dev.unitOf lx.pa)).length then .next r.waits
    else .next (r.queueCmd ((xs ++ ys ++ rs).map (fun e => e.1)) (bankCmdOf r op f l a n u q lx ly lr))

section Command

variable {s : State} {op : Nat} {b : Bool} {f : BitVec 2} {l : Bool} {a c : BitVec 6} {u : Team} {r : State} (hu : u = s.team.belay b)
  (hr : r = s.withTeam u)
include hu hr

theorem bankCommand_of_none (hopen : r.openRound u.key = none) : bankCommand op b f l a c s = .next (r.bankTrap 1 0) := by
  rw [bankCommand, ← hu, ← hr]
  subst hr
  simp only [State.withTeam_team, hopen]

variable {q : BankRound} (hopen : r.openRound u.key = some q)
include hopen

theorem bankCommand_of_full (hgiven : 64 ≤ q.given) : bankCommand op b f l a c s = .next (r.bankTrap 8 0) := by
  rw [bankCommand, ← hu, ← hr]
  subst hr
  simp only [State.withTeam_team, hopen, if_pos hgiven]

variable (hop : op ∈ [1, 2, 3, 4, 5, 6, 7]) (hgiven : q.given < 64) {n : Nat} (hn : n = (u.srd c.toNat).toNat) {locs : List Loc}
  (hreach : r.reach (Claims.bankXs u op a.toNat n ++ Claims.bankYs u op a.toNat n ++ Claims.bankRs u op a.toNat) = .ok locs)
include hop hgiven hn hreach

theorem bankCommand_of_reached : bankCommand op b f l a c s = bankReached op f l a.toNat n u q r locs := by
  suffices h : bankCommand op b f l a c s = afterReach (r.reach (Claims.bankXs u op a.toNat n ++ Claims.bankYs u op a.toNat n
      ++ Claims.bankRs u op a.toNat)) (bankReached op f l a.toNat n u q r) by
    rw [h, hreach, afterReach]
  rw [bankCommand, ← hu, ← hr]
  subst hr hn
  simp only [State.withTeam_team, hopen, if_neg (Nat.not_le.mpr hgiven)]
  simp only [List.mem_cons, List.not_mem_nil, or_false] at hop
  rcases hop with rfl | rfl | rfl | rfl | rfl | rfl | rfl <;> rfl

end Command

/-- Operands that meet R365 have no fault. -/
theorem bankFault_of_ok {d : Device} {op n x : Nat} {y r : Option Nat} {lx ly lr : Loc} (h : Claims.BankOk d op n x y r lx ly lr) :
    bankFault d op n x y r lx ly lr = none := by
  obtain ⟨hn, hmin, hmax, hx, hfit, hws, hrepl, hunit, hy, hr⟩ := h
  have hwrites : ¬((op == 3 || op == 6) = true ∧ lx.repl = true) := by
    rintro ⟨hw, hl⟩
    rw [hrepl (by simpa using hw)] at hl
    exact Bool.false_ne_true hl
  have hrange : d.rangeFault x lx n (op == 3 || op == 6) = none := by
    rw [Device.rangeFault, if_neg (not_not.mpr hx), if_neg (by simp [hws]; omega), if_neg hwrites, if_neg (not_not.mpr hunit)]
  have hsecond : y.bind (fun v => d.secondFault (op == 7) v lx ly n (op == 2 || op == 7)) = none := by
    cases y with
    | none => rfl
    | some v =>
      obtain ⟨hv, hvfit, hyws, hyunit, hybank, hcopy, hyrepl⟩ := hy v rfl
      have hoverlap : ¬((op == 7) = true ∧ lx.pa ≠ ly.pa ∧ lx.pa < ly.pa + n ∧ ly.pa < lx.pa + n) := by
        rintro ⟨h7, hne, h1, h2⟩
        rcases hcopy (beq_iff_eq.mp h7) with heq | hle | hle
        · exact hne heq
        · exact absurd h1 (Nat.not_lt.mpr hle)
        · exact absurd h2 (Nat.not_lt.mpr hle)
      have hwrites : ¬((op == 2 || op == 7) = true ∧ ly.repl = true) := by
        rintro ⟨hw, hl⟩
        rw [hyrepl (by simpa using hw)] at hl
        exact Bool.false_ne_true hl
      rw [Option.bind_some, Device.secondFault, if_neg (not_not.mpr hv), if_neg (by simp [hyws, hyunit]; omega), if_neg (by simp [hybank]),
        if_neg hoverlap, if_neg hwrites]
  have hresult : r.bind (fun v => resultFault v lr) = none := by
    cases r with
    | none => rfl
    | some v =>
      obtain ⟨hv, hl⟩ := hr v rfl
      rw [Option.bind_some, resultFault, if_neg (not_not.mpr hv), if_neg (by simp [hl])]
  have hlength : lengthFault n = none := if_neg (by omega)
  rw [bankFault, hrange, hsecond, hresult, hlength]
  rfl

section Reached

variable {op : Nat} {f : BitVec 2} {l : Bool} {a n : Nat} {u : Team} {q : BankRound} {s : State} {locs : List Loc} {lx ly lr : Loc}
  (hlx : lx = locs.headD ⟨0, false, false⟩)
  (hly : ly = if (Claims.bankY u op a).isSome then locs.getD (Claims.bankXs u op a n).length ⟨0, false, false⟩ else lx)
  (hlr : lr = locs.getD ((Claims.bankXs u op a n).length + (Claims.bankYs u op a n).length) ⟨0, false, false⟩)
  (hok : Claims.BankOk s.dev op n (Claims.bankX u a) (Claims.bankY u op a) (Claims.bankR u op a) lx ly lr)
include hlx hly hlr hok

theorem bankReached_of_ok : bankReached op f l a n u q (s.withTeam u) locs =
    if 16 ≤ (s.bankCmds.filter (fun k => k.unit == s.dev.unitOf lx.pa)).length then .next (s.withTeam u).waits
    else .next ((s.withTeam u).queueCmd ((Claims.bankXs u op a n ++ Claims.bankYs u op a n ++ Claims.bankRs u op a).map (fun e => e.1))
      (bankCmdOf s op f l a n u q lx ly lr)) := by
  have hfault : bankFault (s.withTeam u).dev op n (Claims.bankX u a) (Claims.bankY u op a) (Claims.bankR u op a) lx ly lr = none :=
    bankFault_of_ok hok
  subst hlr hly hlx
  rw [bankReached]
  simp only [hfault]
  rfl

theorem bankReached_of_room (hroom : (s.bankCmds.filter (fun k => k.unit == s.dev.unitOf lx.pa)).length < 16) :
    ∃ t, bankReached op f l a n u q (s.withTeam u) locs = .next t ∧ t.team = u.advance 1 ∧ t.mem = s.mem ∧ t.crew = s.crew ∧ t.ctx = s.ctx
      ∧ t.rounds = s.rounds.map (fun k => if k.id = q.id then { k with given := k.given + 1 } else k)
      ∧ ∃ k, t.bankCmds = s.bankCmds ++ [k] ∧ k.round = q.id ∧ k.number = q.given ∧ k.unit = s.dev.unitOf lx.pa ∧ k.op = op
        ∧ k.fmt = f.toNat
        ∧ k.cols = bankCols l n lx ly (Claims.bankX u a) ((Claims.bankY u op a).getD (Claims.bankX u a))
        ∧ k.result = (Claims.bankR u op a).map (fun _ => lr) ∧ k.queued = s.dev.clock ∧ k.aged = false
        ∧ (op = 2 → k.factor = u.srd (a + 4)) ∧ (op = 3 ∨ op = 6 → k.factor = u.srd (a + 2)) := by
  rw [bankReached_of_ok hlx hly hlr hok, if_neg (Nat.not_le.mpr hroom)]
  obtain ⟨hteam, hmem, hcrew, hctx, hrounds, hcmds⟩ := State.queueCmd_fields (s.withTeam u)
    ((Claims.bankXs u op a n ++ Claims.bankYs u op a n ++ Claims.bankRs u op a).map (fun e => e.1)) (bankCmdOf s op f l a n u q lx ly lr)
  refine ⟨_, rfl, hteam, hmem, hcrew, hctx, hrounds, _, hcmds, rfl, rfl, rfl, rfl, rfl, rfl, rfl, rfl, rfl, ?_, ?_⟩
  · rintro rfl
    rfl
  · rintro (rfl | rfl) <;> rfl

end Reached

end Sys2Proof.Machine
end

section
/-! Bank units at work: the choice of a column, its service, the acknowledgement of a round (R293, R356 to R368). -/

namespace Sys2Proof.Machine

/-! ## What a unit can do next -/

/-- The first element of a list with a property stands at or before every other with it. -/
theorem idxOf_le_of_find? {α : Type} [DecidableEq α] {p : α → Bool} {l : List α} {x y : α} (hx : l.find? p = some x) (hy : p y = true) :
    l.idxOf x ≤ l.idxOf y := by
  obtain ⟨hpx, before, after, hl, hbefore⟩ := List.find?_eq_some_iff_append.mp hx
  have hnot {z : α} (hz : p z = true) : z ∉ before := fun hmem => by simpa [hz] using hbefore z hmem
  rw [hl, List.idxOf_append_of_notMem (hnot hpx), List.idxOf_append_of_notMem (hnot hy), List.idxOf_cons_self]
  exact Nat.add_le_add_left (Nat.zero_le _) _

theorem BankCmd.mem_cols_of_next {k : BankCmd} {bank : Nat} {q : BankCol} (h : k.next bank = some q) : q ∈ k.cols ∧ bankOf q.px = bank := by
  rw [BankCmd.next, List.head?_filter] at h
  exact ⟨List.mem_of_find?_eq_some h, by simpa using List.find?_some h⟩

theorem BankCmd.idxOf_le_of_next {k : BankCmd} {bank : Nat} {q x : BankCol} (h : k.next bank = some q) (hx : bankOf x.px = bank) :
    k.cols.idxOf q ≤ k.cols.idxOf x := by
  rw [BankCmd.next, List.head?_filter] at h
  exact idxOf_le_of_find? h (beq_iff_eq.mpr hx)

/-- The oldest command of a unit that needs a bank. -/
theorem State.oldest_of_find? {s : State} {unit bank : Nat} {k : BankCmd}
    (h : (s.bankCmds.filter (fun c => c.unit == unit)).find? (fun c => c.cols.any (fun q => bankOf q.px == bank)) = some k) :
    k.unit = unit ∧ ∃ n : Nat, s.bankCmds[n]? = some k
      ∧ ∀ m < n, ∀ x : BankCmd, s.bankCmds[m]? = some x → x.unit = unit → ∀ y ∈ x.cols, bankOf y.px ≠ bank := by
  rw [List.find?_filter] at h
  obtain ⟨hk, n, hn, hget, hbefore⟩ := List.find?_eq_some_iff_getElem.mp h
  simp only [beq_iff_eq, decide_eq_true_eq] at hk
  refine ⟨hk.1, n, by rw [List.getElem?_eq_getElem hn, hget], fun m hm x hx hunit y hy hbank => ?_⟩
  obtain ⟨hlt, rfl⟩ := List.getElem?_eq_some_iff.mp hx
  have hnot : s.bankCmds[m].cols.any (fun q => bankOf q.px == bank) = false := by simpa [hunit] using hbefore m hm
  exact Bool.false_ne_true (hnot.symm.trans (List.any_eq_true.mpr ⟨y, hy, beq_iff_eq.mpr hbank⟩))

theorem State.bankChoices_some {s : State} {unit : Nat} {k : BankCmd} {q : BankCol} (h : (k, some q) ∈ s.bankChoices unit) :
    ∃ bank, (s.bankCmds.filter (fun c => c.unit == unit)).find? (fun c => c.cols.any (fun q => bankOf q.px == bank)) = some k
      ∧ k.next bank = some q := by
  rw [State.bankChoices] at h
  rcases List.mem_append.mp h with h | h
  · obtain ⟨bank, -, hbank⟩ := List.mem_filterMap.mp h
    refine ⟨bank, ?_⟩
    split at hbank
    next => cases hbank
    next c hc =>
      obtain ⟨x, hx, hfree⟩ := Option.bind_eq_some_iff.mp hbank
      split at hfree
      · cases hfree
        exact ⟨hc, hx⟩
      · cases hfree
  · obtain ⟨c, -, hc⟩ := List.mem_map.mp h
    cases hc

/-! ## Service -/

section Columns

variable (s : State) (c : BankCmd)

@[simp] theorem State.readColumn_crew (p va : Nat) : (s.readColumn c p va).1.crew = s.crew := by
  unfold State.readColumn
  dsimp only
  split <;> simp

@[simp] theorem State.readColumn_bankCmds (p va : Nat) : (s.readColumn c p va).1.bankCmds = s.bankCmds := by
  unfold State.readColumn
  dsimp only
  split <;> simp

@[simp] theorem State.bankByte_crew (round size p : Nat) (v : Byte) : (s.bankByte round size p v).crew = s.crew := rfl

@[simp] theorem State.bankByte_bankCmds (round size p : Nat) (v : Byte) : (s.bankByte round size p v).bankCmds = s.bankCmds := rfl

@[simp] theorem State.writeColumn_crew (p : Nat) (els : List Nat) : (s.writeColumn c p els).crew = s.crew :=
  State.foldl_keeps _ (·.crew) (fun s (_ : Byte × Nat) => s.bankByte_crew ..) _ s

@[simp] theorem State.writeColumn_bankCmds (p : Nat) (els : List Nat) : (s.writeColumn c p els).bankCmds = s.bankCmds :=
  State.foldl_keeps _ (·.bankCmds) (fun s (_ : Byte × Nat) => s.bankByte_bankCmds ..) _ s

variable (q : BankCol)

@[simp] theorem State.readFirst_crew : (s.readFirst c q).1.crew = s.crew := by
  unfold State.readFirst
  split <;> simp

@[simp] theorem State.readFirst_bankCmds : (s.readFirst c q).1.bankCmds = s.bankCmds := by
  unfold State.readFirst
  split <;> simp

@[simp] theorem State.updateColumn_crew : (s.updateColumn c q).crew = s.crew := by
  unfold State.updateColumn
  dsimp only
  repeat' split
  all_goals simp

@[simp] theorem State.updateColumn_bankCmds : (s.updateColumn c q).bankCmds = s.bankCmds := by
  unfold State.updateColumn
  dsimp only
  repeat' split
  all_goals simp

@[simp] theorem State.reduceColumn_crew (parts : List Nat) : (s.reduceColumn c parts q).1.crew = s.crew := by
  unfold State.reduceColumn
  dsimp only
  split <;> simp

@[simp] theorem State.reduceColumn_bankCmds (parts : List Nat) : (s.reduceColumn c parts q).1.bankCmds = s.bankCmds := by
  unfold State.reduceColumn
  dsimp only
  split <;> simp

end Columns

/-- A command of which a bank has served a column. -/
def State.servedCmd (s : State) (k : BankCmd) (q : BankCol) : BankCmd :=
  { k with
    cols := k.cols.erase q, parts := if k.reduces then (s.reduceColumn k k.parts q).2 else k.parts, held := s.heldAfter k q }

/-- The state in which a bank has read and written for a column. -/
def State.columnServed (s : State) (k : BankCmd) (q : BankCol) : State :=
  if k.reduces then (s.reduceColumn k k.parts q).1 else s.updateColumn { k with cols := k.cols.erase q } q

theorem State.serveColumn_eq (s : State) (k : BankCmd) (q : BankCol) : s.serveColumn k q =
    if k.cols.erase q = [] ∧ k.reduces = false then (s.columnServed k q).bankDone k
    else { s.columnServed k q with bankCmds := (s.columnServed k q).bankCmds.map (fun x =>
      if x.round = k.round ∧ x.number = k.number then s.servedCmd k q else x) } := by
  rw [State.serveColumn, State.servedCmd, State.columnServed]
  cases k.reduces <;> rfl

section Served

variable (s : State) (k : BankCmd) (q : BankCol)

theorem State.columnServed_crew : (s.columnServed k q).crew = s.crew := by
  unfold State.columnServed
  split <;> simp

theorem State.columnServed_bankCmds : (s.columnServed k q).bankCmds = s.bankCmds := by
  unfold State.columnServed
  split <;> simp

theorem State.serveColumn_crew : (s.serveColumn k q).crew = s.crew := by
  rw [State.serveColumn_eq]
  split <;> exact State.columnServed_crew s k q

theorem State.serveColumn_mem : (s.serveColumn k q).mem = (s.columnServed k q).mem := by
  rw [State.serveColumn_eq]
  split <;> rfl

variable {s k q}

theorem State.serveColumn_bankCmds_of_done (hlast : k.cols.erase q = []) (hupdate : k.reduces = false) :
    ∀ y ∈ (s.serveColumn k q).bankCmds, ¬(y.round = k.round ∧ y.number = k.number) := by
  rw [State.serveColumn_eq, if_pos ⟨hlast, hupdate⟩]
  intro y hy
  have hkept := (List.mem_filter.mp hy).2
  rintro ⟨hround, hnumber⟩
  simp [hround, hnumber] at hkept

theorem State.serveColumn_bankCmds_of_left (h : k.cols.erase q ≠ [] ∨ k.reduces = true) : (s.serveColumn k q).bankCmds =
    s.bankCmds.map (fun x => if x.round = k.round ∧ x.number = k.number then s.servedCmd k q else x) := by
  have hleft : ¬(k.cols.erase q = [] ∧ k.reduces = false) := by
    rintro ⟨h1, h2⟩
    simp [h1, h2] at h
  rw [State.serveColumn_eq, if_neg hleft, State.columnServed_bankCmds]

end Served

theorem exec_bankCommandFinish_of_none {s : State} {unit : Nat} (h : s.bankChoices unit = []) : exec (.bankCommandFinish unit) s = .next s := by
  rw [exec, execBankCommandFinish, h]
  rfl

/-- A unit that can do something does one of the things that it can do. -/
theorem exec_bankCommandFinish_of_some {s : State} {unit : Nat} (h : s.bankChoices unit ≠ []) : ∃ x ∈ s.bankChoices unit,
    (∀ k q, x = (k, some q) → exec (.bankCommandFinish unit) s = .next (s.serveColumn k q))
      ∧ (∀ k, x = (k, none) → exec (.bankCommandFinish unit) s = .next ((s.reduce k).bankDone k)) := by
  have hlt : Config.freeChoice s.tick % (s.bankChoices unit).length < (s.bankChoices unit).length :=
    Nat.mod_lt _ (List.length_pos_iff.mpr h)
  have hget := List.getElem?_eq_getElem hlt
  refine ⟨_, List.getElem_mem hlt, fun k q hx => ?_, fun k hx => ?_⟩
  · rw [exec, execBankCommandFinish]
    simp only [hget, hx]
  · rw [exec, execBankCommandFinish]
    simp only [hget, hx]

/-! ## Ageing -/

theorem State.aged_mem {s : State} {unit : Nat} {k : BankCmd} (hk : k ∈ s.bankCmds) (hunit : k.unit = unit)
    (hlimit : k.queued + bankLimit ≤ s.dev.clock) : { k with aged := true } ∈
      s.bankCmds.map (fun c => if c.unit = unit ∧ c.queued + bankLimit ≤ s.dev.clock then { c with aged := true } else c) :=
  List.mem_map.mpr ⟨k, hk, if_pos ⟨hunit, hlimit⟩⟩

/-! ## Acknowledgement -/

section CloseWrites

theorem mem_wrote_foldl_mark {lines : List Nat} {line : Nat} {s : State} (h : line ∈ lines ∨ line ∈ s.wrote) :
    line ∈ (lines.foldl State.mark s).wrote := by
  induction lines generalizing s with
  | nil => exact h.resolve_left List.not_mem_nil
  | cons x lines ih =>
    refine ih ?_
    rcases h with h | h
    · rcases List.mem_cons.mp h with rfl | h
      · refine .inr ?_
        unfold State.mark
        split
        next hmem => exact hmem
        next => exact List.mem_cons_self
      · exact .inl h
    · refine .inr ?_
      unfold State.mark
      split
      · exact h
      · exact List.mem_cons_of_mem _ h

theorem mem_past_foldl_keep {team : Nat} {l : List (Nat × BankOld)} {s : State} {x : PastByte}
    (h : (∃ e ∈ l, x = ⟨none, [team], e.1, e.2.old, 0, s.tick⟩) ∨ x ∈ s.past) :
    x ∈ (l.foldl (fun (s : State) e => s.keep ⟨none, [team], e.1, e.2.old, 0, s.tick⟩) s).past := by
  induction l generalizing s with
  | nil => exact h.resolve_left (by simp)
  | cons e l ih =>
    refine ih (s := s.keep _) ?_
    rcases h with ⟨y, hy, rfl⟩ | h
    · rcases List.mem_cons.mp hy with rfl | hy
      · exact .inr List.mem_cons_self
      · exact .inl ⟨y, hy, rfl⟩
    · exact .inr (List.mem_cons_of_mem _ h)

variable {s : State} {team round : Nat}

theorem State.closeWrites_bankOld : ∀ e ∈ (s.closeWrites team round).bankOld, e.2.round ≠ round := by
  intro e he
  have hmem := (List.mem_filter.mp he).2
  simpa using hmem

theorem State.closeWrites_noted {e : Nat × BankOld} (he : e ∈ s.bankOld) (hround : e.2.round = round) :
    e.1 / 128 ∈ (s.closeWrites team round).wrote
      ∧ (⟨none, [team], e.1, e.2.old, 0, s.tick⟩ : PastByte) ∈ (s.closeWrites team round).past := by
  have hmine : e ∈ s.bankOld.filter (fun e => e.2.round == round) := List.mem_filter.mpr ⟨he, beq_iff_eq.mpr hround⟩
  refine ⟨mem_wrote_foldl_mark (.inl (List.mem_eraseDups.mpr (List.mem_map.mpr ⟨e, hmine, rfl⟩))), ?_⟩
  have hpast : (s.closeWrites team round).past = ((s.bankOld.filter (fun e => e.2.round == round)).foldl (fun (s : State) e =>
      s.keep ⟨none, [team], e.1, e.2.old, 0, s.tick⟩) s).past := State.foldl_keeps State.mark (·.past) State.mark_past _ _
  rw [hpast]
  exact mem_past_foldl_keep (.inl ⟨e, hmine, rfl⟩)

theorem State.closeWrites_rounds : (s.closeWrites team round).rounds = s.rounds :=
  (State.foldl_keeps State.mark (·.rounds) State.mark_rounds _ _).trans
    (State.foldl_keeps (fun s (e : Nat × BankOld) => s.keep ⟨none, [team], e.1, e.2.old, 0, s.tick⟩) (·.rounds) (fun _ _ => rfl) _ s)

end CloseWrites

theorem State.bankWake_keeps {α : Type} (field : State → α) (h : ∀ (s : State) k f, field (s.modTeam k f) = field s) (s : State) (k : Nat) :
    field (s.bankWake k) = field s := by
  unfold State.bankWake
  split
  · exact h ..
  · rfl

/-- The rounds after a round of a team is acknowledged. -/
def State.ackedRounds (s : State) (team : Nat) (r : BankRound) : List BankRound :=
  (s.rounds.map (fun (q : BankRound) => if q.id = r.id then { q with acked := true, isOpen := false } else q)).filter
    (fun q => !(q.acked && (q.fails.isEmpty || !((s.team? team).map (fun t => t.state != .exited)).getD false) && q.team == team))

theorem exec_bankRoundAck_of_some {s : State} {team : Nat} {r : BankRound} (h : s.rounds.find? (fun k => k.team == team && s.ackable k) = some r) :
    exec (.bankRoundAck team) s = .next (({ s.closeWrites team r.id with rounds := s.ackedRounds team r } : State).bankWake team) := by
  rw [exec, execBankRoundAck]
  simp only [h]
  rfl

theorem State.acked_of_mem_ackedRounds {s : State} {team : Nat} {r k : BankRound} (hk : k ∈ s.ackedRounds team r) (hid : k.id = r.id) :
    k.acked = true := by
  obtain ⟨q, -, rfl⟩ := List.mem_map.mp (List.mem_filter.mp hk).1
  split at hid
  next h => rw [if_pos h]
  next h => exact absurd hid h

/-- Settles O53: each instruction and event of the bank units by its rule. -/
theorem bankRoundsAndCommands : Obligations.BankRoundsAndCommands := by
  unfold Obligations.BankRoundsAndCommands
  intro s b l w f d a c u r hu hr
  refine ⟨exec_bankOpen_of_none hu hr, fun q hopen => ⟨exec_bankOpen_of_some hu hr hopen, fun hw => ?_, fun hw => ?_, fun hgiven i hi => ?_,
      fun hgiven i op n xs ys rs locs lx ly lr hi hn hxs hys hrs hreach hlx hly hlr hok => ?_⟩,
    fun hopen => ⟨fun i hi => ?_, fun hw => ?_⟩, fun seen hseen => ⟨fun hacked hgood => ?_, fun hacked hbad => ?_⟩, fun hunacked => ?_,
    fun v va loc key => exec_bankErr_of_reached hu hr, fun hopen hw => ⟨fun hclosing => ?_, fun hclosing => ?_⟩, fun unit k q hchoice => ?_,
    fun unit => ⟨exec_bankCommandFinish_of_none, fun hchoices => ?_⟩, fun unit bank => ⟨rfl, ?_⟩, fun team q hfind => ?_⟩
  · rw [exec_bankClose_of_some hu hr hopen, hw]
    rfl
  · rw [exec_bankClose_of_some hu hr hopen, hw]
    rfl
  · rw [exec_bankCommands hi]
    exact bankCommand_of_full hu hr hopen hgiven
  · subst hr hxs hys hrs
    have hop : op ∈ [1, 2, 3, 4, 5, 6, 7] := mem_ops_of_bankCommands hi
    have hexec := bankCommand_of_reached (f := f) (l := l) hu rfl hopen hop hgiven hn hreach
    refine ⟨fun hfull => ?_, fun hroom => ?_⟩
    · rw [exec_bankCommands hi, hexec, bankReached_of_ok hlx hly hlr hok, if_pos hfull]
    · rw [exec_bankCommands hi, hexec]
      exact bankReached_of_room hlx hly hlr hok hroom
  · rw [exec_bankCommands hi]
    exact bankCommand_of_none hu hr hopen
  · rw [exec_bankClose_of_none hu hr hopen, hw]
    rfl
  · subst hr
    rw [exec_bankWait hu rfl, State.bankWait_of_acked hacked hseen, if_pos ((sum_fails_eq_zero_iff seen).mpr hgood)]
  · subst hr
    have hsum : (seen.map (fun q => q.fails.length)).sum ≠ 0 := by
      rw [ne_eq, sum_fails_eq_zero_iff]
      exact fun hall => hbad.elim fun q ⟨hq, hne⟩ => hne (hall q hq)
    rw [exec_bankWait hu rfl, State.bankWait_of_acked hacked hseen, if_neg hsum]
  · subst hr
    rw [exec_bankWait hu rfl, State.bankWait_of_unacked hunacked]
  · rw [exec_bankClose_of_none hu hr hopen, hw, hclosing]
    rfl
  · rw [exec_bankClose_of_none hu hr hopen, hw, hclosing]
    rfl
  · obtain ⟨bank, hfind, hnext⟩ := State.bankChoices_some hchoice
    obtain ⟨hmem, hbank⟩ := BankCmd.mem_cols_of_next hnext
    obtain ⟨hunit, n, hget, hbefore⟩ := State.oldest_of_find? hfind
    subst hbank
    exact ⟨hunit, hmem, fun x _ hx => BankCmd.idxOf_le_of_next hnext hx, n, hget, hbefore⟩
  · obtain ⟨x, hx, hserve, hresult⟩ := exec_bankCommandFinish_of_some hchoices
    refine ⟨x, hx, fun k q hk => ?_, hresult⟩
    refine ⟨_, hserve k q hk, State.serveColumn_crew .., fun hleft => ?_, fun hlast hupdate => State.serveColumn_bankCmds_of_done hlast hupdate,
      fun hupdate => ?_, fun hreduce => ⟨?_, fun hmem => ?_⟩⟩
    · rw [State.serveColumn_bankCmds_of_left hleft, List.length_map]
    · rw [State.serveColumn_mem, State.columnServed, hupdate]
      rfl
    · rw [State.serveColumn_mem, State.columnServed, if_pos hreduce, State.reduceColumn_mem]
    · rw [State.serveColumn_bankCmds_of_left (.inr hreduce)]
      refine List.mem_map.mpr ⟨k, hmem, ?_⟩
      rw [if_pos ⟨rfl, rfl⟩, State.servedCmd, if_pos hreduce]
  · exact ⟨_, rfl, rfl, List.length_map _, fun k hk hunit hlimit => State.aged_mem hk hunit hlimit⟩
  · refine ⟨_, exec_bankRoundAck_of_some hfind, ?_, ?_, ?_, ?_⟩
    · rw [State.bankWake_mem]
      exact State.closeWrites_mem ..
    · rw [State.bankWake_keeps (·.bankOld) State.modTeam_bankOld]
      exact State.closeWrites_bankOld
    · rw [State.bankWake_keeps (·.rounds) State.modTeam_rounds]
      exact fun k hk hid => State.acked_of_mem_ackedRounds hk hid
    · rw [State.bankWake_keeps (·.wrote) State.modTeam_wrote, State.bankWake_keeps (·.past) State.modTeam_past]
      exact fun e he hround => State.closeWrites_noted he hround

end Sys2Proof.Machine
end

section
/-! The events of the copy engine, the landing of an LDA, the accumulator forms and the array (R23, R206, R222, R224, R229 to R233, R266). -/

namespace Sys2Proof.Machine

/-! ## Copies -/

theorem State.someUnits_perm {s : State} {o : AsyncOp} {units now rest : List CopyUnit} (h : (now, rest) = s.someUnits o units) :
    (now ++ rest).Perm units := by
  obtain ⟨rfl, rfl⟩ := Prod.mk.inj h
  rw [← List.map_append]
  refine ((List.filter_append_perm _ _).map _).trans (List.Perm.of_eq ?_)
  rw [List.zipIdx_map_fst]

theorem State.someUnits_ne_nil {s : State} {o : AsyncOp} {units now rest : List CopyUnit} (h : (now, rest) = s.someUnits o units)
    (hunits : units ≠ []) : now ≠ [] := by
  obtain ⟨rfl, -⟩ := Prod.mk.inj h
  cases units with
  | nil => exact absurd rfl hunits
  | cons x units => simp [List.zipIdx_cons]

theorem State.someUnits_rest_ne_nil {s : State} {o : AsyncOp} {units now rest : List CopyUnit} (h : (now, rest) = s.someUnits o units)
    (hrest : rest ≠ []) : units ≠ [] := by
  rintro rfl
  obtain ⟨-, rfl⟩ := Prod.mk.inj h
  exact hrest rfl

/-- What ACC.LD gives the word `i` of its slot: the element that the header's block has there, or zero. -/
def accLoaded (s : State) (o : AsyncOp) (elems : List (Nat × Loc)) (fmt : Nat) (i : Nat) : Word :=
  match assoc? elems i with
  | some l => accLoadElem fmt (ofLeBytes (s.readForOp o l (accStSize fmt)))
  | none => 0

section Engine

variable {s : State} {op : Nat} {o : AsyncOp} {w : Crew} {t : Team} (hop : s.op? op = some o) (hdone : o.done = false)
  (hcrew : s.crew? o.crew = some w) (hteam : s.team? o.team = some t)

section Copy

variable {out : Bool} {units : List CopyUnit} {sw : Nat} {tile : Option (Nat × Nat)} {tag : TagWrite} {follow : Option MmaArgs}
  {now rest : List CopyUnit} {s1 : State} (hwork : o.work = .copy out units sw tile tag follow) (hsome : (now, rest) = s.someUnits o units)
  (hs1 : s1 = if out then s.copyOut o w t.index now sw tile else s.copyIn o w t.index now sw tile follow.isSome)
include hop hdone hcrew hteam hwork hsome hs1

theorem exec_copyComplete_of_ready (hready : units = [] → o.batch = 0 ∨ s.batchDone t (o.batch - 1) = true) :
    exec (.copyComplete op) s = .next (if rest = [] then s1.endCopy o w tag follow
      else s1.modOp op (fun x => { x with work := .copy out rest sw tile tag follow })) := by
  have hgo : (o.done || (units.isEmpty && decide (0 < o.batch) && !s.batchDone t (o.batch - 1))) = false := by
    rw [hdone, Bool.false_or, Bool.and_eq_false_iff, Bool.and_eq_false_iff]
    by_cases hunits : units = []
    · rcases hready hunits with h | h
      · exact .inl (.inr (decide_eq_false (by omega)))
      · exact .inr (by rw [h]; rfl)
    · exact .inl (.inl (by simpa using hunits))
  subst hs1
  rw [exec, execCopyComplete]
  simp only [hop, hwork, hcrew, hteam, hgo, Bool.false_eq_true, if_false, ← hsome]

theorem exec_copyComplete_of_left (hrest : rest ≠ []) :
    exec (.copyComplete op) s = .next (s1.modOp op (fun x => { x with work := .copy out rest sw tile tag follow })) := by
  rw [exec_copyComplete_of_ready hop hdone hcrew hteam hwork hsome hs1 fun h => absurd h (State.someUnits_rest_ne_nil hsome hrest), if_neg hrest]

theorem exec_copyComplete_of_last (hrest : rest = []) (hready : units = [] → o.batch = 0 ∨ s.batchDone t (o.batch - 1) = true) :
    exec (.copyComplete op) s = .next (s1.endCopy o w tag follow) := by
  rw [exec_copyComplete_of_ready hop hdone hcrew hteam hwork hsome hs1 hready, if_pos hrest]

end Copy

section Follow

variable {m : MmaArgs} {k : Context} (hwork : o.work = .follow m) (hroom : s.arrayQueue o.core < 16) (hctx : s.ctx? o.ctx = some k)
  (hrunning : k.state = .running)
include hop hdone hcrew hteam hwork hroom hctx hrunning

theorem exec_followMmaIssue_of_readBlock {fb : FmtBlock} (hread : s.readBlock w ⟨t.index, .array, s.tick⟩ m = .ok fb) :
    exec (.followMmaIssue op) s = .next (s.modOp op (fun x => { x with work := .mma m fb 0 0 [] none, stamp := s.tick })) := by
  have hgo : ¬(o.done = true ∨ ((s.ctx? o.ctx).map (fun c => decide (c.state = .running))).getD false = false) := by
    simp [hdone, hctx, hrunning]
  rw [exec, execFollowMmaIssue]
  simp only [hop, if_neg (Nat.not_le.mpr hroom), State.issueFollow, hwork, hcrew, hteam, if_neg hgo, hread]

theorem exec_followMmaIssue_of_brokenBlock {info : BitVec 64} (hread : s.readBlock w ⟨t.index, .array, s.tick⟩ m = .error info) :
    exec (.followMmaIssue op) s =
      .next (s.finishOp o [] (some (0x24, info + BitVec.ofNat 64 (o.pc % 2 ^ 57 / 65536 * 65536)))) := by
  have hgo : ¬(o.done = true ∨ ((s.ctx? o.ctx).map (fun c => decide (c.state = .running))).getD false = false) := by
    simp [hdone, hctx, hrunning]
  rw [exec, execFollowMmaIssue]
  simp only [hop, if_neg (Nat.not_le.mpr hroom), State.issueFollow, hwork, hcrew, hteam, if_neg hgo, hread]

end Follow

/-! ## Accumulator forms -/

omit hdone hcrew hteam in
include hop in
theorem exec_accComplete_of_waits (hturn : s.accTurn o = false) : exec (.accComplete op) s = .next s := by
  rw [exec, execAccComplete]
  simp [hop, hturn]

section Acc

variable (hturn : s.accTurn o = true) {left now rest : Plane} (hnow : now = s.accNow o left) (hrest : rest = left &&& ~~~now)
include hop hdone hcrew hturn hnow hrest

omit hteam in
theorem exec_accComplete_of_clr {slot : Nat} {s1 : State} (hwork : o.work = .accClr slot left)
    (hs1 : s1 = s.modCrew w.key (fun x => x.setAcc slot (Plane.cells now) (fun _ => 0))) :
    exec (.accComplete op) s = if rest = 0 then .next (s1.finishOp o [] none)
      else .next (s1.modOp op (fun x => { x with work := .accClr slot rest })) := by
  subst hrest hs1 hnow
  rw [exec, execAccComplete]
  simp only [hop, hdone, hturn, hcrew, hwork, Bool.not_true, Bool.or_self, Bool.false_eq_true, if_false]

omit hteam in
theorem exec_accComplete_of_prom {dst src : Nat} {f : Word} {s1 : State} (hwork : o.work = .accProm dst src f left)
    (hs1 : s1 = s.modCrew w.key (fun x => x.setAcc dst (Plane.cells now) (fun i => word3 fp32.fma (x.accWord src i) f (x.accWord dst i)))) :
    exec (.accComplete op) s = if rest = 0 then .next (s1.finishOp o [] none)
      else .next (s1.modOp op (fun x => { x with work := .accProm dst src f rest })) := by
  subst hrest hs1 hnow
  rw [exec, execAccComplete]
  simp only [hop, hdone, hturn, hcrew, hwork, Bool.not_true, Bool.or_self, Bool.false_eq_true, if_false]

omit hteam in
theorem exec_accComplete_of_ld {slot : Nat} {elems : List (Nat × Loc)} {fmt : Nat} {s1 s2 : State} (hwork : o.work = .accLd slot elems fmt left)
    (hs1 : s1 = s.drainFor o.core (elems.map (fun e => e.2)))
    (hs2 : s2 = (s1.opSaw o ((elems.filter (fun e => now.getLsbD e.1)).map (fun e => e.2)) (accStSize fmt)).modCrew w.key (fun x =>
      x.setAcc slot (Plane.cells now) (accLoaded s1 o elems fmt))) :
    exec (.accComplete op) s = if rest = 0 then .next (s2.finishOp o [] none)
      else .next (s2.modOp op (fun x => { x with work := .accLd slot elems fmt rest })) := by
  subst hrest hs2 hs1 hnow
  rw [exec, execAccComplete]
  simp only [hop, hdone, hturn, hcrew, hwork, Bool.not_true, Bool.or_self, Bool.false_eq_true, if_false]
  rfl

omit hteam in
theorem exec_accComplete_of_st {slot : Nat} {elems : List (Nat × Loc)} {fmt : Nat} {sat : Bool} {tag : TagWrite} {got more : List (Loc × Nat)}
    (hwork : o.work = .accSt slot elems fmt sat tag got left)
    (hmore : more = (elems.filter (fun e => now.getLsbD e.1)).map (fun e => (e.2, accStoreElem fmt sat (w.accWord slot e.1).toNat))) :
    exec (.accComplete op) s = if rest = 0 then
        .next ((((got ++ more).foldl (fun (x : State) e => x.writeThrough e.1 (accStSize fmt) e.2) s).writeTag o w tag).finishOp o [] none)
      else .next (s.modOp op (fun x => { x with work := .accSt slot elems fmt sat tag (got ++ more) rest })) := by
  subst hrest hmore hnow
  rw [exec, execAccComplete]
  simp only [hop, hdone, hturn, hcrew, hwork, Bool.not_true, Bool.or_self, Bool.false_eq_true, if_false]

end Acc

/-! ## Landings -/

omit hop hdone hcrew hteam in
theorem State.op?_congr {s1 : State} (hops : s1.ops = s.ops) (op : Nat) : s1.op? op = s.op? op := by
  rw [State.op?, hops]; rfl

theorem State.landLane_mem (s : State) (o : AsyncOp) (l : LdaLane) : (s.landLane o l).mem = s.mem := by
  unfold State.landLane
  split <;> simp

@[simp] theorem State.engineSaw_ops (s : State) (team step p a n : Nat) : (s.engineSaw team step p a n).ops = s.ops := by
  unfold State.engineSaw
  simp

section Land

variable {todo : List LdaLane} {more : Bool} {lane : Nat} {l : LdaLane} (hwork : o.work = .lda todo more)
include hop hwork

omit hdone hcrew hteam in
theorem exec_ldaLand_of_found (hfind : todo.find? (fun x => x.lane == lane) = some l) :
    exec (.ldaLand op lane) s = .next ((s.landLane o l).afterOps o.team) := by
  rw [exec, execLdaLand]
  simp only [hop, hwork, hfind]

omit hdone hcrew hteam in
theorem State.op?_landValue (v : BitVec 64) : (s.landValue o l v).op? op = some { o with
    work := .lda (todo.filter (fun y => y.lane != l.lane)) more, landed := o.landed ++ laneWrites l.reg l.lane l.type v 0 none } := by
  have hids : ((fun q : AsyncOp => q.id == op) ∘ fun q => if q.id = o.id then
      match q.work with
      | .lda todo more => { q with work := .lda (todo.filter (fun x => x.lane != l.lane)) more
                                   landed := q.landed ++ laneWrites l.reg l.lane l.type v 0 none }
      | _ => q
    else q) = fun q => q.id == op := by
    funext q
    dsimp only [Function.comp]
    split
    · split <;> rfl
    · rfl
  have hfound : s.ops.find? (fun q => q.id == op) = some o := hop
  rw [State.op?, State.landValue, List.find?_map]
  erw [hids]
  rw [hfound]
  simp only [Option.map_some, if_true, hwork]

omit hdone in
include hcrew hteam in
theorem State.op?_landLane {core m : Nat} {v : BitVec 64} (hcore : core = w.coreOf t (l.lane / 32))
    (hm : m = if l.bypass && !l.loc.ws then s.engineMoment o.team o.stamp (l.loc.readAddr core 0) (typeSize l.type) else s.tick)
    (hv : v = l.val.getD (extendLoad l.type (s.loadValAt m core o.team l.bypass l.loc (typeSize l.type)))) :
    (s.landLane o l).op? op = some { o with
      work := .lda (todo.filter (fun y => y.lane != l.lane)) more, landed := o.landed ++ laneWrites l.reg l.lane l.type v 0 none } := by
  rw [State.landLane]
  cases hval : l.val with
  | some v' =>
    obtain rfl : v = v' := by rw [hv, hval]; rfl
    exact State.op?_landValue hop hwork v
  | none =>
    have hread : (s.landRead o l).ops = (s.landValue o l v).ops := by
      rw [hval] at hv
      subst hv hm hcore
      simp only [State.landRead, hcrew, hteam, State.afterLoad_ops, Option.getD_none]
      split
      · rw [State.modTeam_ops]; split <;> simp
      · split <;> simp
    exact (State.op?_congr hread op).trans (State.op?_landValue hop hwork v)

end Land

/-! ## The array -/

theorem mem_sortedKeys {x : Nat} {xs : List Nat} : x ∈ sortedKeys xs ↔ x ∈ xs := by
  induction xs with
  | nil => rfl
  | cons y xs ih =>
    have hstep : sortedKeys (y :: xs) =
        (sortedKeys xs).filter (fun z => decide (z < y)) ++ y :: (sortedKeys xs).filter (fun z => decide (y < z)) := rfl
    rw [hstep, List.mem_append, List.mem_cons, List.mem_cons, List.mem_filter, List.mem_filter, ih]
    simp only [decide_eq_true_eq]
    constructor
    · rintro (⟨hmem, -⟩ | rfl | ⟨hmem, -⟩)
      · exact .inr hmem
      · exact .inl rfl
      · exact .inr hmem
    · rintro (rfl | hmem)
      · exact .inr (.inl rfl)
      · rcases Nat.lt_trichotomy x y with hlt | rfl | hgt
        · exact .inl ⟨hmem, hlt⟩
        · exact .inr (.inl rfl)
        · exact .inr (.inr ⟨hmem, hgt⟩)

theorem nextAfter_mem {last : Nat} {xs : List Nat} (h : xs ≠ []) : ∃ k ∈ xs, nextAfter (some last) xs = some k := by
  rw [nextAfter]
  cases hfind : xs.find? (fun x => decide (last < x)) with
  | some k => exact ⟨k, List.mem_of_find?_eq_some hfind, rfl⟩
  | none =>
    cases xs with
    | nil => exact absurd rfl h
    | cons x xs => exact ⟨x, List.mem_cons_self .., rfl⟩

omit hop hdone hcrew hteam in
theorem State.arrayNext_mem {core : Nat} (h : s.arrayReady core ≠ []) : ∃ p ∈ s.arrayReady core, s.arrayNext core = some p := by
  obtain ⟨k, hk, hnext⟩ := nextAfter_mem (last := (s.core core).arrayServed) (xs := sortedKeys ((s.arrayReady core).map s.issuerOf)) (by
    obtain ⟨p, hp⟩ := List.exists_mem_of_ne_nil _ h
    exact List.ne_nil_of_mem (mem_sortedKeys.mpr (List.mem_map_of_mem hp)))
  obtain ⟨p, hp, rfl⟩ := List.mem_map.mp (mem_sortedKeys.mp hk)
  have hmine : 0 < ((s.arrayReady core).filter (fun o => s.issuerOf o == s.issuerOf p)).length :=
    List.length_pos_of_mem (List.mem_filter.mpr ⟨hp, beq_self_eq_true _⟩)
  have hlt := Nat.mod_lt (Config.freeChoice s.tick) hmine
  refine ⟨_, List.mem_of_mem_filter (List.getElem_mem hlt), ?_⟩
  rw [State.arrayNext]
  simp only [hnext]
  exact List.getElem?_eq_getElem hlt

omit hop hdone hcrew hteam in
theorem exec_matrixArrayGroup_of_idle {core : Nat} (h : s.arrayReady core = []) : exec (.matrixArrayGroup core) s = .next s := by
  have hnone : s.arrayNext core = none := by rw [State.arrayNext]; simp only [h]; rfl
  rw [exec, execMatrixArrayGroup]
  simp only [hnone]

end Engine

/-- Settles O55, event by event, from what each does to an operation that is due. -/
theorem engineEvents : Obligations.EngineEvents := by
  unfold Obligations.EngineEvents
  intro s op o w t hop hid hdone hcrew hteam
  refine ⟨?copies, ?follow, ?land, exec_accComplete_of_waits hop, ?acc, fun core => ⟨exec_matrixArrayGroup_of_idle, fun hready => ?array⟩⟩
  case copies =>
    intro out units sw tile tag follow now rest s1 hwork hsome hs1
    refine ⟨State.someUnits_perm hsome, State.someUnits_ne_nil hsome, exec_copyComplete_of_left hop hdone hcrew hteam hwork hsome hs1, ?_, ?_⟩
    · intro hrest hready hfollow
      rw [exec_copyComplete_of_last hop hdone hcrew hteam hwork hsome hs1 hrest hready, hfollow]
      rfl
    · intro m hrest hready hfollow
      rw [exec_copyComplete_of_last hop hdone hcrew hteam hwork hsome hs1 hrest hready, hfollow, ← hid]
      rfl
  case follow =>
    intro m k hwork hroom hctx hrunning
    exact ⟨fun fb => exec_followMmaIssue_of_readBlock hop hdone hcrew hteam hwork hroom hctx hrunning,
      fun info => exec_followMmaIssue_of_brokenBlock hop hdone hcrew hteam hwork hroom hctx hrunning⟩
  case land =>
    intro todo more lane l core m v s1 hwork hfind hs1 hcore hm hv
    subst hs1
    refine ⟨exec_ldaLand_of_found hop hwork hfind, State.landLane_mem .., fun x hx => ?_⟩
    rw [State.op?_landLane hop hcrew hteam hwork hcore hm hv] at hx
    obtain rfl := Option.some.inj hx
    exact ⟨rfl, rfl⟩
  case acc =>
    intro hturn
    refine ⟨?_, ?_, ?_, ?_⟩
    · intro slot left now rest s1 hwork hnow hrest hs1
      rw [exec_accComplete_of_clr hop hdone hcrew hturn hnow hrest hwork hs1]
      exact ⟨fun h => if_pos h, fun h => if_neg h⟩
    · intro dst src f left now rest s1 hwork hnow hrest hs1
      rw [exec_accComplete_of_prom hop hdone hcrew hturn hnow hrest hwork hs1]
      exact ⟨fun h => if_pos h, fun h => if_neg h⟩
    · intro slot elems fmt left now rest s1 s2 hwork hnow hrest hs1 hs2
      rw [exec_accComplete_of_ld hop hdone hcrew hturn hnow hrest hwork hs1 hs2]
      exact ⟨fun h => if_pos h, fun h => if_neg h⟩
    · intro slot elems fmt sat tag got left now rest more hwork hnow hrest hmore
      rw [exec_accComplete_of_st hop hdone hcrew hturn hnow hrest hwork hmore]
      exact ⟨fun h => if_pos h, fun h => if_neg h⟩
  case array =>
    obtain ⟨p, hp, hnext⟩ := State.arrayNext_mem hready
    refine ⟨p, hp, fun s1 hs1 => ⟨?_, ?_⟩⟩
    · intro m fb g n acc fold v u hwork hv hu
      subst hs1
      rw [exec, execMatrixArrayGroup]
      simp only [hnext, hwork, hv, hu]
    · intro todo nets regs tile hwork
      subst hs1
      rw [exec, execMatrixArrayGroup]
      simp only [hnext, hwork]

end Sys2Proof.Machine
end

section
/-! A ring's waiter whose crew is not the issuing one (R255, R347). -/

namespace Sys2Proof.Machine

/-- A team parked on a semaphore that has passed, whose crew (none is live) is not the one that stands as the issuing crew, at core 1: the
team waits at core 0. -/
def strayWaiter : State :=
  { State.reset with
    team := { State.reset.team with state := .parked, park := .ringWait 0 0 0 false }
    crew := { State.reset.crew with core := 1 }
    ctx := { State.reset.ctx with state := .running } }

theorem exec_waitTableNotify_strayWaiter :
    exec (.waitTableNotify 1 (semaphoreAddr 0 0 / 128)) strayWaiter = .next strayWaiter := rfl

/-- Refutes O56: a team parked on a semaphore that has passed does not become ready when the core of the crew that stands as the issuing one
is notified, where the team is of another crew: it waits at its own crew's core. -/
theorem not_memoryPathEvents : ¬ Obligations.MemoryPathEvents := by
  unfold Obligations.MemoryPathEvents
  intro h
  obtain ⟨-, -, -, -, hring, -⟩ := h strayWaiter
  obtain ⟨hnotify, -⟩ := hring 1 0 0 0 rfl rfl (by decide) rfl
  obtain ⟨t, hexec, hteam, -⟩ := hnotify rfl
  cases exec_waitTableNotify_strayWaiter.symm.trans hexec
  exact absurd (congrArg Team.state hteam) (by decide)

end Sys2Proof.Machine
end

section
/-! Launches, ends of crews, watchdogs, terminations and the trim tick (R28, R31, R35, R213, R306, R314, R325, R334). -/

namespace Sys2Proof.Machine

/-! ## Launches -/

/-- One register's words, lane by lane, as a launch writes them. -/
theorem get_row (mine : List Rec) (hlen : mine.length ≤ 1024) {l : Nat} (hl : l < mine.length) (m : FMap 32) (f : Nat → Word) (i j : Nat) :
    ((List.range mine.length).foldl (fun m l => m.set (i * 1024 + l) (f l)) m).get (j * 1024 + l) =
      if j = i then f l else m.get (j * 1024 + l) := by
  rw [FMap.get_foldl_set m _ (fun l => i * 1024 + l) f (fun a b h => by omega)]
  by_cases hji : j = i
  · subst hji
    have hmem : l ∈ List.range mine.length := List.mem_range.mpr hl
    rw [if_pos ⟨l, hmem, rfl⟩, if_pos rfl]
    cases hfind : (List.range mine.length).find? (fun x => j * 1024 + l == j * 1024 + x) with
    | none => exact absurd (beq_self_eq_true (j * 1024 + l)) (List.find?_eq_none.mp hfind l hmem)
    | some x =>
      have hx : j * 1024 + l = j * 1024 + x := by simpa using List.find?_some hfind
      rw [Option.getD_some, show x = l by omega]
  · rw [if_neg hji, if_neg]
    rintro ⟨x, hx, hkey⟩
    have := List.mem_range.mp hx
    omega

theorem launchTeam_lanes_get (e : Node) (key crew ctx k n part slot entry : Nat) (recs : List Rec) (qgen : Nat) (hstrands : e.strands ≤ 32)
    {l j : Nat} {r : Rec} (hl : l < 32 * e.strands) (hr : (recs.drop (32 * e.strands * k))[l]? = some r) (hj : j < e.recWords) :
    (launchTeam e key crew ctx k n part slot entry recs qgen).lanes.get (j * 1024 + l) = r.words.getD j 0 := by
  have hmine : ((recs.drop (32 * e.strands * k)).take (32 * e.strands))[l]? = some r := by rw [List.getElem?_take_of_lt hl, hr]
  have hbound : ((recs.drop (32 * e.strands * k)).take (32 * e.strands)).length ≤ 1024 := by
    rw [List.length_take]; omega
  simp only [launchTeam]
  generalize (recs.drop (32 * e.strands * k)).take (32 * e.strands) = mine at hmine hbound
  have hlen : l < mine.length := (List.getElem?_eq_some_iff.mp hmine).1
  have hrows : ∀ (js : List Nat) (m : FMap 32), (js.foldl (fun m j => (List.range mine.length).foldl (fun m l =>
      m.set (j * 1024 + l) ((((mine[l]?).map (fun r => r.words)).getD []).getD j 0)) m) m).get (j * 1024 + l) =
        if j ∈ js then r.words.getD j 0 else m.get (j * 1024 + l) := by
    intro js
    induction js with
    | nil => intro m; rfl
    | cons i js ih =>
      intro m
      rw [List.foldl_cons, ih, get_row mine hbound hlen, hmine]
      by_cases hji : j = i
      · simp [hji]
      · simp [hji]
  rw [hrows, if_pos (List.mem_range.mpr hj)]

theorem State.takeStore_teams (s : State) (core : Nat) : (s.takeStore core).teams = s.teams := rfl

theorem State.mem_launch_teams (s : State) (c : Context) (n : Nat) (e : Node) (entry : Nat) (taken : List Nat) (at_ : Nat) (place : Placed)
    {recs : List Rec} (hrecs : recs = taken.filterMap (fun i => (c.bin n)[i]?)) {k b : Nat} (hb : place.bases[k]? = some b) : ∃ slot,
      ({ launchTeam e (s.nextKey + 1 + k) s.nextKey c.key k recs.length b slot entry recs c.genClosed with floor := s.tick } : Team)
        ∈ (s.launch c n e entry taken at_ place).teams := by
  have hk : k < place.bases.length := (List.getElem?_eq_some_iff.mp hb).1
  obtain rfl : b = place.bases.getD k 0 := by rw [List.getD_eq_getElem?_getD, hb]; rfl
  subst hrecs
  refine ⟨(pickSlots place.bases.length s.tick (s.slotsOn place.home)).getD k 0, ?_⟩
  rw [State.launch]
  dsimp only
  rw [State.foldl_keeps State.takeStore (·.teams) State.takeStore_teams]
  exact List.mem_append_right _ (List.mem_map.mpr ⟨k, List.mem_range.mpr hk, rfl⟩)

section NodeLaunch

variable {s : State} {core ctx node : Nat} {c : Context} {e : Node} {r : Rec}

/-- What a core's scheduler does with the plan that it has chosen (R306). -/
def planned (s : State) (c : Context) (node : Nat) (e : Node) (r : Rec) (ctx : Nat) : Plan → State
  | .drop j => s.modCtx ctx (fun c => c.dropJob node j)
  | .convert cs => (s.tagsRead c e [r]).convert c node e r cs
  | .noMethod => (s.tagsRead c e [r]).noMethod c node e r
  | .launch entry taken at_ place => (s.tagsRead c e (taken.filterMap (fun i => (c.bin node)[i]?))).launch c node e entry taken at_ place

theorem exec_nodeLaunch_of_choice {p : Plan} (hchoice : s.launchChoice core = some (ctx, node, p)) (hctx : s.ctx? ctx = some c)
    (hnode : c.nodes[node]? = some e) (hhead : (c.bin node).head? = some r) :
    exec (.nodeLaunch core ctx node) s = .next ((planned s c node e r ctx p).retryPushes ctx) := by
  rw [exec, execNodeLaunch]
  simp only [hchoice, hctx, hnode, hhead, ne_eq, not_true, or_self, if_false]
  cases p <;> rfl

end NodeLaunch

/-! ## Ends -/

theorem exec_crewEnd_of_done {s : State} {crew : Nat} {w : Crew} {c : Context} (hcrew : s.crew? crew = some w) (hctx : s.ctx? w.ctx = some c)
    (hstate : c.state = .running ∨ c.state = .halted) (hdone : s.crewDone w = true) :
    exec (.crewEnd crew) s = .next ((s.dropCrew crew).modCtx w.ctx (fun x => w.convs.foldl Context.converted x)) := by
  rw [exec, execCrewEnd]
  simp only [hcrew, hctx, if_pos (And.intro hstate hdone)]

theorem exec_barrierWatchdogExpiry_of_period {s : State} {crew : Nat} {w : Crew} {x : Team} {c : Context} {body : List Byte}
    (hcrew : s.crew? crew = some w) (hwait : s.firstWaiting crew = some x) (hctx : s.ctx? w.ctx = some c) (hstate : c.state = .running)
    (hperiod : w.wdPeriod ≤ w.wdCount) (hbody : body = s.capture w x false) :
    exec (.barrierWatchdogExpiry crew) s = .next (s.terminate w.ctx 0x0C
      (recordHeader 0x0C 1 w.ctx body.length w.crewid.toNat x.pc.toNat s.dev.dtime 0 w.core x.teamid ++ body)) := by
  rw [exec, execBarrierWatchdogExpiry]
  simp only [hcrew, hwait, hctx, if_pos (And.intro hstate hperiod), ← hbody]

/-! ## The record of a termination -/

@[simp] theorem State.reported_reports (s : State) (p n : Nat) : (s.reported p n).dev.reports = s.dev.reports := by
  unfold State.reported
  dsimp only
  split <;> rfl

@[simp] theorem State.walked_reports (s : State) (c : Context) (die va : Nat) : (s.walked c die va).dev.reports = s.dev.reports := by
  unfold State.walked
  split
  · rfl
  · exact State.foldl_keeps _ (·.dev.reports) (fun s p => State.reported_reports s p 8) _ s

@[simp] theorem State.fillDieTlb_reports (s : State) (c : Context) (die va : Nat) : (s.fillDieTlb c die va).dev.reports = s.dev.reports := by
  unfold State.fillDieTlb
  split <;> simp

theorem State.deviceFault_host (s : State) (ck va cause : Nat) (acc : Access) (die unit : Nat) :
    (s.deviceFault ck va cause acc die unit).dev.reports.host = s.dev.reports.host := by
  unfold State.deviceFault
  split
  · rfl
  · split
    · rfl
    · simp [Device.report]

theorem State.writeFor_host (s : State) (c : Context) (va : Nat) (bytes : List Byte) (unit : Nat) :
    (s.writeFor c va bytes unit).1.dev.reports.host = s.dev.reports.host := by
  unfold State.writeFor
  split
  · split
    · rfl
    · exact State.deviceFault_host ..
  · refine (State.foldl_keeps _ (·.dev.reports.host) (fun s i => ?_) _ _).trans (by simp [State.deviceDone])
    split <;> simp

@[simp] theorem State.drainGone_dev (s : State) : s.drainGone.dev = s.dev := by
  unfold State.drainGone
  refine (State.foldl_keeps State.drainAll (·.dev) State.drainAll_dev _ _).trans ?_
  split <;> simp

theorem exec_terminationRecord_of_drained {s : State} {ctx : Nat} {c : Context} {r : List Byte} (hctx : s.ctx? ctx = some c)
    (hrecord : c.termRecord = some r) (hdrained : s.stillDraining ctx = false) (hdue : ∀ j ∈ c.jobs, j.due = [])
    (hwords : ∀ j ∈ 0 :: c.termJobs, s.drainGone.firstBad c (c.qbase + 4 * j) 4 .write = none) :
    ∃ t, exec (.terminationRecord ctx) s = .next t ∧ t.dev.reports.service.getLast? = some r
      ∧ t.dev.reports.host = s.dev.reports.host ++ [r] := by
  have hgo : ¬(s.stillDraining ctx = true ∨ c.jobs.any (fun j => !j.due.isEmpty) = true) := by
    rw [hdrained, List.any_eq_true]
    rintro (h | ⟨j, hj, h⟩)
    · exact Bool.false_ne_true h
    · simp [hdue j hj] at h
  have hbad : (0 :: c.termJobs).eraseDups.findSome? (fun j =>
      if ((s.drainGone.firstBad c (c.qbase + 4 * j) 4 .write).map (fun x => c.refusedVas.contains x.1)).getD true = true then none
      else s.drainGone.firstBad c (c.qbase + 4 * j) 4 .write) = none := by
    rw [List.findSome?_eq_none_iff]
    intro j hj
    rw [hwords j (List.mem_eraseDups.mp hj)]
    rfl
  rw [exec, execTerminationRecord]
  simp only [hctx, hrecord, if_neg hgo, hbad]
  refine ⟨_, rfl, by simp [Device.report], ?_⟩
  simp only [Device.report, State.modCtx_dev]
  rw [State.foldl_keeps _ (·.dev.reports.host) (fun s j => State.writeFor_host ..), State.drainGone_dev]

/-! ## The team watchdog -/

section Watchdog

variable {s : State} {period : Nat} (hfree : s.team.state ≠ .free) (hexited : s.team.state ≠ .exited) (hctx : s.ctx.state = .running)
  (hperiod : period = (s.team.wdogDue.map (fun x => x.1)).getD (s.ctx.regs.get 4).toNat)
  (hdue : s.team.wdogDue.isSome = true ∨ (s.ctx.wdogLimit ≠ 0 ∧ s.ctx.wdogLimit ≤ s.team.wdog))
include hfree hexited hctx hperiod hdue

theorem exec_teamWatchdogExpiry_of_due : exec (.teamWatchdogExpiry s.team.key) s =
    let s1 := if s.team.state = .parked then s.withdraw s.team else s
    let s2 := if s.team.state = .running then s1 else s1.roomFor s.team
    .next ((s2.withTeam { s.team with state := .running, park := .awake, wdogDue := none }).trapHere 0x13
      (BitVec.ofNat 64 (period % 2 ^ 32 + (if s.team.state = .parked then s.team.park.code else 0) * 2 ^ 32))) := by
  have hselect : s.select s.team.key = s := if_pos ⟨hfree, rfl⟩
  rw [exec, execTeamWatchdogExpiry, hselect, hperiod]
  dsimp only
  rw [if_pos ⟨rfl, hfree, hexited, hctx, hdue⟩]

end Watchdog

theorem State.withdraw_crew {s : State} {n : Nat} (hpark : s.team.park = .barrier n) (hlive : s.crew.live = true) (hkey : s.team.crew = s.crew.key) :
    (s.withdraw s.team).crew = { s.crew with rounds := withdrawArrival n s.team.index s.crew.rounds } := by
  rw [State.withdraw, hpark]
  dsimp only
  rw [hkey, State.modCrew, if_pos ⟨hlive, rfl⟩]

theorem arrived_of_mem_withdrawArrival {n index : Nat} {rounds : List Round} {r : Round} (hr : r ∈ withdrawArrival n index rounds) (hn : r.n = n) :
    index ∉ r.arrived ∧ r.arrived ≠ [] := by
  obtain ⟨hmem, hkept⟩ := List.mem_filter.mp hr
  refine ⟨?_, by rintro h; simp [hn, h] at hkept⟩
  obtain ⟨x, -, rfl⟩ := List.mem_map.mp hmem
  by_cases hx : x.n = n
  · simp [hx]
  · rw [if_neg hx] at hn
    exact absurd hn hx

theorem exec_issuePriorityAgeing_of_waited {s : State} {slot : Nat} (hstate : s.team.state = .ready ∨ s.team.state = .running)
    (hwaited : 2048 ≤ s.team.waited slot) (haged : slot ∉ s.team.aged) :
    exec (.issuePriorityAgeing s.team.key slot) s = .next (s.withTeam { s.team with aged := slot :: s.team.aged }) := by
  have hfree : s.team.state ≠ .free := by rintro h; simp [h] at hstate
  rw [exec, execIssuePriorityAgeing, State.modTeam_self _ hfree rfl, if_pos hstate, if_pos ⟨hwaited, haged⟩]

/-- Settles O57, event by event. -/
theorem launchesAndEnds : Obligations.LaunchesAndEnds := by
  unfold Obligations.LaunchesAndEnds
  intro s
  refine ⟨?launch, ?team, fun c n e entry taken at_ place recs hrecs k b hb => State.mem_launch_teams s c n e entry taken at_ place hrecs hb,
    fun crew w c => exec_crewEnd_of_done, fun crew w x c body => exec_barrierWatchdogExpiry_of_period, fun ctx => rfl,
    fun ctx c r => exec_terminationRecord_of_drained, ?watchdog,
    fun n hpark hlive hkey => ⟨State.withdraw_crew hpark hlive hkey, fun r => arrived_of_mem_withdrawArrival⟩,
    fun slot => exec_issuePriorityAgeing_of_waited, ?idle, ?tick⟩
  case launch =>
    intro core ctx node c e r p hchoice hctx hnode hhead
    have hexec := exec_nodeLaunch_of_choice hchoice hctx hnode hhead
    refine ⟨?_, ?_, ?_, ?_⟩
    · rintro entry taken at_ place rfl; exact hexec
    · rintro j rfl; exact hexec
    · rintro cs rfl; exact hexec
    · rintro rfl; exact hexec
  case team =>
    rintro e key crew ctx k n part slot entry recs qgen x rfl
    refine ⟨rfl, rfl, rfl, rfl, FMap.get_set_self _ _ _, rfl, rfl, rfl, rfl, rfl, rfl, rfl, rfl, rfl, rfl, rfl, ?_⟩
    intro hstrands l r j hl hr hj
    exact launchTeam_lanes_get e key crew ctx k n part slot entry recs qgen hstrands hl hr hj
  case watchdog =>
    intro period hctx hperiod hdue
    refine ⟨?_, ?_⟩
    · rintro s1 (⟨hrunning, rfl⟩ | ⟨hready, rfl⟩)
      · rw [exec_teamWatchdogExpiry_of_due (by simp [hrunning]) (by simp [hrunning]) hctx hperiod hdue]
        simp [hrunning]
      · rw [exec_teamWatchdogExpiry_of_due (by simp [hready]) (by simp [hready]) hctx hperiod hdue]
        simp [hready]
    · intro hparked
      rw [exec_teamWatchdogExpiry_of_due (by simp [hparked]) (by simp [hparked]) hctx hperiod hdue]
      simp [hparked]
  case idle =>
    intro h
    rw [exec, execTrimGovernorTick, if_pos h]
  case tick =>
    rintro h nodes s1 rfl rfl
    rw [exec, execTrimGovernorTick, if_neg (Nat.not_lt.mpr h)]

end Sys2Proof.Machine
end

section
/-! The life of a context: creation, image load, pre-emption, save, restore and destruction (R218, R332 to R336, R392, R393, R397). -/

namespace Sys2Proof.Machine

/-! ## Finding a changed context -/

theorem State.ctx?_key {s : State} {k : Nat} {c : Context} (h : s.ctx? k = some c) : c.key = k := by
  rw [State.ctx?] at h
  split at h
  next hself => exact Option.some.inj h ▸ hself.2
  next => simpa using List.find?_some h

theorem find?_map_key {f : Context → Context} {k : Nat} {c : Context} (hkey : (f c).key = k) (cs : List Context)
    (h : cs.find? (fun x => x.key == k) = some c) :
    (cs.map (fun x => if x.key = k then f x else x)).find? (fun x => x.key == k) = some (f c) := by
  induction cs with
  | nil => cases h
  | cons x cs ih =>
    by_cases hx : x.key = k
    · rw [List.find?_cons_of_pos (by simpa using hx)] at h
      obtain rfl := Option.some.inj h
      rw [List.map_cons, if_pos hx, List.find?_cons_of_pos (by simpa using hkey)]
    · rw [List.find?_cons_of_neg (by simpa using hx)] at h
      rw [List.map_cons, if_neg hx, List.find?_cons_of_neg (by simpa using hx), ih h]

/-- A changed context is found where it was, while it keeps its key and is one. -/
theorem State.ctx?_modCtx {s : State} {k : Nat} {c : Context} {f : Context → Context} (h : s.ctx? k = some c) (hkeep : (f c).key = c.key)
    (hstate : (f c).state ≠ .none) : (s.modCtx k f).ctx? k = some (f c) := by
  have hkey : (f c).key = k := hkeep.trans (State.ctx?_key h)
  rw [State.ctx?] at h
  by_cases hself : s.ctx.state ≠ .none ∧ s.ctx.key = k
  · rw [if_pos hself] at h
    obtain rfl := Option.some.inj h
    rw [State.modCtx, if_pos hself, State.ctx?, if_pos ⟨hstate, hkey⟩]
  · rw [if_neg hself] at h
    rw [State.modCtx, if_neg hself, State.ctx?, if_neg hself]
    exact find?_map_key hkey s.ctxs h

theorem State.ctx?_congr {s t : State} (hctx : t.ctx = s.ctx) (hctxs : t.ctxs = s.ctxs) (k : Nat) : t.ctx? k = s.ctx? k := by
  rw [State.ctx?, State.ctx?, hctx, hctxs]

/-! ## Creation -/

theorem FMap.get_clear {w : Nat} (m : FMap w) (lo hi k : Nat) : (m.clear lo hi).get k = if lo ≤ k ∧ k < hi then 0 else m.get k := by
  induction m with
  | nil => simp [FMap.clear]
  | cons e m ih =>
    obtain ⟨j, v⟩ := e
    rw [FMap.clear] at ih
    by_cases hj : lo ≤ j ∧ j < hi
    · rw [FMap.clear, List.filter_cons_of_neg (by simpa using hj), ih, FMap.get]
      split
      · rfl
      · rw [if_neg (by rintro rfl; contradiction)]
    · rw [FMap.clear, List.filter_cons_of_pos (by simp; omega), FMap.get, FMap.get, ih]
      by_cases hjk : j = k
      · subst hjk
        rw [if_pos rfl, if_neg hj, if_pos rfl]
      · rw [if_neg hjk, if_neg hjk]

theorem exec_contextCreate_of_ok {s : State} {ctx : Nat} {desc : List Byte} {cregs : List (BitVec 64)} {cores : List Nat} (hstage : s.dev.stage = 7)
    (hnew : s.ctx? ctx = none) (hok : s.descriptorOk ctx desc cregs cores = true) :
    exec (.contextCreate ctx desc cregs cores) s = .next { s with
      ctxs := s.ctxs ++ [newContext ctx desc cregs cores [s.grant 0, s.grant 1]]
      semaphores := (s.semaphores.clear (0 * 4096 + (s.grant 0).1) (0 * 4096 + (s.grant 0).1 + (s.grant 0).2)).clear
        (1 * 4096 + (s.grant 1).1) (1 * 4096 + (s.grant 1).1 + (s.grant 1).2) } := by
  rw [exec, execContextCreate, if_pos ⟨hstage, by rw [hnew]; rfl, hok⟩]
  rfl

theorem exec_contextCreate_of_not {s : State} {ctx : Nat} {desc : List Byte} {cregs : List (BitVec 64)} {cores : List Nat}
    (hnot : s.dev.stage ≠ 7 ∨ s.ctx? ctx ≠ none ∨ s.descriptorOk ctx desc cregs cores = false) :
    exec (.contextCreate ctx desc cregs cores) s = .next s := by
  rw [exec, execContextCreate, if_neg]
  rintro ⟨hstage, hnew, hok⟩
  rcases hnot with h | h | h
  · exact h hstage
  · exact h (Option.isNone_iff_eq_none.mp hnew)
  · rw [hok] at h; cases h

/-! ## Images -/

/-- What a load of an image gives a context, and the reading of its RIGTAB leaves it. -/
def Context.imageOf (c : Context) : Nat × CtxState × Bool × List Node × List (List Rec) × FMap 64 × List (List Nat) :=
  (c.key, c.state, c.loaded, c.nodes, c.bins, c.regs, c.coreSets)

theorem State.readRig_imageOf {s : State} {c c' : Context} {base n : Nat} (h : s.readRig c base = .ok (c', n)) : c'.imageOf = c.imageOf := by
  rw [State.readRig] at h
  split at h
  · cases h
  · dsimp only at h
    split at h
    · cases h; rfl
    · split at h
      · cases h
      · cases h; rfl

section ReadDone

variable (s : State) (c : Context) (va n : Nat)

theorem State.readDone_ctx : (s.readDone c va n).ctx = s.ctx := by
  unfold State.readDone
  split
  · rfl
  · exact State.foldl_keeps _ (·.ctx) (fun s i => by split <;> simp) _ s

theorem State.readDone_ctxs : (s.readDone c va n).ctxs = s.ctxs := by
  unfold State.readDone
  split
  · rfl
  · exact State.foldl_keeps _ (·.ctxs) (fun s i => by split <;> simp) _ s

theorem State.readDone_cores : (s.readDone c va n).cores = s.cores := by
  unfold State.readDone
  split
  · rfl
  · exact State.foldl_keeps _ (·.cores) (fun s i => by split <;> simp) _ s

end ReadDone

theorem State.deviceDone_ctx? {s : State} {c k : Context} {ck : Nat} (hctx : s.ctx? ck = some k) (hstate : k.state ≠ .none) (hkey : c.key = ck)
    (die va n : Nat) : ∃ k', (s.deviceDone c die va n).ctx? ck = some k' ∧ k'.imageOf = k.imageOf := by
  have hfind : (s.fillDieTlb c die va).ctx? ck = some k := by
    rw [State.ctx?_congr (State.fillDieTlb_ctx ..) (State.fillDieTlb_ctxs ..), hctx]
  subst hkey
  exact ⟨_, State.ctx?_modCtx hfind rfl hstate, rfl⟩

theorem State.deviceFault_ctx? {s : State} {k : Context} {ck : Nat} (hctx : s.ctx? ck = some k) (hstate : k.state ≠ .none) (va cause : Nat)
    (acc : Access) : ∃ k', (s.deviceFault ck va cause acc).ctx? ck = some k' ∧ k'.imageOf = k.imageOf := by
  rw [State.deviceFault, hctx]
  dsimp only
  split
  · exact ⟨k, hctx, rfl⟩
  · exact ⟨_, State.ctx?_modCtx hctx rfl hstate, rfl⟩

/-- The reading of RIGTAB keeps what an image has given its context. -/
theorem State.takeRig_ctx? {s : State} {k : Context} {ck : Nat} (hctx : s.ctx? ck = some k) (hstate : k.state ≠ .none) :
    ∃ k', (s.takeRig ck).ctx? ck = some k' ∧ k'.imageOf = k.imageOf := by
  have hkey := State.ctx?_key hctx
  rw [State.takeRig, hctx]
  dsimp only
  split
  · exact ⟨k, hctx, rfl⟩
  next base _ =>
    cases hread : s.readRig k base with
    | error x => exact State.deviceFault_ctx? hctx hstate _ _ _
    | ok x =>
      obtain ⟨c', n⟩ := x
      have himage := State.readRig_imageOf hread
      have hstate' : c'.state ≠ .none := fun h => hstate ((congrArg (·.2.1) himage).symm.trans h)
      have hfind : (s.readDone k base n).ctx? ck = some k := by
        rw [State.ctx?_congr (State.readDone_ctx ..) (State.readDone_ctxs ..), hctx]
      have hput := State.ctx?_modCtx (f := fun _ => c') hfind (congrArg (·.1) himage) hstate'
      obtain ⟨k', hk', himage'⟩ := State.deviceDone_ctx? hput hstate' hkey 0 base n
      exact ⟨k', hk', himage'.trans himage⟩

theorem State.takeRig_cores (s : State) (ck : Nat) : (s.takeRig ck).cores = s.cores := by
  unfold State.takeRig
  split
  · rfl
  · split
    · rfl
    · split
      · simp [State.deviceDone, State.readDone_cores]
      · unfold State.deviceFault
        split
        · rfl
        · split
          · rfl
          · simp

theorem State.hostByte_ctx (s : State) (l : Loc) (v : Byte) : (s.hostByte l v).ctx = s.ctx := by
  unfold State.hostByte
  split <;> simp

theorem State.hostByte_ctxs (s : State) (l : Loc) (v : Byte) : (s.hostByte l v).ctxs = s.ctxs := by
  unfold State.hostByte
  split <;> simp

theorem State.loadBytes_ctx (s : State) (c : Context) (va : Nat) (bytes : List Byte) : (s.loadBytes c va bytes).ctx = s.ctx :=
  State.foldl_keeps _ (·.ctx) (fun s x => by split <;> simp [State.hostByte_ctx]) _ s

theorem State.loadBytes_ctxs (s : State) (c : Context) (va : Nat) (bytes : List Byte) : (s.loadBytes c va bytes).ctxs = s.ctxs :=
  State.foldl_keeps _ (·.ctxs) (fun s x => by split <;> simp [State.hostByte_ctxs]) _ s

/-- The state in which an image's sections, relocated, and its RIGTAB lie at their bases. -/
def imageLoaded (s : State) (c : Context) (image : List Byte) (bases : List Nat) : State :=
  let secs := (List.range (fieldAt image 84 4)).foldl
    (fun secs i => relocate bases secs ((image.drop (fieldAt image 80 4 + 16 * i)).take 16)) ((List.range 3).map (imageSection image))
  ((List.range 3).foldl (fun s k => s.loadBytes c (bases.getD k 0) (secs.getD k [])) s).loadBytes c (bases.getD 3 0)
    (imageRig image (bases.getD 0 0) (bases.getD 4 0))

/-- The context as the load of an image leaves it, its RIGTAB still to be read. -/
def Context.withImage (c : Context) (image : List Byte) (bases : List Nat) (csets : List (List Nat)) : Context :=
  let nodes := (List.range (fieldAt image 6 2)).map (imageNode image (bases.getD 0 0))
  let sets := (List.range nodes.length).map (nodeCores c csets)
  { c with
    loaded := true, nodes := nodes, regs := c.regs.set 7 (BitVec.ofNat 64 (bases.getD 3 0)), quietNode := fieldAt image 88 2
    bins := nodes.map (fun _ => []), coreSets := sets, served := sets, timers := nodes.map (fun _ => 0), rigTodo := some (bases.getD 3 0) }

/-- No L1 keeps a sector. -/
def State.emptyL1s (s : State) : State := { s with cores := s.cores.map (fun e => (e.1, { e.2 with l1 := [] })) }

theorem State.emptyL1s_ctx? (s : State) (k : Nat) : s.emptyL1s.ctx? k = s.ctx? k := rfl

theorem imageLoaded_ctx? (s : State) (c : Context) (image : List Byte) (bases : List Nat) (k : Nat) :
    (imageLoaded s c image bases).ctx? k = s.ctx? k := by
  refine State.ctx?_congr ?_ ?_ k
  · rw [imageLoaded, State.loadBytes_ctx, State.foldl_keeps _ (·.ctx) (fun s k => State.loadBytes_ctx ..)]
  · rw [imageLoaded, State.loadBytes_ctxs, State.foldl_keeps _ (·.ctxs) (fun s k => State.loadBytes_ctxs ..)]

theorem exec_rigImageLoad_of_ok {s : State} {ctx : Nat} {image : List Byte} {bases : List Nat} {csets : List (List Nat)} {c : Context}
    {nodes : List Node} (hctx : s.ctx? ctx = some c) (hnodes : nodes = (List.range (fieldAt image 6 2)).map (imageNode image (bases.getD 0 0)))
    (hloaded : c.loaded = false) (hstate : c.state = .running) (himage : imageOk image = true) (hbases : basesOk image bases = true)
    (hok : nodes.all Node.ok = true) (hcores : ∀ n < nodes.length, nodeCores c csets n ≠ []) :
    exec (.rigImageLoad ctx image bases csets) s =
      .next ((((imageLoaded s c image bases).modCtx ctx (fun _ => c.withImage image bases csets)).emptyL1s).takeRig ctx) := by
  have hsets : ((List.range nodes.length).map (nodeCores c csets)).any (fun ks => ks.isEmpty) = false := by
    rw [List.any_eq_false]
    intro ks hks
    obtain ⟨n, hn, rfl⟩ := List.mem_map.mp hks
    simpa using hcores n (List.mem_range.mp hn)
  have hgo : ¬(c.loaded = true ∨ c.state ≠ .running ∨ imageOk image = false ∨ basesOk image bases = false ∨ nodes.all Node.ok = false
      ∨ ((List.range nodes.length).map (nodeCores c csets)).any (fun ks => ks.isEmpty) = true) := by
    simp [hloaded, hstate, himage, hbases, hok, hsets]
  subst hnodes
  rw [exec, execRigImageLoad]
  simp only [hctx]
  exact if_neg hgo

/-- What a context has after the load of an image, wherever the reading of its RIGTAB ends. -/
theorem ctx?_of_rigImageLoad {s : State} {ctx : Nat} (image : List Byte) (bases : List Nat) (csets : List (List Nat)) {c : Context}
    (hctx : s.ctx? ctx = some c) (hstate : c.state = .running) :
    ∃ k, ((((imageLoaded s c image bases).modCtx ctx (fun _ => c.withImage image bases csets)).emptyL1s).takeRig ctx).ctx? ctx = some k
      ∧ k.imageOf = (c.withImage image bases csets).imageOf := by
  have hfind : (imageLoaded s c image bases).ctx? ctx = some c := (imageLoaded_ctx? ..).trans hctx
  have hstate' : (c.withImage image bases csets).state = c.state := rfl
  have hkey : (c.withImage image bases csets).key = c.key := rfl
  have hrunning : (c.withImage image bases csets).state ≠ .none := by rw [hstate', hstate]; decide
  generalize imageLoaded s c image bases = s1 at hfind ⊢
  generalize c.withImage image bases csets = c1 at hkey hrunning ⊢
  exact State.takeRig_ctx? ((State.emptyL1s_ctx? ..).trans (State.ctx?_modCtx (f := fun _ => c1) hfind hkey hrunning)) hrunning

/-! ## Weight stores -/

/-- The bytes of a host's write to the weight stores, from the byte `n` of the write on. -/
def weightWrites (off n : Nat) (bytes : List Byte) (s : State) : State :=
  (bytes.zipIdx n).foldl (fun s x => s.hostByte ⟨off + x.2, false, true⟩ x.1) s

theorem weightWrites_mem (off n : Nat) (bytes : List Byte) (s : State) : (weightWrites off n bytes s).mem = s.mem :=
  State.foldl_keeps (fun s (x : Byte × Nat) => s.hostByte ⟨off + x.2, false, true⟩ x.1) (·.mem) (fun _ _ => rfl) _ s

theorem weightWrites_of_before {off p : Nat} (bytes : List Byte) (n : Nat) (s : State) (hend : off + n + bytes.length ≤ 2 ^ 29)
    (hp : p < off + n ∨ (2 ^ 29 ≤ p ∧ p < 2 ^ 29 + (off + n))) : (weightWrites off n bytes s).weights.get p = s.weights.get p := by
  induction bytes generalizing n s with
  | nil => rfl
  | cons b bytes ih =>
    rw [List.length_cons] at hend
    have hrest : weightWrites off n (b :: bytes) s = weightWrites off (n + 1) bytes (s.hostByte ⟨off + n, false, true⟩ b) := rfl
    rw [hrest, ih (n + 1) _ (by omega) (by omega), State.hostByte, if_pos rfl]
    dsimp only
    rw [FMap.get_set_ne _ _ (by omega), FMap.get_set_ne _ _ (by omega)]

theorem weightWrites_get {off k : Nat} {v : Byte} (bytes : List Byte) (n : Nat) (s : State) (hend : off + n + bytes.length ≤ 2 ^ 29)
    (hk : bytes[k]? = some v) :
    (weightWrites off n bytes s).weights.get (off + n + k) = v ∧ (weightWrites off n bytes s).weights.get (2 ^ 29 + (off + n + k)) = v := by
  induction bytes generalizing n s k with
  | nil => cases hk
  | cons b bytes ih =>
    rw [List.length_cons] at hend
    have hrest : weightWrites off n (b :: bytes) s = weightWrites off (n + 1) bytes (s.hostByte ⟨off + n, false, true⟩ b) := rfl
    cases k with
    | zero =>
      obtain rfl : b = v := by simpa using hk
      rw [hrest, weightWrites_of_before bytes (n + 1) _ (by omega) (by omega), weightWrites_of_before bytes (n + 1) _ (by omega) (by omega),
        State.hostByte, if_pos rfl]
      dsimp only
      rw [FMap.get_set_ne _ _ (by omega)]
      exact ⟨FMap.get_set_self .., FMap.get_set_self ..⟩
    | succ k =>
      have h := ih (n + 1) (s.hostByte ⟨off + n, false, true⟩ b) (by omega) (by simpa using hk)
      rw [show off + (n + 1) + k = off + n + (k + 1) by omega] at h
      exact hrest ▸ h

theorem exec_weightStoreWrite_of_idle {s : State} {ctx off : Nat} {bytes : List Byte} {c : Context} (hctx : s.ctx? ctx = some c)
    (hidle : s.anyBusy c = false) (hend : off + bytes.length ≤ 2 ^ 29) :
    exec (.weightStoreWrite ctx off bytes) s = .next (weightWrites off 0 bytes s) := by
  rw [exec, execWeightStoreWrite]
  simp only [hctx, hidle, Bool.false_eq_true, if_false, if_neg (Nat.not_lt.mpr hend)]
  rfl

/-! ## Pre-emption -/

section Named

variable {s : State} {ctx : Nat} {c : Context} (hctx : s.ctx? ctx = some c)
include hctx

theorem exec_preemptionRequest_of_accepted (hstate : c.state = .running) (hasked : c.preemptAsked = false) : exec (.preemptionRequest ctx) s =
    .next ((s.modCtx ctx (fun x => { x with preemptAsked := true, haltClock := s.dev.clock })).ungateCtx ctx) := by
  rw [exec, execPreemptionRequest]
  simp only [hctx, if_pos (And.intro hstate hasked)]

theorem exec_preemptionRequest_of_refused (hnot : c.state ≠ .running ∨ c.preemptAsked = true) : exec (.preemptionRequest ctx) s =
    .next { s with dev := s.dev.report (fun q => { q with preemptRefused := q.preemptRefused + 1 }) } := by
  have hgo : ¬(c.state = .running ∧ c.preemptAsked = false) := by
    rintro ⟨hstate, hasked⟩
    rcases hnot with h | h
    · exact h hstate
    · rw [hasked] at h; cases h
  rw [exec, execPreemptionRequest]
  simp only [hctx, if_neg hgo]

theorem exec_preemptionHalt_of_asked (hstate : c.state = .running) (hasked : c.preemptAsked = true) {s1 s2 s3 : State}
    (hs1 : s1 = ((s.allCrews.filter (fun w => w.ctx == ctx)).map (fun w => w.key)).foldl (fun x k => (x.canvasStep k).canvasStep k) s)
    (hs2 : s2 = (s1.ops.filter (fun o => o.ctx == ctx && !o.done)).foldl State.haltMma s1)
    (hs3 : s3 = (s2.allTeams.filter (fun t => t.ctx == ctx)).foldl State.stopDrop s2) :
    exec (.preemptionHalt ctx) s = .next (s3.modCtx ctx (fun x => { x with state := .halted, preemptAsked := false })) := by
  have hgo : ¬(c.state ≠ .running ∨ c.preemptAsked = false) := by simp [hstate, hasked]
  subst hs3 hs2 hs1
  rw [exec, execPreemptionHalt]
  simp only [hctx]
  exact if_neg hgo

/-! ## Save, restore and destruction -/

theorem exec_contextSave_of_unsettled (hstate : c.state = .halted) (hsettled : s.unsettled ctx = true) :
    exec (.contextSave ctx) s = .next (s.modCtx ctx (fun x => { x with request := some .save })) := by
  have hgo : ¬c.state ≠ .halted := by simp [hstate]
  rw [exec, execContextSave]
  simp only [hctx, if_neg hgo, if_pos hsettled]

theorem exec_contextSave_of_settled (hstate : c.state = .halted) (hsettled : s.unsettled ctx = false) {s1 s2 : State}
    (hs1 : s1 = ((((s.allCrews.filter (fun w => w.ctx == ctx)).flatMap Crew.cores).eraseDups).foldl State.drainAll
      (s.endEmptyCopies ctx)).performSc)
    (hs2 : s2 = (s1.mapTeams ctx (fun t => t.saved c.genClosed)).openRange c.saveArea (Config.freeId s.tick)) :
    exec (.contextSave ctx) s = .next (({ s2 with ops := s2.ops.map (fun o => if o.ctx = ctx then o.restartTile else o) } : State).modCtx ctx
      (fun x => { x with state := .saved, request := none })) := by
  have hgo : ¬c.state ≠ .halted := by simp [hstate]
  subst hs2 hs1
  rw [exec, execContextSave]
  simp only [hctx, if_neg hgo, hsettled, Bool.false_eq_true, if_false]

theorem exec_contextRestore_of_placed (hstate : c.state = .saved) {s0 s1 s2 s3 : State} (hs0 : s0 = s.stash)
    (hs1 : s1 = { s0 with crews := s0.crews.filter (fun w => w.ctx != ctx), teams := s0.teams.filter (fun t => t.ctx != ctx) })
    (hs2 : s2 = s1.modCtx ctx
      (fun x => { x.restoreReleases s.dev.dtime with state := .running, oldRegs := [], preemptAsked := false, request := none }))
    (hplace : s2.placeCrews c (fun k => s0.teams.filter (fun t => t.crew == k)) (s0.crews.filter (fun w => w.ctx == ctx)) = some s3) :
    exec (.contextRestore ctx) s = .next ((((s0.teams.filter (fun t => t.ctx == ctx)).map (fun t => t.key)).foldl State.reexamine
      (((((s0.teams.filter (fun t => t.ctx == ctx)).filter (fun t => t.state == .running)).map (fun t => t.key)).foldl
        State.enterAgain s3).issueFollows ctx)).retryPushes ctx) := by
  have hgo : ¬c.state ≠ .saved := by simp [hstate]
  subst hs2 hs1 hs0
  rw [exec, execContextRestore]
  simp only [hctx, if_neg hgo, hplace]

theorem exec_contextRestore_of_unplaced (hstate : c.state = .saved) {s0 s1 s2 : State} (hs0 : s0 = s.stash)
    (hs1 : s1 = { s0 with crews := s0.crews.filter (fun w => w.ctx != ctx), teams := s0.teams.filter (fun t => t.ctx != ctx) })
    (hs2 : s2 = s1.modCtx ctx
      (fun x => { x.restoreReleases s.dev.dtime with state := .running, oldRegs := [], preemptAsked := false, request := none }))
    (hplace : s2.placeCrews c (fun k => s0.teams.filter (fun t => t.crew == k)) (s0.crews.filter (fun w => w.ctx == ctx)) = none) :
    exec (.contextRestore ctx) s = .next (s.modCtx ctx (fun x => { x with request := some .restore })) := by
  have hgo : ¬c.state ≠ .saved := by simp [hstate]
  subst hs2 hs1 hs0
  rw [exec, execContextRestore]
  simp only [hctx, if_neg hgo, hplace]

theorem exec_contextDestroy_of_delivered (hstate : c.state = .terminated) (hrecord : c.termRecord = none) :
    exec (.contextDestroy ctx) s = .next (s.removeCtx c) := by
  rw [exec, execContextDestroy]
  simp only [hctx, if_pos (And.intro hstate hrecord)]

theorem exec_contextDestroy_of_not (hnot : c.state ≠ .terminated ∨ c.termRecord ≠ none) : exec (.contextDestroy ctx) s =
    .next ((s.terminate ctx 0x27 (recordHeader 0x27 1 ctx 0 0 0 s.dev.dtime 0 0 0)).modCtx ctx (fun x => { x with request := some .destroy })) := by
  have hgo : ¬(c.state = .terminated ∧ c.termRecord = none) := fun ⟨hstate, hrecord⟩ => hnot.elim (· hstate) (· hrecord)
  rw [exec, execContextDestroy]
  simp only [hctx, if_neg hgo]

end Named

/-- Settles O58, event by event. -/
theorem contextsComeAndGo : Obligations.ContextsComeAndGo := by
  unfold Obligations.ContextsComeAndGo
  intro s ctx
  refine ⟨?create, ?image, ?weights, rfl, ?named, rfl⟩
  case create =>
    intro desc cregs cores
    refine ⟨fun hstage hnew hok => ⟨_, exec_contextCreate_of_ok hstage hnew hok, rfl, rfl, rfl, ?_, ?_⟩, exec_contextCreate_of_not⟩
    · intro k hlo hhi
      have hcleared : (0 * 4096 + (s.grant 0).1 ≤ k ∧ k < 0 * 4096 + (s.grant 0).1 + (s.grant 0).2) := by omega
      dsimp only
      rw [FMap.get_clear, FMap.get_clear, if_pos hcleared, ite_self]
    · intro k hlo hhi
      have hcleared : (1 * 4096 + (s.grant 1).1 ≤ 4096 + k ∧ 4096 + k < 1 * 4096 + (s.grant 1).1 + (s.grant 1).2) := by omega
      dsimp only
      rw [FMap.get_clear, if_pos hcleared]
  case image =>
    intro image bases csets c nodes hctx hnodes hloaded hstate himage hbases hok hcores
    obtain ⟨k, hk, himageOf⟩ := ctx?_of_rigImageLoad image bases csets hctx hstate
    rw [Context.imageOf, Context.imageOf, Prod.mk.injEq, Prod.mk.injEq, Prod.mk.injEq, Prod.mk.injEq, Prod.mk.injEq, Prod.mk.injEq] at himageOf
    obtain ⟨-, -, hloaded', hnodes', hbins', hregs', hsets'⟩ := himageOf
    subst hnodes
    refine ⟨_, k, exec_rigImageLoad_of_ok hctx rfl hloaded hstate himage hbases hok hcores, hk, hloaded', hnodes', hbins', hregs', hsets', ?_⟩
    intro e he
    rw [State.takeRig_cores] at he
    obtain ⟨x, -, rfl⟩ := List.mem_map.mp he
    rfl
  case weights =>
    intro off bytes c hctx
    refine ⟨fun hidle hend => ⟨_, exec_weightStoreWrite_of_idle hctx hidle hend, weightWrites_mem .., fun k v hk => ?_⟩, fun hbusy => ?_⟩
    · exact weightWrites_get bytes 0 s hend hk
    · rw [exec, execWeightStoreWrite]
      simp only [hctx, hbusy, if_true]
  case named =>
    intro c hctx
    refine ⟨exec_preemptionRequest_of_accepted hctx,
      fun hnot => ⟨_, exec_preemptionRequest_of_refused hctx hnot, rfl, rfl, rfl, rfl⟩,
      fun hstate hasked s1 s2 s3 => exec_preemptionHalt_of_asked hctx hstate hasked, exec_contextSave_of_unsettled hctx,
      fun hstate hsettled s1 hs1 s2 hs2 => ⟨exec_contextSave_of_settled hctx hstate hsettled hs1 hs2, ?_⟩,
      fun hstate s0 s1 s2 hs0 hs1 hs2 => ⟨fun s3 => exec_contextRestore_of_placed hctx hstate hs0 hs1 hs2,
        exec_contextRestore_of_unplaced hctx hstate hs0 hs1 hs2⟩,
      exec_contextDestroy_of_delivered hctx, exec_contextDestroy_of_not hctx⟩
    intro o todo nets regs x hwork
    simp only [AsyncOp.restartTile, hwork]

end Sys2Proof.Machine
end

section
/-! Windows, routes, links, injection, attestation, power and the package reset (R370 to R373, R394 to R401). -/

namespace Sys2Proof.Machine

/-! ## Registers of the device -/

section Device

variable {s : State}

theorem exec_windowRegister_of_ok {ctx win dev base size : Nat} {put get : Bool} (hwin : win < 64) (hdev : dev < 2 ^ 22)
    (hsize : size % 65536 = 0) (hmax : size ≤ 2 ^ 40) : exec (.windowRegister ctx win dev base size put get) s =
      .next (s.modCtx ctx (fun c => { c with windows := ⟨win, dev, base, size, put, get⟩ :: c.windows.filter (fun w => w.id != win) })) := by
  rw [exec, execWindowRegister, if_pos ⟨hwin, hdev, hsize, hmax⟩]

theorem exec_windowRegister_of_not {ctx win dev base size : Nat} {put get : Bool}
    (hnot : 64 ≤ win ∨ 2 ^ 22 ≤ dev ∨ size % 65536 ≠ 0 ∨ 2 ^ 40 < size) :
    exec (.windowRegister ctx win dev base size put get) s = .next s := by
  rw [exec, execWindowRegister, if_neg (by omega)]

theorem exec_routeTableWrite_of_ok {dev port : Nat} {direct : Bool} (hdev : dev < 2 ^ 22) (hport : port ∈ s.dev.linksPresent) :
    exec (.routeTableWrite dev port direct) s =
      .next { s with dev := { s.dev with routes := (dev, port, direct) :: s.dev.routes.filter (fun r => r.1 != dev) } } := by
  rw [exec, execRouteTableWrite, if_pos ⟨hdev, hport⟩]

theorem exec_forwardedFlit_of_route {port dest out : Nat} {flit : List Byte} (hdest : dest ≠ s.dev.devid.toNat)
    (hroute : s.dev.portTo dest = some out) : exec (.forwardedFlit port dest flit) s =
      .next { s with dev := s.dev.report (fun r => { r with flits := r.flits ++ [(out, flit)] }) } := by
  rw [exec, execForwardedFlit, hroute]
  exact if_neg hdest

theorem exec_forwardedFlit_of_none {port dest : Nat} {flit : List Byte} (hroute : s.dev.portTo dest = none) :
    exec (.forwardedFlit port dest flit) s = .next s := by
  rw [exec, execForwardedFlit, hroute]

theorem exec_injectionArm_of_ok {col : Nat} (hroom : s.dev.injections.length < 16) (hnew : col ∉ s.dev.injections)
    (hmem : s.dev.inMemory (32 * col) = true) :
    exec (.injectionArm col) s = .next { s with dev := { s.dev with injections := s.dev.injections ++ [col] } } := by
  rw [exec, execInjectionArm, if_pos ⟨hroom, hnew, hmem⟩]

theorem exec_injectionArm_of_not {col : Nat}
    (hnot : 16 ≤ s.dev.injections.length ∨ col ∈ s.dev.injections ∨ s.dev.inMemory (32 * col) = false) :
    exec (.injectionArm col) s = .next s := by
  rw [exec, execInjectionArm, if_neg]
  rintro ⟨hroom, hnew, hmem⟩
  rcases hnot with h | h | h
  · omega
  · exact hnew h
  · rw [hmem] at h; cases h

theorem exec_attestationReport_of_length {nonce : List Byte} (h : nonce.length = 64) : exec (.attestationReport nonce) s =
    .next { s with dev := s.dev.report (fun q => { q with attestations := q.attestations ++ [s.attest nonce] }) } := by
  rw [exec, execAttestationReport, if_pos h]

theorem exec_attestationReport_of_not {nonce : List Byte} (h : nonce.length ≠ 64) : exec (.attestationReport nonce) s = .next s := by
  rw [exec, execAttestationReport, if_neg h]

theorem exec_powerCapSet_of_ok {watts : Nat} (hlo : 600 ≤ watts) (hhi : watts ≤ 2400) :
    exec (.powerCapSet watts) s = .next { s with dev := { s.dev with cap := watts } } := by
  rw [exec, execPowerCapSet, if_pos ⟨hlo, hhi⟩]

theorem exec_powerCapSet_of_not {watts : Nat} (h : watts < 600 ∨ 2400 < watts) : exec (.powerCapSet watts) s = .next s := by
  rw [exec, execPowerCapSet, if_neg (by omega)]

theorem exec_powerArbiterTick_of_due {draw : Nat} (h : s.dev.lastPower + 1000 ≤ s.dev.dtime) : exec (.powerArbiterTick draw) s =
    .next { s with dev := { s.dev with withheld := decide (s.dev.cap < draw), lastPower := s.dev.lastPower + 1000 } } := by
  rw [exec, execPowerArbiterTick, if_neg (Nat.not_lt.mpr h)]

theorem exec_powerArbiterTick_of_early {draw : Nat} (h : s.dev.dtime < s.dev.lastPower + 1000) :
    exec (.powerArbiterTick draw) s = .next s := by
  rw [exec, execPowerArbiterTick, if_pos h]

end Device

/-! ## Boot -/

section Boot

variable {s : State} {codes : List Nat}

theorem verifyCode_eq_zero {c : Nat} : verifyCode c = 0 ↔ c = 0 := by
  unfold verifyCode
  split <;> omega

theorem trainCode_eq_zero {c : Nat} : trainCode c = 0 ↔ c = 0 := by
  unfold trainCode
  split <;> omega

/-- The image of a step verifies from one source when one of its codes is zero. -/
theorem State.bootImage_of_verified {step : Nat} (source : Bool) (h : codes.getD (2 * step) 0 = 0 ∨ codes.getD (2 * step + 1) 0 = 0) :
    ∃ src, s.bootImage step source codes = .ok src := by
  rw [State.bootImage]
  dsimp only
  simp only [verifyCode_eq_zero]
  cases source
  · by_cases hfirst : codes.getD (2 * step) 0 = 0
    · exact ⟨_, if_pos hfirst⟩
    · exact ⟨_, (if_neg hfirst).trans (if_pos (h.resolve_left hfirst))⟩
  · by_cases hsecond : codes.getD (2 * step + 1) 0 = 0
    · exact ⟨_, if_pos hsecond⟩
    · exact ⟨_, (if_neg hsecond).trans (if_pos (h.resolve_right hsecond))⟩

/-- Where both sources fail, the step stops with the code of one of them. -/
theorem State.bootImage_of_failed {step : Nat} (source : Bool) (hfirst : codes.getD (2 * step) 0 ≠ 0)
    (hsecond : codes.getD (2 * step + 1) 0 ≠ 0) :
    ∃ c, s.bootImage step source codes = .error c
      ∧ (c = verifyCode (codes.getD (2 * step) 0) ∨ c = verifyCode (codes.getD (2 * step + 1) 0)) := by
  rw [State.bootImage]
  dsimp only
  simp only [verifyCode_eq_zero]
  cases source
  · refine ⟨_, (if_neg hfirst).trans (if_neg hsecond), ?_⟩
    split
    · exact .inl rfl
    · exact .inr rfl
  · refine ⟨_, (if_neg hsecond).trans (if_neg hfirst), ?_⟩
    split
    · exact .inr rfl
    · exact .inl rfl

theorem State.bootStatus_of_firstStage (bootsel : Bool) (h0 : codes.getD 0 0 ≠ 0) (h1 : codes.getD 1 0 ≠ 0) :
    ∃ c, s.bootStatus bootsel codes = (15, c) ∧ (c = verifyCode (codes.getD 0 0) ∨ c = verifyCode (codes.getD 1 0)) := by
  obtain ⟨c, hboot, hcode⟩ := State.bootImage_of_failed (s := s) (step := 0) bootsel h0 h1
  exact ⟨c, by rw [State.bootStatus, hboot], hcode⟩

section FirstStage

variable (h01 : codes.getD 0 0 = 0 ∨ codes.getD 1 0 = 0)
include h01

theorem State.bootStatus_of_kernel (bootsel : Bool) (h2 : codes.getD 2 0 ≠ 0) (h3 : codes.getD 3 0 ≠ 0) :
    ∃ c, s.bootStatus bootsel codes = (15, c) ∧ (c = verifyCode (codes.getD 2 0) ∨ c = verifyCode (codes.getD 3 0)) := by
  obtain ⟨src, hfirst⟩ := State.bootImage_of_verified (s := s) (step := 0) bootsel h01
  obtain ⟨c, hboot, hcode⟩ := State.bootImage_of_failed (s := s) (step := 1) src h2 h3
  exact ⟨c, by rw [State.bootStatus, hfirst]; dsimp only; rw [hboot], hcode⟩

theorem State.bootStatus_of_verified (bootsel : Bool) (h23 : codes.getD 2 0 = 0 ∨ codes.getD 3 0 = 0) :
    s.bootStatus bootsel codes = if trainCode (codes.getD 4 0) = 0 then (7, 0) else (15, trainCode (codes.getD 4 0)) := by
  obtain ⟨src, hfirst⟩ := State.bootImage_of_verified (s := s) (step := 0) bootsel h01
  obtain ⟨src', hkernel⟩ := State.bootImage_of_verified (s := s) (step := 1) src h23
  rw [State.bootStatus, hfirst]
  dsimp only
  rw [hkernel]

end FirstStage

/-- The state after a package reset, by its boot status. -/
def State.afterReset (s : State) (boot : Nat × Nat) (devid : Nat) (found : BootFinds) : State :=
  let have' := fun (n : Nat) (gone : List Nat) => (List.range n).filter (fun i => !gone.contains i)
  let channels := have' 256 found.noChannels
  { State.reset with
    tick := s.tick, inbox := s.inbox, nextKey := s.nextKey
    dev := { Device.initial with
      devid := BitVec.ofNat 22 devid, stage := boot.1, code := boot.2, booted := s.tick, coresPresent := have' 256 found.noCores
      channels := channels
      linksPresent := have' 24 found.noLinks, bankUnits := (have' 512 found.noBanks).filter (fun u => channels.contains (u / 2))
      reports := s.dev.reports
      time := { TimeState.initial with
        domain := found.domain % 256, boundary := found.boundary, phasePps := found.phasePps, port := found.port } } }

theorem exec_packageReset (bootsel : Bool) (devid : Nat) (boot : BootFinds) :
    exec (.packageReset bootsel codes devid boot) s = .next (s.afterReset (s.bootStatus bootsel codes) devid boot) := rfl

end Boot

/-- Settles O59, event by event. -/
theorem linksPowerAndBoot : Obligations.LinksPowerAndBoot := by
  unfold Obligations.LinksPowerAndBoot
  intro s
  refine ⟨fun ctx win dev base size put get => ⟨exec_windowRegister_of_ok, exec_windowRegister_of_not⟩, fun ctx win => rfl,
    fun dev port direct => exec_routeTableWrite_of_ok, fun port => ⟨⟨_, rfl, ?routes, rfl⟩, rfl, rfl⟩, ?flit,
    fun col => ⟨exec_injectionArm_of_ok, exec_injectionArm_of_not⟩,
    fun nonce => ⟨fun h => ⟨_, _, exec_attestationReport_of_length h, rfl, rfl, rfl, rfl, rfl⟩, exec_attestationReport_of_not⟩,
    fun watts => ⟨exec_powerCapSet_of_ok, exec_powerCapSet_of_not⟩,
    fun draw => ⟨exec_powerArbiterTick_of_due, exec_powerArbiterTick_of_early⟩, rfl, ?boot⟩
  case routes =>
    intro r hr
    simpa using (List.mem_filter.mp hr).2
  case flit =>
    intro port dest flit hdest
    exact ⟨fun out hroute => ⟨_, exec_forwardedFlit_of_route hdest hroute, rfl, rfl, rfl⟩, exec_forwardedFlit_of_none⟩
  case boot =>
    intro bootsel codes devid boot
    refine ⟨?_, ?_, ?_, ?_⟩
    · intro h01 h23 h4
      have hstatus : s.bootStatus bootsel codes = (7, 0) := by
        rw [State.bootStatus_of_verified h01 bootsel h23, if_pos (trainCode_eq_zero.mpr h4)]
      rw [exec_packageReset, hstatus]
      exact ⟨_, rfl, rfl, rfl, rfl, rfl, rfl, rfl, rfl, rfl, rfl, rfl, rfl, rfl, rfl, rfl⟩
    · intro h0 h1
      obtain ⟨c, hstatus, hcode⟩ := State.bootStatus_of_firstStage (s := s) bootsel h0 h1
      rw [exec_packageReset, hstatus]
      exact ⟨_, rfl, rfl, hcode⟩
    · intro h01 h2 h3
      obtain ⟨c, hstatus, hcode⟩ := State.bootStatus_of_kernel (s := s) h01 bootsel h2 h3
      rw [exec_packageReset, hstatus]
      exact ⟨_, rfl, rfl, hcode⟩
    · intro h01 h23 h4
      have hstatus : s.bootStatus bootsel codes = (15, trainCode (codes.getD 4 0)) := by
        rw [State.bootStatus_of_verified h01 bootsel h23, if_neg (fun h => h4 (trainCode_eq_zero.mp h))]
      rw [exec_packageReset, hstatus]
      exact ⟨_, rfl, rfl, rfl⟩

end Sys2Proof.Machine
end

section
/-! PUT, GET, PSIG and the rings (R280, R281, R345 to R347, R371, R374). -/

namespace Sys2Proof.Machine

/-! ## Issue -/

theorem State.remoteFault_of_ok {s : State} {i : Instr} {kind va off n win dev flag : Nat} (h : Claims.RemoteOk s.ctx kind va off n win dev flag) :
    s.remoteFault i va off n win dev (if kind = 2 then some flag else none) = none := by
  obtain ⟨hva, hoff, hn, hmax, w, hwindow, hdev, hsize, hflag⟩ := h
  have haligned : misaligned16 [va, off, n] = none := misaligned16_eq_none fun v hv => by
    simp only [List.mem_cons, List.not_mem_nil, or_false] at hv
    rcases hv with rfl | rfl | rfl <;> assumption
  simp only [State.remoteFault, haligned, if_neg (Nat.not_lt.mpr hmax), hwindow]
  by_cases hkind : kind = 2
  · obtain ⟨hfour, hfit⟩ := hflag hkind
    simp only [hkind, if_true, Option.bind_some, hfour, Option.map_some, Option.getD_some]
    exact if_neg (by omega)
  · simp only [hkind, if_false, Option.bind_none, Option.map_none, Option.getD_none]
    exact if_neg (by omega)

theorem State.remoteBound_of_plain (s : State) {kind dev n : Nat} {tc : Bool} (units : List Loc) (h : tc = false ∨ kind = 1) :
    s.remoteBound kind tc dev n units = none := by
  unfold State.remoteBound
  split
  · rfl
  · rw [if_neg]
    rcases h with rfl | rfl <;> simp

theorem State.remoteBound_of_frame {s : State} {kind dev n port : Nat} {tc : Bool} {units : List Loc} (hport : s.dev.directPort dev = some port)
    (htc : tc = true) (hkind : kind ≠ 1) (hlen : kind = 2 ∨ n ≤ 1048576) (hunits : ∀ l ∈ units, l.ws = false) :
    s.remoteBound kind tc dev n units =
      some (s.dev.clock + (if kind = 2 then 3000 else 2400) + (n + (s.ops.map (s.unsentOn port)).sum) / 14) := by
  have hgo : (tc && kind != 1 && (kind == 2 || decide (n ≤ 1048576)) && units.all (fun l => !l.ws)) = true := by
    have hall : units.all (fun l => !l.ws) = true := List.all_eq_true.mpr fun l hl => by rw [hunits l hl]; rfl
    rw [htc, hall]
    simpa [hkind] using hlen
  simp only [State.remoteBound, hport]
  exact if_pos hgo

section Issue

variable {s : State} {b tc ord : Bool} {d a c win : BitVec 6} {dev : BitVec 22} {i : Instr} {kind : Nat}
  (hi : (i, kind) ∈ Claims.remoteForms b d a c win tc ord dev)
include hi

theorem exec_remoteForms : exec i s = remoteCopy i kind b d a c win tc ord dev s := by
  simp only [Claims.remoteForms, List.mem_cons, List.not_mem_nil, or_false, Prod.mk.injEq] at hi
  rcases hi with ⟨rfl, rfl⟩ | ⟨rfl, rfl⟩ | ⟨rfl, rfl⟩ <;> rfl

theorem exec_remoteForms_of_empty {u : Team} (hu : u = s.team.belay b) (hactive : u.active = []) :
    exec i s = .next (s.withTeam (u.advance 2)) := by
  rw [exec_remoteForms hi, remoteCopy, ← hu, engineForm_of_empty hactive]

theorem exec_remoteForms_of_ok {u : Team} {r r0 r1 : State} {va off n flag : Nat} {units : List Nat} {locs : List Loc} (hu : u = s.team.belay b)
    (hr : r = s.withTeam u) (hactive : u.active ≠ []) (hva : va = (u.srd64 d.toNat).toNat) (hoff : off = (u.srd64 a.toNat).toNat)
    (hn : n = (u.srd c.toNat).toNat) (hflag : flag = if kind = 2 then (u.srd (c.toNat + 1)).toNat else 0)
    (hok : Claims.RemoteOk s.ctx kind va off n win.toNat dev.toNat flag)
    (hunits : units = (List.range (n / 16)).map (fun k => (va + 16 * k) % 2 ^ 64))
    (hreach : r.reach (units.map (fun v => (v, if kind = 1 then Access.write else Access.read))) = .ok locs)
    (hr0 : r0 = r.settleOver (locs.flatMap (fun l => l.span 16))) (hr1 : r1 = if ord && kind != 1 then r0.fenceDev else r0) :
    ∃ t x, exec i s = .next t ∧ Claims.Joins r1 t (.remote kind x) 0 2 (ord && kind == 1)
      ∧ Claims.RemoteIssued r1 kind locs win.toNat off dev.toNat n flag tc (ord && kind != 1) x := by
  have hteam : r.team = u := by rw [hr]; rfl
  have hctx : r.ctx = s.ctx := by rw [hr]; rfl
  have hopt : (if kind = 2 then some (u.srd (c.toNat + 1)).toNat else none) = if kind = 2 then some flag else none := by
    split
    next h => rw [hflag, if_pos h]
    next => rfl
  have hget : (if kind = 2 then some flag else none).getD 0 = flag := by
    split
    next => rfl
    next h => rw [hflag, if_neg h]; rfl
  have hfault : r.remoteFault i va off n win.toNat dev.toNat (if kind = 2 then some flag else none) = none :=
    State.remoteFault_of_ok (by rw [hctx]; exact hok)
  rw [exec_remoteForms hi, remoteCopy, ← hu, engineForm_of_active hactive, ← hr]
  simp only [hteam, ← hva, ← hoff, ← hn, hopt, hfault, ← hunits, hreach, ← hr0, ← hr1, hget]
  refine ⟨_, _, rfl, joins_touchUnits r1 _ 0 2 _ units, rfl, rfl, rfl, rfl, rfl, rfl, rfl, rfl, ?_, ?_⟩
  · exact fun h => State.remoteBound_of_plain r1 locs h
  · exact fun port hport htc hkind hlen hws => State.remoteBound_of_frame hport htc hkind hlen hws

end Issue

/-! ## Units -/

section Units

variable {s : State} {o : AsyncOp} {x : RemoteArgs} {w : Window}

theorem State.putUnit_of_unitPut {u : Nat} {l d : Loc} {t : State} (h : Claims.UnitPut s o x w u l d t) : s.putUnit o x w u = some t := by
  obtain ⟨s1, s2, data, hl, rfl, rfl, rfl, hown, hother⟩ := h
  have hunit : x.units.getD u ⟨0, false, false⟩ = l := by rw [List.getD_eq_getElem?_getD, hl]; rfl
  simp only [State.putUnit, hunit]
  by_cases hdev : x.dev = s.dev.devid.toNat
  · obtain ⟨hplace, rfl⟩ := hown hdev
    simp only [hdev, if_true]
    rw [hplace]
    rfl
  · rw [if_neg hdev, hother hdev]
    rfl

theorem State.getUnit_of_unitGot {given : List Byte} {u : Nat} {l d : Loc} {t : State} (h : Claims.UnitGot s o x w given u l d t) :
    s.getUnit o x w given u = some t := by
  obtain ⟨s1, hl, hown, hother⟩ := h
  have hunit : x.units.getD u ⟨0, false, false⟩ = l := by rw [List.getD_eq_getElem?_getD, hl]; rfl
  simp only [State.getUnit, hunit]
  by_cases hdev : x.dev = s.dev.devid.toNat
  · obtain ⟨hplace, rfl, rfl⟩ := hown hdev
    simp only [hdev, if_true]
    rw [hplace]
    rfl
  · rw [if_neg hdev, hother hdev]

end Units

section Moves

variable {o : AsyncOp} {x : RemoteArgs} {w : Window} {kind : Nat} {given : Nat → List Byte}

/-- Units performed in turn are a run of `moveUnits`. -/
theorem State.moveUnits_of_done {P : State → Nat → State → Prop} (us : List Nat)
    (hP : ∀ u ∈ us, ∀ v m : State, P v u m → v.moveUnit o kind x w given u = some m) (s t : State) (h : Claims.UnitsDone P us s t) :
    s.moveUnits o kind x w given us = some t := by
  induction us generalizing s with
  | nil => rw [show t = s from h]; rfl
  | cons u us ih =>
    obtain ⟨m, hm, hrest⟩ := h
    have htail := ih (fun v hv => hP v (List.mem_cons_of_mem _ hv)) m hrest
    rw [State.moveUnits] at htail ⊢
    rw [List.foldl_cons, Option.bind_some, hP u List.mem_cons_self s m hm, htail]

theorem State.moveRest_of_done {s t : State} (hw : s.windowFor o kind x = some w) {P : State → Nat → State → Prop}
    (hP : ∀ u ∈ x.todo, ∀ v m : State, P v u m → v.moveUnit o kind x w given u = some m) (h : Claims.UnitsDone P x.todo s t) :
    s.moveRest o kind x given = some (t, w) := by
  simp only [State.moveRest, hw, State.moveUnits_of_done x.todo hP s t h, Option.map_some]

theorem State.moveUnit_of_put (hkind : kind ≠ 1) (u : Nat) (v m : State) (h : ∃ l d, Claims.UnitPut v o x w u l d m) :
    v.moveUnit o kind x w given u = some m := by
  obtain ⟨l, d, hput⟩ := h
  rw [State.moveUnit, if_neg hkind, State.putUnit_of_unitPut hput]

theorem State.moveUnit_of_got {bytes : List Byte} {u : Nat} (hgiven : given u = bytes) (v m : State)
    (h : ∃ l d, Claims.UnitGot v o x w bytes u l d m) : v.moveUnit o 1 x w given u = some m := by
  obtain ⟨l, d, hgot⟩ := h
  rw [State.moveUnit, if_pos rfl, hgiven, State.getUnit_of_unitGot hgot]

end Moves

/-! ## Completion -/

section Complete

variable {s : State} {op : Nat} {o : AsyncOp} {x : RemoteArgs} {w : Window} {t : State}

theorem exec_putComplete_of_done (hready : Claims.RemoteReady s op 0 o x w)
    (hdone : Claims.UnitsDone (fun v u m => ∃ l d, Claims.UnitPut v o x w u l d m) x.todo s t) :
    exec (.putComplete op) s = .next (t.finishOp o [] none) := by
  obtain ⟨hop, hopen, hwork, hwindow, hheld⟩ := hready
  have hrest : s.moveRest o 0 x (s.remoteUnit o) = some (t, w) :=
    State.moveRest_of_done hwindow (fun u _ => State.moveUnit_of_put (by decide) u) hdone
  rw [exec, execPutComplete]
  simp only [hop, hwork, hopen, hheld, Bool.or_self, Bool.false_eq_true, if_false, hrest]

theorem exec_psigComplete_of_done (hready : Claims.RemoteReady s op 2 o x w)
    (hdone : Claims.UnitsDone (fun v u m => ∃ l d, Claims.UnitPut v o x w u l d m) x.todo s t) :
    (∀ f, x.dev = s.dev.devid.toNat → t.ownUnit o w .atomic x.flag = some f →
      exec (.psigComplete op) s = .next ((t.addOne f).finishOp o [] none))
    ∧ (x.dev ≠ s.dev.devid.toNat →
      exec (.psigComplete op) s = .next ((Claims.sentOn t x.dev 2 (w.base + x.flag) []).finishOp o [] none)) := by
  obtain ⟨hop, hopen, hwork, hwindow, hheld⟩ := hready
  have hrest : s.moveRest o 2 x (s.remoteUnit o) = some (t, w) :=
    State.moveRest_of_done hwindow (fun u _ => State.moveUnit_of_put (by decide) u) hdone
  rw [exec, execPsigComplete]
  simp only [hop, hwork, hopen, hheld, Bool.or_self, Bool.false_eq_true, if_false, hrest]
  refine ⟨fun f hdev hplace => ?_, fun hdev => ?_⟩
  · simp only [hdev, if_true, hplace]
  · rw [if_neg hdev]
    rfl

theorem exec_getComplete_of_done {bytes : List Byte} (hop : s.op? op = some o) (hopen : o.done = false) (hwork : o.work = .remote 1 x)
    (hwindow : s.windowFor o 1 x = some w) (hlen : ∀ u ∈ x.todo, 16 * u + 16 ≤ bytes.length)
    (hdone : Claims.UnitsDone (fun v u m => ∃ l d, Claims.UnitGot v o x w ((bytes.drop (16 * u)).take 16) u l d m) x.todo s t) :
    exec (.getComplete op bytes) s = .next (t.finishOp o [] none) := by
  have hgiven : ∀ u ∈ x.todo, (List.range 16).map (fun i => (bytes[16 * u + i]?).getD (s.remoteByte o (16 * u + i)))
      = (bytes.drop (16 * u)).take 16 := by
    intro u hu
    have hu' := hlen u hu
    refine List.ext_getElem (by simp; omega) fun i hi _ => ?_
    have hi' : i < 16 := by simpa using hi
    simp [List.getElem?_eq_getElem (show 16 * u + i < bytes.length by omega)]
  have hrest := State.moveRest_of_done (given := fun u => (List.range 16).map (fun i => (bytes[16 * u + i]?).getD (s.remoteByte o (16 * u + i))))
    hwindow (fun u hu => State.moveUnit_of_got (hgiven u hu)) hdone
  rw [exec, execGetComplete]
  simp only [hop, hwork, hopen, Bool.false_eq_true, if_false, hrest]

theorem run_remoteUnit_of_moved {kind u : Nat} (hready : Claims.RemoteReady s op kind o x w) (hu : u ∈ x.todo)
    (hmove : s.moveUnit o kind x w (s.remoteUnit o) u = some t) :
    Act.run (.remoteUnit op u) s =
      .next (t.modOp op (fun y => { y with work := .remote kind { x with todo := x.todo.filter (fun v => v != u) } })) := by
  obtain ⟨hop, hopen, hwork, hwindow, hheld⟩ := hready
  have hmem : x.todo.contains u = true := List.contains_iff_mem.mpr hu
  rw [Act.run, State.remoteStep]
  simp only [hop, hwork, hopen, hheld, hmem, Bool.not_true, Bool.or_self, Bool.false_eq_true, if_false, hwindow, Option.bind_some, hmove]

theorem State.moveRest_of_unusable {kind : Nat} {given : Nat → List Byte} (hwindow : s.windowFor o kind x = none) :
    s.moveRest o kind x given = none := by
  simp only [State.moveRest, hwindow]

theorem exec_remote_of_unusable {kind : Nat} {bytes : List Byte} (hop : s.op? op = some o) (hopen : o.done = false)
    (hwork : o.work = .remote kind x) (hwindow : s.windowFor o kind x = none) (hheld : s.remoteHeld o x = false) {i : Instr}
    (hi : (kind, i) ∈ [(0, Instr.putComplete op), (2, .psigComplete op), (1, .getComplete op bytes)]) : ∃ given,
      exec i s = .next ((s.failUnits o kind x given).finishOp o [] (some (0x25, BitVec.ofNat 64 (o.pc % 2 ^ 57)))) := by
  simp only [List.mem_cons, List.not_mem_nil, or_false, Prod.mk.injEq] at hi
  rcases hi with ⟨rfl, rfl⟩ | ⟨rfl, rfl⟩ | ⟨rfl, rfl⟩
  · refine ⟨s.remoteUnit o, ?_⟩
    rw [exec, execPutComplete]
    simp only [hop, hwork, hopen, hheld, Bool.or_self, Bool.false_eq_true, if_false, State.moveRest_of_unusable hwindow]
    rfl
  · refine ⟨s.remoteUnit o, ?_⟩
    rw [exec, execPsigComplete]
    simp only [hop, hwork, hopen, hheld, Bool.or_self, Bool.false_eq_true, if_false, State.moveRest_of_unusable hwindow]
    rfl
  · refine ⟨fun u => (List.range 16).map (fun i => (bytes[16 * u + i]?).getD (s.remoteByte o (16 * u + i))), ?_⟩
    rw [exec, execGetComplete]
    simp only [hop, hwork, hopen, Bool.false_eq_true, if_false, State.moveRest_of_unusable hwindow]
    rfl

end Complete

/-- A chunk of a ring written at its places (R346, R374). -/
def ringChunk (s : State) (o : AsyncOp) (args : RingArgs) (joined : List (Nat × Nat × List Byte)) (chunk : Nat) (bytes : List Byte)
    (places : List (Option Loc)) : State :=
  places.zipIdx.foldl (fun (v : State) y => match y.1 with
    | some l => v.writeThrough l 16 (ofLeBytes (v.ringUnit o args joined chunk bytes y.2))
    | none => v) (s.ringDone o args (args.dstUnits chunk))

section RingChunk

variable (s : State) (o : AsyncOp) (args : RingArgs) (joined : List (Nat × Nat × List Byte)) (chunk : Nat) (bytes : List Byte)
  (places : List (Option Loc))

/-- What neither a store nor a translation changes, the writing of a chunk leaves as it was. -/
theorem ringChunk_keeps {α : Type} (f : State → α) (hwrite : ∀ (v : State) l n x, f (v.writeThrough l n x) = f v)
    (hdone : ∀ (v : State) c d va n, f (v.deviceDone c d va n) = f v) : f (ringChunk s o args joined chunk bytes places) = f s := by
  refine (State.foldl_keeps _ f (fun v y => ?_) _ _).trans ?_
  · split
    · exact hwrite ..
    · rfl
  · unfold State.ringDone
    split
    · rfl
    · exact State.foldl_keeps _ f (fun v x => hdone ..) _ s

theorem ringChunk_team : (ringChunk s o args joined chunk bytes places).team = s.team :=
  ringChunk_keeps s o args joined chunk bytes places (·.team) (fun _ _ _ _ => by simp) (fun _ _ _ _ _ => by simp [State.deviceDone])

theorem ringChunk_crew : (ringChunk s o args joined chunk bytes places).crew = s.crew :=
  ringChunk_keeps s o args joined chunk bytes places (·.crew) (fun _ _ _ _ => by simp) (fun _ _ _ _ _ => by simp [State.deviceDone])

theorem ringChunk_ops : (ringChunk s o args joined chunk bytes places).ops = s.ops :=
  ringChunk_keeps s o args joined chunk bytes places (·.ops) (fun _ _ _ _ => by simp) (fun _ _ _ _ _ => by simp [State.deviceDone])

theorem ringChunk_semaphores : (ringChunk s o args joined chunk bytes places).semaphores = s.semaphores :=
  ringChunk_keeps s o args joined chunk bytes places (·.semaphores) (fun _ _ _ _ => by simp) (fun _ _ _ _ _ => by simp [State.deviceDone])

end RingChunk

/-- A changed operation is found where it was, while it keeps its number. -/
theorem State.op?_modOp {s : State} {op : Nat} {o : AsyncOp} {f : AsyncOp → AsyncOp} (hop : s.op? op = some o) (hkeep : ∀ x, (f x).id = x.id) :
    (s.modOp op f).op? op = some (f o) := by
  have hids : ((fun q : AsyncOp => q.id == op) ∘ fun q => if q.id = op then f q else q) = fun q => q.id == op := by
    funext q
    dsimp only [Function.comp]
    split
    · rw [hkeep]
    · rfl
  have hfound : s.ops.find? (fun q => q.id == op) = some o := hop
  have hid : o.id = op := by simpa using List.find?_some hfound
  rw [State.op?, State.modOp, List.find?_map, hids, hfound, Option.map_some, if_pos hid]

/-! ## RING.WAIT -/

section RingWait

variable {s r1 : State} {b : Bool} {a c : BitVec 6} {u : Team} {v idx die : Nat} (hu : u = s.team.belay b) (hr1 : r1 = (s.withTeam u).settleSc)
  (hv : v = (u.srd a.toNat).toNat) (hidx : idx = v % 4096) (hdie : die = v / 4096 % 2)

theorem semaphoreOk_iff {k : Context} (hidx : idx = v % 4096) (hdie : die = v / 4096 % 2) (hlt : v < 8192) : Claims.SemaphoreOk k v ↔
    ¬(idx < (k.grants.getD die (0, 0)).1 ∨ (k.grants.getD die (0, 0)).1 + (k.grants.getD die (0, 0)).2 ≤ idx) := by
  subst hidx hdie
  rw [Claims.SemaphoreOk]
  omega

include hu hr1 hv hidx hdie

/-- RING.WAIT by the semaphore that it names. -/
theorem exec_ringWait : exec (.ringWait b a c) s =
    if 8192 ≤ v then .next (r1.illegal (.ringWait b a c))
    else if idx < (s.ctx.grants.getD die (0, 0)).1 ∨ (s.ctx.grants.getD die (0, 0)).1 + (s.ctx.grants.getD die (0, 0)).2 ≤ idx then
      .next (r1.vaTrap 0x05 0 (r1.freeNumber 1))
    else if (s.semaphores.get (die * 4096 + idx) - u.srd c.toNat).toNat < 2 ^ 31 then
      .next (r1.withTeam ((r1.team.raiseFloor s.tick).advance 1))
    else .next (r1.withTeam { r1.team with
      state := .parked
      park := .ringWait die idx (u.srd c.toNat) (decide (64 ≤ r1.waitEntries r1.team.key (r1.crew.coreOf r1.team 0))) }) := by
  have hteam : r1.team = u := by rw [hr1]; simp
  have hctx : r1.ctx = s.ctx := by rw [hr1]; simp
  have hsem : r1.semaphores = s.semaphores := by rw [hr1]; simp
  have htick : r1.tick = s.tick := by rw [hr1]; simp
  rw [exec, execRingWait, ← hu, ← hr1]
  simp only [hteam, hctx, ← hv, ← hidx, ← hdie, State.ringPassed, hsem, decide_eq_true_eq]
  rw [State.orderAfter, hteam, htick]
  rfl

theorem exec_ringWait_of_passed (hok : Claims.SemaphoreOk s.ctx v) (hpassed : (s.semaphores.get (die * 4096 + idx) - u.srd c.toNat).toNat < 2 ^ 31) :
    exec (.ringWait b a c) s = .next (r1.withTeam ((r1.team.raiseFloor s.tick).advance 1)) := by
  rw [exec_ringWait hu hr1 hv hidx hdie, if_neg (Nat.not_le.mpr hok.1), if_neg ((semaphoreOk_iff hidx hdie hok.1).mp hok), if_pos hpassed]

theorem exec_ringWait_of_waits (hok : Claims.SemaphoreOk s.ctx v)
    (hwaits : 2 ^ 31 ≤ (s.semaphores.get (die * 4096 + idx) - u.srd c.toNat).toNat) : exec (.ringWait b a c) s =
      .next (r1.withTeam { r1.team with
        state := .parked
        park := .ringWait die idx (u.srd c.toNat) (decide (64 ≤ r1.waitEntries r1.team.key (r1.crew.coreOf r1.team 0))) }) := by
  rw [exec_ringWait hu hr1 hv hidx hdie, if_neg (Nat.not_le.mpr hok.1), if_neg ((semaphoreOk_iff hidx hdie hok.1).mp hok),
    if_neg (Nat.not_lt.mpr hwaits)]

theorem exec_ringWait_of_ungranted (hlt : v < 8192) (hnot : ¬Claims.SemaphoreOk s.ctx v) :
    exec (.ringWait b a c) s = .next (r1.vaTrap 0x05 0 (r1.freeNumber 1)) := by
  rw [exec_ringWait hu hr1 hv hidx hdie, if_neg (Nat.not_le.mpr hlt),
    if_pos (Classical.not_not.mp fun h => hnot ((semaphoreOk_iff hidx hdie hlt).mpr h))]

end RingWait

/-! ## Ring operations -/

section RingEvents

variable {s : State} {op : Nat} {o : AsyncOp} {args : RingArgs} {done sent : List Nat} {joined : List (Nat × Nat × List Byte)}
  (hop : s.op? op = some o) (hopen : o.done = false) (hwork : o.work = .ring args done sent joined)
include hop hopen hwork

section Chunk

variable {chunk : Nat} {bytes : List Byte} (hchunk : chunk ∉ done) (hstarted : chunk < args.started done)
include hchunk hstarted

omit hopen hchunk hstarted in
theorem exec_ringChunkWritten_of_unpassed (hpassed : args.passed sent joined chunk = false) :
    exec (.ringChunkWritten op chunk bytes) s = .next s := by
  rw [exec, execRingChunkWritten]
  simp [hop, hwork, hpassed]

theorem exec_ringChunkWritten_of_unmapped (hpassed : args.passed sent joined chunk = true) {v e : Nat}
    (hunits : s.ringUnits o args (args.dstUnits chunk) .write = .error (v, e)) :
    exec (.ringChunkWritten op chunk bytes) s = .next (s.deviceFault o.ctx v e .write args.die) := by
  rw [exec, execRingChunkWritten]
  simp [hop, hwork, hopen, hpassed, hchunk, Nat.not_le.mpr hstarted, hunits]

theorem exec_ringChunkWritten_of_passed (hpassed : args.passed sent joined chunk = true) (hadds : s.addsSemaphores o = true)
    {places : List (Option Loc)} (hunits : s.ringUnits o args (args.dstUnits chunk) .write = .ok places) {s1 : State}
    (hs1 : s1 = ringChunk s o args joined chunk bytes places) {key : Nat} (hkey : key = args.die * 4096 + (args.sem + chunk) % 4096) :
    exec (.ringChunkWritten op chunk bytes) s =
      .next (({ s1 with semaphores := s1.semaphores.set key (s1.semaphores.get key + 1) } : State).modOp op (fun o =>
        { o with work := .ring args (done ++ [chunk]) sent (joined.filter (fun e => e.1 != chunk)) })) := by
  have hgo : (o.done || done.contains chunk || decide (args.started done ≤ chunk) || !args.passed sent joined chunk) = false := by
    simp [hopen, hpassed, hchunk, hstarted]
  subst hs1 hkey
  rw [exec, execRingChunkWritten]
  simp only [hop, hwork, hgo, Bool.false_eq_true, if_false, hunits]
  rw [if_pos hadds]
  rfl

end Chunk

theorem exec_ringComplete_of_all (hall : ∀ k < args.nchunk, k ∈ done) : exec (.ringComplete op) s = .next (s.finishOp o [] none) := by
  have hdone : (List.range args.nchunk).all (fun k => done.contains k) = true :=
    List.all_eq_true.mpr fun k hk => List.contains_iff_mem.mpr (hall k (List.mem_range.mp hk))
  rw [exec, execRingComplete]
  simp only [hop, hwork, hopen, Bool.false_eq_true, if_false, hdone, if_true]

end RingEvents

theorem exec_partialSegment_of_expected {s : State} {op chunk seg : Nat} {bytes : List Byte} (h : s.expects op chunk seg = true) :
    exec (.partialSegment op chunk seg bytes) s = .next { s with staging := s.staging ++ [(op, chunk, seg, bytes)] } := by
  rw [exec, execPartialSegment, if_pos h]

theorem exec_partialSegment_of_unexpected {s : State} {op chunk seg : Nat} {bytes : List Byte} (h : s.expects op chunk seg = false) :
    exec (.partialSegment op chunk seg bytes) s = .next s := by
  rw [exec, execPartialSegment, h, if_neg Bool.false_ne_true]

/-! ## RING.RED -/

/-- The descriptor `h` and the table of a RING.RED as they are read from `r`, to `s3`: the table's devices and their number (R345). -/
structure RingRead (r : State) (va : Nat) (h : List Byte) (n : Nat) (devices : List Nat) (s3 : State) : Prop where
  aligned : va % 64 = 0
  read : ∃ l s0 nl s1 s12 tl s2, r.reach [(va, .read)] = .ok [l] ∧ s0 = r.drainFor r.home [l] ∧ h = s0.engineBytes r.home l 64
    ∧ (s0.hasRead r.home [l] 64).reach (rangeAccesses (fieldAt h 24 8) 4 true false) = .ok nl
    ∧ s1 = (s0.hasRead r.home [l] 64).drainFor r.home nl ∧ n = (s1.tableWords nl (fieldAt h 24 8) 1).headD 0
    ∧ s12 = s1.readTable nl (fieldAt h 24 8) 1 ∧ 2 ≤ n ∧ n ≤ 4194304
    ∧ s12.reach (rangeAccesses (fieldAt h 24 8) (4 + 4 * n) true false) = .ok tl ∧ tl ≠ [] ∧ s2 = s12.drainFor r.home tl
    ∧ devices = ((s2.tableWords tl (fieldAt h 24 8) (n + 1)).drop 1).map (fun w => w % 2 ^ 22) ∧ s3 = s2.readTable tl (fieldAt h 24 8) (n + 1)

/-- The operation of a ring on this device (R345, R346). -/
def ringArgs (me die : Nat) (h : List Byte) (n : Nat) (devices : List Nat) : RingArgs :=
  let pos := devices.findIdx (fun k => k == me)
  { srcVa := fieldAt h 0 8, dstVa := fieldAt h 8 8, chunk := fieldAt h 16 4, nchunk := fieldAt h 20 4,
    devices := n, pos := pos, succ := devices.getD ((pos + 1) % n) 0, pred := devices.getD ((pos + n - 1) % n) 0, sem := fieldAt h 32 2,
    fmt := fieldAt h 34 1 % 4, max := bitOf (fieldAt h 34 1 / 4), tc := bitOf (fieldAt h 34 1 / 8), win := fieldAt h 35 1, die := die }

section RingRed

variable {s r s3 : State} {b : Bool} {a : BitVec 6} {va n : Nat} {h : List Byte} {devices : List Nat} {locs : List Loc}
  (hr : r = s.withTeam (s.team.belay b)) (hva : va = (r.team.srd64 a.toNat).toNat) (hread : RingRead r va h n devices s3)
  (hhead : ringFault h = none) (htable : tableFault n devices r.dev.devid.toNat = none) (htail : ringFaultTail h = none)
  (hgrant : semaphoresGranted (r.ctx.grants.getD (dieOf r.home) (0, 0)) (fieldAt h 32 2) (fieldAt h 20 4) = true)
  (hwindow : (r.ctx.window? (fieldAt h 35 1)).isSome = true)
  (hreach : s3.reach (rangeAccesses (fieldAt h 0 8) (fieldAt h 20 4 * fieldAt h 16 4) true false
    ++ rangeAccesses (fieldAt h 8 8) (fieldAt h 20 4 * fieldAt h 16 4) false true) = .ok locs)
include hr hva hread hhead htable htail hgrant hwindow hreach

theorem exec_ringRed : exec (.ringRed b a) s =
    if 64 ≤ s3.ringOps (dieOf r.home) then .next r.waits
    else
      let s4 := s3.release.addOp (.ring (ringArgs r.dev.devid.toNat (dieOf r.home) h n devices) [] [] []) 0
      let o := Claims.issuedOp s3.release (.ring (ringArgs r.dev.devid.toNat (dieOf r.home) h n devices) [] [] []) 0
      if r.ctx.ringWindow (ringArgs r.dev.devid.toNat (dieOf r.home) h n devices) then .next (s4.withTeam (s4.team.advance 1))
      else .next ((s4.withTeam (s4.team.advance 1)).failOp o) := by
  obtain ⟨haligned, l, s0, nl, s1, s12, tl, s2, hdesc, hs0, hh, hnl, hs1, hn, hs12, hlo, hhi, htl, hne, hs2, hdevices, hs3⟩ := hread
  have hnone : (r.ctx.window? (fieldAt h 35 1)).isNone = false := by
    cases hw : r.ctx.window? (fieldAt h 35 1) with
    | none => rw [hw] at hwindow; cases hwindow
    | some w => rfl
  have hlast : (s3.release.addOp (.ring (ringArgs r.dev.devid.toNat (dieOf r.home) h n devices) [] [] []) 0).ops.getLast? =
      some (Claims.issuedOp s3.release (.ring (ringArgs r.dev.devid.toNat (dieOf r.home) h n devices) [] [] []) 0) := List.getLast?_concat
  rw [exec, execRingRed, ← hr]
  simp only [← hva, haligned, ne_eq, not_true, if_false, hdesc, List.headD_cons, ← hs0, ← hh, hnl, ← hs1, ← hn, ← hs12, hlo, hhi, and_self,
    if_true,
    htl, hne, ← hs2, ← hdevices, ← hs3, hhead, htable, htail, Option.or_none, hgrant, Bool.not_true, Bool.false_or, hreach, hnone,
    Bool.false_eq_true]
  rw [ringArgs] at hlast ⊢
  rw [hlast]

end RingRed

/-- A RING.RED that passes its checks waits while its die's engine is full, and else issues. -/
theorem exec_ringRed_cases {s r s3 : State} {b : Bool} {a : BitVec 6} {u : Team} {va n pos : Nat} {h : List Byte} {devices : List Nat}
    {args : RingArgs} (hu : u = s.team.belay b) (hr : r = s.withTeam u) (hva : va = (u.srd64 a.toNat).toNat)
    (hread : RingRead r va h n devices s3) (hhead : ringFault h = none) (htable : tableFault n devices s.dev.devid.toNat = none)
    (htail : ringFaultTail h = none)
    (hgrant : semaphoresGranted (s.ctx.grants.getD (dieOf r.home) (0, 0)) (fieldAt h 32 2) (fieldAt h 20 4) = true)
    (hwindow : (s.ctx.window? (fieldAt h 35 1)).isSome = true)
    (hreach : ∃ locs, s3.reach (rangeAccesses (fieldAt h 0 8) (fieldAt h 20 4 * fieldAt h 16 4) true false
      ++ rangeAccesses (fieldAt h 8 8) (fieldAt h 20 4 * fieldAt h 16 4) false true) = .ok locs) :
    (64 ≤ s3.ringOps (dieOf r.home) → exec (.ringRed b a) s = .next r.waits)
    ∧ (s3.ringOps (dieOf r.home) < 64 → pos = devices.findIdx (fun k => k == s.dev.devid.toNat) →
      args = { srcVa := fieldAt h 0 8, dstVa := fieldAt h 8 8, chunk := fieldAt h 16 4, nchunk := fieldAt h 20 4,
               devices := n, pos := pos, succ := devices.getD ((pos + 1) % n) 0, pred := devices.getD ((pos + n - 1) % n) 0, sem := fieldAt h 32 2,
               fmt := fieldAt h 34 1 % 4, max := bitOf (fieldAt h 34 1 / 4), tc := bitOf (fieldAt h 34 1 / 8), win := fieldAt h 35 1,
               die := dieOf r.home } →
      s.ctx.ringWindow args = true →
      ∃ t, exec (.ringRed b a) s = .next t ∧ t.team = s3.release.team.advance 1 ∧ t.mem = s3.release.mem
        ∧ t.ops = s3.release.ops ++ [Claims.issuedOp s3.release (.ring args [] [] []) 0]) := by
  obtain ⟨locs, hreach⟩ := hreach
  have hteam : r.team = u := by rw [hr]; rfl
  have hctx : r.ctx = s.ctx := by rw [hr]; rfl
  have hdev : r.dev = s.dev := by rw [hr]; rfl
  rw [hu] at hr
  rw [← hteam] at hva
  rw [← hctx] at hgrant hwindow
  rw [← hdev] at htable
  have hexec := exec_ringRed hr hva hread hhead htable htail hgrant hwindow hreach
  rw [hexec]
  refine ⟨fun hfull => if_pos hfull, fun hroom hpos hargs hringWindow => ?_⟩
  have hargs' : ringArgs r.dev.devid.toNat (dieOf r.home) h n devices = args := by rw [hargs, hpos, hdev]; rfl
  rw [← hctx] at hringWindow
  rw [if_neg (Nat.not_le.mpr hroom), hargs']
  generalize s3.release = q
  exact ⟨_, if_pos hringWindow, rfl, rfl, rfl⟩

/-! ## The statement, but for the free values -/

/-- No read of a column with an armed injection reports it: the free value of R398 never says so.  `Config.freeBool` is a constant without a
body, so neither this nor its negation can be proved; three statements depend on it, which say of reads that they change nothing: that of a GET
from outside (O54), of PREF's fill (O38), and of a store's walk (O33). -/
def NeverReports : Prop := ∀ (s : State) (k : Nat), s.free 15 k = false

theorem State.reported_of_never (hnever : NeverReports) (s : State) (p n : Nat) : s.reported p n = s := by
  have hhit : s.dev.injections.any (fun k => decide (p / 32 ≤ k) && decide (k ≤ (p + n - 1) / 32) && s.free 15 k) = false := by
    simp [hnever s]
  exact if_neg (by rw [hhit]; exact Bool.false_ne_true)

theorem State.hasRead_of_never (hnever : NeverReports) (s : State) (core : Nat) (ls : List Loc) (n : Nat) : s.hasRead core ls n = s := by
  unfold State.hasRead
  split
  · rfl
  · exact State.foldl_keeps _ id (fun v l => State.reported_of_never hnever v _ _) _ s

/-- The statement of O54 follows if no read ever reports an armed injection; `not_remoteCopiesAndRings_of_report` is the other case. -/
theorem remoteCopiesAndRings_of_neverReports (hnever : NeverReports) : Obligations.RemoteCopiesAndRings := by
  unfold Obligations.RemoteCopiesAndRings
  intro s b tc ord d a c win dev u r hu hr
  refine ⟨?issue, ?empty, ?wait, ?ring, fun op o x w t => exec_putComplete_of_done, fun op o x w t => exec_psigComplete_of_done,
    fun op o x w bytes t hop hopen hwork hwindow hlen => exec_getComplete_of_done hop hopen hwork hwindow hlen, ?unit,
    fun op o kind x bytes hop hopen hwork hwindow hheld i => exec_remote_of_unusable hop hopen hwork hwindow hheld, ?access,
    fun op chunk seg bytes => ⟨exec_partialSegment_of_expected, exec_partialSegment_of_unexpected⟩, ?chunk⟩
  case issue =>
    intro i kind va off n flag units locs r1 hi hactive hva hoff hn hflag hok hunits hreach r0 hr0 hr1
    exact exec_remoteForms_of_ok hi hu hr hactive hva hoff hn hflag hok hunits hreach hr0 hr1
  case empty =>
    intro hactive i hi
    exact exec_remoteForms_of_empty (kind := i.2) hi hu hactive
  case wait =>
    intro v idx die r1 hv hidx hdie hr1
    rw [hr] at hr1
    refine ⟨fun hok hpassed => ⟨_, exec_ringWait_of_passed hu hr1 hv hidx hdie hok hpassed, rfl, ?_, ?_, ?_, rfl⟩,
      fun hok hwaits => ⟨_, _, exec_ringWait_of_waits hu hr1 hv hidx hdie hok hwaits, rfl, ?_, rfl⟩,
      fun hlarge => by rw [exec_ringWait hu hr1 hv hidx hdie, if_pos hlarge],
      fun hlt hnot => ⟨_, exec_ringWait_of_ungranted hu hr1 hv hidx hdie hlt hnot⟩⟩ <;> simp [hr1]
  case ring =>
    intro va l s0 h ring s01 nl s1 n s12 tl s2 devices s3 pos args src dst hva haligned hdesc hs0 hh hring hs01 hnl hs1 hn hs12 hlo hhi htl hne hs2
      hdevices hs3 hhead htable htail hgrant hwindow hsrc hdst hreach
    subst hring hs01 hsrc hdst
    have hread : RingRead r va h n devices s3 :=
      ⟨haligned, l, s0, nl, s1, s12, tl, s2, hdesc, hs0, hh, hnl, hs1, hn, hs12, hlo, hhi, htl, hne, hs2, hdevices, hs3⟩
    clear hdesc hs0 hh hnl hs1 hn hs12 hlo hhi htl hne hs2 hdevices hs3
    exact exec_ringRed_cases hu hr hva hread hhead htable htail hgrant hwindow hreach
  case unit =>
    intro op o kind x w v hready _ hv
    refine ⟨fun l e t hkind hput => run_remoteUnit_of_moved hready hv (State.moveUnit_of_put hkind v s t ⟨l, e, hput⟩),
      fun l e t hkind hgot => ?_⟩
    subst hkind
    exact run_remoteUnit_of_moved hready hv (State.moveUnit_of_got rfl s t ⟨l, e, hgot⟩)
  case access =>
    intro ctx va bytes k l hctx
    refine ⟨?_, fun hplace => ?_, ?_⟩
    · rw [exec, execRemoteAccess]
      simp only [hctx, if_true]
    · rw [exec, execRemoteAccess]
      simp only [hctx, hplace, OfNat.ofNat_ne_zero, OfNat.ofNat_ne_one, if_false]
    · rw [exec, execRemoteAccess]
      simp only [hctx, one_ne_zero, if_false, if_true]
      split
      · rfl
      · rw [State.hasRead_of_never hnever]
  case chunk =>
    intro op o args done sent joined hop hopen hwork
    refine ⟨fun chunk bytes hchunk hstarted => ⟨?_, fun v e hpassed hunits =>
      exec_ringChunkWritten_of_unmapped hop hopen hwork hchunk hstarted hpassed hunits,
      exec_ringChunkWritten_of_unpassed hop hwork⟩, exec_ringComplete_of_all hop hopen hwork⟩
    intro places hpassed hadds hunits
    refine ⟨_, exec_ringChunkWritten_of_passed hop hopen hwork hchunk hstarted hpassed hadds hunits rfl rfl,
      ringChunk_team s o args joined chunk bytes places, ringChunk_crew s o args joined chunk bytes places, ?_, ?_, rfl⟩
    · show FMap.set _ _ _ = _
      rw [ringChunk_semaphores]
    · intro y hy
      have hfound : State.op? { ringChunk s o args joined chunk bytes places with
          semaphores := (ringChunk s o args joined chunk bytes places).semaphores.set (args.die * 4096 + (args.sem + chunk) % 4096)
            ((ringChunk s o args joined chunk bytes places).semaphores.get (args.die * 4096 + (args.sem + chunk) % 4096) + 1) } op = some o :=
        (State.op?_congr (ringChunk_ops s o args joined chunk bytes places) op).trans hop
      obtain rfl := Option.some.inj (hy.symm.trans (State.op?_modOp hfound fun _ => rfl))
      rfl

end Sys2Proof.Machine
end

section
/-! A package with an armed injection, whose next read of its column may or may not report it (R398). -/

namespace Sys2Proof.Machine

/-- A package at a step with the first column armed, and a running context whose heap window lies over memory. -/
def armed (tick : Nat) : State :=
  { State.reset with
    tick := tick
    dev := { State.reset.dev with injections := [0] }
    ctx := { State.reset.ctx with state := .running, regs := FMap.set [] 1 (2 ^ 40) } }

/-- A reading of the armed column disarms it when the free value says so. -/
theorem reported_armed {s : State} {n : Nat} (harmed : s.dev.injections = [0]) (hfree : s.free 15 0 = true) :
    (s.reported 0 n).dev.injections = [] := by
  unfold State.reported
  simp [harmed, hfree]

theorem armed_hasRead_injections {tick n : Nat} (hfree : Config.freeBool (tick * 2 ^ 80 + 15 * 2 ^ 72 + 0) = true) :
    ((armed tick).hasRead 0 [⟨0, false, false⟩] n).dev.injections = [] :=
  reported_armed (s := armed tick) rfl hfree

theorem armed_inMemory (tick : Nat) : (armed tick).dev.inMemory 0 = true := by
  have hchannels : (armed tick).dev.channels = List.range 256 := by rw [armed, State.reset, Device.initial]
  have hchannel : 0 ∈ (armed tick).dev.channels.filter (fun c => c / 128 == 0) := by
    rw [hchannels, List.mem_filter, List.mem_range]
    exact ⟨Nat.succ_pos _, beq_self_eq_true _⟩
  have hpos : 0 < (armed tick).dev.channelsOn 0 := List.length_pos_of_mem hchannel
  rw [Device.inMemory, Bool.and_eq_true, decide_eq_true_eq, decide_eq_true_eq, Nat.zero_mod, Nat.zero_div]
  omega

/-- The first byte of the heap window lies in the armed column. -/
theorem armed_translateWith (tick : Nat) {die : Nat} {held : Option TlbEntry} {acc : Access} (hacc : acc ≠ .fetch) :
    (armed tick).translateWith (armed tick).ctx 0 (2 ^ 40) 0 die held 0 acc = .ok ⟨0, false, false⟩ := by
  rw [State.translateWith, if_neg (by decide), if_pos (by decide), if_neg hacc]
  exact if_pos (armed_inMemory tick)

/-- The statement of O54 fails if a read at some step reports an injection armed on the first column: the read that a GET
of another device makes changes the package. -/
theorem not_remoteCopiesAndRings_of_report {tick : Nat} (hfree : Config.freeBool (tick * 2 ^ 80 + 15 * 2 ^ 72 + 0) = true) :
    ¬ Obligations.RemoteCopiesAndRings := by
  unfold Obligations.RemoteCopiesAndRings
  intro h
  obtain ⟨-, -, -, -, -, -, -, -, -, haccess, -⟩ := h (armed tick) false false false 0 0 0 0 0 _ _ rfl rfl
  obtain ⟨-, -, hread⟩ := haccess 0 0 [] (armed tick).ctx ⟨0, false, false⟩ rfl
  have hplace : (armed tick).translateFor (armed tick).ctx 0 0 .read = .ok ⟨0, false, false⟩ := armed_translateWith tick (by decide)
  have hexec : exec (.remoteAccess 0 1 0 []) (armed tick) = .next ((armed tick).hasRead 0 [⟨0, false, false⟩] 16) := by
    rw [exec, execRemoteAccess, show (armed tick).ctx? 0 = some (armed tick).ctx from rfl]
    simp only [one_ne_zero, if_false, if_true, hplace]
  have hsame : (armed tick).hasRead 0 [⟨0, false, false⟩] 16 = armed tick := by
    rw [hexec] at hread
    injection hread
  have hnil := armed_hasRead_injections (n := 16) hfree
  rw [hsame] at hnil
  cases hnil

end Sys2Proof.Machine
end

section
/-! Fences, WAITV and PREF (R240, R255, R256, R273, R274, R276, R277, R287 to R289). -/

namespace Sys2Proof.Machine

/-! ## What drains leave in the buffers -/

theorem State.drainLine_wcb (s : State) (k line j : Nat) : ((s.drainLine k line).core j).wcb =
    if j = k then (s.core k).wcb.filter (fun b => b.addr / 128 != line) else (s.core j).wcb := by
  rw [State.drainLine]
  by_cases hjk : j = k
  · rw [hjk, if_pos rfl, State.core_modCore_self, State.core_congr (State.drained_cores s k _)]
  · rw [if_neg hjk, State.core_modCore_of_ne _ _ hjk, State.core_congr (State.drained_cores s k _)]

theorem State.mem_of_mem_drainLine {s : State} {k line j : Nat} {x : StoreByte} (h : x ∈ ((s.drainLine k line).core j).wcb) :
    x ∈ (s.core j).wcb := by
  rw [State.drainLine_wcb] at h
  split at h
  next hj => exact hj ▸ List.mem_of_mem_filter h
  next => exact h

theorem State.mem_of_mem_drainLines {s : State} {k j : Nat} {x : StoreByte} (lines : List Nat)
    (h : x ∈ ((lines.foldl (fun s line => s.drainLine k line) s).core j).wcb) :
    x ∈ (s.core j).wcb ∧ (j = k → x.addr / 128 ∉ lines) := by
  induction lines generalizing s with
  | nil => exact ⟨h, fun _ => List.not_mem_nil⟩
  | cons line lines ih =>
    obtain ⟨hmem, hrest⟩ := ih h
    refine ⟨State.mem_of_mem_drainLine hmem, fun hj hline => ?_⟩
    rcases List.mem_cons.mp hline with heq | hin
    · rw [State.drainLine_wcb, if_pos hj] at hmem
      simpa [heq] using (List.mem_filter.mp hmem).2
    · exact hrest hj hin

theorem State.mem_of_mem_drainWith {s : State} {k j : Nat} {p : StoreByte → Bool} {x : StoreByte} (h : x ∈ ((s.drainWith k p).core j).wcb) :
    x ∈ (s.core j).wcb ∧ (j = k → p x = false) := by
  obtain ⟨hmem, hline⟩ := State.mem_of_mem_drainLines _ h
  refine ⟨hmem, fun hj => ?_⟩
  by_contra hp
  refine hline hj (List.mem_eraseDups.mpr (List.mem_map_of_mem (List.mem_filter.mpr ⟨hj ▸ hmem, ?_⟩)))
  simpa using hp

/-- After drains of several cores, no buffer of theirs holds a store of the kind drained. -/
theorem State.mem_of_mem_drainCores {s : State} {j : Nat} {p : StoreByte → Bool} {x : StoreByte} (ks : List Nat)
    (h : x ∈ ((ks.foldl (fun s k => s.drainWith k p) s).core j).wcb) : x ∈ (s.core j).wcb ∧ (j ∈ ks → p x = false) := by
  induction ks generalizing s with
  | nil => exact ⟨h, fun hj => absurd hj List.not_mem_nil⟩
  | cons k ks ih =>
    obtain ⟨hmem, hrest⟩ := ih h
    obtain ⟨hmem', hk⟩ := State.mem_of_mem_drainWith hmem
    exact ⟨hmem', fun hj => (List.mem_cons.mp hj).elim hk hrest⟩

/-! ## What publication leaves in the buffers -/

theorem State.seeBytes_wcb (s : State) (k : Nat) (ts : List Nat) (p : StoreByte → Bool) (j : Nat) : ((s.seeBytes k ts p).core j).wcb =
    if j = k then (s.core k).wcb.map (fun b => if p b then { b with seen := (b.seen ++ ts).eraseDups } else b) else (s.core j).wcb := by
  rw [State.seeBytes]
  split
  next hany =>
    by_cases hjk : j = k
    · rw [hjk, if_pos rfl, State.core_modCore_self]
    · rw [if_neg hjk, State.core_modCore_of_ne _ _ hjk]
  next hnone =>
    split
    next hj =>
      have hsame : ∀ b ∈ (s.core k).wcb, (if p b then { b with seen := (b.seen ++ ts).eraseDups } else b : StoreByte) = b :=
        fun b hb => if_neg fun hp => hnone (List.any_eq_true.mpr ⟨b, hb, hp⟩)
      rw [List.map_congr_left hsame, List.map_id', hj]
    next => rfl

/-- A store of the team in a buffer counts as observed by it. -/
def StoreByte.published (key : Nat) (x : StoreByte) : Prop := x.of key = true → key ∈ x.seen

theorem State.published_of_seeBytes {s : State} {key k j : Nat}
    (h : ∀ x ∈ (s.core j).wcb, j ≠ k → x.published key) :
    ∀ x ∈ ((s.seeBytes k [key] (fun b => b.of key || b.seen.contains key)).core j).wcb, x.published key := by
  intro x hx
  rw [State.seeBytes_wcb] at hx
  split at hx
  next hj =>
    obtain ⟨b, -, rfl⟩ := List.mem_map.mp hx
    intro hof
    split
    next => exact List.mem_eraseDups.mpr (List.mem_append_right _ (List.mem_singleton_self _))
    next hnot =>
      rw [if_neg hnot] at hof
      simp [hof] at hnot
  next hj => exact h x hx hj

theorem State.published_of_publish {s : State} {key : Nat} (ks : List Nat) {j : Nat} (hj : j ∈ ks ∨ ∀ x ∈ (s.core j).wcb, x.published key) :
    ∀ x ∈ ((ks.foldl (fun s k => s.seeBytes k [key] (fun b => b.of key || b.seen.contains key)) s).core j).wcb, x.published key := by
  induction ks generalizing s with
  | nil => exact hj.resolve_left List.not_mem_nil
  | cons k ks ih =>
    refine ih ?_
    by_cases hjk : j = k
    · exact .inr (State.published_of_seeBytes fun _ _ hne => absurd hjk hne)
    · rcases hj with hmem | hall
      · exact .inl ((List.mem_cons.mp hmem).resolve_left hjk)
      · exact .inr (State.published_of_seeBytes fun x hx _ => hall x hx)

/-! ## What returns of the loads leave -/

theorem Team.flushLoads_unchecked {t : Team} {w : RegWrite} (h : w ∈ t.flushLoads.unchecked) : w.mem = false := by
  have hw := (List.mem_filter.mp (show w ∈ t.unchecked.filter (fun w => !w.mem) from h)).2
  simpa using hw

theorem State.runAtomics_none (s : State) (k : Nat) : ∀ x ∈ (s.runAtomics k).atomics, x.team ≠ k := by
  intro x hx
  have hx' := (List.mem_filter.mp (show x ∈ ((s.atomics.filter (fun x => x.team == k)).foldl State.atomicAt s).atomics.filter
    (fun x => x.team != k) from hx)).2
  simpa using hx'

@[simp] theorem State.landRead_atomics (s : State) (o : AsyncOp) (l : LdaLane) : (s.landRead o l).atomics = s.atomics := by
  unfold State.landRead
  dsimp only
  rw [State.afterLoad_atomics]
  have hland := fun v => (show (s.landValue o l v).atomics = s.atomics from rfl)
  split_ifs <;> simp [State.engineSaw, hland]

@[simp] theorem State.landLane_atomics (s : State) (o : AsyncOp) (l : LdaLane) : (s.landLane o l).atomics = s.atomics := by
  unfold State.landLane
  split
  · rfl
  · exact State.landRead_atomics s o l

theorem State.loadsBack_atomics (s : State) : s.loadsBack.atomics = (s.runAtomics s.team.key).atomics :=
  State.foldl_keeps _ (·.atomics) (fun v (x : AsyncOp × LdaLane) => State.landLane_atomics v x.1 x.2) _ _

theorem State.landLane_ops (s : State) (o : AsyncOp) (l : LdaLane) : ∃ v, (s.landLane o l).ops = (s.landValue o l v).ops := by
  rw [State.landLane]
  split
  next v _ => exact ⟨v, rfl⟩
  next =>
    rw [State.landRead, State.afterLoad_ops]
    generalize extendLoad l.type _ = v
    refine ⟨v, ?_⟩
    split
    · rw [State.modTeam_ops]
      split
      · rw [State.engineSaw_ops]
      · rfl
    · split
      · rw [State.engineSaw_ops]
      · rfl

/-- A lane of operation `id` of a team has not landed. -/
def State.unlanded (s : State) (key id lane : Nat) : Prop :=
  ∃ q ∈ s.ops, q.id = id ∧ q.team = key ∧ q.done = false ∧ ∃ todo more, q.work = .lda todo more ∧ ∃ y ∈ todo, y.lane = lane

theorem State.mem_ldaLanes {s : State} {key : Nat} {q : AsyncOp} {y : LdaLane} : (q, y) ∈ s.ldaLanes key ↔
    q ∈ s.ops ∧ q.team = key ∧ q.done = false ∧ ∃ todo more, q.work = .lda todo more ∧ y ∈ todo := by
  rw [State.ldaLanes, List.mem_flatMap]
  constructor
  · rintro ⟨o, ho, hy⟩
    obtain ⟨hmem, hcond⟩ := List.mem_filter.mp ho
    obtain ⟨hteam, hdone⟩ := Bool.and_eq_true_iff.mp hcond
    split at hy
    next todo more hwork =>
      obtain ⟨z, hz, heq⟩ := List.mem_map.mp hy
      obtain ⟨rfl, rfl⟩ := Prod.mk.inj heq
      exact ⟨hmem, eq_of_beq hteam, by simpa using hdone, todo, more, hwork, hz⟩
    next => cases hy
  · rintro ⟨hmem, hteam, hdone, todo, more, hwork, hy⟩
    refine ⟨q, List.mem_filter.mpr ⟨hmem, by simp [hteam, hdone]⟩, ?_⟩
    simp only [hwork, List.mem_map]
    exact ⟨y, hy, rfl⟩

/-- A lane that lands is no longer to land, and none comes to be so. -/
theorem State.unlanded_of_landLane {s : State} {o : AsyncOp} {l : LdaLane} {key id lane : Nat} (h : (s.landLane o l).unlanded key id lane) :
    s.unlanded key id lane ∧ ¬(id = o.id ∧ lane = l.lane) := by
  obtain ⟨v, hops⟩ := State.landLane_ops s o l
  obtain ⟨q', hq', hid, hteam, hdone, todo, more, hwork, y, hy, hlane⟩ := h
  rw [hops, State.landValue] at hq'
  obtain ⟨q, hq, rfl⟩ := List.mem_map.mp hq'
  by_cases hown : q.id = o.id
  · rw [if_pos hown] at hid hteam hdone hwork
    split at hwork
    next todo' more' hwork' =>
      rw [hwork'] at hid hteam hdone
      obtain ⟨rfl, rfl⟩ := OpWork.lda.inj hwork
      obtain ⟨hmem, hne⟩ := List.mem_filter.mp hy
      exact ⟨⟨q, hq, hid, hteam, hdone, todo', more', hwork', y, hmem, hlane⟩, fun hboth => by simp [hlane, hboth.2] at hne⟩
    next hnot => exact absurd hwork (hnot _ _)
  · rw [if_neg hown] at hid hteam hdone hwork
    exact ⟨⟨q, hq, hid, hteam, hdone, todo, more, hwork, y, hy, hlane⟩, fun hboth => hown (hid.trans hboth.1)⟩

theorem State.unlanded_of_landLanes {s : State} {key id lane : Nat} (ls : List (AsyncOp × LdaLane))
    (h : (ls.foldl (fun s x => s.landLane x.1 x.2) s).unlanded key id lane) :
    s.unlanded key id lane ∧ ∀ x ∈ ls, ¬(id = x.1.id ∧ lane = x.2.lane) := by
  induction ls generalizing s with
  | nil => exact ⟨h, fun _ hx => absurd hx List.not_mem_nil⟩
  | cons x ls ih =>
    obtain ⟨hmid, hrest⟩ := ih h
    obtain ⟨hfirst, hx⟩ := State.unlanded_of_landLane hmid
    exact ⟨hfirst, fun y hy => (List.mem_cons.mp hy).elim (fun heq => heq ▸ hx) (hrest y)⟩

theorem State.landTeam_ldaLanes (s : State) : s.landTeam.ldaLanes s.team.key = [] := by
  refine List.eq_nil_iff_forall_not_mem.mpr fun ⟨q, y⟩ hmem => ?_
  obtain ⟨hq, hteam, hdone, todo, more, hwork, hy⟩ := State.mem_ldaLanes.mp hmem
  obtain ⟨⟨p, hp, hid, hpteam, hpdone, todo', more', hpwork, z, hz, hlane⟩, hall⟩ :=
    State.unlanded_of_landLanes _ ⟨q, hq, rfl, hteam, hdone, todo, more, hwork, y, hy, rfl⟩
  exact hall (p, z) (State.mem_ldaLanes.mpr ⟨hp, hpteam, hpdone, todo', more', hpwork, hz⟩) ⟨hid.symm, hlane.symm⟩

theorem State.ldaLanes_congr {s t : State} (h : t.ops = s.ops) (key : Nat) : t.ldaLanes key = s.ldaLanes key := by
  rw [State.ldaLanes, State.ldaLanes, h]

/-! ## What fences leave -/

theorem State.settleScOf_none (s : State) (key : Nat) : ∀ x ∈ (s.settleScOf key).scStores, x.team ≠ key := by
  rw [State.settleScOf, State.performScFor]
  dsimp only
  generalize hk : (s.scStores.reverse.dropWhile (fun b => !(b.team == key))).length = k
  have hrest : ∀ x ∈ s.scStores.drop k, x.team ≠ key := by
    have htake : s.scStores.drop k = (s.scStores.reverse.takeWhile (fun b => !(b.team == key))).reverse := by
      have hsplit : s.scStores = (s.scStores.reverse.dropWhile (fun b => !(b.team == key))).reverse
          ++ (s.scStores.reverse.takeWhile (fun b => !(b.team == key))).reverse := by
        rw [← List.reverse_append, List.takeWhile_append_dropWhile, List.reverse_reverse]
      conv_lhs => rw [hsplit]
      exact List.drop_left' (by rw [List.length_reverse, hk])
    intro x hx
    rw [htake, List.mem_reverse] at hx
    simpa using List.mem_takeWhile_imp hx
  split
  next hzero =>
    rw [hzero, List.drop_zero] at hrest
    exact hrest
  next => exact hrest

theorem Team.key_of_course {t u : Team} (h : u.course = t.course) : u.key = t.key := (congrArg Team.key h :)

theorem Team.index_of_course {t u : Team} (h : u.course = t.course) : u.index = t.index := (congrArg Team.index h :)

section LoadsBack

variable (s : State)

theorem sameCourse_landRead (o : AsyncOp) (l : LdaLane) : SameCourse s (s.landRead o l) := by
  unfold State.landRead
  dsimp only
  refine .trans ?_ (sameCourse_afterLoad _ _ _ _ _ _ _)
  have hland (v : BitVec 64) : SameCourse s (s.landValue o l v) := ⟨rfl, rfl⟩
  have hsaw (v : BitVec 64) (c : Bool) (p a n : Nat) : SameCourse s
      (if c = true then (s.landValue o l v).engineSaw o.team o.stamp p a n else s.landValue o l v) := by
    split
    · exact (hland v).trans ((sameCourse_modTeam _ _ fun t => by simp).trans (sameCourse_reported _ _ _))
    · exact hland v
  split
  · exact (hsaw _ _ _ _ _).trans (sameCourse_modTeam _ _ fun t => by simp)
  · exact hsaw _ _ _ _ _

theorem sameCourse_landLane (o : AsyncOp) (l : LdaLane) : SameCourse s (s.landLane o l) := by
  unfold State.landLane
  split
  · exact ⟨rfl, rfl⟩
  · exact sameCourse_landRead s o l

theorem sameCourse_landTeam : SameCourse s s.landTeam := .foldl (fun v (x : AsyncOp × LdaLane) => sameCourse_landLane v x.1 x.2) _ s

theorem sameCourse_loadsBack : SameCourse s s.loadsBack :=
  (sameCourse_runAtomics s _).trans ((sameCourse_landTeam _).trans (sameCourse_withTeam _ (by simp)))

theorem sameCourse_settled : SameCourse s s.loadsBack.settleSc := (sameCourse_loadsBack s).trans (.of_eq (by simp) (by simp))

theorem settled_key : s.loadsBack.settleSc.team.key = s.team.key := Team.key_of_course (sameCourse_settled s).course

theorem settled_cores : s.loadsBack.settleSc.teamCores = s.crew.cores := by
  rw [State.teamCores, ((samePackage_loadsBack s).trans (samePackage_settleSc _)).crew]

theorem settled_unchecked : ∀ w ∈ s.loadsBack.settleSc.team.unchecked, w.mem = false := by
  intro w hw
  rw [State.settleSc_team, State.loadsBack, State.withTeam_team] at hw
  exact Team.flushLoads_unchecked hw

theorem settled_atomics : ∀ x ∈ s.loadsBack.settleSc.atomics, x.team ≠ s.team.key := by
  rw [State.settleSc_atomics, State.loadsBack_atomics]
  exact State.runAtomics_none s _

theorem settled_ldaLanes : s.loadsBack.settleSc.ldaLanes s.team.key = [] := by
  rw [State.ldaLanes_congr (State.settleSc_ops _), State.ldaLanes_congr (s := (s.runAtomics s.team.key).landTeam) (t := s.loadsBack) rfl]
  have hkey : (s.runAtomics s.team.key).team.key = s.team.key := Team.key_of_course (sameCourse_runAtomics s _).course
  have hland := State.landTeam_ldaLanes (s.runAtomics s.team.key)
  rwa [hkey] at hland

theorem settled_scStores : ∀ x ∈ s.loadsBack.settleSc.scStores, x.team ≠ s.team.key := by
  have hkey : s.loadsBack.team.key = s.team.key := Team.key_of_course (sameCourse_loadsBack s).course
  exact hkey ▸ State.settleScOf_none s.loadsBack s.loadsBack.team.key

/-- What every fence does first: the team's accesses that a fence orders have been performed, but for what its buffers hold. -/
structure Settled (t : State) : Prop where
  package : SamePackage s t
  course : t.team.course = s.team.course
  unchecked : ∀ w ∈ t.team.unchecked, w.mem = false
  atomics : ∀ x ∈ t.atomics, x.team ≠ s.team.key
  ldaLanes : t.ldaLanes s.team.key = []
  scStores : ∀ x ∈ t.scStores, x.team ≠ s.team.key

theorem settled_drainSeen : Settled s s.loadsBack.settleSc.drainSeen where
  package := samePackage_fenceDev s
  course := by rw [State.drainSeen_team]; exact (sameCourse_settled s).course
  unchecked := by rw [State.drainSeen_team]; exact settled_unchecked s
  atomics := by rw [State.drainSeen_atomics]; exact settled_atomics s
  ldaLanes := by rw [State.ldaLanes_congr (State.drainSeen_ops _)]; exact settled_ldaLanes s
  scStores := by rw [State.drainSeen_scStores]; exact settled_scStores s

omit s in
theorem State.publish_keeps {α : Type} (g : State → α) (hg : ∀ s k ts p, g (State.seeBytes s k ts p) = g s) (s : State) : g s.publish = g s :=
  State.foldl_keeps _ g (fun _ _ => hg _ _ _ _) _ s

theorem settled_publish : Settled s s.loadsBack.settleSc.publish where
  package := samePackage_fenceCore s
  course := by rw [State.publish_keeps (·.team) State.seeBytes_team]; exact (sameCourse_settled s).course
  unchecked := by rw [State.publish_keeps (·.team) State.seeBytes_team]; exact settled_unchecked s
  atomics := by rw [State.publish_keeps (·.atomics) State.seeBytes_atomics]; exact settled_atomics s
  ldaLanes := by rw [State.ldaLanes_congr (State.publish_keeps (·.ops) State.seeBytes_ops _)]; exact settled_ldaLanes s
  scStores := by rw [State.publish_keeps (·.scStores) State.seeBytes_scStores]; exact settled_scStores s

omit s in
/-- Steps over cores that keep the team may take its key from where they begin. -/
theorem State.foldl_key (g : Nat → State → Nat → State) (hg : ∀ n v k, (g n v k).team = v.team) (ks : List Nat) (s : State) :
    ks.foldl (fun v k => g v.team.key v k) s = ks.foldl (g s.team.key) s := by
  induction ks generalizing s with
  | nil => rfl
  | cons k ks ih => rw [List.foldl_cons, List.foldl_cons, ih, hg]

/-- A fence at .dev leaves in the buffers of the crew's cores no store that the team has made or observed. -/
theorem fenceDev_wcb {k : Nat} (hk : k ∈ s.crew.cores) : ∀ x ∈ (s.fenceDev.core k).wcb, x.of s.team.key = false ∧ s.team.key ∉ x.seen := by
  intro x hx
  rw [State.fenceDev, State.drainSeen, State.foldl_key (fun key v k => v.drainWith k (fun b => b.of key || b.seen.contains key))
    (fun _ _ _ => State.drainWith_team _ _ _), settled_key, settled_cores] at hx
  simpa using (State.mem_of_mem_drainCores _ hx).2 hk

/-- A fence at .core makes every buffered store of the team one that it has observed. -/
theorem fenceCore_wcb {k : Nat} (hk : k ∈ s.crew.cores) : ∀ x ∈ (s.fenceCore.core k).wcb, x.published s.team.key := by
  rw [State.fenceCore, State.publish, State.foldl_key (fun key v k => v.seeBytes k [key] (fun b => b.of key || b.seen.contains key))
    (fun _ _ _ => State.seeBytes_team _ _ _ _), settled_key, settled_cores]
  exact State.published_of_publish _ (.inl hk)

end LoadsBack

section Fenced

variable {s t : State} {sc : Nat} (h : Settled s t) (hpublished : ∀ k ∈ s.crew.cores, ∀ x ∈ (t.core k).wcb, x.published s.team.key)
include h hpublished

theorem Settled.fenced (hdrained : (3 ≤ sc ∨ (sc = 1 ∧ s.crew.pair = true)) →
    ∀ k ∈ s.crew.cores, ∀ x ∈ (t.core k).wcb, x.of s.team.key = false ∧ s.team.key ∉ x.seen) : Claims.Fenced s t.orderAfter sc :=
  ⟨h.unchecked, h.atomics, h.ldaLanes, h.scStores, hdrained, hpublished, h.package.crew, h.package.ctx, (Team.pc_of_course h.course :),
    (Team.preds_of_course h.course :), (Team.mask_of_course h.course :)⟩

end Fenced

theorem fenced_fenceDev (s : State) (sc : Nat) : Claims.Fenced s s.fenceDev.orderAfter sc :=
  (settled_drainSeen s).fenced (fun _ hk x hx hof => absurd (hof.symm.trans (fenceDev_wcb s hk x hx).1) Bool.noConfusion)
    fun _ _ hk => fenceDev_wcb s hk

theorem fenced_fenceAt (s : State) (sc : Nat) : Claims.Fenced s (s.fenceAt sc) sc := by
  have hcore (hnot : ¬(3 ≤ sc ∨ (sc = 1 ∧ s.crew.pair = true))) : Claims.Fenced s s.fenceCore.orderAfter sc :=
    (settled_publish s).fenced (fun _ hk => fenceCore_wcb s hk) fun hdrains => absurd hdrains hnot
  rw [State.fenceAt]
  split
  next => exact fenced_fenceDev s sc
  next hsmall =>
    split
    next hcrew =>
      rw [State.fenceCrew]
      split
      next => exact fenced_fenceDev s sc
      next hone => exact hcore (by simp [hcrew, hone])
    next hno => exact hcore fun h => h.elim hsmall fun h => hno h.1

theorem fenceAt_course (s : State) (sc : Nat) : (s.fenceAt sc).team.course = s.team.course := by
  have horder (t : State) (h : Settled s t) : t.orderAfter.team.course = s.team.course := h.course
  rw [State.fenceAt]
  split
  · exact horder _ (settled_drainSeen s)
  · split
    · rw [State.fenceCrew]
      split
      · exact horder _ (settled_drainSeen s)
      · exact horder _ (settled_publish s)
    · exact horder _ (settled_publish s)

end Sys2Proof.Machine
end

section
/-! What FENCE, FENCE.MX, FENCE.SMP, WAITV and PREF do (R240, R255, R256, R273, R274, R276, R277). -/

namespace Sys2Proof.Machine

theorem fenceWaits_iff (s : State) (sc : Nat) : s.fenceWaits sc = true ↔ Claims.FenceHeld s sc := by
  have hwork (o : AsyncOp) : (match o.work with | .remote _ _ => true | _ => false) = true ↔ ∃ k a, o.work = .remote k a := by
    cases o.work <;> simp
  simp only [State.fenceWaits, State.remotePending, State.opsOf, Claims.FenceHeld, Bool.and_eq_true, beq_iff_eq, List.any_eq_true,
    List.mem_filter, Bool.not_eq_true', and_assoc]
  exact and_congr_right fun _ => exists_congr fun o => and_congr_right fun _ => and_congr_right fun _ => and_congr_right fun _ => hwork o

theorem Hidden.enginesSee_fence {h : Hidden} {k now : Nat} {wide : Bool} (hdue : (h.fence k now wide).due = none)
    (hseen : k ∈ (h.fence k now wide).lanesSee ∨ k ∈ (h.fence k now wide).readers) : k ∈ (h.fence k now wide).enginesSee := by
  unfold Hidden.fence at hdue hseen ⊢
  split
  next => exact List.mem_eraseDups.mpr List.mem_cons_self
  next hnot =>
    rw [if_neg hnot] at hdue hseen
    simp [hdue, hseen] at hnot

/-- After FENCE.MX the engines see every scratchpad store in force that the team has made or observed. -/
theorem enginesSee_mapHidden {s : State} {k now : Nat} {wide : Bool} : ∀ h ∈ (s.mapHidden (fun h => h.fence k now wide)).crew.hidden,
    h.due = none → k ∈ h.lanesSee ∨ k ∈ h.readers → k ∈ h.enginesSee := by
  intro h hmem hdue hseen
  obtain ⟨h, -, rfl⟩ := List.mem_map.mp (List.mem_of_mem_filter hmem)
  exact Hidden.enginesSee_fence hdue hseen

/-! ## The fences -/

theorem samePackage_fenceAt (s : State) (sc : Nat) : SamePackage s (s.fenceAt sc) := by
  rw [State.fenceAt, State.orderAfter]
  refine .trans ?_ (samePackage_withTeam _ _)
  split
  · exact samePackage_fenceDev s
  · split
    · exact samePackage_fenceCrew s
    · exact samePackage_fenceCore s

section Fences

variable {s : State} {b : Bool} {sc : BitVec 3} {u : Team} {r : State} (hu : u = s.team.belay b) (hr : r = s.withTeam u)
include hu hr

omit hr in
theorem fences_of_empty (hempty : u.active = []) :
    ∀ i ∈ [Instr.fence b sc, .fenceMx b sc, .fenceSmp b sc], exec i s = .next (s.withTeam (u.advance 1)) := by
  subst hu
  intro i hi
  simp only [List.mem_cons, List.not_mem_nil, or_false] at hi
  rcases hi with rfl | rfl | rfl
  · exact if_pos hempty
  · exact if_pos hempty
  · exact if_pos hempty

theorem fences_of_held (hactive : u.active ≠ []) (hheld : Claims.FenceHeld r sc.toNat) :
    ∀ i ∈ [Instr.fence b sc, .fenceMx b sc, .fenceSmp b sc], exec i s = .next r.waits := by
  have hwaits := (fenceWaits_iff r sc.toNat).mpr hheld
  subst hr hu
  intro i hi
  simp only [List.mem_cons, List.not_mem_nil, or_false] at hi
  rcases hi with rfl | rfl | rfl
  · exact (if_neg hactive).trans (if_pos hwaits)
  · exact (if_neg hactive).trans (if_pos hwaits)
  · exact (if_neg hactive).trans (if_pos (.inl hwaits))

variable {f : State} (hf : f = r.fenceAt sc.toNat) (hactive : u.active ≠ []) (hfree : ¬Claims.FenceHeld r sc.toNat)
include hactive hfree

omit hf in
theorem exec_fenceSmp_dropping (hdrop : s.team.dropping ≠ none) : exec (.fenceSmp b sc) s = .next r.waits := by
  have hdropping : (s.withTeam (s.team.belay b)).team.dropping.isSome = true := by
    rw [State.withTeam_team, Team.belay_dropping]
    exact Option.isSome_iff_ne_none.mpr hdrop
  subst hr hu
  exact (if_neg hactive).trans (if_pos (.inr hdropping))

include hf

theorem exec_fence_of_free : exec (.fence b sc) s = .next (f.withTeam (f.team.advance 1)) := by
  have hwaits : ¬r.fenceWaits sc.toNat = true := fun h => hfree ((fenceWaits_iff r sc.toNat).mp h)
  subst hf hr hu
  exact (if_neg hactive).trans (if_neg hwaits)

theorem exec_fenceMx_of_free {x : State} (hx : x = f.mapHidden (fun h => h.fence f.team.index f.tick (f.crew.coveredBy sc.toNat))) :
    exec (.fenceMx b sc) s = .next (x.withTeam (x.team.advance 1)) := by
  have hwaits : ¬r.fenceWaits sc.toNat = true := fun h => hfree ((fenceWaits_iff r sc.toNat).mp h)
  have hindex : f.team.index = r.team.index := by rw [hf]; exact Team.index_of_course (fenceAt_course r sc.toNat)
  have htick : f.tick = r.tick := by rw [hf]; exact (samePackage_fenceAt r sc.toNat).tick
  have hcrew : f.crew = r.crew := by rw [hf]; exact (samePackage_fenceAt r sc.toNat).crew
  rw [hx, hindex, htick, hcrew]
  subst hf hr hu
  exact (if_neg hactive).trans (if_neg hwaits)

theorem exec_fenceSmp_of_free (hdrop : s.team.dropping = none) :
    exec (.fenceSmp b sc) s = .next (f.withTeam { f.team with dropping := some sc.toNat }) := by
  have hwaits : ¬(r.fenceWaits sc.toNat = true ∨ r.team.dropping.isSome = true) := by
    rintro (h | h)
    · exact hfree ((fenceWaits_iff r sc.toNat).mp h)
    · rw [hr, hu] at h
      exact absurd h (by rw [State.withTeam_team, Team.belay_dropping, hdrop]; exact Bool.false_ne_true)
  subst hf hr hu
  exact (if_neg hactive).trans (if_neg hwaits)

end Fences

/-! ## WAITV -/

theorem State.waitEntries_congr {s t : State} {key : Nat} (hteam : t.team.key = key) (hteam' : s.team.key = key) (hteams : t.teams = s.teams)
    (hcrew : t.crew = s.crew) (hcrews : t.crews = s.crews) (hctx : t.ctx = s.ctx) (hctxs : t.ctxs = s.ctxs) (core : Nat) :
    t.waitEntries key core = s.waitEntries key core := by
  have hall (v : State) (hv : v.team.key = key) (p : Team → Bool) :
      (v.allTeams.filter (fun t => t.key != key && p t)) = v.teams.filter (fun t => t.key != key && p t) := by
    rw [State.allTeams]
    split
    · rfl
    · rw [List.filter_cons, hv, bne_self_eq_false, Bool.false_and]
      exact if_neg Bool.false_ne_true
  have honCores : t.onCores = s.onCores := by
    funext c
    rw [State.onCores, State.onCores, State.ctx?, State.ctx?, hctx, hctxs]
  have hcrewAt : t.crew? = s.crew? := by
    funext c
    rw [State.crew?, State.crew?, hcrew, hcrews]
  simp only [State.waitEntries, Bool.and_assoc]
  rw [hall t hteam, hall s hteam', hteams, honCores, hcrewAt]

section Waitv

variable {s : State} {b : Bool} {a c : BitVec 6} {u : Team} {va core : Nat} {loc : Loc} {s0 s1 : State} {v : Word}
  (hu : u = s.team.belay b) (hva : va = (u.srd64 a.toNat).toNat) (hcore : core = s.crew.coreOf u 0) (hactive : u.active ≠ [])
  (haligned : va % 4 = 0) (hinside : va < 2 ^ 57) (hloc : s.translate core va .read = .ok loc) (hws : loc.ws = false)
  (hs0 : s0 = (s.withTeam u).prepareLoad 3 4 [(0, va, loc)]) (hs1 : s1 = (s0.concludeNow core loc 4).touch [⟨0, va, .ok loc⟩])
  (hv : v = BitVec.ofNat 32 (s0.loadVal core u.key true loc 4))
include hu hva hcore hactive haligned hinside hloc hws hs0 hs1 hv

theorem execWaitv_of_differs (hdiffers : v ≠ u.srd c.toNat) : exec (.waitv b a c) s = .next (s1.withTeam (s1.team.advance 1)) := by
  have hacc : s.scalarAcc u .read va = ⟨0, va, .ok loc⟩ := by rw [State.scalarAcc, ← hcore, hloc]
  subst hu
  show execWaitv b a c s = _
  rw [execWaitv, if_neg hactive, ← hva]
  simp only [hacc, precheck_scalar haligned hinside, hws, Bool.false_eq_true, if_false, ← hcore, ← hs0, ← hs1, ← hv, if_pos hdiffers]

theorem execWaitv_of_same (hsame : v = u.srd c.toNat) : exec (.waitv b a c) s = .next (s1.withTeam
    { s1.team with state := .parked, park := .waitv loc v (decide (64 ≤ s1.waitEntries u.key core)) false }) := by
  have hacc : s.scalarAcc u .read va = ⟨0, va, .ok loc⟩ := by rw [State.scalarAcc, ← hcore, hloc]
  subst hu
  show execWaitv b a c s = _
  rw [execWaitv, if_neg hactive, ← hva]
  simp only [hacc, precheck_scalar haligned hinside, hws, Bool.false_eq_true, if_false, ← hcore, ← hs0, ← hs1, ← hv, ← hsame,
    ne_eq, not_true_eq_false]

end Waitv

theorem State.concludeNow_team (s : State) (core : Nat) (l : Loc) (n : Nat) :
    (s.concludeNow core l n).team = (s.team.fixLoads false (l.span n)).saw (l.readAddr core 0) n s.tick s.tick := by
  rw [State.concludeNow]
  simp

/-- What WAITV's read leaves: the team has noted it, and memory, crews and contexts are as before it. -/
theorem State.concludeNow_waitEntries {s t : State} {core key : Nat} {l : Loc} {ls : List LaneAcc} (ht : t = (s.concludeNow core l 4).touch ls)
    (hkey : s.team.key = key) : t.waitEntries key core = s.waitEntries key core := by
  have hpackage : SamePackage s t := ht ▸ (samePackage_concludeNow s core l 4).trans (samePackage_touch _ ls)
  have hteams : t.teams = s.teams := by
    rw [ht, State.touch_teams, State.concludeNow]
    exact State.afterLoad_teams s _ _ _ _ _ _
  have hkey' : t.team.key = key := by
    rw [ht, State.touch_team, State.concludeNow_team]
    exact hkey
  exact State.waitEntries_congr hkey' hkey hteams hpackage.crew hpackage.crews hpackage.ctx hpackage.ctxs core

/-! ## PREF -/

/-- What PREF keeps: memory with what is on its way there, the buffers, crew, context and team. -/
structure Prefetched (s t : State) : Prop where
  package : SamePackage s t
  team : t.team = s.team
  dev : t.dev = s.dev
  mem : t.mem = s.mem
  openMem : t.openMem = s.openMem
  scStores : t.scStores = s.scStores
  wcb : ∀ k, (t.core k).wcb = (s.core k).wcb

section Prefetched

variable {s t u : State}

theorem Prefetched.refl (s : State) : Prefetched s s := ⟨.refl s, rfl, rfl, rfl, rfl, rfl, fun _ => rfl⟩

theorem Prefetched.trans (h : Prefetched s t) (h' : Prefetched t u) : Prefetched s u :=
  ⟨h.package.trans h'.package, h'.team.trans h.team, h'.dev.trans h.dev, h'.mem.trans h.mem, h'.openMem.trans h.openMem,
    h'.scStores.trans h.scStores, fun k => (h'.wcb k).trans (h.wcb k)⟩

theorem Prefetched.foldl {α : Type} {f : State → α → State} (h : ∀ s a, Prefetched s (f s a)) (l : List α) (s : State) :
    Prefetched s (l.foldl f s) := by
  induction l generalizing s with
  | nil => exact .refl s
  | cons a l ih => exact (h s a).trans (ih _)

theorem Prefetched.sameMemory (h : Prefetched s t) : SameMemory s t :=
  sliceByte_congr h.dev h.package.tick h.mem h.openMem h.package.bankOld h.package.bankCmds

theorem prefetched_fillL1 (s : State) (k team : Nat) (l : Loc) : Prefetched s (s.fillL1 k team l) := by
  refine ⟨by constructor <;> simp, by simp, by simp, by simp, by simp, by simp, fun j => ?_⟩
  rw [State.fillL1]
  split
  · rfl
  · exact State.core_modCore_keeps (·.wcb) s k rfl j

theorem prefetched_fillLine (s : State) (k team : Nat) (l : Loc) : Prefetched s (s.fillLine k team l) :=
  .foldl (fun s _ => prefetched_fillL1 s _ _ _) _ s

theorem walked_of_never (hnever : NeverReports) (s : State) (c : Context) (die va : Nat) : s.walked c die va = s := by
  unfold State.walked
  split
  · rfl
  · exact State.foldl_keeps _ id (fun v p => State.reported_of_never hnever v _ _) _ s

theorem fillDieTlb_dev (hnever : NeverReports) (s : State) (c : Context) (die va : Nat) : (s.fillDieTlb c die va).dev = s.dev := by
  unfold State.fillDieTlb
  split <;> rw [walked_of_never hnever]

theorem fillTlb_dev (hnever : NeverReports) (s : State) (c : Context) (k va : Nat) : (s.fillTlb c k va).dev = s.dev := by
  unfold State.fillTlb
  split
  · rfl
  · split
    · rw [walked_of_never hnever]
    · exact (State.modCore_dev _ _ _).trans (fillDieTlb_dev hnever s _ _ _)

theorem prefetched_touch (hnever : NeverReports) (s : State) (ls : List LaneAcc) : Prefetched s (s.touch ls) where
  package := samePackage_touch s ls
  team := State.touch_team s ls
  dev := State.foldl_keeps _ (·.dev) (fun v (_ : LaneAcc) => fillTlb_dev hnever v _ _ _) ls s
  mem := State.touch_mem s ls
  openMem := State.touch_openMem s ls
  scStores := State.touch_scStores s ls
  wcb := State.touch_wcb s ls

end Prefetched

/-- The state in which PREF has started its fills. -/
def State.prefetch (s : State) (t : Team) (l : Bool) (ls : List LaneAcc) : State :=
  (if l then (located ls).foldl (fun s x =>
    (s.fillLine (s.crew.coreOf t (x.1 / 32)) t.key x.2.2).hasRead (s.crew.coreOf t (x.1 / 32)) [{ x.2.2 with pa := x.2.2.pa / 128 * 128 }] 128) s
    else s).touch ls

theorem prefetched_prefetch (hnever : NeverReports) (s : State) (t : Team) (l : Bool) (ls : List LaneAcc) : Prefetched s (s.prefetch t l ls) := by
  refine .trans ?_ (prefetched_touch hnever _ ls)
  split
  · refine .foldl (fun s _ => ?_) _ s
    rw [State.hasRead_of_never hnever]
    exact prefetched_fillLine s _ _ _
  · exact .refl s

theorem execPref_of_ok {s : State} {b l : Bool} {a : BitVec 7} {c : BitVec 6} {u : Team} (hu : u = s.team.belay b)
    (hok : s.team.namesOk [a.toNat] = true) : exec (.pref b l a c) s = .next ((s.prefetch u l
      (s.lanesAt u .read (fun lane => addOffset ((u.srd64 c.toNat).toNat + (u.rd a.toNat lane).toNat) 0))).withTeam (u.advance 1)) := by
  subst hu
  show execPref b l a c s = _
  rw [execPref, hok]
  rfl

/-! ## The statement, but for the free values -/

/-- The statement of O38 follows if no read ever reports an armed injection; `not_fencesWaitsAndPrefetch_of_report` is the other case. -/
theorem fencesWaitsAndPrefetch_of_neverReports (hnever : NeverReports) : Obligations.FencesWaitsAndPrefetch := by
  unfold Obligations.FencesWaitsAndPrefetch
  intro s b l sc a7 a c u r f x hu hr hf hx
  refine ⟨?empty, ?fences, ?fenced, ?seen, fun hactive hheld => fences_of_held hu hr hactive hheld, ?waitv, ?pref⟩
  case empty =>
    intro hempty i hi
    rcases List.mem_append.mp (show i ∈ [Instr.fence b sc, .fenceMx b sc, .fenceSmp b sc] ++ [.waitv b a c] from hi) with hfence | hwait
    · exact fences_of_empty hu hempty i hfence
    · rw [List.mem_singleton.mp hwait]
      subst hu
      exact if_pos hempty
  case fences =>
    intro hactive hfree
    exact ⟨exec_fence_of_free hu hr hf hactive hfree, exec_fenceMx_of_free hu hr hf hactive hfree hx,
      fun hdrop => exec_fenceSmp_of_free hu hr hf hactive hfree hdrop, fun hdrop => exec_fenceSmp_dropping hu hr hactive hfree hdrop⟩
  case fenced => exact hf ▸ fenced_fenceAt r sc.toNat
  case seen =>
    have hindex : f.team.index = s.team.index := by
      rw [hf, ← Team.belay_index s.team b, ← hu]
      exact (Team.index_of_course (fenceAt_course r sc.toNat)).trans (congrArg (fun v => v.team.index) hr :)
    rw [hx, hindex]
    exact enginesSee_mapHidden
  case waitv =>
    intro va loc core s0 v w hva hcore hactive haligned hinside hloc hws hs0 hv hw
    obtain ⟨s1, hs1⟩ : ∃ s1, s1 = (s0.concludeNow core loc 4).touch [⟨0, va, .ok loc⟩] := ⟨_, rfl⟩
    rw [hr] at hs0
    have hpackage : SamePackage s s1 := (samePackage_withTeam s u).trans
      ((hs0 ▸ samePackage_prepareLoad _ 3 4 _ : SamePackage (s.withTeam u) s0).trans
        (hs1 ▸ (samePackage_concludeNow s0 core loc 4).trans (samePackage_touch _ _)))
    have hmem : s1.mem = s0.mem := by rw [hs1, State.touch_mem, State.concludeNow_mem]
    have hteam : s1.team = w := by rw [hs1, hw, State.touch_team, State.concludeNow_team]
    have hkey : s0.team.key = u.key := by
      rw [hs0]
      exact Team.key_of_course (sameCourse_prepareLoad (s.withTeam u) 3 4 _).course
    by_cases hv' : v = u.srd c.toNat
    · refine ⟨_, execWaitv_of_same hu hva hcore hactive haligned hinside hloc hws hs0 hs1 hv hv', hmem, hpackage.crew, hpackage.ctx,
        fun hne => absurd hv' hne, fun _ => ?_⟩
      rw [State.withTeam_team, hteam, State.concludeNow_waitEntries hs1 hkey]
    · exact ⟨_, execWaitv_of_differs hu hva hcore hactive haligned hinside hloc hws hs0 hs1 hv hv', hmem, hpackage.crew, hpackage.ctx,
        fun _ => by rw [State.withTeam_team, hteam], fun heq => absurd heq hv'⟩
  case pref =>
    intro hok
    have hpref := prefetched_prefetch hnever s u l
      (s.lanesAt u .read (fun lane => addOffset ((u.srd64 c.toNat).toNat + (u.rd a7.toNat lane).toNat) 0))
    exact ⟨_, execPref_of_ok hu hok, rfl, hpref.sameMemory, hpref.package.weights, hpref.wcb, hpref.scStores,
      hpref.package.crew, hpref.package.ctx⟩

end Sys2Proof.Machine
end

section
/-! What a store leaves unchanged (R241, R243, R244, R246). -/

namespace Sys2Proof.Machine

/-! ## One byte's frame -/

/-- A byte reads at its home slice as before, and its buffered copies are as before. -/
structure Untouched (p : Nat) (s t : State) : Prop where
  slice : t.sliceByte p = s.sliceByte p
  buffered : ∀ k, (t.core k).buffered p = (s.core k).buffered p

theorem Untouched.refl (p : Nat) (s : State) : Untouched p s s := ⟨rfl, fun _ => rfl⟩

theorem Untouched.trans {p : Nat} {s t u : State} (h : Untouched p s t) (h' : Untouched p t u) : Untouched p s u :=
  ⟨h'.slice.trans h.slice, fun k => (h'.buffered k).trans (h.buffered k)⟩

theorem Untouched.foldl_of_mem {p : Nat} {α : Type} {f : State → α → State} (l : List α)
    (h : ∀ s, ∀ a ∈ l, Untouched p s (f s a)) (s : State) : Untouched p s (l.foldl f s) := by
  induction l generalizing s with
  | nil => exact .refl p s
  | cons a l ih => exact (h s a List.mem_cons_self).trans (ih (fun s b hb => h s b (List.mem_cons_of_mem _ hb)) _)

theorem Untouched.of_prefetched {p : Nat} {s t : State} (h : Prefetched s t) : Untouched p s t :=
  ⟨h.sameMemory p, fun k => by rw [CoreState.buffered, CoreState.buffered, h.wcb k]⟩

/-- A range that the device has written in no given form, once a byte has been written. -/
def OpenRange.overwrite (q : Nat) (r : OpenRange) : OpenRange :=
  if r.base ≤ q ∧ q < r.base + r.size ∧ ¬(q ∈ r.written) then { r with written := q :: r.written } else r

theorem openAt_overwrite (rs : List OpenRange) {p q : Nat} (h : p ≠ q) :
    (openAt (rs.map (OpenRange.overwrite q)) p).map OpenRange.stamp = (openAt rs p).map OpenRange.stamp := by
  induction rs with
  | nil => rfl
  | cons r rs ih =>
    have hstamp : (r.overwrite q).stamp = r.stamp := by unfold OpenRange.overwrite; split <;> rfl
    have hbase : (r.overwrite q).base = r.base := by unfold OpenRange.overwrite; split <;> rfl
    have hsize : (r.overwrite q).size = r.size := by unfold OpenRange.overwrite; split <;> rfl
    have hwritten : (r.overwrite q).written.contains p = r.written.contains p := by
      unfold OpenRange.overwrite
      split
      · simp [h]
      · rfl
    rw [openAt, openAt, List.map_cons, List.find?_cons, List.find?_cons, hbase, hsize, hwritten]
    split
    · exact congrArg some hstamp
    · exact ih

theorem State.memByte_setMem_of_ne (s : State) {p q : Nat} (v : Byte) (h : p ≠ q) : (s.setMem q v).memByte p = s.memByte p := by
  have hopen := openAt_overwrite s.openMem h
  have hmem : (s.setMem q v).mem.get p = s.mem.get p := FMap.get_set_ne s.mem v h
  have hopen' : (s.setMem q v).openMem = s.openMem.map (OpenRange.overwrite q) := rfl
  rw [State.memByte, State.memByte, hmem, hopen']
  cases hx : openAt (s.openMem.map (OpenRange.overwrite q)) p with
  | none =>
    rw [hx] at hopen
    rw [Option.map_eq_none_iff.mp hopen.symm]
  | some r =>
    rw [hx] at hopen
    obtain ⟨r', hr', hstamp⟩ := Option.map_eq_some_iff.mp hopen.symm
    rw [hr']
    simp only [hstamp]

theorem State.sliceByte_putByte_of_ne (s : State) {p q : Nat} (v : Byte) (h : p ≠ q) : (s.putByte q v).sliceByte p = s.sliceByte p := by
  have hmark : (s.mark (q / 128)).memByte p = s.memByte p := by
    rw [State.mark]
    split <;> rfl
  have hbyte : (s.putByte q v).memByte p = s.memByte p := by
    rw [State.putByte]
    split
    · split
      · exact hmark
      · rw [State.memByte_setMem_of_ne _ v h, hmark]
    · rw [State.memByte_setMem_of_ne _ v h, hmark]
  have hfree : (s.putByte q v).free = s.free := by
    funext kind about
    rw [State.free, State.free, State.putByte_tick]
  have hround : (s.putByte q v).roundWrites = s.roundWrites := by
    funext round p
    rw [State.roundWrites, State.roundWrites, State.putByte_bankCmds]
  rw [State.sliceByte, State.sliceByte, State.putByte_dev, State.putByte_tick, State.putByte_bankOld, hfree, hround, hbyte]

theorem State.sliceByte_performAt_of_ne (s : State) {p q : Nat} (b : StoreByte) (h : p ≠ q) : (s.performAt b q).sliceByte p = s.sliceByte p :=
  State.sliceByte_putByte_of_ne (s.keep _) b.val h

theorem untouched_performAt (s : State) {p q : Nat} (b : StoreByte) (h : p ≠ q) : Untouched p s (s.performAt b q) :=
  ⟨State.sliceByte_performAt_of_ne s b h, fun k => by rw [State.core_congr (State.performAt_cores s b q)]⟩

/-- A byte lies in the line of an address, or in its replica's. -/
def InLineOf (addr p : Nat) : Prop := p / 128 = addr / 128 ∨ p / 128 = (addr + 2 ^ 39) / 128

theorem untouched_perform (s : State) {p : Nat} (b : StoreByte) (h : ¬InLineOf b.addr p) : Untouched p s (s.perform b) := by
  have hne : p ≠ b.addr := fun heq => h (.inl (by rw [heq]))
  have hne' : p ≠ b.addr + 2 ^ 39 := fun heq => h (.inr (by rw [heq]))
  rw [State.perform]
  split
  · exact (untouched_performAt s b hne).trans (untouched_performAt _ b hne')
  · exact untouched_performAt s b hne

theorem CoreState.buffered_filter {k k' : CoreState} {p : Nat} {f : StoreByte → Bool} (h : k'.wcb = k.wcb.filter f)
    (hf : ∀ b, b.addr = p → f b = true) : k'.buffered p = k.buffered p := by
  rw [CoreState.buffered, CoreState.buffered, h, List.find?_filter]
  refine congrArg _ (congrArg (fun g => List.find? g k.wcb) (funext fun b => ?_))
  by_cases hb : b.addr = p
  · simp [hf b hb, hb]
  · simp [hb]

theorem untouched_drainLine (s : State) {p addr line : Nat} (k : Nat) (hline : line = addr / 128) (h : ¬InLineOf addr p) :
    Untouched p s (s.drainLine k line) := by
  refine ⟨?_, fun j => ?_⟩
  · rw [State.drainLine]
    refine .trans rfl (Untouched.foldl_of_mem (p := p) ((s.core k).wcb.filter (fun b => b.addr / 128 == line))
      (f := fun s b => (s.keepBuffered k b).perform b) (fun s b hb => ?_) s).slice
    have haddr : b.addr / 128 = addr / 128 := hline ▸ eq_of_beq (List.mem_filter.mp hb).2
    have hb' : ¬InLineOf b.addr p := by
      unfold InLineOf at h ⊢
      omega
    have hkeep : Untouched p s (s.keepBuffered k b) := ⟨rfl, fun _ => rfl⟩
    exact hkeep.trans (untouched_perform _ b hb')
  · have hwcb := State.drainLine_wcb s k line j
    by_cases hj : j = k
    · rw [if_pos hj] at hwcb
      refine (CoreState.buffered_filter hwcb fun b hb => ?_).trans (by rw [hj])
      rw [hb, bne_iff_ne, hline]
      exact fun heq => h (.inl heq)
    · rw [if_neg hj] at hwcb
      rw [CoreState.buffered, CoreState.buffered, hwcb]

theorem untouched_drainWith (s : State) {p addr : Nat} (k : Nat) {f : StoreByte → Bool} (hf : ∀ b, f b = true → b.addr / 128 = addr / 128)
    (h : ¬InLineOf addr p) : Untouched p s (s.drainWith k f) := by
  refine Untouched.foldl_of_mem _ (fun s line hline => untouched_drainLine s k ?_ h) s
  obtain ⟨b, hb, rfl⟩ := List.mem_map.mp (List.mem_eraseDups.mp hline)
  exact hf b (List.mem_filter.mp hb).2

theorem State.sliceByte_modCore (s : State) (k : Nat) (f : CoreState → CoreState) (p : Nat) : (s.modCore k f).sliceByte p = s.sliceByte p :=
  sliceByte_congr rfl rfl rfl rfl rfl rfl p

theorem untouched_of_wcb {p : Nat} {s t : State} (hslice : t.sliceByte p = s.sliceByte p) (hwcb : ∀ k, (t.core k).wcb = (s.core k).wcb) :
    Untouched p s t := ⟨hslice, fun k => by rw [CoreState.buffered, CoreState.buffered, hwcb k]⟩

@[simp] theorem State.barL1_wcb (s : State) (k team addr j : Nat) : ((s.barL1 k team addr).core j).wcb = (s.core j).wcb :=
  State.core_modCore_keeps (·.wcb) s k (f := fun c => { c with l1 := c.l1.map (fun e =>
    if e.sec == addr / 32 || e.sec == (addr + 2 ^ 39) / 32 then { e with barred := team :: e.barred } else e) }) rfl j

@[simp] theorem State.dropL1_wcb (s : State) (k addr j : Nat) : ((s.dropL1 k addr).core j).wcb = (s.core j).wcb :=
  State.core_modCore_keeps (·.wcb) s k
    (f := fun c => { c with l1 := c.l1.filter (fun e => e.sec != addr / 32 && e.sec != (addr + 2 ^ 39) / 32) }) rfl j

theorem untouched_barL1 (s : State) (k team addr p : Nat) : Untouched p s (s.barL1 k team addr) :=
  untouched_of_wcb (State.sliceByte_modCore s k _ p) (State.barL1_wcb s k team addr)

theorem untouched_dropL1 (s : State) (k addr p : Nat) : Untouched p s (s.dropL1 k addr) :=
  untouched_of_wcb (State.sliceByte_modCore s k _ p) (State.dropL1_wcb s k addr)

theorem untouched_acrossPair (s : State) {p addr : Nat} (core : Nat) (h : ¬InLineOf addr p) : Untouched p s (s.acrossPair core addr) := by
  refine Untouched.foldl_of_mem _ (fun s k _ => .trans (untouched_drainWith s k (fun b hb => ?_) h) (untouched_barL1 _ k _ _ p)) s
  rw [eq_of_beq (Bool.and_eq_true_iff.mp hb).1]

/-! ## What the buffers may hold -/

theorem nodup_eraseDups (l : List Nat) : l.eraseDups.Nodup := by
  induction hn : l.length using Nat.strong_induction_on generalizing l with
  | _ n ih =>
    cases l with
    | nil => exact List.nodup_nil
    | cons a l =>
      rw [List.eraseDups_cons]
      refine List.nodup_cons.mpr ⟨fun hmem => ?_, ih _ ?_ _ rfl⟩
      · simpa using (List.mem_filter.mp (List.mem_eraseDups.mp hmem)).2
      · rw [← hn, List.length_cons]
        exact Nat.lt_succ_of_le (List.length_filter_le _ _)

/-- The lines that each buffer holds are among some. -/
def Within (lines : Nat → List Nat) (s : State) : Prop := ∀ k, ∀ x ∈ (s.core k).wcb, x.addr / 128 ∈ lines k

section Within

variable {lines : Nat → List Nat} {s : State} (h : Within lines s)
include h

theorem Within.drainWith (k : Nat) (f : StoreByte → Bool) : Within lines (s.drainWith k f) :=
  fun j x hx => h j x (State.mem_of_mem_drainWith hx).1

theorem Within.of_wcb {t : State} (hwcb : ∀ k, (t.core k).wcb = (s.core k).wcb) : Within lines t :=
  fun j x hx => h j x (hwcb j ▸ hx)

theorem Within.acrossPair (core addr : Nat) : Within lines (s.acrossPair core addr) := by
  rw [State.acrossPair]
  generalize s.teamCores.filter (fun k => k != core) = ks
  induction ks generalizing s with
  | nil => exact h
  | cons k ks ih => exact ih ((h.drainWith k _).of_wcb (State.barL1_wcb _ k _ _))

theorem Within.lines_subset (k : Nat) : (s.core k).lines ⊆ lines k := by
  intro line hline
  obtain ⟨x, hx, rfl⟩ := List.mem_map.mp (List.mem_eraseDups.mp hline)
  exact h k x (List.mem_filter.mp hx).1

theorem Within.not_full {k line : Nat} (hline : line ∈ lines k) (hfew : (lines k).length ≤ 64) : (s.core k).full line = false := by
  by_contra hfull
  rw [Bool.not_eq_false, CoreState.full, Bool.and_eq_true, decide_eq_true_iff, Bool.not_eq_true', ← Bool.not_eq_true,
    List.contains_iff_mem] at hfull
  obtain ⟨hmany, hnew⟩ := hfull
  have hle := ((List.nodup_cons.mpr ⟨hnew, nodup_eraseDups _⟩).subperm (List.cons_subset.mpr ⟨hline, h.lines_subset k⟩)).length_le
  rw [List.length_cons] at hle
  omega

end Within

/-! ## A byte that enters a buffer -/

/-- The byte with which a store's byte is in a buffer, what it takes the place of counted. -/
def StoreByte.over (b : StoreByte) (old : Option StoreByte) : StoreByte :=
  match old with
  | some o => { b with others := (o.team :: o.others).eraseDups, seen := o.seen }
  | none => b

/-- The state in which a byte that a buffer holds is kept, as another is to take its place. -/
def State.keepOld (s : State) (core : Nat) (old : Option StoreByte) : State :=
  match old with
  | some o => s.keepBuffered core o
  | none => s

/-- A byte enters a buffer that has room for its line. -/
theorem State.bufferByte_of_room {s u : State} {core : Nat} {b : StoreByte} (hu : u = s.acrossPair core b.addr)
    (hroom : (u.core core).full (b.addr / 128) = false) : s.bufferByte core b =
      ((u.keepOld core ((u.core core).wcb.find? (fun c => c.addr == b.addr))).dropL1 core b.addr).modCore core (fun k => { k with
        wcb := k.wcb.filter (fun c => c.addr != b.addr) ++ [b.over ((u.core core).wcb.find? (fun c => c.addr == b.addr))] }) := by
  rw [State.bufferByte, ← hu]
  simp only [hroom, Bool.false_eq_true, if_false]
  cases (u.core core).wcb.find? (fun c => c.addr == b.addr) <;> rfl

@[simp] theorem StoreByte.over_addr (b : StoreByte) (old : Option StoreByte) : (b.over old).addr = b.addr := by cases old <;> rfl

theorem untouched_keepOld (s : State) (core : Nat) (old : Option StoreByte) (p : Nat) : Untouched p s (s.keepOld core old) := by
  cases old <;> exact ⟨rfl, fun _ => rfl⟩

theorem State.keepOld_wcb (s : State) (core : Nat) (old : Option StoreByte) (j : Nat) : ((s.keepOld core old).core j).wcb = (s.core j).wcb := by
  cases old <;> rfl

theorem CoreState.buffered_replace {k k' : CoreState} {p : Nat} {b : StoreByte} (h : k'.wcb = k.wcb.filter (fun c => c.addr != b.addr) ++ [b])
    (hp : p ≠ b.addr) : k'.buffered p = k.buffered p := by
  have hfilter : ({ k with wcb := k.wcb.filter (fun c => c.addr != b.addr) } : CoreState).buffered p = k.buffered p :=
    CoreState.buffered_filter rfl fun c hc => by rw [hc, bne_iff_ne]; exact hp
  rw [← hfilter, CoreState.buffered, CoreState.buffered, h, List.find?_append, List.find?_singleton, if_neg (by simpa using hp.symm),
    Option.or_none]

section BufferByte

variable {lines : Nat → List Nat} {s : State} {core : Nat} {b : StoreByte} (h : Within lines s) (hline : b.addr / 128 ∈ lines core)
  (hfew : (lines core).length ≤ 64)
include h hline hfew

theorem bufferByte_wcb (j : Nat) : ((s.bufferByte core b).core j).wcb = if j = core
    then ((s.acrossPair core b.addr).core core).wcb.filter (fun c => c.addr != b.addr)
      ++ [b.over (((s.acrossPair core b.addr).core core).wcb.find? (fun c => c.addr == b.addr))]
    else ((s.acrossPair core b.addr).core j).wcb := by
  rw [State.bufferByte_of_room rfl ((h.acrossPair core b.addr).not_full hline hfew)]
  split
  next hj => rw [hj, State.core_modCore_self, State.dropL1_wcb, State.keepOld_wcb]
  next hj => rw [State.core_modCore_of_ne _ _ hj, State.dropL1_wcb, State.keepOld_wcb]

theorem Within.bufferByte : Within lines (s.bufferByte core b) := by
  intro j x hx
  rw [bufferByte_wcb h hline hfew] at hx
  split at hx
  next hj =>
    rcases List.mem_append.mp hx with hold | hnew
    · rw [hj]
      exact h.acrossPair core b.addr core x (List.mem_of_mem_filter hold)
    · rw [List.mem_singleton.mp hnew, StoreByte.over_addr, hj]
      exact hline
  next => exact h.acrossPair core b.addr j x hx

/-- What enters a buffer leaves every other byte's copies there, and every home slice, as the other core of a pair leaves them. -/
theorem untouched_bufferByte_of_across {p : Nat} (hp : p ≠ b.addr) (hacross : Untouched p s (s.acrossPair core b.addr)) :
    Untouched p s (s.bufferByte core b) := by
  refine hacross.trans ⟨?_, fun j => ?_⟩
  · rw [State.bufferByte_of_room rfl ((h.acrossPair core b.addr).not_full hline hfew), State.sliceByte_modCore]
    exact ((untouched_keepOld _ core _ p).trans (untouched_dropL1 _ core b.addr p)).slice
  · have hwcb := bufferByte_wcb h hline hfew j
    split at hwcb
    next hj =>
      rw [hj] at hwcb ⊢
      exact CoreState.buffered_replace (b := b.over _) (by rw [StoreByte.over_addr]; exact hwcb) (by rw [StoreByte.over_addr]; exact hp)
    next => rw [CoreState.buffered, CoreState.buffered, hwcb]

theorem untouched_bufferByte {p : Nat} (hp : ¬InLineOf b.addr p) : Untouched p s (s.bufferByte core b) :=
  untouched_bufferByte_of_across h hline hfew (fun heq => hp (.inl (by rw [heq]))) (untouched_acrossPair s core hp)

/-- In a crew of one core no home slice's byte changes. -/
theorem sliceByte_bufferByte (hacross : s.acrossPair core b.addr = s) (p : Nat) : (s.bufferByte core b).sliceByte p = s.sliceByte p := by
  rw [State.bufferByte_of_room rfl ((h.acrossPair core b.addr).not_full hline hfew), hacross, State.sliceByte_modCore]
  exact ((untouched_keepOld _ core _ p).trans (untouched_dropL1 _ core b.addr p)).slice

end BufferByte

/-! ## The lanes of a store -/

section Along

variable {R : State → State → Prop} {I : State → Prop} (hrefl : ∀ s, R s s) (htrans : ∀ s t u, R s t → R t u → R s u)
include hrefl htrans

/-- Steps that keep an invariant and a relation to where they begin keep them all together. -/
theorem foldl_rel {α : Type} {f : State → α → State} (l : List α) (hstep : ∀ s, I s → ∀ a ∈ l, I (f s a) ∧ R s (f s a)) (s : State)
    (hs : I s) : I (l.foldl f s) ∧ R s (l.foldl f s) := by
  induction l generalizing s with
  | nil => exact ⟨hs, hrefl s⟩
  | cons a l ih =>
    obtain ⟨hinv, hrel⟩ := hstep s hs a List.mem_cons_self
    obtain ⟨hinv', hrel'⟩ := ih (fun s hs b hb => hstep s hs b (List.mem_cons_of_mem _ hb)) _ hinv
    exact ⟨hinv', htrans _ _ _ hrel hrel'⟩

variable {lines : Nat → List Nat} {w : Crew} {n : Nat} {ok : List (Nat × Nat × Loc)} {t : Team}
  (hfew : ∀ k, (lines k).length ≤ 64) (hlines : ∀ k, ∀ x ∈ ok, ∀ i < n, (x.2.2.pa + i) / 128 ∈ lines k)
  (hbyte : ∀ s core b, Within lines s → s.crew = w → (∃ x ∈ ok, core = w.coreOf t (x.1 / 32) ∧ ∃ i < n, b.addr = x.2.2.pa + i) →
    R s (s.bufferByte core b))
include hfew hlines hbyte

/-- What holds of each byte that the lanes of a store send to their buffers holds of them all. -/
theorem storeLanes_rel (data : Nat → Nat) (s : State) (hwithin : Within lines s) (hcrew : s.crew = w) :
    R s (ok.foldl (fun s x => s.bufferStore (s.crew.coreOf t (x.1 / 32)) x.2.2 n (data x.1)) s) := by
  refine (foldl_rel (I := fun s => Within lines s ∧ s.crew = w) hrefl htrans ok (fun s hs x hx => ?_) s ⟨hwithin, hcrew⟩).2
  obtain ⟨hwithin, hcrew⟩ := hs
  refine foldl_rel (I := fun s => Within lines s ∧ s.crew = w) hrefl htrans _ (fun s hs b hb => ?_) s ⟨hwithin, hcrew⟩
  obtain ⟨hwithin', hcrew'⟩ := hs
  obtain ⟨b', hb', rfl⟩ := List.mem_map.mp hb
  obtain ⟨i, hi, rfl⟩ := List.mem_map.mp hb'
  have hi := List.mem_range.mp hi
  exact ⟨⟨hwithin'.bufferByte (hlines _ x hx i hi) (hfew _), by rw [State.bufferByte_crew, hcrew']⟩,
    hbyte s _ _ hwithin' hcrew' ⟨x, hx, by rw [hcrew], i, hi, rfl⟩⟩

end Along

theorem acrossPair_of_single {s : State} (hpair : s.crew.pair = false) (t : Team) (j addr : Nat) : s.acrossPair (s.crew.coreOf t j) addr = s := by
  have hcore : s.crew.coreOf t j = s.crew.core := by
    rw [Crew.coreOf, hpair]
    exact if_neg (fun h => Bool.false_ne_true h.1)
  have hnone : s.teamCores.filter (fun k => k != s.crew.coreOf t j) = [] := by
    rw [State.teamCores, Crew.cores, hpair, if_neg Bool.false_ne_true, hcore]
    simp
  rw [State.acrossPair, hnone]
  rfl

/-! ## Room for the lines -/

/-- The lines that a core's buffer would hold with a store's bytes (R244). -/
def storeLines (s : State) (size : Nat) (ls : List LaneAcc) (k : Nat) : List Nat :=
  (((s.core k).wcb.map (fun (b : StoreByte) => b.addr / 128))
    ++ (located ls).flatMap (fun (x : Nat × Nat × Loc) => (List.range size).map (fun i => (x.2.2.pa + i) / 128))).eraseDups

section Room

variable {s : State} {size : Nat} {ls : List LaneAcc}

theorem within_storeLines : Within (storeLines s size ls) s :=
  fun _ _ hx => List.mem_eraseDups.mpr (List.mem_append_left _ (List.mem_map_of_mem hx))

theorem mem_storeLines (k : Nat) {x : Nat × Nat × Loc} (hx : x ∈ located ls) {i : Nat} (hi : i < size) :
    (x.2.2.pa + i) / 128 ∈ storeLines s size ls k :=
  List.mem_eraseDups.mpr (List.mem_append_right _ (List.mem_flatMap.mpr ⟨x, hx, List.mem_map_of_mem (List.mem_range.mpr hi)⟩))

theorem noRoom_of_bufferHolds (hsize : 0 < size) (hholds : Claims.BufferHolds s size ls) : s.noRoom (located ls) = false := by
  rw [State.noRoom, List.any_eq_false]
  intro k _
  have hfew : (storeLines s size ls k).length ≤ 64 := hholds k
  have hmine : s.linesFrom k (located ls) ⊆ storeLines s size ls k := by
    intro line hline
    obtain ⟨x, hx, rfl⟩ := List.mem_map.mp (List.mem_eraseDups.mp hline)
    exact mem_storeLines k (List.mem_filter.mp hx).1 hsize
  have hnodup : ((s.core k).lines ++ (s.linesFrom k (located ls)).filter (fun l => !(s.core k).lines.contains l)).Nodup := by
    refine List.Nodup.append (nodup_eraseDups _) ((nodup_eraseDups _).filter _) fun l hl hl' => ?_
    simpa [hl] using (List.mem_filter.mp hl').2
  have hle := (hnodup.subperm (List.append_subset.mpr ⟨within_storeLines.lines_subset k,
    fun l hl => hmine (List.mem_of_mem_filter hl)⟩)).length_le
  rw [List.length_append] at hle
  have hroom : ¬64 < (s.core k).lines.length + ((s.linesFrom k (located ls)).filter (fun l => !(s.core k).lines.contains l)).length := by omega
  simp only [decide_eq_false hroom, Bool.false_and, Bool.false_eq_true, not_false_eq_true]

end Room

/-! ## The statement, but for the free values -/

theorem typeSize_pos (ty : Nat) : 0 < typeSize ty := by
  unfold typeSize
  split <;> decide

theorem storeLanes_plain (s : State) (t : Team) (ty d : Nat) (ok : List (Nat × Nat × Loc)) : s.storeLanes false t ty d ok =
    ok.foldl (fun s x => s.bufferStore (s.crew.coreOf t (x.1 / 32)) x.2.2 (typeSize ty) (t.storeData ty d x.1)) s := rfl

section StoreLanes

variable {s s1 : State} {t : Team} {ty d : Nat} {ls : List LaneAcc} (hs1 : s1 = s.storeLanes false t ty d (located ls))
include hs1

theorem samePackage_storeLanes : SamePackage s s1 := by
  rw [hs1, storeLanes_plain]
  exact .foldl (fun s _ => samePackage_bufferStore s _ _ _ _) _ s

theorem storeLanes_team : s1.team = s.team := by
  rw [hs1, storeLanes_plain]
  exact State.foldl_keeps _ (·.team) (fun s _ => State.bufferStore_team s _ _ _ _) _ s

variable (hholds : Claims.BufferHolds s (typeSize ty) ls)
include hholds

/-- A byte outside the lines stored to stays as it was, at its home slice and in the buffers. -/
theorem storeLanes_untouched_line {p : Nat} (hp : ¬Claims.InStoredLine (typeSize ty) ls p) : Untouched p s s1 := by
  rw [hs1, storeLanes_plain]
  refine storeLanes_rel (Untouched.refl p) (fun _ _ _ => Untouched.trans) hholds (fun k x hx i hi => mem_storeLines k hx hi)
    (fun v core b hwithin _ hb => ?_) _ s within_storeLines rfl
  obtain ⟨x, hx, -, i, hi, haddr⟩ := hb
  refine untouched_bufferByte hwithin (haddr ▸ mem_storeLines core hx hi) (hholds core) fun hline => hp ⟨x, hx, i, hi, ?_⟩
  rw [InLineOf, haddr] at hline
  exact hline

variable (hpair : s.crew.pair = false)
include hpair

/-- In a crew of one core no byte of memory changes. -/
theorem storeLanes_slice (p : Nat) : s1.sliceByte p = s.sliceByte p := by
  rw [hs1, storeLanes_plain]
  refine storeLanes_rel (R := fun v u => u.sliceByte p = v.sliceByte p) (fun _ => rfl) (fun _ _ _ h h' => h'.trans h) hholds
    (fun k x hx i hi => mem_storeLines k hx hi) (fun v core b hwithin hcrew hb => ?_) _ s within_storeLines rfl
  obtain ⟨x, hx, hcore, i, hi, haddr⟩ := hb
  refine sliceByte_bufferByte hwithin (haddr ▸ mem_storeLines core hx hi) (hholds core) ?_ p
  rw [hcore, ← hcrew]
  exact acrossPair_of_single (hcrew ▸ hpair) t _ _

/-- In a crew of one core a byte outside the stored addresses is buffered as it was. -/
theorem storeLanes_untouched {p : Nat} (hp : p ∉ Claims.storedAddresses (typeSize ty) ls) : Untouched p s s1 := by
  rw [hs1, storeLanes_plain]
  refine storeLanes_rel (Untouched.refl p) (fun _ _ _ => Untouched.trans) hholds (fun k x hx i hi => mem_storeLines k hx hi)
    (fun v core b hwithin hcrew hb => ?_) _ s within_storeLines rfl
  obtain ⟨x, hx, hcore, i, hi, haddr⟩ := hb
  refine untouched_bufferByte_of_across hwithin (haddr ▸ mem_storeLines core hx hi) (hholds core) (fun heq => hp ?_) ?_
  · refine List.mem_flatMap.mpr ⟨x, hx, List.mem_flatMap.mpr ⟨i, List.mem_range.mpr hi, ?_⟩⟩
    rw [heq, haddr]
    split <;> exact List.mem_cons_self
  · rw [hcore, ← hcrew, acrossPair_of_single (hcrew ▸ hpair) t]
    exact .refl p v

end StoreLanes

/-- The statement of O33 follows if no read ever reports an armed injection; `not_storesTouchOnlyTheirBytes_of_report` is the other case. -/
theorem storesTouchOnlyTheirBytes_of_neverReports (hnever : NeverReports) : Obligations.StoresTouchOnlyTheirBytes := by
  unfold Obligations.StoresTouchOnlyTheirBytes
  intro s b q ty d a e off t hq ht f hf ls s0 hls hs0 hok hactive hall hholds
  have hexec := ((storesComplete s b q 0 ty d a 0 e off t ht).1 f hf ls s0 hls hok).2 hactive hall hs0 |>.1
    (.inr (noRoom_of_bufferHolds (typeSize_pos _) hholds)) _ rfl
  rw [beq_false_of_ne hq] at hexec
  obtain ⟨s1, hs1⟩ : ∃ s1, s1 = s0.storeLanes false t ty.toNat d.toNat (located ls) := ⟨_, rfl⟩
  rw [← hs1] at hexec
  have hpackage := (samePackage_storeLanes hs1).trans (samePackage_touch s1 ls)
  have hteam : (s1.touch ls).team = s0.team := (State.touch_team s1 ls).trans (storeLanes_team hs1)
  have htouch (p : Nat) : Untouched p s1 ((s1.touch ls).withTeam ((s1.touch ls).team.advance f.2.2)) :=
    (Untouched.of_prefetched (prefetched_touch hnever s1 ls)).trans ⟨rfl, fun _ => rfl⟩
  have hcrew : s0.crew = s.crew := hs0 ▸ (samePackage_prepareStore (s.withTeam t) q _).crew
  refine ⟨_, hexec, fun p hp => ?line, fun hpair => ⟨fun p => ?slice, fun core p hp => ?buffered⟩, ?lanes, ?preds, ?system,
    hpackage.crew, hpackage.ctx, hpackage.weights, hpackage.semaphores⟩
  case line =>
    have hline := (storeLanes_untouched_line hs1 hholds hp).trans (htouch p)
    exact ⟨hline.slice, hline.buffered⟩
  case slice => exact (htouch p).slice.trans (storeLanes_slice hs1 hholds (hcrew ▸ hpair) p)
  case buffered => exact ((storeLanes_untouched hs1 hholds (hcrew ▸ hpair) hp).trans (htouch p)).buffered core
  case lanes => rw [State.withTeam_team, hteam]; rfl
  case preds => rw [State.withTeam_team, hteam]; rfl
  case system =>
    rw [State.withTeam_team, hteam]
    exact ⟨rfl, rfl, rfl, rfl, rfl, rfl, rfl, rfl, rfl, rfl, rfl, rfl, rfl, rfl, rfl⟩

end Sys2Proof.Machine
end

section
/-! A read that reports an armed injection in a PREF, and in the walk of a store (R277, R398). -/

namespace Sys2Proof.Machine

/-! ## Where no injection is armed any more -/

theorem walked_injections_nil {s : State} (h : s.dev.injections = []) (c : Context) (die va : Nat) : s.walked c die va = s := if_pos h

theorem fillTlb_injections_nil {s : State} (h : s.dev.injections = []) (c : Context) (k va : Nat) : (s.fillTlb c k va).dev.injections = [] := by
  unfold State.fillTlb
  split
  · exact h
  · split
    · rw [walked_injections_nil h]
      exact h
    · rw [State.modCore_dev, State.fillDieTlb]
      split <;> rw [walked_injections_nil h] <;> exact h

theorem touch_injections_nil {s : State} (h : s.dev.injections = []) (ls : List LaneAcc) : (s.touch ls).dev.injections = [] := by
  unfold State.touch
  induction ls generalizing s with
  | nil => exact h
  | cons x ls ih => exact ih (fillTlb_injections_nil h _ _ _)

theorem hasRead_armed {s : State} {core n : Nat} (harmed : s.dev.injections = [0]) (hfree : s.free 15 0 = true) :
    (s.hasRead core [⟨0, false, false⟩] n).dev.injections = [] := by
  rw [State.hasRead, harmed, if_neg (List.cons_ne_nil 0 [])]
  exact reported_armed harmed hfree

/-! ## PREF -/

/-- A team of one strand and one register, with its first lane active. -/
def loneTeam : Team := { Team.vacant with strands := 1, alloc := 1, mask := 1 }

theorem loneTeam_acting : loneTeam.acting = [0] := by
  show (List.range 32).filter (fun l => (1#1024).getLsbD l) = [0]
  simp only [BitVec.getLsbD_one]
  decide

/-- The package with the first column armed, whose first byte stands at another value than the one it reads as. -/
def armedOver (tick : Nat) : State :=
  { armed tick with team := loneTeam, mem := FMap.set [] 0 (Config.freeByte (tick * 2 ^ 48 + 0) + 1) }

theorem succ_ne_byte (b : Byte) : b + 1 ≠ b := by
  intro h
  have hval := congrArg BitVec.toNat h
  rw [BitVec.toNat_add] at hval
  have hlt := b.isLt
  change (b.toNat + 1) % 2 ^ 8 = b.toNat at hval
  omega

/-- Once the injection has been reported, the byte does not read as before. -/
theorem not_sameMemory_of_report {tick : Nat} {t : State} (hfree : Config.freeBool (tick * 2 ^ 80 + 15 * 2 ^ 72 + 0) = true)
    (hinj : t.dev.injections = []) (hmem : t.mem = (armedOver tick).mem) (hopen : t.openMem = []) (hold : t.bankOld = []) :
    t.sliceByte 0 ≠ (armedOver tick).sliceByte 0 := by
  have hbefore : (armedOver tick).sliceByte 0 = Config.freeByte (tick * 2 ^ 48 + 0) := if_pos ⟨List.mem_singleton_self 0, hfree⟩
  have hnot : ¬(0 / 32 ∈ t.dev.injections ∧ t.free 15 (0 / 32) = true) := by rw [hinj]; exact fun h => List.not_mem_nil h.1
  have hafter : t.sliceByte 0 = Config.freeByte (tick * 2 ^ 48 + 0) + 1 := by
    rw [State.sliceByte, if_neg hnot, hold]
    show t.memByte 0 = _
    rw [State.memByte, hopen, hmem]
    exact FMap.get_set_self _ _ _
  rw [hbefore, hafter]
  exact succ_ne_byte _

theorem armedOver_translate (tick core : Nat) : (armedOver tick).translate core 0 .read = .ok ⟨0, false, false⟩ := by
  have hbase : ((armedOver tick).creg 0).toNat = 0 := rfl
  have hlimit : ((armedOver tick).creg 1).toNat = 2 ^ 40 := rfl
  have hoffset : ((armedOver tick).creg 2).toNat = 0 := rfl
  rw [State.translate, hbase, hlimit, hoffset, State.translateWith, if_neg (by decide), if_pos (by decide), if_neg (by decide)]
  exact if_pos (armed_inMemory tick)

/-- PREF with its first lane at the armed column. -/
theorem armedOver_lanesAt (tick : Nat) : (armedOver tick).lanesAt loneTeam .read (fun lane =>
    addOffset ((loneTeam.srd64 0).toNat + (loneTeam.rd 0 lane).toNat) 0) = [⟨0, 0, .ok ⟨0, false, false⟩⟩] := by
  have haddr : addOffset ((loneTeam.srd64 0).toNat + (loneTeam.rd 0 0).toNat) 0 = 0 := by decide
  rw [State.lanesAt, loneTeam_acting, List.map_singleton, haddr]
  rw [armedOver_translate]

theorem prefetch_first (s : State) (t : Team) : s.prefetch t true [⟨0, 0, .ok ⟨0, false, false⟩⟩] =
    ((s.fillLine (s.crew.coreOf t 0) t.key ⟨0, false, false⟩).hasRead (s.crew.coreOf t 0) [⟨0, false, false⟩] 128).touch
      [⟨0, 0, .ok ⟨0, false, false⟩⟩] := by
  have hlocated : located [⟨0, 0, .ok ⟨0, false, false⟩⟩] = [(0, 0, ⟨0, false, false⟩)] := rfl
  rw [State.prefetch, if_pos rfl, hlocated, List.foldl_cons, List.foldl_nil]
  rfl

section PrefetchFirst

variable (s : State) (t : Team)

theorem prefetch_first_injections (harmed : s.dev.injections = [0]) (hfree : s.free 15 0 = true) :
    (s.prefetch t true [⟨0, 0, .ok ⟨0, false, false⟩⟩]).dev.injections = [] := by
  rw [prefetch_first]
  refine touch_injections_nil (hasRead_armed ?_ ?_) _
  · rw [State.fillLine_dev, harmed]
  · rw [State.free, State.fillLine_tick]
    exact hfree

theorem prefetch_first_mem : (s.prefetch t true [⟨0, 0, .ok ⟨0, false, false⟩⟩]).mem = s.mem := by
  rw [prefetch_first, State.touch_mem, State.hasRead_mem, State.fillLine_mem]

theorem prefetch_first_openMem : (s.prefetch t true [⟨0, 0, .ok ⟨0, false, false⟩⟩]).openMem = s.openMem := by
  rw [prefetch_first, State.touch_openMem, State.hasRead_openMem, State.fillLine_openMem]

theorem prefetch_first_bankOld : (s.prefetch t true [⟨0, 0, .ok ⟨0, false, false⟩⟩]).bankOld = s.bankOld := by
  rw [prefetch_first, State.touch_bankOld, State.hasRead_bankOld, State.fillLine_bankOld]

end PrefetchFirst

/-- The statement of O38 fails if a read at some step reports an injection armed on the first column: PREF's fill of the column changes what
its bytes read as. -/
theorem not_fencesWaitsAndPrefetch_of_report {tick : Nat} (hfree : Config.freeBool (tick * 2 ^ 80 + 15 * 2 ^ 72 + 0) = true) :
    ¬ Obligations.FencesWaitsAndPrefetch := by
  unfold Obligations.FencesWaitsAndPrefetch
  intro h
  obtain ⟨-, -, -, -, -, -, hpref⟩ := h (armedOver tick) false true 0 0 0 0 loneTeam _ _ _ rfl rfl rfl rfl
  have hok : (armedOver tick).team.namesOk [(0 : BitVec 7).toNat] = true := (by decide : loneTeam.namesOk [0] = true)
  obtain ⟨t, hexec, -, hsame, -⟩ := hpref hok
  have hnext := execPref_of_ok (s := armedOver tick) (b := false) (l := true) (a := 0) (c := 0) (u := loneTeam) rfl hok
  have hexec' := hexec.symm.trans hnext
  rw [show ((0 : BitVec 6).toNat) = 0 from rfl, show ((0 : BitVec 7).toNat) = 0 from rfl, armedOver_lanesAt] at hexec'
  have ht := Host.Outcome.next.inj hexec'
  have hstate : ∀ v : State, t = v.withTeam (loneTeam.advance 1) →
      t.dev = v.dev ∧ t.mem = v.mem ∧ t.openMem = v.openMem ∧ t.bankOld = v.bankOld := by
    rintro v rfl
    exact ⟨rfl, rfl, rfl, rfl⟩
  obtain ⟨hdev, hmem, hopen, hold⟩ := hstate _ ht
  exact not_sameMemory_of_report hfree ((congrArg Device.injections hdev).trans (prefetch_first_injections _ _ rfl hfree))
    (hmem.trans (prefetch_first_mem _ _)) (hopen.trans (prefetch_first_openMem _ _)) (hold.trans (prefetch_first_bankOld _ _)) (hsame 0)

/-! ## The walk of a store -/

theorem reported_injections_nil {s : State} (h : s.dev.injections = []) (p n : Nat) : (s.reported p n).dev.injections = [] := by
  unfold State.reported
  simp [h]

theorem foldl_reported_nil {s : State} (h : s.dev.injections = []) (ps : List Nat) :
    (ps.foldl (fun s p => s.reported p 8) s).dev.injections = [] := by
  induction ps generalizing s with
  | nil => exact h
  | cons p ps ih => exact ih (reported_injections_nil h p 8)

section Walk

variable {s : State} {c : Context} (harmed : s.dev.injections = [0]) (hfree : s.free 15 0 = true) (hroot : c.root = 0)
include harmed hfree hroot

/-- A walk from a table at the armed column reads it. -/
theorem walked_armed (die : Nat) : (s.walked c die 0).dev.injections = [] := by
  obtain ⟨rest, hslots⟩ : ∃ rest, s.walkSlots die 0 walkLevels c.root = 0 :: rest := by
    rw [hroot, walkLevels, State.walkSlots]
    exact ⟨_, rfl⟩
  rw [State.walked, harmed, if_neg (List.cons_ne_nil 0 []), hslots]
  exact foldl_reported_nil (reported_armed harmed hfree) rest

theorem fillTlb_armed (hwindow : (c.regs.get 1).toNat = 0) (k : Nat) : (s.fillTlb c k 0).dev.injections = [] := by
  have houtside : inWindow (c.regs.get 0).toNat (c.regs.get 1).toNat 0 = false := by rw [inWindow, hwindow]; simp
  rw [State.fillTlb, houtside, if_neg Bool.false_ne_true]
  split
  · exact walked_armed harmed hfree hroot _
  · rw [State.modCore_dev, State.fillDieTlb]
    split <;> exact walked_armed harmed hfree hroot _

end Walk

theorem touch_armed {s : State} (harmed : s.dev.injections = [0]) (hfree : s.free 15 0 = true) (hroot : s.ctx.root = 0)
    (hwindow : (s.ctx.regs.get 1).toNat = 0) {u : Team} {r : Except Nat Loc} : ((s.touch [⟨0, 0, r⟩]).withTeam u).dev.injections = [] := by
  rw [State.withTeam_dev, State.touch, List.foldl_cons, List.foldl_nil]
  exact fillTlb_armed harmed hfree hroot hwindow _

/-- The package with the first column armed, a page table there, and a translation of the first page held by the die's TLB. -/
def armedTable (tick : Nat) : State :=
  { armedOver tick with
    ctx := { State.reset.ctx with state := .running }
    dieTlbs := [(0, [⟨0, 0, 65536, 65551⟩])] }

/-- The location to which the held translation leads. -/
def heldLoc : Loc := ⟨65536, false, false⟩

theorem armedTable_translate {tick : Nat} (hheld : Config.freeBool (tick * 2 ^ 80 + 3 * 2 ^ 72 + 0) = true) :
    (armedTable tick).translate 0 0 .write = .ok heldLoc := by
  have hbase : ((armedTable tick).creg 0).toNat = 0 := rfl
  have hlimit : ((armedTable tick).creg 1).toNat = 0 := rfl
  have hentry : (armedTable tick).heldFor (armedTable tick).ctx 0 0 = some ⟨0, 0, 65536, 65551⟩ := rfl
  have hleaf : (armedTable tick).leafBeside (armedTable tick).ctx (dieOf 0) 0 (some ⟨0, 0, 65536, 65551⟩) = .ok (65551, 65536) := by
    rw [State.leafBeside]
    by_cases hnow : (armedTable tick).walk (armedTable tick).ctx (dieOf 0) 0 = .ok (65551, 65536)
    · rw [hnow]
      exact ite_self _
    · exact if_pos ⟨hnow, hheld⟩
  rw [State.translate, hbase, hlimit, hentry, State.translateWith, if_neg (by decide), if_neg (by decide), hleaf]
  decide

theorem armedTable_lanesAt {tick : Nat} (hheld : Config.freeBool (tick * 2 ^ 80 + 3 * 2 ^ 72 + 0) = true) :
    (armedTable tick).lanesAt loneTeam .write (loneTeam.laneAddr 0 0 0) = [⟨0, 0, .ok heldLoc⟩] := by
  have haddr : loneTeam.laneAddr 0 0 0 0 = 0 := by decide
  have hcore : (armedTable tick).crew.coreOf loneTeam (0 / 32) = 0 := rfl
  rw [State.lanesAt, loneTeam_acting, List.map_singleton, haddr, hcore, armedTable_translate hheld]

theorem armedTable_prepareStore (tick : Nat) (spans : List (Nat × Nat)) :
    ((armedTable tick).withTeam loneTeam).prepareStore 0 spans = armedTable tick := rfl

theorem armedTable_bufferHolds (tick : Nat) : Claims.BufferHolds (armedTable tick) 1 [⟨0, 0, .ok heldLoc⟩] := by
  intro core
  have hwcb : ((armedTable tick).core core).wcb = [] := rfl
  rw [hwcb]
  decide

/-- A store that only enters an empty buffer leaves memory and what is armed as they were. -/
theorem bufferByte_of_empty {s : State} {core : Nat} {b : StoreByte} (hacross : s.acrossPair core b.addr = s) (hempty : (s.core core).wcb = []) :
    (s.bufferByte core b).dev = s.dev ∧ (s.bufferByte core b).mem = s.mem ∧ (s.bufferByte core b).openMem = s.openMem
      ∧ (s.bufferByte core b).bankOld = s.bankOld := by
  have hroom : (s.core core).full (b.addr / 128) = false := by
    rw [CoreState.full, CoreState.lines, CoreState.linesWith, hempty]
    rfl
  rw [State.bufferByte_of_room hacross.symm hroom, hempty]
  exact ⟨rfl, rfl, rfl, rfl⟩

theorem storeLanes_first (s : State) (t : Team) : s.storeLanes false t 0 0 [(0, 0, heldLoc)] =
    s.bufferByte (s.crew.coreOf t 0) { (⟨65536 + 0, BitVec.ofNat 8 (t.storeData 0 0 0 / 2 ^ (8 * 0)), false, s.team.key, s.crew.coreOf t 0, [],
      [], 0⟩ : StoreByte) with since := s.tick } := by
  rw [storeLanes_plain, List.foldl_cons, List.foldl_nil, State.bufferStore, storeBytes]
  have hone : List.range (typeSize 0) = [0] := rfl
  rw [hone, List.map_singleton, List.map_singleton, List.foldl_cons, List.foldl_nil]
  rfl

theorem armedTable_stored (tick : Nat) : ((armedTable tick).storeLanes false loneTeam 0 0 [(0, 0, heldLoc)]).dev = (armedTable tick).dev
    ∧ ((armedTable tick).storeLanes false loneTeam 0 0 [(0, 0, heldLoc)]).mem = (armedTable tick).mem
    ∧ ((armedTable tick).storeLanes false loneTeam 0 0 [(0, 0, heldLoc)]).openMem = (armedTable tick).openMem
    ∧ ((armedTable tick).storeLanes false loneTeam 0 0 [(0, 0, heldLoc)]).bankOld = (armedTable tick).bankOld := by
  rw [storeLanes_first]
  exact bufferByte_of_empty (acrossPair_of_single rfl _ _ _) rfl

theorem armedTable_reports {tick : Nat} {s t : State} {u : Team} {r : Except Nat Loc}
    (hfree : Config.freeBool (tick * 2 ^ 80 + 15 * 2 ^ 72 + 0) = true) (hdev : s.dev = (armedTable tick).dev)
    (hmem : s.mem = (armedTable tick).mem) (hopen : s.openMem = (armedTable tick).openMem) (hold : s.bankOld = (armedTable tick).bankOld)
    (hpackage : SamePackage (armedTable tick) s) (ht : t = (s.touch [⟨0, 0, r⟩]).withTeam u) : t.sliceByte 0 ≠ (armedOver tick).sliceByte 0 := by
  refine not_sameMemory_of_report hfree ?_ ?_ ?_ ?_
  · rw [ht]
    refine touch_armed (congrArg Device.injections hdev) ?_ (congrArg Context.root hpackage.ctx)
      (congrArg (fun c => (c.regs.get 1).toNat) hpackage.ctx)
    rw [State.free, hpackage.tick]
    exact hfree
  · rw [ht]
    exact (State.touch_mem _ _).trans hmem
  · rw [ht]
    exact (State.touch_openMem _ _).trans hopen
  · rw [ht]
    exact (State.touch_bankOld _ _).trans hold

/-- The statement of O33 fails if a read at some step reports an injection armed on the first column and a held translation counts at that
step: the walk with which the store's translation enters the TLBs changes what the column's bytes read as. -/
theorem not_storesTouchOnlyTheirBytes_of_report {tick : Nat} (hfree : Config.freeBool (tick * 2 ^ 80 + 15 * 2 ^ 72 + 0) = true)
    (hheld : Config.freeBool (tick * 2 ^ 80 + 3 * 2 ^ 72 + 0) = true) : ¬ Obligations.StoresTouchOnlyTheirBytes := by
  unfold Obligations.StoresTouchOnlyTheirBytes
  intro h
  have hok : (armedTable tick).team.namesOk (accessNames 0 0 0) = true := (by decide : loneTeam.namesOk [0, 0] = true)
  have hactive : loneTeam.acting ≠ [] := by rw [loneTeam_acting]; exact List.cons_ne_nil _ _
  have hall : Claims.AllLocated 1 [⟨0, 0, .ok heldLoc⟩] := fun x hx => by
    rw [List.mem_singleton.mp hx]
    exact ⟨rfl, by decide, heldLoc, rfl⟩
  have hf : ((.st false 0 0 0 0 0, 0, 1) : Claims.Form) ∈ Claims.stForms false 0 0 0 0 0 0 := List.mem_cons_self
  have hls := (armedTable_lanesAt hheld).symm
  have hs0 := (armedTable_prepareStore tick (spansOf 1 (located [⟨0, 0, .ok heldLoc⟩]))).symm
  have hholds := armedTable_bufferHolds tick
  obtain ⟨t, hexec, -, hsame, -⟩ := h (armedTable tick) false 0 0 0 0 0 0 loneTeam (by decide) rfl _ hf _ _ hls hs0 hok hactive hall hholds
  have hnext := ((storesComplete (armedTable tick) false 0 0 0 0 0 0 0 0 loneTeam rfl).1 _ hf _ _ hls hok).2 hactive hall hs0 |>.1
    (.inr (noRoom_of_bufferHolds Nat.one_pos hholds)) _ rfl
  obtain ⟨hdev, hmem, hopen, hold⟩ := armedTable_stored tick
  have hpackage := samePackage_storeLanes (s := armedTable tick) (t := loneTeam) (ty := 0) (d := 0) (ls := [⟨0, 0, .ok heldLoc⟩]) rfl
  have hslice : (armedTable tick).sliceByte 0 = (armedOver tick).sliceByte 0 := sliceByte_congr rfl rfl rfl rfl rfl rfl 0
  have hread := ((hsame rfl).1 0).trans hslice
  have ht := Host.Outcome.next.inj (hexec.symm.trans hnext)
  exact armedTable_reports hfree hdev hmem hopen hold hpackage ht hread

end Sys2Proof.Machine
end
